-- ==== Sys2Proof/Word.lean ====
section
/-! DEFINITION. The 32-bit word of the GN9 with its residue nibble (R2, R220, R221), bytes and lines. -/

namespace Sys2Proof

/-- One byte. -/
abbrev Byte := BitVec 8

/-- A 64-bit address or value (virtual addresses have 53 significant bits, R175). -/
abbrev Addr := BitVec 64

/-- A 32-bit word held anywhere in the device, with its 4-bit residue (R2).
`res = 15` is poison (R220): the data bits of such a word are unspecified. -/
structure Word where
  data : BitVec 32
  res  : BitVec 4
deriving DecidableEq, Repr

/-- R220: the residue of a 32-bit word is its unsigned value modulo 15. -/
def resOf (x : BitVec 32) : BitVec 4 := BitVec.ofNat 4 (x.toNat % 15)

namespace Word

/-- A word with the residue of its data. -/
def ofData (x : BitVec 32) : Word := ⟨x, resOf x⟩

/-- The zero word with residue 0 (R103). -/
def zero : Word := ⟨0, 0⟩

/-- The model's one representative of a poisoned word (R233: no result depends on its data bits). -/
def poison : Word := ⟨0, 15⟩

/-- R220: the code 0b1111. -/
def isPoison (w : Word) : Bool := w.res == 15

/-- A word passes a residue check when it is poison or its nibble is the residue of its data (R224). -/
def checks (w : Word) : Bool := w.res == 15 || w.res == resOf w.data

end Word

end Sys2Proof
end

