-- ==== Sys2Proof/Config.lean ====
section
/-! DEFINITION. Constants of the package (R11) and the free values: what the manual leaves open is an opaque
function here, so that nothing in Lean can evaluate it (the assumption log names each). -/

namespace Sys2Proof.Config

/-- Free value: the data bits of a poisoned word (R22, R233), read only by `rgen` (R340). -/
opaque freeData : Nat → BitVec 32
/-- Free value: the order in which the lanes of one atomic instruction reach their homes (R203). -/
opaque freeOrder : Nat → Nat
/-- Free value: which of the two neighbours of the exact value `frsq.f32` returns (R300: within 1 ulp). -/
opaque frsq32Up : BitVec 32 → Bool
/-- Free value: the same for `frsq.f64`. -/
opaque frsq64Up : BitVec 64 → Bool
/-- Free value: the offset in ulp of `fex2.f32` from the correctly rounded value (R300: within 2 ulp). -/
opaque fex2Off : BitVec 32 → Int
/-- Free value: the offset in ulp of `flg2.f32` (R300). -/
opaque flg2Off : BitVec 32 → Int
/-- Free value: the error of `fsin.f32`, in units of 2^−40 (R300: at most 2^−21). -/
opaque fsinErr : BitVec 32 → Int
/-- Free value: the error of `fcos.f32`, in units of 2^−40. -/
opaque fcosErr : BitVec 32 → Int
/-- Free value: the keys Twin Star draws for a key slot (R63 KEY_GEN); the generation number names them. -/
opaque keyMaterial : Nat → BitVec 512
/-- The AES-256 block cipher (R12, R21), a standard function the manual names and does not define. -/
opaque aes256 : BitVec 256 → BitVec 128 → BitVec 128
/-- Free value: which of the lines a full cache could give up it gives up (R11, R181): the manual names no replacement rule. -/
opaque freeVictim : Nat → Nat
/-- The device identity (R65 `dev_id`). -/
opaque devId : BitVec 64
/-- The MAC address of port `p` (R36): 0–1 host, 2–9 fabric. -/
opaque mac : Nat → BitVec 48
/-- SHAKE256 with a 512-bit output (R73), a standard function the manual names and does not define. -/
opaque shake256 : List Byte → BitVec 512
/-- Verification of a Falcon-1024 signature against the Rondaja firmware key (R72). -/
opaque falconVerify : BitVec 512 → List Byte → Bool
/-- A 1,280-byte padded Falcon-1024 signature by the identity key (R73). -/
opaque falconSign : BitVec 512 → BitVec 10240
/-- The identity public key's bytes (R73). -/
opaque identityKey : List Byte
/-- The configuration block of the running firmware image (R44): the value it holds for a field of port `p`'s record, if it
holds one. Fields: 0 `ip6`, 1 `ip6_len`, 2 `ip4_len`, 3 `ip4`, 4 `gw6`, 5 `gw4`, 6–8 `allow` entries 1–3. -/
opaque fwField : Nat → Nat → Option Nat
/-- The items a measurement register has been extended with when the package leaves reset (R73): the boot ROM's first stage, the
firmware images and the routing tables as first loaded. -/
opaque bootItems : Nat → List (List Byte)
/-- Free value: the partition of a peer device that uses an imported handle (R54, R58). No field of a Perit frame carries it (R55). -/
opaque importer : BitVec 16 → BitVec 32 → Nat
/-- Free value: whether the decoder of a base die miscorrects a codeword of a line with more than eight wrong symbols (R21), and then how many
symbols it corrects and the words it finds; else it reports UNCORRECTABLE. -/
opaque miscorrected : Nat → List Nat → Option (Nat × List Word)
/-- Firmware threshold of corrected symbols per DRAM row (R25). -/
opaque rowThreshold : Nat
/-- The row of a channel in which the base die places a line (R174: invisible to software). -/
opaque rowOfLine : Nat → Nat

/-- Dies in the package (R9). -/
def dies : Nat := 8
/-- Lines of a core's L1, of its instruction cache, and of an L2 slice (R11): 256 KiB, 128 KiB and 2 MiB of 128 bytes. -/
def l1Lines : Nat := 2048
def icacheLines : Nat := 1024
def l2Lines : Nat := 16384
/-- Enabled cores of a die (R11). -/
def coresPerDie : Nat := 64
/-- The hub's mesh node (R10). -/
def hubNode : Nat := 8
/-- Key slots (R11). -/
def keySlots : Nat := 8192
/-- The queue starvation interval as shipped, in ns (R96). -/
def starvationNs : Nat := 100000

end Sys2Proof.Config
end

