-- ==== Sys2Proof/Syntax.lean ====
section
/-! DEFINITION. The instruction set: the payloads of the hardware steps and the one inductive `Instr`. -/

namespace Sys2Proof

/-- A group of a resident team: the die, the logical core (R70), the resident-team slot k and the group slot. -/
structure GroupRef where
  die  : Nat
  core : Nat
  slot : Nat
  grp  : Nat
deriving DecidableEq, Repr

/-- The header flit of a mesh packet (R26), field by field. -/
structure MeshHdr where
  cls    : BitVec 4
  src    : BitVec 4
  dst    : BitVec 4
  mtype  : BitVec 4
  nflits : BitVec 5
  txn    : BitVec 10
  hpar   : BitVec 1
  paWord : BitVec 50
  key    : BitVec 13
  lc5    : BitVec 1
  aux    : BitVec 32
deriving DecidableEq, Repr

/-- A mesh packet: the header flit and the data flits, each eight words with their residues (R26, R27). -/
structure Packet where
  hdr   : MeshHdr
  flits : List (List Word)
deriving DecidableEq, Repr

/-- A request on a stack port (R14, R15): the channel is that of slice `slice` of die `die` (R174). -/
structure StackReq where
  die   : Nat
  slice : Nat
  hdr   : BitVec 128
  block : List Word
deriving DecidableEq, Repr

/-- A reply on a stack port (R16). -/
structure StackReply where
  die   : Nat
  slice : Nat
  hdr   : BitVec 128
  block : List Word
deriving DecidableEq, Repr

/-- An Ethernet frame at a port (R35): 0–1 host ports, 2–9 fabric ports; the fields the port looks at. -/
structure EthFrame where
  port    : Nat
  dstMac  : BitVec 48
  srcMac  : BitVec 48
  /-- the IEEE 802.1Q tags before the EtherType (R34) -/
  tags    : List (BitVec 16)
  etype   : BitVec 16
  payload : List Byte
deriving DecidableEq, Repr

/-- A THT packet as it arrives at a host port (R39): addresses of the IP and UDP headers, CE mark, 802.1Q tag,
the 32-byte THT header, payload and CRC-32C trailer. An IPv4 source stands as an IPv4-mapped IPv6 address. -/
structure ThtPacket where
  port    : Nat
  srcIp   : BitVec 128
  srcUdp  : BitVec 16
  dstIp   : BitVec 128
  dstUdp  : BitVec 16
  ce      : Bool
  tag     : Option (BitVec 16)
  hdr     : BitVec 256
  payload : List Byte
  crc     : BitVec 32
deriving DecidableEq, Repr

/-- A Perit frame at a fabric port (R55): frame header, mesh packets and CRC-32C. -/
structure PeritFrame where
  port    : Nat
  hdr     : BitVec 128
  packets : List Packet
  crc     : BitVec 32
deriving DecidableEq, Repr

/-- A management request as Twin Star serves it (R62): the path and the packet it came in, and its payload's fields. -/
structure MgmtReq where
  path : Nat
  psn  : BitVec 24
  port : Nat
  srcIp : BitVec 128
  srcUdp : BitVec 16
  tag  : Option (BitVec 16)
  mop  : BitVec 16
  part : BitVec 8
  rsv  : BitVec 40
  arg  : BitVec 64
  body : List Byte
deriving DecidableEq, Repr

/-- What a routing rewrite works around (R32): a lost die or a lost link. -/
inductive Lost where
  | die (d : Nat)
  | link (l : Nat)
deriving DecidableEq, Repr

/-- One constructor per row of the opcode table: the 176 encoded instructions of both halves with the fields of their
words (R252, R254), then the hardware steps that have no word, each with the data that step acts on. -/
inductive Instr where
  /-- V_ADD (R271): Per-lane wrapping add of va and vb, type selected by fn[1:0]. -/
  | vAdd (d : BitVec 6) (a : BitVec 6) (b : BitVec 6) (t : BitVec 2) (p : BitVec 3)
  /-- V_SUB (R271): Per-lane wrapping subtract of vb from va, type selected by fn[1:0]. -/
  | vSub (d : BitVec 6) (a : BitVec 6) (b : BitVec 6) (t : BitVec 2) (p : BitVec 3)
  /-- V_ADDX (R273): Per-lane add with carry in and carry out through p6. -/
  | vAddx (d : BitVec 6) (a : BitVec 6) (b : BitVec 6) (p : BitVec 3)
  /-- V_SUBX (R273): Per-lane subtract with borrow in and borrow out through p6. -/
  | vSubx (d : BitVec 6) (a : BitVec 6) (b : BitVec 6) (p : BitVec 3)
  /-- V_MUL (R271): Per-lane low half of a 32- or 64-bit product. -/
  | vMul (d : BitVec 6) (a : BitVec 6) (b : BitVec 6) (t : BitVec 1) (p : BitVec 3)
  /-- V_MULH (R271): Per-lane high 32 bits of the unsigned or signed product. -/
  | vMulh (d : BitVec 6) (a : BitVec 6) (b : BitVec 6) (s : BitVec 1) (p : BitVec 3)
  /-- V_MAD (R274): Per-lane low 32 bits of va times vb plus the old vd. -/
  | vMad (d : BitVec 6) (a : BitVec 6) (b : BitVec 6) (p : BitVec 3)
  /-- V_MADW (R274): Per-lane 64-bit multiply-add into the pair vd:vd+1. -/
  | vMadw (d : BitVec 6) (a : BitVec 6) (b : BitVec 6) (s : BitVec 1) (p : BitVec 3)
  /-- V_SAD (R272): Per-lane absolute difference added to the old vd. -/
  | vSad (d : BitVec 6) (a : BitVec 6) (b : BitVec 6) (s : BitVec 1) (p : BitVec 3)
  /-- V_ABS (R272): Per-lane absolute value of a signed 32-bit word. -/
  | vAbs (d : BitVec 6) (a : BitVec 6) (p : BitVec 3)
  /-- V_NEG_I32 (R272): Per-lane 32-bit negation. -/
  | vNegI32 (d : BitVec 6) (a : BitVec 6) (p : BitVec 3)
  /-- V_NEG_I64 (R272): Per-lane 64-bit negation of a register pair. -/
  | vNegI64 (d : BitVec 6) (a : BitVec 6) (p : BitVec 3)
  /-- V_BFX_N32 (R277): Per-lane unsigned bit-field extract. -/
  | vBfxN32 (d : BitVec 6) (a : BitVec 6) (b : BitVec 6) (p : BitVec 3)
  /-- V_BFX_I32 (R277): Per-lane signed bit-field extract. -/
  | vBfxI32 (d : BitVec 6) (a : BitVec 6) (b : BitVec 6) (p : BitVec 3)
  /-- V_BFI (R277): Per-lane bit-field insert into the old vd. -/
  | vBfi (d : BitVec 6) (a : BitVec 6) (b : BitVec 6) (p : BitVec 3)
  /-- V_BPICK (R278): Per-lane byte permute from va and vb under selectors in the old vd. -/
  | vBpick (d : BitVec 6) (a : BitVec 6) (b : BitVec 6) (p : BitVec 3)
  /-- V_MOV_B32 (R279): Per-lane copy of one word with its residue. -/
  | vMovB32 (d : BitVec 6) (a : BitVec 6) (p : BitVec 3)
  /-- V_MOV_B64 (R279): Per-lane copy of a register pair with its residues. -/
  | vMovB64 (d : BitVec 6) (a : BitVec 6) (p : BitVec 3)
  /-- V_MIN (R275): Per-lane minimum, carried class, signed or unsigned, 32 or 64 bits. -/
  | vMin (d : BitVec 6) (a : BitVec 6) (b : BitVec 6) (w : BitVec 1) (s : BitVec 1) (p : BitVec 3)
  /-- V_MAX (R275): Per-lane maximum, carried class, signed or unsigned, 32 or 64 bits. -/
  | vMax (d : BitVec 6) (a : BitVec 6) (b : BitVec 6) (w : BitVec 1) (s : BitVec 1) (p : BitVec 3)
  /-- V_AND (R276): Per-lane bitwise AND. -/
  | vAnd (d : BitVec 6) (a : BitVec 6) (b : BitVec 6) (p : BitVec 3)
  /-- V_OR (R276): Per-lane bitwise OR. -/
  | vOr (d : BitVec 6) (a : BitVec 6) (b : BitVec 6) (p : BitVec 3)
  /-- V_XOR (R276): Per-lane bitwise XOR. -/
  | vXor (d : BitVec 6) (a : BitVec 6) (b : BitVec 6) (p : BitVec 3)
  /-- V_ANDN (R276): Per-lane va AND NOT vb. -/
  | vAndn (d : BitVec 6) (a : BitVec 6) (b : BitVec 6) (p : BitVec 3)
  /-- V_SHL (R276): Per-lane left shift by vb[4:0]. -/
  | vShl (d : BitVec 6) (a : BitVec 6) (b : BitVec 6) (p : BitVec 3)
  /-- V_SHR (R276): Per-lane logical right shift by vb[4:0]. -/
  | vShr (d : BitVec 6) (a : BitVec 6) (b : BitVec 6) (p : BitVec 3)
  /-- V_SAR (R276): Per-lane arithmetic right shift by vb[4:0]. -/
  | vSar (d : BitVec 6) (a : BitVec 6) (b : BitVec 6) (p : BitVec 3)
  /-- V_ROT (R276): Per-lane rotate left by vb[4:0]. -/
  | vRot (d : BitVec 6) (a : BitVec 6) (b : BitVec 6) (p : BitVec 3)
  /-- V_SHF (R276): Per-lane left funnel shift of va:old vd, keeping the upper word. -/
  | vShf (d : BitVec 6) (a : BitVec 6) (b : BitVec 6) (p : BitVec 3)
  /-- V_CLZ (R276): Per-lane count of leading zeros. -/
  | vClz (d : BitVec 6) (a : BitVec 6) (p : BitVec 3)
  /-- V_POPC (R276): Per-lane count of set bits. -/
  | vPopc (d : BitVec 6) (a : BitVec 6) (p : BitVec 3)
  /-- V_BREV (R276): Per-lane bit reversal. -/
  | vBrev (d : BitVec 6) (a : BitVec 6) (p : BitVec 3)
  /-- V_SEL (R282): Per-lane select of va or vb by a lane predicate. -/
  | vSel (d : BitVec 6) (a : BitVec 6) (b : BitVec 6) (w : BitVec 1) (n : BitVec 3) (p : BitVec 3)
  /-- V_CMP (R284): Per-lane integer compare writing a lane predicate dual-rail. -/
  | vCmp (d : BitVec 3) (a : BitVec 6) (b : BitVec 6) (w : BitVec 1) (c : BitVec 3) (p : BitVec 3)
  /-- V_PSET (R286): Per-lane arbitrary function of two predicates by truth table. -/
  | vPset (d : BitVec 3) (a : BitVec 3) (b : BitVec 3) (t : BitVec 4) (p : BitVec 3)
  /-- V_ADDI (R280): Per-lane add of a sign-extended 10-bit immediate. -/
  | vAddi (d : BitVec 6) (a : BitVec 6) (i : BitVec 10) (p : BitVec 3)
  /-- V_ANDI (R280): Per-lane AND with a sign-extended immediate. -/
  | vAndi (d : BitVec 6) (a : BitVec 6) (i : BitVec 10) (p : BitVec 3)
  /-- V_ORI (R280): Per-lane OR with a sign-extended immediate. -/
  | vOri (d : BitVec 6) (a : BitVec 6) (i : BitVec 10) (p : BitVec 3)
  /-- V_XORI (R280): Per-lane XOR with a sign-extended immediate. -/
  | vXori (d : BitVec 6) (a : BitVec 6) (i : BitVec 10) (p : BitVec 3)
  /-- V_SHLI (R280): Per-lane left shift by an immediate count. -/
  | vShli (d : BitVec 6) (a : BitVec 6) (k : BitVec 5) (p : BitVec 3)
  /-- V_SHRI (R280): Per-lane logical right shift by an immediate count. -/
  | vShri (d : BitVec 6) (a : BitVec 6) (k : BitVec 5) (p : BitVec 3)
  /-- V_CMPI (R285): Per-lane compare with a 7-bit immediate writing a predicate. -/
  | vCmpi (d : BitVec 3) (a : BitVec 6) (c : BitVec 3) (i : BitVec 7) (p : BitVec 3)
  /-- V_MOVI (R280): Per-lane move of a sign-extended 16-bit immediate. -/
  | vMovi (d : BitVec 6) (i : BitVec 16) (p : BitVec 3)
  /-- V_MOVL (R281): Per-lane replacement of the low half of vd. -/
  | vMovl (d : BitVec 6) (i : BitVec 16) (p : BitVec 3)
  /-- V_MOVH (R281): Per-lane replacement of the high half of vd. -/
  | vMovh (d : BitVec 6) (i : BitVec 16) (p : BitVec 3)
  /-- V_FADD (R295): Per-lane floating add, rounded once. -/
  | vFadd (d : BitVec 6) (a : BitVec 6) (b : BitVec 6) (r : BitVec 1) (t : BitVec 2) (p : BitVec 3)
  /-- V_FSUB (R295): Per-lane floating subtract, rounded once. -/
  | vFsub (d : BitVec 6) (a : BitVec 6) (b : BitVec 6) (r : BitVec 1) (t : BitVec 2) (p : BitVec 3)
  /-- V_FMUL (R295): Per-lane floating multiply, rounded once. -/
  | vFmul (d : BitVec 6) (a : BitVec 6) (b : BitVec 6) (r : BitVec 1) (t : BitVec 2) (p : BitVec 3)
  /-- V_FMA (R295): Per-lane fused multiply-add into vd with one rounding. -/
  | vFma (d : BitVec 6) (a : BitVec 6) (b : BitVec 6) (r : BitVec 1) (t : BitVec 2) (p : BitVec 3)
  /-- V_FMIN (R296): Per-lane minimumNumber. -/
  | vFmin (d : BitVec 6) (a : BitVec 6) (b : BitVec 6) (t : BitVec 2) (p : BitVec 3)
  /-- V_FMAX (R296): Per-lane maximumNumber. -/
  | vFmax (d : BitVec 6) (a : BitVec 6) (b : BitVec 6) (t : BitVec 2) (p : BitVec 3)
  /-- V_FNEG (R296): Per-lane sign inversion with predicted residue. -/
  | vFneg (d : BitVec 6) (a : BitVec 6) (t : BitVec 2) (p : BitVec 3)
  /-- V_FABS (R296): Per-lane sign clearing with predicted residue. -/
  | vFabs (d : BitVec 6) (a : BitVec 6) (t : BitVec 2) (p : BitVec 3)
  /-- V_FCMP (R297): Per-lane floating compare writing a predicate. -/
  | vFcmp (d : BitVec 3) (a : BitVec 6) (b : BitVec 6) (c : BitVec 3) (t : BitVec 1) (p : BitVec 3)
  /-- V_FCLASS (R298): Per-lane one-hot classification of a floating value. -/
  | vFclass (d : BitVec 6) (a : BitVec 6) (t : BitVec 1) (p : BitVec 3)
  /-- V_FRCP (R300): Per-lane long-latency reciprocal. -/
  | vFrcp (d : BitVec 6) (a : BitVec 6) (t : BitVec 2) (l : BitVec 4) (p : BitVec 3)
  /-- V_FRSQ (R300): Per-lane long-latency reciprocal square root. -/
  | vFrsq (d : BitVec 6) (a : BitVec 6) (t : BitVec 2) (l : BitVec 4) (p : BitVec 3)
  /-- V_FSQRT (R300): Per-lane long-latency square root. -/
  | vFsqrt (d : BitVec 6) (a : BitVec 6) (t : BitVec 2) (l : BitVec 4) (p : BitVec 3)
  /-- V_FEX2 (R300): Per-lane long-latency base-2 exponential. -/
  | vFex2 (d : BitVec 6) (a : BitVec 6) (t : BitVec 2) (l : BitVec 4) (p : BitVec 3)
  /-- V_FLG2 (R300): Per-lane long-latency base-2 logarithm. -/
  | vFlg2 (d : BitVec 6) (a : BitVec 6) (t : BitVec 2) (l : BitVec 4) (p : BitVec 3)
  /-- V_FSIN (R300): Per-lane long-latency sine. -/
  | vFsin (d : BitVec 6) (a : BitVec 6) (t : BitVec 2) (l : BitVec 4) (p : BitVec 3)
  /-- V_FCOS (R300): Per-lane long-latency cosine. -/
  | vFcos (d : BitVec 6) (a : BitVec 6) (t : BitVec 2) (l : BitVec 4) (p : BitVec 3)
  /-- V_FDIV (R299): Per-lane correctly rounded division holding group issue. -/
  | vFdiv (d : BitVec 6) (a : BitVec 6) (b : BitVec 6) (t : BitVec 2) (p : BitVec 3)
  /-- V_FSCALE (R299): Per-lane multiply by a power of two given as an integer. -/
  | vFscale (d : BitVec 6) (a : BitVec 6) (b : BitVec 6) (t : BitVec 2) (p : BitVec 3)
  /-- V_FRND (R299): Per-lane round to an integral value in a named mode. -/
  | vFrnd (d : BitVec 6) (a : BitVec 6) (m : BitVec 2) (t : BitVec 2) (p : BitVec 3)
  /-- V_CVT (R303): Per-lane conversion between wide float and integer formats. -/
  | vCvt (d : BitVec 6) (a : BitVec 6) (r : BitVec 1) (s : BitVec 4) (t : BitVec 4) (p : BitVec 3)
  /-- V_CVTN_PK (R304): Per-lane pack of a scaled binary32 value into narrow element k of vd. -/
  | vCvtnPk (d : BitVec 6) (a : BitVec 6) (b : BitVec 6) (k : BitVec 3) (p : BitVec 3)
  /-- V_CVTN_UNPK (R304): Per-lane decode of narrow element k times a scale into binary32. -/
  | vCvtnUnpk (d : BitVec 6) (a : BitVec 6) (b : BitVec 6) (k : BitVec 3) (p : BitVec 3)
  /-- V_CVTW (R305): Per-lane widening or saturating narrowing of an 8- or 16-bit integer field. -/
  | vCvtw (d : BitVec 6) (a : BitVec 6) (w : BitVec 1) (n : BitVec 1) (s : BitVec 1) (k : BitVec 2) (p : BitVec 3)
  /-- V_LXCH (R288): Lane exchange of va between active slots, all lanes or none. -/
  | vLxch (d : BitVec 6) (a : BitVec 6) (b : BitVec 6) (m : BitVec 2) (p : BitVec 3)
  /-- V_POLL (R289): Vote over a predicate of the active lanes, writing mask, count or predicate. -/
  | vPoll (d : BitVec 6) (a : BitVec 3) (m : BitVec 3) (p : BitVec 3)
  /-- V_LFOLD (R290): Tree reduction of va over active lanes written to every active lane. -/
  | vLfold (d : BitVec 6) (a : BitVec 6) (f : BitVec 4) (p : BitVec 3)
  /-- V_LD (R310): Per-lane global load of 1 to 16 bytes with lookahead. -/
  | vLd (s : BitVec 3) (t : BitVec 6) (a : BitVec 6) (b : BitVec 6) (l : BitVec 4) (p : BitVec 3)
  /-- V_ST (R311): Per-lane global store of 1 to 16 bytes. -/
  | vSt (t : BitVec 6) (a : BitVec 6) (b : BitVec 6) (z : BitVec 3) (p : BitVec 3)
  /-- V_CPY (R312): 8-byte store to the copy aperture that starts a copy job per lane. -/
  | vCpy (t : BitVec 6) (a : BitVec 6) (b : BitVec 6) (p : BitVec 3)
  /-- V_ATOM (R315): Per-lane atomic at the home slice returning the old value. -/
  | vAtom (t : BitVec 6) (a : BitVec 6) (s : BitVec 3) (o : BitVec 3) (k : BitVec 4) (p : BitVec 3)
  /-- V_RED (R316): Per-lane reduction at the home or into an L1 partial, returning nothing. -/
  | vRed (t : BitVec 6) (a : BitVec 6) (s : BitVec 3) (o : BitVec 3) (k : BitVec 4) (p : BitVec 3)
  /-- V_PREF_L1 (R319): Per-lane prefetch of a line into L1 that never traps. -/
  | vPrefL1 (a : BitVec 6) (b : BitVec 6) (p : BitVec 3)
  /-- V_PREF_L2 (R319): Per-lane prefetch of a line into its home slice. -/
  | vPrefL2 (a : BitVec 6) (b : BitVec 6) (p : BitVec 3)
  /-- V_DISC (R319): Per-lane discard of a 128-byte line as a write of zeros. -/
  | vDisc (a : BitVec 6) (b : BitVec 6) (p : BitVec 3)
  /-- V_LDS (R313): Per-lane load from the team scratchpad. -/
  | vLds (t : BitVec 6) (a : BitVec 6) (z : BitVec 2) (o : BitVec 4) (l : BitVec 4) (p : BitVec 3)
  /-- V_LDCL (R313): Per-lane load from another team's scratchpad in the cluster. -/
  | vLdcl (t : BitVec 6) (a : BitVec 6) (z : BitVec 2) (o : BitVec 4) (l : BitVec 4) (p : BitVec 3)
  /-- V_STS (R313): Per-lane store to the team scratchpad. -/
  | vSts (t : BitVec 6) (a : BitVec 6) (o : BitVec 6) (z : BitVec 3) (p : BitVec 3)
  /-- V_STCL (R313): Per-lane store to a cluster team's scratchpad. -/
  | vStcl (t : BitVec 6) (a : BitVec 6) (o : BitVec 6) (z : BitVec 3) (p : BitVec 3)
  /-- V_BD (R138): Divergent branch that splits the team or group into paths with a join. -/
  | vBd (c : BitVec 3) (t : BitVec 11) (j : BitVec 11)
  /-- V_BU (R146): Asserted-uniform branch on a lane predicate. -/
  | vBu (c : BitVec 3) (d : BitVec 22)
  /-- V_JMPI (R147): Indirect per-lane jump served target by target with a pad tag check. -/
  | vJmpi (a : BitVec 6) (t : BitVec 8) (j : BitVec 11)
  /-- V_CALLI (R147): Indirect per-lane call with tag check and link push. -/
  | vCalli (a : BitVec 6) (t : BitVec 8) (s : BitVec 6)
  /-- V_PAD (R354): Landing pad carrying a type tag; does nothing when issued. -/
  | vPad (t : BitVec 8)
  /-- V_EXIT (R357): Lane exit clearing the active lanes from EXEC and BIND. -/
  | vExit (p : BitVec 3)
  /-- V_MMA (R331): Posts a matrix multiply-accumulate job into an accumulator tile. -/
  | vMma (a : BitVec 6) (b : BitVec 6) (c : BitVec 8) (r : BitVec 1) (k : BitVec 4)
  /-- V_MZERO (R334): Posts a job that zeroes an accumulator tile. -/
  | vMzero (c : BitVec 8) (k : BitVec 4)
  /-- V_MLD (R334): Posts a job that loads a tile from global memory or scratchpad. -/
  | vMld (b : BitVec 6) (c : BitVec 8) (r : BitVec 1) (k : BitVec 4)
  /-- V_MST (R334): Posts a job that stores a tile to global memory or scratchpad. -/
  | vMst (b : BitVec 6) (c : BitVec 8) (r : BitVec 1) (k : BitVec 4)
  /-- V_MDRAIN (R336): Posts a job that drains a tile into an output format with scales and trailer. -/
  | vMdrain (a : BitVec 6) (b : BitVec 6) (c : BitVec 8) (z : BitVec 1) (k : BitVec 4)
  /-- V_TCHECK (R338): Per-lane check of a drained tile's trailer CRC and fields. -/
  | vTcheck (t : BitVec 6) (a : BitVec 6) (b : BitVec 6) (p : BitVec 3)
  /-- V_CHSEND (R326): Sends one 128-byte slot on a dataflow channel for the group. -/
  | vChsend (a : BitVec 6) (c : BitVec 6) (p : BitVec 3)
  /-- V_CHRECV (R326): Receives one slot from a dataflow channel for the group. -/
  | vChrecv (d : BitVec 6) (c : BitVec 6) (p : BitVec 3)
  /-- V_RCHK (R340): Source-checks n consecutive registers per lane. -/
  | vRchk (a : BitVec 6) (n : BitVec 6) (p : BitVec 3)
  /-- V_RPOIS (R340): Writes poison into a register or pair per lane. -/
  | vRpois (d : BitVec 6) (w : BitVec 1) (p : BitVec 3)
  /-- V_RTST (R340): Sets a predicate per lane when a register or pair is poisoned. -/
  | vRtst (d : BitVec 3) (a : BitVec 6) (w : BitVec 1) (p : BitVec 3)
  /-- V_RGEN (R340): Supervisor regeneration of a word's residue from its data bits. -/
  | vRgen (d : BitVec 6) (a : BitVec 6) (w : BitVec 1) (p : BitVec 3)
  /-- S_ADD (R342): Uniform add of s registers. -/
  | sAdd (d : BitVec 6) (a : BitVec 6) (b : BitVec 6) (t : BitVec 1) (g : BitVec 3)
  /-- S_SUB (R342): Uniform subtract of s registers. -/
  | sSub (d : BitVec 6) (a : BitVec 6) (b : BitVec 6) (t : BitVec 1) (g : BitVec 3)
  /-- S_MUL (R342): Uniform low-half multiply. -/
  | sMul (d : BitVec 6) (a : BitVec 6) (b : BitVec 6) (t : BitVec 1) (g : BitVec 3)
  /-- S_MULH (R342): Uniform high-half multiply, unsigned or signed. -/
  | sMulh (d : BitVec 6) (a : BitVec 6) (b : BitVec 6) (s : BitVec 1) (g : BitVec 3)
  /-- S_AND (R342): Uniform bitwise AND. -/
  | sAnd (d : BitVec 6) (a : BitVec 6) (b : BitVec 6) (g : BitVec 3)
  /-- S_OR (R342): Uniform bitwise OR. -/
  | sOr (d : BitVec 6) (a : BitVec 6) (b : BitVec 6) (g : BitVec 3)
  /-- S_XOR (R342): Uniform bitwise XOR. -/
  | sXor (d : BitVec 6) (a : BitVec 6) (b : BitVec 6) (g : BitVec 3)
  /-- S_ANDN (R342): Uniform AND NOT. -/
  | sAndn (d : BitVec 6) (a : BitVec 6) (b : BitVec 6) (g : BitVec 3)
  /-- S_SHL (R342): Uniform left shift. -/
  | sShl (d : BitVec 6) (a : BitVec 6) (b : BitVec 6) (g : BitVec 3)
  /-- S_SHR (R342): Uniform logical right shift. -/
  | sShr (d : BitVec 6) (a : BitVec 6) (b : BitVec 6) (g : BitVec 3)
  /-- S_SAR (R342): Uniform arithmetic right shift. -/
  | sSar (d : BitVec 6) (a : BitVec 6) (b : BitVec 6) (g : BitVec 3)
  /-- S_MIN (R342): Uniform minimum. -/
  | sMin (d : BitVec 6) (a : BitVec 6) (b : BitVec 6) (w : BitVec 1) (s : BitVec 1) (g : BitVec 3)
  /-- S_MAX (R342): Uniform maximum. -/
  | sMax (d : BitVec 6) (a : BitVec 6) (b : BitVec 6) (w : BitVec 1) (s : BitVec 1) (g : BitVec 3)
  /-- S_CMP (R342): Uniform compare writing a q predicate. -/
  | sCmp (d : BitVec 3) (a : BitVec 6) (b : BitVec 6) (w : BitVec 1) (c : BitVec 3) (g : BitVec 3)
  /-- S_SEL (R342): Uniform select by a q predicate. -/
  | sSel (d : BitVec 6) (a : BitVec 6) (b : BitVec 6) (w : BitVec 1) (n : BitVec 3) (g : BitVec 3)
  /-- S_MOV (R342): Uniform register move. -/
  | sMov (d : BitVec 6) (a : BitVec 6) (w : BitVec 1) (g : BitVec 3)
  /-- S_QSET (R342): Uniform function of two q predicates by truth table. -/
  | sQset (d : BitVec 3) (a : BitVec 3) (b : BitVec 3) (t : BitVec 4) (g : BitVec 3)
  /-- S_ADDI (R343): Uniform add of a sign-extended immediate. -/
  | sAddi (d : BitVec 6) (a : BitVec 6) (i : BitVec 10) (g : BitVec 3)
  /-- S_ANDI (R343): Uniform AND with an immediate. -/
  | sAndi (d : BitVec 6) (a : BitVec 6) (i : BitVec 10) (g : BitVec 3)
  /-- S_ORI (R343): Uniform OR with an immediate. -/
  | sOri (d : BitVec 6) (a : BitVec 6) (i : BitVec 10) (g : BitVec 3)
  /-- S_XORI (R343): Uniform XOR with an immediate. -/
  | sXori (d : BitVec 6) (a : BitVec 6) (i : BitVec 10) (g : BitVec 3)
  /-- S_SHLI (R343): Uniform left shift by an immediate. -/
  | sShli (d : BitVec 6) (a : BitVec 6) (k : BitVec 5) (g : BitVec 3)
  /-- S_SHRI (R343): Uniform logical right shift by an immediate. -/
  | sShri (d : BitVec 6) (a : BitVec 6) (k : BitVec 5) (g : BitVec 3)
  /-- S_CMPI (R343): Uniform compare with an immediate writing a q predicate. -/
  | sCmpi (d : BitVec 3) (a : BitVec 6) (c : BitVec 3) (i : BitVec 7) (g : BitVec 3)
  /-- S_MOVI (R343): Uniform move of a sign-extended 16-bit immediate. -/
  | sMovi (d : BitVec 6) (i : BitVec 16) (g : BitVec 3)
  /-- S_MOVL (R343): Uniform replacement of the low half. -/
  | sMovl (d : BitVec 6) (i : BitVec 16) (g : BitVec 3)
  /-- S_MOVH (R343): Uniform replacement of the high half. -/
  | sMovh (d : BitVec 6) (i : BitVec 16) (g : BitVec 3)
  /-- S_SLD (R320): Uniform global load for the group with lookahead. -/
  | sSld (t : BitVec 6) (a : BitVec 6) (z : BitVec 2) (o : BitVec 4) (l : BitVec 4) (g : BitVec 3)
  /-- S_SST (R320): Uniform global store for the group, or one copy start at the aperture. -/
  | sSst (t : BitVec 6) (a : BitVec 6) (o : BitVec 6) (z : BitVec 3) (g : BitVec 3)
  /-- S_SATOM (R320): Uniform atomic at the home slice returning the old value. -/
  | sSatom (t : BitVec 6) (a : BitVec 6) (s : BitVec 3) (o : BitVec 3) (k : BitVec 4) (g : BitVec 3)
  /-- S_B (R349): Uniform branch under a q guard. -/
  | sB (d : BitVec 22) (g : BitVec 3)
  /-- S_CALL (R350): Call with window slide, pushing a link record. -/
  | sCall (s : BitVec 6) (d : BitVec 16) (g : BitVec 3)
  /-- S_CALLU (R350): Call to a uniform register target with window slide. -/
  | sCallu (a : BitVec 6) (s : BitVec 6) (g : BitVec 3)
  /-- S_RET (R350): Return through the link record, restoring window and loop depth. -/
  | sRet (g : BitVec 3)
  /-- S_JMPU (R349): Uniform jump to a register target. -/
  | sJmpu (a : BitVec 6) (g : BitVec 3)
  /-- S_ENTER (R351): Sets the frame size with spill and fill moves. -/
  | sEnter (n : BitVec 10) (g : BitVec 3)
  /-- S_LOOP (R355): Pushes a zero-overhead loop entry or skips the body. -/
  | sLoop (a : BitVec 6) (e : BitVec 10) (g : BitVec 3)
  /-- S_LBRK (R356): Pops the innermost loop entry. -/
  | sLbrk (g : BitVec 3)
  /-- S_NOP (R358): Does nothing but counts in lookahead windows. -/
  | sNop (g : BitVec 3)
  /-- S_SLEEP (R358): Makes the group not ready for 16 n ck. -/
  | sSleep (n : BitVec 10) (g : BitVec 3)
  /-- S_BAR (R361): Arrives at a team barrier and waits for its phase to turn. -/
  | sBar (b : BitVec 4) (g : BitVec 3)
  /-- S_ARV (R361): Arrives at a split team barrier without waiting. -/
  | sArv (b : BitVec 4) (g : BitVec 3)
  /-- S_AWT (R361): Waits on a split team barrier after an arv. -/
  | sAwt (b : BitVec 4) (g : BitVec 3)
  /-- S_GBAR (R366): Arrives at the grid barrier of a C grid and waits. -/
  | sGbar (g : BitVec 3)
  /-- S_FENCE (R368): Memory fence of a given order and scope. -/
  | sFence (s : BitVec 3) (o : BitVec 3) (g : BitVec 3)
  /-- S_WAITV (R370): Waits until a memory word meets a condition, with optional timeout. -/
  | sWaitv (d : BitVec 6) (a : BitVec 6) (b : BitVec 6) (w : BitVec 1) (c : BitVec 3) (g : BitVec 3)
  /-- S_CSEAL (R322): Seals the group's unsealed copy jobs into the next batch. -/
  | sCseal (d : BitVec 6) (g : BitVec 3)
  /-- S_CWAIT (R323): Waits until at most n sealed batches are unfinished and reports faults. -/
  | sCwait (n : BitVec 10) (g : BitVec 3)
  /-- S_CYIELD (R324): Parks the group until its batches finish, then continues at a label. -/
  | sCyield (d : BitVec 22) (g : BitVec 3)
  /-- S_MWAIT (R337): Waits for the group's matrix jobs under a token or all tokens. -/
  | sMwait (l : BitVec 1) (k : BitVec 4) (g : BitVec 3)
  /-- S_RDS (R344): Reads a special register into an s or v register. -/
  | sRds (d : BitVec 6) (a : BitVec 6) (v : BitVec 1) (g : BitVec 3)
  /-- S_WRS (R345): Writes a special register from an s register. -/
  | sWrs (a : BitVec 6) (b : BitVec 6) (g : BitVec 3)
  /-- S_SETFMT (R346): Writes FMT from a uniform register. -/
  | sSetfmt (a : BitVec 6) (g : BitVec 3)
  /-- S_SETFMT_IMM (R346): Writes FMT from a 19-bit immediate spread over the fields. -/
  | sSetfmtImm (d : BitVec 6) (a : BitVec 6) (b : BitVec 6) (i : BitVec 1) (g : BitVec 3)
  /-- S_WREXEC (R347): Writes EXEC from a uniform register masked by BIND. -/
  | sWrexec (a : BitVec 6) (g : BitVec 3)
  /-- S_WREXEC_P (R347): Clears from EXEC the lanes whose predicate is false. -/
  | sWrexecP (n : BitVec 3) (g : BitVec 3)
  /-- S_LAUNCH (R376): Launches a child grid from a packet and returns its number or a refusal code. -/
  | sLaunch (d : BitVec 6) (a : BitVec 6) (g : BitVec 3)
  /-- S_LWAIT (R377): Waits for every child grid launched by the group. -/
  | sLwait (g : BitVec 3)
  /-- S_LWAIT_GRID (R377): Waits for one child grid by number. -/
  | sLwaitGrid (a : BitVec 6) (g : BitVec 3)
  /-- S_KEMIT (R378): Ends a Kiln run by emitting s32-s63 as a LAUNCH. -/
  | sKemit (g : BitVec 3)
  /-- S_KCANCEL (R378): Ends a Kiln run and the command with CANCELLED. -/
  | sKcancel (g : BitVec 3)
  /-- S_KREPEAT (R378): Ends a Kiln run by emitting and scheduling another run. -/
  | sKrepeat (g : BitVec 3)
  /-- S_KDONE (R378): Ends a Kiln run and the command without a code. -/
  | sKdone (g : BitVec 3)
  /-- S_SYS (R162): System call trap to S for the lanes in EXEC. -/
  | sSys (n : BitVec 6) (g : BitVec 3)
  /-- S_HCALL (R162): Hypervisor call trap to H. -/
  | sHcall (g : BitVec 3)
  /-- S_TRET (R160): Returns from the innermost trap frame and applies request bits. -/
  | sTret (g : BitVec 3)
  /-- S_TLBI_VA (R373): Invalidates translations of one virtual address in a context. -/
  | sTlbiVa (a : BitVec 6) (b : BitVec 6) (g : BitVec 3)
  /-- S_TLBI_CTX (R373): Invalidates non-global translations and the cached context. -/
  | sTlbiCtx (b : BitVec 6) (g : BitVec 3)
  /-- S_TLBI_GLOB (R373): Invalidates global translations with the context's stage-2 root. -/
  | sTlbiGlob (b : BitVec 6) (g : BitVec 3)
  /-- S_TLBI_IPA (R373): Invalidates translations through one guest page. -/
  | sTlbiIpa (a : BitVec 6) (b : BitVec 6) (g : BitVec 3)
  /-- S_TLBI_S2 (R373): Invalidates translations through one stage-2 root. -/
  | sTlbiS2 (b : BitVec 6) (g : BitVec 3)
  /-- S_TLBI_ALL (R373): Invalidates every translation of the partition. -/
  | sTlbiAll (g : BitVec 3)
  /-- S_KEYRET (R374): Retires a key id through the five steps of R190. -/
  | sKeyret (a : BitVec 6) (g : BitVec 3)
  /-- S_EXIT (R357): Group exit clearing EXEC and BIND. -/
  | sExit (g : BitVec 3)
  /-- LOAD_RETURN (R135): Load data arrives, is checked and written, leaving the pending set. -/
  | loadReturn (r : GroupRef) (id : Nat)
  /-- VR1_RESULT (R294): A long-latency special-function result arrives and is written. -/
  | vr1Result (r : GroupRef) (id : Nat)
  /-- STACK_RD (R22): Base die reads, decodes, decrypts and checks a line for a stack-port RD. -/
  | stackRd (x : StackReq)
  /-- STACK_WR (R22): Base die checks ingress residues and writes a full line. -/
  | stackWr (x : StackReq)
  /-- STACK_WRM (R19): Base die performs a masked read-merge-write of a line. -/
  | stackWrm (x : StackReq)
  /-- STACK_READ_REPLY (R16): Read-data reply arrives at the L2 slice and frees its tag. -/
  | stackReadReply (x : StackReply)
  /-- STACK_WRITE_ACK (R16): Write acknowledgement arrives at the L2 slice and frees its tag. -/
  | stackWriteAck (x : StackReply)
  /-- PATROL_SCRUB (R24): Scrubber reads, decodes and writes back one codeword. -/
  | patrolScrub (line : Nat)
  /-- ROW_REPAIR (R25): Post-package repair copies a row to a spare and remaps it. -/
  | rowRepair (die slice row : Nat)
  /-- LINE_READ (R28): Line read request arrives at the home slice. -/
  | lineRead (p : Packet)
  /-- WORD_READ (R28): Word read request arrives at the home slice. -/
  | wordRead (p : Packet)
  /-- PREF_L2 (R28): L2 prefetch request arrives at the home slice. -/
  | prefL2 (p : Packet)
  /-- FORWARD_READ (R185): Home forwards a read to the owning core. -/
  | forwardRead (p : Packet)
  /-- WRITE (R185): Write performed at the home slice after revocation. -/
  | write (p : Packet)
  /-- MASKED_WRITE (R183): Partial-word write merged at the home slice. -/
  | maskedWrite (p : Packet)
  /-- WRITEBACK (R187): Owner writes back dirty words to the home. -/
  | writeback (p : Packet)
  /-- ATOMIC (R185): Atomic or reduction performed at the home slice. -/
  | atomic (p : Packet)
  /-- DISCARD (R216): Discard of a line's words at the home. -/
  | discard (p : Packet)
  /-- READ_DATA (R28): Read data reply delivered to the requester. -/
  | readData (p : Packet)
  /-- FORWARD_DATA (R185): Owner's forwarded data delivered to the requester. -/
  | forwardData (p : Packet)
  /-- GRANT (R184): Registration grant arrives; the store is performed. -/
  | grant (p : Packet)
  /-- ATOMIC_RESULT (R28): Old value of an atomic returned to the requester. -/
  | atomicResult (p : Packet)
  /-- PARTIAL_DATA (R189): Holder's partial arrives at the home and is added. -/
  | partialData (p : Packet)
  /-- WRITE_ACK (R28): Write acknowledgement from the home reaches the writer. -/
  | writeAck (p : Packet)
  /-- CLEAN_ACK (R187): Owner releases words with no dirty data. -/
  | cleanAck (p : Packet)
  /-- ROUTE_LOST (R32): Route-lost answer reaches the source, which retries once. -/
  | routeLost (p : Packet)
  /-- REFUSED (R58): Exporter's refusal reaches the importer's hub. -/
  | refused (p : Packet)
  /-- DONE (R28): Completion of PREF_L2, SLOT or CONTROL reaches the sender. -/
  | done (p : Packet)
  /-- REGISTER (R184): Core registers words at the home, which may revoke and grant. -/
  | register (p : Packet)
  /-- REVOKE (R187): Owner core receives a revocation, serving or deferring it. -/
  | revoke (p : Packet)
  /-- PARTIAL_REQ (R189): Holder core receives a request for its commutative partials. -/
  | partialReq (p : Packet)
  /-- COPY_READ (R28): Copy or matrix job read arrives at the home. -/
  | copyRead (p : Packet)
  /-- COPY_WRITE (R383): Copy or matrix job write arrives at the home. -/
  | copyWrite (p : Packet)
  /-- COPY_MWRITE (R28): Copy partial-word write arrives at the home. -/
  | copyMwrite (p : Packet)
  /-- SLOT (R200): Channel slot written into the consumer's scratchpad ring. -/
  | slot (p : Packet)
  /-- CREDIT (R200): Consumer's received count reaches the producer. -/
  | credit (p : Packet)
  /-- STATUS_READ (R28): Twin Star reads a node's status register. -/
  | statusRead (p : Packet)
  /-- STATUS_DATA (R64): Status words reach Twin Star. -/
  | statusData (p : Packet)
  /-- RECORD (R167): A 64-byte Cinder record reaches Twin Star and is logged or buffered. -/
  | record (p : Packet)
  /-- CONTROL (R28): Control words written to a node. -/
  | control (p : Packet)
  /-- REPORT (R92): Die dispatcher report of completions, arrivals or claim status reaches the front end. -/
  | report (p : Packet)
  /-- FLIT_CRC_FAIL (R29): Flit fails CRC; receiver discards and sends a negative acknowledgement for replay. -/
  | flitCrcFail (link : Nat)
  /-- LINK_RETRAIN (R29): Sixteen consecutive failures of one flit start link retraining. -/
  | linkRetrain (link : Nat)
  /-- LINK_RETRAIN_DONE (R30): Retraining ends after lane tests and spare substitution. -/
  | linkRetrainDone (link badLanes : Nat)
  /-- ROUTING_REWRITE (R32): Fencing and injection stop after a die fence or link loss. -/
  | routingRewrite (lost : Lost)
  /-- ROUTING_RESUME (R32): After the mesh empties or 10 us, new tables load and injection resumes. -/
  | routingResume
  /-- FRAME_DROP (R35): Non-accepted Ethernet frame or IP packet dropped and counted. -/
  | frameDrop (f : EthFrame)
  /-- ARP (R35): ARP request answered or ARP reply recorded. -/
  | arp (f : EthFrame)
  /-- NEIGHBOR_DISCOVERY (R35): IPv6 neighbour solicitation answered or advertisement recorded. -/
  | neighborDiscovery (f : EthFrame)
  /-- NEXT_HOP_EXPIRY (R44): A next-hop resolution expires after 60 s. -/
  | nextHopExpiry (port : Nat) (addr : BitVec 128)
  /-- PORT_LINK_DOWN (R37): A port's link goes down or up. -/
  | portLinkDown (port : Nat) (up : Bool)
  /-- PATH_REBIND (R37): After 50 us down, paths move to the other host port and retransmit. -/
  | pathRebind (port : Nat)
  /-- PORT_RETIRE (R69): Port retired after 60 s down or eight failovers in 24 h. -/
  | portRetire (port : Nat)
  /-- THT_WRITE (R45): Host WRITE translated and performed with residues generated at ingress. -/
  | thtWrite (f : ThtPacket)
  /-- THT_READ (R45): Host READ performed and answered with READ_RESP or NAK. -/
  | thtRead (f : ThtPacket)
  /-- THT_READ_RESP (R42): Host's read response arrives, completing a device READ. -/
  | thtReadResp (f : ThtPacket)
  /-- THT_ATOMIC (R45): Host ATOMIC performed at the home slice. -/
  | thtAtomic (f : ThtPacket)
  /-- THT_ATOMIC_RESP (R42): Host's atomic response arrives for a device ATOMIC. -/
  | thtAtomicResp (f : ThtPacket)
  /-- THT_NOTIFY (R49): Tail notification applied to a queue or buffered in the wake buffer. -/
  | thtNotify (f : ThtPacket)
  /-- THT_MGMT (R62): Management request received and dispatched to Twin Star. -/
  | thtMgmt (f : ThtPacket)
  /-- THT_MGMT_RESP (R42): Management response received, acknowledging its request. -/
  | thtMgmtResp (f : ThtPacket)
  /-- THT_ACK (R42): Cumulative acknowledgement received; rate reduced on echo. -/
  | thtAck (f : ThtPacket)
  /-- THT_NAK (R42): Negative acknowledgement received; sender goes back. -/
  | thtNak (f : ThtPacket)
  /-- THT_ACK_TIMER (R42): ACK sent 2 us after the oldest unacknowledged request. -/
  | thtAckTimer (path : Nat)
  /-- THT_RETRANSMIT_TIMEOUT (R42): No progress for 20 us; sender resends from the oldest request. -/
  | thtRetransmitTimeout (path : Nat)
  /-- THT_RATE_INCREASE (R47): After 50 us without echo, alpha decays and rate rises. -/
  | thtRateIncrease (path : Nat)
  /-- PERIT_DATA_FRAME (R58): Perit data frame's packets checked against the handle and reissued or refused. -/
  | peritDataFrame (f : PeritFrame)
  /-- PERIT_ACK_FRAME (R56): Perit acknowledgement frame received. -/
  | peritAckFrame (f : PeritFrame)
  /-- PERIT_NAK_FRAME (R56): Perit negative acknowledgement frame received; sender goes back. -/
  | peritNakFrame (f : PeritFrame)
  /-- PERIT_TIMEOUT (R56): 8 us without progress; frames resent or link declared down. -/
  | peritTimeout (dev : BitVec 16)
  /-- INV_READ (R64): Returns the active inventory buffer. -/
  | invRead (m : MgmtReq)
  /-- PART_SET (R60): Writes a partition entry, cleaning moved dies. -/
  | partSet (m : MgmtReq)
  /-- PART_STATUS (R63): Returns the 32-byte partition record. -/
  | partStatus (m : MgmtReq)
  /-- DRAIN (R66): Puts a partition into DRAINING at a drain point. -/
  | drain (m : MgmtReq)
  /-- UNDRAIN (R67): Returns a partition to ACTIVE. -/
  | undrain (m : MgmtReq)
  /-- PATH_SET (R43): Opens, closes or configures a THT path. -/
  | pathSet (m : MgmtReq)
  /-- WINDOW_SET (R173): Writes a host or peer window entry. -/
  | windowSet (m : MgmtReq)
  /-- HANDLE_EXPORT (R54): Creates an export handle. -/
  | handleExport (m : MgmtReq)
  /-- HANDLE_REVOKE (R54): Revokes an export handle. -/
  | handleRevoke (m : MgmtReq)
  /-- KEY_GEN (R63): Fills a key slot in all base dies with random keys. -/
  | keyGen (m : MgmtReq)
  /-- KEY_ZERO (R190): Flushes and zeroes a key slot. -/
  | keyZero (m : MgmtReq)
  /-- FW_STAGE (R72): Writes firmware image bytes into staging. -/
  | fwStage (m : MgmtReq)
  /-- FW_ACTIVATE (R72): Checks and activates a staged image in service. -/
  | fwActivate (m : MgmtReq)
  /-- ATTEST (R73): Returns signed measurements and identity. -/
  | attest (m : MgmtReq)
  /-- POWER_CAP (R74): Sets the package power cap. -/
  | powerCap (m : MgmtReq)
  /-- PORT_SET (R44): Writes or returns a host port's configuration record. -/
  | portSet (m : MgmtReq)
  /-- PEER_SET (R57): Writes a peer table entry. -/
  | peerSet (m : MgmtReq)
  /-- PATH0_SYNC (R43): Resynchronises path 0's expected PSN. -/
  | path0Sync (m : MgmtReq)
  /-- INVENTORY_SNAPSHOT (R64): Every 1 ms Twin Star builds a snapshot and swaps buffers. -/
  | inventorySnapshot
  /-- CINDER_DESCRIPTOR_READ (R166): Every 1 ms Twin Star reads the Cinder descriptor and flushes buffered records. -/
  | cinderDescriptorRead
  /-- POWER_MEASURE (R74): Every 100 us package power is measured and averaged: the package and each die, in W. -/
  | powerMeasure (watts : Nat × List Nat)
  /-- CLOCK_STEP (R74): Every 1 ms the arithmetic clock is lowered or raised by 100 MHz. -/
  | clockStep
  /-- DROOP_STRETCH (R74): Supply sag stretches a cluster's clock. -/
  | droopStretch (die cluster : Nat)
  /-- CORE_RETIRE (R70): Core retired, its teams pre-empted and a spare enabled. -/
  | coreRetire (die core : Nat)
  /-- DIE_FENCE (R171): Die fenced; grids with parts on it aborted. -/
  | dieFence (die : Nat)
  /-- CHECKPOINT_RECOVERY (R169): Twin Star mismatch recovered from its checkpoint. -/
  | checkpointRecovery
  /-- HUB_FAILURE (R169): Hub or Twin Star failure beyond recovery. -/
  | hubFailure
  /-- PACKAGE_RESET (R70): Reset assigns logical core numbers and loads configuration. -/
  | packageReset
  /-- SLOT_READ (R80): Front end reads the slot at head and consumes, waits or halts. -/
  | slotRead (q : Nat)
  /-- SLOT_REREAD_TIMER (R80): 1 us after a non-matching stamp the slot is re-read. -/
  | slotRereadTimer (q : Nat)
  /-- MIRROR_WRITE (R82): Front end writes the 16-byte mirror record. -/
  | mirrorWrite (q : Nat)
  /-- LAUNCH (R85): LAUNCH command starts after checks and is split into die shares. -/
  | launch (q : Nat)
  /-- EVENT_SIGNAL (R87): Adds an increment to an event counter. -/
  | eventSignal (q : Nat)
  /-- EVENT_WAIT (R87): Reads an event counter and completes when it reaches a value. -/
  | eventWait (q : Nat)
  /-- EVENT_REREAD (R87): Waiting event counter re-read every 1 us. -/
  | eventReread (q : Nat)
  /-- COPY (R86): Queue COPY started on a cluster's copy engine channel 15. -/
  | copy (q : Nat)
  /-- FENCE (R86): FENCE command starts once earlier commands complete. -/
  | fence (q : Nat)
  /-- NOP (R86): NOP command starts and completes. -/
  | nop (q : Nat)
  /-- KILN_RUN_START (R88): A free Kiln engine begins a prologue run. -/
  | kilnRunStart (k : Nat)
  /-- PROLOGUE_BUDGET_EXCEEDED (R89): A run reaches 65,536 instructions and ends with PROLOGUE_BOUND. -/
  | prologueBudgetExceeded (k : Nat)
  /-- TEAM_PLACE (R99): Die dispatcher places the first fitting candidate team on a core. -/
  | teamPlace (die : Nat)
  /-- QUEUE_STARVATION (R96): Queue starvation interval expires; queue served out of turn. -/
  | queueStarvation (q : Nat)
  /-- CANDIDATE_PIN (R104): Candidate passed over for 100 us becomes pinned. -/
  | candidatePin (die : Nat)
  /-- TEAM_RETIRE (R93): Team retires after all groups exit and its work completes. -/
  | teamRetire (die core slot : Nat)
  /-- PREEMPT_TRIGGER (R114): Waiting claim or pin of 50 us triggers pre-emption with a sample. -/
  | preemptTrigger (die : Nat)
  /-- PREEMPT_SAVE (R115): After quiescence the save record is written and storage freed. -/
  | preemptSave (die core slot : Nat)
  /-- TEAM_RESTORE (R120): Saved team restored on a core of its die. -/
  | teamRestore (die : Nat)
  /-- CHILD_SWAP_OUT (R109): Parked teams swapped out after a child waits 20 us. -/
  | childSwapOut (die : Nat)
  /-- GROUP_RAISED (R112): Group starvation counter reaches 4,096 and the group is raised. -/
  | groupRaised (r : GroupRef)
  /-- SLEEP_EXPIRY (R358): A sleeping group becomes ready. -/
  | sleepExpiry (r : GroupRef)
  /-- WAITV_REREAD (R370): Waited word re-read on a new write or after 2,048 ck; timeout raises STARVATION. -/
  | waitvReread (r : GroupRef)
  /-- MMA_PASS_GRANT (R113): Matrix engine grants one job from the reservation table. -/
  | mmaPassGrant (die cluster : Nat)
  /-- MATRIX_JOB_FINISH (R329): A matrix job finishes, releasing edges and mwait. -/
  | matrixJobFinish (die cluster job : Nat)
  /-- COPY_JOB_START (R196): A copy job starts once its edges allow. -/
  | copyJobStart (die cluster ch : Nat)
  /-- COPY_JOB_FINISH (R198): A copy job finishes or faults, writing its status entry. -/
  | copyJobFinish (die cluster ch : Nat)
  /-- L1_EVICTION (R187): Core evicts a line, writing back dirty words and flushing partials. -/
  | l1Eviction (core tag : Nat)
  /-- CACHE_POWER_GATE (R191): L1 or L2 writes back and flushes before power gating. -/
  | cachePowerGate (isL2 : Bool) (die unit : Nat)
  /-- UNASSIGNED_ENCODING (R259): Issue of a word that is not an instruction, such as an unassigned opcode of either half, raises ILLEGAL_INSN. -/
  | unassignedEncoding (w : BitVec 32)
  /-- FRONT_END_POWER_GATING (R50): The front end is power-gated, gating the notify aperture so NOTIFYs go to the wake buffer. -/
  | frontEndPowerGating
  /-- FRONT_END_UNGATING (R50): The front end leaves power gating, ungates the aperture and applies the buffered NOTIFYs in arrival order. -/
  | frontEndUngating
  /-- SUPPLY_SAG_END (R74): The supply sag ends and the cluster's stretched arithmetic clock returns to its set rate. -/
  | supplySagEnd (die cluster : Nat)
  /-- HUB_SLOT_ROTATION (R61): Under strict isolation the hub passes to the next of its eight 2 us slots and serves that slot's partition. -/
  | hubSlotRotation
  /-- PERIT_ACK_TIMER (R56): A device acknowledges a peer's frames 2 us after the oldest unacknowledged accepted frame, by the rules of R42. -/
  | peritAckTimer (dev : BitVec 16)
deriving DecidableEq, Repr

end Sys2Proof
end

