-- ==== Sys2Proof/WellFormed.lean ====
section
/-! DEFINITION. Which terms of `Instr` stand for something the hardware has: an encoded instruction that owns its word, and
a hardware step whose payload has the shape its rule gives. -/

namespace Sys2Proof

/-- A packet's data flits are as many as its header says, each of eight words (R26, R27). -/
def Packet.wf (p : Packet) : Bool :=
  p.flits.length == p.hdr.nflits.toNat && p.flits.all (fun f => f.length == 8)

/-- A stack-port request carries a block of 32 words when it carries data and none otherwise (R15). -/
def StackReq.wf (x : StackReq) (data : Bool) : Bool :=
  x.die < 8 && x.slice < 64 && x.block.length == (if data then 32 else 0)

/-- The same for a reply (R16). -/
def StackReply.wf (x : StackReply) (data : Bool) : Bool :=
  x.die < 8 && x.slice < 64 && x.block.length == (if data then 32 else 0)

/-- A group reference within the machine's bounds (R100, R122). -/
def GroupRef.wf (r : GroupRef) : Bool := r.die < 8 && r.core < 64 && r.slot < 32 && r.grp < 32

/-- Well-formedness. The excluded encoded terms are the all-zero word (R259) and those whose word another row of the table
owns: `st` with size code 3
(the row of `cpy`), `fcmp` with condition 7 and no `vb` (the row of `fclass`), the uniform `sel` with selector 7 and no `sb`
(the row of `mov`), and a load size code with no opcode (R257: 0x20–0x24). -/
def Instr.wf : Instr → Bool
  | .vAdd d a b t p => !(d == 0 && a == 0 && b == 0 && t == 0 && p == 0)
  | .vLd s _ _ _ _ _ => s.toNat ≤ 4
  | .vSt _ _ _ z _ => z != 3
  | .vFcmp _ _ b c _ _ => !(c == 7 && b == 0)
  | .sSel _ _ b _ n _ => !(n == 7 && b == 0)
  | .loadReturn r _ => r.wf
  | .vr1Result r _ => r.wf
  | .groupRaised r => r.wf
  | .sleepExpiry r => r.wf
  | .waitvReread r => r.wf
  | .stackRd x => x.wf false
  | .stackWr x => x.wf true
  | .stackWrm x => x.wf true
  | .stackReadReply x => x.wf true
  | .stackWriteAck x => x.wf false
  | .lineRead p | .wordRead p | .prefL2 p | .forwardRead p | .write p | .maskedWrite p | .writeback p | .atomic p
  | .discard p | .readData p | .forwardData p | .grant p | .atomicResult p | .partialData p | .writeAck p | .cleanAck p
  | .routeLost p | .refused p | .done p | .register p | .revoke p | .partialReq p | .copyRead p | .copyWrite p
  | .copyMwrite p | .slot p | .credit p | .statusRead p | .statusData p | .record p | .control p | .report p => p.wf
  | .thtWrite f | .thtRead f | .thtReadResp f | .thtAtomic f | .thtAtomicResp f | .thtNotify f | .thtMgmt f
  | .thtMgmtResp f | .thtAck f | .thtNak f => f.port < 2
  | .peritDataFrame f | .peritAckFrame f | .peritNakFrame f => 2 ≤ f.port && f.port < 10
  | .frameDrop f => f.port < 10
  | .arp f | .neighborDiscovery f => f.port < 2
  | _ => true

end Sys2Proof
end

