-- ==== Sys2Proof/Decode.lean ====
section
/-! DEFINITION. The decoder, total on any word, and the encoder, both from the encoding tables (R252, R254, R257, R258). -/

namespace Sys2Proof

/-- Why a word is no instruction (R259). -/
inductive DecodeError where
  /-- R259: zeroed memory never executes. -/
  | zeroWord
  /-- An `op` that R257 or R258 leaves unassigned: bit 31 with the opcode bits. -/
  | unassignedOp (op : Nat)
  /-- An `fn` or another sub-field no row of this opcode assigns, or a non-zero bit of a field that is zero in every row. -/
  | unassignedSub (op : Nat)
deriving DecidableEq, Repr

/-- The `n`-bit field of a word that starts at bit `lo`. -/
def fld (w : BitVec 32) (lo n : Nat) : BitVec n := BitVec.ofNat n (w.toNat / 2 ^ lo)

/-- The same field as a number. -/
def bits (w : BitVec 32) (lo n : Nat) : Nat := w.toNat / 2 ^ lo % 2 ^ n

/-- The arms of the decoder by the seven top bits, half and `op` (R250); a row with more fixed bits comes first. -/
def decodeOp (w : BitVec 32) (op : Nat) : Except DecodeError Instr :=
  match op with
  | 0 =>
    if bits w 3 4 = 8 then .ok (.vAddx (fld w 19 6) (fld w 13 6) (fld w 7 6) (fld w 0 3)) else
    if bits w 3 4 = 9 then .ok (.vSubx (fld w 19 6) (fld w 13 6) (fld w 7 6) (fld w 0 3)) else
    if bits w 3 4 = 14 then .ok (.vMad (fld w 19 6) (fld w 13 6) (fld w 7 6) (fld w 0 3)) else
    if bits w 4 3 = 5 then .ok (.vMul (fld w 19 6) (fld w 13 6) (fld w 7 6) (fld w 3 1) (fld w 0 3)) else
    if bits w 4 3 = 6 then .ok (.vMulh (fld w 19 6) (fld w 13 6) (fld w 7 6) (fld w 3 1) (fld w 0 3)) else
    if bits w 5 2 = 0 then .ok (.vAdd (fld w 19 6) (fld w 13 6) (fld w 7 6) (fld w 3 2) (fld w 0 3)) else
    if bits w 5 2 = 1 then .ok (.vSub (fld w 19 6) (fld w 13 6) (fld w 7 6) (fld w 3 2) (fld w 0 3)) else
    .error (.unassignedSub 0)
  | 1 =>
    if bits w 3 10 = 4 then .ok (.vAbs (fld w 19 6) (fld w 13 6) (fld w 0 3)) else
    if bits w 3 10 = 5 then .ok (.vNegI32 (fld w 19 6) (fld w 13 6) (fld w 0 3)) else
    if bits w 3 10 = 6 then .ok (.vNegI64 (fld w 19 6) (fld w 13 6) (fld w 0 3)) else
    if bits w 3 10 = 11 then .ok (.vMovB32 (fld w 19 6) (fld w 13 6) (fld w 0 3)) else
    if bits w 3 10 = 12 then .ok (.vMovB64 (fld w 19 6) (fld w 13 6) (fld w 0 3)) else
    if bits w 3 4 = 7 then .ok (.vBfxN32 (fld w 19 6) (fld w 13 6) (fld w 7 6) (fld w 0 3)) else
    if bits w 3 4 = 8 then .ok (.vBfxI32 (fld w 19 6) (fld w 13 6) (fld w 7 6) (fld w 0 3)) else
    if bits w 3 4 = 9 then .ok (.vBfi (fld w 19 6) (fld w 13 6) (fld w 7 6) (fld w 0 3)) else
    if bits w 3 4 = 10 then .ok (.vBpick (fld w 19 6) (fld w 13 6) (fld w 7 6) (fld w 0 3)) else
    if bits w 4 3 = 0 then .ok (.vMadw (fld w 19 6) (fld w 13 6) (fld w 7 6) (fld w 3 1) (fld w 0 3)) else
    if bits w 4 3 = 1 then .ok (.vSad (fld w 19 6) (fld w 13 6) (fld w 7 6) (fld w 3 1) (fld w 0 3)) else
    .error (.unassignedSub 1)
  | 2 =>
    if bits w 4 1 = 0 ∧ bits w 6 1 = 0 then .ok (.vMin (fld w 19 6) (fld w 13 6) (fld w 7 6) (fld w 5 1) (fld w 3 1) (fld w 0 3)) else
    if bits w 4 1 = 1 ∧ bits w 6 1 = 0 then .ok (.vMax (fld w 19 6) (fld w 13 6) (fld w 7 6) (fld w 5 1) (fld w 3 1) (fld w 0 3)) else
    .error (.unassignedSub 2)
  | 3 =>
    if bits w 3 10 = 9 then .ok (.vClz (fld w 19 6) (fld w 13 6) (fld w 0 3)) else
    if bits w 3 10 = 10 then .ok (.vPopc (fld w 19 6) (fld w 13 6) (fld w 0 3)) else
    if bits w 3 10 = 11 then .ok (.vBrev (fld w 19 6) (fld w 13 6) (fld w 0 3)) else
    if bits w 3 4 = 0 then .ok (.vAnd (fld w 19 6) (fld w 13 6) (fld w 7 6) (fld w 0 3)) else
    if bits w 3 4 = 1 then .ok (.vOr (fld w 19 6) (fld w 13 6) (fld w 7 6) (fld w 0 3)) else
    if bits w 3 4 = 2 then .ok (.vXor (fld w 19 6) (fld w 13 6) (fld w 7 6) (fld w 0 3)) else
    if bits w 3 4 = 3 then .ok (.vAndn (fld w 19 6) (fld w 13 6) (fld w 7 6) (fld w 0 3)) else
    if bits w 3 4 = 4 then .ok (.vShl (fld w 19 6) (fld w 13 6) (fld w 7 6) (fld w 0 3)) else
    if bits w 3 4 = 5 then .ok (.vShr (fld w 19 6) (fld w 13 6) (fld w 7 6) (fld w 0 3)) else
    if bits w 3 4 = 6 then .ok (.vSar (fld w 19 6) (fld w 13 6) (fld w 7 6) (fld w 0 3)) else
    if bits w 3 4 = 7 then .ok (.vRot (fld w 19 6) (fld w 13 6) (fld w 7 6) (fld w 0 3)) else
    if bits w 3 4 = 8 then .ok (.vShf (fld w 19 6) (fld w 13 6) (fld w 7 6) (fld w 0 3)) else
    .error (.unassignedSub 3)
  | 4 =>
    .ok (.vSel (fld w 19 6) (fld w 13 6) (fld w 7 6) (fld w 6 1) (fld w 3 3) (fld w 0 3))
  | 5 =>
    if bits w 22 3 = 0 then .ok (.vCmp (fld w 19 3) (fld w 13 6) (fld w 7 6) (fld w 6 1) (fld w 3 3) (fld w 0 3)) else
    .error (.unassignedSub 5)
  | 6 =>
    if bits w 10 3 = 0 ∧ bits w 16 3 = 0 ∧ bits w 22 3 = 0 then .ok (.vPset (fld w 19 3) (fld w 13 3) (fld w 7 3) (fld w 3 4) (fld w 0 3)) else
    .error (.unassignedSub 6)
  | 7 =>
    .ok (.vAddi (fld w 19 6) (fld w 13 6) (fld w 3 10) (fld w 0 3))
  | 8 =>
    .ok (.vAndi (fld w 19 6) (fld w 13 6) (fld w 3 10) (fld w 0 3))
  | 9 =>
    .ok (.vOri (fld w 19 6) (fld w 13 6) (fld w 3 10) (fld w 0 3))
  | 10 =>
    .ok (.vXori (fld w 19 6) (fld w 13 6) (fld w 3 10) (fld w 0 3))
  | 11 =>
    if bits w 8 5 = 0 then .ok (.vShli (fld w 19 6) (fld w 13 6) (fld w 3 5) (fld w 0 3)) else
    if bits w 8 5 = 1 then .ok (.vShri (fld w 19 6) (fld w 13 6) (fld w 3 5) (fld w 0 3)) else
    .error (.unassignedSub 11)
  | 12 =>
    if bits w 22 3 = 0 then .ok (.vCmpi (fld w 19 3) (fld w 13 6) (fld w 10 3) (fld w 3 7) (fld w 0 3)) else
    .error (.unassignedSub 12)
  | 13 =>
    .ok (.vMovi (fld w 19 6) (fld w 3 16) (fld w 0 3))
  | 14 =>
    .ok (.vMovl (fld w 19 6) (fld w 3 16) (fld w 0 3))
  | 15 =>
    .ok (.vMovh (fld w 19 6) (fld w 3 16) (fld w 0 3))
  | 16 =>
    if bits w 5 1 = 0 then .ok (.vFadd (fld w 19 6) (fld w 13 6) (fld w 7 6) (fld w 6 1) (fld w 3 2) (fld w 0 3)) else
    if bits w 5 1 = 1 then .ok (.vFsub (fld w 19 6) (fld w 13 6) (fld w 7 6) (fld w 6 1) (fld w 3 2) (fld w 0 3)) else
    .error (.unassignedSub 16)
  | 17 =>
    if bits w 5 1 = 0 then .ok (.vFmul (fld w 19 6) (fld w 13 6) (fld w 7 6) (fld w 6 1) (fld w 3 2) (fld w 0 3)) else
    .error (.unassignedSub 17)
  | 18 =>
    if bits w 5 1 = 0 then .ok (.vFma (fld w 19 6) (fld w 13 6) (fld w 7 6) (fld w 6 1) (fld w 3 2) (fld w 0 3)) else
    .error (.unassignedSub 18)
  | 19 =>
    if bits w 5 8 = 2 then .ok (.vFneg (fld w 19 6) (fld w 13 6) (fld w 3 2) (fld w 0 3)) else
    if bits w 5 8 = 3 then .ok (.vFabs (fld w 19 6) (fld w 13 6) (fld w 3 2) (fld w 0 3)) else
    if bits w 5 2 = 0 then .ok (.vFmin (fld w 19 6) (fld w 13 6) (fld w 7 6) (fld w 3 2) (fld w 0 3)) else
    if bits w 5 2 = 1 then .ok (.vFmax (fld w 19 6) (fld w 13 6) (fld w 7 6) (fld w 3 2) (fld w 0 3)) else
    .error (.unassignedSub 19)
  | 20 =>
    if bits w 4 9 = 7 then .ok (.vFclass (fld w 19 6) (fld w 13 6) (fld w 3 1) (fld w 0 3)) else
    if bits w 22 3 = 0 then .ok (.vFcmp (fld w 19 3) (fld w 13 6) (fld w 7 6) (fld w 4 3) (fld w 3 1) (fld w 0 3)) else
    .error (.unassignedSub 20)
  | 21 =>
    if bits w 3 4 = 0 then .ok (.vFrcp (fld w 19 6) (fld w 13 6) (fld w 11 2) (fld w 7 4) (fld w 0 3)) else
    if bits w 3 4 = 1 then .ok (.vFrsq (fld w 19 6) (fld w 13 6) (fld w 11 2) (fld w 7 4) (fld w 0 3)) else
    if bits w 3 4 = 2 then .ok (.vFsqrt (fld w 19 6) (fld w 13 6) (fld w 11 2) (fld w 7 4) (fld w 0 3)) else
    if bits w 3 4 = 3 then .ok (.vFex2 (fld w 19 6) (fld w 13 6) (fld w 11 2) (fld w 7 4) (fld w 0 3)) else
    if bits w 3 4 = 4 then .ok (.vFlg2 (fld w 19 6) (fld w 13 6) (fld w 11 2) (fld w 7 4) (fld w 0 3)) else
    if bits w 3 4 = 5 then .ok (.vFsin (fld w 19 6) (fld w 13 6) (fld w 11 2) (fld w 7 4) (fld w 0 3)) else
    if bits w 3 4 = 6 then .ok (.vFcos (fld w 19 6) (fld w 13 6) (fld w 11 2) (fld w 7 4) (fld w 0 3)) else
    .error (.unassignedSub 21)
  | 22 =>
    if bits w 5 2 = 2 ∧ bits w 9 4 = 0 then .ok (.vFrnd (fld w 19 6) (fld w 13 6) (fld w 7 2) (fld w 3 2) (fld w 0 3)) else
    if bits w 5 2 = 0 then .ok (.vFdiv (fld w 19 6) (fld w 13 6) (fld w 7 6) (fld w 3 2) (fld w 0 3)) else
    if bits w 5 2 = 1 then .ok (.vFscale (fld w 19 6) (fld w 13 6) (fld w 7 6) (fld w 3 2) (fld w 0 3)) else
    .error (.unassignedSub 22)
  | 24 =>
    if bits w 11 1 = 0 then .ok (.vCvt (fld w 19 6) (fld w 13 6) (fld w 12 1) (fld w 7 4) (fld w 3 4) (fld w 0 3)) else
    .error (.unassignedSub 24)
  | 25 =>
    if bits w 6 1 = 0 then .ok (.vCvtnPk (fld w 19 6) (fld w 13 6) (fld w 7 6) (fld w 3 3) (fld w 0 3)) else
    if bits w 6 1 = 1 then .ok (.vCvtnUnpk (fld w 19 6) (fld w 13 6) (fld w 7 6) (fld w 3 3) (fld w 0 3)) else
    .error (.unassignedSub 25)
  | 26 =>
    if bits w 8 5 = 0 then .ok (.vCvtw (fld w 19 6) (fld w 13 6) (fld w 7 1) (fld w 6 1) (fld w 5 1) (fld w 3 2) (fld w 0 3)) else
    .error (.unassignedSub 26)
  | 28 =>
    if bits w 5 2 = 0 then .ok (.vLxch (fld w 19 6) (fld w 13 6) (fld w 7 6) (fld w 3 2) (fld w 0 3)) else
    .error (.unassignedSub 28)
  | 29 =>
    if bits w 6 7 = 0 ∧ bits w 16 3 = 0 then .ok (.vPoll (fld w 19 6) (fld w 13 3) (fld w 3 3) (fld w 0 3)) else
    .error (.unassignedSub 29)
  | 30 =>
    if bits w 7 6 = 0 then .ok (.vLfold (fld w 19 6) (fld w 13 6) (fld w 3 4) (fld w 0 3)) else
    .error (.unassignedSub 30)
  | 32 =>
    .ok (.vLd (fld w 25 3) (fld w 19 6) (fld w 13 6) (fld w 7 6) (fld w 3 4) (fld w 0 3))
  | 33 =>
    .ok (.vLd (fld w 25 3) (fld w 19 6) (fld w 13 6) (fld w 7 6) (fld w 3 4) (fld w 0 3))
  | 34 =>
    .ok (.vLd (fld w 25 3) (fld w 19 6) (fld w 13 6) (fld w 7 6) (fld w 3 4) (fld w 0 3))
  | 35 =>
    .ok (.vLd (fld w 25 3) (fld w 19 6) (fld w 13 6) (fld w 7 6) (fld w 3 4) (fld w 0 3))
  | 36 =>
    .ok (.vLd (fld w 25 3) (fld w 19 6) (fld w 13 6) (fld w 7 6) (fld w 3 4) (fld w 0 3))
  | 37 =>
    if bits w 3 4 = 3 then .ok (.vCpy (fld w 19 6) (fld w 13 6) (fld w 7 6) (fld w 0 3)) else
    if bits w 6 1 = 0 then .ok (.vSt (fld w 19 6) (fld w 13 6) (fld w 7 6) (fld w 3 3) (fld w 0 3)) else
    .error (.unassignedSub 37)
  | 38 =>
    .ok (.vAtom (fld w 19 6) (fld w 13 6) (fld w 10 3) (fld w 7 3) (fld w 3 4) (fld w 0 3))
  | 39 =>
    .ok (.vRed (fld w 19 6) (fld w 13 6) (fld w 10 3) (fld w 7 3) (fld w 3 4) (fld w 0 3))
  | 40 =>
    if bits w 3 4 = 0 ∧ bits w 19 6 = 0 then .ok (.vPrefL1 (fld w 13 6) (fld w 7 6) (fld w 0 3)) else
    if bits w 3 4 = 0 ∧ bits w 19 6 = 1 then .ok (.vPrefL2 (fld w 13 6) (fld w 7 6) (fld w 0 3)) else
    if bits w 3 4 = 0 ∧ bits w 19 6 = 2 then .ok (.vDisc (fld w 13 6) (fld w 7 6) (fld w 0 3)) else
    .error (.unassignedSub 40)
  | 41 =>
    .ok (.vLds (fld w 19 6) (fld w 13 6) (fld w 11 2) (fld w 7 4) (fld w 3 4) (fld w 0 3))
  | 42 =>
    .ok (.vLdcl (fld w 19 6) (fld w 13 6) (fld w 11 2) (fld w 7 4) (fld w 3 4) (fld w 0 3))
  | 43 =>
    if bits w 6 1 = 0 then .ok (.vSts (fld w 19 6) (fld w 13 6) (fld w 7 6) (fld w 3 3) (fld w 0 3)) else
    if bits w 6 1 = 1 then .ok (.vStcl (fld w 19 6) (fld w 13 6) (fld w 7 6) (fld w 3 3) (fld w 0 3)) else
    .error (.unassignedSub 43)
  | 44 =>
    .ok (.vBd (fld w 22 3) (fld w 11 11) (fld w 0 11))
  | 45 =>
    .ok (.vBu (fld w 22 3) (fld w 0 22))
  | 46 =>
    .ok (.vJmpi (fld w 19 6) (fld w 11 8) (fld w 0 11))
  | 47 =>
    if bits w 6 5 = 0 then .ok (.vCalli (fld w 19 6) (fld w 11 8) (fld w 0 6)) else
    .error (.unassignedSub 47)
  | 48 =>
    if bits w 0 11 = 0 ∧ bits w 19 6 = 0 then .ok (.vPad (fld w 11 8)) else
    .error (.unassignedSub 48)
  | 49 =>
    if bits w 3 22 = 0 then .ok (.vExit (fld w 0 3)) else
    .error (.unassignedSub 49)
  | 52 =>
    .ok (.vMma (fld w 19 6) (fld w 13 6) (fld w 5 8) (fld w 4 1) (fld w 0 4))
  | 53 =>
    if bits w 4 1 = 0 ∧ bits w 13 12 = 0 then .ok (.vMzero (fld w 5 8) (fld w 0 4)) else
    .error (.unassignedSub 53)
  | 54 =>
    if bits w 19 6 = 0 then .ok (.vMld (fld w 13 6) (fld w 5 8) (fld w 4 1) (fld w 0 4)) else
    .error (.unassignedSub 54)
  | 55 =>
    if bits w 19 6 = 0 then .ok (.vMst (fld w 13 6) (fld w 5 8) (fld w 4 1) (fld w 0 4)) else
    .error (.unassignedSub 55)
  | 56 =>
    .ok (.vMdrain (fld w 19 6) (fld w 13 6) (fld w 5 8) (fld w 4 1) (fld w 0 4))
  | 57 =>
    if bits w 3 4 = 0 then .ok (.vTcheck (fld w 19 6) (fld w 13 6) (fld w 7 6) (fld w 0 3)) else
    .error (.unassignedSub 57)
  | 58 =>
    if bits w 3 4 = 0 ∧ bits w 19 6 = 0 then .ok (.vChsend (fld w 13 6) (fld w 7 6) (fld w 0 3)) else
    .error (.unassignedSub 58)
  | 59 =>
    if bits w 3 4 = 0 ∧ bits w 13 6 = 0 then .ok (.vChrecv (fld w 19 6) (fld w 7 6) (fld w 0 3)) else
    .error (.unassignedSub 59)
  | 60 =>
    if bits w 3 4 = 0 ∧ bits w 19 6 = 0 then .ok (.vRchk (fld w 13 6) (fld w 7 6) (fld w 0 3)) else
    .error (.unassignedSub 60)
  | 61 =>
    if bits w 4 15 = 0 then .ok (.vRpois (fld w 19 6) (fld w 3 1) (fld w 0 3)) else
    .error (.unassignedSub 61)
  | 62 =>
    if bits w 4 9 = 0 ∧ bits w 22 3 = 0 then .ok (.vRtst (fld w 19 3) (fld w 13 6) (fld w 3 1) (fld w 0 3)) else
    if bits w 4 9 = 1 then .ok (.vRgen (fld w 19 6) (fld w 13 6) (fld w 3 1) (fld w 0 3)) else
    .error (.unassignedSub 62)
  | 64 =>
    if bits w 4 3 = 0 then .ok (.sAdd (fld w 19 6) (fld w 13 6) (fld w 7 6) (fld w 3 1) (fld w 0 3)) else
    if bits w 4 3 = 2 then .ok (.sSub (fld w 19 6) (fld w 13 6) (fld w 7 6) (fld w 3 1) (fld w 0 3)) else
    if bits w 4 3 = 5 then .ok (.sMul (fld w 19 6) (fld w 13 6) (fld w 7 6) (fld w 3 1) (fld w 0 3)) else
    if bits w 4 3 = 6 then .ok (.sMulh (fld w 19 6) (fld w 13 6) (fld w 7 6) (fld w 3 1) (fld w 0 3)) else
    .error (.unassignedSub 64)
  | 65 =>
    if bits w 3 4 = 0 then .ok (.sAnd (fld w 19 6) (fld w 13 6) (fld w 7 6) (fld w 0 3)) else
    if bits w 3 4 = 1 then .ok (.sOr (fld w 19 6) (fld w 13 6) (fld w 7 6) (fld w 0 3)) else
    if bits w 3 4 = 2 then .ok (.sXor (fld w 19 6) (fld w 13 6) (fld w 7 6) (fld w 0 3)) else
    if bits w 3 4 = 3 then .ok (.sAndn (fld w 19 6) (fld w 13 6) (fld w 7 6) (fld w 0 3)) else
    if bits w 3 4 = 4 then .ok (.sShl (fld w 19 6) (fld w 13 6) (fld w 7 6) (fld w 0 3)) else
    if bits w 3 4 = 5 then .ok (.sShr (fld w 19 6) (fld w 13 6) (fld w 7 6) (fld w 0 3)) else
    if bits w 3 4 = 6 then .ok (.sSar (fld w 19 6) (fld w 13 6) (fld w 7 6) (fld w 0 3)) else
    .error (.unassignedSub 65)
  | 66 =>
    if bits w 4 1 = 0 ∧ bits w 6 1 = 0 then .ok (.sMin (fld w 19 6) (fld w 13 6) (fld w 7 6) (fld w 5 1) (fld w 3 1) (fld w 0 3)) else
    if bits w 4 1 = 1 ∧ bits w 6 1 = 0 then .ok (.sMax (fld w 19 6) (fld w 13 6) (fld w 7 6) (fld w 5 1) (fld w 3 1) (fld w 0 3)) else
    .error (.unassignedSub 66)
  | 67 =>
    if bits w 22 3 = 0 then .ok (.sCmp (fld w 19 3) (fld w 13 6) (fld w 7 6) (fld w 6 1) (fld w 3 3) (fld w 0 3)) else
    .error (.unassignedSub 67)
  | 68 =>
    if bits w 3 3 = 7 ∧ bits w 7 6 = 0 then .ok (.sMov (fld w 19 6) (fld w 13 6) (fld w 6 1) (fld w 0 3)) else
    .ok (.sSel (fld w 19 6) (fld w 13 6) (fld w 7 6) (fld w 6 1) (fld w 3 3) (fld w 0 3))
  | 69 =>
    if bits w 10 3 = 0 ∧ bits w 16 3 = 0 ∧ bits w 22 3 = 0 then .ok (.sQset (fld w 19 3) (fld w 13 3) (fld w 7 3) (fld w 3 4) (fld w 0 3)) else
    .error (.unassignedSub 69)
  | 70 =>
    .ok (.sAddi (fld w 19 6) (fld w 13 6) (fld w 3 10) (fld w 0 3))
  | 71 =>
    .ok (.sAndi (fld w 19 6) (fld w 13 6) (fld w 3 10) (fld w 0 3))
  | 72 =>
    .ok (.sOri (fld w 19 6) (fld w 13 6) (fld w 3 10) (fld w 0 3))
  | 73 =>
    .ok (.sXori (fld w 19 6) (fld w 13 6) (fld w 3 10) (fld w 0 3))
  | 74 =>
    if bits w 8 5 = 0 then .ok (.sShli (fld w 19 6) (fld w 13 6) (fld w 3 5) (fld w 0 3)) else
    if bits w 8 5 = 1 then .ok (.sShri (fld w 19 6) (fld w 13 6) (fld w 3 5) (fld w 0 3)) else
    .error (.unassignedSub 74)
  | 75 =>
    if bits w 22 3 = 0 then .ok (.sCmpi (fld w 19 3) (fld w 13 6) (fld w 10 3) (fld w 3 7) (fld w 0 3)) else
    .error (.unassignedSub 75)
  | 76 =>
    .ok (.sMovi (fld w 19 6) (fld w 3 16) (fld w 0 3))
  | 77 =>
    .ok (.sMovl (fld w 19 6) (fld w 3 16) (fld w 0 3))
  | 78 =>
    .ok (.sMovh (fld w 19 6) (fld w 3 16) (fld w 0 3))
  | 80 =>
    .ok (.sSld (fld w 19 6) (fld w 13 6) (fld w 11 2) (fld w 7 4) (fld w 3 4) (fld w 0 3))
  | 81 =>
    if bits w 6 1 = 0 then .ok (.sSst (fld w 19 6) (fld w 13 6) (fld w 7 6) (fld w 3 3) (fld w 0 3)) else
    .error (.unassignedSub 81)
  | 82 =>
    .ok (.sSatom (fld w 19 6) (fld w 13 6) (fld w 10 3) (fld w 7 3) (fld w 3 4) (fld w 0 3))
  | 88 =>
    .ok (.sB (fld w 3 22) (fld w 0 3))
  | 89 =>
    .ok (.sCall (fld w 19 6) (fld w 3 16) (fld w 0 3))
  | 90 =>
    if bits w 3 4 = 0 ∧ bits w 19 6 = 0 then .ok (.sCallu (fld w 13 6) (fld w 7 6) (fld w 0 3)) else
    .error (.unassignedSub 90)
  | 91 =>
    if bits w 3 22 = 0 then .ok (.sRet (fld w 0 3)) else
    .error (.unassignedSub 91)
  | 92 =>
    if bits w 3 10 = 0 ∧ bits w 19 6 = 0 then .ok (.sJmpu (fld w 13 6) (fld w 0 3)) else
    .error (.unassignedSub 92)
  | 93 =>
    if bits w 13 12 = 0 then .ok (.sEnter (fld w 3 10) (fld w 0 3)) else
    .error (.unassignedSub 93)
  | 94 =>
    if bits w 19 6 = 0 then .ok (.sLoop (fld w 13 6) (fld w 3 10) (fld w 0 3)) else
    .error (.unassignedSub 94)
  | 95 =>
    if bits w 3 22 = 0 then .ok (.sLbrk (fld w 0 3)) else
    .error (.unassignedSub 95)
  | 96 =>
    if bits w 3 22 = 0 then .ok (.sNop (fld w 0 3)) else
    .error (.unassignedSub 96)
  | 97 =>
    if bits w 13 12 = 0 then .ok (.sSleep (fld w 3 10) (fld w 0 3)) else
    .error (.unassignedSub 97)
  | 100 =>
    if bits w 3 4 = 0 ∧ bits w 11 14 = 0 then .ok (.sBar (fld w 7 4) (fld w 0 3)) else
    if bits w 3 4 = 1 ∧ bits w 11 14 = 0 then .ok (.sArv (fld w 7 4) (fld w 0 3)) else
    if bits w 3 4 = 2 ∧ bits w 11 14 = 0 then .ok (.sAwt (fld w 7 4) (fld w 0 3)) else
    .error (.unassignedSub 100)
  | 101 =>
    if bits w 3 22 = 0 then .ok (.sGbar (fld w 0 3)) else
    .error (.unassignedSub 101)
  | 102 =>
    if bits w 6 1 = 0 ∧ bits w 10 15 = 0 then .ok (.sFence (fld w 7 3) (fld w 3 3) (fld w 0 3)) else
    .error (.unassignedSub 102)
  | 103 =>
    .ok (.sWaitv (fld w 19 6) (fld w 13 6) (fld w 7 6) (fld w 6 1) (fld w 3 3) (fld w 0 3))
  | 104 =>
    if bits w 3 16 = 0 then .ok (.sCseal (fld w 19 6) (fld w 0 3)) else
    .error (.unassignedSub 104)
  | 105 =>
    if bits w 13 12 = 0 then .ok (.sCwait (fld w 3 10) (fld w 0 3)) else
    .error (.unassignedSub 105)
  | 106 =>
    .ok (.sCyield (fld w 3 22) (fld w 0 3))
  | 107 =>
    if bits w 8 17 = 0 then .ok (.sMwait (fld w 7 1) (fld w 3 4) (fld w 0 3)) else
    .error (.unassignedSub 107)
  | 108 =>
    if bits w 4 9 = 0 then .ok (.sRds (fld w 19 6) (fld w 13 6) (fld w 3 1) (fld w 0 3)) else
    .error (.unassignedSub 108)
  | 109 =>
    if bits w 3 4 = 0 ∧ bits w 19 6 = 0 then .ok (.sWrs (fld w 13 6) (fld w 7 6) (fld w 0 3)) else
    .error (.unassignedSub 109)
  | 110 =>
    if bits w 3 10 = 0 ∧ bits w 19 6 = 0 then .ok (.sSetfmt (fld w 13 6) (fld w 0 3)) else
    if bits w 3 2 = 0 ∧ bits w 6 1 = 1 then .ok (.sSetfmtImm (fld w 19 6) (fld w 13 6) (fld w 7 6) (fld w 5 1) (fld w 0 3)) else
    .error (.unassignedSub 110)
  | 111 =>
    if bits w 3 4 = 1 ∧ bits w 10 15 = 0 then .ok (.sWrexecP (fld w 7 3) (fld w 0 3)) else
    if bits w 3 10 = 0 ∧ bits w 19 6 = 0 then .ok (.sWrexec (fld w 13 6) (fld w 0 3)) else
    .error (.unassignedSub 111)
  | 112 =>
    if bits w 3 10 = 0 then .ok (.sLaunch (fld w 19 6) (fld w 13 6) (fld w 0 3)) else
    .error (.unassignedSub 112)
  | 113 =>
    if bits w 3 22 = 0 then .ok (.sLwait (fld w 0 3)) else
    if bits w 3 10 = 1 ∧ bits w 19 6 = 0 then .ok (.sLwaitGrid (fld w 13 6) (fld w 0 3)) else
    .error (.unassignedSub 113)
  | 114 =>
    if bits w 3 22 = 0 then .ok (.sKemit (fld w 0 3)) else
    .error (.unassignedSub 114)
  | 115 =>
    if bits w 3 22 = 0 then .ok (.sKcancel (fld w 0 3)) else
    .error (.unassignedSub 115)
  | 116 =>
    if bits w 3 22 = 0 then .ok (.sKrepeat (fld w 0 3)) else
    .error (.unassignedSub 116)
  | 117 =>
    if bits w 3 22 = 0 then .ok (.sKdone (fld w 0 3)) else
    .error (.unassignedSub 117)
  | 120 =>
    if bits w 3 10 = 0 ∧ bits w 19 6 = 0 then .ok (.sSys (fld w 13 6) (fld w 0 3)) else
    .error (.unassignedSub 120)
  | 121 =>
    if bits w 3 22 = 0 then .ok (.sHcall (fld w 0 3)) else
    .error (.unassignedSub 121)
  | 122 =>
    if bits w 3 22 = 0 then .ok (.sTret (fld w 0 3)) else
    .error (.unassignedSub 122)
  | 123 =>
    if bits w 3 22 = 10 then .ok (.sTlbiAll (fld w 0 3)) else
    if bits w 3 4 = 1 ∧ bits w 13 12 = 0 then .ok (.sTlbiCtx (fld w 7 6) (fld w 0 3)) else
    if bits w 3 4 = 2 ∧ bits w 13 12 = 0 then .ok (.sTlbiGlob (fld w 7 6) (fld w 0 3)) else
    if bits w 3 4 = 9 ∧ bits w 13 12 = 0 then .ok (.sTlbiS2 (fld w 7 6) (fld w 0 3)) else
    if bits w 3 4 = 0 ∧ bits w 19 6 = 0 then .ok (.sTlbiVa (fld w 13 6) (fld w 7 6) (fld w 0 3)) else
    if bits w 3 4 = 8 ∧ bits w 19 6 = 0 then .ok (.sTlbiIpa (fld w 13 6) (fld w 7 6) (fld w 0 3)) else
    .error (.unassignedSub 123)
  | 124 =>
    if bits w 3 10 = 0 ∧ bits w 19 6 = 0 then .ok (.sKeyret (fld w 13 6) (fld w 0 3)) else
    .error (.unassignedSub 124)
  | 125 =>
    if bits w 3 22 = 0 then .ok (.sExit (fld w 0 3)) else
    .error (.unassignedSub 125)
  | op => .error (.unassignedOp op)

/-- The instruction a word is, or why it is none. -/
def decode (w : BitVec 32) : Except DecodeError Instr :=
  if w = 0 then .error .zeroWord else decodeOp w (bits w 25 7)

/-- The word of an instruction, from the same tables; a hardware step has none. -/
def encode : Instr → Option (BitVec 32)
  | .vAdd d a b t p => some (BitVec.ofNat 32 (0 + d.toNat * 524288 + a.toNat * 8192 + b.toNat * 128 + t.toNat * 8 + p.toNat))
  | .vSub d a b t p => some (BitVec.ofNat 32 (32 + d.toNat * 524288 + a.toNat * 8192 + b.toNat * 128 + t.toNat * 8 + p.toNat))
  | .vAddx d a b p => some (BitVec.ofNat 32 (64 + d.toNat * 524288 + a.toNat * 8192 + b.toNat * 128 + p.toNat))
  | .vSubx d a b p => some (BitVec.ofNat 32 (72 + d.toNat * 524288 + a.toNat * 8192 + b.toNat * 128 + p.toNat))
  | .vMul d a b t p => some (BitVec.ofNat 32 (80 + d.toNat * 524288 + a.toNat * 8192 + b.toNat * 128 + t.toNat * 8 + p.toNat))
  | .vMulh d a b s p => some (BitVec.ofNat 32 (96 + d.toNat * 524288 + a.toNat * 8192 + b.toNat * 128 + s.toNat * 8 + p.toNat))
  | .vMad d a b p => some (BitVec.ofNat 32 (112 + d.toNat * 524288 + a.toNat * 8192 + b.toNat * 128 + p.toNat))
  | .vMadw d a b s p => some (BitVec.ofNat 32 (33554432 + d.toNat * 524288 + a.toNat * 8192 + b.toNat * 128 + s.toNat * 8 + p.toNat))
  | .vSad d a b s p => some (BitVec.ofNat 32 (33554448 + d.toNat * 524288 + a.toNat * 8192 + b.toNat * 128 + s.toNat * 8 + p.toNat))
  | .vAbs d a p => some (BitVec.ofNat 32 (33554464 + d.toNat * 524288 + a.toNat * 8192 + p.toNat))
  | .vNegI32 d a p => some (BitVec.ofNat 32 (33554472 + d.toNat * 524288 + a.toNat * 8192 + p.toNat))
  | .vNegI64 d a p => some (BitVec.ofNat 32 (33554480 + d.toNat * 524288 + a.toNat * 8192 + p.toNat))
  | .vBfxN32 d a b p => some (BitVec.ofNat 32 (33554488 + d.toNat * 524288 + a.toNat * 8192 + b.toNat * 128 + p.toNat))
  | .vBfxI32 d a b p => some (BitVec.ofNat 32 (33554496 + d.toNat * 524288 + a.toNat * 8192 + b.toNat * 128 + p.toNat))
  | .vBfi d a b p => some (BitVec.ofNat 32 (33554504 + d.toNat * 524288 + a.toNat * 8192 + b.toNat * 128 + p.toNat))
  | .vBpick d a b p => some (BitVec.ofNat 32 (33554512 + d.toNat * 524288 + a.toNat * 8192 + b.toNat * 128 + p.toNat))
  | .vMovB32 d a p => some (BitVec.ofNat 32 (33554520 + d.toNat * 524288 + a.toNat * 8192 + p.toNat))
  | .vMovB64 d a p => some (BitVec.ofNat 32 (33554528 + d.toNat * 524288 + a.toNat * 8192 + p.toNat))
  | .vMin d a b w s p => some (BitVec.ofNat 32 (67108864 + d.toNat * 524288 + a.toNat * 8192 + b.toNat * 128 + w.toNat * 32 + s.toNat * 8 + p.toNat))
  | .vMax d a b w s p => some (BitVec.ofNat 32 (67108880 + d.toNat * 524288 + a.toNat * 8192 + b.toNat * 128 + w.toNat * 32 + s.toNat * 8 + p.toNat))
  | .vAnd d a b p => some (BitVec.ofNat 32 (100663296 + d.toNat * 524288 + a.toNat * 8192 + b.toNat * 128 + p.toNat))
  | .vOr d a b p => some (BitVec.ofNat 32 (100663304 + d.toNat * 524288 + a.toNat * 8192 + b.toNat * 128 + p.toNat))
  | .vXor d a b p => some (BitVec.ofNat 32 (100663312 + d.toNat * 524288 + a.toNat * 8192 + b.toNat * 128 + p.toNat))
  | .vAndn d a b p => some (BitVec.ofNat 32 (100663320 + d.toNat * 524288 + a.toNat * 8192 + b.toNat * 128 + p.toNat))
  | .vShl d a b p => some (BitVec.ofNat 32 (100663328 + d.toNat * 524288 + a.toNat * 8192 + b.toNat * 128 + p.toNat))
  | .vShr d a b p => some (BitVec.ofNat 32 (100663336 + d.toNat * 524288 + a.toNat * 8192 + b.toNat * 128 + p.toNat))
  | .vSar d a b p => some (BitVec.ofNat 32 (100663344 + d.toNat * 524288 + a.toNat * 8192 + b.toNat * 128 + p.toNat))
  | .vRot d a b p => some (BitVec.ofNat 32 (100663352 + d.toNat * 524288 + a.toNat * 8192 + b.toNat * 128 + p.toNat))
  | .vShf d a b p => some (BitVec.ofNat 32 (100663360 + d.toNat * 524288 + a.toNat * 8192 + b.toNat * 128 + p.toNat))
  | .vClz d a p => some (BitVec.ofNat 32 (100663368 + d.toNat * 524288 + a.toNat * 8192 + p.toNat))
  | .vPopc d a p => some (BitVec.ofNat 32 (100663376 + d.toNat * 524288 + a.toNat * 8192 + p.toNat))
  | .vBrev d a p => some (BitVec.ofNat 32 (100663384 + d.toNat * 524288 + a.toNat * 8192 + p.toNat))
  | .vSel d a b w n p => some (BitVec.ofNat 32 (134217728 + d.toNat * 524288 + a.toNat * 8192 + b.toNat * 128 + w.toNat * 64 + n.toNat * 8 + p.toNat))
  | .vCmp d a b w c p => some (BitVec.ofNat 32 (167772160 + d.toNat * 524288 + a.toNat * 8192 + b.toNat * 128 + w.toNat * 64 + c.toNat * 8 + p.toNat))
  | .vPset d a b t p => some (BitVec.ofNat 32 (201326592 + d.toNat * 524288 + a.toNat * 8192 + b.toNat * 128 + t.toNat * 8 + p.toNat))
  | .vAddi d a i p => some (BitVec.ofNat 32 (234881024 + d.toNat * 524288 + a.toNat * 8192 + i.toNat * 8 + p.toNat))
  | .vAndi d a i p => some (BitVec.ofNat 32 (268435456 + d.toNat * 524288 + a.toNat * 8192 + i.toNat * 8 + p.toNat))
  | .vOri d a i p => some (BitVec.ofNat 32 (301989888 + d.toNat * 524288 + a.toNat * 8192 + i.toNat * 8 + p.toNat))
  | .vXori d a i p => some (BitVec.ofNat 32 (335544320 + d.toNat * 524288 + a.toNat * 8192 + i.toNat * 8 + p.toNat))
  | .vShli d a k p => some (BitVec.ofNat 32 (369098752 + d.toNat * 524288 + a.toNat * 8192 + k.toNat * 8 + p.toNat))
  | .vShri d a k p => some (BitVec.ofNat 32 (369099008 + d.toNat * 524288 + a.toNat * 8192 + k.toNat * 8 + p.toNat))
  | .vCmpi d a c i p => some (BitVec.ofNat 32 (402653184 + d.toNat * 524288 + a.toNat * 8192 + c.toNat * 1024 + i.toNat * 8 + p.toNat))
  | .vMovi d i p => some (BitVec.ofNat 32 (436207616 + d.toNat * 524288 + i.toNat * 8 + p.toNat))
  | .vMovl d i p => some (BitVec.ofNat 32 (469762048 + d.toNat * 524288 + i.toNat * 8 + p.toNat))
  | .vMovh d i p => some (BitVec.ofNat 32 (503316480 + d.toNat * 524288 + i.toNat * 8 + p.toNat))
  | .vFadd d a b r t p => some (BitVec.ofNat 32 (536870912 + d.toNat * 524288 + a.toNat * 8192 + b.toNat * 128 + r.toNat * 64 + t.toNat * 8 + p.toNat))
  | .vFsub d a b r t p => some (BitVec.ofNat 32 (536870944 + d.toNat * 524288 + a.toNat * 8192 + b.toNat * 128 + r.toNat * 64 + t.toNat * 8 + p.toNat))
  | .vFmul d a b r t p => some (BitVec.ofNat 32 (570425344 + d.toNat * 524288 + a.toNat * 8192 + b.toNat * 128 + r.toNat * 64 + t.toNat * 8 + p.toNat))
  | .vFma d a b r t p => some (BitVec.ofNat 32 (603979776 + d.toNat * 524288 + a.toNat * 8192 + b.toNat * 128 + r.toNat * 64 + t.toNat * 8 + p.toNat))
  | .vFmin d a b t p => some (BitVec.ofNat 32 (637534208 + d.toNat * 524288 + a.toNat * 8192 + b.toNat * 128 + t.toNat * 8 + p.toNat))
  | .vFmax d a b t p => some (BitVec.ofNat 32 (637534240 + d.toNat * 524288 + a.toNat * 8192 + b.toNat * 128 + t.toNat * 8 + p.toNat))
  | .vFneg d a t p => some (BitVec.ofNat 32 (637534272 + d.toNat * 524288 + a.toNat * 8192 + t.toNat * 8 + p.toNat))
  | .vFabs d a t p => some (BitVec.ofNat 32 (637534304 + d.toNat * 524288 + a.toNat * 8192 + t.toNat * 8 + p.toNat))
  | .vFcmp d a b c t p => some (BitVec.ofNat 32 (671088640 + d.toNat * 524288 + a.toNat * 8192 + b.toNat * 128 + c.toNat * 16 + t.toNat * 8 + p.toNat))
  | .vFclass d a t p => some (BitVec.ofNat 32 (671088752 + d.toNat * 524288 + a.toNat * 8192 + t.toNat * 8 + p.toNat))
  | .vFrcp d a t l p => some (BitVec.ofNat 32 (704643072 + d.toNat * 524288 + a.toNat * 8192 + t.toNat * 2048 + l.toNat * 128 + p.toNat))
  | .vFrsq d a t l p => some (BitVec.ofNat 32 (704643080 + d.toNat * 524288 + a.toNat * 8192 + t.toNat * 2048 + l.toNat * 128 + p.toNat))
  | .vFsqrt d a t l p => some (BitVec.ofNat 32 (704643088 + d.toNat * 524288 + a.toNat * 8192 + t.toNat * 2048 + l.toNat * 128 + p.toNat))
  | .vFex2 d a t l p => some (BitVec.ofNat 32 (704643096 + d.toNat * 524288 + a.toNat * 8192 + t.toNat * 2048 + l.toNat * 128 + p.toNat))
  | .vFlg2 d a t l p => some (BitVec.ofNat 32 (704643104 + d.toNat * 524288 + a.toNat * 8192 + t.toNat * 2048 + l.toNat * 128 + p.toNat))
  | .vFsin d a t l p => some (BitVec.ofNat 32 (704643112 + d.toNat * 524288 + a.toNat * 8192 + t.toNat * 2048 + l.toNat * 128 + p.toNat))
  | .vFcos d a t l p => some (BitVec.ofNat 32 (704643120 + d.toNat * 524288 + a.toNat * 8192 + t.toNat * 2048 + l.toNat * 128 + p.toNat))
  | .vFdiv d a b t p => some (BitVec.ofNat 32 (738197504 + d.toNat * 524288 + a.toNat * 8192 + b.toNat * 128 + t.toNat * 8 + p.toNat))
  | .vFscale d a b t p => some (BitVec.ofNat 32 (738197536 + d.toNat * 524288 + a.toNat * 8192 + b.toNat * 128 + t.toNat * 8 + p.toNat))
  | .vFrnd d a m t p => some (BitVec.ofNat 32 (738197568 + d.toNat * 524288 + a.toNat * 8192 + m.toNat * 128 + t.toNat * 8 + p.toNat))
  | .vCvt d a r s t p => some (BitVec.ofNat 32 (805306368 + d.toNat * 524288 + a.toNat * 8192 + r.toNat * 4096 + s.toNat * 128 + t.toNat * 8 + p.toNat))
  | .vCvtnPk d a b k p => some (BitVec.ofNat 32 (838860800 + d.toNat * 524288 + a.toNat * 8192 + b.toNat * 128 + k.toNat * 8 + p.toNat))
  | .vCvtnUnpk d a b k p => some (BitVec.ofNat 32 (838860864 + d.toNat * 524288 + a.toNat * 8192 + b.toNat * 128 + k.toNat * 8 + p.toNat))
  | .vCvtw d a w n s k p => some (BitVec.ofNat 32 (872415232 + d.toNat * 524288 + a.toNat * 8192 + w.toNat * 128 + n.toNat * 64 + s.toNat * 32 + k.toNat * 8 + p.toNat))
  | .vLxch d a b m p => some (BitVec.ofNat 32 (939524096 + d.toNat * 524288 + a.toNat * 8192 + b.toNat * 128 + m.toNat * 8 + p.toNat))
  | .vPoll d a m p => some (BitVec.ofNat 32 (973078528 + d.toNat * 524288 + a.toNat * 8192 + m.toNat * 8 + p.toNat))
  | .vLfold d a f p => some (BitVec.ofNat 32 (1006632960 + d.toNat * 524288 + a.toNat * 8192 + f.toNat * 8 + p.toNat))
  | .vLd s t a b l p => some (BitVec.ofNat 32 (1073741824 + s.toNat * 33554432 + t.toNat * 524288 + a.toNat * 8192 + b.toNat * 128 + l.toNat * 8 + p.toNat))
  | .vSt t a b z p => some (BitVec.ofNat 32 (1241513984 + t.toNat * 524288 + a.toNat * 8192 + b.toNat * 128 + z.toNat * 8 + p.toNat))
  | .vCpy t a b p => some (BitVec.ofNat 32 (1241514008 + t.toNat * 524288 + a.toNat * 8192 + b.toNat * 128 + p.toNat))
  | .vAtom t a s o k p => some (BitVec.ofNat 32 (1275068416 + t.toNat * 524288 + a.toNat * 8192 + s.toNat * 1024 + o.toNat * 128 + k.toNat * 8 + p.toNat))
  | .vRed t a s o k p => some (BitVec.ofNat 32 (1308622848 + t.toNat * 524288 + a.toNat * 8192 + s.toNat * 1024 + o.toNat * 128 + k.toNat * 8 + p.toNat))
  | .vPrefL1 a b p => some (BitVec.ofNat 32 (1342177280 + a.toNat * 8192 + b.toNat * 128 + p.toNat))
  | .vPrefL2 a b p => some (BitVec.ofNat 32 (1342701568 + a.toNat * 8192 + b.toNat * 128 + p.toNat))
  | .vDisc a b p => some (BitVec.ofNat 32 (1343225856 + a.toNat * 8192 + b.toNat * 128 + p.toNat))
  | .vLds t a z o l p => some (BitVec.ofNat 32 (1375731712 + t.toNat * 524288 + a.toNat * 8192 + z.toNat * 2048 + o.toNat * 128 + l.toNat * 8 + p.toNat))
  | .vLdcl t a z o l p => some (BitVec.ofNat 32 (1409286144 + t.toNat * 524288 + a.toNat * 8192 + z.toNat * 2048 + o.toNat * 128 + l.toNat * 8 + p.toNat))
  | .vSts t a o z p => some (BitVec.ofNat 32 (1442840576 + t.toNat * 524288 + a.toNat * 8192 + o.toNat * 128 + z.toNat * 8 + p.toNat))
  | .vStcl t a o z p => some (BitVec.ofNat 32 (1442840640 + t.toNat * 524288 + a.toNat * 8192 + o.toNat * 128 + z.toNat * 8 + p.toNat))
  | .vBd c t j => some (BitVec.ofNat 32 (1476395008 + c.toNat * 4194304 + t.toNat * 2048 + j.toNat))
  | .vBu c d => some (BitVec.ofNat 32 (1509949440 + c.toNat * 4194304 + d.toNat))
  | .vJmpi a t j => some (BitVec.ofNat 32 (1543503872 + a.toNat * 524288 + t.toNat * 2048 + j.toNat))
  | .vCalli a t s => some (BitVec.ofNat 32 (1577058304 + a.toNat * 524288 + t.toNat * 2048 + s.toNat))
  | .vPad t => some (BitVec.ofNat 32 (1610612736 + t.toNat * 2048))
  | .vExit p => some (BitVec.ofNat 32 (1644167168 + p.toNat))
  | .vMma a b c r k => some (BitVec.ofNat 32 (1744830464 + a.toNat * 524288 + b.toNat * 8192 + c.toNat * 32 + r.toNat * 16 + k.toNat))
  | .vMzero c k => some (BitVec.ofNat 32 (1778384896 + c.toNat * 32 + k.toNat))
  | .vMld b c r k => some (BitVec.ofNat 32 (1811939328 + b.toNat * 8192 + c.toNat * 32 + r.toNat * 16 + k.toNat))
  | .vMst b c r k => some (BitVec.ofNat 32 (1845493760 + b.toNat * 8192 + c.toNat * 32 + r.toNat * 16 + k.toNat))
  | .vMdrain a b c z k => some (BitVec.ofNat 32 (1879048192 + a.toNat * 524288 + b.toNat * 8192 + c.toNat * 32 + z.toNat * 16 + k.toNat))
  | .vTcheck t a b p => some (BitVec.ofNat 32 (1912602624 + t.toNat * 524288 + a.toNat * 8192 + b.toNat * 128 + p.toNat))
  | .vChsend a c p => some (BitVec.ofNat 32 (1946157056 + a.toNat * 8192 + c.toNat * 128 + p.toNat))
  | .vChrecv d c p => some (BitVec.ofNat 32 (1979711488 + d.toNat * 524288 + c.toNat * 128 + p.toNat))
  | .vRchk a n p => some (BitVec.ofNat 32 (2013265920 + a.toNat * 8192 + n.toNat * 128 + p.toNat))
  | .vRpois d w p => some (BitVec.ofNat 32 (2046820352 + d.toNat * 524288 + w.toNat * 8 + p.toNat))
  | .vRtst d a w p => some (BitVec.ofNat 32 (2080374784 + d.toNat * 524288 + a.toNat * 8192 + w.toNat * 8 + p.toNat))
  | .vRgen d a w p => some (BitVec.ofNat 32 (2080374800 + d.toNat * 524288 + a.toNat * 8192 + w.toNat * 8 + p.toNat))
  | .sAdd d a b t g => some (BitVec.ofNat 32 (2147483648 + d.toNat * 524288 + a.toNat * 8192 + b.toNat * 128 + t.toNat * 8 + g.toNat))
  | .sSub d a b t g => some (BitVec.ofNat 32 (2147483680 + d.toNat * 524288 + a.toNat * 8192 + b.toNat * 128 + t.toNat * 8 + g.toNat))
  | .sMul d a b t g => some (BitVec.ofNat 32 (2147483728 + d.toNat * 524288 + a.toNat * 8192 + b.toNat * 128 + t.toNat * 8 + g.toNat))
  | .sMulh d a b s g => some (BitVec.ofNat 32 (2147483744 + d.toNat * 524288 + a.toNat * 8192 + b.toNat * 128 + s.toNat * 8 + g.toNat))
  | .sAnd d a b g => some (BitVec.ofNat 32 (2181038080 + d.toNat * 524288 + a.toNat * 8192 + b.toNat * 128 + g.toNat))
  | .sOr d a b g => some (BitVec.ofNat 32 (2181038088 + d.toNat * 524288 + a.toNat * 8192 + b.toNat * 128 + g.toNat))
  | .sXor d a b g => some (BitVec.ofNat 32 (2181038096 + d.toNat * 524288 + a.toNat * 8192 + b.toNat * 128 + g.toNat))
  | .sAndn d a b g => some (BitVec.ofNat 32 (2181038104 + d.toNat * 524288 + a.toNat * 8192 + b.toNat * 128 + g.toNat))
  | .sShl d a b g => some (BitVec.ofNat 32 (2181038112 + d.toNat * 524288 + a.toNat * 8192 + b.toNat * 128 + g.toNat))
  | .sShr d a b g => some (BitVec.ofNat 32 (2181038120 + d.toNat * 524288 + a.toNat * 8192 + b.toNat * 128 + g.toNat))
  | .sSar d a b g => some (BitVec.ofNat 32 (2181038128 + d.toNat * 524288 + a.toNat * 8192 + b.toNat * 128 + g.toNat))
  | .sMin d a b w s g => some (BitVec.ofNat 32 (2214592512 + d.toNat * 524288 + a.toNat * 8192 + b.toNat * 128 + w.toNat * 32 + s.toNat * 8 + g.toNat))
  | .sMax d a b w s g => some (BitVec.ofNat 32 (2214592528 + d.toNat * 524288 + a.toNat * 8192 + b.toNat * 128 + w.toNat * 32 + s.toNat * 8 + g.toNat))
  | .sCmp d a b w c g => some (BitVec.ofNat 32 (2248146944 + d.toNat * 524288 + a.toNat * 8192 + b.toNat * 128 + w.toNat * 64 + c.toNat * 8 + g.toNat))
  | .sSel d a b w n g => some (BitVec.ofNat 32 (2281701376 + d.toNat * 524288 + a.toNat * 8192 + b.toNat * 128 + w.toNat * 64 + n.toNat * 8 + g.toNat))
  | .sMov d a w g => some (BitVec.ofNat 32 (2281701432 + d.toNat * 524288 + a.toNat * 8192 + w.toNat * 64 + g.toNat))
  | .sQset d a b t g => some (BitVec.ofNat 32 (2315255808 + d.toNat * 524288 + a.toNat * 8192 + b.toNat * 128 + t.toNat * 8 + g.toNat))
  | .sAddi d a i g => some (BitVec.ofNat 32 (2348810240 + d.toNat * 524288 + a.toNat * 8192 + i.toNat * 8 + g.toNat))
  | .sAndi d a i g => some (BitVec.ofNat 32 (2382364672 + d.toNat * 524288 + a.toNat * 8192 + i.toNat * 8 + g.toNat))
  | .sOri d a i g => some (BitVec.ofNat 32 (2415919104 + d.toNat * 524288 + a.toNat * 8192 + i.toNat * 8 + g.toNat))
  | .sXori d a i g => some (BitVec.ofNat 32 (2449473536 + d.toNat * 524288 + a.toNat * 8192 + i.toNat * 8 + g.toNat))
  | .sShli d a k g => some (BitVec.ofNat 32 (2483027968 + d.toNat * 524288 + a.toNat * 8192 + k.toNat * 8 + g.toNat))
  | .sShri d a k g => some (BitVec.ofNat 32 (2483028224 + d.toNat * 524288 + a.toNat * 8192 + k.toNat * 8 + g.toNat))
  | .sCmpi d a c i g => some (BitVec.ofNat 32 (2516582400 + d.toNat * 524288 + a.toNat * 8192 + c.toNat * 1024 + i.toNat * 8 + g.toNat))
  | .sMovi d i g => some (BitVec.ofNat 32 (2550136832 + d.toNat * 524288 + i.toNat * 8 + g.toNat))
  | .sMovl d i g => some (BitVec.ofNat 32 (2583691264 + d.toNat * 524288 + i.toNat * 8 + g.toNat))
  | .sMovh d i g => some (BitVec.ofNat 32 (2617245696 + d.toNat * 524288 + i.toNat * 8 + g.toNat))
  | .sSld t a z o l g => some (BitVec.ofNat 32 (2684354560 + t.toNat * 524288 + a.toNat * 8192 + z.toNat * 2048 + o.toNat * 128 + l.toNat * 8 + g.toNat))
  | .sSst t a o z g => some (BitVec.ofNat 32 (2717908992 + t.toNat * 524288 + a.toNat * 8192 + o.toNat * 128 + z.toNat * 8 + g.toNat))
  | .sSatom t a s o k g => some (BitVec.ofNat 32 (2751463424 + t.toNat * 524288 + a.toNat * 8192 + s.toNat * 1024 + o.toNat * 128 + k.toNat * 8 + g.toNat))
  | .sB d g => some (BitVec.ofNat 32 (2952790016 + d.toNat * 8 + g.toNat))
  | .sCall s d g => some (BitVec.ofNat 32 (2986344448 + s.toNat * 524288 + d.toNat * 8 + g.toNat))
  | .sCallu a s g => some (BitVec.ofNat 32 (3019898880 + a.toNat * 8192 + s.toNat * 128 + g.toNat))
  | .sRet g => some (BitVec.ofNat 32 (3053453312 + g.toNat))
  | .sJmpu a g => some (BitVec.ofNat 32 (3087007744 + a.toNat * 8192 + g.toNat))
  | .sEnter n g => some (BitVec.ofNat 32 (3120562176 + n.toNat * 8 + g.toNat))
  | .sLoop a e g => some (BitVec.ofNat 32 (3154116608 + a.toNat * 8192 + e.toNat * 8 + g.toNat))
  | .sLbrk g => some (BitVec.ofNat 32 (3187671040 + g.toNat))
  | .sNop g => some (BitVec.ofNat 32 (3221225472 + g.toNat))
  | .sSleep n g => some (BitVec.ofNat 32 (3254779904 + n.toNat * 8 + g.toNat))
  | .sBar b g => some (BitVec.ofNat 32 (3355443200 + b.toNat * 128 + g.toNat))
  | .sArv b g => some (BitVec.ofNat 32 (3355443208 + b.toNat * 128 + g.toNat))
  | .sAwt b g => some (BitVec.ofNat 32 (3355443216 + b.toNat * 128 + g.toNat))
  | .sGbar g => some (BitVec.ofNat 32 (3388997632 + g.toNat))
  | .sFence s o g => some (BitVec.ofNat 32 (3422552064 + s.toNat * 128 + o.toNat * 8 + g.toNat))
  | .sWaitv d a b w c g => some (BitVec.ofNat 32 (3456106496 + d.toNat * 524288 + a.toNat * 8192 + b.toNat * 128 + w.toNat * 64 + c.toNat * 8 + g.toNat))
  | .sCseal d g => some (BitVec.ofNat 32 (3489660928 + d.toNat * 524288 + g.toNat))
  | .sCwait n g => some (BitVec.ofNat 32 (3523215360 + n.toNat * 8 + g.toNat))
  | .sCyield d g => some (BitVec.ofNat 32 (3556769792 + d.toNat * 8 + g.toNat))
  | .sMwait l k g => some (BitVec.ofNat 32 (3590324224 + l.toNat * 128 + k.toNat * 8 + g.toNat))
  | .sRds d a v g => some (BitVec.ofNat 32 (3623878656 + d.toNat * 524288 + a.toNat * 8192 + v.toNat * 8 + g.toNat))
  | .sWrs a b g => some (BitVec.ofNat 32 (3657433088 + a.toNat * 8192 + b.toNat * 128 + g.toNat))
  | .sSetfmt a g => some (BitVec.ofNat 32 (3690987520 + a.toNat * 8192 + g.toNat))
  | .sSetfmtImm d a b i g => some (BitVec.ofNat 32 (3690987584 + d.toNat * 524288 + a.toNat * 8192 + b.toNat * 128 + i.toNat * 32 + g.toNat))
  | .sWrexec a g => some (BitVec.ofNat 32 (3724541952 + a.toNat * 8192 + g.toNat))
  | .sWrexecP n g => some (BitVec.ofNat 32 (3724541960 + n.toNat * 128 + g.toNat))
  | .sLaunch d a g => some (BitVec.ofNat 32 (3758096384 + d.toNat * 524288 + a.toNat * 8192 + g.toNat))
  | .sLwait g => some (BitVec.ofNat 32 (3791650816 + g.toNat))
  | .sLwaitGrid a g => some (BitVec.ofNat 32 (3791650824 + a.toNat * 8192 + g.toNat))
  | .sKemit g => some (BitVec.ofNat 32 (3825205248 + g.toNat))
  | .sKcancel g => some (BitVec.ofNat 32 (3858759680 + g.toNat))
  | .sKrepeat g => some (BitVec.ofNat 32 (3892314112 + g.toNat))
  | .sKdone g => some (BitVec.ofNat 32 (3925868544 + g.toNat))
  | .sSys n g => some (BitVec.ofNat 32 (4026531840 + n.toNat * 8192 + g.toNat))
  | .sHcall g => some (BitVec.ofNat 32 (4060086272 + g.toNat))
  | .sTret g => some (BitVec.ofNat 32 (4093640704 + g.toNat))
  | .sTlbiVa a b g => some (BitVec.ofNat 32 (4127195136 + a.toNat * 8192 + b.toNat * 128 + g.toNat))
  | .sTlbiCtx b g => some (BitVec.ofNat 32 (4127195144 + b.toNat * 128 + g.toNat))
  | .sTlbiGlob b g => some (BitVec.ofNat 32 (4127195152 + b.toNat * 128 + g.toNat))
  | .sTlbiIpa a b g => some (BitVec.ofNat 32 (4127195200 + a.toNat * 8192 + b.toNat * 128 + g.toNat))
  | .sTlbiS2 b g => some (BitVec.ofNat 32 (4127195208 + b.toNat * 128 + g.toNat))
  | .sTlbiAll g => some (BitVec.ofNat 32 (4127195216 + g.toNat))
  | .sKeyret a g => some (BitVec.ofNat 32 (4160749568 + a.toNat * 8192 + g.toNat))
  | .sExit g => some (BitVec.ofNat 32 (4194304000 + g.toNat))
  | .loadReturn _ _ => none
  | .vr1Result _ _ => none
  | .stackRd _ => none
  | .stackWr _ => none
  | .stackWrm _ => none
  | .stackReadReply _ => none
  | .stackWriteAck _ => none
  | .patrolScrub _ => none
  | .rowRepair _ _ _ => none
  | .lineRead _ => none
  | .wordRead _ => none
  | .prefL2 _ => none
  | .forwardRead _ => none
  | .write _ => none
  | .maskedWrite _ => none
  | .writeback _ => none
  | .atomic _ => none
  | .discard _ => none
  | .readData _ => none
  | .forwardData _ => none
  | .grant _ => none
  | .atomicResult _ => none
  | .partialData _ => none
  | .writeAck _ => none
  | .cleanAck _ => none
  | .routeLost _ => none
  | .refused _ => none
  | .done _ => none
  | .register _ => none
  | .revoke _ => none
  | .partialReq _ => none
  | .copyRead _ => none
  | .copyWrite _ => none
  | .copyMwrite _ => none
  | .slot _ => none
  | .credit _ => none
  | .statusRead _ => none
  | .statusData _ => none
  | .record _ => none
  | .control _ => none
  | .report _ => none
  | .flitCrcFail _ => none
  | .linkRetrain _ => none
  | .linkRetrainDone _ _ => none
  | .routingRewrite _ => none
  | .routingResume => none
  | .frameDrop _ => none
  | .arp _ => none
  | .neighborDiscovery _ => none
  | .nextHopExpiry _ _ => none
  | .portLinkDown _ _ => none
  | .pathRebind _ => none
  | .portRetire _ => none
  | .thtWrite _ => none
  | .thtRead _ => none
  | .thtReadResp _ => none
  | .thtAtomic _ => none
  | .thtAtomicResp _ => none
  | .thtNotify _ => none
  | .thtMgmt _ => none
  | .thtMgmtResp _ => none
  | .thtAck _ => none
  | .thtNak _ => none
  | .thtAckTimer _ => none
  | .thtRetransmitTimeout _ => none
  | .thtRateIncrease _ => none
  | .peritDataFrame _ => none
  | .peritAckFrame _ => none
  | .peritNakFrame _ => none
  | .peritTimeout _ => none
  | .invRead _ => none
  | .partSet _ => none
  | .partStatus _ => none
  | .drain _ => none
  | .undrain _ => none
  | .pathSet _ => none
  | .windowSet _ => none
  | .handleExport _ => none
  | .handleRevoke _ => none
  | .keyGen _ => none
  | .keyZero _ => none
  | .fwStage _ => none
  | .fwActivate _ => none
  | .attest _ => none
  | .powerCap _ => none
  | .portSet _ => none
  | .peerSet _ => none
  | .path0Sync _ => none
  | .inventorySnapshot => none
  | .cinderDescriptorRead => none
  | .powerMeasure _ => none
  | .clockStep => none
  | .droopStretch _ _ => none
  | .coreRetire _ _ => none
  | .dieFence _ => none
  | .checkpointRecovery => none
  | .hubFailure => none
  | .packageReset => none
  | .slotRead _ => none
  | .slotRereadTimer _ => none
  | .mirrorWrite _ => none
  | .launch _ => none
  | .eventSignal _ => none
  | .eventWait _ => none
  | .eventReread _ => none
  | .copy _ => none
  | .fence _ => none
  | .nop _ => none
  | .kilnRunStart _ => none
  | .prologueBudgetExceeded _ => none
  | .teamPlace _ => none
  | .queueStarvation _ => none
  | .candidatePin _ => none
  | .teamRetire _ _ _ => none
  | .preemptTrigger _ => none
  | .preemptSave _ _ _ => none
  | .teamRestore _ => none
  | .childSwapOut _ => none
  | .groupRaised _ => none
  | .sleepExpiry _ => none
  | .waitvReread _ => none
  | .mmaPassGrant _ _ => none
  | .matrixJobFinish _ _ _ => none
  | .copyJobStart _ _ _ => none
  | .copyJobFinish _ _ _ => none
  | .l1Eviction _ _ => none
  | .cachePowerGate _ _ _ => none
  | .unassignedEncoding _ => none
  | .frontEndPowerGating => none
  | .frontEndUngating => none
  | .supplySagEnd _ _ => none
  | .hubSlotRotation => none
  | .peritAckTimer _ => none

/-- Little-endian storage of an instruction word (R250, R4): the word of four bytes, lowest address first. -/
def wordOfBytes (b : List Byte) : BitVec 32 :=
  BitVec.ofNat 32 ((b.getD 0 0).toNat + (b.getD 1 0).toNat * 256 + (b.getD 2 0).toNat * 65536 + (b.getD 3 0).toNat * 16777216)

/-- The four bytes of a word, lowest address first (R4). -/
def bytesOfWord (w : BitVec 32) : List Byte :=
  [BitVec.ofNat 8 w.toNat, BitVec.ofNat 8 (w.toNat / 256), BitVec.ofNat 8 (w.toNat / 65536), BitVec.ofNat 8 (w.toNat / 16777216)]

/-- The decoder on bytes: the first instruction and the rest, or why there is none. -/
def decodeBytes : List Byte → Option (Except DecodeError Instr × List Byte)
  | a :: b :: c :: d :: rest => some (decode (wordOfBytes [a, b, c, d]), rest)
  | _ => none

/-- The host's reading: the instruction whose bits, numbered as the opcode table numbers them, are `w`. Every
instruction is one 32-bit word, so the bits above `nbits` are zero. -/
def decodeTableWord (nbits w : Nat) : Option Instr :=
  match decodeBytes (bytesOfWord (BitVec.ofNat 32 (w % 2 ^ nbits))) with
  | some (.ok i, _) => some i
  | _ => none

end Sys2Proof
end

