-- ==== Sys2Proof/Machine/State.lean ====
section
/-! DEFINITION. The state of the GN9 as plain data, and the state right after package reset. Every address-keyed or
number-keyed collection is a `Table`: a list of key and value pairs with strictly rising keys. Docstrings cite the rule
that names each piece of state. -/

namespace Sys2Proof.Machine

/-- A sparse collection by number, keys strictly rising. -/
abbrev Table (α : Type) := List (Nat × α)

/-! ### Lane groups and teams (chapters 6 and 7) -/

/-- An entry of the loop stack (R145). -/
structure Loop where
  start : Addr
  stop  : Addr
  count : BitVec 64
deriving DecidableEq, Repr

/-- A sub-stack entry of a group in group mode (R136, R142, R147). -/
structure Sub where
  joinPc : Addr
  pendPc : Addr
  pend   : BitVec 32
  arr    : BitVec 32
  fmt    : BitVec 32
  wb     : BitVec 16
  ldepth : Nat
  second : Bool
  indirect : Bool
deriving DecidableEq, Repr

/-- A team-stack entry in compact mode (R136). `running` lists, per compacted group of the running path, whether it still runs. -/
structure Top where
  joinPc : Addr
  pendPc : Addr
  fmt    : BitVec 32
  wb     : BitVec 16
  frame  : Nat
  ldepth : Nat
  second : Bool
  ngrp   : Nat
  ncomp  : Nat
  maskVa : Addr
  taken  : List (BitVec 32)
  bound  : List (BitVec 32)
deriving DecidableEq, Repr

/-- The stall a group holds (R110, R118): the twelve codes of R118 and the stalls no save record holds. -/
inductive Wait where
  | none
  | bar (b : Nat)
  | awt (b : Nat)
  | gbar
  | lwait (grid : Option Nat)
  | mwait (tok : Nat) (all : Bool)
  | cwait (n : Nat)
  | chsend (c : Nat)
  | chrecv (c : Nat)
  /-- remaining timeout in ck, `none` without one (R370) -/
  | waitv (rem : Option Nat)
  | sleep (rem : Nat)
  | meet
  | cyield (pc : Addr)
  /-- a long-latency instruction with `la` = 0 whose result the group awaits (R135) -/
  | load (id : Nat)
  /-- an atomic or another access whose result holds the group's issue (R253) -/
  | atom (id : Nat)
  /-- a release that waits for the group's outstanding writes (R186) -/
  | release
  /-- a fence or `tlbi` that has issued and waits for accesses to be performed; `again` once a hardware step has come (R186, R373) -/
  | fence (again : Bool)
  /-- stopped at a join or with an empty EXEC inside a compacted path, or a level group held by the stack (R139) -/
  | path
  /-- stopped for pre-emption (R115) -/
  | preempt
  /-- a trap is due: it is taken when the pending set has emptied (R133, R135) -/
  | trap
  /-- stalled with a job to post while the reservation table is full, since this ck (R110, R113) -/
  | mpost (since : Nat)
  /-- the instruction met a busy resource (R28, R42, R132, R198, R204) and issues again after the next hardware step -/
  | retry
deriving DecidableEq, Repr

/-- A word a pending load still needs or has captured: line tag and word index, or a value already at hand. -/
structure Need where
  tag : Nat
  idx : Nat
  got : Option Word
deriving DecidableEq, Repr

/-- One lane of a pending access: the lane, the byte offset in its first word, the access size in bytes, its words. -/
structure PendLane where
  lane  : Nat
  off   : Nat
  bytes : Nat
  words : List Need
deriving DecidableEq, Repr

/-- What a pending result is written to. -/
inductive Dest where
  | lane (v cnt : Nat)
  | uniform (s cnt : Nat)
  /-- the word number of an address that a `tcheck` or a `launch` reads through a window (R338, R375) -/
  | check (k : Nat)
  | nothing
deriving DecidableEq, Repr

/-- An entry of the pending set (R132): destination registers, how many more instructions its window lets issue,
the instruction's own address and lookahead, and the words it awaits. `vr1` marks a VR1 result (R294). -/
structure Pend where
  id    : Nat
  dest  : Dest
  left  : Nat
  la    : Nat
  pc    : Addr
  vr1   : Bool
  lanes : List PendLane
  /-- `%wb` when the entry was made: it names the physical destination whatever a later `call` or `ret` slides (R127, R132) -/
  wb    : BitVec 16
  /-- an access to a window address, which acts at `.sys` (R207) -/
  win   : Bool
deriving DecidableEq, Repr

/-- A trap about to be taken: cause, detail, return "at", K and P, the faulting address and the access bits of R152. -/
structure Trap where
  cause  : Nat
  info   : Nat
  retAt  : Bool
  k      : BitVec 32
  p      : BitVec 32
  fva    : Nat
  write  : Bool
  fetch  : Bool
  stage2 : Bool
deriving DecidableEq, Repr

/-- Privileged registers of a group (R151). -/
structure Priv where
  mode   : BitVec 8
  kdepth : BitVec 8
  kpc    : Addr
  kcause : BitVec 32
  kmask  : BitVec 32
  kframe : Addr
  ktab   : Addr
  hpc    : Addr
  hcause : BitVec 32
  hmask  : BitVec 32
  htab   : Addr
deriving DecidableEq, Repr

/-- A batch of copy jobs of a group (R197): its number, jobs still unfinished, the kind and channel of a fault not yet
reported. -/
structure Batch where
  num   : Nat
  left  : Nat
  fault : Option (Nat × Nat)
deriving DecidableEq, Repr

/-- The A latch of a group (R332): the A fragment's words per lane and the scale words. -/
structure ALatch where
  tile   : Nat
  words  : List (List Word)
  scales : List Word
deriving DecidableEq, Repr

/-- The state of a group of a resident team, or of a Kiln engine's run (R118, R123, R88). -/
structure Group where
  idx    : Nat
  sched  : Nat
  pc     : Addr
  exec   : BitVec 32
  bind   : BitVec 32
  pend   : BitVec 32
  fmt    : BitVec 32
  wb     : BitVec 16
  frame  : Nat
  spill  : Addr
  jcb    : Addr
  sregs  : Table Word
  /-- `q0`–`q6` as dual-rail pairs, bit 1 the true rail and bit 0 the false rail (R222); unlisted reads false -/
  upreds : Table (BitVec 2)
  loops  : List Loop
  subs   : List Sub
  priv   : Priv
  wait   : Wait
  pset   : List Pend
  nextId : Nat
  /-- a taken control transfer holds the next issue until the pending set is empty (R134) -/
  drain  : Bool
  /-- a trap that waits for pending results: LOOKAHEAD for the whole pending set (R133), a load or special function of `la` = 0 some
  of whose lanes failed for its own other lanes (R135, R158) -/
  due    : Option Trap
  /-- starvation counter, and when the group was raised (R112) -/
  starve : Nat
  raised : Option Nat
  /-- `%clock` when the group last issued: it issues at most once in a ck (R111) -/
  issuedAt : Option Nat
  /-- `step` requested: BREAK after the next instruction (R161) -/
  step   : Bool
  /-- stack depth at each trap entry not yet returned from, innermost first (R144, R156) -/
  sbase  : List Nat
  /-- the last RESIDUE_CHECK trap replayed: its instruction's address and lanes (R152, R165) -/
  lastRc : Option (Addr × BitVec 32)
  halted : Bool
  exited : Bool
  /-- writes not yet performed (R186) -/
  outst  : Nat
  /-- jobs issued since the last `cseal`, sealed and finished batch numbers, batches with work or an unreported fault (R197) -/
  openJobs  : Nat
  openFault : Option (Nat × Nat)
  sealed    : BitVec 32
  finished  : BitVec 32
  batches   : List Batch
  /-- unfinished matrix jobs per token (R337) -/
  toks   : Table Nat
  latch  : Option ALatch
  /-- words that a `tcheck` or a `launch` under way has read through windows (R338, R375) -/
  checked : Table Word
  /-- the word last issued: a waiting instruction goes on from it when its wait ends, and is not fetched again (R118) -/
  waitI  : BitVec 32
  /-- in a compacted path: the home group of each slot's lane; empty outside (R139, R140) -/
  homes  : List Nat
  /-- instructions the Kiln run has executed (R89) -/
  count  : Nat
deriving DecidableEq, Repr

/-- A barrier of a team (R361): groups arrived, groups armed by `arv`, phase. -/
structure Barrier where
  arrived : BitVec 32
  armed   : BitVec 32
  phase   : Bool
deriving DecidableEq, Repr

/-- A channel endpoint of a team (R200). -/
structure Endpoint where
  sent     : BitVec 32
  received : BitVec 32
deriving DecidableEq, Repr

/-- A resident or saved team (R100, R117, R122). -/
structure Team where
  grid    : Nat
  t       : Nat
  die     : Nat
  core    : Nat
  slot    : Nat
  ngrp    : Nat
  regs8   : Nat
  /-- byte 39 of the launch (R85) -/
  mode    : BitVec 8
  scratchN : Nat
  accN    : Nat
  partWord : BitVec 32
  part    : Nat
  asid    : Addr
  spillBase : Addr
  spillKib : Nat
  teamX   : Nat
  teamY   : Nat
  gid     : BitVec 64
  groups  : Table Group
  /-- lane registers: key (home × 256 + physical) × 32 + slot (R125, R127) -/
  vregs   : Table Word
  /-- lane predicates, dual rail: key (home × 8 + n) × 32 + slot -/
  preds   : Table (BitVec 2)
  /-- scratchpad words by word index (R126) -/
  scratch : Table Word
  /-- accumulator tile words: key tile × 4,096 + word (R232, R329) -/
  tiles   : Table Word
  stack   : List Top
  bars    : Table Barrier
  chans   : Table Endpoint
  /-- granules held, of registers, scratchpad and accumulator (R101) -/
  regGran : List Nat
  scrGran : List Nat
  accGran : List Nat
  /-- placement order on its core; `%gtime` of placement order on the die (R111, R114) -/
  order   : Nat
  /-- groups may issue: a C team only after the release of R107 -/
  released : Bool
  /-- the team's arrival at the grid barrier has been reported (R366) -/
  gArr : Bool
  /-- a pre-emption sample has stopped the team (R115) -/
  sampled : Bool
  /-- `%gtime` at the sample of a pre-emption (R115, R117) -/
  sampleAt : Nat
  /-- the place kept in the arena for a sampled team's record: address and bytes (R114) -/
  arena   : Option (Nat × Nat)
  aborted : Bool
  /-- copy jobs of a saved team, issued and not started: group, channel, batch, data word (R117) -/
  unstarted : List (Nat × Nat × Nat × BitVec 64)
deriving DecidableEq, Repr

/-- Which agent issues: none between steps, a group of a resident team, or a Kiln engine. -/
inductive Focus where
  | none
  | group (r : GroupRef)
  | kiln (k : Nat)
deriving DecidableEq, Repr

/-! ### Memory, caches, translation, mesh (chapters 1 and 8) -/

/-- The key a line of memory was last written under, with the generation of the slot's key material (R13, R22). -/
structure LineKey where
  key : Nat
  gen : Nat
deriving DecidableEq, Repr

/-- A key slot of the base dies (R13): the generation of its two AES-256 keys. A slot that is not listed is invalid. -/
abbrev KeyGen := Nat

/-- A line of an L2 slice (R181). -/
structure L2Line where
  words : List Word
  dirty : Bool
deriving DecidableEq, Repr

/-- Stores of bytes of one word, oldest first: byte mask and data. A store of all four bytes begins the list anew. -/
abbrev Stores := List (BitVec 4 × Word)

/-- State of a word of an L1 line that is not invalid (R181, R184, R187). The words of one fill have one age: an access to several words of a
16-byte chunk finds them together only when they do (R211). -/
inductive L1State where
  | clean (age : Nat)
  /-- written here, registration pending: the groups whose store awaits the grant; a revocation deferred until then; the stores, which the
  grant lays over the word as the home then holds it (R202) -/
  | pending (waiters : List GroupRef) (deferred : Bool) (bytes : Stores)
  | owned (dirty : Bool)
deriving DecidableEq, Repr

/-- A word held by an L1. -/
structure L1Word where
  st  : L1State
  w   : Word
deriving DecidableEq, Repr

/-- A sub-word store that awaits the word it merges into (R183). -/
structure Merge where
  core : Nat
  tag  : Nat
  idx  : Nat
  bytes : Stores
  grp  : GroupRef
  /-- the word its load miss brought, while other words of its chunk are still awaited (R211) -/
  got  : Option Word
deriving DecidableEq, Repr

/-- A line of a slice's ownership registry (R184, R187, R188). -/
structure OwnLine where
  /-- owner core by word index -/
  owners : Table Nat
  /-- words whose revocation is under way -/
  revoking : List Nat
  /-- cores that hold partials of the line, and those asked for them with what has arrived -/
  holders : List Nat
  asked   : List Nat
  partials : List (Nat × List (Nat × Word))
  /-- order of registration (R187 overflow) -/
  since  : Nat
deriving DecidableEq, Repr

/-- The agent of an outstanding request of a node (R28). -/
inductive Agent where
  /-- a load miss of a group's pending access; install in L1 unless an acquire came between -/
  | load (r : GroupRef) (id : Nat) (install : Bool)
  | prefetch (core : Nat) (install : Bool)
  | merge (core : Nat) (install : Bool)
  | reg (core : Nat)
  /-- a store, reduction or discard performed at the home -/
  | store (r : GroupRef)
  | atom (r : GroupRef) (id : Nat) (lane : Nat)
  | writeback (core : Nat)
  | copy (die cluster ch : Nat)
  | matrix (die cluster job : Nat)
  | slot (r : GroupRef) (chan : Nat)
  /-- the front end's access to a counter in a window, for a command of a queue; a child grid's signal to one (R87, R376) -/
  | event (queue : Nat) (cmd : Nat)
  | childEvent (part va : Nat)
  /-- another write of the front end for a partition: a mirror record (R82) -/
  | front (part : Nat)
  | home
  | hub
  /-- Twin Star's STATUS_READ to a die for a snapshot (R64) -/
  | status (die : Nat)
deriving DecidableEq, Repr

/-- An outstanding request of a mesh node (R28): its class, its identifier, its agent and the packet, for one retry (R32). -/
structure Txn where
  node  : Nat
  cls   : Nat
  id    : Nat
  agent : Agent
  pkt   : Packet
  retried : Bool
  /-- an access under streaming cacheability (R181) -/
  stream : Bool
  /-- the words a masked write covers whole, which it does not merge (R183, R311) -/
  whole : BitVec 32
  /-- the export handle a request to a peer names (R55, R58) -/
  handle : BitVec 32
deriving DecidableEq, Repr

/-- A page-table leaf as a TLB holds it (R178, R180). -/
structure TlbEntry where
  ctx   : Addr
  s2root : Addr
  va    : Nat
  /-- page size in bits: 13, 23 or 33 -/
  size  : Nat
  pa    : Nat
  key   : Nat
  perm1 : BitVec 4
  perm2 : BitVec 4
  comm  : BitVec 2
  cache : BitVec 2
  glob  : Bool
  /-- stage-1 and stage-2 leaf: address, key and whether `d` is set, for R179 -/
  leaf1 : Option (Nat × Nat × Bool)
  leaf2 : Option (Nat × Nat × Bool)
  ipa   : Nat
  /-- the size of the stage-2 leaf's page in bits; 0 without stage 2 (R372) -/
  size2 : Nat
deriving DecidableEq, Repr

/-- A translation context as cached (R176). -/
structure Ctx where
  s1 : Addr
  s2 : Addr
  ktab : Addr
  htab : Addr
  capVa : Addr
  ok : Bool
deriving DecidableEq, Repr

/-- A flit on a link: its sequence number, its bytes and its CRC-16 (R29). -/
structure LinkFlit where
  seq   : BitVec 8
  bytes : List Byte
  crc   : BitVec 16
deriving DecidableEq, Repr

/-- A mesh link (R29, R30): state 0 up, 1 retraining, 2 down, 3 fenced; spare lanes in use; how often in a row the flit under way has failed;
counts; the next sequence number and the flits of the replay buffer, oldest first; the sequence number the receiver takes next, and the one a
negative acknowledgement has named and that has not come again. -/
structure Link where
  state   : Nat
  lanesUsed : Nat
  fails   : Nat
  replays : Nat
  crcErrs : Nat
  seq     : BitVec 8
  buf     : List LinkFlit
  rx      : BitVec 8
  nak     : Option (BitVec 8)
deriving DecidableEq, Repr

/-! ### Transport (chapter 2) -/

/-- A request the device keeps until it is acknowledged (R42). -/
structure SentReq where
  psn : BitVec 24
  hdr : BitVec 256
  payload : List Byte
  tries : Nat
  /-- the group, and pending access, that awaits the answer -/
  agent : Agent
deriving DecidableEq, Repr

/-- State of a THT path beside its context (R42, R43, R47). -/
structure PathSt where
  ctx    : BitVec 256
  psnIn  : BitVec 24
  psnOut : BitVec 24
  vlan   : BitVec 16
  buf    : List SentReq
  atoms  : List (BitVec 24 × BitVec 64)
  nakSent : Bool
  unacked : Nat
  echo   : Bool
  /-- rate in kb/s and alpha in units of 2⁻⁶⁴ of R47 -/
  rate   : Nat
  alpha  : Nat
  /-- when the rate was last cut (R47) -/
  lastCut : Option Nat
deriving DecidableEq, Repr

/-- An export handle (R54). -/
structure Handle where
  id : BitVec 32
  base : Nat
  size : Nat
  key : Nat
  perms : BitVec 3
  dev : BitVec 16
  impPart : Nat
  part : Nat
  /-- not revoked -/
  live : Bool
deriving DecidableEq, Repr

/-- A frame kept for a peer until acknowledged, and the sequence state kept per peer device (R56, R57). -/
structure Peer where
  seqIn   : BitVec 24
  seqOut  : BitVec 24
  /-- frames not yet acknowledged: sequence number, the partition whose peer table they leave by, the frame -/
  buf     : List (BitVec 24 × Nat × PeritFrame)
  tries   : Nat
  unacked : Nat
  nakSent : Bool
  /-- the port, and the partition, of the data frame accepted last -/
  lastPort : Nat
  lastPart : Nat
  /-- fabric ports whose link to the peer is declared down -/
  down    : List Nat
deriving DecidableEq, Repr

/-- Why a frame or packet is dropped at a port (R34, R35, R36, R41, R55). -/
inductive DropReason where
  | size
  | tags
  | mac
  | etype
  | extension
  | options
  | fragment
  | address
  | udpPort
  | checksum
  | crc
  | version
  | path
  | source
  | perit
deriving DecidableEq, Repr

/-- A host or fabric port (R34, R35, R37, R69): its link and `%gtime` when that last went down; drops by reason; the FEC mode (0 interleaved, 1
not) and the priorities under priority flow control, which firmware selects. -/
structure Port where
  up       : Bool
  downAt   : Nat
  retired  : Bool
  /-- `%gtime` of each rebinding away from this port, newest first (R37, R69) -/
  failTimes : List Nat
  drops    : List (DropReason × Nat)
  fecUncorr : Nat
  fec      : Nat
  pfc      : BitVec 8
deriving DecidableEq, Repr

/-- A next-hop resolution (R44): port, address, MAC. -/
structure NextHop where
  port : Nat
  addr : BitVec 128
  mac  : BitVec 48
deriving DecidableEq, Repr

/-- A THT packet as a host port sends it (R36, R39): the port, the 802.1Q tag, the fields of the IP and UDP headers, then header, payload and
CRC-32C. An IPv4 address stands as an IPv4-mapped IPv6 address. -/
structure ThtOut where
  port   : Nat
  tag    : Option (BitVec 16)
  src    : BitVec 128
  dst    : BitVec 128
  dscp   : BitVec 6
  ecn    : BitVec 2
  df     : Bool
  hops   : Nat
  srcUdp : BitVec 16
  dstUdp : BitVec 16
  cksum  : BitVec 16
  hdr    : BitVec 256
  payload : List Byte
  crc    : BitVec 32
deriving DecidableEq, Repr

/-- Where a path-0 packet came from, and is answered to (R43). -/
structure ThtSource where
  port : Nat
  ip   : BitVec 128
  udp  : BitVec 16
  tag  : Option (BitVec 16)
deriving DecidableEq, Repr

/-- What leaves the device at its ports, in order: the only effects the outside world sees. -/
inductive Sent where
  /-- a THT packet to the MAC address of its next hop -/
  | tht (mac : BitVec 48) (p : ThtOut)
  | perit (port : Nat) (mac : BitVec 48) (tag : Option (BitVec 16)) (f : PeritFrame)
  | arpReply (port : Nat) (mac : BitVec 48) (ip : BitVec 32)
  | ndAdvert (port : Nat) (mac : BitVec 48) (ip : BitVec 128)
  | resolve (port : Nat) (ip : BitVec 128)
deriving DecidableEq, Repr

/-! ### Queues, commands and grids (chapters 4, 5 and 18) -/

/-- A consumed command (R80, R86): its number, its index, its slot's words, and how far it is. -/
structure Cmd where
  /-- its own number: an index comes again when a queue is latched anew (R76) -/
  uid   : Nat
  idx   : BitVec 32
  /-- the address space of its queue when it was consumed -/
  asid  : Addr
  slot  : List Word
  started : Bool
  complete : Bool
  /-- grids emitted and not yet complete -/
  grids : List Nat
  /-- Kiln run number, and whether another run follows (R89) -/
  run   : Nat
  inKiln : Bool
  waitKiln : Bool
  rerun : Bool
  /-- the slot words a later prologue run starts from -/
  sregs : Table Word
  code  : Nat
  signal : Bool
  /-- a request to a window's counter is out, and what came back: `some none` is poison (R87) -/
  asked : Bool
  seen  : Option (Option (BitVec 64))
deriving DecidableEq, Repr

/-- A submission queue (R75–R83). -/
structure Queue where
  enabled : Bool
  desc    : BitVec 256
  head    : BitVec 32
  tail    : BitVec 32
  halted  : Bool
  code    : BitVec 8
  count   : BitVec 24
  errSlot : BitVec 32
  mirrorDue : Bool
  /-- the slot at head did not match: it is read again after a NOTIFY or 1 µs (R80) -/
  slotWait : Bool
  cmds    : List Cmd
  /-- virtual time (R95), served out of turn, and `%gtime` when the starvation timer last started (R96) -/
  vt      : Nat
  starving : Bool
  waitFrom : Nat
deriving DecidableEq, Repr

/-- A die's share of a grid (R90, R91): new teams not yet placed, saved teams in order, teams retired; whether the claim of a C grid is
satisfied, as its dispatcher last told (`told`) and as the front end last heard (`satisfied`); the completion reported; and `%gtime` since
when the share waits: its start, its last placement or its last save (R106, R109, R114). -/
structure Share where
  die     : Nat
  total   : Nat
  unplaced : List Nat
  saved   : List Nat
  retired : Nat
  told    : Bool
  satisfied : Bool
  reported : Bool
  since   : Nat
deriving DecidableEq, Repr

/-- A grid (R85, R90–R92, R108, R366, R376). -/
structure Grid where
  num     : Nat
  part    : Nat
  queue   : Nat
  cmd     : Nat
  asid    : Addr
  packet  : List Word
  /-- the parent grid, the launching team's index and group (R376) -/
  parent  : Option (Nat × Nat × Nat)
  depth   : Nat
  shares  : List Share
  total   : Nat
  done    : Nat
  reports : List Nat
  complete : Bool
  aborted : Bool
  grade   : Nat
  winWrite : Bool
  released : Bool
  claim   : Bool
  /-- grid barrier: teams arrived in the current phase, phase (R366) -/
  gArrived : List Nat
  gPhase  : Bool
  chans   : List (Nat × Nat × Nat × Nat)
  startNo : Nat
deriving DecidableEq, Repr

/-- A die dispatcher (R99–R106, R109): the pinned grids with `%gtime` of each pin, the grid that headed the order while a later candidate was
placed and `%gtime` of the first such placement, and the cores and slots of teams being swapped out. -/
structure Disp where
  pinned  : Table Nat
  passed  : Option (Nat × Nat)
  swapped : List (Nat × Nat)
deriving DecidableEq, Repr

/-- A core (R70, R100–R102). -/
structure Core where
  built   : Nat
  enabled : Bool
  word    : BitVec 32
  /-- per scheduler and pipe (scheduler × 2, + 1 for the S pipe), the last group issued, slot × 32 + group, and the ck of that issue (R111) -/
  last    : Table Nat
  lastCk  : Table Nat
  acqNo   : Nat
deriving DecidableEq, Repr

/-- A saved team's record in an arena (R116, R117, R120): where it lies and whose it is; the children a swapped-out team waits
for; and `rest`, what its hardware keeps of the team beside the record's fields (its storage is in the record alone). -/
structure SavedRec where
  die  : Nat
  base : Nat
  len  : Nat
  grid : Nat
  t    : Nat
  part : Nat
  parkedFor : List Nat
  rest : Team
deriving DecidableEq, Repr

/-- A copy job (R192–R198). State: 0 queued, 1 started. -/
structure CopyJob where
  seq    : Nat
  owner  : Option GroupRef
  queue  : Option (Nat × Nat)
  chan   : Nat
  batch  : Nat
  card   : List Word
  data   : BitVec 64
  rfp    : Nat × Nat × Nat
  wfp    : Nat × Nat × Nat
  after  : List Nat
  started : Bool
  fault  : Nat
  offset : Nat
  /-- a trailer mismatch or a piece fault was found; outstanding writes of the job -/
  outst  : Nat
  asid   : Addr
  part   : Nat
  /-- the mode of the issuing group at the aperture store -/
  mode   : Nat
deriving DecidableEq, Repr

/-- A matrix job (R113, R327–R338): posted in the reservation table, its operands as read, the token and its edges. -/
structure MatrixJob where
  seq   : Nat
  grp   : GroupRef
  instr : BitVec 32
  tok   : Nat
  mpri  : Nat
  /-- `%clock` of the posting and the scheduler of the group that posted (R113) -/
  posted : Nat
  sched : Nat
  after : List Nat
  reads : List (Nat × Nat × Nat)
  writes : List (Nat × Nat × Nat)
  granted : Bool
  done  : Bool
  fmt   : BitVec 32
  ops   : List Word
  /-- the translations held with the job (R328): page number, physical page base, key, streaming -/
  pages : Table (Nat × Nat × Bool)
deriving DecidableEq, Repr

/-- The engines of a cluster (R113, R192, R74). -/
structure Cluster where
  jobs    : List CopyJob
  mjobs   : List MatrixJob
  nextSeq : Nat
  stretched : Bool
deriving DecidableEq, Repr

/-- A partition (R59, R65, R166, R167). `entry` is the 64-bit table entry. -/
structure Part where
  entry   : BitVec 64
  refused : Nat
  refusals : Nat
  maxGrade : Nat
  /-- Cinder: descriptor bits [255:0] as last read, counts, records waiting in the banked buffer -/
  cinder  : BitVec 256
  cinderOn : Bool
  written : Nat
  lost    : Nat
  recBuf  : List (List Word)
  windows : Table (BitVec 256)
  peers   : Table (List Byte)
deriving DecidableEq, Repr

/-- A running Kiln engine (R88): the queue and command it runs, and its group-shaped state. -/
structure Kiln where
  queue : Nat
  cmd   : Nat
  /-- the queue's partition and address space -/
  part  : Nat
  asid  : Addr
  g     : Group
deriving DecidableEq, Repr

/-- An inventory snapshot being built (R64): `%gtime` at its start, the dies whose status words have not come, and those that have. -/
structure Snap where
  time    : Nat
  awaited : List Nat
  got     : Table (List Word)
deriving DecidableEq, Repr

/-- Firmware and power state of Twin Star (R72–R74, R169). -/
structure TwinStar where
  staging  : Table Byte
  fwVersion : BitVec 32
  fuse     : BitVec 32
  /-- the activated image the package was reset with; none for the one it was made with (R73) -/
  bootImage : Option (List Byte)
  /-- the items loaded since reset, by measurement register, in order: the register is what extending it with each in turn gives (R73) -/
  meas     : Table (List (List Byte))
  /-- an activation of new firmware under way, and `%gtime` of the last checkpoint (R72) -/
  activating : Option MgmtReq
  /-- requests of path 0 that wait behind it, oldest first (R63) -/
  mgmtWait : List MgmtReq
  checkpoint : Nat
  capW     : Nat
  /-- arithmetic clock by die, in MHz; unlisted 2,700 (R74) -/
  clocks   : Table Nat
  /-- 100 µs power measurements of the last 10 ms, newest first: the package's, and each die's, in W -/
  power    : List (Nat × List Nat)
  invBuf   : List (List Byte)
  invActive : Nat
  gen      : Nat
  snap     : Option Snap
  /-- the worst health so far: it never returns toward OK (R68) -/
  worst    : Nat
  recovering : Bool
  failed   : Bool
  rotation : Nat
  /-- spare thresholds crossed (R69), `sr_reason` bits -/
  sr       : BitVec 16
  stopInject : Bool
  lostDies : List Nat
  /-- cores reported as having a confirmed storage fault, die × 64 + core (R161) -/
  retireDue : List Nat
  /-- built cores that are retired, die × 68 + built (R65, R70) -/
  retired : List Nat
  /-- reports of base dies, by stack: requests rejected (R20); of mesh nodes: packets dropped for a protocol error (R26) -/
  rejects : Table Nat
  meshErrs : Table Nat
deriving DecidableEq, Repr

/-- A choice of the environment: what happens next. The model is one deterministic machine; what the manual leaves to
arrival order, time or chance stands here as plain data (see the assumption log). -/
inductive Turn where
  /-- a group or Kiln engine issues; the next instruction of the groups in the list is not yet fetched (R110) -/
  | issue (f : Focus) (unfetched : List GroupRef)
  /-- the n-th packet in flight is delivered -/
  | deliver (n : Nat)
  /-- a hardware step or an arrival at a port -/
  | occur (i : Instr)
  /-- time passes: ns of `%gtime`, ck of `%clock`; the next instruction of the groups in the list is not yet fetched (R110) -/
  | tick (ns ck : Nat) (unfetched : List GroupRef)
  /-- the next lane instruction suffers a datapath fault in the lanes of the mask (R165) -/
  | glitch (lanes : BitVec 32)
  /-- symbols of a stored codeword are corrupted (R21) -/
  | corrupt (line : Nat) (syms : List Nat)
  /-- a data pin of a channel fails (R23) -/
  | pinFail (chan pin : Nat)
  /-- the false rail of a lane predicate flips (R222) -/
  | railFlip (r : GroupRef) (lane n : Nat)
  /-- a word of a core's pool flips bits under an unchanged nibble (R125, R224) -/
  | poolFlip (core word : Nat) (x : BitVec 32)
  /-- that many checks of new values fail in the reductions to come (R316) -/
  | redFaults (n : Nat)
  /-- a TLB drops its entries (R180) -/
  | dropTlb (isDie : Bool) (unit : Nat)
  /-- an L2 slice writes back and drops a line (R181) -/
  | dropL2 (tag : Nat)
  /-- firmware selects a port's FEC mode and, on a fabric port, its priorities under flow control; a port finds uncorrectable FEC codewords
  (R34, R65) -/
  | portMode (port fec : Nat) (pfc : BitVec 8)
  | fecErrors (port n : Nat)
deriving DecidableEq, Repr

/-- Why a step stops the machine. There is no such reason: every instruction and every hardware step of the manual has a
next state, traps, drops and protocol errors among them, and an address that does not exist is answered by a trap. -/
inductive Fault where
deriving DecidableEq, Repr

/-- Why the model gives a step no meaning. -/
inductive Refusal where
  /-- Raised by a dispatch arm that has no meaning yet: safe, the run stops. No arm uses it. -/
  | notModelled (mnemonic : String)
deriving DecidableEq, Repr

/-- The machine. -/
structure State where
  /-- the issuing group and its team, while a step runs (else the values last held) -/
  g       : Group
  tm      : Team
  focus   : Focus
  /-- resident teams: key (die × 64 + core) × 32 + slot -/
  teams   : Table Team
  kilns   : Table Kiln
  /-- the clock counts of the Kiln engines (R344) -/
  kilnCk  : Table Nat
  cores   : Table Core
  clusters : Table Cluster
  disps   : Table Disp
  grids   : Table Grid
  nextGrid : Nat
  savedRecs : List SavedRec
  queues  : Table Queue
  lastServed : Table Nat
  parts   : Table Part
  /-- device memory by physical address, bytes of the eight dies (R172) -/
  mem     : List Host.Cell
  /-- nibbles that differ from the residue of their word, by word address (R2, R22) -/
  nibs    : Table (BitVec 4)
  /-- the key each line was last written under, by line number -/
  lineKeys : Table LineKey
  /-- corrupted symbols by line number (R21), failed data pins by channel, die × 64 + slice (R23) -/
  syms    : Table (List Nat)
  pins    : Table (List Nat)
  keys    : Table KeyGen
  nextGen : Nat
  keyStop : List Nat
  rowFixed : Table Nat
  spareRows : Table Nat
  l2      : Table L2Line
  own     : Table OwnLine
  ownNo   : Nat
  /-- requests that wait at their home slice, in arrival order -/
  homeQ   : List Packet
  /-- stack-port tags in use: key (die × 64 + slice) × 8 + tag, with the line tag awaited -/
  stackTags : Table Nat
  /-- the tags of requests that have arrived at their base die and whose replies have not yet arrived, ascending (R17) -/
  portSeen : List Nat
  stackQ  : List Instr
  /-- acknowledgements that await the base die's, by the tag's key: writes a slice has passed on (R181, R383) -/
  portAcks : List (Nat × Packet)
  fenced  : List Nat
  l1      : Table L1Word
  partials : Table Word
  /-- the commutative kind of each line that has partials (R188) -/
  commKinds : Table Nat
  merges  : List Merge
  icache  : Table (List Word)
  tlbs    : Table (List TlbEntry)
  ctxs    : Table Ctx
  txns    : List Txn
  flight  : List Packet
  /-- CONTROL messages that wait for a transaction of the hub: die, kind, grid (R28) -/
  controls : List (Nat × Nat × Nat)
  /-- packets that wait at their nodes while injection is stopped (R32) -/
  outbox  : List Packet
  links   : Table Link
  routes  : Table Nat
  ports   : Table Port
  hops    : List NextHop
  /-- packets whose next hop has not resolved, with that hop (R44) -/
  unresolved : List (BitVec 128 × ThtOut)
  /-- the source of the path-0 packet taken last (R43, R47) -/
  src0    : Option ThtSource
  portRecs : Table (List Byte)
  paths   : Table PathSt
  path0   : PathSt
  peersSt : Table Peer
  handles : List Handle
  nextHandle : Nat
  wake    : List (Nat × BitVec 32)
  gated   : Bool
  fePowered : Bool
  twin    : TwinStar
  /-- residue traps taken and droop stretches per die, `seq` counters per record source (R65, R168) -/
  traps   : Table Nat
  stretches : Table Nat
  seqs    : Table Nat
  /-- symbols corrected, UNCORRECTABLE codewords, end of the last patrol pass per stack (R65) -/
  symFixed : Table Nat
  uncorr  : Table Nat
  lastPass : Table Nat
  gtime   : Nat
  ck      : Nat
  sent    : List Sent
  glitch  : BitVec 32
  /-- checks of a reduction's new value that are still to fail (R316) -/
  redFaults : Nat
  /-- MODEL: counters of free values, of issue order, of L1 fills and of commands -/
  freeNo  : Nat
  cmdNo   : Nat
  placeNo : Nat
  fillNo  : Nat
  /-- MODEL: the environment's choices still to come -/
  turns   : List Turn
deriving DecidableEq, Repr

/-! ### Reset -/

/-- Privileged registers at first issue, before the context gives the vector bases (R151). -/
def Priv.initial : Priv := ⟨0, 0, 0, 0, 0, 0, 0, 0, 0, 0, 0⟩

/-- A group before its first instruction (R103, R123). -/
def Group.initial : Group :=
  { idx := 0, sched := 0, pc := 0, exec := 0, bind := 0, pend := 0, fmt := 0, wb := 0, frame := 0, spill := 0, jcb := 0,
    sregs := [], upreds := [], loops := [], subs := [], priv := Priv.initial, wait := .none, pset := [], nextId := 0,
    drain := false, due := none, starve := 0, raised := none, issuedAt := none, step := false, sbase := [], lastRc := none, halted := false, exited := false, outst := 0,
    openJobs := 0, openFault := none, sealed := 0, finished := 0, batches := [], toks := [], latch := none, checked := [], waitI := 0,
    homes := [], count := 0 }

/-- No team. -/
def Team.initial : Team :=
  { grid := 0, t := 0, die := 0, core := 0, slot := 0, ngrp := 0, regs8 := 0, mode := 0, scratchN := 0, accN := 0,
    partWord := 0, part := 0, asid := 0, spillBase := 0, spillKib := 0, teamX := 1, teamY := 1, gid := 0, groups := [],
    vregs := [], preds := [], scratch := [], tiles := [], stack := [], bars := [], chans := [], regGran := [], scrGran := [], accGran := [],
    order := 0, released := true, gArr := false, sampled := false, sampleAt := 0, arena := none, aborted := false, unstarted := [] }

/-- A core at reset: the built core of its logical number (R70), idle, partition word 0. -/
def Core.initial (built : Nat) : Core := ⟨built, true, 0, [], [], 0⟩

/-- A partition at reset (R59). -/
def Part.initial : Part :=
  { entry := 0, refused := 0, refusals := 0, maxGrade := 0, cinder := 0, cinderOn := false, written := 0, lost := 0,
    recBuf := [], windows := [], peers := [] }

/-- A THT path at reset (R38, R43, R47): alpha starts at 1 and the rate at the line rate. -/
def PathSt.initial : PathSt :=
  { ctx := 0, psnIn := 0, psnOut := 0, vlan := 0, buf := [], atoms := [], nakSent := false, unacked := 0, echo := false,
    rate := 800000000, alpha := 2 ^ 64, lastCut := none }

/-- A port at reset. -/
def Port.initial : Port := ⟨true, 0, false, [], [], 0, 0, 0⟩

/-- A link at reset. -/
def Link.initial : Link := ⟨0, 0, 0, 0, 0, 0, [], 0, none⟩

/-- A die dispatcher at reset. -/
def Disp.initial : Disp := ⟨[], none, []⟩

/-- A cluster's engines at reset. -/
def Cluster.initial : Cluster := ⟨[], [], 0, false⟩

/-- A queue at reset (R75): descriptor zero, disabled. -/
def Queue.initial : Queue :=
  { enabled := false, desc := 0, head := 0, tail := 0, halted := false, code := 0, count := 0, errSlot := 0,
    mirrorDue := false, slotWait := false, cmds := [], vt := 0, starving := false, waitFrom := 0 }

/-- Twin Star at reset (R72–R74). -/
def TwinStar.initial : TwinStar :=
  { staging := [], fwVersion := 0, fuse := 0, bootImage := none, meas := [], activating := none, mgmtWait := [], checkpoint := 0, capW := 7500, clocks := [], power := [],
    invBuf := [[], []], invActive := 0, gen := 0, snap := none, worst := 0, recovering := false, failed := false, rotation := 0, sr := 0,
    stopInject := false, lostDies := [], retireDue := [], retired := [], rejects := [], meshErrs := [] }

/-- The machine right after package reset. Tables list nothing, so every register, memory byte and descriptor reads as its
default; the log names the values the manual does not give. -/
def State.reset : State :=
  { g := Group.initial, tm := Team.initial, focus := .none, teams := [], kilns := [], kilnCk := [], cores := [], clusters := [],
    disps := [], grids := [], nextGrid := 1, savedRecs := [], queues := [], lastServed := [], parts := [], mem := [],
    nibs := [], lineKeys := [], syms := [], pins := [], keys := [], nextGen := 1, keyStop := [], rowFixed := [], spareRows := [],
    l2 := [], own := [], ownNo := 0, homeQ := [], stackTags := [], portSeen := [], stackQ := [], portAcks := [], fenced := [], l1 := [], partials := [], commKinds := [],
    merges := [], icache := [], tlbs := [], ctxs := [], txns := [], flight := [], controls := [], outbox := [], links := [], routes := [], ports := [],
    hops := [], unresolved := [], src0 := none, portRecs := [], paths := [], path0 := PathSt.initial, peersSt := [], handles := [], nextHandle := 1,
    wake := [], gated := false, fePowered := true, twin := TwinStar.initial, traps := [], stretches := [], seqs := [],
    symFixed := [], uncorr := [], lastPass := [], gtime := 0, ck := 0, sent := [], glitch := 0, redFaults := 0, freeNo := 0, cmdNo := 0, placeNo := 0, fillNo := 0,
    turns := [] }

end Sys2Proof.Machine
end

