-- ==== Sys2Proof/Machine/Tables.lean ====
section
/-! DEFINITION. Operations on `Table`, the sparse collections of the state, and small list helpers. -/

namespace Sys2Proof.Machine

/-- The entry of a key. -/
def tfind {α : Type} : Table α → Nat → Option α
  | [], _ => none
  | (a, v) :: r, k => if a = k then some v else tfind r k

/-- The value of a key, or the default of an unlisted key. -/
def tget {α : Type} (t : Table α) (k : Nat) (d : α) : α := (tfind t k).getD d

/-- Insert or replace, keeping keys rising. -/
def tins {α : Type} : Table α → Nat → α → Table α
  | [], k, v => [(k, v)]
  | (a, x) :: r, k, v => if k < a then (k, v) :: (a, x) :: r else if a = k then (k, v) :: r else (a, x) :: tins r k v

/-- Remove a key. -/
def tdel {α : Type} (t : Table α) (k : Nat) : Table α := t.filter (fun p => p.1 != k)

/-- Write a key in canonical form: the default value is not listed. -/
def tset {α : Type} [DecidableEq α] (t : Table α) (k : Nat) (v d : α) : Table α := if v = d then tdel t k else tins t k v

/-- Update a key. -/
def tmod {α : Type} (t : Table α) (k : Nat) (d : α) (f : α → α) : Table α := tins t k (f (tget t k d))

/-- Keys strictly rise from above `lo`. -/
def risingFrom {α : Type} (lo : Option Nat) : Table α → Bool
  | [] => true
  | (a, _) :: r => (match lo with | none => true | some b => b < a) && risingFrom (some a) r

/-- The canonical form: keys strictly rising, no entry equal to the default. -/
def twf {α : Type} [DecidableEq α] (t : Table α) (d : α) : Bool := risingFrom none t && t.all (fun p => p.2 != d)

/-- Replace the first element that satisfies `p`. -/
def replaceFirst {α : Type} (p : α → Bool) (f : α → α) : List α → List α
  | [] => []
  | x :: r => if p x then f x :: r else x :: replaceFirst p f r

/-- Bit `i` of a 32-bit mask. -/
def bit (m : BitVec 32) (i : Nat) : Bool := m.getLsbD i

/-- The mask with the bits of a list of lanes. -/
def maskOf (ls : List Nat) : BitVec 32 := ls.foldl (fun m i => m ||| (1#32 <<< i)) 0#32

/-- The lanes of a mask, ascending. -/
def lanesOf (m : BitVec 32) : List Nat := (List.range 32).filter (fun i => bit m i)

/-- Number of set bits. -/
def popcount {w : Nat} (x : BitVec w) : Nat := ((List.range w).filter (fun i => x.getLsbD i)).length

/-- Position of the first element equal to `x`, or the length. -/
def indexOf (l : List Nat) (x : Nat) : Nat :=
  match l with
  | [] => 0
  | y :: r => if y = x then 0 else indexOf r x + 1

/-- The smallest element by a key function, the earliest on ties. -/
def minBy {α : Type} (f : α → Nat) : List α → Option α
  | [] => none
  | x :: r =>
    match minBy f r with
    | none => some x
    | some y => if f y < f x then some y else some x

/-- Insertion of a number in a rising list, without repeats. -/
def insertNat (x : Nat) : List Nat → List Nat
  | [] => [x]
  | y :: r => if x < y then x :: y :: r else if x = y then y :: r else y :: insertNat x r

/-- Sort ascending, without repeats. -/
def sortNat (l : List Nat) : List Nat := l.foldr insertNat []

/-- Lexicographic order. -/
def lexLt : List Nat → List Nat → Bool
  | a :: r, b :: q => a < b || (a == b && lexLt r q)
  | _, _ => false

/-- Little-endian bytes of a number. -/
def bytesOf (n x : Nat) : List Byte :=
  match n with
  | 0 => []
  | k + 1 => BitVec.ofNat 8 x :: bytesOf k (x / 256)

/-- The number of little-endian bytes (R4). -/
def ofBytes : List Byte → Nat
  | [] => 0
  | b :: r => b.toNat + 256 * ofBytes r

/-- The number of little-endian 32-bit words. -/
def ofWords : List Word → Nat
  | [] => 0
  | w :: r => w.data.toNat + 2 ^ 32 * ofWords r

/-- `n` 32-bit words of a number, lowest first, each with its residue. -/
def wordsOf (n x : Nat) : List Word :=
  match n with
  | 0 => []
  | k + 1 => Word.ofData (BitVec.ofNat 32 x) :: wordsOf k (x / 2 ^ 32)

/-- Bytes `lo … lo+n−1` of a number. -/
def byteField (x lo n : Nat) : Nat := x / 2 ^ (8 * lo) % 2 ^ (8 * n)

/-- Bits `lo … lo+n−1` of a number. -/
def field (x lo n : Nat) : Nat := x / 2 ^ lo % 2 ^ n

end Sys2Proof.Machine
end

