-- ==== Sys2Proof/Machine/Fp.lean ====
section
/-! DEFINITION. Floating point (R234, R235, R291–R303): exact dyadic values, correct rounding in the four modes, and the
special functions with the error the manual allows as a free value. -/

namespace Sys2Proof.Machine

/-- A binary format: exponent bits, fraction bits, bias. -/
structure FpFmt where
  eb : Nat
  fb : Nat
  bias : Nat
deriving DecidableEq, Repr

/-- binary32 (R234). -/
def f32 : FpFmt := ⟨8, 23, 127⟩
/-- binary64. -/
def f64 : FpFmt := ⟨11, 52, 1023⟩
/-- binary16. -/
def f16 : FpFmt := ⟨5, 10, 15⟩
/-- bfloat16. -/
def bf16 : FpFmt := ⟨8, 7, 127⟩

/-- Width in bits. -/
def FpFmt.width (f : FpFmt) : Nat := 1 + f.eb + f.fb
/-- The magnitude pattern of ∞. -/
def FpFmt.inf (f : FpFmt) : Nat := (2 ^ f.eb - 1) * 2 ^ f.fb
/-- R234: the canonical quiet NaN, sign bit 0. -/
def FpFmt.nan (f : FpFmt) : Nat := f.inf + 2 ^ (f.fb - 1)
/-- The sign bit. -/
def FpFmt.sign (f : FpFmt) : Nat := 2 ^ (f.eb + f.fb)

/-- A value: NaN, an infinity, or a finite dyadic (−1)^neg · m · 2^e (a zero has m = 0 and keeps its sign). -/
inductive FVal where
  | nan
  | inf (neg : Bool)
  | fin (neg : Bool) (m : Nat) (e : Int)
deriving DecidableEq, Repr

/-- The value of a bit pattern; `ftz` reads subnormals as zero of the same sign (R235). -/
def unpackF (f : FpFmt) (ftz : Bool) (x : Nat) : FVal :=
  let neg := x / f.sign % 2 == 1
  let mag := x % f.sign
  let ex := mag / 2 ^ f.fb
  let fr := mag % 2 ^ f.fb
  if mag > f.inf then .nan
  else if mag = f.inf then .inf neg
  else if ex = 0 then (if ftz then .fin neg 0 0 else .fin neg fr (1 - f.bias - f.fb))
  else .fin neg (2 ^ f.fb + fr) (ex - f.bias - f.fb)

/-- R235: does rounding away from zero apply to a magnitude with quotient parity `odd`, remainder `r` of `d`? -/
def roundsUp (mode : Nat) (neg odd : Bool) (r d : Nat) : Bool :=
  match mode with
  | 0 => 2 * r > d || (2 * r == d && odd)
  | 1 => false
  | 2 => !neg && r != 0
  | _ => neg && r != 0

/-- Divide a magnitude by 2^k and round. -/
def roundShift (mode : Nat) (neg : Bool) (m k : Nat) : Nat :=
  let q := m / 2 ^ k
  if roundsUp mode neg (q % 2 == 1) (m % 2 ^ k) (2 ^ k) then q + 1 else q

/-- The pattern of an overflowed result (R235): ∞, or the largest finite in the directions the mode rounds toward zero, and
always under saturation. -/
def overflowF (f : FpFmt) (mode : Nat) (sat neg : Bool) : Nat :=
  let toInf := match mode with | 0 => true | 1 => false | 2 => !neg | _ => neg
  if sat || !toInf then f.inf - 1 else f.inf

/-- Correct rounding of (−1)^neg · m · 2^e into a format (R234, R235). -/
def packF (f : FpFmt) (mode : Nat) (sat ftz : Bool) (neg : Bool) (m : Nat) (e : Int) : Nat :=
  let s := if neg then f.sign else 0
  if m = 0 then s else
  let top : Int := e + Nat.log2 m
  let emin : Int := 1 - f.bias
  let q : Int := (if top < emin then emin else top) - f.fb
  let mant := if q ≤ e then m * 2 ^ (e - q).toNat else roundShift mode neg m (q - e).toNat
  let enc := (q + f.fb + f.bias - 1).toNat * 2 ^ f.fb + mant
  if enc ≥ f.inf then s + overflowF f mode sat neg
  else if ftz && enc < 2 ^ f.fb then s
  else s + enc

/-- The pattern of a value. -/
def packV (f : FpFmt) (mode : Nat) (sat ftz : Bool) : FVal → Nat
  | .nan => f.nan
  | .inf neg => (if neg then f.sign else 0) + f.inf
  | .fin neg m e => packF f mode sat ftz neg m e

/-- The exact value (−1)^neg · m as an integer. -/
def signed (neg : Bool) (m : Nat) : Int := if neg then -(m : Int) else m

/-- Exact sum (R295): the sign of an exact zero sum is + except toward −∞, and that of equal-signed zeros is kept. -/
def addV (mode : Nat) : FVal → FVal → FVal
  | .nan, _ => .nan
  | _, .nan => .nan
  | .inf a, .inf b => if a = b then .inf a else .nan
  | .inf a, .fin _ _ _ => .inf a
  | .fin _ _ _, .inf b => .inf b
  | .fin na ma ea, .fin nb mb eb =>
    let e := min ea eb
    let v := signed na (ma * 2 ^ (ea - e).toNat) + signed nb (mb * 2 ^ (eb - e).toNat)
    if v = 0 then
      if ma = 0 ∧ mb = 0 ∧ na = nb then .fin na 0 0 else .fin (mode == 3) 0 0
    else .fin (v < 0) v.natAbs e

/-- Negation. -/
def negV : FVal → FVal
  | .nan => .nan
  | .inf a => .inf (!a)
  | .fin a m e => .fin (!a) m e

/-- Exact product. -/
def mulV : FVal → FVal → FVal
  | .nan, _ => .nan
  | _, .nan => .nan
  | .inf a, .inf b => .inf (a != b)
  | .inf a, .fin b m _ => if m = 0 then .nan else .inf (a != b)
  | .fin a m _, .inf b => if m = 0 then .nan else .inf (a != b)
  | .fin a ma ea, .fin b mb eb => .fin (a != b) (ma * mb) (ea + eb)

/-- Quotient with 70 bits beyond the divisor's and a sticky bit, enough for one correct rounding into any format. -/
def divV : FVal → FVal → FVal
  | .nan, _ => .nan
  | _, .nan => .nan
  | .inf _, .inf _ => .nan
  | .inf a, .fin b _ _ => .inf (a != b)
  | .fin a _ _, .inf b => .fin (a != b) 0 0
  | .fin a ma ea, .fin b mb eb =>
    if mb = 0 then (if ma = 0 then .nan else .inf (a != b))
    else if ma = 0 then .fin (a != b) 0 0
    else
      let k := 70 + Nat.log2 mb
      let n := ma * 2 ^ k
      let q := n / mb
      .fin (a != b) (2 * q + (if n % mb = 0 then 0 else 1)) (ea - eb - k - 1)

/-- Integer square root: the largest `r` with `r * r ≤ n`, found bit by bit from bit `b` down. -/
def isqrtFrom (n : Nat) : Nat → Nat → Nat
  | 0, r => r
  | b + 1, r => if (r + 2 ^ b) * (r + 2 ^ b) ≤ n then isqrtFrom n b (r + 2 ^ b) else isqrtFrom n b r

/-- Integer square root. -/
def isqrt (n : Nat) : Nat := isqrtFrom n (Nat.log2 n / 2 + 1) 0

/-- Square root with a sticky bit (R300, R301). -/
def sqrtV : FVal → FVal
  | .nan => .nan
  | .inf a => if a then .nan else .inf false
  | .fin a m e =>
    if m = 0 then .fin a 0 0
    else if a then .nan
    else
      let k : Nat := if e % 2 = 0 then 140 else 141
      let n := m * 2 ^ k
      let r := isqrt n
      .fin false (2 * r + (if r * r = n then 0 else 1)) ((e - k) / 2 - 1)

/-- One operation on patterns: unpack, compute, round (R292). -/
def opF (f : FpFmt) (mode : Nat) (sat ftz : Bool) (g : FVal → FVal → FVal) (x y : Nat) : Nat :=
  packV f mode sat ftz (g (unpackF f ftz x) (unpackF f ftz y))

/-- R295 `fadd`. -/
def addF (f : FpFmt) (mode : Nat) (sat ftz : Bool) (x y : Nat) : Nat := opF f mode sat ftz (addV mode) x y
/-- R295 `fsub`. -/
def subF (f : FpFmt) (mode : Nat) (sat ftz : Bool) (x y : Nat) : Nat :=
  opF f mode sat ftz (fun a b => addV mode a (negV b)) x y
/-- R295 `fmul`. -/
def mulF (f : FpFmt) (mode : Nat) (sat ftz : Bool) (x y : Nat) : Nat := opF f mode sat ftz mulV x y
/-- R299 `fdiv`. -/
def divF (f : FpFmt) (mode : Nat) (sat ftz : Bool) (x y : Nat) : Nat := opF f mode sat ftz divV x y
/-- R295 `fma`: one rounding of x·y + z. -/
def fmaF (f : FpFmt) (mode : Nat) (sat ftz : Bool) (x y z : Nat) : Nat :=
  packV f mode sat ftz (addV mode (mulV (unpackF f ftz x) (unpackF f ftz y)) (unpackF f ftz z))

/-- The value of a pattern ordered as an integer, −0 just below +0 (R234). -/
def orderF (f : FpFmt) (x : Nat) : Int :=
  if x / f.sign % 2 = 1 then -(x % f.sign : Nat) - 1 else (x % f.sign : Nat)

/-- Read a subnormal as zero of its sign under `ftz` (R235). -/
def flushF (f : FpFmt) (ftz : Bool) (x : Nat) : Nat :=
  if ftz && x % f.sign < 2 ^ f.fb then x / f.sign % 2 * f.sign else x

/-- Is the pattern a NaN? -/
def isNanF (f : FpFmt) (x : Nat) : Bool := x % f.sign > f.inf

/-- R234, R296: minimumNumber and maximumNumber. -/
def minmaxF (f : FpFmt) (ftz isMax : Bool) (x y : Nat) : Nat :=
  let a := flushF f ftz x
  let b := flushF f ftz y
  if isNanF f a then (if isNanF f b then f.nan else b)
  else if isNanF f b then a
  else if isMax then (if orderF f a < orderF f b then b else a)
  else (if orderF f b < orderF f a then b else a)

/-- R297: the comparison, −0 equal to +0. -/
def cmpF (f : FpFmt) (ftz : Bool) (cond : Nat) (x y : Nat) : Bool :=
  let a := flushF f ftz x
  let b := flushF f ftz y
  let un := isNanF f a || isNanF f b
  let v := fun z => if z % f.sign = 0 then (0 : Int) else if z / f.sign % 2 = 1 then -(z % f.sign : Nat) else (z % f.sign : Nat)
  match cond with
  | 0 => !un && v a == v b
  | 1 => un || v a != v b
  | 2 => !un && decide (v a < v b)
  | 3 => !un && decide (v a ≤ v b)
  | 4 => !un && decide (v a > v b)
  | 5 => !un && decide (v a ≥ v b)
  | _ => un

/-- R298: the class bit. -/
def classF (f : FpFmt) (x : Nat) : Nat :=
  let neg := x / f.sign % 2 = 1
  let mag := x % f.sign
  if mag > f.inf then (if mag % 2 ^ f.fb < 2 ^ (f.fb - 1) then 8 else 9)
  else if mag = f.inf then (if neg then 0 else 7)
  else if mag = 0 then (if neg then 3 else 4)
  else if mag < 2 ^ f.fb then (if neg then 2 else 5)
  else (if neg then 1 else 6)

/-- R299 `fscale`: x · 2^n, rounded once. -/
def scaleF (f : FpFmt) (mode : Nat) (ftz : Bool) (x : Nat) (n : Int) : Nat :=
  match unpackF f ftz x with
  | .fin a m e => packF f mode false ftz a m (e + max (-5000) (min 5000 n))
  | v => packV f mode false ftz v

/-- R299 `frnd`: an integral value by mode, the sign kept. -/
def rndF (f : FpFmt) (mode : Nat) (ftz : Bool) (x : Nat) : Nat :=
  match unpackF f ftz x with
  | .fin a m e => if 0 ≤ e then packF f 0 false ftz a m e else packF f 0 false ftz a (roundShift mode a m (-e).toNat) 0
  | v => packV f mode false ftz v

/-- R303: convert between float formats. -/
def cvtFF (src dst : FpFmt) (mode : Nat) (sat ftzS ftzD : Bool) (x : Nat) : Nat := packV dst mode sat ftzD (unpackF src ftzS x)

/-- R303: a float to an integer of `w` bits, clamped to the destination's range; NaN gives 0. -/
def cvtFI (src : FpFmt) (mode : Nat) (ftz : Bool) (w : Nat) (sgn : Bool) (x : Nat) : Int :=
  let lo : Int := if sgn then -(2 ^ (w - 1) : Nat) else 0
  let hi : Int := if sgn then (2 ^ (w - 1) : Nat) - 1 else (2 ^ w : Nat) - 1
  match unpackF src ftz x with
  | .nan => 0
  | .inf neg => if neg then lo else hi
  | .fin neg m e =>
    let v := signed neg (if 0 ≤ e then m * 2 ^ (min e.toNat 2000) else roundShift mode neg m (-e).toNat)
    max lo (min hi v)

/-- R303: an integer to a float. -/
def cvtIF (dst : FpFmt) (mode : Nat) (sat ftz : Bool) (v : Int) : Nat := packF dst mode sat ftz (v < 0) v.natAbs 0

/-! ### Special functions (R300, R301) -/

/-- Clamp a free error to a bound. -/
def clampErr (b : Nat) (e : Int) : Int := max (-(b : Int)) (min b e)

/-- Move a finite positive pattern by a free number of ulp, within ±2 (R300). -/
def nudge (x : Nat) (k : Int) : Nat := ((x : Int) + clampErr 2 k).toNat

/-- Does a finite binary32 pattern lie within `b` units of 2^sc of the value v · 2^sc? -/
def nearF32 (cand : Nat) (v sc : Int) (b : Nat) : Bool :=
  match unpackF f32 false cand with
  | .fin a m e =>
    let e0 := min e sc
    (signed a (m * 2 ^ (e - e0).toNat) - v * 2 ^ (sc - e0).toNat).natAbs ≤ b * 2 ^ (sc - e0).toNat
  | _ => false

/-- A pattern a free choice offers, where the bound admits it; else the correctly rounded value of v · 2^sc (R300). -/
def withinF32 (cand : Nat) (v sc : Int) (b : Nat) : Nat :=
  if nearF32 cand v sc b then cand else packF f32 0 false false (v < 0) v.natAbs sc

/-- R301 `frcp`. -/
def rcpF (f : FpFmt) (mode : Nat) (sat ftz : Bool) (x : Nat) : Nat :=
  packV f mode sat ftz (divV (.fin false 1 0) (unpackF f ftz x))

/-- R300, R301 `frsq`: an exact root's reciprocal is returned exactly rounded; otherwise one of its two neighbours, by a free
choice. -/
def rsqF (f : FpFmt) (up : Bool) (ftz : Bool) (x : Nat) : Nat :=
  match unpackF f ftz x with
  | .fin a m e =>
    if m = 0 then (if a then f.sign else 0) + f.inf
    else if a then f.nan
    else packV f (if up then 2 else 1) false ftz (divV (.fin false 1 0) (sqrtV (.fin false m e)))
  | .inf a => if a then f.nan else 0
  | .nan => f.nan

/-- 2^x for a fraction x = n / 2^62, in units of 2⁻⁶²: the product of the roots 2^(2⁻ⁱ) of the fraction's set bits,
`r` being the current root and `i` the bits left. -/
def exp2Frac (n : Nat) : Nat → Nat → Nat → Nat
  | 0, _, acc => acc
  | i + 1, r, acc =>
    let r' := isqrt (r * 2 ^ 62)
    exp2Frac n i r' (if n / 2 ^ i % 2 = 1 then acc * r' / 2 ^ 62 else acc)

/-- R300, R301 `fex2` in binary32: within 2 ulp, the offset a free value; exact for an integer. -/
def ex2F32 (off : Int) (ftz : Bool) (x : Nat) : Nat :=
  match unpackF f32 ftz x with
  | .nan => f32.nan
  | .inf a => if a then 0 else f32.inf
  | .fin a m e =>
    if m = 0 then packF f32 0 false ftz false 1 0
    else if e > 8 then (if a then 0 else f32.inf)
    else
      -- x in units of 2^-62
      let v := if 0 ≤ e + 62 then signed a (m * 2 ^ (e + 62).toNat) else signed a (m / 2 ^ (-(e + 62)).toNat)
      let n := v / 2 ^ 62
      let fr := (v % 2 ^ 62).toNat
      if fr = 0 ∧ 0 ≤ e + 62 then packF f32 0 false ftz false 1 n
      else
        let y := exp2Frac fr 62 (2 ^ 63) (2 ^ 62)
        let r := packF f32 0 false false false y (n - 62)
        -- 2 ulp of a value of exponent n, in units of 2^(n - 62)
        if r = f32.inf then r else flushF f32 ftz (withinF32 (nudge r off) y (n - 62) (2 ^ (40 + (-126 - n).toNat)))

/-- The base-2 logarithm's fraction of y / 2^62 in [1, 2), `i` bits of it, by repeated squaring. -/
def log2Frac : Nat → Nat → Nat → Nat
  | 0, _, acc => acc
  | i + 1, y, acc =>
    let z := y * y / 2 ^ 62
    if z ≥ 2 ^ 63 then log2Frac i (z / 2) (2 * acc + 1) else log2Frac i z (2 * acc)

/-- R300, R301 `flg2` in binary32: exact for a power of two; otherwise the computed value plus a free error within the larger
of 2 ulp and 2⁻²². -/
def lg2F32 (err : Int) (ftz : Bool) (x : Nat) : Nat :=
  match unpackF f32 ftz x with
  | .nan => f32.nan
  | .inf a => if a then f32.nan else f32.inf
  | .fin a m e =>
    if m = 0 then f32.sign + f32.inf
    else if a then f32.nan
    else
      let k := Nat.log2 m
      let n : Int := e + k
      if m = 2 ^ k then packF f32 0 false ftz (n < 0) n.natAbs 0
      else
        let v : Int := n * 2 ^ 60 + log2Frac 60 (m * 2 ^ (62 - k)) 0
        let b := 2 ^ (38 + (Nat.log2 v.natAbs - 60))
        let w := v + clampErr b err
        flushF f32 ftz (withinF32 (packF f32 0 false false (w < 0) w.natAbs (-60)) v (-60) b)

/-- π in units of 2⁻²⁰⁰. -/
def piFix : Nat := 5048344754617993871973410141242436836214643421488662971535368

/-- sin of y / 2^100 by its series, `i` terms left: `t` is the current term of sign `neg`, `k` its odd index. -/
def sinSeries (y2 : Nat) : Nat → Nat → Int → Nat → Bool → Int
  | 0, _, acc, _, _ => acc
  | i + 1, t, acc, k, neg =>
    let t' := t * y2 / 2 ^ 100 / ((k + 1) * (k + 2))
    sinSeries y2 i t' (if neg then acc - t else acc + t) (k + 2) (!neg)

/-- sin of the reduced angle r / 2^100 in [0, 2π), in units of 2⁻¹⁰⁰. -/
def sinFix (r : Nat) : Int :=
  let y : Int := r - (piFix / 2 ^ 100 : Nat)
  let a := y.natAbs
  let s := sinSeries (a * a / 2 ^ 100) 40 a 0 1 false
  if y < 0 then s else -s

/-- The angle m · 2^e + quarter turns q · π/2, reduced into [0, 2π), in units of 2⁻¹⁰⁰. -/
def reduceAngle (neg : Bool) (m : Nat) (e : Int) (q : Nat) : Nat :=
  let v : Int := if 0 ≤ e + 200 then signed neg (m * 2 ^ (e + 200).toNat) else 0
  (((v + q * (piFix / 2 : Nat)) % (2 * piFix : Nat)) / 2 ^ 100).toNat

/-- R300, R301 `fsin` (q = 0) and `fcos` (q = 1) in binary32: the correctly rounded value, or any other that a free error reaches within 2⁻²¹. -/
def sincosF32 (q : Nat) (err : Int) (ftz : Bool) (x : Nat) : Nat :=
  match unpackF f32 ftz x with
  | .nan => f32.nan
  | .inf _ => f32.nan
  | .fin a m e =>
    if m = 0 then (if q = 1 then packF f32 0 false ftz false 1 0 else if a then f32.sign else 0)
    else
      let v := sinFix (reduceAngle a m e q)
      let w := v + clampErr (2 ^ 79) (err * 2 ^ 60)
      flushF f32 ftz (withinF32 (packF f32 0 false false (w < 0) w.natAbs (-100)) v (-100) (2 ^ 79))

/-- R300: the special functions in binary32 by `fn`, `rnd` for those correctly rounded. -/
def specialF32 (fn mode : Nat) (ftz : Bool) (x : Nat) : Nat :=
  let xb := BitVec.ofNat 32 (flushF f32 ftz x)
  match fn with
  | 0 => rcpF f32 mode false ftz x
  | 1 => rsqF f32 (Config.frsq32Up xb) ftz x
  | 2 => packV f32 mode false ftz (sqrtV (unpackF f32 ftz x))
  | 3 => ex2F32 (Config.fex2Off xb) ftz x
  | 4 => lg2F32 (Config.flg2Off xb) ftz x
  | 5 => sincosF32 0 (Config.fsinErr xb) ftz x
  | _ => sincosF32 1 (Config.fcosErr xb) ftz x

/-- R300: the special functions in binary64 (`frcp`, `frsq`, `fsqrt`). -/
def specialF64 (fn mode : Nat) (x : Nat) : Nat :=
  match fn with
  | 0 => rcpF f64 mode false false x
  | 1 => rsqF f64 (Config.frsq64Up (BitVec.ofNat 64 x)) false x
  | _ => packV f64 mode false false (sqrtV (unpackF f64 false x))

/-- R300: a packed half: widened exactly, the binary32 function without flushing, rounded to nearest even. An overflow of either step
saturates under `satf` (R235). -/
def specialHalf (h : FpFmt) (fn mode : Nat) (sat ftz : Bool) (x : Nat) : Nat :=
  let w := cvtFF h f32 0 false ftz false x
  let y := specialF32 fn mode false w
  -- an infinity that a finite operand overflows to, not the exact one of a zero operand
  let huge := (fn == 0 || fn == 3) && y % f32.sign == f32.inf && w % f32.sign != 0 && w % f32.sign < f32.inf
  if sat && huge then y / f32.sign * h.sign + (h.inf - 1) else cvtFF f32 h 0 sat false ftz y

/-- Both halves of a packed word. -/
def halves2 (g : Nat → Nat → Nat) (x y : Nat) : Nat := g (x % 65536) (y % 65536) + 65536 * g (x / 65536) (y / 65536)

/-- Both halves of a packed word, one operand. -/
def halves1 (g : Nat → Nat) (x : Nat) : Nat := g (x % 65536) + 65536 * g (x / 65536)

end Sys2Proof.Machine
end

