-- ==== Sys2Proof/Machine/Narrow.lean ====
section
/-! DEFINITION. Narrow element formats and block quantisation (R236–R242, R244). -/

namespace Sys2Proof.Machine

/-- The element encodings of the format codes 0x3–0xe (R244). -/
inductive Elem where
  | e4m3
  | e5m2
  | e2m3
  | e3m2
  | e2m1
  | int8
  | int4
  | mxint8
  | dx8
  | dx4
deriving DecidableEq, Repr

/-- R244: the element encoding a code names. -/
def elemOf (code : Nat) : Option Elem :=
  match code with
  | 3 => some .e4m3
  | 4 => some .e5m2
  | 5 => some .int8
  | 6 => some .int4
  | 7 => some .e4m3
  | 8 => some .e5m2
  | 9 => some .e2m3
  | 10 => some .e3m2
  | 11 => some .e2m1
  | 12 => some .mxint8
  | 13 => some .dx8
  | 14 => some .dx4
  | _ => none

/-- R244: the width class of a format code as an input: 16, 8 or 4; `none` where it is no input. -/
def widthClass (code : Nat) : Option Nat :=
  match code with
  | 1 => some 16
  | 2 => some 16
  | 6 => some 4
  | 11 => some 4
  | 14 => some 4
  | 0 => none
  | 15 => none
  | _ => some 8

/-- Width of a stored element in bits: 6-bit elements occupy a byte (R237). -/
def elemBits : Elem → Nat
  | .int4 => 4
  | .e2m1 => 4
  | .dx4 => 4
  | _ => 8

/-- R236: the float formats among the elements. -/
def elemFmt : Elem → Option FpFmt
  | .e4m3 => some ⟨4, 3, 7⟩
  | .e5m2 => some ⟨5, 2, 15⟩
  | .e2m3 => some ⟨2, 3, 1⟩
  | .e3m2 => some ⟨3, 2, 3⟩
  | .e2m1 => some ⟨2, 1, 1⟩
  | _ => none

/-- A two's-complement number of `w` bits. -/
def twos (w x : Nat) : Int := if x / 2 ^ (w - 1) % 2 = 1 then (x % 2 ^ w : Nat) - (2 ^ w : Nat) else (x % 2 ^ w : Nat)

/-- R236: the value of a finite pattern of a float format in which every exponent code is finite. -/
def narrowVal (f : FpFmt) (x : Nat) : FVal :=
  let neg := x / f.sign % 2 == 1
  let mag := x % f.sign
  let ex := mag / 2 ^ f.fb
  let fr := mag % 2 ^ f.fb
  if ex = 0 then .fin neg fr (1 - f.bias - f.fb) else .fin neg (2 ^ f.fb + fr) (ex - f.bias - f.fb)

/-- R236: the value of an element, without any block scale. -/
def decodeElem (e : Elem) (x : Nat) : FVal :=
  match e with
  | .e4m3 => if x % 128 = 127 then .nan else narrowVal ⟨4, 3, 7⟩ (x % 256)
  | .e5m2 =>
    if x % 128 > 124 then .nan else if x % 128 = 124 then .inf (x / 128 % 2 == 1) else narrowVal ⟨5, 2, 15⟩ (x % 256)
  | .e2m3 => narrowVal ⟨2, 3, 1⟩ (x % 64)
  | .e3m2 => narrowVal ⟨3, 2, 3⟩ (x % 64)
  | .e2m1 => narrowVal ⟨2, 1, 1⟩ (x % 16)
  | .int8 => let v := twos 8 x; .fin (v < 0) v.natAbs 0
  | .int4 => let v := twos 4 x; .fin (v < 0) v.natAbs 0
  | .mxint8 => let v := twos 8 x; .fin (v < 0) v.natAbs (-6)
  | .dx8 => .fin (x / 64 % 2 == 1) (x % 64) 0
  | .dx4 => .fin (x / 4 % 2 == 1) (x % 4) 0

/-- The pattern of the largest finite magnitude (R236). -/
def maxElem (f : FpFmt) (e : Elem) : Nat :=
  match e with
  | .e4m3 => 0x7e
  | .e5m2 => 0x7b
  | _ => f.sign - 1

/-- An element produced by a conversion, and what the drain's trailer counts of it (R241, R249). -/
structure Conv where
  bits : Nat
  sat  : Bool
  nan  : Bool
deriving DecidableEq, Repr

/-- R241: round a finite value into a float element format; overflow by the table. -/
def convFloat (e : Elem) (f : FpFmt) (mode : Nat) (satf neg : Bool) (m : Nat) (ex : Int) : Conv :=
  let s := if neg then f.sign else 0
  if m = 0 then ⟨s, false, false⟩
  else
    let top : Int := ex + Nat.log2 m
    let emin : Int := 1 - f.bias
    let q : Int := (if top < emin then emin else top) - f.fb
    let mant := if q ≤ ex then m * 2 ^ (ex - q).toNat else roundShift mode neg m (q - ex).toNat
    let enc := (q + f.fb + f.bias - 1).toNat * 2 ^ f.fb + mant
    if enc ≤ maxElem f e then ⟨s + enc, false, false⟩
    else match e with
      | .e4m3 => if satf then ⟨s + 0x7e, true, false⟩ else ⟨0x7f, false, false⟩
      | .e5m2 =>
        let toInf := match mode with | 0 => true | 1 => false | 2 => !neg | _ => neg
        if satf then ⟨s + 0x7b, true, false⟩ else if toInf then ⟨s + 0x7c, false, false⟩ else ⟨s + 0x7b, false, false⟩
      | _ => ⟨s + maxElem f e, true, false⟩

/-- R241: round a finite value into a two's-complement element of `w` bits scaled by 2^`fb`; `lo` is the smallest produced. -/
def convInt (w fb : Nat) (lo : Int) (mode : Nat) (neg : Bool) (m : Nat) (ex : Int) : Conv :=
  let e := ex + fb
  let v := signed neg (if 0 ≤ e then m * 2 ^ (min e.toNat 2000) else roundShift mode neg m (-e).toNat)
  let hi : Int := (2 ^ (w - 1) : Nat) - 1
  if v > hi then ⟨hi.toNat, true, false⟩
  else if v < lo then ⟨(lo % (2 ^ w : Nat)).toNat, true, false⟩
  else ⟨(v % (2 ^ w : Nat)).toNat, false, false⟩

/-- R241: conversion of a value into an element outside any block. -/
def convElem (e : Elem) (mode : Nat) (satf : Bool) (v : FVal) : Conv :=
  let isInt := match e with | .int8 | .int4 | .mxint8 => true | _ => false
  let w := elemBits e
  let lo : Int := match e with | .int8 => -128 | .int4 => -8 | _ => -127
  let fb := match e with | .mxint8 => 6 | _ => 0
  match v with
  | .nan => (match e with | .e4m3 | .e5m2 => ⟨0x7f, false, true⟩ | _ => ⟨0, false, true⟩)
  | .inf neg =>
    if isInt then ⟨((if neg then lo else (2 ^ (w - 1) : Nat) - 1) % (2 ^ w : Nat)).toNat, true, false⟩
    else match elemFmt e with
      | none => ⟨0, false, false⟩
      | some f =>
        let s := if neg then f.sign else 0
        (match e with
         | .e4m3 => if satf then ⟨s + 0x7e, true, false⟩ else ⟨0x7f, false, false⟩
         | .e5m2 => if satf then ⟨s + 0x7b, true, false⟩ else ⟨s + 0x7c, false, false⟩
         | _ => ⟨s + maxElem f e, true, false⟩)
  | .fin neg m ex =>
    if isInt then convInt w fb lo mode neg m ex
    else match elemFmt e with
      | none => ⟨0, false, false⟩
      | some f => convFloat e f mode satf neg m ex

/-! ### Blocks -/

/-- R242: emax of an MX element format. -/
def emaxOf : Elem → Int
  | .e4m3 => 8
  | .e5m2 => 15
  | .e2m3 => 2
  | .e3m2 => 4
  | .e2m1 => 2
  | _ => 0

/-- Is a value NaN or infinite? -/
def FVal.special : FVal → Bool
  | .fin _ _ _ => false
  | _ => true

/-- floor(log2 |v|) of a finite non-zero value. -/
def expOf : FVal → Int
  | .fin _ m e => e + Nat.log2 m
  | _ => 0

/-- Is a finite value non-zero? -/
def FVal.nonzero : FVal → Bool
  | .fin _ m _ => m != 0
  | _ => false

/-- |a| < |b| for finite values. -/
def magLt : FVal → FVal → Bool
  | .fin _ ma ea, .fin _ mb eb => let e := min ea eb; ma * 2 ^ (ea - e).toNat < mb * 2 ^ (eb - e).toNat
  | _, _ => false

/-- The element of largest magnitude. -/
def amaxOf (vs : List FVal) : FVal := vs.foldl (fun a v => if magLt a v then v else a) (.fin false 0 0)

/-- Clamp an integer to a range and take it as a byte. -/
def clampByte (lo hi x : Int) : Nat := (max lo (min hi x)).toNat

/-- A value times 2^k. -/
def FVal.scale : FVal → Int → FVal
  | .fin n m e, k => .fin n m (e + k)
  | v, _ => v

/-- A quantised block: scale bytes, elements, saturations counted. -/
structure Block where
  scales : List Nat
  elems  : List Nat
  nsat   : Nat
deriving DecidableEq, Repr

/-- R242: MX quantisation of a block. -/
def quantMx (e : Elem) (mode : Nat) (vs : List FVal) : Block :=
  if vs.any FVal.special then ⟨[255], vs.map (fun _ => 0), 0⟩
  else
    let a := amaxOf vs
    if !a.nonzero then ⟨[0], vs.map (fun _ => 0), 0⟩
    else
      let sc := clampByte 0 254 (expOf a - emaxOf e + 127)
      let cs := vs.map (fun v => convElem e mode true (v.scale (127 - sc)))
      ⟨[sc], cs.map (·.bits), (cs.filter (·.sat)).length⟩

/-- R240: q(x, E): |x| / 2^(E − 127 − f) rounded in the mode; what is rounded is the magnitude, whatever the sign of x. -/
def dxQ (f : Nat) (mode : Nat) (v : FVal) (E : Int) : Nat :=
  match v with
  | .fin _ m e =>
    let k := e - (E - 127 - f)
    if 0 ≤ k then m * 2 ^ k.toNat else roundShift mode false m (-k).toNat
  | _ => 0

/-- Is a value's sign bit set? -/
def FVal.isNeg : FVal → Bool
  | .fin n _ _ => n
  | .inf n => n
  | .nan => false

/-- R240: DX quantisation of a block: M, f and the bit layout of DX8 or DX4, with the gap of `FMT`. -/
def quantDx (is4 : Bool) (mode gap : Nat) (vs : List FVal) : Block :=
  let M := if is4 then 3 else 63
  let f := if is4 then 1 else 5
  let sgnBit := if is4 then 4 else 64
  let selBit := if is4 then 8 else 128
  if vs.any FVal.special then ⟨[255, 255], vs.map (fun _ => 0), 0⟩
  else
    let a := amaxOf vs
    if !a.nonzero then ⟨[0, 0], vs.map (fun _ => 0), 0⟩
    else
      let e := expOf a
      let hi := clampByte 0 254 (e + 127 + (if dxQ f mode a (e + 127) > M then 1 else 0))
      let lo := hi - gap
      let one := fun v =>
        let s := if FVal.isNeg v then sgnBit else 0
        let ql := dxQ f mode v lo
        if ql ≤ M then (s + ql, false)
        else
          let qh := dxQ f mode v hi
          (selBit + s + min M qh, qh > M)
      let es := vs.map one
      ⟨[hi, lo], es.map (·.1), (es.filter (·.2)).length⟩

/-- R239: the value of a DX element under its block's exponents. -/
def decodeDx (is4 : Bool) (hi lo x : Nat) : FVal :=
  if hi = 255 then .nan
  else
    let sel := if is4 then x / 8 % 2 else x / 128 % 2
    let E := if sel = 1 then hi else lo
    if is4 then .fin (x / 4 % 2 == 1) (x % 4) (E - 128) else .fin (x / 64 % 2 == 1) (x % 64) (E - 132)

/-- R238: the value of an MX element under its block's scale byte. -/
def decodeMx (e : Elem) (scale x : Nat) : FVal := if scale = 255 then .nan else (decodeElem e x).scale (scale - 127)

end Sys2Proof.Machine
end

