-- ==== Sys2Proof/Machine/Codeword.lean ====
section
/-! DEFINITION. A line between its slice and the DRAM: the data block of a stack port (R15), the encrypted and protected codeword of the
base die (R21), and the data pins that carry it (R23). -/

namespace Sys2Proof.Machine

/-! ### The block (R15) -/

/-- The 144 bytes of a block: 32 words little-endian, then their residues in pairs. -/
def blockBytes (ws : List Word) : List Byte :=
  (List.range 32).flatMap (fun i => bytesOfWord (ws.getD i Word.zero).data) ++
  (List.range 16).map (fun i => (ws.getD (2 * i + 1) Word.zero).res ++ (ws.getD (2 * i) Word.zero).res)

/-- The 32 words of a block. -/
def blockOfBytes (bs : List Byte) : List Word :=
  (List.range 32).map (fun i =>
    let r := bs.getD (128 + i / 2) 0
    ⟨wordOfBytes ((bs.drop (4 * i)).take 4), if i % 2 = 0 then r.extractLsb' 0 4 else r.extractLsb' 4 4⟩)

/-! ### Encryption (R21, IEEE 1619) -/

/-- The next power of α of a tweak value: the product by x in GF(2^128), bytes little-endian. -/
def tweakNext (t : BitVec 128) : BitVec 128 := (t <<< 1) ^^^ (if t.getLsbD 127 then 0x87#128 else 0)

/-- The tweak values of the nine blocks of a line, from its byte address and the tweak key. -/
def lineTweaks (tweakKey : BitVec 256) (line : Nat) : List (BitVec 128) :=
  (List.range 8).foldl (fun ts _ => ts ++ [tweakNext (ts.getLastD 0)]) [Config.aes256 tweakKey (BitVec.ofNat 128 (line * 128))]

/-- The nine ciphertext blocks of an information block. -/
def xtsBlocks (keys : BitVec 512) (line : Nat) (info : List Byte) : List (BitVec 128) :=
  let dataKey := keys.extractLsb' 0 256
  (lineTweaks (keys.extractLsb' 256 256) line).zipIdx.map (fun t =>
    Config.aes256 dataKey (BitVec.ofNat 128 (ofBytes ((info.drop (16 * t.2)).take 16)) ^^^ t.1) ^^^ t.1)

/-- The 144 ciphertext bytes of a line under a key slot's two keys. -/
def cipherBytes (keys : BitVec 512) (line : Nat) (info : List Byte) : List Byte :=
  (xtsBlocks keys line info).flatMap (fun b => bytesOf 16 b.toNat)

/-! ### The line code (R21) -/

/-- The product by α in GF(2^8). -/
def gfTimes2 (x : BitVec 8) : BitVec 8 := (x <<< 1) ^^^ (if x.getLsbD 7 then 0x1d#8 else 0)
/-- The product in GF(2^8): `n` bits of y, highest first. -/
def gfMulBits (x y : BitVec 8) : Nat → BitVec 8
  | 0 => 0
  | n + 1 => gfTimes2 (gfMulBits x (y >>> 1) n) ^^^ (if y.getLsbD 0 then x else 0)
/-- The product in GF(2^8). -/
def gfMul (x y : BitVec 8) : BitVec 8 := gfMulBits x y 8
/-- α^n. -/
def gfPow : Nat → BitVec 8
  | 0 => 1
  | n + 1 => gfTimes2 (gfPow n)

/-- The product of a polynomial, highest coefficient first, by (x − a). -/
def timesRoot (p : List (BitVec 8)) (a : BitVec 8) : List (BitVec 8) :=
  List.zipWith (fun c d => c ^^^ gfMul a d) (p ++ [0]) (0 :: p)
/-- The generator polynomial g(x), highest coefficient first. -/
def rsGenerator : List (BitVec 8) := (List.range 16).foldl (fun p i => timesRoot p (gfPow i)) [1]

/-- The sixteen parity symbols: the remainder of the message times x^16 divided by g(x). -/
def rsParity (msg : List (BitVec 8)) : List (BitVec 8) :=
  let g := rsGenerator.drop 1
  msg.foldl (fun r m =>
    let f := m ^^^ r.headD 0
    List.zipWith (fun c d => c ^^^ gfMul f d) (r.drop 1 ++ [0]) g) (List.replicate 16 0)

/-- The 160 symbols of a line's codeword under a key slot's keys. -/
def codeword (keys : BitVec 512) (line : Nat) (ws : List Word) : List (BitVec 8) :=
  let c := cipherBytes keys line (blockBytes ws)
  c ++ rsParity c

/-! ### The data pins (R23) -/

/-- The symbol and the bit of it that a pin carries in a beat. -/
def pinBit (pin beat : Nat) : Nat × Nat :=
  if beat < 16 then (64 * (beat / 8) + pin, beat % 8) else (128 + pin / 2, 4 * (pin % 2) + (beat - 16))

/-- The symbols a pin carries bits of, ascending. -/
def pinSymbols (pin : Nat) : List Nat := sortNat ((List.range 20).map (fun b => (pinBit pin b).1))

/-- What a pin carries in a beat of a codeword. -/
def pinLevel (cw : List (BitVec 8)) (pin beat : Nat) : Bool :=
  let p := pinBit pin beat
  (cw.getD p.1 0).getLsbD p.2

end Sys2Proof.Machine
end

