-- ==== Sys2Proof/Machine/Focus.lean ====
section
/-! DEFINITION. Reaching groups and teams: the issuing group and its team stand in `State.g` and `State.tm` while it runs;
every other one in the tables. -/

namespace Sys2Proof.Machine

/-- Key of a resident team. -/
def teamKey (die core slot : Nat) : Nat := (die * 64 + core) * 32 + slot

/-- The team of a group reference. -/
def grpKey (r : GroupRef) : Nat := teamKey r.die r.core r.slot

/-- Is the issuing group's team the one with this key? -/
def State.focusedOn (s : State) (key : Nat) : Bool :=
  match s.focus with
  | .group q => grpKey q == key
  | _ => false

/-- The team with its issuing group's current state merged in. -/
def State.mergedTeam (s : State) : Team :=
  match s.focus with
  | .group q => { s.tm with groups := tins s.tm.groups q.grp s.g }
  | _ => s.tm

/-- The resident team with this key. -/
def State.teamAt (s : State) (key : Nat) : Option Team := if s.focusedOn key then some s.mergedTeam else tfind s.teams key

/-- The die number under which references name the Kiln engines of the hub. -/
def kilnDie : Nat := 8

/-- The group a reference names: a group of a resident team, or a Kiln engine's run. -/
def State.groupAt (s : State) (r : GroupRef) : Option Group :=
  if r.die = kilnDie then
    (if s.focus = .kiln r.core then some s.g else (tfind s.kilns r.core).map (·.g))
  else (s.teamAt (grpKey r)).bind (fun t => tfind t.groups r.grp)

/-- Update one group of a team. -/
def Team.modGroup (t : Team) (n : Nat) (f : Group → Group) : Team :=
  { t with groups := t.groups.map (fun q => if q.1 = n then (q.1, f q.2) else q) }

/-- Update a group wherever it stands. -/
def State.modGroup (s : State) (r : GroupRef) (f : Group → Group) : State :=
  if r.die = kilnDie then
    (if s.focus = .kiln r.core then { s with g := f s.g }
     else { s with kilns := s.kilns.map (fun p => if p.1 = r.core then (p.1, { p.2 with g := f p.2.g }) else p) })
  else if s.focus = .group r then { s with g := f s.g }
  else if s.focusedOn (grpKey r) then { s with tm := s.tm.modGroup r.grp f }
  else { s with teams := s.teams.map (fun p => if p.1 = grpKey r then (p.1, p.2.modGroup r.grp f) else p) }

/-- Update a team wherever it stands; `f` keeps the issuing group's own entry out of account. -/
def State.modTeam (s : State) (key : Nat) (f : Team → Team) : State :=
  if s.focusedOn key then { s with tm := f s.tm }
  else { s with teams := s.teams.map (fun p => if p.1 = key then (p.1, f p.2) else p) }

/-- Bring a Kiln engine's run into focus; the run acts in its queue's partition and address space (R88). -/
def State.focusKiln (s : State) (k : Nat) : Option State :=
  match tfind s.kilns k with
  | none => none
  | some e => some { s with g := e.g, tm := { Team.initial with part := e.part, asid := e.asid }, focus := .kiln k }

/-- Bring a group into focus. -/
def State.focusOn (s : State) (r : GroupRef) : Option State :=
  if r.die = kilnDie then s.focusKiln r.core
  else match tfind s.teams (grpKey r) with
    | none => none
    | some t =>
      match tfind t.groups r.grp with
      | none => none
      | some g => some { s with g := g, tm := t, focus := .group r }

/-- Write the issuing group back to the tables. -/
def State.unfocus (s : State) : State :=
  match s.focus with
  | .none => s
  | .group r => { s with
      teams := if (tfind s.teams (grpKey r)).isSome then tins s.teams (grpKey r) { s.tm with groups := tins s.tm.groups r.grp s.g } else s.teams
      g := Group.initial, tm := Team.initial, focus := .none }
  | .kiln k => { s with
      kilns := match tfind s.kilns k with | some e => tins s.kilns k { e with g := s.g } | none => s.kilns
      g := Group.initial, tm := Team.initial, focus := .none }

/-- Bring back a focus. -/
def State.refocus (s : State) (f : Focus) : State :=
  match f with
  | .none => s
  | .group r => (s.focusOn r).getD s
  | .kiln k => (s.focusKiln k).getD s

/-- Do something in the focus of a group, if it is resident; the focus held before is brought back. -/
def State.inGroup (s : State) (r : GroupRef) (f : State → State) : State :=
  if s.focus = .group r ∨ (r.die = kilnDie ∧ s.focus = .kiln r.core) then f s
  else match s.unfocus.focusOn r with
    | none => s
    | some s1 => (f s1).unfocus.refocus s.focus

end Sys2Proof.Machine
end

