-- ==== Sys2Proof/Machine/MeshBits.lean ====
section
/-! DEFINITION. Mesh packets as bits (R26, R27), building packets, and Cinder records as management packets (R167, R168). -/

namespace Sys2Proof.Machine

/-- The 128 bits of a header flit (R26). -/
def meshBits (h : MeshHdr) : Nat :=
  h.cls.toNat + h.src.toNat * 2 ^ 4 + h.dst.toNat * 2 ^ 8 + h.mtype.toNat * 2 ^ 12 + h.nflits.toNat * 2 ^ 16 +
  h.txn.toNat * 2 ^ 21 + h.hpar.toNat * 2 ^ 31 + h.paWord.toNat * 2 ^ 32 + h.key.toNat * 2 ^ 82 + h.lc5.toNat * 2 ^ 95 +
  h.aux.toNat * 2 ^ 96

/-- The fields of a header flit. -/
def meshOfBits (x : Nat) : MeshHdr :=
  { cls := BitVec.ofNat 4 x, src := BitVec.ofNat 4 (x / 2 ^ 4), dst := BitVec.ofNat 4 (x / 2 ^ 8),
    mtype := BitVec.ofNat 4 (x / 2 ^ 12), nflits := BitVec.ofNat 5 (x / 2 ^ 16), txn := BitVec.ofNat 10 (x / 2 ^ 21),
    hpar := BitVec.ofNat 1 (x / 2 ^ 31), paWord := BitVec.ofNat 50 (x / 2 ^ 32), key := BitVec.ofNat 13 (x / 2 ^ 82),
    lc5 := BitVec.ofNat 1 (x / 2 ^ 95), aux := BitVec.ofNat 32 (x / 2 ^ 96) }

/-- Parity of the low `n` bits of a number. -/
def parityN : Nat → Nat → Nat
  | 0, _ => 0
  | n + 1, x => (x % 2 + parityN n (x / 2)) % 2

/-- R26: even parity over the header. -/
def headerParityOk (h : MeshHdr) : Bool := parityN 128 (meshBits h) == 0

/-- R28: the message types each class assigns. -/
def assigned (cls mtype : Nat) : Bool :=
  match cls with
  | 0 => mtype ≤ 3
  | 1 => mtype ≤ 4
  | 2 => mtype ≤ 4
  | 3 => mtype ≤ 4
  | 4 => mtype ≤ 2
  | 5 => mtype ≤ 2 || (8 ≤ mtype && mtype ≤ 10)
  | 6 => mtype ≤ 1
  | 7 => mtype ≤ 4
  | _ => false

/-- The byte mask of a mask flit (R28): its words 0–3, bit i for byte i. -/
def maskOfFlit (f : List Word) : Nat := ofWords (f.take 4)

/-- R28: the parity nibbles of a mask flit agree with its mask: bit j of byte 32 is the even parity of mask bytes 2j and
2j + 1 together. -/
def maskFlitOk (f : List Word) : Bool :=
  let m := maskOfFlit f
  let par := (f.getD 0 Word.zero).res.toNat + 16 * (f.getD 1 Word.zero).res.toNat
  (List.range 8).all (fun j => par / 2 ^ j % 2 == parityN 16 (m / 2 ^ (16 * j)))

/-- A mask flit of a byte mask. -/
def maskFlit (m : Nat) : List Word :=
  let par := (List.range 8).foldl (fun a j => a + parityN 16 (m / 2 ^ (16 * j)) * 2 ^ j) 0
  let w := fun i r => Word.mk (BitVec.ofNat 32 (m / 2 ^ (32 * i))) (BitVec.ofNat 4 r)
  [w 0 (par % 16), w 1 (par / 16), w 2 0, w 3 0, Word.zero, Word.zero, Word.zero, Word.zero]

/-- R26: a packet a node accepts: no reserved class or node, an assigned type, at most 16 flits, parity, and the parity of
a mask flit. -/
def pktOk (p : Packet) : Bool :=
  p.hdr.cls.toNat < 8 && assigned p.hdr.cls.toNat p.hdr.mtype.toNat && p.hdr.src.toNat ≤ 8 && p.hdr.dst.toNat ≤ 8 &&
  p.hdr.nflits.toNat ≤ 16 && headerParityOk p.hdr &&
  (!((p.hdr.cls.toNat == 1 && p.hdr.mtype.toNat == 1) || (p.hdr.cls.toNat == 5 && p.hdr.mtype.toNat % 8 == 2)) ||
    maskFlitOk (p.flits.getD 0 []))

/-- Highest set bit of a word mask plus one, in flits (R28). -/
def flitsOf (aux : BitVec 32) : Nat := if aux = 0 then 0 else Nat.log2 aux.toNat / 8 + 1

/-- The data flits of a window: unnamed words are sent as zero with residue 0 (R28). -/
def windowFlits (aux : BitVec 32) (ws : List Word) : List (List Word) :=
  (List.range (flitsOf aux)).map (fun f =>
    (List.range 8).map (fun i => if bit aux (8 * f + i) then ws.getD (8 * f + i) Word.zero else Word.zero))

/-- Word `i` of the window data flits carry. -/
def windowWord (fs : List (List Word)) (i : Nat) : Word := (fs.getD (i / 8) []).getD (i % 8) Word.zero

/-- The 32 words of the window. -/
def windowWords (fs : List (List Word)) : List Word := (List.range 32).map (windowWord fs)

/-- Build a packet with its parity bit. -/
def mkPacket (cls mtype src dst txn paWord key : Nat) (lc5 : Bool) (aux : BitVec 32) (flits : List (List Word)) : Packet :=
  let h : MeshHdr :=
    { cls := BitVec.ofNat 4 cls, src := BitVec.ofNat 4 src, dst := BitVec.ofNat 4 dst,
      mtype := BitVec.ofNat 4 mtype, nflits := BitVec.ofNat 5 flits.length, txn := BitVec.ofNat 10 txn, hpar := 0,
      paWord := BitVec.ofNat 50 paWord, key := BitVec.ofNat 13 key, lc5 := if lc5 then 1 else 0, aux := aux }
  ⟨{ h with hpar := BitVec.ofNat 1 (parityN 128 (meshBits h)) }, flits⟩

/-- The address bits of a packet addressed to a core: the line, with the logical core in bits [4:0] and `lc5` (R28). -/
def coreField (line lcore : Nat) : Nat := line * 32 + lcore % 32

/-- The line a packet names. -/
def pktLine (p : Packet) : Nat := p.hdr.paWord.toNat / 32
/-- The logical core a packet toward a core names (R28). -/
def pktCore (p : Packet) : Nat := p.hdr.paWord.toNat % 32 + 32 * p.hdr.lc5.toNat
/-- Its class, as a number. -/
def pktCls (p : Packet) : Nat := p.hdr.cls.toNat

/-- Put a packet on the mesh; while injection is stopped it waits at its node (R32). -/
def State.send (s : State) (p : Packet) : State :=
  { s with
    flight := if s.twin.stopInject then s.flight else s.flight ++ [p]
    outbox := if s.twin.stopInject then s.outbox ++ [p] else s.outbox }

/-- R26: the node that finds a malformed packet drops it and reports a protocol error to Twin Star. -/
def State.protoError (s : State) (p : Packet) : State :=
  { s with twin := { s.twin with meshErrs := tmod s.twin.meshErrs p.hdr.dst.toNat 0 (· + 1) } }

/-- Act on a well-formed packet; drop any other (R26). -/
def State.onPacket (s : State) (p : Packet) (f : State → State) : State := if pktOk p then f s else s.protoError p

/-! ### Cinder records -/

/-- The fields of a record beside time and sequence number (R168). `part` names the partition of a record whose source alone
does not: `some p`, else by the owner of the die or, for the hub, every partition. -/
structure Rec where
  kind  : Nat
  idx   : Nat
  code  : Nat
  grade : Nat
  pc    : Nat
  mask  : BitVec 32
  pend  : BitVec 32
  grid  : Nat
  teamT : Nat
  group : Nat
  mode  : Nat
  depth : Nat
  cause : BitVec 32
  arg   : Nat
  part  : Option Nat
deriving DecidableEq, Repr

/-- Cause codes (R163). -/
def cResidue : Nat := 0x01
def cPoison : Nat := 0x02
def cXlate : Nat := 0x03
def cPerm : Nat := 0x04
def cIllegal : Nat := 0x05
def cPriv : Nat := 0x06
def cUniformity : Nat := 0x07
def cConverge : Nat := 0x08
def cWait : Nat := 0x09
def cPad : Nat := 0x0a
def cLookahead : Nat := 0x0b
def cWindow : Nat := 0x0c
def cLoop : Nat := 0x0d
def cSys : Nat := 0x0e
def cHcall : Nat := 0x0f
def cBreak : Nat := 0x10
def cCopy : Nat := 0x11
def cTrailer : Nat := 0x12
def cChannel : Nat := 0x13
def cBarrier : Nat := 0x14
def cStarve : Nat := 0x15

/-- The cause word of a record that no trap entry writes (R152, R168): cause, the mode it arose in, its detail. -/
def recCause (cause mode info : Nat) : BitVec 32 := BitVec.ofNat 32 (cause % 256 + mode % 4 * 2 ^ 8 + info % 256 * 2 ^ 16)

/-- A record of a device event. -/
def Rec.event (kind idx code grade arg : Nat) : Rec :=
  { kind, idx, code, grade, pc := 0, mask := 0, pend := 0, grid := 0, teamT := 0, group := 0, mode := 0, depth := 0,
    cause := 0, arg, part := none }

/-- A group's record without a trap: its core and team, the cause word of its mode (R168). -/
def Rec.ofGroup (core : Nat) (tm : Team) (grp mode : Nat) (cause arg : Nat) : Rec :=
  { Rec.event 0 core cause 0 arg with grid := tm.grid, teamT := tm.t, group := grp, mode := mode, cause := recCause cause mode 0 }

/-- The 64 bytes of a record as 16 words (R168). -/
def recWords (r : Rec) (gtime seq : Nat) : List Word :=
  wordsOf 2 gtime ++ wordsOf 1 seq ++ wordsOf 1 (r.kind % 16 * 4096 + r.idx % 4096 + r.code % 256 * 2 ^ 16 + r.grade % 256 * 2 ^ 24) ++
  wordsOf 2 r.pc ++ wordsOf 1 r.mask.toNat ++ wordsOf 1 r.pend.toNat ++ wordsOf 2 r.grid ++ wordsOf 2 r.teamT ++
  wordsOf 1 (r.group % 256 + r.mode % 256 * 2 ^ 8 + r.depth % 256 * 2 ^ 16) ++ wordsOf 1 r.cause.toNat ++ wordsOf 2 r.arg

/-- The mesh node of a record's source: the die of a core, dispatcher or base die, else the hub. -/
def recNode (r : Rec) : Nat :=
  match r.kind with
  | 0 => r.idx / 64 % 8
  | 1 => r.idx % 8
  | 2 => r.idx / 2 % 8
  | _ => Config.hubNode

/-- R167: a source counts the record and sends it to Twin Star in a RECORD packet (R28). -/
def State.record (s : State) (r : Rec) : State :=
  let key := r.kind * 4096 + r.idx
  let q := tget s.seqs key 0
  let ws := recWords r s.gtime q
  ({ s with seqs := tins s.seqs key (q + 1) } : State).send
    (mkPacket 7 2 (recNode r) Config.hubNode 0 (match r.part with | some p => 256 + p | none => 0) 0 false 0 [ws.take 8, ws.drop 8])

end Sys2Proof.Machine
end

