-- ==== Sys2Proof/Machine/Memory.lean ====
section
/-! DEFINITION. Device memory behind its base dies (R14–R25, R172, R174), the home slices (R181, R184–R189), and coherent
access as one step, which the hub's agents, the walkers, fetch and the hardware's own areas use. -/

namespace Sys2Proof.Machine

/-- One byte of device memory: an unlisted byte reads 0. -/
def State.byte (s : State) (a : Nat) : Byte := tget s.mem a 0

/-- Write one byte, keeping the canonical form. -/
def State.setByte (s : State) (a : Nat) (b : Byte) : State := { s with mem := tset s.mem a b 0 }

/-- The canonical form of memory: addresses strictly rising, no entry equal to what an unlisted address reads as. -/
def memWf (m : List Host.Cell) : Bool := twf m (0 : Byte)

/-- The line of a physical address. -/
def lineOf (pa : Nat) : Nat := pa / 128

/-- A cache tag: the line and its key id (R181). -/
def tagOf (key line : Nat) : Nat := key * 2 ^ 45 + line
/-- The line of a tag. -/
def tagLine (t : Nat) : Nat := t % 2 ^ 45
/-- The key of a tag. -/
def tagKey (t : Nat) : Nat := t / 2 ^ 45

/-- R172: the region of a physical address. -/
inductive Region where
  | die (d : Nat)
  | reserved
  | window
deriving DecidableEq, Repr

/-- R172. -/
def regionOf (pa : Nat) : Region :=
  let top := pa / 2 ^ 40 % 2 ^ 12
  if top = 0 then .die (pa / 2 ^ 37 % 8) else if top < 0x800 then .reserved else .window

/-- R172: the save arena's offsets. -/
def inArena (pa : Nat) : Bool := pa / 2 ^ 40 == 0 && pa % 2 ^ 37 ≥ 0x1fe0000000

/-- The home die of a line (R174). -/
def homeDie (line : Nat) : Nat := line / 2 ^ 30 % 8

/-- R174: the home slice of a line within its die. -/
def sliceOf (line : Nat) : Nat :=
  let o := line % 2 ^ 30 * 128
  field o 8 6 ^^^ field o 14 6 ^^^ field o 20 6 ^^^ field o 26 6 ^^^ field o 32 5

/-- The channel, one per slice (R174), as die × 64 + slice. -/
def chanOf (line : Nat) : Nat := homeDie line * 64 + sliceOf line

/-- The stack of a channel: 2d + (s div 32). -/
def stackOf (chan : Nat) : Nat := 2 * (chan / 64) + chan % 64 / 32

/-- Is the line's memory out of reach: a lost die (R32), or a channel Twin Star fenced (R17)? DESIGN CHOICE (log 28): accesses to the lines
of a fenced channel go as on a lost die, reads deliver poison and writes are lost. -/
def State.lineLost (s : State) (line : Nat) : Bool :=
  s.twin.lostDies.contains (homeDie line) || s.fenced.contains (chanOf line)

/-! ### The base die -/

/-- The word a codeword holds at word index `i`, as stored: data and nibble. -/
def State.rawWord (s : State) (line i : Nat) : Word :=
  let a := line * 128 + 4 * i
  let d := wordOfBytes [s.byte a, s.byte (a + 1), s.byte (a + 2), s.byte (a + 3)]
  ⟨d, (tfind s.nibs (line * 32 + i)).getD (resOf d)⟩

/-- Store a word with its nibble; a nibble equal to the residue is not listed. -/
def State.setRaw (s : State) (line i : Nat) (w : Word) : State :=
  let a := line * 128 + 4 * i
  let b := bytesOfWord w.data
  let s1 := (((s.setByte a (b.getD 0 0)).setByte (a + 1) (b.getD 1 0)).setByte (a + 2) (b.getD 2 0)).setByte (a + 3) (b.getD 3 0)
  { s1 with nibs := if w.res = resOf w.data then tdel s1.nibs (line * 32 + i) else tins s1.nibs (line * 32 + i) w.res }

/-- R22, write ingress: a poisoned word as it is, a mismatched one as poison. -/
def ingress (w : Word) : Word := if w.checks then (if w.isPoison then Word.poison else w) else Word.poison

/-- What the decoder of a base die makes of a line's codeword (R21): the status of R16, the symbols it corrects, and the words it finds when it
miscorrects. -/
structure Decoded where
  status : Nat
  nsym   : Nat
  wrong  : Option (List Word)
deriving DecidableEq, Repr

/-- R21: the decoder corrects any eight wrong symbols; beyond eight it reports UNCORRECTABLE or miscorrects (a free value, log 23). -/
def decodeSyms (line : Nat) (bad : List Nat) : Decoded :=
  if bad.length = 0 then ⟨0, 0, none⟩
  else if bad.length ≤ 8 then ⟨1, bad.length, none⟩
  else match Config.miscorrected line bad with
    | none => ⟨2, 0, none⟩
    | some r => ⟨1, 1 + r.1 % 8, some ((List.range 32).map (fun i => r.2.getD i Word.poison))⟩

/-- A read of the base die: words, status (R16) and symbols corrected. -/
structure BaseRead where
  words  : List Word
  status : Nat
  nsym   : Nat
deriving DecidableEq, Repr

/-- Thirty-two poisoned words. -/
def poisonLine : List Word := List.replicate 32 Word.poison

/-- Was the line last written under this key, and is the key's material still the same? A line never written reads under any
valid key. -/
def State.keyMatches (s : State) (key line : Nat) : Bool :=
  match tfind s.lineKeys line with
  | none => true
  | some k => k.key == key && tfind s.keys key == some k.gen

/-- R22, read check: every nibble is poison or the residue of its word. -/
def State.lineChecks (s : State) (line : Nat) : Bool := (List.range 32).all (fun i => (s.rawWord line i).checks)

/-- The symbols of a line's codeword that arrive wrong: those corrupted in it (R21) and those its channel's failed pins carry (R23). -/
def State.badSyms (s : State) (line : Nat) : List Nat := sortNat (tget s.syms line [] ++ (tget s.pins (chanOf line) []).flatMap pinSymbols)

/-- The codeword that was stored for a line, under the keys it was last written with (R21). -/
def State.storedCodeword (s : State) (line : Nat) : List (BitVec 8) :=
  codeword (Config.keyMaterial (((tfind s.lineKeys line).map (·.gen)).getD 0)) line ((List.range 32).map (s.rawWord line))

/-- What the base die's decoder makes of a line now. -/
def State.decoded (s : State) (line : Nat) : Decoded := decodeSyms line (s.badSyms line)

/-- The words a line decrypts to under a key, when they pass the read check (R22): none when it is UNCORRECTABLE or a word's nibble is neither
poison nor its residue. -/
def State.readChecked (s : State) (key line : Nat) : Option (List Word) :=
  let d := s.decoded line
  match d.wrong with
  | some ws => if ws.all Word.checks then some ws else none
  | none => if d.status ≠ 2 && s.keyMatches key line && s.lineChecks line then some ((List.range 32).map (s.rawWord line)) else none

/-- R20–R22: a read of a line under a key. -/
def State.baseRead (s : State) (key line : Nat) : BaseRead :=
  if tfind s.keys key = none then ⟨poisonLine, 3, 0⟩
  else
    let d := s.decoded line
    match s.readChecked key line with
    | some ws => ⟨ws.map (fun w => if w.isPoison then Word.poison else w), d.status, d.nsym⟩
    | none => ⟨poisonLine, d.status, d.nsym⟩

/-- A write of the base die: the state, `pmask`, status and symbols corrected (R16, R19, R22). -/
structure BaseWrite where
  st     : State
  pmask  : BitVec 32
  status : Nat
  nsym   : Nat

/-- Store every word of a line (R21, R22) under a key. -/
def State.storeLine (s : State) (key line : Nat) (ws : List Word) : State :=
  let s1 := (List.range 32).foldl (fun s i => s.setRaw line i (ingress (ws.getD i Word.zero))) s
  { s1 with
    syms := tdel s1.syms line
    lineKeys := tins s1.lineKeys line ⟨key, (tfind s1.keys key).getD 0⟩ }

/-- The words of `ws` that ingress stores as poison, within a mask. -/
def poisonMask (mask : BitVec 32) (ws : List Word) : BitVec 32 :=
  maskOf ((List.range 32).filter (fun i => bit mask i && (ingress (ws.getD i Word.zero)).isPoison))

/-- R19, R20: a masked write of a line; a full mask is a `WR`, an empty one has no effect. -/
def State.baseWrite (s : State) (key line : Nat) (mask : BitVec 32) (ws : List Word) : BaseWrite :=
  if tfind s.keys key = none then ⟨s, 0, 3, 0⟩
  else if mask = 0 then ⟨s, 0, 0, 0⟩
  else if mask = 0xffffffff then ⟨s.storeLine key line ws, poisonMask mask ws, 0, 0⟩
  else
    let old := s.baseRead key line
    let bad := (s.readChecked key line).isNone
    let merged := (List.range 32).map (fun i => if bit mask i then ws.getD i Word.zero else old.words.getD i Word.poison)
    ⟨s.storeLine key line merged, poisonMask mask ws ||| (if bad then ~~~ mask else 0), old.status, old.nsym⟩

/-! ### Stack ports -/

/-- Fields of a request header (R14). -/
def reqOp (h : BitVec 128) : Nat := h.toNat % 16
def reqTag (h : BitVec 128) : Nat := field h.toNat 4 3
def reqKey (h : BitVec 128) : Nat := field h.toNat 8 13
def reqLine (h : BitVec 128) : Nat := field h.toNat 24 45
def reqMask (h : BitVec 128) : BitVec 32 := BitVec.ofNat 32 (field h.toNat 72 32)

/-- R14, R20: no reserved bit is set, and `wmask` is zero but for `WRM`: DESIGN CHOICE (log 28), a `RD` or `WR` with another `wmask` is rejected like
one with a reserved bit set. -/
def reqOk (h : BitVec 128) : Bool :=
  field h.toNat 7 1 == 0 && field h.toNat 21 3 == 0 && field h.toNat 69 3 == 0 && field h.toNat 104 24 == 0 &&
  (1 ≤ reqOp h && reqOp h ≤ 3) && (reqOp h == 3 || reqMask h == 0)

/-- A request header (R14). -/
def reqHdr (op tag key line : Nat) (mask : BitVec 32) : BitVec 128 :=
  BitVec.ofNat 128 (op + tag * 2 ^ 4 + key * 2 ^ 8 + line * 2 ^ 24 + mask.toNat * 2 ^ 72)

/-- A reply header (R16). -/
def replyHdr (kind tag status nsym : Nat) (pmask : BitVec 32) : BitVec 128 :=
  BitVec.ofNat 128 (kind + tag * 2 ^ 4 + status * 2 ^ 8 + nsym * 2 ^ 10 + pmask.toNat * 2 ^ 16)

/-- Fields of a reply header (R16). -/
def replyTag (h : BitVec 128) : Nat := field h.toNat 4 3
def replyStatus (h : BitVec 128) : Nat := field h.toNat 8 2
def replyNsym (h : BitVec 128) : Nat := field h.toNat 10 4
def replyPmask (h : BitVec 128) : BitVec 32 := BitVec.ofNat 32 (field h.toNat 16 32)

/-- The mask of the poisoned words of a line. -/
def pmaskOf (ws : List Word) : BitVec 32 := maskOf ((List.range 32).filter (fun i => (ws.getD i Word.zero).isPoison))

/-- Book the decoder's outcome of a line: symbols corrected, UNCORRECTABLE codewords recorded (R24, R65, R169). -/
def State.bookDecode (s : State) (line status nsym : Nat) : State :=
  let st := stackOf (chanOf line)
  if status = 2 then
    ({ s with uncorr := tmod s.uncorr st 0 (· + 1) }).record (Rec.event 2 st 0x43 1 (line * 128))
  else if nsym > 0 then
    { s with
      symFixed := tmod s.symFixed st 0 (· + nsym)
      rowFixed := tmod s.rowFixed (chanOf line * 2 ^ 32 + Config.rowOfLine line) 0 (· + nsym) }
  else s

/-- R20: the base die reports a rejection to Twin Star. -/
def State.reject (s : State) (x : StackReq) : State :=
  { s with twin := { s.twin with rejects := tmod s.twin.rejects (stackOf (x.die * 64 + x.slice)) 0 (· + 1) } }

/-- R18–R22: a request takes effect at the base die; the reply it gives. A rejected request has no effect and is reported (R20): as a
read when its `op` says so, otherwise as a write acknowledgement without marks (DESIGN CHOICE, log 28: the manual names no reply for a
reserved `op`). -/
def State.stackServe (s : State) (x : StackReq) : State × StackReply :=
  let key := reqKey x.hdr
  let line := reqLine x.hdr
  let tag := reqTag x.hdr
  if !reqOk x.hdr || (tfind s.keys key).isNone then
    if reqOp x.hdr = 1 then (s.reject x, ⟨x.die, x.slice, replyHdr 1 tag 3 0 0xffffffff, poisonLine⟩)
    else (s.reject x, ⟨x.die, x.slice, replyHdr 2 tag 3 0 0, []⟩)
  else if reqOp x.hdr = 1 then
    let r := s.baseRead key line
    (s.bookDecode line r.status r.nsym, ⟨x.die, x.slice, replyHdr 1 tag r.status r.nsym (pmaskOf r.words), r.words⟩)
  else
    let mask := if reqOp x.hdr = 2 then 0xffffffff else reqMask x.hdr
    let w := s.baseWrite key line mask x.block
    (w.st.bookDecode line w.status w.nsym, ⟨x.die, x.slice, replyHdr 2 tag w.status w.nsym w.pmask, []⟩)

/-- Queue a stack-port reply's arrival. -/
def replyEvent (r : StackReply) : Instr := if r.hdr.toNat % 16 = 1 then .stackReadReply r else .stackWriteAck r

/-- The tags a channel's outstanding requests use: the key of a tag of a channel. -/
def portKey (chan tag : Nat) : Nat := chan * 8 + tag

/-- R17, R18: a request arrives at its base die. Under a tag whose earlier request has arrived and is not yet answered it is discarded
unanswered and reported, and Twin Star fences its channel; else it takes effect and its reply sets out. -/
def State.portArrival (s : State) (x : StackReq) : State :=
  let chan := x.die * 64 + x.slice
  let key := portKey chan (reqTag x.hdr)
  if s.portSeen.contains key then
    ({ s with fenced := insertNat chan (s.fenced.filter (· != chan)) }).record (Rec.event 2 (stackOf chan) 0x44 2 (reqLine x.hdr * 128))
  else
    let (s1, r) := s.stackServe x
    { s1 with
      portSeen := insertNat key s1.portSeen
      stackQ := s1.stackQ ++ [replyEvent r] }

/-- Is the queued port event a request to this line? -/
def isReqTo (line : Nat) : Instr → Bool
  | .stackRd x => reqLine x.hdr == line
  | .stackWr x => reqLine x.hdr == line
  | .stackWrm x => reqLine x.hdr == line
  | _ => false

/-- The request of a queued port event. -/
def portReq : Instr → Option StackReq
  | .stackRd x => some x
  | .stackWr x => some x
  | .stackWrm x => some x
  | _ => none

/-- Some of the requests that wait at the ports take effect now, in arrival order (R18). -/
def State.arriveSome (s : State) (p : Instr → Bool) : State :=
  (s.stackQ.filter p).foldl (fun s i => match portReq i with | some x => s.portArrival x | none => s)
    { s with stackQ := s.stackQ.filter (fun i => !p i) }

/-- The requests to a line that wait at its port take effect now. -/
def State.settle (s : State) (line : Nat) : State := s.arriveSome (isReqTo line)

/-- The lowest free request tag of a channel (R17). -/
def State.freeTag (s : State) (chan : Nat) : Option Nat := (List.range 8).find? (fun t => (tfind s.stackTags (portKey chan t)).isNone)

/-- A reply arrives at the requester: its tag is free (R17), and a write passed to the base die is performed: its writer is told (R383). -/
def State.freeTagOf (s : State) (x : StackReply) : State :=
  let key := portKey (x.die * 64 + x.slice) (replyTag x.hdr)
  (s.portAcks.filter (fun e => e.1 == key)).foldl (fun s e => s.send e.2)
    { s with
      stackTags := tdel s.stackTags key
      portSeen := s.portSeen.filter (· != key)
      portAcks := s.portAcks.filter (fun e => e.1 != key) }

/-- The reply of a queued port event. -/
def portReply : Instr → Option StackReply
  | .stackReadReply x => some x
  | .stackWriteAck x => some x
  | _ => none

/-- Is the queued port event a reply of this channel? -/
def isReplyOf (chan : Nat) (i : Instr) : Bool := match portReply i with | some x => x.die * 64 + x.slice == chan | none => false

/-- Is it a request to this channel? -/
def isReqOf (chan : Nat) (i : Instr) : Bool := match portReq i with | some x => x.die * 64 + x.slice == chan | none => false

/-- R17: while every tag of a channel is busy a request waits for a reply: the requests sent before it arrive and are answered, and the first
reply frees its tag. The line of a read so answered is held by no slice; who waits for it asks again. -/
def State.awaitTag (s : State) (chan : Nat) : State :=
  if (s.freeTag chan).isSome then s
  else
    let s1 := s.arriveSome (isReqOf chan)
    match s1.stackQ.find? (isReplyOf chan) with
    | none => s1
    | some i =>
      let s2 : State := { s1 with stackQ := s1.stackQ.eraseP (isReplyOf chan) }
      match portReply i with
      | some x => s2.freeTagOf x
      | none => s2

/-- The words a read reply delivers (R16). -/
def replyWords (x : StackReply) : List Word :=
  (List.range 32).map (fun i => if bit (replyPmask x.hdr) i then Word.poison else x.block.getD i Word.poison)

/-- A request to a line's channel under its lowest free tag and its reply in one step (R14, R16, R17), after those that wait there. -/
def State.portNow (s : State) (tag op : Nat) (mask : BitVec 32) (block : List Word) : State × StackReply :=
  let chan := chanOf (tagLine tag)
  let s1 := (s.settle (tagLine tag)).awaitTag chan
  s1.stackServe ⟨chan / 64, chan % 64, reqHdr op ((s1.freeTag chan).getD 0) (tagKey tag) (tagLine tag) mask, block⟩

/-- Put a request on a channel's port with the lowest free tag (R17): the state and the tag's key; none while all are busy. -/
def State.portAskAt (s : State) (tag op : Nat) (mask : BitVec 32) (block : List Word) : Option (State × Nat) :=
  let chan := chanOf (tagLine tag)
  (s.freeTag chan).map (fun t =>
    let x : StackReq := ⟨chan / 64, chan % 64, reqHdr op t (tagKey tag) (tagLine tag) mask, block⟩
    ({ s with
      stackTags := tins s.stackTags (portKey chan t) (tag * 2 + if op = 1 then 1 else 0)
      stackQ := s.stackQ ++ [if op = 1 then .stackRd x else if op = 2 then .stackWr x else .stackWrm x] }, portKey chan t))

/-- The same, for who needs no key. -/
def State.portAsk (s : State) (tag op : Nat) (mask : BitVec 32) (block : List Word) : Option State := (s.portAskAt tag op mask block).map (·.1)

/-- A line read through its port. -/
def State.portRead (s : State) (tag : Nat) : State × List Word := ((s.portNow tag 1 0 []).1, replyWords (s.portNow tag 1 0 []).2)
/-- The operation and the `wmask` that write words of a line: `WR` for a whole line, else `WRM` (R14). -/
def writeOp (mask : BitVec 32) : Nat := if mask = 0xffffffff then 2 else 3
def writeMask (mask : BitVec 32) : BitVec 32 := if mask = 0xffffffff then 0 else mask

/-- Words of a line written through its port. -/
def State.portWrite (s : State) (tag : Nat) (mask : BitVec 32) (ws : List Word) : State :=
  if mask = 0 then s else (s.portNow tag (writeOp mask) (writeMask mask) ws).1

/-! ### The home slice -/

/-- Key of an L1 word: tag, core (die × 64 + logical core), word index. -/
def l1Key (core tag idx : Nat) : Nat := (tag * 512 + core) * 32 + idx

/-- An ownership line with nothing in it. -/
def OwnLine.empty (since : Nat) : OwnLine := ⟨[], [], [], [], [], since⟩

/-- The lines of a slice, by channel. -/
def State.l2Of (s : State) (chan : Nat) : List (Nat × L2Line) := s.l2.filter (fun e => chanOf (tagLine e.1) == chan)

/-- A slice gives up a line: it leaves, written back when it is dirty (R181). -/
def State.l2Drop (s : State) (tag : Nat) : State :=
  match tfind s.l2 tag with
  | none => s
  | some l =>
    let s1 := { s with l2 := tdel s.l2 tag }
    if l.dirty && !s.lineLost (tagLine tag) then s1.portWrite tag 0xffffffff l.words else s1

/-- One of a list, by a free number. -/
def freePick (no : Nat) (l : List Nat) : Option Nat := l[Config.freeVictim no % max 1 l.length]?

/-- Room for a line in its slice, which holds 2 MiB (R11): a full slice gives up a line. -/
def State.l2Room (s : State) (tag : Nat) : State :=
  let held := s.l2Of (chanOf (tagLine tag))
  if (tfind s.l2 tag).isSome || held.length < Config.l2Lines then s
  else match freePick s.freeNo (held.map (·.1)) with
    | some v => ({ s with freeNo := s.freeNo + 1 }).l2Drop v
    | none => s

/-- A line enters its slice. -/
def State.l2Put (s : State) (tag : Nat) (ws : List Word) (dirty : Bool) : State :=
  let s1 := s.l2Room tag
  { s1 with l2 := tins s1.l2 tag ⟨ws, dirty⟩ }

/-- May a line stay in its slice: is its memory within reach and its key's slot valid (R17, R32, R190)? -/
def State.keeps (s : State) (tag : Nat) : Bool := !s.lineLost (tagLine tag) && (tfind s.keys (tagKey tag)).isSome

/-- A read reply arrives (R16, R17): the tag is free, and the slice holds the line that was asked for to be held. -/
def State.takeReply (s : State) (x : StackReply) : State :=
  let s1 := s.freeTagOf x
  match tfind s.stackTags (portKey (x.die * 64 + x.slice) (replyTag x.hdr)) with
  | none => s1
  | some v => if v % 2 = 1 && (tfind s1.l2 (v / 2)).isNone && s1.keeps (v / 2) && replyStatus x.hdr != 3 then s1.l2Put (v / 2) (replyWords x) false else s1

/-- Is the queued port event the read reply of this line's fill? -/
def State.isFillReply (s : State) (tag : Nat) : Instr → Bool
  | .stackReadReply x => tfind s.stackTags (portKey (x.die * 64 + x.slice) (replyTag x.hdr)) == some (tag * 2 + 1)
  | _ => false

/-- A fill of the line under way at its port is completed at once. -/
def State.finishFill (s : State) (tag : Nat) : State :=
  let s1 := s.settle (tagLine tag)
  match s1.stackQ.find? (s1.isFillReply tag) with
  | some (.stackReadReply x) => ({ s1 with stackQ := s1.stackQ.eraseP (s1.isFillReply tag) }).takeReply x
  | _ => s1

/-- The slice holds the line when it may: a line it lacks is read through its port (R181). -/
def State.fetchLine (s : State) (tag : Nat) : State :=
  let s1 := s.finishFill tag
  if (tfind s1.l2 tag).isSome || !s1.keeps tag then s1
  else (s1.portRead tag).1.l2Put tag (s1.portRead tag).2 false

/-- The line a home holds: the L2 line, else the base die's (R181). -/
def State.homeLine (s : State) (tag : Nat) : List Word :=
  if s.lineLost (tagLine tag) then poisonLine
  else match tfind s.l2 tag with
    | some l => l.words
    | none => (s.portRead tag).2

/-- Words written at a home, into the slice when it holds the line, else through the port: a fill of the line under way is completed first, so
that it brings no older words (R187, R191). Words entering a slice are checked (R224, storage ingress). -/
def State.homePut (s0 : State) (tag : Nat) (mask : BitVec 32) (ws : List Word) : State :=
  if s0.lineLost (tagLine tag) then s0
  else
    let s := s0.finishFill tag
    match tfind s.l2 tag with
    | some l =>
      let nw := (List.range 32).map (fun i => if bit mask i then ingress (ws.getD i Word.zero) else l.words.getD i Word.zero)
      { s with l2 := tins s.l2 tag ⟨nw, true⟩ }
    | none => s.portWrite tag mask ws

/-- The groups' stores that a grant performs: their outstanding counts fall by one (R184). -/
def performed (s : State) (rs : List GroupRef) : State :=
  rs.foldl (fun s r => s.modGroup r (fun g => { g with outst := g.outst - 1 })) s

/-- The masks and residues of a byte-masked merge: R183's (old AND NOT m) OR (data AND m). -/
def byteBits (mask : BitVec 4) : BitVec 32 :=
  BitVec.ofNat 32 ((List.range 4).foldl (fun a i => if mask.getLsbD i then a + 255 * 256 ^ i else a) 0)

/-- The residue of a difference of words whose residues are a and b. -/
def resMinus (a b : BitVec 4) : BitVec 4 := BitVec.ofNat 4 ((a.toNat + 15 - b.toNat % 15) % 15)
/-- The residue of a sum. -/
def resPlus (a b : BitVec 4) : BitVec 4 := BitVec.ofNat 4 ((a.toNat + b.toNat) % 15)

/-- R183: merge bytes of a data word into an old word under a 4-bit byte mask. The residue is predicted from those of the two words: each
loses what the bits it gives up are worth, and the parts, which share no bit, add. A word whose residue does not agree with the prediction
is stored as poison, and poison in either gives poison. -/
def mergeWord (mask : BitVec 4) (old data : Word) : Word :=
  if old.isPoison || data.isPoison then Word.poison
  else
    let m := byteBits mask
    let w := (old.data &&& ~~~ m) ||| (data.data &&& m)
    let r := resPlus (resMinus old.res (resOf (old.data &&& m))) (resMinus data.res (resOf (data.data &&& ~~~ m)))
    if resOf w = r then ⟨w, r⟩ else Word.poison

/-- Stores laid over a word, in their order: a store of the whole word replaces it, a narrower one merges into it (R183). A pending word as its
grant leaves it is its stores over the word the home holds (R184, R202). -/
def layStores (old : Word) (b : Stores) : Word := b.foldl (fun w e => if e.1 = 15 then e.2 else mergeWord e.1 w e.2) old

/-- A store after others of its word. -/
def addStore (b : Stores) (mask : BitVec 4) (w : Word) : Stores := if mask = 15 then [(mask, w)] else b ++ [(mask, w)]

/-- Later stores after earlier ones. -/
def joinStores (b c : Stores) : Stores := c.foldl (fun l e => addStore l e.1 e.2) b

/-- Do the stores write the whole word at once? -/
def wholeStore (b : Stores) : Bool := match b with | (m, _) :: _ => m == 15 | [] => false

/-- The tag of the line a packet names. -/
def pktTag (p : Packet) : Nat := tagOf p.hdr.key.toNat (pktLine p)

/-- A fill on its way to this core is not to be installed. -/
def Agent.stale (core : Nat) : Agent → Agent
  | .load r id i => .load r id (i && r.die * 64 + r.core != core)
  | .prefetch c i => .prefetch c (i && c != core)
  | .merge c i => .merge c (i && c != core)
  | a => a

/-- A fill on its way to any core is not to be installed. -/
def Agent.unkept : Agent → Agent
  | .load r id _ => .load r id false
  | .prefetch c _ => .prefetch c false
  | .merge c _ => .merge c false
  | a => a

/-- Fills of a line on their way to a core's L1 are not installed: the core's view of the line has moved on since they were asked for
(R204). -/
def State.staleFills (s : State) (core tag : Nat) : State :=
  { s with txns := s.txns.map (fun t => if pktTag t.pkt = tag then { t with agent := t.agent.stale core } else t) }

/-- Words of a core's registrations no longer await a grant: their stores have been performed or dropped. -/
def State.strike (s : State) (core tag : Nat) (m : BitVec 32) : State :=
  { s with txns := s.txns.map (fun t => if t.agent = .reg core ∧ pktTag t.pkt = tag then
      { t with pkt := { t.pkt with hdr := { t.pkt.hdr with aux := t.pkt.hdr.aux &&& ~~~ m } } } else t) }

/-- Does the home hold the core as the word's owner? -/
def State.ownedBy (s : State) (tag idx core : Nat) : Bool := ((tfind s.own tag).bind (fun o => tfind o.owners idx)) == some core

/-- R184: the words of a line the home has granted to a core and whose grant is still on its way are performed at once, together. -/
def State.performNow (s : State) (tag core : Nat) : State :=
  let line := s.homeLine tag
  (List.range 32).foldl (fun s i =>
    match tfind s.l1 (l1Key core tag i) with
    | some ⟨.pending ws _ b, _⟩ =>
      if s.ownedBy tag i core then
        (performed { s with l1 := tins s.l1 (l1Key core tag i) ⟨.owned true, layStores (line.getD i Word.poison) b⟩ } ws).strike core tag (1#32 <<< i)
      else s
    | _ => s) s

/-- Take a word back from its owner at once (R187): stores whose grant is under way are performed first (deferral), the word
is written to the home when dirty, and the owner's L1 word becomes invalid. -/
def State.takeBack (s : State) (tag idx core : Nat) : State :=
  let k := l1Key core tag idx
  let s0 : State := match tfind s.l1 k with | some ⟨.pending _ _ _, _⟩ => s.performNow tag core | _ => s
  match tfind s0.l1 k with
  | some ⟨.owned dirty, w⟩ =>
    let s1 : State := { s0 with l1 := tdel s0.l1 k }.staleFills core tag
    if dirty then s1.homePut tag (1#32 <<< idx) (List.replicate 32 w) else s1
  | _ => s0

/-- The ownership line of a tag. -/
def State.ownLine (s : State) (tag : Nat) : OwnLine := (tfind s.own tag).getD (OwnLine.empty s.ownNo)
/-- Update it; a line with nothing in it is not listed. -/
def State.modOwn (s : State) (tag : Nat) (f : OwnLine → OwnLine) : State :=
  let o := f (s.ownLine tag)
  { s with own := if o.owners.isEmpty && o.holders.isEmpty && o.asked.isEmpty && o.partials.isEmpty then tdel s.own tag else tins s.own tag o }

/-- Is it the same request: of one node, class and identifier (R28)? -/
def Txn.same (t x : Txn) : Bool := x.node == t.node && x.id == t.id && x.cls == t.cls

/-- Close a request. -/
def State.dropTxn (s : State) (t : Txn) : State := { s with txns := s.txns.filter (fun x => !t.same x) }

/-- Words of a request that are still awaited: clear those a reply delivers, and close the request when none is left. -/
def State.partTxn (s : State) (t : Txn) (got : BitVec 32) : State :=
  let left := t.pkt.hdr.aux &&& ~~~ got
  if left = 0 then s.dropTxn t
  else { s with txns := s.txns.map (fun x => if t.same x then
      { x with pkt := { x.pkt with hdr := { x.pkt.hdr with aux := left } } } else x) }

/-- A request whose words have been dealt with while it, or its answer, is on the way: what arrives then names none of them. -/
def State.voidTxn (s : State) (t : Txn) : State :=
  { s with txns := s.txns.map (fun x => if t.same x then { x with pkt := { x.pkt with hdr := { x.pkt.hdr with aux := 0 } } } else x) }

/-- Words of a line are no longer owned, and their revocations are complete (R187). -/
def State.released (s : State) (tag : Nat) (m : BitVec 32) : State :=
  let s1 := s.modOwn tag (fun o => { o with
    owners := o.owners.filter (fun x => !bit m x.1), revoking := o.revoking.filter (fun i => !bit m i) })
  let hits := s1.txns.filter (fun t => t.agent == .home && t.pkt.hdr.cls == 4 && t.pkt.hdr.mtype == 1 && pktTag t.pkt == tag)
  hits.foldl (fun s t => s.partTxn t m) s1

/-- The write-backs of a line that are under way. -/
def State.backsOf (s : State) (tag : Nat) : List Txn :=
  s.txns.filter (fun t => (match t.agent with | .writeback _ => true | _ => false) && pktTag t.pkt == tag)

/-- Those words of a write-back that the home still holds as its core's. -/
def State.backMask (s : State) (tag : Nat) (t : Txn) : BitVec 32 :=
  match t.agent with
  | .writeback c => t.pkt.hdr.aux &&& maskOf (((s.ownLine tag).owners.filter (fun x => x.2 == c)).map (·.1))
  | _ => 0

/-- A write-back under way reaches the home before an access of its line that is made there in one step (R185, R212). -/
def State.landBack (s : State) (tag : Nat) (t : Txn) : State :=
  let m := s.backMask tag t
  if m = 0 then s else ((s.voidTxn t).homePut tag m (windowWords t.pkt.flits)).released tag m

/-- So do all of a line. -/
def State.landBacks (s : State) (tag : Nat) : State := (s.backsOf tag).foldl (fun s t => s.landBack tag t) s

/-- Revoke every owned word of a mask of a line at once. -/
def State.revokeNow (s0 : State) (tag : Nat) (mask : BitVec 32) : State :=
  let s := s0.landBacks tag
  match tfind s.own tag with
  | none => s
  | some o => ((o.owners.filter (fun p => bit mask p.1)).foldl (fun s p => s.takeBack tag p.1 p.2) s).released tag mask

/-- R188: the add of a commutative kind, 1 f32, 2 i32, 3 bf16 pairs. The residue is predicted from those of the operands: a word that does
not match its own makes the result poison, as poison does (R189). -/
def commAdd (kind : Nat) (a b : Word) : Word :=
  if a.isPoison || b.isPoison || !a.checks || !b.checks then Word.poison
  else
    let x := a.data.toNat
    let y := b.data.toNat
    Word.ofData (BitVec.ofNat 32 (match kind with
      | 1 => addF f32 0 false false x y
      | 2 => x + y
      | _ => halves2 (addF bf16 0 false false) x y))

/-- R189: partial words of a line added into the home value, in the order given: words by index. -/
def State.addWords (s : State) (tag kind : Nat) (mine : List (Nat × Word)) : State :=
  let mask := maskOf (mine.map (·.1))
  let s1 := (s.fetchLine tag).revokeNow tag mask
  let line := s1.homeLine tag
  let nw := (List.range 32).map (fun i =>
    match mine.find? (fun p => p.1 == i) with
    | some p => commAdd kind (line.getD i Word.zero) p.2
    | none => line.getD i Word.zero)
  if mask = 0 then s1 else s1.homePut tag mask nw

/-- The partials of a core for a line. -/
def State.partialsOf (s : State) (tag core : Nat) : List (Nat × Word) :=
  (List.range 32).filterMap (fun i => (tfind s.partials (l1Key core tag i)).map (fun w => (i, w)))

/-- The partials of a core for a line are dropped there, and the core is no holder. -/
def State.dropPartials (s : State) (tag core : Nat) : State :=
  { s with
    partials := (List.range 32).foldl (fun t i => tdel t (l1Key core tag i)) s.partials
    own := match tfind s.own tag with
      | some o => tins s.own tag { o with holders := o.holders.filter (· != core) }
      | none => s.own }

/-- R189: the partials of a core for a line added into the home value, and dropped at the core. -/
def State.addPartials (s : State) (tag core kind : Nat) : State :=
  (s.dropPartials tag core).addWords tag kind (s.partialsOf tag core)

/-- The requests for partials of a line whose answers are on the way, with those answers (R189). -/
def State.partialsFlying (s : State) (tag : Nat) : List (Txn × Packet) :=
  (s.txns.filter (fun t => t.agent == .home && t.pkt.hdr.cls == 4 && t.pkt.hdr.mtype == 2 && pktTag t.pkt == tag)).filterMap (fun t =>
    ((s.flight ++ s.outbox).find? (fun p => p.hdr.cls == 2 && p.hdr.mtype == 4 && p.hdr.dst.toNat == t.node && p.hdr.txn.toNat == t.id)).map
      (fun p => (t, p)))

/-- The core a packet addresses, as die × 64 + logical number. -/
def addressee (p : Packet) : Nat := p.hdr.dst.toNat * 64 + pktCore p

/-- The words of an answer with partials, those its request still names. -/
def partialWords (t : Txn) (p : Packet) : List (Nat × Word) := (lanesOf (p.hdr.aux &&& t.pkt.hdr.aux)).map (fun i => (i, windowWord p.flits i))

/-- Partials that have left their cores and are not yet added, by core: those that have arrived and those on the way. -/
def State.partialsLoose (s : State) (tag : Nat) : List (Nat × List (Nat × Word)) :=
  (s.ownLine tag).partials ++ (s.partialsFlying tag).map (fun e => (addressee e.1.pkt, partialWords e.1 e.2))

/-- Those partials are dealt with: they have been added, or are dropped. -/
def State.voidPartials (s : State) (tag : Nat) : State :=
  ((s.partialsFlying tag).foldl (fun s e => s.voidTxn e.1) s).modOwn tag (fun o => { o with partials := o.partials.map (fun e => (e.1, [])) })

/-- R189, R215: all partials of a line combined at once, in ascending order of core: those still held, and those that have left their cores. -/
def State.combine (s : State) (tag : Nat) : State :=
  let loose := s.partialsLoose tag
  let cores := sortNat ((s.ownLine tag).holders ++ loose.map (·.1))
  if cores.isEmpty then s
  else cores.eraseDups.foldl (fun s c =>
    ((loose.filter (fun e => e.1 == c)).foldl (fun s e => s.addWords tag (tget s.commKinds tag 0) e.2) s).addPartials tag c (tget s.commKinds tag 0))
    (s.voidPartials tag)

/-- The current value of a word: its owner's L1 word (R185), else the home's. -/
def State.homeWord (s : State) (tag idx : Nat) : Word :=
  match (tfind s.own tag).bind (fun o => tfind o.owners idx) with
  | some c =>
    (match tfind s.l1 (l1Key c tag idx) with
     | some ⟨.owned _, w⟩ => w
     | _ => (s.homeLine tag).getD idx Word.poison)
  | none => (s.homeLine tag).getD idx Word.poison

/-- Prepare a line for an access at its home: waiting port requests and write-backs under way take effect, the slice holds the line, and
partials are combined (R185, R188, R189). -/
def State.prepare (s : State) (tag : Nat) : State := ((s.landBacks tag).fetchLine tag).combine tag

/-- A read of a line that no slice may hold goes through to the base die, which rejects and reports it (R20, R190). -/
def State.readThrough (s : State) (tag : Nat) : State :=
  if s.lineLost (tagLine tag) || (tfind s.l2 tag).isSome || (tfind s.keys (tagKey tag)).isSome then s else (s.portRead tag).1

/-- A read at the home of words of a line, as one step. -/
def State.homeRead (s : State) (tag : Nat) : State × List Word :=
  let s1 := (s.prepare tag).readThrough tag
  (s1, (List.range 32).map (s1.homeWord tag))

/-- A write at the home, as one step (R185): ownerships are revoked with write-back, then the write is applied. -/
def State.homeWrite (s : State) (tag : Nat) (mask : BitVec 32) (ws : List Word) : State :=
  ((s.prepare tag).revokeNow tag mask).homePut tag mask ws

/-- A word at a physical address under a key. -/
def State.readPa (s : State) (key pa : Nat) : State × Word :=
  let tag := tagOf key (lineOf pa)
  let s1 := (s.prepare tag).readThrough tag
  (s1, s1.homeWord tag (pa / 4 % 32))

/-- Prepare a line for an access that allocates nothing in its slice (R181, R383): as for any other access, but a line the slice lacks is
not read. -/
def State.preparePass (s : State) (tag : Nat) : State := ((s.landBacks tag).finishFill tag).combine tag

/-- Does the slice hold the line? -/
def State.inSlice (s : State) (tag : Nat) : Bool := (tfind s.l2 tag).isSome

/-- A read at the home; a streaming one that misses is read through the port and not kept (R181). -/
def State.homeReadAs (s : State) (stream : Bool) (tag : Nat) : State × List Word :=
  let s1 := s.preparePass tag
  if !stream || s1.inSlice tag || s1.lineLost (tagLine tag) then s.homeRead tag
  else ((s1.portRead tag).1, (List.range 32).map (s1.homeWord tag))

/-- A word at a physical address, so read. -/
def State.readPaAs (s : State) (stream : Bool) (key pa : Nat) : State × Word :=
  let tag := tagOf key (lineOf pa)
  let s1 := s.preparePass tag
  if !stream || s1.inSlice tag || s1.lineLost (tagLine tag) then s.readPa key pa
  else ((s1.portRead tag).1, s1.homeWord tag (pa / 4 % 32))

/-- `n` consecutive words at a physical address, so read line by line. -/
def State.readWordsAs (s : State) (stream : Bool) (key pa n : Nat) : State × List Word :=
  let (s1, ws) := (List.range ((pa / 4 % 32 + n + 31) / 32)).foldl (fun (r : State × List Word) i =>
    let (s1, ws) := r.1.homeReadAs stream (tagOf key (lineOf pa + i))
    (s1, r.2 ++ ws)) (s, [])
  (s1, (ws.drop (pa / 4 % 32)).take n)

/-- `n` consecutive words at a 4-byte aligned physical address within memory, under a key. -/
def State.readWords (s : State) (key pa : Nat) : Nat → State × List Word
  | 0 => (s, [])
  | n + 1 =>
    let (s1, w) := s.readPa key pa
    let (s2, ws) := s1.readWords key (pa + 4) n
    (s2, w :: ws)

/-- Write consecutive words at a physical address under a key. -/
def State.writeWords (s : State) (key pa : Nat) : List Word → State
  | [] => s
  | w :: r => (s.homeWrite (tagOf key (lineOf pa)) (1#32 <<< (pa / 4 % 32)) (List.replicate 32 w)).writeWords key (pa + 4) r

/-- Stores of one word performed at the home in one step (R183, R185): a word written whole needs no old value. -/
def State.homeStores (s : State) (tag idx : Nat) (b : Stores) : State :=
  if wholeStore b then s.homeWrite tag (1#32 <<< idx) (List.replicate 32 (layStores Word.zero b))
  else
    let s1 := (s.prepare tag).revokeNow tag (1#32 <<< idx)
    s1.homePut tag (1#32 <<< idx) (List.replicate 32 (layStores ((s1.homeLine tag).getD idx Word.poison) b))

/-- Stored words of a line as an engine's write of one piece: the mask, and the words laid over the old ones. -/
def pieceMask (ws : List (Nat × Stores)) : BitVec 32 := maskOf (ws.map (·.1))
def pieceWords (old : List Word) (ws : List (Nat × Stores)) : List Word :=
  (List.range 32).map (fun i => match ws.find? (fun e => e.1 == i) with
    | some e => layStores (old.getD i Word.poison) e.2
    | none => Word.zero)

/-- An engine's write of words of one line (R181, R192, R383). Ownership is revoked first. A line the slice holds is updated there, and dropped
under streaming. One it lacks is passed to the base die with `nt` or under streaming: one `WR` or `WRM`, after a read of the line when some
word is written in part; else the slice allocates it. -/
def State.homePiece (s : State) (stream nt : Bool) (tag : Nat) (ws : List (Nat × Stores)) : State :=
  let m := pieceMask ws
  let s1 := ((if stream || nt then s.preparePass tag else s.prepare tag)).revokeNow tag m
  let merges := !ws.all (fun e => wholeStore e.2)
  let s2 := if merges && !s1.inSlice tag && !s1.lineLost (tagLine tag) then (s1.portRead tag).1 else s1
  let s3 := s2.homePut tag m (pieceWords (if merges then s1.homeLine tag else []) ws)
  if stream then s3.l2Drop tag else s3

/-- Byte-masked words from a 4-byte aligned physical address on, each line's in one piece. -/
def State.writeRun (s : State) (stream : Bool) (key pa : Nat) (ws : List (BitVec 4 × Word)) : State :=
  let at_ := ws.zipIdx.map (fun e => ((pa / 4 + e.2), [e.1]))
  (List.range ((pa / 4 % 32 + ws.length + 31) / 32)).foldl (fun s i =>
    s.homePiece stream false (tagOf key (lineOf pa + i)) ((at_.filter (fun e => e.1 / 32 == lineOf pa + i)).map (fun e => (e.1 % 32, e.2)))) s

/-! ### A line leaves an L1 (R187, R189–R191) -/

/-- A word leaves a core's L1: a registered word is written back and its ownership ends; a store that awaits its grant is performed at the
home at once. -/
def State.commitWord (s : State) (core tag idx : Nat) : State :=
  let k := l1Key core tag idx
  match tfind s.l1 k with
  | some ⟨.pending ws _ b, _⟩ => performed (({ s with l1 := tdel s.l1 k }.strike core tag (1#32 <<< idx)).homeStores tag idx b) ws
  | some ⟨.owned _, _⟩ =>
    let s1 := s.takeBack tag idx core
    (match tfind s1.own tag with
     | some o => { s1 with own := tins s1.own tag { o with owners := o.owners.filter (fun p => p.1 != idx), revoking := o.revoking.filter (· != idx) } }
     | none => s1)
  | some ⟨.clean _, _⟩ => { s with l1 := tdel s.l1 k }
  | none => s

/-- The sub-word stores of a core that await the words of a line are performed at the home at once. -/
def State.commitMerges (s : State) (core tag : Nat) : State :=
  let mine := s.merges.filter (fun m => m.core == core && m.tag == tag)
  mine.foldl (fun s m => performed (s.homeStores tag m.idx m.bytes) [m.grp])
    { s with merges := s.merges.filter (fun m => !(m.core == core && m.tag == tag)) }

/-- A line leaves a core's L1: its partials are flushed first. -/
def State.flushLine (s : State) (core tag : Nat) : State :=
  let s1 := if (s.partialsOf tag core).isEmpty then s else s.addPartials tag core (tget s.commKinds tag 0)
  ((List.range 32).foldl (fun s i => s.commitWord core tag i) (s1.commitMerges core tag)).staleFills core tag

/-- The lines a core's L1 holds words or partials of, or awaits words of. -/
def State.linesIn (s : State) (core : Nat) : List Nat :=
  sortNat (((s.l1.map (·.1) ++ s.partials.map (·.1)).filter (fun k => k / 32 % 512 == core)).map (fun k => k / 32 / 512) ++
    (s.merges.filter (fun m => m.core == core)).map (·.tag))

/-- Room for a line in an L1, which holds 256 KiB (R11): a full one gives up a line. -/
def State.l1Room (s : State) (core tag : Nat) : State :=
  let held := s.linesIn core
  if held.contains tag || held.length < Config.l1Lines then s
  else match freePick s.freeNo held with
    | some v => ({ s with freeNo := s.freeNo + 1 }).flushLine core v
    | none => s

/-- R191: a core's L1 is emptied. -/
def State.flushCore (s : State) (core : Nat) : State := (s.linesIn core).foldl (fun s tag => s.flushLine core tag) s

end Sys2Proof.Machine
end

