-- ==== Sys2Proof/Machine/Atomics.lean ====
section
/-! DEFINITION. Atomics at the home (R314–R316), and the writes of a core's groups that are under way performed in one step (R204). -/

namespace Sys2Proof.Machine

/-- Word `i` of a list. -/
def nth (ws : List Word) (i : Nat) : Word := ws.getD i Word.zero
/-- Its data bits. -/
def dat (ws : List Word) (i : Nat) : BitVec 32 := (nth ws i).data
/-- The 64-bit value of words `i`, `i+1`. -/
def dat64 (ws : List Word) (i : Nat) : BitVec 64 := dat ws (i + 1) ++ dat ws i
/-- R275: is `va` the one `min` or `max` selects, on values of width `w`? On equality `va` is. -/
def picksA (isMax sgn : Bool) {w : Nat} (a b : BitVec w) : Bool :=
  if isMax then (if sgn then b.sle a else b.ule a) else (if sgn then a.sle b else a.ule b)

/-- The new value of an atomic from the old words and the operands; every word it computes with is healthy. -/
def aopValue (aop : Nat) (m x : List Word) : List Word :=
  let a := nth m 0
  let b := nth x 0
  let pick := fun (isMax sgn : Bool) => [if picksA isMax sgn a.data b.data then a else b]
  match aop with
  | 0 => [Word.ofData (a.data + b.data)]
  | 1 => wordsOf 2 (dat64 m 0 + dat64 x 0).toNat
  | 2 => [commAdd 1 a b]
  | 3 => [commAdd 3 a b]
  | 4 => pick false true
  | 5 => pick false false
  | 6 => pick true true
  | 7 => pick true false
  | 8 => [Word.ofData (a.data &&& b.data)]
  | 9 => [Word.ofData (a.data ||| b.data)]
  | 10 => [Word.ofData (a.data ^^^ b.data)]
  | 11 => [b]
  | 12 => x.take 2
  | 13 => [if a.data = b.data then nth x 1 else a]
  | 14 => if dat64 m 0 = dat64 x 0 then (x.drop 2).take 2 else m
  | _ => m

/-- How many operand words an operation has (R314). -/
def aopOperands (aop : Nat) : Nat := if aop = 14 then 4 else if aop = 1 ∨ aop = 12 ∨ aop = 13 then 2 else 1

/-- R315: the old value delivered and the new value stored. An exchange stores its operands as they are. Every other operation predicts the
residue of the new value from those of its operands (R2): a word that is poison, or does not match its own residue, makes the new value poison. -/
def aopStep (aop : Nat) (m x : List Word) : List Word × List Word :=
  let m1 := m.map (fun w => if w.checks then w else Word.poison)
  let poison := m1.map (fun _ => Word.poison)
  let old := if m1.any Word.isPoison then poison else m1
  (old, if aop = 11 ∨ aop = 12 then x.take m.length
    else if m1.any Word.isPoison || (x.take (aopOperands aop)).any (fun w => w.isPoison || !w.checks) then poison
    else aopValue aop m1 x)

/-- R316: the check of a reduction's new words, which is computed once more when it fails: after a second failure they are poison, and a
record names the line for the group. -/
def State.redChecked (s : State) (r : GroupRef) (line : Nat) (ws : List Word) : State × List Word :=
  if s.redFaults < 2 ∨ ws.all Word.isPoison = true then ({ s with redFaults := 0 }, ws)
  else
    let s1 : State := { s with redFaults := s.redFaults - 2 }
    let mode := ((s.groupAt r).map (fun g => g.priv.mode.toNat)).getD 0
    (s1.record (Rec.ofGroup (r.die * 64 + r.core) ((s.teamAt (grpKey r)).getD Team.initial) r.grp mode cResidue (line * 128)),
      ws.map (fun _ => Word.poison))

/-! ### Writes under way -/

/-- The data words a write carries, and the mask flit's byte mask (full words without one). -/
def pktWords (p : Packet) (masked : Bool) : List Word := windowWords (if masked then p.flits.drop 1 else p.flits)

/-- The words a write leaves in a line: those of a masked write merge (R183) but for the words it covers whole. -/
def writtenWords (p : Packet) (masked : Bool) (whole : BitVec 32) (old : List Word) : List Word :=
  let ws := pktWords p masked
  let bm := maskOfFlit (p.flits.getD 0 [])
  (List.range 32).map (fun i =>
    if masked && !bit whole i then mergeWord (BitVec.ofNat 4 (bm / 16 ^ i)) (old.getD i Word.poison) (ws.getD i Word.zero) else ws.getD i Word.zero)

/-- R185, R216: a discarded word leaves every L1 with no write-back, and write-backs and partials under way are dropped with it. A store whose
grant is under way stands before the discard. -/
def State.dropOwned (s0 : State) (tag : Nat) : State :=
  let s := ((s0.backsOf tag).foldl State.voidTxn s0).voidPartials tag
  let o := s.ownLine tag
  let s1 := o.owners.foldl (fun s (i, c) =>
    let gone := fun (s : State) => ({ s with l1 := tdel s.l1 (l1Key c tag i) } : State).staleFills c tag
    match tfind s.l1 (l1Key c tag i) with
    | some ⟨.pending ws _ _, _⟩ => (performed (gone s) ws).strike c tag (1#32 <<< i)
    | some ⟨.owned _, _⟩ => gone s
    | _ => s) s
  let s2 := (sortNat o.holders).foldl (fun s c => s.dropPartials tag c) s1
  s2.modOwn tag (fun o => { o with owners := [], revoking := [] })

/-- A line discarded at its home in one step: zeros (R216). -/
def State.discardNow (s : State) (tag : Nat) : State :=
  let s1 := (s.finishFill tag).dropOwned tag
  if s1.keeps tag then s1.l2Put tag (List.replicate 32 Word.zero) true else s1

/-- A write, reduction or discard under way is performed at its home at once; its packet is then only acknowledged. -/
def State.landTxn (s : State) (t : Txn) : State :=
  let tag := pktTag t.pkt
  let m := t.pkt.hdr.aux
  let s0 := s.voidTxn t
  let s1 := (s0.prepare tag).revokeNow tag m
  let s2 :=
    match t.pkt.hdr.mtype.toNat with
    | 0 => s1.homePut tag m (pktWords t.pkt false)
    | 1 => s1.homePut tag m (writtenWords t.pkt true t.whole (s1.homeLine tag))
    | 3 =>
      let idx := lanesOf m
      let f := t.pkt.flits.getD 0 []
      let new := (aopStep ((nth f 4).data.toNat % 16) (idx.map (fun i => (s1.homeLine tag).getD i Word.poison)) (f.take 4)).2
      let (s2, ws) := match t.agent with | .store r => s1.redChecked r (tagLine tag) new | _ => (s1, new)
      s2.homePut tag m ((List.range 32).map (fun i => nth ws (indexOf idx i)))
    | 4 => s0.discardNow tag
    | _ => s1
  if t.stream then s2.l2Drop tag else s2

/-- The writes of a core's groups to a line that are under way are performed at once, oldest first: an access of the hardware's own to the line
comes after them (R204). -/
def State.landStores (s : State) (core tag : Nat) : State :=
  (s.txns.filter (fun t => (match t.agent with | .store r => r.die != kilnDie && r.die * 64 + r.core == core | _ => false) &&
    t.pkt.hdr.cls == 1 && t.pkt.hdr.aux != 0 && pktTag t.pkt == tag)).foldl State.landTxn s

end Sys2Proof.Machine
end

