-- ==== Sys2Proof/Machine/Translate.lean ====
section
/-! DEFINITION. Address spaces (R175–R180, R387), the partition entry's fields (R59), window entries (R52, R173). -/

namespace Sys2Proof.Machine

/-! ### Partition entries -/

/-- The state kept for a partition. -/
def State.part (s : State) (p : Nat) : Part := tget s.parts p Part.initial
/-- Update a partition. -/
def State.modPart (s : State) (p : Nat) (f : Part → Part) : State := { s with parts := tmod s.parts p Part.initial f }

/-- Fields of a partition-table entry (R59). -/
def peState (e : BitVec 64) : Nat := field e.toNat 0 2
def peHealth (e : BitVec 64) : Nat := field e.toNat 4 2
def peKCount (e : BitVec 64) : Nat := field e.toNat 6 14
def peKBase (e : BitVec 64) : Nat := field e.toNat 20 13
def peQBase (e : BitVec 64) : Nat := field e.toNat 33 10
def peQCount (e : BitVec 64) : Nat := field e.toNat 43 11
def peValid (e : BitVec 64) : Bool := field e.toNat 54 1 == 1
def peStrict (e : BitVec 64) : Bool := field e.toNat 55 1 == 1
def peDies (e : BitVec 64) : Nat := field e.toNat 56 8

/-- Does the partition hold the die? -/
def State.ownsDie (s : State) (p d : Nat) : Bool := (peDies (s.part p).entry).testBit d
/-- The dies of a partition, ascending. -/
def State.diesOf (s : State) (p : Nat) : List Nat := (List.range 8).filter (s.ownsDie p)
/-- The valid partition that owns a die. -/
def State.ownerOf (s : State) (d : Nat) : Option Nat :=
  (List.range 8).find? (fun p => peValid (s.part p).entry && s.ownsDie p d)
/-- Key id `k_base` of a partition. -/
def State.kBase (s : State) (p : Nat) : Nat := peKBase (s.part p).entry
/-- R178: is the key id within the partition's range? -/
def State.keyInPart (s : State) (p k : Nat) : Bool :=
  let e := (s.part p).entry
  peKBase e ≤ k && k < peKBase e + peKCount e
/-- R77: the table die, the partition's lowest-numbered die. -/
def State.tableDie (s : State) (p : Nat) : Nat := ((s.diesOf p).head?).getD 0
/-- The partition that owns a queue. -/
def State.partOfQueue (s : State) (q : Nat) : Option Nat :=
  (List.range 8).find? (fun p => let e := (s.part p).entry; peValid e && peQBase e ≤ q && q < peQBase e + peQCount e)

/-! ### Contexts and walks -/

/-- Access kinds (R178). -/
inductive Kind where
  | load
  | store
  | atomic
  | fetch
deriving DecidableEq, Repr

/-- Does the kind write? -/
def Kind.writes : Kind → Bool
  | .store => true
  | .atomic => true
  | _ => false

/-- A failed translation: XLATE_FAULT with the level, or PERM_FAULT with the failed bits (R163, R178). -/
structure XFault where
  perm   : Bool
  info   : Nat
  stage2 : Bool
deriving DecidableEq, Repr

/-- A physical address the hardware may reach in a partition's memory: a die of the partition, outside the save arena. -/
def State.usablePa (s : State) (p pa : Nat) : Bool :=
  match regionOf pa with
  | .die d => s.ownsDie p d && !inArena pa
  | _ => false

/-- R176: read a translation context. A context that cannot be read or has reserved bits set is not `ok`. -/
def State.readCtx (s : State) (p : Nat) (asid : Addr) : State × Ctx :=
  let pa := asid.toNat
  if pa % 64 ≠ 0 ∨ pa ≥ 2 ^ 52 ∨ !s.usablePa p pa then (s, ⟨0, 0, 0, 0, 0, false⟩)
  else
    let (s1, ws) := s.readWords (s.kBase p) pa 16
    let v := fun i => ofWords (ws.drop (2 * i)) % 2 ^ 64
    let ok := ws.all (fun w => !w.isPoison && w.checks) && v 0 % 2 ^ 13 == 0 && v 4 % 128 == 0 &&
      v 5 == 0 && v 6 == 0 && v 7 == 0
    (s1, ⟨BitVec.ofNat 64 (v 0), BitVec.ofNat 64 (v 1), BitVec.ofNat 64 (v 2), BitVec.ofNat 64 (v 3), BitVec.ofNat 64 (v 4), ok⟩)

/-- A context read from memory, and kept when it can be used (R176). -/
def State.freshCtx (s : State) (p : Nat) (asid : Addr) : State × Ctx :=
  let (s1, c) := s.readCtx p asid
  ({ s1 with ctxs := if c.ok then tins s1.ctxs asid.toNat c else tdel s1.ctxs asid.toNat }, c)

/-- The cached copy of a context in a partition's reach, read when there is none (R176). -/
def State.context (s : State) (p : Nat) (asid : Addr) : State × Ctx :=
  match (if s.usablePa p asid.toNat then tfind s.ctxs asid.toNat else none) with
  | some c => (s, c)
  | none => s.freshCtx p asid

/-- Fields of a page-table entry (R177). -/
def pteBit (e i : Nat) : Bool := e.testBit i
def pteKey (e : Nat) : Nat := field e 51 13
def ptePpn (e : Nat) : Nat := field e 12 39
def pteComm (e : Nat) : Nat := field e 10 2
def pteCache (e : Nat) : Nat := field e 8 2

/-- A leaf found by a walk: its entry, level, entry's physical address and key. -/
structure Leaf where
  e     : Nat
  level : Nat
  pa    : Nat
  key   : Nat
deriving DecidableEq, Repr

/-- The page size of a leaf's level in bits. -/
def Leaf.size (l : Leaf) : Nat := 13 + 10 * l.level
/-- The address a leaf maps `a` to. -/
def Leaf.map (l : Leaf) (a : Nat) : Nat := ptePpn l.e * 2 ^ 13 + a % 2 ^ l.size

/-- R167, R178: the source of a walk's record: the core whose access is translated; of a walk made for the hub the Kiln engine that runs, or
else Twin Star (DESIGN CHOICE, log 20). It goes to the log of the walk's partition. -/
def State.walkRec (s : State) (p : Nat) (core : Option Nat) (line : Nat) : Rec :=
  let kind := match core, s.focus with | some _, _ => 0 | none, .kiln _ => 6 | none, _ => 5
  let idx := match core, s.focus with | some c, _ => c | none, .kiln k => k | none, _ => 0
  { Rec.event kind idx cResidue 0 (line * 128) with cause := recCause cResidue 0 0, part := some p }

/-- R178: an entry that reads as poison, or whose residue check fails, counts as malformed; a failed check is recorded. -/
def State.readPte (s : State) (p : Nat) (core : Option Nat) (key pa : Nat) : State × Option Nat :=
  let (s1, ws) := s.readWords key pa 2
  if ws.any (fun w => !w.checks) then (s1.record (s1.walkRec p core (lineOf pa)), none)
  else if ws.any Word.isPoison then (s1, none)
  else (s1, some (ofWords ws))

/-- R177: a leaf malformed at its level. `sys` marks a leaf whose address is a system physical address. -/
def State.leafBad (s : State) (p : Nat) (stage2 sys : Bool) (n e : Nat) : Bool :=
  let base := ptePpn e * 2 ^ 13
  (pteBit e 2 && !pteBit e 1) || n == 3 || ptePpn e % 2 ^ (10 * n) != 0 || pteCache e == 3 ||
  (stage2 && pteComm e != 0) ||
  (sys && (match regionOf base with
    | .window => false
    | .reserved => true
    | .die d => !s.ownsDie p d || base % 2 ^ 37 + 2 ^ (13 + 10 * n) > 0x1fe0000000))

/-- One stage of a walk from level `n − 1` down. `xl` gives the system address and key of a table entry, or a stage-2 fault.
Faults carry the level (R178). -/
def State.walkFrom (s : State) (p : Nat) (core : Option Nat) (stage2 sys : Bool) (a : Nat)
    (xl : State → Nat → State × Except XFault (Nat × Nat)) : Nat → Nat → State × Except XFault Leaf
  | 0, _ => (s, .error ⟨false, 0, stage2⟩)
  | n + 1, table =>
    match xl s (table + 8 * (a / 2 ^ (13 + 10 * n) % 1024)) with
    | (s1, .error f) => (s1, .error f)
    | (s1, .ok (pa, key)) =>
      match s1.readPte p core key pa with
      | (s2, none) => (s2, .error ⟨false, n, stage2⟩)
      | (s2, some e) =>
        if !pteBit e 0 then (s2, .error ⟨false, n, stage2⟩)
        else if !pteBit e 1 && !pteBit e 2 && !pteBit e 3 then
          if e != 1 + ptePpn e * 2 ^ 12 || n == 0 || (sys && !s2.usablePa p (ptePpn e * 2 ^ 13)) then
            (s2, .error ⟨false, n, stage2⟩)
          else s2.walkFrom p core stage2 sys a xl n (ptePpn e * 2 ^ 13)
        else if s2.leafBad p stage2 sys n e then (s2, .error ⟨false, n, stage2⟩)
        else (s2, .ok ⟨e, n, pa, key⟩)

/-- A table entry's address as a system address under `k_base` (R387). -/
def plainXl (kb : Nat) (s : State) (pa : Nat) : State × Except XFault (Nat × Nat) := (s, .ok (pa, kb))

/-- The stage-2 walk of a guest physical address (R178). -/
def State.walk2 (s : State) (p : Nat) (core : Option Nat) (c : Ctx) (ga : Nat) : State × Except XFault Leaf :=
  s.walkFrom p core true true ga (plainXl (s.kBase p)) 4 c.s2.toNat

/-- R179: set bits of a leaf by an atomic OR at its home; a word that fails its check leaves poison (R2). -/
def State.orPte (s : State) (leaf : Option (Nat × Nat × Bool)) (bits : Nat) : State :=
  match leaf with
  | none => s
  | some (pa, key, _) =>
    let (s1, w) := s.readPa key pa
    if w.isPoison then s1
    else if !w.checks then s1.writeWords key pa [Word.poison]
    else if w.data ||| BitVec.ofNat 32 bits = w.data then s1
    else s1.writeWords key pa [Word.ofData (w.data ||| BitVec.ofNat 32 bits)]

/-- A stage-1 table entry's guest address through stage 2: the address and the `key_id` of the stage-2 leaf (R387), which must
lie in the partition's range (R178); reading the entry is an access through that leaf (R179). -/
def guestXl (p : Nat) (core : Option Nat) (c : Ctx) (s : State) (ga : Nat) : State × Except XFault (Nat × Nat) :=
  match s.walk2 p core c ga with
  | (s1, .error f) => (s1, .error f)
  | (s1, .ok l) =>
    if !s1.keyInPart p (pteKey l.e) then (s1, .error ⟨true, 0, true⟩)
    else (s1.orPte (some (l.pa, l.key, false)) 64, .ok (l.map ga, pteKey l.e))

/-- Permission bits r, w, x, u of an entry. -/
def permBits (e : Nat) : BitVec 4 :=
  BitVec.ofNat 4 ((if pteBit e 1 then 1 else 0) + (if pteBit e 2 then 2 else 0) + (if pteBit e 3 then 4 else 0) +
    (if pteBit e 4 then 8 else 0))

/-- R178: the walk of both stages, as the translation a TLB would hold. -/
def State.walk (s : State) (p : Nat) (core : Option Nat) (asid : Addr) (c : Ctx) (va : Nat) : State × Except XFault TlbEntry :=
  let s2on := c.s2 != 0
  match s.walkFrom p core false (!s2on) va (if s2on then guestXl p core c else plainXl (s.kBase p)) 4 c.s1.toNat with
  | (s1, .error f) => (s1, .error f)
  | (s1, .ok l1) =>
    let mk := fun (pa key size size2 : Nat) (perm2 : BitVec 4) (cache2 : Nat) (leaf2 : Option (Nat × Nat × Bool)) =>
      ({ ctx := asid, s2root := c.s2, va := va / 2 ^ size, size := size, pa := pa / 2 ^ size * 2 ^ size, key := key,
         perm1 := permBits l1.e, perm2 := perm2, comm := BitVec.ofNat 2 (pteComm l1.e),
         cache := BitVec.ofNat 2 (max (pteCache l1.e) cache2), glob := pteBit l1.e 5,
         leaf1 := some (l1.pa, l1.key, pteBit l1.e 7), leaf2 := leaf2, ipa := l1.map va, size2 := size2 } : TlbEntry)
    if s2on then
      match s1.walk2 p core c (l1.map va) with
      | (s2, .error f) => (s2, .error f)
      | (s2, .ok l2) =>
        if !s2.keyInPart p (pteKey l2.e) then (s2, .error ⟨true, 0, true⟩)
        else (s2, .ok (mk (l2.map (l1.map va)) (pteKey l2.e) (min l1.size l2.size) l2.size (permBits l2.e ||| 8) (pteCache l2.e)
          (some (l2.pa, l2.key, pteBit l2.e 7))))
    else if !s1.keyInPart p (pteKey l1.e) then (s1, .error ⟨true, 0, false⟩)
    else (s1, .ok (mk (l1.map va) (pteKey l1.e) l1.size 0 15 0 none))

/-- The needed permission bits of an access (R178). -/
def needBits : Kind → BitVec 4
  | .load => 1
  | .store => 2
  | .atomic => 3
  | .fetch => 4

/-- R150, R178: the failed bits of an access in a mode (0 U, 1 S, 2 H as S), and whether a stage-2 bit failed. -/
def permFail (e : TlbEntry) (k : Kind) (mode : Nat) : BitVec 4 × Bool :=
  let need := needBits k
  let miss := need &&& ~~~ (e.perm1 &&& e.perm2)
  let u := e.perm1.getLsbD 3
  let ubad := if k = .fetch then u != (mode == 0) else mode == 0 && !u
  (miss ||| (if ubad then 8 else 0), (need &&& ~~~ e.perm2) != 0)

/-- R179: accessed at the first access, dirty at the first store or atomic. -/
def State.touch (s : State) (e : TlbEntry) (k : Kind) : State :=
  let b := 64 + (if k.writes then 128 else 0)
  (s.orPte e.leaf1 b).orPte e.leaf2 b

/-- Does a TLB entry translate this address of this context (R180)? -/
def tlbHit (asid : Addr) (c : Ctx) (va : Nat) (e : TlbEntry) : Bool :=
  (e.ctx == asid || (e.glob && e.s2root == c.s2)) && e.va == va / 2 ^ e.size

/-- Has the entry's dirty bit been set already? -/
def tlbDirty (e : TlbEntry) : Bool :=
  (match e.leaf1 with | some (_, _, d) => d | none => true) && (match e.leaf2 with | some (_, _, d) => d | none => true)

/-- The entry after a store through it. -/
def tlbSetDirty (e : TlbEntry) : TlbEntry :=
  { e with
    leaf1 := e.leaf1.map (fun (a, b, _) => (a, b, true))
    leaf2 := e.leaf2.map (fun (a, b, _) => (a, b, true)) }

/-- Keep the first `n` entries of 8 GiB pages. -/
def capBig : Nat → List TlbEntry → List TlbEntry
  | _, [] => []
  | n, e :: l => if e.size = 33 then (match n with | 0 => capBig 0 l | k + 1 => e :: capBig k l) else e :: capBig n l

/-- Keep at most `n` entries, the newest first; at most 256 8 GiB pages (R180). -/
def tlbInsert (n : Nat) (e : TlbEntry) (l : List TlbEntry) : List TlbEntry :=
  (capBig 256 (e :: l.filter (fun x => !(x.ctx == e.ctx && x.va == e.va && x.size == e.size)))).take n

/-- A successful translation. -/
structure XOk where
  pa    : Nat
  key   : Nat
  comm  : Nat
  cache : Nat
  user  : Bool
deriving DecidableEq, Repr

/-- Words at a translated address, read and written as its page's `cache` says (R181). -/
def State.readAt (s : State) (x : XOk) (n : Nat) : State × List Word := s.readWordsAs (x.cache == 2) x.key x.pa n
def State.writeAt (s : State) (x : XOk) (ws : List Word) : State := s.writeRun (x.cache == 2) x.key x.pa (ws.map (fun w => (15, w)))
/-- One word so read. -/
def State.wordAt (s : State) (x : XOk) : State × Word := s.readPaAs (x.cache == 2) x.key x.pa

/-- Translation and permission check (R178); what faults leaves nothing in a TLB (R180). `core` is the core whose TLBs serve, or `none` for an agent of the hub, which
walks; `mode` 0 is U. -/
def State.translate (s : State) (core : Option Nat) (p : Nat) (asid : Addr) (va : Nat) (k : Kind) (mode : Nat) :
    State × Except XFault XOk :=
  if va ≥ 2 ^ 53 then (s, .error ⟨false, 3, false⟩)
  else
    let (s0, c) := s.context p asid
    if !c.ok then (s0, .error ⟨false, 3, false⟩)
    else
      let l1 := match core with | some n => tget s0.tlbs n [] | none => []
      let ll := match core with | some n => tget s0.tlbs (512 + n / 64) [] | none => []
      let r := match (l1 ++ ll).find? (tlbHit asid c va) with
        | some e => (s0, Except.ok e)
        | none => s0.walk p core asid c va
      match r with
      | (s1, .error f) => (s1, .error f)
      | (s1, .ok e) =>
        let (bad, st2) := permFail e k mode
        if bad ≠ 0 then (s1, .error ⟨true, bad.toNat, st2⟩)
        else
          let s2 := match core with
            | none => s1
            | some n =>
              let e2 := if k.writes then tlbSetDirty e else e
              { s1 with
                tlbs := tins (tins s1.tlbs n (tlbInsert 128 e2 l1)) (512 + n / 64) (tlbInsert 8192 e2 ll) }
          let hit := (l1 ++ ll).any (tlbHit asid c va)
          let s3 := if hit && (!k.writes || tlbDirty e) then s2 else s2.touch e k
          (s3, .ok ⟨e.pa + va % 2 ^ e.size, e.key, e.comm.toNat, e.cache.toNat, e.perm1.getLsbD 3⟩)

/-! ### Windows -/

/-- Fields of a window entry (R52). -/
def winValid (w : BitVec 256) : Bool := field w.toNat 0 1 == 1
def winPeer (w : BitVec 256) : Bool := field w.toNat 1 1 == 1
def winWr (w : BitVec 256) : Bool := field w.toNat 2 1 == 1
def winAtom (w : BitVec 256) : Bool := field w.toNat 3 1 == 1
def winBase (w : BitVec 256) : Nat := field w.toNat 39 38 * 2 ^ 14
def winSize (w : BitVec 256) : Nat := field w.toNat 77 51 * 2 ^ 13
def winPath (w : BitVec 256) : Nat := field w.toNat 132 12
def winDev (w : BitVec 256) : BitVec 16 := BitVec.ofNat 16 (field w.toNat 144 16)
def winHandle (w : BitVec 256) : BitVec 32 := BitVec.ofNat 32 (field w.toNat 160 32)
def winRemote (w : BitVec 256) : Nat := field w.toNat 192 64

/-- The valid window entry of a partition that covers an address of window space (R173). -/
def State.window (s : State) (p pa : Nat) : Option (BitVec 256) :=
  ((s.part p).windows.find? (fun w => winValid w.2 && winBase w.2 ≤ pa && pa < winBase w.2 + winSize w.2)).map (·.2)

/-- A peer table entry (R57). -/
def peerDevOf (b : List Byte) : Nat := ofBytes (b.take 2)
def peerValid (b : List Byte) : Bool := (b.getD 2 0).getLsbD 0

/-- The valid peer entry of a device in a partition's table. -/
def State.peerEntry (s : State) (p : Nat) (dev : BitVec 16) : Option (List Byte) :=
  ((s.part p).peers.find? (fun e => peerValid e.2 && peerDevOf e.2 == dev.toNat)).map (·.2)

/-- R53, R57: may a window access of this kind and size in bytes be made? -/
def State.windowAllows (s : State) (p pa : Nat) (k : Kind) (bytes : Nat) : Bool :=
  match s.window p pa with
  | none => false
  | some w =>
    (match k with
     | .load => true
     | .store => winWr w
     | .atomic => winAtom w && bytes == 8
     | .fetch => false) && (!winPeer w || (s.peerEntry p (winDev w)).isSome)

end Sys2Proof.Machine
end

