-- ==== Sys2Proof/Machine/Ops.lean ====
section
/-! DEFINITION. The named operations every meaning uses: registers and predicates of the issuing group, its active lanes, the
spill region, completion of an instruction, and taking a trap. -/

namespace Sys2Proof.Machine

/-! ### Registers of the issuing group -/

/-- P, the group's physical registers (R127). -/
def State.ringSize (s : State) : Nat := 8 * s.tm.regs8
/-- The home group of the lane in slot `l` (R122, R139). -/
def homeOf (g : Group) (l : Nat) : Nat := g.homes.getD l g.idx
/-- The physical register of `v`n (R127). -/
def State.physOf (s : State) (n : Nat) : Nat := (s.g.wb.toNat + n) % s.ringSize
/-- Key of a physical register word. -/
def physKey (home phys lane : Nat) : Nat := (home * 256 + phys) * 32 + lane
/-- Key of `v`n of lane `l`. -/
def State.vKey (s : State) (n l : Nat) : Nat := physKey (homeOf s.g l) (s.physOf n) l
/-- Lane l's register `v`n (R267). -/
def State.v (s : State) (n l : Nat) : Word := tget s.tm.vregs (s.vKey n l) Word.zero
/-- The bounds of the resident range of a frame top (R129). -/
def resLo (p top : Nat) : Nat := top - p
def resHi (p top : Nat) : Nat := max top p

/-- Write lane l's register `v`n as a window base given names it (R127): a logical index that has left the resident range at the top since is
discarded (R129). -/
def State.setVAt (s : State) (wb : BitVec 16) (n l : Nat) (w : Word) : State :=
  if wb.toNat + n ≥ resHi s.ringSize (s.g.wb.toNat + s.g.frame) then s
  else { s with tm := { s.tm with vregs := tset s.tm.vregs (physKey (homeOf s.g l) ((wb.toNat + n) % s.ringSize) l) w Word.zero } }

/-- Does a move to a new frame top spill a register whose result is still pending (R129, R132)? -/
def State.spillsPending (s : State) (top' : Nat) : Bool :=
  s.g.pset.any (fun e => match e.dest with
    | .lane v _ => decide (e.wb.toNat + v < resLo s.ringSize top')
    | _ => false)
/-- Write lane l's register `v`n. -/
def State.setV (s : State) (n l : Nat) (w : Word) : State :=
  { s with tm := { s.tm with vregs := tset s.tm.vregs (s.vKey n l) w Word.zero } }

/-- The dual-rail pair of a boolean (R222): bit 1 is t, bit 0 is f. -/
def railOf (b : Bool) : BitVec 2 := if b then 2 else 1
/-- The value of a healthy pair; `none` for 00 and 11. -/
def railVal (r : BitVec 2) : Option Bool := if r = 2 then some true else if r = 1 then some false else none

/-- Key of predicate `p`n of lane `l`. -/
def State.pKey (s : State) (n l : Nat) : Nat := (homeOf s.g l * 8 + n) * 32 + l
/-- The pair of `p`n in lane l; `p7` is the constant true (R222). -/
def State.pPair (s : State) (n l : Nat) : BitVec 2 := if n = 7 then 2 else tget s.tm.preds (s.pKey n l) 1
/-- Predicate `p`n of lane l, `none` when its pair is faulty. -/
def State.p (s : State) (n l : Nat) : Option Bool := railVal (s.pPair n l)
/-- Write `p`n of lane l. -/
def State.setP (s : State) (n l : Nat) (b : Bool) : State :=
  { s with tm := { s.tm with preds := tset s.tm.preds (s.pKey n l) (railOf b) 1 } }

/-- Uniform register `s`n (R267). -/
def State.s (s : State) (n : Nat) : Word := tget s.g.sregs n Word.zero
/-- Write `s`n. -/
def State.setS (s : State) (n : Nat) (w : Word) : State := { s with g := { s.g with sregs := tset s.g.sregs n w Word.zero } }
/-- Uniform predicate `q`n, `none` when its pair is faulty; `q7` is true. -/
def State.q (s : State) (n : Nat) : Option Bool := if n = 7 then some true else railVal (tget s.g.upreds n 1)
/-- Write `q`n. -/
def State.setQ (s : State) (n : Nat) (b : Bool) : State :=
  { s with g := { s.g with upreds := tset s.g.upreds n (railOf b) 1 } }

/-- The 64-bit value of a pair of words, low word first. -/
def pairVal (lo hi : Word) : BitVec 64 := hi.data ++ lo.data

/-- The core of the issuing group, die × 64 + logical core. -/
def State.core (s : State) : Nat := s.tm.die * 64 + s.tm.core

/-- The mode of the issuing group (R149); a Kiln engine runs in U mode (R88). -/
def State.mode (s : State) : Nat := s.g.priv.mode.toNat

/-- Does a Kiln engine issue? -/
def State.onKiln (s : State) : Bool := match s.focus with | .kiln _ => true | _ => false

/-- The reference of the issuing group. -/
def State.self (s : State) : GroupRef :=
  match s.focus with
  | .kiln k => ⟨kilnDie, k, 0, 0⟩
  | _ => ⟨s.tm.die, s.tm.core, s.tm.slot, s.g.idx⟩

/-- The mesh node the issuing agent's requests leave from (R28). -/
def State.node (s : State) : Nat := if s.onKiln then Config.hubNode else s.tm.die

/-! ### Active lanes -/

/-- Lanes that may act under a guard, and lanes whose guard pair is faulty (R222, R251). -/
structure Act where
  lanes  : BitVec 32
  faulty : BitVec 32
deriving DecidableEq, Repr

/-- EXEC restricted to the replay mask when there is one (R159). -/
def State.baseLanes (s : State) : BitVec 32 := if s.g.pend = 0 then s.g.exec else s.g.exec &&& s.g.pend

/-- The active lanes of a V-set instruction with guard `pg` (R7, R251). -/
def State.act (s : State) (pg : Nat) : Act :=
  if pg = 7 then ⟨s.baseLanes, 0⟩
  else
    ⟨maskOf ((List.range 32).filter (fun l => bit s.baseLanes l && s.p pg l == some true)),
     maskOf ((List.range 32).filter (fun l => bit s.baseLanes l && s.p pg l == none))⟩

/-! ### The spill region (R130) -/

/-- M, the team-stack area's size. -/
def spillM (kib : Nat) : Nat := min (1024 * kib / 4) 65536 / 512 * 512
/-- S_g, the share of a group. -/
def spillShare (kib ngrp : Nat) : Nat := (1024 * kib - spillM kib) / (128 * ngrp) * 128
/-- The size of a share's link area. -/
def linkLen (kib ngrp : Nat) : Nat := spillShare kib ngrp / 128 * 16
/-- `link_base` of group slot i of a team. -/
def linkBase (t : Team) (i : Nat) : Nat := t.spillBase.toNat + spillM t.spillKib + i * spillShare t.spillKib t.ngrp
/-- `link_end`. -/
def linkEnd (t : Team) (i : Nat) : Nat := linkBase t i + linkLen t.spillKib t.ngrp
/-- B, the register backing area of a home group. -/
def backBase (t : Team) (i : Nat) : Nat := linkEnd t i
/-- L_max. -/
def backMax (t : Team) : Nat := (spillShare t.spillKib t.ngrp - linkLen t.spillKib t.ngrp) / 128

/-- A hardware access to the spill region: S permission, not in window space (R155). -/
def State.areaXl (s : State) (va : Nat) (k : Kind) : State × Option XOk :=
  match s.translate (some s.core) s.tm.part s.tm.asid va k 1 with
  | (s1, .ok x) => (s1, if regionOf x.pa = .window then none else some x)
  | (s1, .error _) => (s1, none)

/-- Translate `n` consecutive words; `none` if one fails. -/
def State.areaXls (s : State) (va : Nat) (k : Kind) : Nat → State × Option (List XOk)
  | 0 => (s, some [])
  | n + 1 =>
    match s.areaXl va k with
    | (s1, none) => (s1, none)
    | (s1, some x) =>
      match s1.areaXls (va + 4) k n with
      | (s2, none) => (s2, none)
      | (s2, some xs) => (s2, some (x :: xs))

/-- The core's own stores to a line that are under way come before an access of the hardware's own to it (R204); a word of a commutative page
leaves L1, so that it is combined at its home (R188). -/
def State.coreReady (s : State) (core : Nat) (x : XOk) : State :=
  let tag := tagOf x.key (lineOf x.pa)
  let s1 := (s.landStores core tag).commitMerges core tag
  if x.comm = 0 then s1 else s1.commitWord core tag (x.pa / 4 % 32)

/-- A word as the core sees it: its own pending or owned L1 word, else the home's (R204). -/
def State.coreWord (s : State) (core : Nat) (x : XOk) : State × Word :=
  let tag := tagOf x.key (lineOf x.pa)
  let s0 := s.coreReady core x
  match tfind s0.l1 (l1Key core tag (x.pa / 4 % 32)) with
  | some ⟨.owned _, w⟩ => (s0, w)
  | some ⟨.pending .., w⟩ => (s0, w)
  | _ => s0.wordAt x

/-- Does an earlier load of the group still await a word? -/
def State.loadAwaits (s : State) (tag idx : Nat) : Bool :=
  s.g.pset.any (fun e => e.lanes.any (fun l => l.words.any (fun n => n.tag == tag && n.idx == idx && n.got.isNone)))

/-- A load of the issuing group that still awaits a word takes it before the group writes it (R204). -/
def State.loadsFirst (s : State) (core : Nat) (x : XOk) : State :=
  let tag := tagOf x.key (lineOf x.pa)
  let idx := x.pa / 4 % 32
  if !s.loadAwaits tag idx then s
  else
    let (s1, w) := s.coreWord core x
    { s1 with g := { s1.g with pset := s1.g.pset.map (fun e => { e with lanes := e.lanes.map (fun l => { l with words := l.words.map (fun n =>
      if n.tag = tag ∧ n.idx = idx ∧ n.got.isNone then { n with got := some w } else n) }) }) } }

/-- Write a word as the core's: into its own pending or owned L1 word, else performed at the home; a clean copy goes. -/
def State.coreStore (s : State) (core : Nat) (x : XOk) (w : Word) : State :=
  let tag := tagOf x.key (lineOf x.pa)
  let k := l1Key core tag (x.pa / 4 % 32)
  let s0 := (s.loadsFirst core x).coreReady core x
  match tfind s0.l1 k with
  | some ⟨.owned _, _⟩ => { s0 with l1 := tins s0.l1 k ⟨.owned true, w⟩ }
  | some ⟨.pending ws d _, _⟩ => { s0 with l1 := tins s0.l1 k ⟨.pending ws d [(15, w)], w⟩ }
  | _ => ({ s0 with l1 := tdel s0.l1 k }.staleFills core tag).writeAt x [w]

/-- Read words at translated addresses. -/
def State.coreWords (s : State) (core : Nat) : List XOk → State × List Word
  | [] => (s, [])
  | x :: r =>
    let (s1, w) := s.coreWord core x
    let (s2, ws) := s1.coreWords core r
    (s2, w :: ws)

/-- Write words at translated addresses. -/
def State.coreStores (s : State) (core : Nat) : List XOk → List Word → State
  | x :: r, w :: ws => (s.coreStore core x w).coreStores core r ws
  | _, _ => s

/-- Read `n` words of the spill region. -/
def State.areaRead (s : State) (va n : Nat) : State × Option (List Word) :=
  match s.areaXls va .load n with
  | (s1, none) => (s1, none)
  | (s1, some xs) => let (s2, ws) := s1.coreWords s1.core xs; (s2, some ws)

/-- Write words to the spill region; nothing is written when one address fails. -/
def State.areaWrite (s : State) (va : Nat) (ws : List Word) : State × Bool :=
  match s.areaXls va .store ws.length with
  | (s1, none) => (s1, false)
  | (s1, some xs) => (s1.coreStores s1.core xs ws, true)

/-! ### Aborts and halts -/

/-- The root of a grid's tree; `n` bounds the depth. -/
def State.rootOf (s : State) : Nat → Nat → Nat
  | 0, g => g
  | n + 1, g =>
    match (tfind s.grids g).bind (·.parent) with
    | some (p, _) => s.rootOf n p
    | none => g

/-- The root of a grid. -/
def State.root (s : State) (g : Nat) : Nat := s.rootOf 64 g

/-- R71: the grade of an abort record, from the highest grade of the records that caused the abort. -/
def abortGrade (g : Grid) (cause : Nat) : Nat := max (if g.winWrite then 3 else 1) cause

/-- Raise the grade a grid's records reach (R71). -/
def State.gradeGrid (s : State) (g grade : Nat) : State :=
  { s with grids := s.grids.map (fun p => if p.1 = g then (p.1, { p.2 with grade := max p.2.grade grade }) else p) }

/-- R164: an abort of every grid of the command's tree. Teams stop at their next issue slot, saved and unplaced teams are
discarded; one record per grid, graded by the records that caused the abort. -/
def State.abortTree (s : State) (g cause : Nat) : State :=
  let root := s.root g
  let mine := fun (n : Nat) => s.root n == root
  let hit := s.grids.filter (fun p => mine p.1 && !p.2.aborted && !p.2.complete)
  let s1 : State := { s with
    grids := s.grids.map (fun p => if mine p.1 && !p.2.complete then
      (p.1, { p.2 with
        aborted := true
        grade := max p.2.grade (abortGrade p.2 cause)
        shares := p.2.shares.map (fun sh => { sh with unplaced := [], saved := [] }) }) else p)
    teams := s.teams.map (fun p => if mine p.2.grid then (p.1, { p.2 with aborted := true }) else p)
    tm := if mine s.tm.grid then { s.tm with aborted := true } else s.tm
    savedRecs := s.savedRecs.filter (fun r => !mine r.grid) }
  hit.foldl (fun s p => s.record { Rec.event 5 0 0x41 (abortGrade p.2 cause + 32) 0 with grid := p.1, part := some p.2.part }) s1

/-- R164: the issuing group halts: a GROUP_HALT record of grade G1, and its grid is aborted; `grade` is that of the trap behind it. -/
def State.halt (s : State) (grade : Nat) : State :=
  let s1 := { s with g := { s.g with halted := true } }
  let s2 := s1.record { Rec.event 0 s.core 0x40 (1 + 16) 0 with
    grid := s.tm.grid, teamT := s.tm.t, group := s.g.idx, mode := s.mode, depth := s.g.priv.kdepth.toNat }
  (s2.gradeGrid s.tm.grid 1).abortTree s.tm.grid grade

/-- Update a command of a queue. -/
def State.modCmd (s : State) (q uid : Nat) (f : Cmd → Cmd) : State :=
  { s with queues := tmod s.queues q Queue.initial (fun x => { x with cmds := replaceFirst (fun c => c.uid == uid) f x.cmds }) }

/-- R89: a Kiln run ends its command with a code; nothing is emitted in this run. -/
def State.kilnStop (s : State) (code : Nat) (signal : Bool) : State :=
  match s.focus with
  | .kiln k =>
    (match tfind s.kilns k with
     | none => s
     | some e =>
       { s with kilns := tdel s.kilns k }.modCmd e.queue e.cmd (fun c =>
         { c with inKiln := false, started := true, complete := true, rerun := false, code := if code = 0 then c.code else code, signal := signal }))
  | _ => s

/-! ### Traps -/

/-- A trap with no faulting access. -/
def Trap.plain (cause info : Nat) (k p : BitVec 32) : Trap :=
  { cause, info, retAt := true, k, p, fva := 0, write := false, fetch := false, stage2 := false }

/-- The cause word (R152). -/
def causeWord (t : Trap) (mode : Nat) (rpt : Bool) : BitVec 32 :=
  BitVec.ofNat 32 (t.cause % 256 + mode % 4 * 2 ^ 8 + (if t.retAt then 2 ^ 10 else 0) + (if t.stage2 then 2 ^ 11 else 0) +
    (if t.write then 2 ^ 12 else 0) + (if t.fetch then 2 ^ 13 else 0) + (if rpt then 2 ^ 14 else 0) + t.info % 256 * 2 ^ 16)

/-- R71, R163: the grade of a cause. -/
def causeGrade (c : Nat) : Nat := if c = cPoison then 1 else if c = cBarrier then 2 else 0

/-- R153: does the trap go to H? -/
def trapToH (t : Trap) : Bool := t.cause == cHcall || ((t.cause == cXlate || t.cause == cPerm) && t.stage2)

/-- R165: RESIDUE_CHECK on a replay of the same instruction for a subset of the same lanes. -/
def isRepeat (g : Group) (t : Trap) : Bool :=
  t.cause == cResidue && g.pend != 0 &&
  (match g.lastRc with | some (pc, ls) => pc == g.pc && (t.k &&& ~~~ ls) == 0 | none => false)

/-- The loop-stack entries as R118 lays them out: four of 24 bytes, innermost first. -/
def loopWords (ls : List Loop) : List Word :=
  (List.range 4).flatMap (fun i =>
    match ls[i]? with
    | some l => wordsOf 2 l.start.toNat ++ wordsOf 2 l.stop.toNat ++ wordsOf 2 l.count.toNat
    | none => wordsOf 6 0)

/-- Stack depth of the issuing group: of the team stack in compact mode, of its sub-stack in group mode (R156). -/
def State.stackDepth (s : State) : Nat := if s.tm.mode.getLsbD 2 then s.tm.stack.length else s.g.subs.length

/-- The 64 words of a trap frame (R156). -/
def frameWords (s : State) (t : Trap) : List Word :=
  let g := s.g
  let h := trapToH t
  let pr := g.priv
  let outer := if h then wordsOf 4 0 else wordsOf 2 pr.kpc.toNat ++ wordsOf 1 pr.kcause.toNat ++ wordsOf 1 pr.kmask.toNat
  outer ++ wordsOf 2 pr.kframe.toNat ++ wordsOf 1 g.exec.toNat ++ wordsOf 1 g.bind.toNat ++
  wordsOf 1 (if t.retAt then t.p.toNat else 0) ++ wordsOf 1 g.fmt.toNat ++
  wordsOf 1 (g.wb.toNat + g.frame % 256 * 2 ^ 16 + g.loops.length * 2 ^ 24) ++ wordsOf 1 s.stackDepth ++
  wordsOf 2 t.fva ++ wordsOf 2 (if h then 2 else 1) ++ loopWords g.loops ++ wordsOf 24 0

/-- The record a trap writes (R167, R168), of a Kiln run at grade G0 (R89): `flags` holds the delivered, halted and aborted bits of the grade byte. -/
def trapRec (s : State) (t : Trap) (ret : Addr) (cw : BitVec 32) (flags : Nat) : Rec :=
  match s.focus with
  | .kiln k =>
    { Rec.event 6 k t.cause 0 t.fva with
      pc := ret.toNat, mask := t.k, pend := if t.retAt then t.p else 0, cause := cw,
      part := (tfind s.kilns k).bind (fun e => s.partOfQueue e.queue) }
  | _ =>
    { kind := 0, idx := s.core, code := t.cause, grade := causeGrade t.cause + flags, pc := ret.toNat, mask := t.k, pend := if t.retAt then t.p else 0,
      grid := s.tm.grid, teamT := s.tm.t, group := s.g.idx, mode := s.mode, depth := s.g.priv.kdepth.toNat, cause := cw,
      arg := t.fva, part := none }

/-- The record of a result that failed its check and took no trap (R135, R315): of the issuing group, or of a Kiln run (R89). -/
def State.resultRec (s : State) (pc : Addr) (mask : BitVec 32) (arg : Nat) : Rec :=
  let r := { Rec.event 0 s.core cResidue 0 arg with pc := pc.toNat, mask := mask, mode := s.mode, cause := recCause cResidue s.mode 0 }
  match s.focus with
  | .kiln k => { r with kind := 6, idx := k, part := (tfind s.kilns k).map (·.part) }
  | _ => { r with grid := s.tm.grid, teamT := s.tm.t, group := s.g.idx, depth := s.g.priv.kdepth.toNat }

/-- R155: may a frame be pushed at f = `%spill`? Its page translates with S permission, has U clear, and is no window. -/
def State.frameXls (s : State) (f : Nat) (k : Kind) : State × Option (List XOk) :=
  match s.areaXls f k 64 with
  | (s1, none) => (s1, none)
  | (s1, some xs) => (s1, if xs.any (·.user) then none else some xs)

/-- The vector base of a trap (R153); its low two bits read as zero (R6, R250). -/
def vecBase (pr : Priv) (h : Bool) : Addr := (if h then pr.htab else pr.ktab) &&& ~~~3#64

/-- R157: the state after a delivered trap, its frame already stored. -/
def State.enterTrap (s : State) (t : Trap) (ret : Addr) (cw : BitVec 32) : State :=
  let g := s.g
  let pr := g.priv
  let h := trapToH t
  let f := g.spill
  let pr1 := { pr with kframe := f - BitVec.ofNat 64 (linkBase s.tm g.idx), kdepth := pr.kdepth + 1, mode := if h then 2 else 1 }
  let pr2 := if h then { pr1 with hpc := ret, hcause := cw, hmask := t.k } else { pr1 with kpc := ret, kcause := cw, kmask := t.k }
  { s with g := { g with
      spill := f + 256
      priv := pr2
      exec := t.k
      sbase := s.stackDepth :: g.sbase
      pend := 0
      loops := []
      wait := .none
      drain := !g.pset.isEmpty
      pset := g.pset
      latch := none
      checked := []
      step := false
      lastRc := none
      pc := vecBase pr h + BitVec.ofNat 64 (64 * t.cause) } }

/-- Taking a trap (R153–R157, R164). On a Kiln engine the command ends with PROLOGUE_FAULT (R89). A trap raised in H mode, a
fifth frame, or a frame that cannot be pushed halts the group; a zero vector base aborts the grid. -/
def State.raise (s : State) (t : Trap) : State :=
  let g := s.g
  let ret := if t.retAt then g.pc else g.pc + 4
  let cw := causeWord t s.mode (isRepeat g t)
  if s.onKiln then (s.record (trapRec s t ret cw 0)).kilnStop 0x08 false
  else
    let s0 := { s with traps := if t.cause = cResidue then tmod s.traps s.tm.die 0 (· + 1) else s.traps }
    let s1 := s0.gradeGrid s.tm.grid (causeGrade t.cause)
    let base := vecBase g.priv (trapToH t)
    if s.mode = 2 ∨ g.priv.kdepth.toNat ≥ 4 then (s1.record (trapRec s t ret cw 0x30)).halt (causeGrade t.cause)
    else if base = 0 then
      (s1.record (trapRec s t ret cw 0x20)).abortTree s.tm.grid (causeGrade t.cause)
    else if g.spill = 0 ∨ g.spill.toNat + 256 > linkEnd s.tm g.idx then (s1.record (trapRec s t ret cw 0x30)).halt (causeGrade t.cause)
    else
      match s1.frameXls g.spill.toNat .store with
      | (s2, none) => (s2.record (trapRec s t ret cw 0x30)).halt (causeGrade t.cause)
      | (s2, some xs) =>
        ((s2.coreStores s.core xs (frameWords s t)).record (trapRec s t ret cw 8)).enterTrap t ret cw

/-- A trap of every active lane, which commits nothing: K = P = the lanes. -/
def State.raiseAll (s : State) (cause info : Nat) (lanes : BitVec 32) : State := s.raise (Trap.plain cause info lanes lanes)

/-- A trap that is taken once the pending set has emptied (R133). -/
def State.defer (s : State) (t : Trap) : State := { s with g := { s.g with due := some t, wait := .trap } }

/-- The trap that was due, once no result is pending (R133). -/
def State.takeDue (s : State) : State :=
  match s.g.due with
  | some t => if s.g.pset.isEmpty then ({ s with g := { s.g with due := none, wait := .none } }).raise t else s
  | none => s

/-- LOOKAHEAD for these lanes (R133). -/
def State.lookahead (s : State) (lanes : BitVec 32) : State := s.defer (Trap.plain cLookahead 0 lanes lanes)

/-- ILLEGAL_INSN for the active lanes (R163, R259). -/
def State.illegal (s : State) (lanes : BitVec 32) : State := s.raiseAll cIllegal 0 lanes

/-! ### Completion and control transfer -/

/-- One more instruction of the group has issued: each open window lets one fewer pass (R132). -/
def countWindows (ps : List Pend) : List Pend := ps.map (fun p => { p with left := p.left - 1 })

/-- The end of every completed instruction: the replay mask clears (R159), windows count, a requested BREAK is taken with
return "after" (R161); the pc already names the next instruction. -/
def State.finish (s : State) : State :=
  let g := s.g
  let s1 := { s with g := { g with pend := 0, lastRc := none, pset := countWindows g.pset, step := false, starve := 0, raised := none, wait := .none, count := g.count + 1 } }
  if g.step then
    ({ s1 with g := { s1.g with pc := s1.g.pc - 4 } }).raise { Trap.plain cBreak 0 s1.g.exec s1.g.exec with retAt := false }
  else s1

/-- R145: where the group goes after the instruction at its pc completes without transferring control, and the loop stack. -/
def loopNext (pc : Addr) : List Loop → Addr × List Loop
  | [] => (pc + 4, [])
  | l :: r => if l.stop = pc then (if l.count.toNat > 1 then (l.start, { l with count := l.count - 1 } :: r) else (pc + 4, r))
              else (pc + 4, l :: r)

/-- Completion without a control transfer. -/
def State.advance (s : State) : State :=
  let n := loopNext s.g.pc s.g.loops
  ({ s with g := { s.g with pc := n.1, loops := n.2 } }).finish

/-- R145: a taken transfer to `t` pops entries from the innermost outward while `t` lies outside them. -/
def popLoops (t : Addr) : List Loop → List Loop
  | [] => []
  | l :: r => if l.start.toNat ≤ t.toNat ∧ t.toNat ≤ l.stop.toNat then l :: r else popLoops t r

/-- Completion with a control transfer, the loop stack given (R134: the target waits for an empty pending set). -/
def State.transfer (s : State) (t : Addr) (loops : List Loop) : State :=
  ({ s with g := { s.g with pc := t, loops := loops, drain := !s.g.pset.isEmpty } }).finish

/-- A taken branch or jump (R145); a target not a multiple of 4 raises ILLEGAL_INSN (R250). -/
def State.jump (s : State) (lanes : BitVec 32) (t : Addr) : State :=
  if t.toNat % 4 ≠ 0 then s.illegal lanes else s.transfer t (popLoops t s.g.loops)

/-- The waiting group stops at its instruction, with the wait it holds (R118). -/
def State.hold (s : State) (w : Wait) : State := { s with g := { s.g with wait := w } }

end Sys2Proof.Machine
end

