-- ==== Sys2Proof/Machine/Flags.lean ====
section
/-! DEFINITION. Residue prediction (R226–R230, R274, R281, R296, R304): for each class of operation the residue predicted
from the residues of the sources, carries and bits shifted out; and the integer results they are checked against. -/

namespace Sys2Proof.Machine

/-- A residue as an integer. -/
def ri (r : BitVec 4) : Int := r.toNat
/-- An integer modulo 15 as a residue nibble. -/
def r15 (x : Int) : BitVec 4 := BitVec.ofNat 4 (x % 15).toNat

/-- R226: add with a carry in and a carry out. -/
def predAdd (ra rb : BitVec 4) (ci c : Nat) : BitVec 4 := r15 (ri ra + ri rb + ci - c)
/-- R226: subtract with a borrow in and a borrow out. -/
def predSub (ra rb : BitVec 4) (bi c : Nat) : BitVec 4 := r15 (ri ra - ri rb - bi + c)
/-- R226: 0 − a, with c = 1 exactly when a ≠ 0. -/
def predNeg (ra : BitVec 4) (c : Nat) : BitVec 4 := r15 (c - ri ra)

/-- The carry out of bit 31 of x + y + ci. -/
def carry32 (x y : BitVec 32) (ci : Nat) : Nat := if x.toNat + y.toNat + ci ≥ 2 ^ 32 then 1 else 0
/-- The borrow out of bit 31 of x − y − bi. -/
def borrow32 (x y : BitVec 32) (bi : Nat) : Nat := if x.toNat < y.toNat + bi then 1 else 0

/-- A field of `w` bits of a word at bit `w * i`. -/
def fieldOf (w i : Nat) (x : BitVec 32) : Nat := x.toNat / 2 ^ (w * i) % 2 ^ w
/-- Packed add or subtract of fields of `w` bits (`n` of them): the word and the number of carries or borrows out of all
fields (R226). -/
def packedAdd (w n : Nat) (sub : Bool) (x y : BitVec 32) : BitVec 32 × Nat :=
  let step := fun (acc : Nat × Nat) i =>
    let a := fieldOf w i x
    let b := fieldOf w i y
    let r := if sub then (a + 2 ^ w - b) % 2 ^ w else (a + b) % 2 ^ w
    let c := if sub then (if a < b then 1 else 0) else (if a + b ≥ 2 ^ w then 1 else 0)
    (acc.1 + r * 2 ^ (w * i), acc.2 + c)
  let p := (List.range n).foldl step (0, 0)
  (BitVec.ofNat 32 p.1, p.2)

/-- R228: the logic unit's predictions from another network. -/
def predAnd (ra rb ror : BitVec 4) : BitVec 4 := r15 (ri ra + ri rb - ri ror)
def predOr (ra rb rand : BitVec 4) : BitVec 4 := r15 (ri ra + ri rb - ri rand)
def predXor (ra rb rand : BitVec 4) : BitVec 4 := r15 (ri ra + ri rb - 2 * ri rand)
/-- R228: res(NOT b) = −rb. -/
def predNot (rb : BitVec 4) : BitVec 4 := r15 (- ri rb)

/-- R229: shifts by k; `out` is the integer of the bits shifted out. -/
def predShl (ra : BitVec 4) (k out : Nat) : BitVec 4 := r15 (ri ra * 2 ^ (k % 4) - out % 15)
def predShr (ra : BitVec 4) (k out : Nat) : BitVec 4 := r15 ((ri ra - out % 15) * 8 ^ (k % 4))
/-- R229 `sar`: the `shr` prediction plus the residue of the sign fill. -/
def predSar (ra : BitVec 4) (k out : Nat) (neg : Bool) : BitVec 4 :=
  r15 ((ri ra - out % 15) * 8 ^ (k % 4) + (if neg then 1 - 2 ^ ((4 - k % 4) % 4) else 0))
def predRot (ra : BitVec 4) (k : Nat) : BitVec 4 := r15 (ri ra * 2 ^ (k % 4))

/-- The bits a left shift by k moves out of a word. -/
def outShl (x : BitVec 32) (k : Nat) : Nat := x.toNat * 2 ^ k / 2 ^ 32
/-- The bits a right shift by k moves out. -/
def outShr (x : BitVec 32) (k : Nat) : Nat := x.toNat % 2 ^ k

/-- R227: the high half of the unsigned product plus an addend below 2^64. -/
def hiProd (a b : BitVec 32) (c : Nat) : BitVec 32 := BitVec.ofNat 32 ((a.toNat * b.toNat + c) / 2 ^ 32)
/-- R227: the low half predicted as ra·rb + rc − res(hi). -/
def predLow (ra rb rc rhi : BitVec 4) : BitVec 4 := r15 (ri ra * ri rb + ri rc - ri rhi)
/-- R227: the high half's prediction when it is the one written, from the low half's own network. -/
def predHigh (ra rb rc rlo : BitVec 4) : BitVec 4 := r15 (ri ra * ri rb + ri rc - ri rlo)
/-- R227: the signed high half: hi_u − [a<0]·b − [b<0]·a, with w borrows out of bit 31. -/
def predHighS (rhu ra rb : BitVec 4) (an bn : Bool) (w : Int) : BitVec 4 :=
  r15 (ri rhu - (if an then ri rb else 0) - (if bn then ri ra else 0) + w)

/-- R281, R304, R305: a field of a word replaced, each field's residue the sum of its nibbles. -/
def predReplace (rold : BitVec 4) (oldField newField : Nat) : BitVec 4 := r15 (ri rold - oldField % 15 + newField % 15)

/-- R296: a sign bit inverted: +8 for each bit that goes to 1, −8 for each that goes to 0. -/
def predSign (r : BitVec 4) (up down : Nat) : BitVec 4 := r15 (ri r + 8 * up - 8 * down)

/-- Sign of a word. -/
def isNeg (x : BitVec 32) : Bool := x.getLsbD 31

/-- R283: the compare conditions on `w`-bit values. -/
def condOf (c : Nat) {w : Nat} (a b : BitVec w) : Bool :=
  match c with
  | 0 => a == b
  | 1 => a != b
  | 2 => a.slt b
  | 3 => b.sle a
  | 4 => a.ult b
  | 5 => b.ule a
  | 6 => a.sle b
  | _ => b.slt a

end Sys2Proof.Machine
end

