-- ==== Sys2Proof/Machine/Operands.lean ====
section
/-! DEFINITION. Operand forms and the shape every instruction shares: legality, lookahead, per-lane sources and results,
selection of one cause, commit (R8, R133, R158, R224, R255, R259, R269). -/

namespace Sys2Proof.Machine

/-- Why a lane failed: a cause of R163 with its detail. -/
structure LaneFail where
  cause  : Nat
  info   : Nat
  fva    : Nat
  write  : Bool
  stage2 : Bool
deriving DecidableEq, Repr

/-- A residue failure of a lane. -/
def LaneFail.rc (info : Nat) : LaneFail := ⟨cResidue, info, 0, false, false⟩
/-- A poison use of a lane. -/
def LaneFail.poison (info : Nat) : LaneFail := ⟨cPoison, info, 0, false, false⟩

/-- What a lane writes when it commits: lane registers by number, predicates. -/
structure LaneOut where
  regs  : List (Nat × Word)
  preds : List (Nat × Bool)
deriving DecidableEq, Repr

/-- The outcome of an instruction in one lane. -/
abbrev LaneRes := Except LaneFail LaneOut

/-- R158: the order of the per-lane causes. -/
def causeRank (c : Nat) : Nat :=
  if c = cXlate then 0 else if c = cPerm then 1 else if c = cPoison then 2 else if c = cResidue then 3 else 4

/-- The failure whose cause comes first, of the lowest lane on ties: the list is in ascending lane order. -/
def firstFail (fs : List (Nat × LaneFail)) : Option (Nat × LaneFail) := minBy (fun f => causeRank f.2.cause) fs

/-- Write a committing lane's results. -/
def State.commitLane (s : State) (l : Nat) (o : LaneOut) : State :=
  let s1 := o.regs.foldl (fun s r => s.setV r.1 l r.2) s
  o.preds.foldl (fun s r => s.setP r.1 l r.2) s1

/-- Commit every lane that passed. -/
def State.commitLanes (s : State) (rs : List (Nat × LaneRes)) : State :=
  rs.foldl (fun s r => match r.2 with | .ok o => s.commitLane r.1 o | .error _ => s) s

/-- The failing lanes of a result list. -/
def failsOf (rs : List (Nat × LaneRes)) : List (Nat × LaneFail) :=
  rs.filterMap (fun r => match r.2 with | .ok _ => none | .error f => some (r.1, f))

/-- R158: the trap of a list of failing lanes: K the lanes of the selected cause, P every lane that did not commit. -/
def trapOf (fs : List (Nat × LaneFail)) : Option Trap :=
  match firstFail fs with
  | none => none
  | some (_, f) =>
    some { cause := f.cause, info := f.info, retAt := true, k := maskOf ((fs.filter (fun x => x.2.cause == f.cause)).map (·.1)),
           p := maskOf (fs.map (·.1)), fva := f.fva, write := f.write, fetch := false, stage2 := f.stage2 }

/-- Does a run of lane registers touch the pending set (R133)? -/
def State.vPending (s : State) (n cnt : Nat) : Bool :=
  s.g.pset.any (fun p => match p.dest with | .lane v c => decide (n < v + c) && decide (v < n + cnt) | _ => false)
/-- The same for uniform registers. -/
def State.sPending (s : State) (n cnt : Nat) : Bool :=
  s.g.pset.any (fun p => match p.dest with | .uniform v c => decide (n < v + c) && decide (v < n + cnt) | _ => false)

/-- Registers an instruction names: lane register runs and uniform register runs (first, count). -/
structure Names where
  vs : List (Nat × Nat)
  ss : List (Nat × Nat)
deriving DecidableEq, Repr

/-- R127, R255: every lane register below F, every uniform run within `s0`–`s63`. -/
def State.namesOk (s : State) (n : Names) : Bool :=
  n.vs.all (fun r => r.1 + r.2 ≤ s.g.frame) && n.ss.all (fun r => r.1 + r.2 ≤ 64)

/-- R133: a name is in the pending set. -/
def State.namesPending (s : State) (n : Names) : Bool :=
  n.vs.any (fun r => s.vPending r.1 r.2) || n.ss.any (fun r => s.sPending r.1 r.2)

/-- Does a lane write a word that its result check compares? A poisoned word passes every check and a predicate has none (R224). -/
def LaneOut.checked (o : LaneOut) : Bool := o.regs.any (fun r => !r.2.isPoison)

/-- Datapath faults of the next lane instruction strike these results (R165, R224). -/
def State.struck (s : State) (l : Nat) (r : LaneRes) : LaneRes :=
  match r with
  | .ok o => if bit s.glitch l && o.checked then .error (.rc 0) else r
  | .error _ => r

/-- The results of a per-lane instruction over its active lanes and its lanes with a faulty guard (R222), ascending. -/
def State.laneResults (s : State) (a : Act) (f : Nat → LaneRes) : List (Nat × LaneRes) :=
  (lanesOf (a.lanes ||| a.faulty)).map (fun l =>
    (l, if bit a.faulty l then .error (.rc 4) else s.struck l (f l)))

/-- Commit, then trap for the lanes that failed, or complete (R158). -/
def State.settleLanes (s : State) (rs : List (Nat × LaneRes)) : State :=
  let s1 := ({ s with glitch := 0 }).commitLanes rs
  match trapOf (failsOf rs) with
  | some t => s1.raise t
  | none => s1.advance

/-- The checks at issue, in the order of R158: on a Kiln engine a V-set word ends the command (R89, R259); an illegal operand
or field; a name in the pending set. Each traps every active lane; otherwise the instruction goes on. -/
def State.vGuarded (s : State) (lanes : BitVec 32) (legal : Bool) (names : Names) (k : State → State) : State :=
  if s.onKiln then s.kilnStop 0x09 false
  else if !legal || !s.namesOk names then s.illegal lanes
  else if s.namesPending names then s.lookahead lanes
  else k s

/-- A per-lane instruction (R269, R292): checks at issue, the results of its lanes, commit and trap. -/
def State.laneOp (s : State) (pg : BitVec 3) (legal : Bool) (names : Names) (f : State → Nat → LaneRes) : State :=
  let a := s.act pg.toNat
  s.vGuarded a.lanes legal names (fun s => s.settleLanes (s.laneResults a (f s)))

/-- A source operand: the registers of a run with the number R224 gives their field. -/
structure Src where
  n    : Nat
  info : Nat
deriving DecidableEq, Repr

/-- The source words of a lane; the first that fails its residue check gives the detail (R224). -/
def State.srcWords (s : State) (l : Nat) : List Src → Except LaneFail (List Word)
  | [] => .ok []
  | x :: r =>
    let w := s.v x.n l
    if w.checks then (match s.srcWords l r with | .ok ws => .ok (w :: ws) | .error e => .error e) else .error (.rc x.info)

/-- Source words whose poison is a use (R158): poison in any of them comes before a failed residue check. -/
def State.vUse (s : State) (l : Nat) (ss : List Src) (info : Nat) : Except LaneFail (List Word) :=
  if ss.any (fun x => (s.v x.n l).isPoison) then .error (.poison info) else s.srcWords l ss

/-- A result word with its predicted residue (R224, R267). -/
def checkedWord (x : BitVec 32) (r : BitVec 4) : Except LaneFail Word := if resOf x = r then .ok ⟨x, r⟩ else .error (.rc 0)

/-- Result words, each checked against its prediction. -/
def checkedWords : List (BitVec 32 × BitVec 4) → Except LaneFail (List Word)
  | [] => .ok []
  | (x, r) :: t =>
    match checkedWord x r with
    | .error e => .error e
    | .ok w => (match checkedWords t with | .ok ws => .ok (w :: ws) | .error e => .error e)

/-- The data bits of a list of words. -/
def datas (ws : List Word) : List (BitVec 32) := ws.map (·.data)

/-- R269: sources checked; a poisoned source word makes every destination poison; otherwise the results `f` computes from the
source words, checked against their predictions. -/
def State.laneArith (s : State) (srcs : List Src) (dests : List Nat) (f : List Word → List (BitVec 32 × BitVec 4)) (l : Nat) :
    LaneRes :=
  match s.srcWords l srcs with
  | .error e => .error e
  | .ok ws =>
    if ws.any Word.isPoison then .ok ⟨dests.map (fun d => (d, Word.poison)), []⟩
    else match checkedWords (f ws) with
      | .error e => .error e
      | .ok rs => .ok ⟨dests.zip rs, []⟩

/-- A result of the duplicated class or of a generation point: its residue is that of the word (R230, R231). -/
def gen (x : BitVec 32) : BitVec 32 × BitVec 4 := (x, resOf x)
/-- A 64-bit result at its generation point, low word first. -/
def gen64 (x : BitVec 64) : List (BitVec 32 × BitVec 4) := [gen (x.extractLsb' 0 32), gen (x.extractLsb' 32 32)]

/-- The residue of word `i` of a list. -/
def rs (ws : List Word) (i : Nat) : BitVec 4 := (nth ws i).res

/-- R221: the words of one value as an operation reads them: poison in one half of a pair makes the value poison. -/
def wholeValue (ws : List Word) : List Word := if ws.any Word.isPoison then ws.map (fun _ => Word.poison) else ws

/-- Sources of a field: `k` registers with the field's number. -/
def srcs (n k info : Nat) : List Src := (List.range k).map (fun i => ⟨n + i, info⟩)

/-- The run of registers a source pair covers. -/
def srcPair (n info : Nat) : List Src := [⟨n, info⟩, ⟨n + 1, info⟩]

/-- A carried-class choice (R230, R275, R282): the words of one of two runs are written with their residues. -/
def carry (d : Nat) (ws : List Word) : LaneOut := ⟨ws.zipIdx.map (fun w => (d + w.2, w.1)), []⟩

/-! ### S-set instructions -/

/-- The checks an S-set instruction meets at issue, and its guard (R251, R259, R133, R222): a false guard has no effect but
completion; a faulty guard traps the whole group with `info` 4. -/
def State.sGuarded (s : State) (qg : BitVec 3) (legal : Bool) (names : Names) (k : State → State) : State :=
  if !legal || !s.namesOk names then s.illegal s.g.exec
  else if s.namesPending names then s.lookahead s.g.exec
  else match s.q qg.toNat with
    | none => s.raise (Trap.plain cResidue 4 s.g.exec s.g.exec)
    | some false => s.advance
    | some true => k s

/-- R150, R259: a privileged instruction, or one on a privileged register: in a mode that is not allowed it raises PRIV_INSN, whatever
its guard, after the checks of its encoding and names and before every other. -/
def State.sPriv (s : State) (qg : BitVec 3) (legal allowed : Bool) (names : Names) (k : State → State) : State :=
  if legal && s.namesOk names && !allowed then s.raiseAll cPriv 0 s.g.exec else s.sGuarded qg legal names k

/-- R89: an instruction a Kiln engine may not run raises ILLEGAL_INSN there. -/
def State.coreOnly (s : State) (legal : Bool) : Bool := legal && !s.onKiln

/-- Source words of uniform registers, the first failing one by its number. -/
def State.sWords (s : State) : List Src → Except Nat (List Word)
  | [] => .ok []
  | x :: r =>
    let w := s.s x.n
    if w.checks then (match s.sWords r with | .ok ws => .ok (w :: ws) | .error e => .error e) else .error x.info

/-- Uniform source words whose poison is a use (R158). -/
def State.sUse (s : State) (ss : List Src) (info : Nat) : Except LaneFail (List Word) :=
  if ss.any (fun x => (s.s x.n).isPoison) then .error (.poison info)
  else match s.sWords ss with
    | .error i => .error (.rc i)
    | .ok ws => .ok ws
/-- A use that failed traps the whole group. -/
def State.sFail (s : State) (e : LaneFail) : State := s.raiseAll e.cause e.info s.g.exec

/-- A residue failure of an S-set instruction: the whole group, K = P = EXEC. -/
def State.sResidue (s : State) (info : Nat) : State := s.raise (Trap.plain cResidue info s.g.exec s.g.exec)
/-- A poison use of an S-set instruction. -/
def State.sPoison (s : State) (info : Nat) : State := s.raise (Trap.plain cPoison info s.g.exec s.g.exec)

/-- An S-set check made twice (R230, R284, R306): a datapath fault makes the two differ, RESIDUE_CHECK with info 0. -/
def State.sTwice (s : State) (k : State → State) : State := if s.glitch ≠ 0 then ({ s with glitch := 0 }).sResidue 0 else k s

/-- Write a run of uniform registers. -/
def State.setSs (s : State) (d : Nat) (ws : List Word) : State := ws.zipIdx.foldl (fun s w => s.setS (d + w.2) w.1) s

/-- The write-back of a uniform result and the completion (R224): a datapath fault that strikes a checked word fails the result
check. -/
def State.sResult (s : State) (d : Nat) (ws : List Word) : State :=
  if s.glitch ≠ 0 ∧ ws.any (fun w => !w.isPoison) = true then ({ s with glitch := 0 }).sResidue 0 else (s.setSs d ws).advance

/-- A uniform arithmetic instruction: as `laneArith`, on the uniform file. -/
def State.sArith (s : State) (srcs : List Src) (dests : List Nat) (f : List Word → List (BitVec 32 × BitVec 4)) : State :=
  match s.sWords srcs with
  | .error i => s.sResidue i
  | .ok ws =>
    if ws.any Word.isPoison then s.sResult (dests.headD 0) (dests.map (fun _ => Word.poison))
    else match checkedWords (f ws) with
      | .error e => s.sResidue e.info
      | .ok rs => s.sResult (dests.headD 0) rs

/-! ### The pending set -/

/-- R132: entries in the pending set. -/
def psetSize (g : Group) : Nat :=
  g.pset.foldl (fun n p => n + (match p.dest with | .lane _ c => c | .uniform _ c => c | _ => 0)) 0

/-- A pending-set entry of the issuing instruction. -/
def State.newPend (s : State) (dest : Dest) (left la : Nat) (vr1 : Bool) (lanes : List PendLane) : Pend :=
  { id := s.g.nextId, dest := dest, left := left, la := la, pc := s.g.pc, vr1 := vr1, lanes := lanes, wb := s.g.wb, win := false }

/-- Open a window: the destination enters the pending set (R132); with `la` = 0 the group waits at the instruction until the
result arrives (R135). -/
def State.openWindow (s : State) (dest : Dest) (la : Nat) (vr1 : Bool) (lanes : List PendLane) : State :=
  let g := s.g
  let e := s.newPend dest (la + 1) la vr1 lanes
  let s1 := { s with g := { g with pset := g.pset ++ [e], nextId := g.nextId + 1, drain := false } }
  if la = 0 then s1.hold (.load g.nextId) else s1.advance

/-- A long-latency instruction some of whose lanes failed (R135, R158): the other lanes stay pending. With `la` = 0 their results come
first, since a lane whose result fails its check joins P; else the trap is taken and they arrive behind it. -/
def State.trapPending (s : State) (t : Trap) (dest : Dest) (la : Nat) (vr1 : Bool) (lanes : List PendLane) : State :=
  if lanes.isEmpty then s.raise t
  else
    let e := s.newPend dest 1 la vr1 lanes
    let s1 : State := { s with g := { s.g with pset := s.g.pset ++ [e], nextId := s.g.nextId + 1 } }
    if la = 0 then { s1 with g := { s1.g with due := some t, wait := .load e.id } } else s1.raise t

/-- The trap of a long-latency instruction with `la` = 0, with the lanes whose returned words failed (R135, R158): they join P, and K
when the cause is their own. -/
def Trap.join (t : Trap) (mask : BitVec 32) : Trap :=
  if t.cause = cResidue then
    { t with
      k := t.k ||| mask
      p := t.p ||| mask
      info := if mask ≠ 0 ∧ (lanesOf mask).headD 32 < (lanesOf t.k).headD 32 then 0 else t.info }
  else { t with p := t.p ||| mask }

end Sys2Proof.Machine
end

