-- ==== Sys2Proof/Machine/Access.lean ====
section
/-! DEFINITION. Requests of the agents of a node (R28), the L1 of a core (R181, R183, R184, R186, R188), what a pending
access receives, and the ordering of acquires and releases (R186, R206, R207). -/

namespace Sys2Proof.Machine

/-! ### Outstanding requests -/

/-- A transaction identifier that no request of the class uses at the node, none while 1,024 of them are outstanding; the lowest that no request
of the node uses, when there is one. -/
def State.freeTxn (s : State) (node cls : Nat) : Option Nat :=
  if s.twin.stopInject then none
  else match (List.range 1024).find? (fun i => !(s.txns.any (fun t => t.node == node && t.id == i))) with
    | some i => some i
    | none => (List.range 1024).find? (fun i => !(s.txns.any (fun t => t.node == node && t.id == i && t.cls == cls)))

/-- Send a request and record its agent; `stream` marks an access under streaming cacheability (R181). -/
def State.askAs (s : State) (stream : Bool) (agent : Agent) (node cls : Nat) (mk : Nat → Packet) : Option State :=
  (s.freeTxn node cls).map (fun id =>
    ({ s with txns := s.txns ++ [⟨node, cls, id, agent, mk id, false, stream, 0, 0⟩] } : State).send (mk id))
/-- Send a request and record its agent. -/
def State.ask (s : State) (agent : Agent) (node cls : Nat) (mk : Nat → Packet) : Option State := s.askAs false agent node cls mk

/-- A request toward the home of a line (R28). -/
def State.requestAs (s : State) (stream : Bool) (agent : Agent) (node cls mtype tag : Nat) (aux : BitVec 32) (flits : List (List Word)) :
    Option State :=
  s.askAs stream agent node cls (fun id =>
    mkPacket cls mtype node (homeDie (tagLine tag)) id (tagLine tag * 32) (tagKey tag) false aux flits)
/-- A masked write some of whose words are written whole. -/
def State.requestWhole (s : State) (whole : BitVec 32) (stream : Bool) (agent : Agent) (node cls mtype tag : Nat) (aux : BitVec 32)
    (flits : List (List Word)) : Option State :=
  (s.requestAs stream agent node cls mtype tag aux flits).map (fun s1 =>
    { s1 with txns := s1.txns.dropLast ++ (s1.txns.getLast?.map (fun t => { t with whole := whole })).toList })
/-- A request under a cacheability that is not streaming. -/
def State.request (s : State) (agent : Agent) (node cls mtype tag : Nat) (aux : BitVec 32) (flits : List (List Word)) :
    Option State := s.requestAs false agent node cls mtype tag aux flits

/-- A CONTROL packet to a die: word 0 says what is asked, words 1–2 the grid; none while no transaction of the hub is free. -/
def State.askControl (s : State) (die kind grid : Nat) : Option State :=
  s.ask .hub Config.hubNode 7 (fun id => mkPacket 7 3 Config.hubNode die id 0 0 false 0
    [wordsOf 1 kind ++ wordsOf 2 grid ++ List.replicate 5 Word.zero])

/-- Send the CONTROL messages that wait, in order, as far as transactions are free (R28). -/
def State.sendControls : List (Nat × Nat × Nat) → State → State
  | [], s => { s with controls := [] }
  | (d, k, g) :: r, s =>
    match s.askControl d k g with
    | some s1 => sendControls r s1
    | none => { s with controls := (d, k, g) :: r }

/-- A CONTROL message to a die, behind those that wait. -/
def State.control (s : State) (die kind grid : Nat) : State := State.sendControls (s.controls ++ [(die, kind, grid)]) s

/-- R28: the requests, by class and type, that a reply's class and type answer. -/
def answersTo (cls mtype rcls rtype : Nat) : Bool :=
  match cls, mtype with
  | 2, 0 => rcls == 0 || (rcls == 5 && rtype % 8 == 0)
  | 2, 1 => rcls == 0 || (rcls == 5 && rtype % 8 == 0)
  | 2, 2 => rcls == 4 && rtype == 0
  | 2, 3 => rcls == 1 && rtype == 3
  | 2, 4 => rcls == 4 && rtype == 2
  | 3, 0 => rcls == 1 || (rcls == 5 && rtype % 8 != 0)
  | 3, 1 => rcls == 4 && rtype == 1
  | 3, 4 => (rcls == 0 && rtype == 2) || rcls == 6 || rcls == 7
  | 7, 1 => rcls == 7 && rtype == 0
  | _, _ => true

/-- Does a packet answer a request? A route-lost or refused one says which by its address. -/
def answers (p : Packet) (t : Txn) : Bool :=
  t.node == p.hdr.dst.toNat && t.id == p.hdr.txn.toNat && answersTo p.hdr.cls.toNat p.hdr.mtype.toNat t.cls t.pkt.hdr.mtype.toNat

/-- The request a reply answers. -/
def State.txnFor (s : State) (p : Packet) : Option Txn :=
  match s.txns.find? (fun t => answers p t && t.pkt.hdr.paWord == p.hdr.paWord) with
  | some t => some t
  | none => s.txns.find? (answers p)

/-! ### What a pending access receives -/

/-- Give words to a pending access of a group. -/
def State.fill (s : State) (r : GroupRef) (id tag : Nat) (ws : List (Nat × Word)) : State :=
  s.modGroup r (fun g => { g with pset := g.pset.map (fun p =>
    if p.id = id then { p with lanes := p.lanes.map (fun l => { l with words := l.words.map (fun n =>
      if n.tag = tag && n.got.isNone then (match ws.find? (fun w => w.1 == n.idx) with
        | some w => { n with got := some w.2 }
        | none => n) else n) }) } else p) })

/-- Every word of the entry has arrived. -/
def Pend.complete (p : Pend) : Bool := p.lanes.all (fun l => !l.words.isEmpty && l.words.all (fun n => n.got.isSome))

/-- One write of a group is performed: its count of outstanding writes falls. -/
def State.writeDone (s : State) (r : GroupRef) : State := s.modGroup r (fun g => { g with outst := g.outst - 1 })

/-! ### Acquire and release -/

/-- Dies whose lines an acquire at a scope invalidates for a group on a die (R206). -/
def State.acquireDies (s : State) (scope : Nat) : List Nat :=
  if scope < 2 then [] else if scope < 4 then [s.tm.die] else s.diesOf s.tm.part

/-- Is the L1 entry with this key a clean word of the core homed on one of the dies? -/
def dropsClean (core : Nat) (dies : List Nat) (k : Nat) (w : L1Word) : Bool :=
  (match w.st with | .clean _ => true | _ => false) && k / 32 % 512 == core && dies.contains (homeDie (tagLine (k / 32 / 512)))

/-- R186: the clean words of the covered homes leave the core's L1, and fills under way are not installed; at `.cl` and wider
the instruction cache's lines of those homes leave too (R181). -/
def State.invalidate (s : State) (core : Nat) (dies : List Nat) : State :=
  if dies.isEmpty then s
  else
    { s with
      l1 := s.l1.filter (fun e => !dropsClean core dies e.1 e.2)
      icache := s.icache.filter (fun e => !(e.1 / 2 ^ 58 == core && dies.contains (homeDie (e.1 % 2 ^ 45))))
      txns := s.txns.map (fun t => { t with agent := t.agent.stale core }) }

/-- An acquire by the issuing group at a scope (R186, R206). -/
def State.acquire (s : State) (scope : Nat) : State := s.invalidate s.core (s.acquireDies scope)

/-- An acquire whose accesses or ordered accesses lie on other dies too acts at `.dev` for them (R207). -/
def State.acquireWide (s : State) (scope : Nat) : State := s.acquire (if scope < 2 then scope else max scope 4)

/-- R186: nothing for a release to wait for. -/
def releaseReady (g : Group) : Bool := g.outst == 0 && g.pset.isEmpty

/-- Does an order code acquire; release (R252)? -/
def ordAcq (o : Nat) : Bool := o == 1 || o == 3 || o == 4
def ordRel (o : Nat) : Bool := o == 2 || o == 3 || o == 4

/-! ### The completion of an atomic -/

/-- The lane number under which a uniform access stands. -/
def uniLane : Nat := 32

/-- Write result words of a lane, or of the uniform file, into the destination an entry named when it was made (R132, R267). -/
def State.putResult (s : State) (e : Pend) (lane : Nat) (ws : List Word) : State :=
  match e.dest with
  | .lane v cnt => (ws.take cnt).zipIdx.foldl (fun s w => s.setVAt e.wb (v + w.2) lane w.1) s
  | .uniform n cnt => s.setSs n (ws.take cnt)
  | .check k => { s with g := { s.g with checked := ws.zipIdx.foldl (fun t w => tins t (k + w.2) w.1) s.g.checked } }
  | .nothing => s

/-- The acquire of an atomic of an acquiring order (R317): its word's order and scope, at `.sys` when it reached a window (R207). -/
def State.atomAcquire (s : State) (word : BitVec 32) (win : Bool) : State :=
  if !ordAcq (bits word 7 3) then s else if win then s.acquire 5 else s.acquireWide (bits word 10 3)

/-- The trap of an instruction's failing lanes, or its end when none failed. -/
def State.trapOr (s : State) (t : Option Trap) : State := match t with | some t => s.raise t | none => s.advance

/-- A lane of an atomic is done; the last completes the instruction, with its acquire, and then the trap of the lanes that failed. -/
def State.atomLaneDone (s : State) (e : Pend) (lane : Nat) : State :=
  let lanes := e.lanes.filter (fun l => l.lane != lane)
  if lanes.isEmpty then
    let s1 : State := { s with g := { s.g with pset := s.g.pset.filter (fun p => p.id != e.id) } }
    if s1.g.wait = .atom e.id then
      ({ s1.atomAcquire s1.g.waitI e.win with g := { s1.g with due := none, wait := .none } } : State).trapOr s1.g.due
    else s1.takeDue
  else { s with g := { s.g with pset := s.g.pset.map (fun p => if p.id = e.id then { p with lanes := lanes } else p) } }

/-- The lanes a lane number of an access stands for. -/
def State.lanesAt (s : State) (lane : Nat) : BitVec 32 := if lane < 32 then maskOf [lane] else s.g.exec

/-- The home's check of a lane's new value failed (R315): nothing is stored, and the lane fails RESIDUE_CHECK. -/
def State.atomFailed (s : State) (r : GroupRef) (id lane : Nat) : State :=
  s.inGroup r (fun s =>
    match s.g.pset.find? (fun p => p.id == id) with
    | none => s
    | some e =>
      let m := s.lanesAt lane
      ({ s with g := { s.g with due := some (match s.g.due with | some t => t.join m | none => Trap.plain cResidue 0 m m) } } : State).atomLaneDone e lane)

/-- The old value of a lane's atomic arrives (R315): it is written, poison and recorded when it fails its check. -/
def State.atomDone (s : State) (r : GroupRef) (id lane : Nat) (ws : List Word) : State :=
  s.inGroup r (fun s =>
    match s.g.pset.find? (fun p => p.id == id) with
    | none => s
    | some e =>
      let bad := ws.any (fun w => !w.checks)
      let s0 := if bad then s.record (s.resultRec e.pc (s.lanesAt lane) 0) else s
      (s0.putResult e lane (ws.map (fun w => if w.checks then w else Word.poison))).atomLaneDone e lane)

/-! ### Runs of words -/

/-- Words that can be used: neither poisoned nor failing their residue checks. -/
def allGood (ws : List Word) : Bool := ws.all (fun w => !w.isPoison && w.checks)

/-- Words that begin `k` bytes into a run of words: a word made of two is good when both are. -/
def shiftWords (k : Nat) (ws : List Word) : List Word :=
  if k = 0 then ws
  else (ws.zip (ws.drop 1)).map (fun p =>
    if allGood [p.1, p.2] then Word.ofData (BitVec.ofNat 32 (ofWords [p.1, p.2] / 256 ^ k)) else Word.poison)

/-! ### Addresses and pieces -/

/-- The bytes of a word a lane's access touches: the translated word address, the word's place in the access, and the mask. -/
structure Piece where
  x    : XOk
  k    : Nat
  mask : BitVec 4
deriving DecidableEq, Repr

/-- The line tag and word index of a piece. -/
def Piece.tag (p : Piece) : Nat := tagOf p.x.key (lineOf p.x.pa)
def Piece.idx (p : Piece) : Nat := p.x.pa / 4 % 32

/-- The mask of the bytes of word address `wa` in [a, a + n). -/
def byteMask (a n wa : Nat) : BitVec 4 :=
  BitVec.ofNat 4 ((List.range 4).foldl (fun m i => if a ≤ wa + i ∧ wa + i < a + n then m + 2 ^ i else m) 0)

/-- The words an access of `n` bytes at `va` touches, from the translations of its first and last page. -/
def piecesOf (va n : Nat) (x1 x2 : XOk) : List Piece :=
  (List.range ((va + n - 1) / 4 - va / 4 + 1)).map (fun k =>
    let wa := (va / 4 + k) * 4
    let x := if wa / 8192 = va / 8192 then { x1 with pa := x1.pa / 8192 * 8192 + wa % 8192 }
             else { x2 with pa := x2.pa / 8192 * 8192 + wa % 8192 }
    ⟨x, k, byteMask va n wa⟩)

/-- Where an access goes (R309). -/
inductive Target where
  | memory (ps : List Piece)
  | window (pa : Nat)
  | aperture (ch : Nat)
deriving DecidableEq, Repr

/-- A failure of a lane's address. -/
def addrFail (cause info fva : Nat) (k : Kind) (stage2 : Bool) : LaneFail := ⟨cause, info, fva, k.writes, stage2⟩

/-- The failure of a translation at an address. -/
def xFail (f : XFault) (fva : Nat) (k : Kind) : LaneFail := addrFail (if f.perm then cPerm else cXlate) f.info fva k f.stage2

/-- The failures of a list of results, with their keys. -/
def lostOf {α : Type} (rs : List (Nat × Except LaneFail α)) : List (Nat × LaneFail) :=
  rs.filterMap (fun r => match r.2 with | .ok _ => none | .error f => some (r.1, f))

/-- Translate some addresses as accesses of the issuing agent; an address fails with what its translation raises. -/
def State.xlAll (s : State) (k : Kind) : List Nat → State × List (Nat × Except LaneFail XOk)
  | [] => (s, [])
  | a :: r =>
    match s.translate (if s.onKiln then none else some s.core) s.tm.part s.tm.asid a k s.mode with
    | (s1, x) =>
      let (s2, xs) := s1.xlAll k r
      (s2, (a, match x with | .error f => .error (xFail f a k) | .ok x => .ok x) :: xs)

/-- Where an access that translates goes: window rules (R53) and alignment (R308). -/
def State.placeAccess (s : State) (va n : Nat) (k : Kind) (aligned : Bool) (x1 x2 : XOk) : Except LaneFail Target :=
  if regionOf x1.pa = .window ∨ regionOf x2.pa = .window then
    if va % n = 0 && s.windowAllows s.tm.part x1.pa k n then .ok (.window x1.pa)
    else .error (addrFail cPerm 0 (if regionOf x1.pa = .window then va else (va + n - 1) / 8192 * 8192) k false)
  else if aligned && va % n ≠ 0 then .error (addrFail cPerm 0 va k false)
  else .ok (.memory (piecesOf va n x1 x2))

/-- R306, R308, R309: range, aperture, translation of both pages, window and alignment checks of one access. `aligned` demands
natural alignment. Every byte is checked: a failed translation comes before a refused permission (R158), the lowest byte first, and a
byte in the copy aperture is refused and not translated. -/
def State.locate (s : State) (va n : Nat) (k : Kind) (aligned : Bool) : State × Except LaneFail Target :=
  let (s0, c) := s.context s.tm.part s.tm.asid
  let cap := c.capVa.toNat
  let inCap := fun (a : Nat) => c.ok && decide (cap ≤ a) && decide (a < cap + 128)
  let hitsCap := c.ok && decide (cap < va + n) && decide (va < cap + 128)
  if hitsCap && !s.onKiln && k = .store && n = 8 && va % 8 = 0 && va ≥ cap && (va - cap) / 8 < 15 then (s0, .ok (.aperture ((va - cap) / 8)))
  else
    let e := va + n - 1
    let starts := va :: (if e / 8192 = va / 8192 then [] else [e / 8192 * 8192]) ++ (if hitsCap && cap + 128 ≤ e then [cap + 128] else [])
    let (s1, xs) := s0.xlAll k (starts.filter (fun a => !inCap a))
    let fs := (lostOf xs) ++ (if hitsCap then [(max va cap, addrFail cPerm 0 (max va cap) k false)] else []) ++
      (if aligned && va % n ≠ 0 then [(va, addrFail cPerm 0 va k false)] else [])
    match minBy (fun f => f.1) (fs.filter (fun f => f.2.cause == cXlate)), minBy (fun f => f.1) fs with
    | some (_, f), _ => (s1, .error f)
    | none, some (_, f) => (s1, .error f)
    | none, none =>
      match xs with
      | (_, .ok x1) :: r =>
        let x2 := match r with | (_, .ok x) :: _ => x | _ => x1
        (s1, s1.placeAccess va n k aligned x1 x2)
      | _ => (s1, .error (addrFail cPerm 0 va k false))

/-- R306: the address of a lane of a V-set access: the pair `va`, or `va` beside the uniform pair `sb`. -/
def State.vAddr (s : State) (va sb l : Nat) : Except LaneFail Nat :=
  if sb = 63 then
    match s.vUse l (srcPair va 1) 0 with
    | .error e => .error e
    | .ok ws => .ok (dat64 ws 0).toNat
  else if (srcPair sb 2).any (fun x => (s.s x.n).isPoison) then .error (.poison 0)
  else
    match s.vUse l [⟨va, 1⟩] 0 with
    | .error e => .error e
    | .ok ws =>
      match s.sWords (srcPair sb 2) with
      | .error i => .error (.rc i)
      | .ok us => .ok (((dat64 us 0).toNat + (dat ws 0).toNat) % 2 ^ 64)

end Sys2Proof.Machine
end

