-- ==== Sys2Proof/Machine/Transport.lean ====
section
/-! DEFINITION. What the device sends at its ports: THT packets of a path, Perit frames to a peer, and window accesses
(R36–R48, R53–R57, R318). -/

namespace Sys2Proof.Machine

/-! ### CRC-32C (R39) -/

/-- One bit of the reflected Castagnoli division. -/
def crcBit (c : BitVec 32) : BitVec 32 := if c.getLsbD 0 then (c >>> 1) ^^^ 0x82f63b78#32 else c >>> 1
/-- Eight bits. -/
def crcByte (c : BitVec 32) (b : Byte) : BitVec 32 :=
  crcBit (crcBit (crcBit (crcBit (crcBit (crcBit (crcBit (crcBit (c ^^^ b.setWidth 32))))))))
/-- CRC-32C: initial value all ones, final complement. -/
def crc32c (bs : List Byte) : BitVec 32 := ~~~ (bs.foldl crcByte 0xffffffff#32)

/-! ### Path contexts (R38) -/

/-- A path's state. -/
def State.path (s : State) (p : Nat) : PathSt := tget s.paths p PathSt.initial
/-- Update a path. -/
def State.modPath (s : State) (p : Nat) (f : PathSt → PathSt) : State := { s with paths := tmod s.paths p PathSt.initial f }

/-- Fields of a path context. -/
def pcState (c : BitVec 256) : Nat := field c.toNat 6 2
def pcPerm (c : BitVec 256) : Nat := field c.toNat 17 3
def pcMtu (c : BitVec 256) : Nat := 1024 * 2 ^ field c.toNat 20 2
def pcDscp (c : BitVec 256) : BitVec 6 := BitVec.ofNat 6 (field c.toNat 22 6)
def pcPort (c : BitVec 256) : Nat := field c.toNat 28 1
def pcPart (c : BitVec 256) : Nat := field c.toNat 29 3
def pcAsid (c : BitVec 256) : Addr := BitVec.ofNat 64 (field c.toNat 32 64)
def pcHostPath (c : BitVec 256) : Nat := field c.toNat 100 12
def pcUdp (c : BitVec 256) : BitVec 16 := BitVec.ofNat 16 (field c.toNat 112 16)
def pcIp (c : BitVec 256) : BitVec 128 := BitVec.ofNat 128 (field c.toNat 128 128)

/-- Replace the state field of a context. -/
def pcWithState (c : BitVec 256) (st : Nat) : BitVec 256 := BitVec.ofNat 256 (c.toNat - pcState c * 64 + st % 4 * 64)

/-- A THT header (R39) of version 1. -/
def thtHdr (imm addr : BitVec 64) (subop len path code : Nat) (psn : BitVec 24) (ce ackReq : Bool) (op : Nat) : BitVec 256 :=
  BitVec.ofNat 256 (1 + op * 2 ^ 4 + (if ackReq then 2 ^ 11 else 0) + (if ce then 2 ^ 12 else 0) + psn.toNat * 2 ^ 16 +
    code * 2 ^ 40 + path * 2 ^ 64 + len * 2 ^ 96 + subop * 2 ^ 112 + addr.toNat * 2 ^ 128 + imm.toNat * 2 ^ 192)

/-- Fields of a THT header. -/
def thVer (h : BitVec 256) : Nat := field h.toNat 0 4
def thOp (h : BitVec 256) : Nat := field h.toNat 4 4
def thAckReq (h : BitVec 256) : Bool := field h.toNat 11 1 == 1
def thCeEcho (h : BitVec 256) : Bool := field h.toNat 12 1 == 1
def thPsn (h : BitVec 256) : BitVec 24 := BitVec.ofNat 24 (field h.toNat 16 24)
def thCode (h : BitVec 256) : Nat := field h.toNat 40 8
def thPath (h : BitVec 256) : Nat := field h.toNat 64 12
def thLen (h : BitVec 256) : Nat := field h.toNat 96 13
def thSubop (h : BitVec 256) : Nat := field h.toNat 112 4
def thAddr (h : BitVec 256) : BitVec 64 := BitVec.ofNat 64 (field h.toNat 128 64)
def thImm (h : BitVec 256) : BitVec 64 := BitVec.ofNat 64 (field h.toNat 192 64)

/-- The bytes a CRC covers: header and payload. -/
def thtBytes (h : BitVec 256) (payload : List Byte) : List Byte := bytesOf 32 h.toNat ++ payload

/-! ### Port records and next hops (R44) -/

/-- The link-local address formed from a MAC by modified EUI-64. -/
def linkLocal (m : BitVec 48) : BitVec 128 :=
  BitVec.ofNat 128 (0xfe80 * 2 ^ 112 + (m.toNat / 2 ^ 24 ^^^ 0x020000) * 2 ^ 40 + 0xfffe * 2 ^ 24 + m.toNat % 2 ^ 24)

/-- A 128-bit address as 16 bytes in network order. -/
def ipBytes (a : BitVec 128) : List Byte := (bytesOf 16 a.toNat).reverse
/-- An address from bytes in network order. -/
def ipOf (bs : List Byte) : BitVec 128 := BitVec.ofNat 128 (ofBytes bs.reverse)

/-- The bytes of a field of port p's record at reset: what the firmware's configuration block holds, else the field's reset value. -/
def fwOr (p f n : Nat) (d : List Byte) : List Byte :=
  match Config.fwField p f with
  | some v => bytesOf n v
  | none => d

/-- A host port's record at reset (R44). -/
def portRecReset (p : Nat) : List Byte :=
  fwOr p 0 16 (bytesOf 16 (linkLocal (Config.mac p)).toNat) ++ fwOr p 1 1 [64] ++ fwOr p 2 1 [0] ++ bytesOf 2 50432 ++
  fwOr p 3 4 (bytesOf 4 0) ++ fwOr p 4 16 (bytesOf 16 0) ++ fwOr p 5 4 (bytesOf 4 0) ++ bytesOf 4 0 ++
  bytesOf 16 (0xfe80 * 2 ^ 112) ++ [10, 0, 0, 0] ++ List.replicate 4 0 ++
  fwOr p 6 24 (bytesOf 24 0) ++ fwOr p 7 24 (bytesOf 24 0) ++ fwOr p 8 24 (bytesOf 24 0)

/-- The record in force. -/
def State.portRec (s : State) (p : Nat) : List Byte := tget s.portRecs p (portRecReset p)
/-- Fields of a record (R44), little-endian like every field whose description names no other order (R4). -/
def prIp6 (r : List Byte) : BitVec 128 := BitVec.ofNat 128 (ofBytes (r.take 16))
def prIp6Len (r : List Byte) : Nat := (r.getD 16 0).toNat
def prIp4Len (r : List Byte) : Nat := (r.getD 17 0).toNat
def prThtPort (r : List Byte) : Nat := ofBytes ((r.drop 18).take 2)
def prIp4 (r : List Byte) : Nat := ofBytes ((r.drop 20).take 4)
def prGw6 (r : List Byte) : BitVec 128 := BitVec.ofNat 128 (ofBytes ((r.drop 24).take 16))
def prGw4 (r : List Byte) : Nat := ofBytes ((r.drop 40).take 4)
/-- Allow-list entry i, and its address. -/
def prAllow (r : List Byte) (i : Nat) : List Byte := (r.drop (48 + 24 * i)).take 24
def allowIp (a : List Byte) : BitVec 128 := BitVec.ofNat 128 (ofBytes (a.take 16))

/-- Is the address IPv4-mapped? -/
def isMapped (a : BitVec 128) : Bool := a.toNat / 2 ^ 32 == 0xffff
/-- Do two addresses agree in their first `n` bits? -/
def samePrefix (n : Nat) (a b : BitVec 128) : Bool := a.toNat / 2 ^ (128 - n) == b.toNat / 2 ^ (128 - n)
/-- The IPv4-mapped address. -/
def mapped4 (a : Nat) : BitVec 128 := BitVec.ofNat 128 (0xffff * 2 ^ 32 + a)

/-- The next hop of a destination at a port: itself inside the prefix, else the gateway; none without a gateway, or over an IPv4 that is
turned off (R44). -/
def nextHopAddr (r : List Byte) (ip : BitVec 128) : Option (BitVec 128) :=
  if isMapped ip then
    if prIp4Len r = 0 then none
    else if samePrefix (96 + prIp4Len r) (mapped4 (prIp4 r)) ip then some ip
    else if prGw4 r = 0 then none else some (mapped4 (prGw4 r))
  else if samePrefix (prIp6Len r) (prIp6 r) ip then some ip
  else if prGw6 r = 0 then none else some (prGw6 r)

/-- A port's state. -/
def State.port (s : State) (p : Nat) : Port := tget s.ports p Port.initial
/-- R37, R69: the rebindings away from port p in the last 24 hours. -/
def State.failovers (s : State) (p : Nat) : Nat := ((s.port p).failTimes.filter (fun t => s.gtime < t + 86400000000000)).length
/-- Update a port. -/
def State.modPort (s : State) (p : Nat) (f : Port → Port) : State := { s with ports := tmod s.ports p Port.initial f }
/-- One more drop for a reason. -/
def bumpDrop (why : DropReason) : List (DropReason × Nat) → List (DropReason × Nat)
  | [] => [(why, 1)]
  | (w, n) :: r => if w = why then (w, n + 1) :: r else (w, n) :: bumpDrop why r
/-- Count a drop at a port by its reason (R35, R41). -/
def State.countDrop (s : State) (p : Nat) (why : DropReason) : State := s.modPort p (fun x => { x with drops := bumpDrop why x.drops })
/-- A port's drops for all reasons (R65). -/
def Port.dropCount (x : Port) : Nat := x.drops.foldl (fun n d => n + d.2) 0

/-- The ones' complement sum of 16-bit words in network order. -/
def onesSum : List Byte → Nat
  | [] => 0
  | [a] => a.toNat * 256
  | a :: b :: r =>
    let t := a.toNat * 256 + b.toNat + onesSum r
    t % 65536 + t / 65536

/-- `n` bytes of a number in network order. -/
def netBytes (n v : Nat) : List Byte := (bytesOf n v).reverse

/-- The pseudo-header of a UDP datagram of `n` bytes (R36). -/
def udpPseudo (src dst : BitVec 128) (n : Nat) : List Byte :=
  if isMapped dst then (ipBytes src).drop 12 ++ (ipBytes dst).drop 12 ++ [0, 17] ++ netBytes 2 n
  else ipBytes src ++ ipBytes dst ++ netBytes 4 n ++ [0, 0, 0, 17]

/-- R36: the checksum of a UDP datagram, computed in both families; a sum of zero is sent as all ones. -/
def udpSum (src dst : BitVec 128) (srcUdp dstUdp : BitVec 16) (data : List Byte) : BitVec 16 :=
  let n := 8 + data.length
  let c := 0xffff - onesSum (udpPseudo src dst n ++ netBytes 2 srcUdp.toNat ++ netBytes 2 dstUdp.toNat ++ netBytes 2 n ++ [0, 0] ++ data)
  BitVec.ofNat 16 (if c = 0 then 0xffff else c)

/-- R36, R39: a THT packet with its headers: from the port's own address, DF set, a hop limit of 64, ECT(0). -/
def thtOut (r : List Byte) (port : Nat) (ip : BitVec 128) (udp srcUdp : BitVec 16) (tag : Option (BitVec 16)) (dscp : BitVec 6)
    (hdr : BitVec 256) (payload : List Byte) : ThtOut :=
  let src := if isMapped ip then mapped4 (prIp4 r) else prIp6 r
  let crc := crc32c (thtBytes hdr payload)
  { port := port, tag := tag, src := src, dst := ip, dscp := dscp, ecn := 2, df := true, hops := 64, srcUdp := srcUdp, dstUdp := udp,
    cksum := udpSum src ip srcUdp udp (thtBytes hdr payload ++ bytesOf 4 crc.toNat), hdr := hdr, payload := payload, crc := crc }

/-- Send a THT packet from a port; one whose next hop has not resolved waits, and the hop's resolution is asked for (R44). A port
whose link is down sends nothing (R37), nor does one without a next hop. -/
def State.emit (s : State) (port : Nat) (ip : BitVec 128) (udp srcUdp : BitVec 16) (tag : Option (BitVec 16)) (dscp : BitVec 6)
    (hdr : BitVec 256) (payload : List Byte) : State :=
  let o := thtOut (s.portRec port) port ip udp srcUdp tag dscp hdr payload
  match nextHopAddr (s.portRec port) ip with
  | none => s
  | some hop =>
    if !(s.port port).up then s
    else match s.hops.find? (fun h => h.port == port && h.addr == hop) with
      | some h => { s with sent := s.sent ++ [.tht h.mac o] }
      | none => { s with
          sent := s.sent ++ [.resolve port hop]
          unresolved := s.unresolved ++ [(hop, o)] }

/-- The 802.1Q tag a `vlan` word gives (R43). DESIGN CHOICE (log 28): a tag keeps the layout of the `vlan` word, priority in [14:12] and VLAN id in
[11:0]. -/
def vlanTag (v : BitVec 16) : Option (BitVec 16) := if v.getLsbD 15 then some (v &&& 0x7fff) else none

/-- The UDP source port of a path (R36). -/
def srcUdpOf (path : Nat) : BitVec 16 := BitVec.ofNat 16 (49152 + path % 2 ^ 14)

/-- Send a packet of a path on its bound port. -/
def State.emitPath (s : State) (p : Nat) (hdr : BitVec 256) (payload : List Byte) : State :=
  let st := s.path p
  s.emit (pcPort st.ctx) (pcIp st.ctx) (pcUdp st.ctx) (srcUdpOf p) (vlanTag st.vlan) (pcDscp st.ctx) hdr payload

/-! ### Answers to window accesses -/

/-- Tag of a window load: the path and PSN of its READ, or the hub transaction of a peer read. -/
def pathTag (path : Nat) (psn : BitVec 24) : Nat := 2 ^ 60 + path * 2 ^ 24 + psn.toNat
def peerTag (id : Nat) : Nat := 2 ^ 61 + id

/-- A counter's words reach the front end, for the command that asked (R87). -/
def State.eventSeen (s : State) (q c : Nat) (ws : List Word) : State :=
  let ok := ws.length ≥ 2 && (ws.take 2).all (fun w => !w.isPoison && w.checks)
  s.modCmd q c (fun x => { x with seen := some (if ok then some (pairVal (nth ws 0) (nth ws 1)) else none) })

/-- A poisoned counter is recorded as POISON_USE, grade G1 (R87). -/
def State.counterPoison (s : State) (p : Nat) : State :=
  s.record { Rec.event 5 0 cPoison 1 0 with part := some p, cause := recCause cPoison 0 1 }

/-- The old value of a counter that a child grid's completion added to: poison is recorded (R87). -/
def State.childSignalled (s : State) (p : Nat) (ws : List Word) : State :=
  if ws.length ≥ 2 && (ws.take 2).all (fun w => !w.isPoison && w.checks) then s else s.counterPoison p

/-- The answer to a device request reaches its agent: words from index 0 under its tag; `none` is an answer that never comes,
which delivers poison. -/
def State.answer (s : State) (agent : Agent) (tag : Nat) (ws : Option (List Word)) : State :=
  match agent with
  | .load r id _ =>
    s.fill r id tag (match ws with
      | some l => l.zipIdx.map (fun w => (w.2, w.1))
      | none => (List.range 32).map (fun i => (i, Word.poison)))
  | .store r => s.writeDone r
  | .atom r id lane => s.atomDone r id lane (ws.getD [Word.poison, Word.poison])
  | .event q c => s.eventSeen q c (ws.getD [Word.poison, Word.poison])
  | .childEvent p _ => s.childSignalled p (ws.getD [Word.poison, Word.poison])
  | _ => s

/-- A path enters ERROR (R42, R48): event PATH_ERROR, and its unacknowledged requests end, reads with poison. -/
def State.pathError (s : State) (p : Nat) (withheld : Bool) : State :=
  let st := s.path p
  if pcState st.ctx ≠ 1 then s
  else
    let s1 := (s.modPath p (fun x => { x with ctx := pcWithState x.ctx 2, buf := [] })).record
      { Rec.event 4 (pcPort st.ctx) 0x48 (if withheld then 3 else 1) p with part := some (pcPart st.ctx) }
    st.buf.foldl (fun s q => s.answer q.agent (pathTag p q.psn) none) s1

/-- Send a device request on a path (R42); none while 256 requests are unacknowledged. A path that is not OPEN answers
nothing: the access ends at once, reads with poison. -/
def State.thtAsk (s : State) (p op subop : Nat) (addr imm : BitVec 64) (payload : List Byte) (agent : Agent) : Option State :=
  let st := s.path p
  if pcState st.ctx ≠ 1 then some (s.answer agent (pathTag p st.psnOut) none)
  else if st.buf.length ≥ 256 then none
  else
    let hdr := thtHdr imm addr subop payload.length (pcHostPath st.ctx) 0 st.psnOut false false op
    some ((s.modPath p (fun x => { x with
      psnOut := x.psnOut + 1
      buf := x.buf ++ [⟨x.psnOut, hdr, payload, 0, agent⟩] })).emitPath p hdr payload)

/-! ### Perit frames (R55–R57) -/

/-- The bytes of a mesh packet in a frame. -/
def packetBytes (p : Packet) : List Byte :=
  bytesOf 16 (meshBits p.hdr) ++ p.flits.flatMap (fun f =>
    f.flatMap (fun w => bytesOf 4 w.data.toNat) ++
    (List.range 4).map (fun i => BitVec.ofNat 8 ((f.getD (2 * i) Word.zero).res.toNat + 16 * (f.getD (2 * i + 1) Word.zero).res.toNat)))

/-- A frame header (R55). -/
def peritHdr (handle : BitVec 32) (dst src : BitVec 16) (npkt : Nat) (aseq seq : BitVec 24) (kind : Nat) : BitVec 128 :=
  BitVec.ofNat 128 (1 + kind * 2 ^ 4 + seq.toNat * 2 ^ 8 + aseq.toNat * 2 ^ 32 + npkt * 2 ^ 56 + src.toNat * 2 ^ 64 +
    dst.toNat * 2 ^ 80 + handle.toNat * 2 ^ 96)

/-- Fields of a frame header. -/
def phVer (h : BitVec 128) : Nat := field h.toNat 0 4
def phKind (h : BitVec 128) : Nat := field h.toNat 4 4
def phSeq (h : BitVec 128) : BitVec 24 := BitVec.ofNat 24 (field h.toNat 8 24)
def phAseq (h : BitVec 128) : BitVec 24 := BitVec.ofNat 24 (field h.toNat 32 24)
def phNpkt (h : BitVec 128) : Nat := field h.toNat 56 4
def phSrc (h : BitVec 128) : BitVec 16 := BitVec.ofNat 16 (field h.toNat 64 16)
def phDst (h : BitVec 128) : BitVec 16 := BitVec.ofNat 16 (field h.toNat 80 16)
def phHandle (h : BitVec 128) : BitVec 32 := BitVec.ofNat 32 (field h.toNat 96 32)

/-- The bytes a frame's CRC covers. -/
def peritBytes (h : BitVec 128) (ps : List Packet) : List Byte := bytesOf 16 h.toNat ++ ps.flatMap packetBytes

/-- The sequence state kept for a peer device. -/
def Peer.initial : Peer := ⟨0, 0, [], 0, 0, false, 2, 0, []⟩
def State.peer (s : State) (dev : BitVec 16) : Peer := tget s.peersSt dev.toNat Peer.initial
def State.modPeer (s : State) (dev : BitVec 16) (f : Peer → Peer) : State :=
  { s with peersSt := tmod s.peersSt dev.toNat Peer.initial f }

/-- Port entry k of a peer table entry: the peer's MAC and `vlan` (R57). -/
def peerPort (e : List Byte) (k : Nat) : Nat × BitVec 16 :=
  (ofBytes ((e.drop (8 + 8 * k)).take 6), BitVec.ofNat 16 (ofBytes ((e.drop (14 + 8 * k)).take 2)))


/-- R57: the fabric port a frame for a peer leaves on. -/
def State.peritPort (s : State) (e : List Byte) (dev : BitVec 16) : Option Nat :=
  (List.range 8).find? (fun k => (peerPort e k).1 != 0 && !((s.peer dev).down.contains k))

/-- Put a frame on the wire by the sending partition's peer table; a port whose link is down sends nothing. -/
def State.peritEmit (s : State) (part : Nat) (dev : BitVec 16) (f : PeritFrame) : State :=
  match s.peerEntry part dev with
  | none => s
  | some e =>
    match s.peritPort e dev with
    | none => s
    | some k =>
      if !(s.port (2 + k)).up then s else
      { s with sent := s.sent ++ [.perit (2 + k) (BitVec.ofNat 48 (peerPort e k).1) (vlanTag (peerPort e k).2) { f with port := 2 + k }] }

/-- The device's own id on the fabric (R57, R65). -/
def ownDev : BitVec 16 := Config.devId.setWidth 16

/-- Send mesh packets to a peer in a data frame; none while 256 frames are unacknowledged (R56). -/
def State.peritSend (s : State) (part : Nat) (dev : BitVec 16) (handle : BitVec 32) (ps : List Packet) : Option State :=
  let q := s.peer dev
  if q.buf.length ≥ 256 then none
  else
    let h := peritHdr handle dev ownDev ps.length (q.seqIn - 1) q.seqOut 0
    let f : PeritFrame := ⟨2, h, ps, crc32c (peritBytes h ps)⟩
    some ((s.modPeer dev (fun x => { x with seqOut := x.seqOut + 1, buf := x.buf ++ [(x.seqOut, part, f)] })).peritEmit part dev f)

/-- A request to a peer: its window's handle, the word offset in it, a transaction of the hub (R55). -/
def State.peerAsk (s : State) (part : Nat) (w : BitVec 256) (off cls mtype : Nat) (aux : BitVec 32) (flits : List (List Word))
    (agent : Agent) : Option State :=
  match s.freeTxn Config.hubNode cls with
  | none => none
  | some id =>
    let p := mkPacket cls mtype Config.hubNode Config.hubNode id (off / 4) 0 false aux flits
    let s1 : State := { s with txns := s.txns ++ [⟨Config.hubNode, cls, id, agent, p, false, false, 0, winHandle w⟩] }
    s1.peritSend part (winDev w) (winHandle w) [p]

/-! ### Window accesses of a group (R53, R318) -/

/-- The first words of the window flits of an access: word data at word indices. -/
def flitsAt (aux : BitVec 32) (ws : List (Nat × Word)) : List (List Word) :=
  windowFlits aux ((List.range 32).map (fun i => ((ws.find? (fun w => w.1 == i)).map (·.2)).getD Word.zero))

/-- A load of `n` bytes from a window: the state with its request sent, and the words awaited. -/
def State.windowLoad (s : State) (part pa n : Nat) (r : GroupRef) (id : Nat) : Option (State × List Need) :=
  match s.window part pa with
  | none => none
  | some w =>
    let off := pa - winBase w
    let cnt := (n + 3) / 4
    if winPeer w then
      let i0 := off / 4 % 32
      let aux := maskOf ((List.range cnt).map (fun j => i0 + j))
      match s.freeTxn Config.hubNode 0 with
      | none => none
      | some t =>
        (s.peerAsk part w off 0 1 aux [] (.load r id false)).map (fun s1 =>
          (s1, (List.range cnt).map (fun j => (⟨peerTag t, i0 + j, none⟩ : Need))))
    else
      let p := winPath w
      let st := s.path p
      let need := fun (got : Option Word) => (List.range cnt).map (fun j => ({ tag := pathTag p st.psnOut, idx := j, got := got } : Need))
      if pcState st.ctx ≠ 1 then some (s, need (some Word.poison))
      else (s.thtAsk p 2 0 (BitVec.ofNat 64 (winRemote w + off)) (BitVec.ofNat 64 n) [] (.load r id false)).map
        (fun s1 => (s1, need none))

/-- R48: data that may leave the device: no poisoned word, no failed egress check. -/
def egressOk (ws : List Word) : Bool := ws.all (fun w => !w.isPoison && w.checks)

/-- The bytes of data words. -/
def dataBytes (ws : List Word) : List Byte := ws.flatMap (fun w => bytesOfWord w.data)

/-- R48, R71, R163: poison met at host egress is recorded with grade G3 and `info` 5. -/
def State.egressRecord (s : State) (part path : Nat) : State :=
  s.record { Rec.event 4 (pcPort (s.path path).ctx) cPoison 3 path with part := some part, cause := recCause cPoison 0 5 }

/-- A record about a group's access grades its grid (R71). -/
def State.gradeAgent (s : State) (agent : Agent) (grade : Nat) : State :=
  match agent with
  | .store r => ((s.teamAt (grpKey r)).map (fun t => s.gradeGrid t.grid grade)).getD s
  | .atom r _ _ => ((s.teamAt (grpKey r)).map (fun t => s.gradeGrid t.grid grade)).getD s
  | _ => s

/-- R48: an access whose data fails the egress check: it is withheld, recorded, and its path enters ERROR. DESIGN CHOICE (log
28): an atomic whose operands fail it goes as a WRITE does, the one access R48 names. -/
def State.egressFail (s : State) (part path : Nat) (agent : Agent) : State :=
  (((s.gradeAgent agent 3).egressRecord part path).pathError path true).answer agent 0 none

/-- A store of `n` bytes to a window, from data words that start at byte 0 of the access. A group's count of outstanding
writes has been raised by the caller. -/
def State.windowStore (s : State) (part pa n : Nat) (ws : List Word) (agent : Agent) : Option State :=
  match s.window part pa with
  | none => none
  | some w =>
    let off := pa - winBase w
    if winPeer w then
      let i0 := off / 4 % 32
      if n ≥ 4 then
        let aux := maskOf ((List.range (n / 4)).map (fun j => i0 + j))
        s.peerAsk part w off 1 0 aux (flitsAt aux (ws.zipIdx.map (fun x => (i0 + x.2, x.1)))) agent
      else
        let d := nth ws 0
        let sh := if d.isPoison then Word.poison else Word.ofData (d.data <<< (8 * (off % 4)))
        s.peerAsk part w off 1 1 (1#32 <<< i0)
          (maskFlit ((2 ^ n - 1) * 2 ^ (off % 128)) :: flitsAt (1#32 <<< i0) [(i0, sh)]) agent
    else if egressOk ws then
      s.thtAsk (winPath w) 1 0 (BitVec.ofNat 64 (winRemote w + off)) 0 ((dataBytes ws).take n) agent
    else some (s.egressFail part (winPath w) agent)

/-- A 64-bit atomic on a window (R318): fetch-add or compare-swap. Operands as in R314. -/
def State.windowAtomic (s : State) (part pa : Nat) (aop : Nat) (red : Bool) (ops : List Word) (agent : Agent) : Option State :=
  match s.window part pa with
  | none => none
  | some w =>
    let off := pa - winBase w
    if winPeer w then
      let i0 := off / 4 % 32
      let opw := Word.ofData (BitVec.ofNat 32 (aop + if red then 16 else 0))
      s.peerAsk part w off 1 3 (maskOf [i0, i0 + 1])
        [(List.range 4).map (nth ops) ++ [opw] ++ List.replicate 3 Word.zero] agent
    else if egressOk (ops.take (if aop = 14 then 4 else 2)) then
      let b := fun i => dataBytes [nth ops i]
      s.thtAsk (winPath w) 4 (if aop = 14 then 1 else 0) (BitVec.ofNat 64 (winRemote w + off)) 0
        (b 0 ++ b 1 ++ (if aop = 14 then b 2 ++ b 3 else List.replicate 8 0)) agent
    else some (s.egressFail part (winPath w) agent)

end Sys2Proof.Machine
end

