-- ==== Sys2Proof/Machine/Copy.lean ====
section
/-! DEFINITION. The copy engine (R192–R198) and the batches of a group (R197, R321). -/

namespace Sys2Proof.Machine

/-! ### Clusters -/

/-- The cluster of a built core (R70). -/
def clusterOfBuilt (b : Nat) : Nat := if b < 64 then b / 4 else 4 * (b - 64)
/-- The state of a core, by die × 64 + logical number. -/
def State.coreAt (s : State) (c : Nat) : Core := tget s.cores c (Core.initial (c % 64))
/-- The cluster of a core, as die × 16 + cluster. -/
def State.clusterOf (s : State) (c : Nat) : Nat := c / 64 * 16 + clusterOfBuilt (s.coreAt c).built
/-- A cluster's engines. -/
def State.cluster (s : State) (c : Nat) : Cluster := tget s.clusters c Cluster.initial
/-- Update a cluster. -/
def State.modCluster (s : State) (c : Nat) (f : Cluster → Cluster) : State := { s with clusters := tmod s.clusters c Cluster.initial f }

/-! ### Batches (R197, R321) -/

/-- `finished` advances over finished batches in order; a finished batch with an unreported fault is kept. -/
def advanceBatches : Nat → Group → Group
  | 0, g => g
  | n + 1, g =>
    match g.batches.find? (fun b => b.num == (g.finished + 1).toNat) with
    | none => g
    | some b =>
      if b.left ≠ 0 then g
      else advanceBatches n { g with
        finished := g.finished + 1
        batches := if b.fault.isSome then g.batches else g.batches.filter (fun x => x.num != b.num) }

/-- The lower channel's fault of two. -/
def lowerFault (a : Option (Nat × Nat)) (kind ch : Nat) : Option (Nat × Nat) :=
  match a with
  | some (k, c) => if ch < c then some (kind, ch) else some (k, c)
  | none => some (kind, ch)

/-- A job of a batch finished, or faulted with a kind on its channel. -/
def jobDone (batch kind ch : Nat) (g : Group) : Group :=
  if batch = (g.sealed + 1).toNat then
    { g with openJobs := g.openJobs - 1, openFault := if kind = 0 then g.openFault else lowerFault g.openFault kind ch }
  else
    advanceBatches (g.batches.length + 1) { g with batches := g.batches.map (fun b =>
      if b.num = batch then { b with left := b.left - 1, fault := if kind = 0 then b.fault else lowerFault b.fault kind ch } else b) }

/-- R322: seal the jobs issued since the last seal into the next batch. -/
def sealBatch (g : Group) : Group :=
  advanceBatches (g.batches.length + 2)
    { g with sealed := g.sealed + 1, batches := g.batches ++ [⟨(g.sealed + 1).toNat, g.openJobs, g.openFault⟩], openJobs := 0, openFault := none }

/-- The number of unfinished sealed batches. -/
def unfinished (g : Group) : Nat := (g.sealed - g.finished).toNat

/-- The lowest finished batch with an unreported fault: its number, kind and channel. -/
def reportable (g : Group) : Option (Nat × Nat × Nat) :=
  match g.batches.find? (fun b => b.left == 0 && b.fault.isSome && !((BitVec.ofNat 32 b.num - g.finished - 1).toNat < 2 ^ 31)) with
  | some b => b.fault.map (fun f => (b.num, f.1, f.2))
  | none => none

/-! ### Cards (R193, R194) -/

/-- Fields of a job card, from its 64 bytes. -/
def cdSrc (c : Nat) : Nat := byteField c 0 8
def cdDst (c : Nat) : Nat := byteField c 8 8
def cdSrcPitch (c : Nat) : Nat := byteField c 16 4
def cdDstPitch (c : Nat) : Nat := byteField c 20 4
def cdTw (c : Nat) : Nat := byteField c 24 2
def cdTh (c : Nat) : Nat := byteField c 26 2
def cdEsz (c : Nat) : Nat := byteField c 28 1
def cdSrcLay (c : Nat) : Nat := byteField c 29 1
def cdDstLay (c : Nat) : Nat := byteField c 30 1
def cdFlags (c : Nat) : Nat := byteField c 31 1
def cdRfp (c : Nat) : Nat := byteField c 32 4
def cdWfp (c : Nat) : Nat := byteField c 36 4
def cdScl (c : Nat) : Nat := byteField c 40 8
def cdSclLen (c : Nat) : Nat := byteField c 48 4
def cdTrl (c : Nat) : Nat := byteField c 56 8

/-- A layout byte: Morton, and team scratchpad. -/
def layMorton (l : Nat) : Bool := l % 2 == 1
def layScratch (l : Nat) : Bool := l / 2 % 4 == 1
def layOk (l : Nat) (queue : Bool) : Bool := l < 4 && !(queue && layScratch l)

/-- Fields of the aperture store's data word (R192). -/
def dwTmpl (d : BitVec 64) : Nat := field d.toNat 0 12
def dwCx (d : BitVec 64) : Nat := field d.toNat 12 20
def dwCy (d : BitVec 64) : Nat := field d.toNat 32 20
def dwNt (d : BitVec 64) : Bool := d.getLsbD 52
def dwZfill (d : BitVec 64) : Bool := d.getLsbD 53

/-- R193: the limits of a card and of its data word. -/
def cardOk (c : Nat) (d : BitVec 64) (queue : Bool) : Bool :=
  field d.toNat 54 10 == 0 && 1 ≤ cdTw c && cdTw c ≤ 4096 && 1 ≤ cdTh c && cdTh c ≤ 4096 && cdEsz c ≤ 4 &&
  layOk (cdSrcLay c) queue && layOk (cdDstLay c) queue && cdFlags c < 2 && byteField c 52 4 == 0

/-- Spread the low 20 bits of a coordinate to the even bit positions. -/
def spread (x : Nat) : Nat := (List.range 20).foldl (fun a b => a + x / 2 ^ b % 2 * 4 ^ b) 0

/-- R194: offset of element (x, y) from the base of a side. -/
def elemOff (morton : Bool) (pitch esz x y : Nat) : Nat :=
  if morton then (spread x + 2 * spread y) * 2 ^ esz else y * pitch + x * 2 ^ esz

/-- The address of the tile's origin on a side, modulo 2^64. -/
def tileBase (base lay pitch : Nat) (c : Nat) (d : BitVec 64) : Nat :=
  (base + elemOff (layMorton lay) pitch (cdEsz c) (dwCx d * cdTw c) (dwCy d * cdTh c)) % 2 ^ 64

/-- R194: every element byte of a side lies in its footprint of `len` bytes from the tile's origin. -/
def sideFits (lay pitch len : Nat) (c : Nat) (d : BitVec 64) : Bool :=
  let x0 := dwCx d * cdTw c
  let y0 := dwCy d * cdTh c
  let m := layMorton lay
  let wraps := m && (x0 / 2 ^ 20 != (x0 + cdTw c - 1) / 2 ^ 20 || y0 / 2 ^ 20 != (y0 + cdTh c - 1) / 2 ^ 20)
  !wraps && elemOff m pitch (cdEsz c) (x0 + cdTw c - 1) (y0 + cdTh c - 1) + 2 ^ cdEsz c ≤
    elemOff m pitch (cdEsz c) x0 y0 + len

/-- Footprint of a side: space (0 global, 1 scratchpad), base, length. -/
def sideFp (base lay pitch len : Nat) (c : Nat) (d : BitVec 64) : Nat × Nat × Nat :=
  (if layScratch lay then 1 else 0, tileBase base lay pitch c d, len)

/-- Do two footprints overlap? -/
def fpOverlap (a b : Nat × Nat × Nat) : Bool :=
  a.1 == b.1 && a.2.2 != 0 && b.2.2 != 0 && a.2.1 < b.2.1 + b.2.2 && b.2.1 < a.2.1 + a.2.2

/-- The key of the team of a job. -/
def MatrixJob.team (j : MatrixJob) : Nat := grpKey j.grp

/-- R330: does an unfinished job of the team still have to read these scratchpad bytes? -/
def State.scrHeld (s : State) (key off n : Nat) : Bool :=
  s.clusters.any (fun c => c.2.mjobs.any (fun j => !j.granted && j.team == key && j.reads.any (fpOverlap (1, off, n))))

/-- The translation of an engine's next word: within a page the one already made serves on (R178). -/
def State.engineXl (s : State) (core : Option Nat) (part : Nat) (asid : Addr) (mode va : Nat) (held : Option XOk) : State × Except XFault XOk :=
  match held with
  | some x => if va % 8192 = 0 then s.translate core part asid va .load mode else (s, .ok { x with pa := x.pa + 4 })
  | none => s.translate core part asid va .load mode

/-- Read `n` words of global memory in a partition's address space as an engine; `none` for a failed translation or permission,
or window space. `held` is the translation of the word before. -/
def State.engineRun (s : State) (core : Option Nat) (part : Nat) (asid : Addr) (mode va : Nat) (held : Option XOk) :
    Nat → State × Option (List Word)
  | 0 => (s, some [])
  | n + 1 =>
    match s.engineXl core part asid mode va held with
    | (s1, .error _) => (s1, none)
    | (s1, .ok x) =>
      if regionOf x.pa = .window then (s1, none)
      else
        let (s2, w) := match core with | some c => s1.coreWord c x | none => s1.wordAt x
        match s2.engineRun core part asid mode (va + 4) (some x) n with
        | (s3, none) => (s3, none)
        | (s3, some ws) => (s3, some (w :: ws))

/-- Such a read from its first word. -/
def State.engineWords (s : State) (core : Option Nat) (part : Nat) (asid : Addr) (mode va n : Nat) : State × Option (List Word) :=
  s.engineRun core part asid mode va none n

/-- The jobs of a team that a new job's footprints meet (R196): RAW, WAR and WAW edges. -/
def edgesOf (cl : Cluster) (r : GroupRef) (rfp wfp : List (Nat × Nat × Nat)) : List Nat :=
  let same := fun (q : GroupRef) => q.die == r.die && q.core == r.core && q.slot == r.slot
  let hit := fun (rs ws : List (Nat × Nat × Nat)) =>
    rfp.any (fun a => ws.any (fpOverlap a)) || wfp.any (fun a => rs.any (fpOverlap a) || ws.any (fpOverlap a))
  (cl.jobs.filter (fun j => (match j.owner with | some q => same q | none => false) && hit [j.rfp] [j.wfp])).map (·.seq) ++
  (cl.mjobs.filter (fun j => !j.done && same j.grp && hit j.reads j.writes)).map (·.seq)

/-- R193: the engine admits a job: the card is read and checked, footprints and edges are formed. -/
def State.admitCopy (s : State) (ch : Nat) (d : BitVec 64) : State :=
  let va := s.g.jcb.toNat + 64 * dwTmpl d
  let (s1, ws) := s.engineWords (some s.core) s.tm.part s.tm.asid s.mode va 16
  let cl := s1.clusterOf s1.core
  let c := ofWords (ws.getD [])
  let kind := match ws with
    | none => 1
    | some l => if l.any (fun w => w.isPoison || !w.checks) then 3
      else if !cardOk c d false then 3
      else if !(dwZfill d || sideFits (cdSrcLay c) (cdSrcPitch c) (cdRfp c) c d) || !sideFits (cdDstLay c) (cdDstPitch c) (cdWfp c) c d then 3
      else 0
  let rfp := if kind ≠ 0 ∨ dwZfill d then (0, 0, 0) else sideFp (cdSrc c) (cdSrcLay c) (cdSrcPitch c) (cdRfp c) c d
  let wfp := if kind ≠ 0 then (0, 0, 0) else sideFp (cdDst c) (cdDstLay c) (cdDstPitch c) (cdWfp c) c d
  let job : CopyJob :=
    { seq := (s1.cluster cl).nextSeq, owner := some s1.self, queue := none, chan := ch, batch := (s1.g.sealed + 1).toNat,
      card := ws.getD [], data := d, rfp := rfp, wfp := wfp,
      after := if kind ≠ 0 then [] else edgesOf (s1.cluster cl) s1.self [rfp] [wfp],
      started := false, fault := kind, offset := 0, outst := 0, asid := s1.tm.asid, part := s1.tm.part, mode := s1.mode }
  { s1.modCluster cl (fun x => { x with jobs := x.jobs ++ [job], nextSeq := x.nextSeq + 1 }) with
    g := { s1.g with openJobs := s1.g.openJobs + 1 } }

/-- The team's jobs the engine has not started (R198). -/
def State.unstartedJobs (s : State) : Nat :=
  ((s.cluster (s.clusterOf s.core)).jobs.filter (fun j => !j.started && (match j.owner with
    | some q => q.die == s.tm.die && q.core == s.tm.core && q.slot == s.tm.slot
    | none => false))).length + s.tm.unstarted.length

/-! ### Carrying out a job -/

/-- A job's access to a byte's word: global memory in its address space, or the team's scratchpad. -/
inductive Place where
  | global (x : XOk)
  | scratch (key idx : Nat)
deriving DecidableEq, Repr

/-- The key of the team that owns a job. -/
def CopyJob.team (j : CopyJob) : Nat := match j.owner with | some r => grpKey r | none => 0

/-- Locate the word at address or offset `a` (a multiple of 4) for a job. -/
def State.jobPlace (s : State) (j : CopyJob) (scratch : Bool) (a : Nat) (k : Kind) : State × Option Place :=
  if scratch then
    match s.teamAt j.team with
    | some t => (s, if a % 2 ^ 64 + 4 ≤ 4096 * t.scratchN then some (.scratch j.team (a / 4)) else none)
    | none => (s, none)
  else
    match s.translate none j.part j.asid (a % 2 ^ 64) k j.mode with
    | (s1, .error _) => (s1, none)
    | (s1, .ok x) => (s1, if regionOf x.pa = .window then none else some (.global x))

/-- Read a word at a place. -/
def State.placeRead (s : State) : Place → State × Word
  | .global x => s.wordAt x
  | .scratch key idx => (s, match s.teamAt key with | some t => tget t.scratch idx Word.zero | none => Word.poison)

/-- Words of one destination line that a job has carried within a piece and not yet written: their page, and the stores of each word. -/
abbrev Carried := Option (XOk × List (Nat × Stores))

/-- The line of a translated address. -/
def XOk.tag (x : XOk) : Nat := tagOf x.key (lineOf x.pa)

/-- The carried words are written: those of one line and one piece as one write (R192, R383). -/
def State.putCarried (s : State) (nt : Bool) : Carried → State
  | none => s
  | some (x, ws) => s.homePiece (x.cache == 2) nt x.tag ws

/-- Bytes of a word join the carried words of their line; `same` says that the piece is still the one under way. -/
def State.carry (s : State) (nt same : Bool) (b : Carried) (x : XOk) (mask : BitVec 4) (w : Word) : State × Carried :=
  let i := x.pa / 4 % 32
  let fresh : Carried := some (x, [(i, [(mask, w)])])
  match b with
  | none => (s, fresh)
  | some (y, ws) =>
    if !same || x.tag != y.tag then (s.putCarried nt b, fresh)
    else (s, some (y, if ws.any (fun e => e.1 == i) then ws.map (fun e => if e.1 == i then (i, addStore e.2 mask w) else e) else ws ++ [(i, [(mask, w)])]))

/-- Bytes of a word that a job writes at a place: they join the words it carries, or go to the pool, which checks the word at its ingress (R183,
R224). -/
def State.placeWrite (s : State) (nt same : Bool) (b : Carried) (p : Place) (mask : BitVec 4) (w : Word) : State × Carried :=
  match p with
  | .global x => s.carry nt same b x mask (ingress w)
  | .scratch key idx => (s.modTeam key (fun t =>
      let nw := if mask = 15 then ingress w else mergeWord mask (tget t.scratch idx Word.zero) (ingress w)
      { t with scratch := tset t.scratch idx nw Word.zero }), b)

/-- Read `n` bytes for a trailer check: kind 1 for a failed access, kind 2 for poison or a failed check. -/
def State.jobBytes (s : State) (j : CopyJob) (scratch : Bool) (a : Nat) : Nat → State × Except Nat (List Byte)
  | 0 => (s, .ok [])
  | n + 1 =>
    match s.jobPlace j scratch (a / 4 * 4) .load with
    | (s1, none) => (s1, .error 1)
    | (s1, some p) =>
      let (s2, w) := s1.placeRead p
      if w.isPoison || !w.checks then (s2, .error 2)
      else match s2.jobBytes j scratch (a + 1) n with
        | (s3, .error k) => (s3, .error k)
        | (s3, .ok bs) => (s3, .ok ((bytesOfWord w.data).getD (a % 4) 0 :: bs))

/-- R195, R249: the trailer check, 0 when it passes: the CRC agrees, `ofmt` is an output code and no reserved flag is set. -/
def State.trailerCheck (s : State) (j : CopyJob) (c : Nat) : State × Nat :=
  let sc := layScratch (cdSrcLay c)
  match s.jobBytes j sc j.rfp.2.1 j.rfp.2.2 with
  | (s1, .error k) => (s1, k)
  | (s1, .ok e) =>
    match s1.jobBytes j sc (cdScl c) (cdSclLen c) with
    | (s2, .error k) => (s2, k)
    | (s2, .ok l) =>
      match s2.jobBytes j sc (cdTrl c) 16 with
      | (s3, .error k) => (s3, k)
      | (s3, .ok t) => (s3, if ofBytes (t.drop 12) = (crc32c (e ++ l)).toNat ∧ ofBytes (t.drop 10 |>.take 1) ≤ 14 ∧ ofBytes (t.drop 11 |>.take 1) < 32 then 0 else 2)

/-- Insert a byte move in ascending destination order, after equals. -/
def insertMove (m : Nat × Nat) : List (Nat × Nat) → List (Nat × Nat)
  | [] => [m]
  | x :: r => if m.1 < x.1 then m :: x :: r else x :: insertMove m r

/-- The byte moves of a job, destination and source addresses, in ascending destination address (R194, R198). -/
def copyMoves (c : Nat) (d : BitVec 64) : List (Nat × Nat) :=
  let e := cdEsz c
  let x0 := dwCx d * cdTw c
  let y0 := dwCy d * cdTh c
  let moves := (List.range (cdTh c)).flatMap (fun j => (List.range (cdTw c)).flatMap (fun i => (List.range (2 ^ e)).map (fun b =>
    (cdDst c + elemOff (layMorton (cdDstLay c)) (cdDstPitch c) e (x0 + i) (y0 + j) + b,
     cdSrc c + elemOff (layMorton (cdSrcLay c)) (cdSrcPitch c) e (x0 + i) (y0 + j) + b))))
  if !layMorton (cdDstLay c) && cdTw c * 2 ^ e ≤ cdDstPitch c then moves
  else moves.foldl (fun l m => insertMove m l) []

/-- One byte as it is carried: the word it comes from (zero for a zero fill), and its place there. -/
def carriedByte (w : Word) (at' dst : Nat) : Word :=
  if !w.checks || w.isPoison then Word.poison
  else Word.ofData (((w.data >>> (8 * at')) &&& 0xff) <<< (8 * dst))

/-- R198: the pages of a move on both sides; without a source only the destination's counts. -/
def pieceOf (zf : Bool) (m : Nat × Nat) : Nat × Nat := (m.1 / 8192, if zf then 0 else m.2 / 8192)

/-- R198: does some byte of the piece that starts here lie beyond its scratchpad? -/
def State.pieceBeyond (s : State) (j : CopyJob) (c : Nat) (moves : List (Nat × Nat)) : Bool :=
  let zf := dwZfill j.data
  let lim := match s.teamAt j.team with | some t => 4096 * t.scratchN | none => 0
  match moves with
  | [] => false
  | m :: _ => (moves.takeWhile (fun x => pieceOf zf x == pieceOf zf m)).any (fun x =>
      (layScratch (cdDstLay c) && x.1 ≥ lim) || (!zf && layScratch (cdSrcLay c) && x.2 ≥ lim))

/-- The source word a byte of a job comes from; zero for a zero fill, none where it cannot be reached. -/
def State.sourceWord (s : State) (j : CopyJob) (c sa : Nat) : State × Option Word :=
  if dwZfill j.data then (s, some Word.zero)
  else match s.jobPlace j (layScratch (cdSrcLay c)) (sa / 4 * 4) .load with
    | (s1, none) => (s1, none)
    | (s1, some q) => let (s2, w) := s1.placeRead q; (s2, some w)

/-- A word made of carried bytes: poison when one of them is. -/
def joinBytes (a b : Word) : Word := if a.isPoison || b.isPoison then Word.poison else Word.ofData (a.data ||| b.data)

/-- The bytes of some moves into one destination word. -/
def State.gatherMoves (s : State) (j : CopyJob) (c : Nat) : List (Nat × Nat) → State × Option Word
  | [] => (s, some Word.zero)
  | (da, sa) :: r =>
    match s.sourceWord j c sa with
    | (s1, none) => (s1, none)
    | (s1, some w) =>
      match s1.gatherMoves j c r with
      | (s2, some x) => (s2, some (joinBytes (carriedByte w (sa % 4) (da % 4)) x))
      | (s2, none) => (s2, none)

/-- Does a source word lie in the line of the carried words? -/
def State.readsCarried (s : State) (j : CopyJob) (c sa : Nat) (b : Carried) : Bool :=
  match b, dwZfill j.data with
  | some (x, _), false => (match (s.jobPlace j (layScratch (cdSrcLay c)) (sa / 4 * 4) .load).2 with | some (.global y) => y.tag == x.tag | _ => false)
  | _, _ => false

/-- The moves that go together: those of a whole destination word within one piece, else one byte. -/
def wordMoves (zf : Bool) (ms : List (Nat × Nat)) : List (Nat × Nat) :=
  let w := ms.take 4
  let m := ms.headD (0, 0)
  if m.1 % 4 = 0 && w.map (fun x => x.1 - m.1) == [0, 1, 2, 3] && w.all (fun x => pieceOf zf x == pieceOf zf m) then w else ms.take 1

/-- Carry out the moves word by word: a whole source word moves with its residue, other bytes are put together; stop at the first piece that
fails, of which nothing is written. `last` is the piece under way, `b` what is carried and not yet written: it is written before the job reads
its line. Returns the bytes written and whether a piece failed; the first number bounds the moves. -/
def State.moveBytes (s : State) (j : CopyJob) (c : Nat) : Nat → Option (Nat × Nat) → Carried → List (Nat × Nat) → Nat → State × Nat × Bool
  | 0, _, b, _, n => (s.putCarried (dwNt j.data) b, n, false)
  | _, _, b, [], n => (s.putCarried (dwNt j.data) b, n, false)
  | fuel + 1, last, b, (da, sa) :: rest, n =>
    let zf := dwZfill j.data
    let nt := dwNt j.data
    let here := pieceOf zf (da, sa)
    if last ≠ some here && s.pieceBeyond j c ((da, sa) :: rest) then (s.putCarried nt b, n, true)
    else match s.jobPlace j (layScratch (cdDstLay c)) (da / 4 * 4) .store with
    | (s1, none) => (s1.putCarried nt b, n, true)
    | (s1, some p) =>
      let ms := wordMoves zf ((da, sa) :: rest)
      let whole := ms.length == 4 && (zf || (sa % 4 == 0 && ms.map (fun x => x.2 - sa) == [0, 1, 2, 3]))
      let hits := ms.any (fun m => s1.readsCarried j c m.2 b)
      let s2 := if hits then s1.putCarried nt b else s1
      let b2 := if hits then none else b
      let src := if whole then s2.sourceWord j c sa else s2.gatherMoves j c ms
      match src with
      | (s3, none) => (s3.putCarried nt b2, n, true)
      | (s3, some w) =>
        let (s4, b4) := s3.placeWrite nt (last == some here) b2 p (if ms.length = 4 then 15 else BitVec.ofNat 4 (2 ^ (da % 4))) w
        s4.moveBytes j c fuel (some here) b4 (rest.drop (ms.length - 1)) (n + ms.length)

/-- R194–R198: a job's whole work: the fault kind and the offset. -/
def State.runCopy (s : State) (j : CopyJob) : State × Nat × Nat :=
  if j.fault ≠ 0 then (s, j.fault, 0)
  else
    let c := ofWords j.card
    let (s1, k) := if cdFlags c = 1 && !dwZfill j.data then s.trailerCheck j c else (s, 0)
    if k ≠ 0 then (s1, k, 0)
    else
      let (s2, n, bad) := s1.moveBytes j c (copyMoves c j.data).length none none (copyMoves c j.data) 0
      (s2, if bad then 1 else 0, n)

/-- The jobs an edge or its channel's order hold back, and whether a job may start (R196). -/
def mayStart (cl : Cluster) (j : CopyJob) : Bool :=
  !j.started && !(cl.jobs.any (fun k => k.chan == j.chan && k.seq < j.seq && !k.started)) &&
  !(cl.jobs.any (fun k => j.after.contains k.seq)) && !(cl.mjobs.any (fun k => !k.done && j.after.contains k.seq))

/-- R115: does a posted matrix job need this copy job, by edges, through other jobs or an earlier place in its channel? `n` bounds
the chain. -/
def neededBy (cl : Cluster) : Nat → CopyJob → Bool
  | 0, _ => false
  | n + 1, j =>
    cl.mjobs.any (fun m => !m.done && m.after.contains j.seq) ||
    cl.jobs.any (fun k => k.seq != j.seq && (k.after.contains j.seq || (k.chan == j.chan && j.seq < k.seq)) && neededBy cl n k)

/-- R115, R164: a stopped team's jobs that have not started do not start, unless a posted matrix job needs them. -/
def State.jobStopped (s : State) (cl : Cluster) (j : CopyJob) : Bool :=
  match j.owner with
  | none => false
  | some r => (match s.teamAt (grpKey r) with
    | some t => (t.sampled || t.aborted) && !neededBy cl cl.jobs.length j
    | none => true)

/-- R196: the next job of a channel starts once its edges allow. -/
def execCopyJobStart (die cluster ch : Nat) (s : State) : Host.Outcome State Fault Refusal :=
  let k := die * 16 + cluster
  let s1 := s.unfocus
  match (s1.cluster k).jobs.find? (fun j => j.chan == ch && mayStart (s1.cluster k) j && !s1.jobStopped (s1.cluster k) j) with
  | none => .next s1
  | some j => .next (s1.modCluster k (fun x => { x with jobs := x.jobs.map (fun y => if y.seq = j.seq then { y with started := true } else y) }))

/-- R198: the status entry of a faulted job, at the issuing group's `%jcb` + 262,144 + 16 × ch. -/
def State.statusEntry (s : State) (j : CopyJob) (r : GroupRef) (kind offset : Nat) : State :=
  match s.groupAt r with
  | none => s
  | some g =>
    let va := g.jcb.toNat + 262144 + 16 * j.chan
    let ws := wordsOf 2 offset ++ wordsOf 1 kind ++ wordsOf 1 j.batch
    ws.zipIdx.foldl (fun s w =>
      match s.translate (some (r.die * 64 + r.core)) j.part j.asid (va + 4 * w.2) .store j.mode with
      | (s1, .ok x) => if regionOf x.pa = .window then s1 else s1.coreStore (r.die * 64 + r.core) x w.1
      | (s1, .error _) => s1) s

/-- R198: the first started job of a channel finishes, or faults: a fault's status entry is written before the batch counts. -/
def execCopyJobFinish (die cluster ch : Nat) (s : State) : Host.Outcome State Fault Refusal :=
  let k := die * 16 + cluster
  let s1 := s.unfocus
  match (s1.cluster k).jobs.find? (fun j => j.chan == ch && j.started) with
  | none => .next s1
  | some j =>
    let (s2, kind, off) := s1.runCopy j
    let s3 := s2.modCluster k (fun x => { x with jobs := x.jobs.filter (fun y => y.seq != j.seq) })
    .next (match j.owner with
      | some r =>
        let s4 := if kind = 0 then s3 else s3.statusEntry j r kind off
        s4.modGroup r (jobDone j.batch kind ch)
      | none =>
        match j.queue with
        | some (q, uid) => s3.modCmd q uid (fun c => { c with complete := true, code := if kind = 0 then c.code else 0x0f, signal := kind = 0 && c.signal })
        | none => s3)

end Sys2Proof.Machine
end

