-- ==== Sys2Proof/Machine/LaneMem.lean ====
section
/-! DEFINITION. Memory, atomic, scratchpad and channel instructions of the V-set, and the arrival of a load's data
(chapter 14: R306–R319, R325, R326; R135). -/

namespace Sys2Proof.Machine

/-! ### Lanes and their targets -/

/-- Of two failures of a lane the one whose cause comes first (R158). -/
def worse (e : LaneFail) (x : Option LaneFail) : LaneFail :=
  match x with
  | some f => if causeRank f.cause < causeRank e.cause then f else e
  | none => e

/-- What fails a lane beside its address: a function of the lane and, when it has one, of its address and target. -/
abbrev LaneCheck := State → Nat → Option (Nat × Target) → Option LaneFail

/-- The failure of a lane's data operands, and that of the form of access its target allows: the one whose cause comes first (R158). -/
def bothChecks (data : State → Nat → Option LaneFail) (form : State → Nat → Nat × Target → Option LaneFail) : LaneCheck :=
  fun s l x => match x.bind (form s l) with
    | some e => some (worse e (data s l))
    | none => data s l

/-- Locate the accesses of lanes: `addr` gives a lane's address, `extra` a failure of its data operands or of its form. -/
def State.locateAll (s : State) (addr : State → Nat → Except LaneFail Nat) (extra : LaneCheck) (n : Nat)
    (k : Kind) (aligned : Bool) : List Nat → State × List (Nat × Except LaneFail (Nat × Target))
  | [] => (s, [])
  | l :: ls =>
    let (s1, r) : State × Except LaneFail (Nat × Target) :=
      match addr s l with
      | .error e => (s, .error (worse e (extra s l none)))
      | .ok a =>
        if (if l = uniLane then s.glitch != 0 else bit s.glitch l) then (s, .error (worse (.rc 0) (extra s l none)))
        else match s.locate a n k aligned with
          | (s1, .error e) => (s1, .error (worse e (extra s1 l none)))
          | (s1, .ok t) => (s1, match extra s1 l (some (a, t)) with | some e => .error e | none => .ok (a, t))
    let (s2, rs) := s1.locateAll addr extra n k aligned ls
    (s2, (l, r) :: rs)

/-- The lanes that passed. -/
def goodLanes {α : Type} (rs : List (Nat × Except LaneFail α)) : List (Nat × α) :=
  rs.filterMap (fun r => match r.2 with | .ok t => some (r.1, t) | .error _ => none)

/-- The trap of the failing lanes of an access, or of a uniform access, which takes the whole group (R307, R320). -/
def State.memTrap (s : State) (fs : List (Nat × LaneFail)) : Option Trap :=
  match fs with
  | (32, f) :: _ => some { cause := f.cause, info := f.info, retAt := true, k := s.g.exec, p := s.g.exec, fva := f.fva, write := f.write, fetch := false, stage2 := f.stage2 }
  | _ => trapOf fs

/-- Lanes with a faulty guard fail with detail 4 (R222). -/
def faultyLanes {α : Type} (m : BitVec 32) : List (Nat × Except LaneFail α) := (lanesOf m).map (fun l => (l, .error (.rc 4)))

/-- Merge two result lists in ascending lane order. -/
def byLane {α : Type} (a b : List (Nat × α)) : List (Nat × α) :=
  (List.range 33).flatMap (fun l => a.filter (fun x => x.1 == l) ++ b.filter (fun x => x.1 == l))

/-! ### Order of the group's own accesses (R204) -/

/-- Is a fill of a line on its way to the issuing core's L1? Its words may be older than a write at the home that follows. -/
def State.lineFilling (s : State) (tag : Nat) : Bool :=
  s.txns.any (fun t => pktTag t.pkt == tag && (match t.agent with
    | .load r _ i => i && r.die * 64 + r.core == s.core
    | .prefetch c i => i && c == s.core
    | .merge c _ => c == s.core
    | _ => false))

/-- Is a write or an atomic of the issuing core on its way to a line's home? A fill asked for now may hold the words before it. -/
def State.lineWritten (s : State) (tag : Nat) : Bool :=
  s.txns.any (fun t => pktTag t.pkt == tag && (match t.agent with
    | .store r => r.die * 64 + r.core == s.core
    | .atom r _ _ => r.die * 64 + r.core == s.core
    | _ => false))

/-- Does a sub-word store of the issuing core await a word? -/
def State.merging (s : State) (tag idx : Nat) : Bool :=
  !s.onKiln && s.merges.any (fun m => m.core == s.core && m.tag == tag && m.idx == idx)

/-- Is a write, reduction or discard of the issuing group on its way to the home of a word? -/
def State.ownWritten (s : State) (tag idx : Nat) : Bool :=
  s.txns.any (fun t => t.agent == .store s.self && pktTag t.pkt == tag && bit t.pkt.hdr.aux idx)

/-- A store of a word must wait: an earlier load or write of the group to it is under way. -/
def State.storeBusy (s : State) (tag idx : Nat) : Bool := s.loadAwaits tag idx || s.ownWritten tag idx

/-- Another access of it must wait for its core's sub-word stores, too. -/
def State.wordBusy (s : State) (tag idx : Nat) : Bool := s.storeBusy tag idx || s.merging tag idx

/-- The issuing core's L1 word. -/
def State.l1At (s : State) (tag idx : Nat) : Option L1Word := if s.onKiln then none else tfind s.l1 (l1Key s.core tag idx)

/-- States of an L1 word. -/
def isPending (w : Option L1Word) : Bool := match w with | some ⟨.pending .., _⟩ => true | _ => false
def isOwned (w : Option L1Word) : Bool := match w with | some ⟨.owned _, _⟩ => true | _ => false
/-- The age of a clean word. -/
def cleanAge (w : Option L1Word) : Option Nat := match w with | some ⟨.clean n, _⟩ => some n | _ => none

/-- An access at the home of a word must wait: a fill of its line is under way, or its own core's store awaits its grant. -/
def State.homeBusy (s : State) (tag idx : Nat) : Bool := !s.onKiln && (s.lineFilling tag || isPending (s.l1At tag idx))

/-- The core's clean copy of a word goes when the word is accessed elsewhere than in L1. -/
def State.dropOwnClean (s : State) (tag idx : Nat) : State :=
  if (cleanAge (s.l1At tag idx)).isSome then { s with l1 := tdel s.l1 (l1Key s.core tag idx) } else s

/-- One more write of the group to be performed. -/
def State.oweWrite (s : State) : State := { s with g := { s.g with outst := s.g.outst + 1 } }

/-- R71: the grid has issued a write or an atomic to a window. -/
def State.markWindow (s : State) : State :=
  { s with grids := s.grids.map (fun p => if p.1 = s.tm.grid then (p.1, { p.2 with winWrite := true }) else p) }

/-! ### Loads -/

/-- Does the page's line live in L1 (R181)? Lines of a key without a valid slot are held nowhere (R190). -/
def State.cached (s : State) (x : XOk) : Bool := x.cache == 0 && !s.onKiln && (tfind s.keys x.key).isSome

/-- The words of one 16-byte chunk of a line that an instruction reads as one (R211): whether L1 takes the line, whether the page is
commutative, so that every load goes to the home to be combined there (R188, R310), and whether the access streams. -/
structure Chunk where
  tag    : Nat
  no     : Nat
  l1     : Bool
  comm   : Bool
  stream : Bool
  idxs   : List Nat
deriving DecidableEq, Repr

/-- Does a piece lie in a chunk, as its page has it read? -/
def inChunk (s : State) (p : Piece) (e : Chunk) : Bool :=
  e.tag == p.tag && e.no == p.idx / 4 && e.l1 == s.cached p.x && e.comm == (p.x.comm != 0) && e.stream == (p.x.cache == 2)

/-- The chunks some pieces lie in. -/
def chunksOf (s : State) (ps : List Piece) : List Chunk :=
  ps.foldl (fun l p =>
    if l.any (inChunk s p) then l.map (fun e => if inChunk s p e then { e with idxs := insertNat p.idx e.idxs } else e)
    else l ++ [⟨p.tag, p.idx / 4, s.cached p.x, p.x.comm != 0, p.x.cache == 2, [p.idx]⟩]) []

/-- Do words of a line await one grant? -/
def State.oneGrant (s : State) (tag : Nat) (m : BitVec 32) : Bool :=
  s.txns.any (fun t => t.agent == .reg s.core && pktTag t.pkt == tag && m &&& ~~~ t.pkt.hdr.aux == 0)

/-- Are the words of a chunk, all held in L1, the chunk at one moment (R211)? -/
def State.together (s : State) (tag : Nat) (idxs : List Nat) : Bool :=
  let ws := idxs.map (s.l1At tag)
  ws.all Option.isSome && (decide (idxs.length < 2) || ws.all isOwned ||
    (ws.all isPending && s.oneGrant tag (maskOf idxs)) ||
    (ws.all (fun w => (cleanAge w).isSome) && ws.all (fun w => cleanAge w == cleanAge (ws.headD none))))

/-- The words of a chunk, at hand or to be asked for (`none`); none at all when the access must wait. -/
def State.readChunk (s : State) (c : Chunk) : Option (State × List (Nat × Option Word)) :=
  if c.idxs.any (s.wordBusy c.tag) then none
  else if c.l1 && !c.comm && s.together c.tag c.idxs then some (s, c.idxs.map (fun i => (i, (s.l1At c.tag i).map (·.w))))
  else if c.idxs.any (fun i => isPending (s.l1At c.tag i)) || (if c.l1 then s.lineWritten c.tag else s.lineFilling c.tag && !s.onKiln) then none
  else
    let s1 := c.idxs.foldl (fun s i => s.dropOwnClean c.tag i) s
    some (if s.onKiln then s1 else s1.staleFills s.core c.tag, c.idxs.map (fun i => (i, none)))

/-- The chunks of an instruction. -/
def State.readChunks (s : State) : List Chunk → Option (State × List (Chunk × List (Nat × Option Word)))
  | [] => some (s, [])
  | c :: r => (s.readChunk c).bind (fun (s1, ws) => (s1.readChunks r).map (fun (s2, l) => (s2, (c, ws) :: l)))

/-- The word of a piece, as its chunk gives it. -/
def needOf (s : State) (cs : List (Chunk × List (Nat × Option Word))) (p : Piece) : Need :=
  ⟨p.tag, p.idx, (cs.find? (fun c => inChunk s p c.1)).bind (fun c => (c.2.find? (fun w => w.1 == p.idx)).bind (·.2))⟩

/-- The words still to be asked for, as word masks by line tag, whether L1 takes the line, and whether the access streams. -/
def asksOf (cs : List (Chunk × List (Nat × Option Word))) : List (Nat × Bool × Bool × BitVec 32) :=
  cs.foldl (fun l c =>
    let m := maskOf ((c.2.filter (fun w => w.2.isNone)).map (·.1))
    let same := fun (e : Nat × Bool × Bool × BitVec 32) => e.1 == c.1.tag && e.2.1 == c.1.l1 && e.2.2.1 == c.1.stream
    if m = 0 then l
    else if l.any same then l.map (fun e => if same e then (e.1, e.2.1, e.2.2.1, e.2.2.2 ||| m) else e)
    else l ++ [(c.1.tag, c.1.l1, c.1.stream, m)]) []

/-- Send the reads of a load: LINE_READ for lines L1 takes, WORD_READ otherwise (R28). -/
def State.sendReads (s : State) (id : Nat) : List (Nat × Bool × Bool × BitVec 32) → Option State
  | [] => some s
  | (tag, c, st, m) :: r =>
    (if c then s.request (.load s.self id true) s.node 0 0 tag 0xffffffff []
     else s.requestAs st (.load s.self id false) s.node 0 1 tag m []).bind (fun s1 => s1.sendReads id r)

/-- The pieces of located loads in memory. -/
def piecesIn (good : List (Nat × Nat × Target)) : List Piece := good.flatMap (fun x => match x.2.2 with | .memory ps => ps | _ => [])

/-- The pending lanes of located loads of `n` bytes; window loads send their requests on the way. A host's answer begins with the
accessed byte, a peer's with the word that holds it. -/
def State.loadLanes (s : State) (id n : Nat) (need : Piece → Need) : List (Nat × Nat × Target) → Option (State × List PendLane)
  | [] => some (s, [])
  | (l, a, t) :: r =>
    match t with
    | .memory ps =>
      (s.loadLanes id n need r).map (fun (s1, ls) => (s1, { lane := l, off := a % 4, bytes := n, words := ps.map need } :: ls))
    | .window pa =>
      (s.windowLoad s.tm.part pa n s.self id).bind (fun (s1, ns) => (s1.loadLanes id n need r).map (fun (s2, ls) =>
        (s2, { lane := l, off := if (s.window s.tm.part pa).any winPeer then pa % 4 else 0, bytes := n, words := ns } :: ls)))
    | .aperture _ => s.loadLanes id n need r

/-- The reads of located lanes: what is at hand captured, the rest asked for. -/
def State.startLoads (s : State) (n : Nat) (good : List (Nat × Nat × Target)) : Option (State × List PendLane) :=
  (s.readChunks (chunksOf s (piecesIn good))).bind (fun (s1, cs) =>
    (s1.loadLanes s.g.nextId n (needOf s cs) good).bind (fun (s2, lanes) => (s2.sendReads s.g.nextId (asksOf cs)).map (fun s3 => (s3, lanes))))

/-- Add an entry to the pending set without issuing on (the lanes of an atomic); `win` when one reaches a window. -/
def State.addPend (s : State) (dest : Dest) (lanes : List PendLane) (win : Bool) : State :=
  if lanes.isEmpty then s
  else { s with g := { s.g with
    pset := s.g.pset ++ [{ s.newPend dest 1 1 false lanes with win := win }]
    nextId := s.g.nextId + 1 } }

/-- R310: the loads of located lanes: requests sent, the destinations pending; failing lanes trap. -/
def State.doLoad (s : State) (dest : Dest) (la n : Nat) (rs : List (Nat × Except LaneFail (Nat × Target))) : State :=
  match s.startLoads n (goodLanes rs) with
  | none => s.hold .retry
  | some (s1, lanes) =>
    let s2 := { s1 with glitch := 0 }
    match s2.memTrap (lostOf rs) with
    | some t => s2.trapPending t dest la false lanes
    | none => if lanes.isEmpty then s2.advance else s2.openWindow dest la false lanes

/-- Registers of a size code: bytes / 4, at least one. -/
def regsOf (bytes : Nat) : Nat := max 1 (bytes / 4)

/-- Registers a V-set address names (R306). -/
def addrNames (va sb : Nat) : Names := if sb = 63 then ⟨[(va, 2)], []⟩ else ⟨[(va, 1)], [(sb, 2)]⟩

/-- Join two name lists. -/
def Names.add (a b : Names) : Names := ⟨a.vs ++ b.vs, a.ss ++ b.ss⟩

/-- No data operand to fail, and every form allowed. -/
def noExtra : LaneCheck := fun _ _ _ => none

/-- R310 `ld`. -/
def execVLd (z : BitVec 3) (t a b : BitVec 6) (la : BitVec 4) (p : BitVec 3) (s : State) : Host.Outcome State Fault Refusal :=
  let n := 2 ^ z.toNat
  let act := s.act p.toNat
  .next (s.vGuarded act.lanes (z.toNat ≤ 4) ((addrNames a.toNat b.toNat).add ⟨[(t.toNat, regsOf n)], []⟩) (fun s =>
    if psetSize s.g + regsOf n > 8 then s.hold .retry
    else
      let (s1, rs) := s.locateAll (fun s l => s.vAddr a.toNat b.toNat l) noExtra n .load false (lanesOf act.lanes)
      s1.doLoad (.lane t.toNat (regsOf n)) la.toNat n (byLane rs (faultyLanes act.faulty))))

/-! ### Stores -/

/-- The data words of a lane's store: their residue check (R224). -/
def State.vData (s : State) (t cnt l : Nat) : Except LaneFail (List Word) := s.srcWords l ((List.range cnt).map (fun i => ⟨t + i, 3⟩))
/-- The failure of a lane's data. -/
def State.vDataBad (s : State) (t cnt l : Nat) : Option LaneFail := match s.vData t cnt l with | .error e => some e | .ok _ => none

/-- The data of word `k` of an access at byte offset `off` in its first word: a whole aligned word as it is, otherwise the
shifted data, poison when a contributing register word is poison (R183, R311). -/
def pieceData (ws : List Word) (off k : Nat) (mask : BitVec 4) : Word :=
  if off = 0 ∧ mask = 15 then nth ws k
  else
    let parts := (List.range 4).filter (fun i => mask.getLsbD i)
    if parts.any (fun i => (nth ws ((4 * k + i - off) / 4)).isPoison) then Word.poison
    else Word.ofData (BitVec.ofNat 32 (parts.foldl (fun a i =>
      let b := 4 * k + i - off
      a + (dat ws (b / 4)).toNat / 256 ^ (b % 4) % 256 * 256 ^ i) 0))

/-- Writes gathered by line: the stores of each word. -/
abbrev HomeWrites := List (Nat × List (Nat × Stores))

/-- Add bytes of a word to gathered writes, after those before (R203). -/
def gather (h : HomeWrites) (tag idx : Nat) (mask : BitVec 4) (w : Word) : HomeWrites :=
  let add := fun (l : List (Nat × Stores)) =>
    if l.any (fun e => e.1 == idx) then l.map (fun e => if e.1 == idx then (idx, addStore e.2 mask w) else e) else l ++ [(idx, [(mask, w)])]
  if h.any (fun e => e.1 == tag) then h.map (fun e => if e.1 == tag then (tag, add e.2) else e) else h ++ [(tag, add [])]

/-- The bytes that stores of a word write. -/
def storesMask (b : Stores) : BitVec 4 := b.foldl (fun m e => m ||| e.1) 0

/-- The byte mask of a line's gathered words. -/
def lineMask (l : List (Nat × Stores)) : Nat := l.foldl (fun a e => a + (storesMask e.2).toNat * 16 ^ e.1) 0

/-- A line's gathered words as a request. Words that narrower stores cover together still merge into the old words (R183). -/
def State.sendWrite (s : State) (stream : Bool) (tag : Nat) (l : List (Nat × Stores)) : Option State :=
  let aux := maskOf (l.map (·.1))
  let whole := maskOf ((l.filter (fun e => wholeStore e.2)).map (·.1))
  let fl := flitsAt aux (l.map (fun e => (e.1, layStores Word.zero e.2)))
  (if whole = aux then s.requestAs stream (.store s.self) s.node 1 0 tag aux fl
   else s.requestWhole whole stream (.store s.self) s.node 1 1 tag aux (maskFlit (lineMask l) :: fl)).map State.oweWrite

/-- Send gathered writes: WRITE when every word is whole, else MASKED_WRITE (R28); the lines of the list stream. -/
def State.sendWrites (s : State) (streams : List Nat) : HomeWrites → Option State
  | [] => some s
  | (tag, l) :: r => (s.sendWrite (streams.contains tag) tag l).bind (fun s1 => s1.sendWrites streams r)

/-- What a store instruction has gathered so far: writes to L1 and writes at a home, the lines of commutative pages, the lines that
stream, and the lines that some of its lanes reach past L1: all of the instruction's stores to one of these go to its home, where the words
of a chunk are written together (R211). -/
structure StoreAcc where
  st      : State
  l1      : HomeWrites
  home    : HomeWrites
  comms   : List Nat
  streams : List Nat
  past    : List Nat

/-- Nothing gathered yet. -/
def StoreAcc.start (s : State) (good : List (Nat × Nat × Target)) : StoreAcc :=
  ⟨s, [], [], [], [], ((piecesIn good).filter (fun p => !s.cached p.x)).map (·.tag)⟩

/-- One piece of a store (R183, R184, R185): a word is written in L1 or at its home. -/
def storePiece (x : StoreAcc) (p : Piece) (w : Word) : Option StoreAcc :=
  let s := x.st
  if s.storeBusy p.tag p.idx then none
  else if s.cached p.x && !x.past.contains p.tag then
    some { x with l1 := gather x.l1 p.tag p.idx p.mask w, comms := if p.x.comm = 0 then x.comms else insertNat p.tag x.comms }
  else if s.merging p.tag p.idx || s.homeBusy p.tag p.idx then none
  else some { x with
    st := s.dropOwnClean p.tag p.idx
    home := gather x.home p.tag p.idx p.mask w
    streams := if p.x.cache = 2 then insertNat p.tag x.streams else x.streams }

/-- The stores of located lanes, in ascending lane order (R203). -/
def storeLanes (data : State → Nat → List Word) (n : Nat) : StoreAcc → List (Nat × Nat × Target) → Option StoreAcc
  | x, [] => some x
  | x, (l, a, t) :: r =>
    let ws := data x.st l
    match t with
    | .memory ps =>
      (ps.foldlM (fun x p => storePiece x p (pieceData ws (a % 4) p.k p.mask)) x).bind (fun x1 => storeLanes data n x1 r)
    | .window pa =>
      (x.st.oweWrite.markWindow.windowStore x.st.tm.part pa n ws (.store x.st.self)).bind (fun s1 => storeLanes data n { x with st := s1 } r)
    | .aperture _ => storeLanes data n x r

/-! ### Stores in L1 (R183, R184, R211, R212) -/

/-- Stores of a word over what L1 holds of it. -/
def overWord (old : Option L1Word) (b : Stores) : Word := layStores ((old.map (·.w)).getD Word.poison) b

/-- A word of a chunk all of whose stored words are registered to the core: the store is performed. -/
def State.storeOwned (s : State) (tag : Nat) (e : Nat × Stores) : State :=
  { s with l1 := tins s.l1 (l1Key s.core tag e.1) ⟨.owned true, overWord (s.l1At tag e.1) e.2⟩ }

/-- A word whose registration is under way: the stores follow those before and are performed with them (R184). -/
def State.storeJoin (s : State) (tag : Nat) (e : Nat × Stores) : State :=
  match s.l1At tag e.1 with
  | some ⟨.pending ws d b, old⟩ =>
    let put := fun (s : State) (ws : List GroupRef) =>
      ({ s with l1 := tins s.l1 (l1Key s.core tag e.1) ⟨.pending ws d (joinStores b e.2), overWord (some ⟨.clean 0, old⟩) e.2⟩ } : State)
    if ws.contains s.self then put s ws else put s.oweWrite (ws ++ [s.self])
  | _ => s

/-- A word to be registered. -/
def State.storeFresh (s : State) (tag : Nat) (e : Nat × Stores) : State :=
  { s.oweWrite with l1 := tins s.l1 (l1Key s.core tag e.1) ⟨.pending [s.self] false e.2, overWord (s.l1At tag e.1) e.2⟩ }

/-- The sub-word stores of the issuing core that await words of a chunk. -/
def State.chunkMerges (s : State) (tag no : Nat) : List Merge :=
  if s.onKiln then [] else s.merges.filter (fun m => m.core == s.core && m.tag == tag && m.idx / 4 == no)

/-- A word of a chunk that awaits words of its line (R183), behind the stores of it that do already. -/
def State.storeMerge (s : State) (tag : Nat) (e : Nat × Stores) : State :=
  let got := ((s.chunkMerges tag (e.1 / 4)).find? (fun m => m.idx == e.1)).bind (·.got)
  { s.oweWrite with merges := s.merges ++ [⟨s.core, tag, e.1, e.2, s.self, got⟩] }

/-- The stored words of one chunk, which are performed together (R211): the state, the words to register, and whether the line's words
must be read; none when the store must wait. -/
def State.storeChunk (s : State) (tag : Nat) (comm : Bool) (ws : List (Nat × Stores)) : Option (State × BitVec 32 × Bool) :=
  let st := ws.map (fun e => s.l1At tag e.1)
  let m := maskOf (ws.map (·.1))
  let wait := s.chunkMerges tag ((ws.map (·.1)).headD 0 / 4)
  if st.all isOwned && !comm then some (ws.foldl (fun s e => s.storeOwned tag e) s, 0, false)
  else if st.all isPending && !comm && (decide (ws.length < 2) || s.oneGrant tag m) then
    some (ws.foldl (fun s e => s.storeJoin tag e) s, 0, false)
  else if st.any isPending || st.any isOwned then none
  else if !wait.isEmpty || ws.any (fun e => !wholeStore e.2 && (s.l1At tag e.1).isNone) then
    some (ws.foldl (fun s e => s.storeMerge tag e) s, 0, ws.any (fun e => !wait.any (fun m => m.idx == e.1)))
  else some (ws.foldl (fun s e => s.storeFresh tag e) s, m, false)

/-- Gathered words by chunk, in ascending order. -/
def byChunk (ws : List (Nat × Stores)) : List (List (Nat × Stores)) :=
  ((List.range 8).map (fun c => ws.filter (fun e => e.1 / 4 == c))).filter (fun l => !l.isEmpty)

/-- The stored words of a line. -/
def State.storeChunks (s : State) (tag : Nat) (comm : Bool) : List (List (Nat × Stores)) → Option (State × BitVec 32 × Bool)
  | [] => some (s, 0, false)
  | c :: r => (s.storeChunk tag comm c).bind (fun (s1, m, f) => (s1.storeChunks tag comm r).map (fun (s2, m2, f2) => (s2, m ||| m2, f || f2)))

/-- The cached stores of an instruction: one REGISTER per line (R184), one LINE_READ per line whose words are awaited (R183). -/
def State.storeLines (s : State) (comms : List Nat) : HomeWrites → Option State
  | [] => some s
  | (tag, ws) :: r =>
    (((s.l1Room s.core tag).staleFills s.core tag).storeChunks tag (comms.contains tag) (byChunk ws)).bind (fun (s1, m, f) =>
      (if m = 0 then some s1 else s1.request (.reg s1.core) s1.node 4 0 tag m []).bind (fun s2 =>
        (if f then s2.request (.merge s2.core (!s2.lineWritten tag)) s2.node 0 0 tag 0xffffffff [] else some s2).bind (fun s3 => s3.storeLines comms r)))

/-- Send the write-back of words of a core's line; none while no transaction is free. -/
def State.sendBack (s : State) (core tag : Nat) (ws : List (Nat × Word)) : Option State :=
  let aux := maskOf (ws.map (·.1))
  s.request (.writeback core) (core / 64) 1 2 tag aux (flitsAt aux ws)

/-- The registered words of a line that the core must give up before a store: their chunk's other stored words are not its own, so that
they could not be performed together (R211), or the page is commutative and its partials are to be combined first (R188). -/
def State.givesUp (s : State) (comms : List Nat) (tag : Nat) (ws : List (Nat × Stores)) : List (Nat × Word) :=
  (byChunk ws).flatMap (fun c =>
    let st := c.map (fun e => s.l1At tag e.1)
    if st.any isOwned && (!st.all isOwned || comms.contains tag) then
      c.filterMap (fun e => match s.l1At tag e.1 with | some ⟨.owned _, w⟩ => some (e.1, w) | _ => none)
    else [])

/-- Words of a line go back to their home and leave L1; nothing happens while no transaction is free. -/
def State.returnWords (s : State) (tag : Nat) (ws : List (Nat × Word)) : State :=
  match s.sendBack s.core tag ws with
  | some s1 => ({ s1 with l1 := ws.foldl (fun (t : Table L1Word) w => tdel t (l1Key s.core tag w.1)) s1.l1 } : State).staleFills s.core tag
  | none => s

/-- Such words go back to their homes; true when there were any. -/
def State.giveUp (s : State) (x : StoreAcc) : State × Bool :=
  x.l1.foldl (fun (s, b) e =>
    match s.givesUp x.comms e.1 e.2 with
    | [] => (s, b)
    | ws => (s.returnWords e.1 ws, true)) (s, false)

/-- Everything a store instruction gathered takes effect; none when it must wait. -/
def StoreAcc.finish (x : StoreAcc) : Option State := (x.st.storeLines x.comms x.l1).bind (fun s1 => s1.sendWrites x.streams x.home)

/-- R312: the copy starts of located lanes, in ascending lane order; the lanes left when the team's unstarted jobs reach 64. -/
def State.startCopies (s : State) (data : State → Nat → List Word) : List (Nat × Nat × Target) → State × List Nat
  | [] => (s, [])
  | (l, a, .aperture ch) :: r =>
    if s.unstartedJobs ≥ 64 then (s, l :: r.filterMap (fun x => match x.2.2 with | .aperture _ => some x.1 | _ => none))
    else
      let ws := data s l
      let _ := a
      (s.admitCopy ch (dat64 ws 0)).startCopies data r
  | _ :: r => s.startCopies data r

/-- R312: poisoned data of a copy start fails its lane. -/
def copyForm (data : State → Nat → List Word) (s : State) (l : Nat) : Nat × Target → Option LaneFail
  | (_, .aperture _) => if (data s l).any Word.isPoison then some (.poison 0) else none
  | _ => none

/-- R311, R312: the stores of located lanes. A store that starts copies is a release toward them (R213), so it waits for the
group's outstanding writes. -/
def State.doStore (s : State) (data : State → Nat → List Word) (n : Nat) (rs : List (Nat × Except LaneFail (Nat × Target))) : State :=
  let good := goodLanes rs
  let starts := good.any (fun x => match x.2.2 with | .aperture _ => true | _ => false)
  if starts && s.g.outst ≠ 0 then s.hold .retry
  else match storeLanes data n (StoreAcc.start s good) good with
    | none => s.hold .retry
    | some x =>
      let (s0, gave) := s.giveUp x
      if gave then s0.hold .retry
      else match x.finish with
      | none => s.hold .retry
      | some s1 =>
        let (s2, left) := { s1 with glitch := 0 }.startCopies data good
        if !left.isEmpty then
          { s2 with g := { s2.g with pend := maskOf (left ++ (lostOf rs).map (·.1)), wait := .retry } }
        else match s2.memTrap (lostOf rs) with
          | some t => s2.raise t
          | none => s2.advance

/-- The data words of a lane. -/
def State.vDataWords (t cnt : Nat) (s : State) (l : Nat) : List Word := (List.range cnt).map (fun i => s.v (t + i) l)

/-- What fails a lane of a store beside its address (R311, R312). -/
def vStoreBad (t cnt : Nat) : LaneCheck := bothChecks (fun s l => s.vDataBad t cnt l) (copyForm (State.vDataWords t cnt))

/-- R311: the shared form of `st` and `cpy`. -/
def vStore (t a b : BitVec 6) (z : Nat) (p : BitVec 3) (s : State) : State :=
  let n := 2 ^ z
  let act := s.act p.toNat
  s.vGuarded act.lanes (z ≤ 4) ((addrNames a.toNat b.toNat).add ⟨[(t.toNat, regsOf n)], []⟩) (fun s =>
    let (s1, rs) := s.locateAll (fun s l => s.vAddr a.toNat b.toNat l) (vStoreBad t.toNat (regsOf n)) n .store false (lanesOf act.lanes)
    s1.doStore (State.vDataWords t.toNat (regsOf n)) n (byLane rs (faultyLanes act.faulty)))

/-- R311 `st`. -/
def execVSt (t a b : BitVec 6) (z p : BitVec 3) (s : State) : Host.Outcome State Fault Refusal := .next (vStore t a b z.toNat p s)
/-- R312 `cpy`: `st.b64`. -/
def execVCpy (t a b : BitVec 6) (p : BitVec 3) (s : State) : Host.Outcome State Fault Refusal := .next (vStore t a b 3 p s)

/-! ### Atomics and reductions (R314–R318) -/

/-- Size in bytes of an `aop`. -/
def aopBytes (o : Nat) : Nat := if o = 1 ∨ o = 12 ∨ o = 14 then 8 else 4
/-- Registers that hold the operands. -/
def aopRegs (o : Nat) : Nat := if o = 14 then 4 else if o = 1 ∨ o = 12 ∨ o = 13 then 2 else 1
/-- Registers that receive the old value. -/
def aopOld (o : Nat) : Nat := aopBytes o / 4
/-- R314: the values of scope, order and `aop` an atomic, or a reduction, may have. -/
def aopLegal (red : Bool) (scope order aop : Nat) : Bool :=
  scope ≤ 5 && order ≤ 4 && (if red then aop ≤ 10 && (order == 0 || order == 2) else aop ≤ 14)

/-- R188: the commutative kind a reduction's operation fits. -/
def aopKind (aop : Nat) : Nat := if aop = 0 then 2 else if aop = 2 then 1 else if aop = 3 then 3 else 0

/-- Order by a free number: the order in which the lanes of one atomic reach their homes (R203). -/
def insertFree (no : Nat) (x : Nat × Nat × Target) : List (Nat × Nat × Target) → List (Nat × Nat × Target)
  | [] => [x]
  | y :: r => if Config.freeOrder (no + x.1) < Config.freeOrder (no + y.1) then x :: y :: r else y :: insertFree no x r

/-- The operand flit of ATOMIC (R28). -/
def operandFlit (aop : Nat) (red : Bool) (ops : List Word) : List Word :=
  (List.range 4).map (nth ops) ++ [Word.ofData (BitVec.ofNat 32 (aop + if red then 16 else 0))] ++ List.replicate 3 Word.zero

/-- R188: a reduction into an L1 partial, for which the L1 has room (R11); the home notes the holder. The core's clean copy of the word goes. -/
def State.addPartial (s : State) (p : Piece) (kind : Nat) (w : Word) : State :=
  let k := l1Key s.core p.tag p.idx
  let s0 := ((s.l1Room s.core p.tag).dropOwnClean p.tag p.idx).staleFills s.core p.tag
  let (s1, ws) := s0.redChecked s0.self (tagLine p.tag) [commAdd kind (tget s0.partials k Word.zero) w]
  let o := tget s1.own p.tag (OwnLine.empty s1.ownNo)
  { s1 with
    partials := tins s1.partials k (nth ws 0)
    commKinds := tins s1.commKinds p.tag kind
    own := tins s1.own p.tag { o with holders := insertNat s1.core o.holders }
    ownNo := s1.ownNo + 1 }

/-- One lane's atomic or reduction (R315, R316) -/
def State.atomLane (s : State) (aop : Nat) (red : Bool) (id : Nat) (ops : List Word) (l : Nat) (t : Target) : Option State :=
  match t with
  | .memory [] => some s
  | .memory (p :: ps) =>
    let all := p :: ps
    if red && s.cached p.x && p.x.comm ≠ 0 && p.x.comm = aopKind aop then
      (if s.loadAwaits p.tag p.idx || s.merging p.tag p.idx || isPending (s.l1At p.tag p.idx) then none else some (s.addPartial p p.x.comm (nth ops 0)))
    else if all.any (fun q => s.loadAwaits q.tag q.idx || s.merging q.tag q.idx || s.homeBusy q.tag q.idx) then none
    else
      let s1 := all.foldl (fun s q => s.dropOwnClean q.tag q.idx) s
      let aux := maskOf (all.map (·.idx))
      let st := p.x.cache == 2
      if red then (s1.requestAs st (.store s1.self) s1.node 1 3 p.tag aux [operandFlit aop true ops]).map State.oweWrite
      else s1.requestAs st (.atom s1.self id l) s1.node 1 3 p.tag aux [operandFlit aop false ops]
  | .window pa =>
    if red then s.oweWrite.markWindow.windowAtomic s.tm.part pa aop true ops (.store s.self)
    else s.markWindow.windowAtomic s.tm.part pa aop false ops (.atom s.self id l)
  | .aperture _ => some s

/-- The atomics of lanes, in a free order (R203). -/
def State.atomLanes (s : State) (aop : Nat) (red : Bool) (id : Nat) (data : State → Nat → List Word) :
    List (Nat × Nat × Target) → Option State
  | [] => some s
  | (l, _, t) :: r => (s.atomLane aop red id (data s l) l t).bind (fun s1 => s1.atomLanes aop red id data r)

/-- R318: on a window only the marked forms. -/
def windowForm (aop : Nat) (red : Bool) (_ : State) (_ : Nat) : Nat × Target → Option LaneFail
  | (a, .window _) => if aop = 1 ∨ (aop = 14 ∧ !red) then none else some (addrFail cPerm 0 a .atomic false)
  | _ => none

/-- R315–R318: the atomics of located lanes. An atomic holds the group until its old values are written, its word kept for its acquire, which
comes before a trap of its other lanes (R317); a reduction goes on. -/
def State.doAtom (s : State) (word : BitVec 32) (aop : Nat) (red : Bool) (dest : Dest) (data : State → Nat → List Word)
    (rs : List (Nat × Except LaneFail (Nat × Target))) : State :=
  let good := goodLanes rs
  let id := s.g.nextId
  let lanes := good.map (fun x => ({ lane := x.1, off := 0, bytes := aopBytes aop, words := [] } : PendLane))
  let win := good.any (fun x => match x.2.2 with | .window _ => true | _ => false)
  let s0 := if red then s else s.addPend dest lanes win
  if (piecesIn good).any (fun q => s.ownWritten q.tag q.idx) then s.hold .retry
  else match ({ s0 with freeNo := s0.freeNo + 32 }).atomLanes aop red id data (good.foldr (insertFree s.freeNo) []) with
  | none => s.hold .retry
  | some s1 =>
    let s2 := { s1 with glitch := 0 }
    let t := s2.memTrap (lostOf rs)
    if red || good.isEmpty then s2.trapOr t
    else if s2.g.pset.all (fun e => e.id != id) then (s2.atomAcquire word win).trapOr t
    else ({ s2 with g := { s2.g with waitI := word, due := t } }).hold (.atom id)

/-- Operand failures of a lane's atomic (R163, R315). -/
def State.vAtomBad (s : State) (t cnt l : Nat) : Option LaneFail :=
  match s.vUse l ((List.range cnt).map (fun i => ⟨t + i, 3⟩)) 3 with
  | .error e => some e
  | .ok _ => none

/-- R314: the shared form of `atom` and `red`. -/
def vAtomic (red : Bool) (word : BitVec 32) (t a : BitVec 6) (sc o : BitVec 3) (k : BitVec 4) (p : BitVec 3) (s : State) : State :=
  let aop := k.toNat
  let n := aopBytes aop
  let act := s.act p.toNat
  s.vGuarded act.lanes (aopLegal red sc.toNat o.toNat aop) ⟨[(a.toNat, 2), (t.toNat, aopRegs aop)], []⟩ (fun s =>
    if ordRel o.toNat && !releaseReady s.g then s.hold .release
    else
      let (s1, rs) := s.locateAll (fun s l => s.vAddr a.toNat 63 l) (bothChecks (fun s l => s.vAtomBad t.toNat (aopRegs aop) l) (windowForm aop red)) n
        .atomic true (lanesOf act.lanes)
      s1.doAtom word aop red (.lane t.toNat (aopOld aop)) (State.vDataWords t.toNat (aopRegs aop)) (byLane rs (faultyLanes act.faulty)))

/-- R314 `atom`. -/
def execVAtom (t a : BitVec 6) (sc o : BitVec 3) (k : BitVec 4) (p : BitVec 3) (s : State) : Host.Outcome State Fault Refusal :=
  .next (vAtomic false ((encode (.vAtom t a sc o k p)).getD 0) t a sc o k p s)
/-- R316 `red`. -/
def execVRed (t a : BitVec 6) (sc o : BitVec 3) (k : BitVec 4) (p : BitVec 3) (s : State) : Host.Outcome State Fault Refusal :=
  .next (vAtomic true 0 t a sc o k p s)

/-! ### Prefetch and discard (R319) -/

/-- Distinct lines of located lanes that are memory, with their pages. -/
def linesOf (good : List (Nat × Nat × Target)) : List Piece :=
  (good.filterMap (fun x => match x.2.2 with | .memory (p :: _) => some p | _ => none)).foldl
    (fun l p => if l.any (fun q => q.tag == p.tag) then l else l ++ [p]) []

/-- R319 `pref`: it never traps and changes no value; what cannot be asked for is not. -/
def vPref (l2 : Bool) (a b : BitVec 6) (p : BitVec 3) (s : State) : State :=
  let act := s.act p.toNat
  s.vGuarded act.lanes true (addrNames a.toNat b.toNat) (fun s =>
    let (s1, rs) := s.locateAll (fun s l => s.vAddr a.toNat b.toNat l) noExtra 1 .load false (lanesOf act.lanes)
    let ps := (linesOf (goodLanes rs)).filter (fun q => q.x.cache < 2)
    let s2 := ps.foldl (fun s q =>
      if l2 then (s.request (.prefetch s.core false) s.node 0 2 q.tag 0 []).getD s
      else if s.cached q.x && !(List.range 32).all (fun i => (tfind s.l1 (l1Key s.core q.tag i)).isSome) then
        ((s.staleFills s.core q.tag).request (.prefetch s.core (!s.lineWritten q.tag)) s.node 0 0 q.tag 0xffffffff []).getD s
      else s) s1
    { s2 with glitch := 0 }.advance)

/-- R319 `pref.l1`. -/
def execVPrefL1 (a b : BitVec 6) (p : BitVec 3) (s : State) : Host.Outcome State Fault Refusal := .next (vPref false a b p s)
/-- R319 `pref.l2`. -/
def execVPrefL2 (a b : BitVec 6) (p : BitVec 3) (s : State) : Host.Outcome State Fault Refusal := .next (vPref true a b p s)

/-- R319: `disc` on a window raises PERM_FAULT. -/
def discForm : LaneCheck
  | _, _, some (_, .memory _) => none
  | _, _, some (a, _) => some (addrFail cPerm 0 a .store false)
  | _, _, none => none

/-- Send the discards of lines: one DISCARD a line; the group's own order as for a store at the home. -/
def State.sendDiscs (s : State) : List Piece → Option State
  | [] => some s
  | p :: r =>
    let ws := List.range 32
    if ws.any (fun i => s.wordBusy p.tag i || s.homeBusy p.tag i) then none
    else
      ((ws.foldl (fun s i => s.dropOwnClean p.tag i) s).requestAs (p.x.cache == 2) (.store s.self) s.node 1 4 p.tag 0xffffffff []).bind (fun s1 => s1.oweWrite.sendDiscs r)

/-- R319 `disc`. -/
def execVDisc (a b : BitVec 6) (p : BitVec 3) (s : State) : Host.Outcome State Fault Refusal :=
  let act := s.act p.toNat
  .next (s.vGuarded act.lanes true (addrNames a.toNat b.toNat) (fun s =>
    let (s1, rs0) := s.locateAll (fun s l => s.vAddr a.toNat b.toNat l) discForm 1 .store false (lanesOf act.lanes)
    let rs := byLane rs0 (faultyLanes act.faulty)
    match s1.sendDiscs (linesOf (goodLanes rs)) with
    | none => s1.hold .retry
    | some s2 =>
      let s3 := { s2 with glitch := 0 }
      match s3.memTrap (lostOf rs) with
      | some t => s3.raise t
      | none => s3.advance))

/-! ### Scratchpad (R313) -/

/-- A scratchpad location: the team's key and the byte offset. -/
abbrev ScrAt := Nat × Nat

/-- The resident teams of a grid. -/
def State.residents (s : State) (grid : Nat) : List (Nat × Team) :=
  (s.teams.map (fun p => (p.1, (s.teamAt p.1).getD p.2))).filter (fun p => p.2.grid == grid)

/-- The failure of a scratchpad access, at its byte offset (R307). -/
def scrFail (x : Nat) (store : Bool) : LaneFail := ⟨cPerm, 0, x, store, false⟩

/-- R313: where a lane's scratchpad access of `n` bytes goes. -/
def State.scrLocate (s : State) (cl store : Bool) (x n : Nat) : Except LaneFail ScrAt :=
  if x % n ≠ 0 then .error (scrFail (if cl then x % 2 ^ 22 else x) store)
  else if !cl then
    (if x + n > 4096 * s.tm.scratchN then .error (scrFail x store) else .ok (grpKey s.self, x))
  else
    let off := x % 2 ^ 22
    match (s.residents s.tm.grid).filter (fun p => s.clusterOf (p.2.die * 64 + p.2.core) == s.clusterOf s.core &&
        (s.coreAt (p.2.die * 64 + p.2.core)).enabled && p.2.t % 1024 == x / 2 ^ 22) with
    | [(k, t)] => if off + n > 4096 * t.scratchN || t.sampled then .error (scrFail off store) else .ok (k, off)
    | _ => .error (scrFail off store)

/-- R313: a lane's location, from its register and the scaled offset, checked as a result. -/
def State.scrAddr (s : State) (cl store : Bool) (va off n l : Nat) : Except LaneFail ScrAt :=
  match s.srcWords l [⟨va, 1⟩] with
  | .error e => .error e
  | .ok ws =>
    if ws.any Word.isPoison then .error (.poison 0)
    else if bit s.glitch l then .error (.rc 0)
    else s.scrLocate cl store (((dat ws 0).toNat + off * n) % 2 ^ 32) n

/-- A scratchpad word of a resident team. -/
def State.scrWord (s : State) (key idx : Nat) : Word :=
  match s.teamAt key with | some t => tget t.scratch idx Word.zero | none => Word.poison
/-- Write bytes of a scratchpad word. -/
def State.scrWrite (s : State) (key idx : Nat) (mask : BitVec 4) (w : Word) : State :=
  s.modTeam key (fun t => { t with scratch := tset t.scratch idx (if mask = 15 then w else mergeWord mask (tget t.scratch idx Word.zero) w) Word.zero })

/-- R313: the shared form of `lds` and `ldcl`: the words are captured at issue, written at their return. -/
def vScrLoad (cl : Bool) (t a : BitVec 6) (z : BitVec 2) (o la : BitVec 4) (p : BitVec 3) (s : State) : State :=
  let n := 4 * 2 ^ z.toNat
  let act := s.act p.toNat
  s.vGuarded act.lanes (z.toNat < 3) ⟨[(a.toNat, 1), (t.toNat, n / 4)], []⟩ (fun s =>
    if psetSize s.g + n / 4 > 8 then s.hold .retry
    else
      let rs := byLane ((lanesOf act.lanes).map (fun l => (l, s.scrAddr cl false a.toNat o.toNat n l))) (faultyLanes act.faulty)
      let lanes := (goodLanes rs).map (fun x => ({ lane := x.1, off := 0, bytes := n, words := (List.range (n / 4)).map (fun i =>
        ⟨0, 0, some (s.scrWord x.2.1 (x.2.2 / 4 + i))⟩) } : PendLane))
      let s1 := { s with glitch := 0 }
      match s1.memTrap (lostOf rs) with
      | some tr => s1.trapPending tr (.lane t.toNat (n / 4)) la.toNat false lanes
      | none => if lanes.isEmpty then s1.advance else s1.openWindow (.lane t.toNat (n / 4)) la.toNat false lanes)

/-- R313 `lds`. -/
def execVLds (t a : BitVec 6) (z : BitVec 2) (o l : BitVec 4) (p : BitVec 3) (s : State) : Host.Outcome State Fault Refusal :=
  .next (vScrLoad false t a z o l p s)
/-- R313 `ldcl`. -/
def execVLdcl (t a : BitVec 6) (z : BitVec 2) (o l : BitVec 4) (p : BitVec 3) (s : State) : Host.Outcome State Fault Refusal :=
  .next (vScrLoad true t a z o l p s)

/-- R313: the shared form of `sts` and `stcl`. -/
def vScrStore (cl : Bool) (t a o : BitVec 6) (z : BitVec 3) (p : BitVec 3) (s : State) : State :=
  let n := 2 ^ z.toNat
  let act := s.act p.toNat
  s.vGuarded act.lanes (z.toNat ≤ 4) ⟨[(a.toNat, 1), (t.toNat, regsOf n)], []⟩ (fun s =>
    let rs := byLane ((lanesOf act.lanes).map (fun l =>
      (l, match s.scrAddr cl true a.toNat o.toNat n l with
        | .error e => Except.error (worse e (s.vDataBad t.toNat (regsOf n) l))
        | .ok x => (match s.vDataBad t.toNat (regsOf n) l with | some e => .error e | none => .ok x)))) (faultyLanes act.faulty)
    if (goodLanes rs).any (fun x => s.scrHeld x.2.1 x.2.2 n) then s.hold .retry
    else
    let s1 := (goodLanes rs).foldl (fun s x =>
      let ws := State.vDataWords t.toNat (regsOf n) s x.1
      (List.range (regsOf n)).foldl (fun s i =>
        let m := byteMask x.2.2 n ((x.2.2 / 4 + i) * 4)
        s.scrWrite x.2.1 (x.2.2 / 4 + i) m (pieceData ws (x.2.2 % 4) i m)) s) { s with glitch := 0 }
    match s1.memTrap (lostOf rs) with
    | some tr => s1.raise tr
    | none => s1.advance)

/-- R313 `sts`. -/
def execVSts (t a o : BitVec 6) (z p : BitVec 3) (s : State) : Host.Outcome State Fault Refusal := .next (vScrStore false t a o z p s)
/-- R313 `stcl`. -/
def execVStcl (t a o : BitVec 6) (z p : BitVec 3) (s : State) : Host.Outcome State Fault Refusal := .next (vScrStore true t a o z p s)

/-! ### Channels (R199, R200, R325, R326) -/

/-- The entry of a channel of the issuing team's grid: producer, consumer, ring offset, slots. -/
def State.channel (s : State) (c : Nat) : Option (Nat × Nat × Nat × Nat) := (tfind s.grids s.tm.grid).bind (fun g => g.chans[c]?)
/-- The endpoint state of a channel of the issuing team. -/
def State.endpoint (s : State) (c : Nat) : Endpoint := tget s.tm.chans c ⟨0, 0⟩
/-- Update it. -/
def State.setEndpoint (s : State) (c : Nat) (e : Endpoint) : State := { s with tm := { s.tm with chans := tins s.tm.chans c e } }
/-- The resident team of the grid with linear index `t`. -/
def State.teamOfGrid (s : State) (t : Nat) : Option Team := ((s.residents s.tm.grid).find? (fun p => p.2.t == t)).map (·.2)

/-- The address word of SLOT and CREDIT (R28). -/
def slotWord (t : Team) (c n : Nat) : Nat := t.core % 32 + c * 2 ^ 5 + t.slot * 2 ^ 11 + n * 2 ^ 16

/-- The traps common to both channel instructions: the checks at issue, then poison in a slot to be sent, which comes before a faulty guard
(R158); then the effect on the active lanes, if there are any. -/
def State.chanOp (s : State) (p c : Nat) (names : Names) (side : Nat × Nat × Nat × Nat → Nat) (poison : State → BitVec 32 → BitVec 32)
    (k : State → BitVec 32 → Nat × Nat × Nat × Nat → State) : State :=
  let act := s.act p
  s.vGuarded act.lanes true names (fun s =>
    if act.lanes = 0 ∧ act.faulty = 0 then s.advance
    else if act.lanes = 0 then s.raise (Trap.plain cResidue 4 act.faulty s.g.exec)
    else match s.channel c with
      | none => s.raiseAll cChannel c act.lanes
      | some e =>
        if side e ≠ s.tm.t then s.raiseAll cChannel c act.lanes
        else if act.faulty ≠ 0 then
          (if poison s act.lanes ≠ 0 then s.raise (Trap.plain cPoison 4 (poison s act.lanes) (act.lanes ||| act.faulty))
           else s.raise (Trap.plain cResidue 4 act.faulty s.g.exec))
        else k s act.lanes e)

/-- The lanes whose slot word is poison. -/
def State.poisonIn (s : State) (v : Nat) (lanes : BitVec 32) : BitVec 32 := maskOf ((lanesOf lanes).filter (fun l => (s.v v l).isPoison))

/-- R326 `chsend`. -/
def execVChsend (a c : BitVec 6) (p : BitVec 3) (s : State) : Host.Outcome State Fault Refusal :=
  let ch := c.toNat
  .next (s.chanOp p.toNat ch ⟨[(a.toNat, 1)], []⟩ (·.1) (fun s m => s.poisonIn a.toNat m) (fun s lanes e =>
    let ep := s.endpoint ch
    let bad := maskOf ((lanesOf lanes).filter (fun l => !(s.v a.toNat l).checks))
    let poi := s.poisonIn a.toNat lanes
    if (ep.sent - ep.received).toNat ≥ e.2.2.2 then s.hold (.chsend ch)
    else if poi ≠ 0 then s.raise (Trap.plain cPoison 4 poi lanes)
    else if bad ≠ 0 then s.raise (Trap.plain cResidue 1 bad lanes)
    else if !releaseReady s.g then s.hold .release
    else match s.teamOfGrid e.2.1 with
      | none => s.hold (.chsend ch)
      | some t =>
        let slot := (List.range 32).map (fun l => if bit lanes l then s.v a.toNat l else Word.zero)
        match s.ask (.slot s.self ch) s.node 6 (fun id => mkPacket 6 0 s.node t.die id (slotWord t ch (ep.sent.toNat % 64)) 0 (t.core / 32 == 1)
            0xffffffff (windowFlits 0xffffffff slot)) with
        | none => s.hold .retry
        | some s1 => (s1.setEndpoint ch { ep with sent := ep.sent + 1 }).oweWrite.advance))

/-- R326 `chrecv`. -/
def execVChrecv (d c : BitVec 6) (p : BitVec 3) (s : State) : Host.Outcome State Fault Refusal :=
  let ch := c.toNat
  .next (s.chanOp p.toNat ch ⟨[(d.toNat, 1)], []⟩ (·.2.1) (fun _ _ => 0) (fun s lanes e =>
    let ep := s.endpoint ch
    if ep.received = ep.sent then s.hold (.chrecv ch)
    else
      let w := fun l => s.scrWord (grpKey s.self) ((e.2.2.1 + 128 * (ep.received.toNat % e.2.2.2)) / 4 + l)
      let bad := maskOf ((lanesOf lanes).filter (fun l => !(w l).checks))
      if bad ≠ 0 then s.raise (Trap.plain cResidue 0 bad lanes)
      else
        let s1 := (lanesOf lanes).foldl (fun s l => s.setV d.toNat l (w l)) s
        let s2 := (s1.setEndpoint ch { ep with received := ep.received + 1 }).acquire 4
        let s3 := match s2.teamOfGrid e.1 with
          | some t => s2.send (mkPacket 6 1 s2.node t.die 0 (slotWord t ch ((ep.received + 1).toNat)) 0 (t.core / 32 == 1) 0 [])
          | none => s2
        s3.advance))

/-! ### The arrival of a load's data (R135, R294) -/

/-- The destination words of a lane's load: whole aligned words as they are; otherwise assembled from the bytes, poison when a
contributing word is; `none` when a contributing word fails its check (R224, R310). -/
def assembled (l : PendLane) : List (Option Word) :=
  let ws := l.words.map (fun n => n.got.getD Word.poison)
  (List.range (regsOf l.bytes)).map (fun j =>
    if l.off = 0 ∧ l.bytes ≥ 4 then (let w := nth ws j; if w.checks then some w else none)
    else
      let bs := List.range (min 4 l.bytes)
      let src := fun b => nth ws ((l.off + 4 * j + b) / 4)
      if bs.any (fun b => (src b).isPoison) then some Word.poison
      else if bs.any (fun b => !(src b).checks) then none
      else some (Word.ofData (BitVec.ofNat 32 (bs.foldl (fun a b =>
        a + (src b).data.toNat / 256 ^ ((l.off + 4 * j + b) % 4) % 256 * 256 ^ b) 0))))

/-- The address of the line in which a lane's word failed its check (R135). -/
def badLine (l : PendLane) : Option Nat :=
  (l.words.find? (fun n => match n.got with | some w => !w.checks | none => false)).map (fun n => tagLine n.tag * 128)

/-- The lanes of a pending result that failed: those of the team's lanes, every lane of EXEC for a uniform one. -/
def State.badMask (s : State) (bad : List (Nat × List (Option Word))) : BitVec 32 :=
  if bad.any (fun o => o.1 == uniLane) then s.g.exec else maskOf (bad.map (·.1))

/-- The record of a result that failed its check behind a later instruction (R135). -/
def State.lateRecord (s : State) (e : Pend) (mask : BitVec 32) : State :=
  let line := e.lanes.findSome? (fun l => if (assembled l).any Option.isNone then badLine l else none)
  s.record (s.resultRec e.pc mask (if e.vr1 then 0 else line.getD 0))

/-- A pending result arrives (R135): with `la` = 0 the lanes that fail their check trap and the others commit; with `la` above
0 a failing word is written as poison and recorded. The entry leaves the pending set. -/
def State.arrive (s : State) (r : GroupRef) (id : Nat) (vr1 : Bool) : State :=
  s.inGroup r (fun s =>
    match s.g.pset.find? (fun p => p.id == id && p.vr1 == vr1 && p.complete) with
    | none => s
    | some e =>
      let s0 := { s with g := { s.g with pset := s.g.pset.filter (fun p => p.id != id) } }
      if (match e.dest with | .check _ => true | _ => false) then
        (s0.putResult e uniLane (e.lanes.flatMap (fun l => l.words.map (fun n => n.got.getD Word.poison)))).takeDue
      else
      let outs := e.lanes.map (fun l => (l.lane, assembled l))
      let bad := outs.filter (fun o => o.2.any Option.isNone)
      let mask := s.badMask bad
      let s1 := outs.foldl (fun s o =>
        if e.la = 0 && o.2.any Option.isNone then s else s.putResult e o.1 (o.2.map (fun w => w.getD Word.poison))) s0
      if s.g.wait = .load id then
        match s1.g.due with
        | some t => ({ s1 with g := { s1.g with due := none, wait := .none } }).raise (t.join mask)
        | none => if bad.isEmpty then s1.advance else s1.raise (Trap.plain cResidue 0 mask mask)
      else (if bad.isEmpty then s1 else s1.lateRecord e mask).takeDue)

/-- R135 LOAD_RETURN. -/
def execLoadReturn (r : GroupRef) (id : Nat) (s : State) : Host.Outcome State Fault Refusal := .next (s.arrive r id false)
/-- R294 VR1_RESULT. -/
def execVr1Result (r : GroupRef) (id : Nat) (s : State) : Host.Outcome State Fault Refusal := .next (s.arrive r id true)

end Sys2Proof.Machine
end

