-- ==== Sys2Proof/Machine/UniformMem.lean ====
section
/-! DEFINITION. Uniform memory accesses and copy completion (R320–R324). -/

namespace Sys2Proof.Machine

/-- R89: a prologue's memory accesses are performed in program order: each waits until those before it have been. -/
def State.inOrder (s : State) (k : State → State) : State := if s.onKiln && !releaseReady s.g then s.hold .release else k s

/-- R320: the address of a uniform access, or its failure. -/
def State.uAddr (s : State) (sa off : Nat) : Except LaneFail Nat :=
  match s.sUse (srcPair sa 1) 0 with
  | .error e => .error e
  | .ok ws => .ok (((dat64 ws 0).toNat + off) % 2 ^ 64)

/-- The data words of a uniform store or atomic, and their failure. -/
def State.uData (t cnt : Nat) (s : State) (_ : Nat) : List Word := (List.range cnt).map (fun i => s.s (t + i))
def State.uDataBad (s : State) (t cnt : Nat) : Option LaneFail :=
  match s.sWords ((List.range cnt).map (fun i => ⟨t + i, 3⟩)) with | .error i => some (.rc i) | .ok _ => none

/-- R320 `sld`. -/
def execSSld (t a : BitVec 6) (z : BitVec 2) (o la : BitVec 4) (g : BitVec 3) (s : State) : Host.Outcome State Fault Refusal :=
  let n := 4 * 2 ^ z.toNat
  .next (s.sGuarded g (z.toNat < 3) ⟨[], [(a.toNat, 2), (t.toNat, n / 4)]⟩ (fun s => s.inOrder (fun s =>
    if psetSize s.g + n / 4 > 8 then s.hold .retry
    else
      let (s1, rs) := s.locateAll (fun s _ => s.uAddr a.toNat (o.toNat * n)) noExtra n .load true [uniLane]
      s1.doLoad (.uniform t.toNat (n / 4)) la.toNat n rs)))

/-- What fails a uniform store beside its address (R312, R320). -/
def uStoreBad (t cnt : Nat) : LaneCheck := bothChecks (fun s _ => s.uDataBad t cnt) (copyForm (State.uData t cnt))

/-- R320 `sst`. -/
def execSSst (t a o : BitVec 6) (z g : BitVec 3) (s : State) : Host.Outcome State Fault Refusal :=
  let n := 2 ^ z.toNat
  .next (s.sGuarded g (z.toNat ≤ 4) ⟨[], [(a.toNat, 2), (t.toNat, regsOf n)]⟩ (fun s => s.inOrder (fun s =>
    let (s1, rs) := s.locateAll (fun s _ => s.uAddr a.toNat (o.toNat * n)) (uStoreBad t.toNat (regsOf n)) n .store true [uniLane]
    s1.doStore (State.uData t.toNat (regsOf n)) n rs)))

/-- The failure of a uniform atomic's operands: poison in them is a use (R163, R315). -/
def State.uUseBad (s : State) (t cnt : Nat) : Option LaneFail :=
  match s.sUse ((List.range cnt).map (fun i => ⟨t + i, 3⟩)) 3 with
  | .error e => some e
  | .ok _ => none

/-- R320 `satom`. -/
def execSSatom (t a : BitVec 6) (sc o : BitVec 3) (k : BitVec 4) (g : BitVec 3) (s : State) : Host.Outcome State Fault Refusal :=
  let aop := k.toNat
  .next (s.sGuarded g (aopLegal false sc.toNat o.toNat aop) ⟨[], [(a.toNat, 2), (t.toNat, aopRegs aop)]⟩ (fun s => s.inOrder (fun s =>
    if ordRel o.toNat && !releaseReady s.g then s.hold .release
    else
      let (s1, rs) := s.locateAll (fun s _ => s.uAddr a.toNat 0) (bothChecks (fun s _ => s.uUseBad t.toNat (aopRegs aop)) (windowForm aop false)) (aopBytes aop) .atomic true [uniLane]
      s1.doAtom ((encode (.sSatom t a sc o k g)).getD 0) aop false (.uniform t.toNat (aopOld aop)) (State.uData t.toNat (aopRegs aop)) rs)))

/-! ### Copy completion -/

/-- R322 `cseal`: the sealed count is written with its residue. -/
def execSCseal (d : BitVec 6) (g : BitVec 3) (s : State) : Host.Outcome State Fault Refusal :=
  .next (s.sGuarded g (s.coreOnly true) ⟨[], [(d.toNat, 1)]⟩ (fun s => s.sTwice (fun s =>
    let s1 := { s with g := sealBatch s.g }
    (s1.setS d.toNat (Word.ofData s1.g.sealed)).advance)))

/-- R323: report the lowest finished batch's fault, once. -/
def State.reportBatch (s : State) (b : Nat × Nat × Nat) : State :=
  let s1 := { s with g := { s.g with batches := s.g.batches.filter (fun x => x.num != b.1) } }
  if b.2.1 = 2 then s1.raise (Trap.plain cTrailer b.2.2 s.g.exec s.g.exec)
  else s1.raise (Trap.plain cCopy b.2.2 s.g.exec s.g.exec)

/-- R323 `cwait`. -/
def execSCwait (n : BitVec 10) (g : BitVec 3) (s : State) : Host.Outcome State Fault Refusal :=
  .next (s.sGuarded g (s.coreOnly true) ⟨[], []⟩ (fun s =>
    if unfinished s.g > n.toNat then s.hold (.cwait n.toNat)
    else match reportable s.g with
      | some b => s.reportBatch b
      | none => (s.acquire 4).advance))

/-- R324 `cyield`. -/
def execSCyield (d : BitVec 22) (g : BitVec 3) (s : State) : Host.Outcome State Fault Refusal :=
  let t := s.g.pc + 4 * d.signExtend 64
  .next (s.sGuarded g (s.coreOnly true) ⟨[], []⟩ (fun s =>
    if unfinished s.g > 0 then s.hold (.cyield t)
    else match reportable s.g with
      | some b => s.reportBatch b
      | none => (s.acquire 4).jump s.g.exec t))

end Sys2Proof.Machine
end

