-- ==== Sys2Proof/Machine/Matrix.lean ====
section
/-! DEFINITION. The matrix engine's jobs, tile checks and the residue instructions (chapter 15: R327–R340; R113, R244–R249). -/

namespace Sys2Proof.Machine

/-! ### Formats -/

/-- Fields of `FMT` (R243). -/
def fmA (f : BitVec 32) : Nat := f.toNat % 16
def fmB (f : BitVec 32) : Nat := f.toNat / 16 % 16
def fmO (f : BitVec 32) : Nat := f.toNat / 256 % 16
def fmRnd (f : BitVec 32) : Nat := f.toNat / 2 ^ 12 % 4
def fmSat (f : BitVec 32) : Bool := f.getLsbD 14
def fmBlk (f : BitVec 32) : Nat := if f.getLsbD 16 then 64 else 32
def fmGap (f : BitVec 32) : Nat := f.toNat / 2 ^ 17 % 4

/-- A block format (R331). -/
def isBlock (c : Nat) : Bool := 7 ≤ c && c ≤ 14
/-- R244: a valid pair of input codes. -/
def pairOk (a b : Nat) : Bool :=
  (widthClass a).isSome && widthClass a == widthClass b && (!(a == 5 || a == 6 || b == 5 || b == 6) || a == b)
/-- R244: the pair makes an integer tile. -/
def intPair (a b : Nat) : Bool := a == b && (a == 5 || a == 6)
/-- Stored width of an input element in bits. -/
def inBits (c : Nat) : Nat := (widthClass c).getD 8

/-- The value of an input element with its row's or column's scale word (R238, R239, R245). -/
def inVal (c : Nat) (fmt : BitVec 32) (scale : BitVec 32) (k x : Nat) : FVal :=
  let byte := fun b => scale.toNat / 256 ^ b % 256
  match c with
  | 1 => unpackF bf16 false x
  | 2 => unpackF f16 false x
  | 13 => decodeDx false (byte 0) (byte 1) x
  | 14 => decodeDx true (byte (2 * (k / 64))) (byte (2 * (k / 64) + 1)) x
  | _ =>
    match elemOf c with
    | none => .nan
    | some e => if isBlock c then decodeMx e (byte (k / fmBlk fmt)) x else decodeElem e x

/-- The integer value of an input element of an integer pair. -/
def inInt (c x : Nat) : Int := if c = 5 then twos 8 x else twos 4 x

/-- Element k of a row's 64-byte array (R237, R331). -/
def rowElem (c : Nat) (row : Nat) (k : Nat) : Nat := row / 2 ^ (inBits c * k) % 2 ^ inBits c

/-! ### Jobs in the reservation table -/

/-- A tile's own footprint (R329). -/
def tileFp (n : Nat) : Nat × Nat × Nat := (2, n * 16384, 16384)

/-- R113: the entries of the reservation table. -/
def tableFull (cl : Cluster) : Bool := (cl.mjobs.filter (fun j => !j.granted)).length ≥ 32

/-- R113: a job's grant priority; the grants of a team stopped for pre-emption rise to 3 (R115). -/
def State.jobPri (s : State) (j : MatrixJob) : Nat :=
  match s.teamAt j.team with | some t => if t.sampled then 3 else j.mpri | none => j.mpri

/-- R113: among the groups of the issuing group's cluster that stall with a job to post and may issue, is it the first, by priority, stall, core
and scheduler? -/
def State.firstPoster (s : State) : Bool :=
  let k := s.clusterOf s.core
  let key := fun (t : Team) (g : Group) => match g.wait with
    | .mpost n => some [3 - t.mode.toNat / 16 % 4, n, t.core, g.sched, t.slot, g.idx]
    | _ => none
  let since := match s.g.wait with | .mpost n => n | _ => s.ck
  let mine := [3 - s.tm.mode.toNat / 16 % 4, since, s.tm.core, s.g.sched, s.tm.slot, s.g.idx]
  (s.teams.filter (fun p => s.clusterOf (p.2.die * 64 + p.2.core) == k)).all (fun p =>
    let t := (s.teamAt p.1).getD p.2
    !t.released || t.sampled || t.aborted || t.groups.all (fun q => match key t q.2 with | some o => !lexLt o mine | none => true))

/-- R328: post a job; its word, format, operands and translations are held with it. Jobs on one tile keep their posting order, those that only
read it too (R329). -/
def State.postJob (s : State) (instr : BitVec 32) (tok : Nat) (reads writes : List (Nat × Nat × Nat)) (ops : List Word) (pages : Table (Nat × Nat × Bool)) : State :=
  let k := s.clusterOf s.core
  let cl := s.cluster k
  if tableFull cl || !s.firstPoster then s.hold (match s.g.wait with | .mpost n => .mpost n | _ => .mpost s.ck)
  else
    let j : MatrixJob :=
      { seq := cl.nextSeq, grp := s.self, instr := instr, tok := tok, mpri := s.tm.mode.toNat / 16 % 4, posted := s.ck, sched := s.g.sched,
        after := edgesOf cl s.self reads (writes ++ reads.filter (fun r => r.1 = 2)), reads := reads, writes := writes, granted := false, done := false, fmt := s.g.fmt,
        ops := ops, pages := pages }
    ({ s.modCluster k (fun x => { x with mjobs := x.mjobs ++ [j], nextSeq := x.nextSeq + 1 }) with
      g := { s.g with toks := tmod s.g.toks tok 0 (· + 1) } }).advance

/-! ### Checks at issue (R328) -/

/-- A trap of the whole group. -/
def State.jobTrap (s : State) (cause info fva : Nat) (k : Kind) (stage2 : Bool) : State :=
  s.raise { cause := cause, info := info, retAt := true, k := s.g.exec, p := s.g.exec, fva := fva, write := k.writes, fetch := false, stage2 := stage2 }

/-- The checks before any operand is read: legality and convergence. -/
def State.jobGuarded (s : State) (legal converge : Bool) (names : Names) (k : State → State) : State :=
  s.vGuarded s.g.exec legal names (fun s =>
    if converge && !(s.g.bind == 0xffffffff && s.g.exec == 0xffffffff) then s.raiseAll cConverge 9 s.g.exec
    else k s)

/-- R126: a tile name at or above `acc`. -/
def State.tileFail (s : State) (tile : Nat) : Option LaneFail := if tile ≥ s.tm.accN then some (addrFail cPerm 0 0 .load false) else none

/-- The tile-name check. -/
def State.ownTile (s : State) (tile : Nat) (k : State → State) : State :=
  if tile ≥ s.tm.accN then s.jobTrap cPerm 0 0 .load false else k s

/-- Of two failures of a job the one whose cause comes first (R158), then the one at the lower address (R328). -/
def worseAt (e f : LaneFail) : LaneFail :=
  if causeRank f.cause < causeRank e.cause ∨ (causeRank f.cause = causeRank e.cause ∧ f.fva < e.fva) then f else e

/-- The lowest address of a region in a page that lies outside the copy aperture at `cap`, which is not translated (R309). -/
def pageStart (cap base n pg : Nat) : Option Nat :=
  let lo := max base (pg * 8192)
  let va := if cap ≤ lo ∧ lo < cap + 128 then cap + 128 else lo
  if va < min (base + n) ((pg + 1) * 8192) then some va else none

/-- Translate the pages of a global region of a job, from an address in each: the held translations, or the failure by the order of R158, at its
lowest address. -/
def State.jobPages (s : State) (k : Kind) :
    List (Nat × Nat) → Table (Nat × Nat × Bool) → State × Except LaneFail (Table (Nat × Nat × Bool))
  | [], t => (s, .ok t)
  | (pg, va) :: r, t =>
    let (s1, x) := s.translate (some s.core) s.tm.part s.tm.asid va k s.mode
    let here : Except LaneFail (Nat × Nat × Bool) := match x with
      | .error f => .error (xFail f va k)
      | .ok x => if regionOf x.pa = .window then .error (addrFail cPerm 0 va k false) else .ok (x.pa / 8192 * 8192, x.key, x.cache == 2)
    match here with
    | .ok q => s1.jobPages k r (tins t pg q)
    | .error e =>
      match s1.jobPages k r t with
      | (s2, .ok _) => (s2, .error e)
      | (s2, .error f) => (s2, .error (worseAt e f))

/-- The region checks of `n` bytes at a global address: range, aperture, alignment, every page. -/
def State.jobRegion (s : State) (k : Kind) (base n align : Nat) (t : Table (Nat × Nat × Bool)) : State × Except LaneFail (Table (Nat × Nat × Bool)) :=
  if n = 0 then (s, .ok t)
  else if base ≥ 2 ^ 53 then (s, .error (addrFail cXlate 3 base k false))
  else
    let (s1, c) := s.context s.tm.part s.tm.asid
    let own : Option LaneFail :=
      if base % align ≠ 0 then some (addrFail cPerm 0 base k false)
      else if c.ok && c.capVa.toNat < base + n && base < c.capVa.toNat + 128 then some (addrFail cPerm 0 (max base c.capVa.toNat) k false)
      else none
    let pages := (List.range ((base + n - 1) / 8192 - base / 8192 + 1)).map (· + base / 8192)
    let cap := if c.ok then c.capVa.toNat else 2 ^ 64
    match s1.jobPages k (pages.filterMap (fun pg => (pageStart cap base n pg).map (fun va => (pg, va)))) t, own with
    | r, none => r
    | (s2, .ok _), some e => (s2, .error e)
    | (s2, .error f), some e => (s2, .error (worseAt e f))

/-- R328: a failing check of a region. -/
def State.jobFail (s : State) (f : LaneFail) : State :=
  s.raise { cause := f.cause, info := f.info, retAt := true, k := s.g.exec, p := s.g.exec, fva := f.fva, write := f.write, fetch := false, stage2 := f.stage2 }

/-- Of two failures that there may be, the one R158 chooses. -/
def eitherFail : Option LaneFail → Option LaneFail → Option LaneFail
  | some e, some f => some (worseAt e f)
  | none, f => f
  | e, none => e

/-- The uniform operands of a job, checked (info 1) and free of poison. The tile-name check, and what `others` finds of the regions whose own
operands can be read, come before their failure (R158). -/
def State.jobWords (s : State) (tile : Nat) (runs : List (Nat × Nat)) (others : State → State × Option LaneFail) (k : List Word → State) : State :=
  match s.sUse (runs.flatMap (fun r => srcs r.1 r.2 1)) 0 with
  | .error e =>
    let r := others s
    (match eitherFail r.2 (s.tileFail tile) with
     | some f => r.1.jobFail f
     | none => r.1.sFail e)
  | .ok ws => k ws

/-- A job with one region has no other. -/
def oneRegion (s : State) : State × Option LaneFail := (s, none)

/-! ### `mma`, `mzero`, `mld`, `mst`, `mdrain` at issue -/

/-- R328, R331, R334: a scratchpad region of a job must be aligned and lie in the scratchpad; else the lowest address that fails. -/
def State.scrRegion (s : State) (off n : Nat) : Option Nat :=
  if off % 128 ≠ 0 then some off else if off + n > 4096 * s.tm.scratchN then some (max off (4096 * s.tm.scratchN)) else none

/-- The words of registers `v`a … `v`a+cnt−1 of every lane. -/
def State.rowsOf (s : State) (a cnt : Nat) : List (List Word) := (List.range 32).map (fun l => (List.range cnt).map (fun i => s.v (a + i) l))

/-- Lanes one of whose registers fails its source check. -/
def State.rowsBad (s : State) (a cnt : Nat) : BitVec 32 :=
  maskOf ((List.range 32).filter (fun l => (List.range cnt).any (fun i => !(s.v (a + i) l).checks)))

/-- R331, R332: the A words and scale words, from the latch or the registers: how many registers are read, and from where. -/
def State.aReads (s : State) (a : Nat) (block : Bool) : Nat × Nat :=
  match s.g.latch with
  | some l => if block && l.scales.isEmpty then (a + 16, 1) else (a, 0)
  | none => (a, if block then 17 else 16)

/-- R331 `mma`. -/
def execVMma (a b : BitVec 6) (c : BitVec 8) (r : BitVec 1) (k : BitVec 4) (s : State) : Host.Outcome State Fault Refusal :=
  let fa := fmA s.g.fmt
  let fb := fmB s.g.fmt
  let rd := s.aReads a.toNat (isBlock fa)
  let legal := pairOk fa fb && a.toNat + (if isBlock fa then 17 else 16) ≤ s.g.frame
  .next (s.jobGuarded legal true ⟨[rd], [(b.toNat, 1)]⟩ (fun s =>
    s.jobWords c.toNat [(b.toNat, 1)] oneRegion (fun ws => s.ownTile c.toNat (fun s =>
      let off := (dat ws 0).toNat
      let len := if isBlock fb then 8704 else 8192
      match s.scrRegion off len with
      | some fva => s.jobTrap cPerm 0 fva .load false
      | none =>
        let bad := s.rowsBad rd.1 rd.2
        if bad ≠ 0 then s.raise (Trap.plain cResidue 1 bad s.g.exec)
        else
          let rows := match s.g.latch with | some l => l.words | none => s.rowsOf a.toNat 16
          let scales := match s.g.latch with
            | some l => if isBlock fa && l.scales.isEmpty then (s.rowsOf (a.toNat + 16) 1).flatten else l.scales
            | none => if isBlock fa then (s.rowsOf (a.toNat + 16) 1).flatten else []
          let s1 := s.postJob ((encode (.vMma a b c r k)).getD 0) k.toNat [(1, off, len), tileFp c.toNat] [tileFp c.toNat]
            (rows.flatten ++ (List.range 32).map (nth scales) ++ ws) []
          match s1.g.wait with
          | .mpost _ => s1
          | _ => { s1 with g := { s1.g with latch := if r = 1 then some ⟨0, rows, scales⟩ else none } }))))

/-- R334 `mzero`. -/
def execVMzero (c : BitVec 8) (k : BitVec 4) (s : State) : Host.Outcome State Fault Refusal :=
  .next (s.jobGuarded true false ⟨[], []⟩ (fun s => s.ownTile c.toNat (fun s =>
    if s.g.exec = 0 then s.advance else s.postJob ((encode (.vMzero c k)).getD 0) k.toNat [] [tileFp c.toNat] [] [])))

/-- R334: the shared form of `mld` and `mst`. -/
def tileMove (store : Bool) (word : BitVec 32) (b : BitVec 6) (c : BitVec 8) (sp : Bool) (k : BitVec 4) (s : State) : State :=
  let kd := if store then Kind.store else .load
  let fps := fun (m : Nat × Nat × Nat) => if store then ([tileFp c.toNat], [m]) else ([m], [tileFp c.toNat])
  s.jobGuarded true false ⟨[], [(b.toNat, if sp then 1 else 2)]⟩ (fun s =>
    if s.g.exec = 0 then s.ownTile c.toNat State.advance
    else if sp then s.jobWords c.toNat [(b.toNat, 1)] oneRegion (fun ws => s.ownTile c.toNat (fun s =>
      let off := (dat ws 0).toNat
      match s.scrRegion off 16384 with
      | some fva => s.jobTrap cPerm 0 fva kd false
      | none => let f := fps (1, off, 16384); s.postJob word k.toNat f.1 f.2 ws []))
    else s.jobWords c.toNat [(b.toNat, 2)] oneRegion (fun ws =>
      let base := (dat64 ws 0).toNat
      match s.jobRegion kd base 16384 128 [], s.tileFail c.toNat with
      | (s1, .error f), own => s1.jobFail ((own.map (worseAt · f)).getD f)
      | (s1, .ok _), some e => s1.jobFail e
      | (s1, .ok t), none =>
        if !releaseReady s1.g then s.hold .retry
        else let f := fps (0, base, 16384); s1.postJob word k.toNat f.1 f.2 ws t))

/-- R334 `mld`. -/
def execVMld (b : BitVec 6) (c : BitVec 8) (r : BitVec 1) (k : BitVec 4) (s : State) : Host.Outcome State Fault Refusal :=
  .next (tileMove false ((encode (.vMld b c r k)).getD 0) b c (r == 1) k s)
/-- R334 `mst`. -/
def execVMst (b : BitVec 6) (c : BitVec 8) (r : BitVec 1) (k : BitVec 4) (s : State) : Host.Outcome State Fault Refusal :=
  .next (tileMove true ((encode (.vMst b c r k)).getD 0) b c (r == 1) k s)

/-- R335: element bytes of a row by output code. -/
def rowBytes (o : Nat) : Nat :=
  if o = 0 then 512 else if o = 1 ∨ o = 2 then 256 else if o = 6 ∨ o = 11 ∨ o = 14 then 64 else 128
/-- R335: scale bytes in all. -/
def scaleBytes (o blk : Nat) : Nat := if o < 7 then 0 else if o = 13 ∨ o = 14 then 128 else if blk = 32 then 128 else 64

/-- Region checks in a row: every region is checked, and of several failures R158 chooses. -/
def State.jobRegions (s : State) (k : Kind) : List (Nat × Nat × Nat) → Table (Nat × Nat × Bool) → State × Except LaneFail (Table (Nat × Nat × Bool))
  | [], t => (s, .ok t)
  | (base, n, al) :: r, t =>
    match s.jobRegion k base n al t with
    | (s1, .ok t1) => s1.jobRegions k r t1
    | (s1, .error e) =>
      match s1.jobRegions k r t with
      | (s2, .ok _) => (s2, .error e)
      | (s2, .error f) => (s2, .error (worseAt e f))

/-- R335: the uniform registers a drain reads; the scale address is not read when the format has no scales. -/
def drainRuns (b scales : Nat) : List (Nat × Nat) := if scales = 0 then [(b, 2), (b + 4, 2)] else [(b, 6)]
/-- The six operand words of a drain, zeros for the two it does not read. -/
def drainOps (scales : Nat) (ws : List Word) : List Word :=
  if scales = 0 then ws.take 2 ++ [Word.zero, Word.zero] ++ ws.drop 2 else ws

/-- R158, R328: the failures of the regions of a drain whose addresses can be read, of `regs`: first register, bytes and alignment. -/
def State.drainRegions (s : State) (regs : List (Nat × Nat × Nat)) : State × Option LaneFail :=
  let good := regs.filter (fun r => allGood [s.s r.1, s.s (r.1 + 1)])
  match s.jobRegions .store (good.map (fun r => ((pairVal (s.s r.1) (s.s (r.1 + 1))).toNat, r.2))) [] with
  | (s1, .error f) => (s1, some f)
  | (s1, .ok _) => (s1, none)

/-- R335 `mdrain`. -/
def execVMdrain (a b : BitVec 6) (c : BitVec 8) (z : BitVec 1) (k : BitVec 4) (s : State) : Host.Outcome State Fault Refusal :=
  let o := fmO s.g.fmt
  let scaled := 3 ≤ o && o ≤ 6
  let sb := scaleBytes o (fmBlk s.g.fmt)
  let legal := o != 15 && pairOk (fmA s.g.fmt) (fmB s.g.fmt) && b.toNat ≤ 58 && a.toNat < s.g.frame
  .next (s.jobGuarded legal true ⟨if scaled then [(a.toNat, 1)] else [], drainRuns b.toNat sb⟩ (fun s =>
    s.jobWords c.toNat (drainRuns b.toNat sb) (fun s => s.drainRegions [(b.toNat, 32 * rowBytes o, 128), (b.toNat + 2, sb, 64), (b.toNat + 4, 16, 16)])
      (fun rs =>
      let ws := drainOps sb rs
      let e := (dat64 ws 0).toNat
      let x := (dat64 ws 2).toNat
      let t := (dat64 ws 4).toNat
      match s.jobRegions .store [(e, 32 * rowBytes o, 128), (x, sb, 64), (t, 16, 16)] [], s.tileFail c.toNat with
      | (s1, .error f), own => s1.jobFail ((own.map (worseAt · f)).getD f)
      | (s1, .ok _), some f => s1.jobFail f
      | (s1, .ok pages), none =>
        let bad := if scaled then s1.rowsBad a.toNat 1 else 0
        if bad ≠ 0 then s1.raise (Trap.plain cResidue 1 bad s1.g.exec)
        else if !releaseReady s1.g then s.hold .retry
        else
          let g := if scaled then (s1.rowsOf a.toNat 1).flatten else List.replicate 32 Word.zero
          s1.postJob ((encode (.vMdrain a b c z k)).getD 0) k.toNat [tileFp c.toNat]
            ([(0, e, 32 * rowBytes o), (0, x, sb), (0, t, 16)] ++ if z = 1 then [tileFp c.toNat] else []) (g ++ ws) pages)))

/-! ### Carrying out a job -/

/-- Fields of a job's instruction word (R327). -/
def jobOp (j : MatrixJob) : Nat := bits j.instr 25 6
def jobTile (j : MatrixJob) : Nat := bits j.instr 5 8
def jobR (j : MatrixJob) : Bool := bits j.instr 4 1 == 1

/-- Key of a tile word. -/
def tileKey (tile w : Nat) : Nat := tile * 4096 + w

/-- A RESIDUE_CHECK record of the matrix engine (R232, R330, R331, R336). -/
def State.engineRecord (s : State) (j : MatrixJob) : State :=
  let mode := ((s.groupAt j.grp).map (fun g => g.priv.mode.toNat)).getD 0
  s.record { Rec.event 0 (j.grp.die * 64 + j.grp.core) cResidue 0 0 with
    group := j.grp.grp, mode := mode, cause := recCause cResidue mode 0, grid := ((s.teamAt j.team).map (·.grid)).getD 0, teamT := ((s.teamAt j.team).map (·.t)).getD 0 }

/-- Write a tile word; a mismatched nibble is stored as poison and recorded (R232, R330). -/
def State.putTile (s : State) (j : MatrixJob) (tile w : Nat) (x : Word) : State :=
  let s1 := if x.checks then s else s.engineRecord j
  s1.modTeam j.team (fun t => { t with tiles := tset t.tiles (tileKey tile w) (if x.checks then x else Word.poison) Word.zero })

/-- A tile word; one whose nibble does not match is poison and recorded. -/
def State.tileWord (s : State) (j : MatrixJob) (tile w : Nat) : State × Word :=
  match s.teamAt j.team with
  | none => (s, Word.poison)
  | some t =>
    let x := tget t.tiles (tileKey tile w) Word.zero
    if x.checks then (s, x) else (s.engineRecord j, Word.poison)

/-- A scratchpad word as the engine reads it: poison and a record when it fails its check (R331). -/
def State.engineScr (s : State) (j : MatrixJob) (idx : Nat) : State × Word :=
  let x := s.scrWord j.team idx
  if x.checks then (s, x) else (s.engineRecord j, Word.poison)

/-- Read a list of scratchpad words. -/
def State.engineScrs (s : State) (j : MatrixJob) (idx : Nat) : Nat → State × List Word
  | 0 => (s, [])
  | n + 1 =>
    let (s1, w) := s.engineScr j idx
    let (s2, ws) := s1.engineScrs j (idx + 1) n
    (s2, w :: ws)

/-- The number of 64-byte or 16-word row data. -/
def rowNat (ws : List Word) : Nat := ofWords ws

/-- R246: the exact sum of finite products, NaN for a NaN product or opposed infinities. -/
def exactSum (vs : List FVal) : FVal := vs.foldl (addV 0) (.fin false 0 0)

/-- R246: one slab added to a binary32 accumulator. -/
def slabAdd (satf : Bool) (acc : BitVec 32) (ps : List FVal) : BitVec 32 :=
  match exactSum ps with
  | .fin _ 0 _ => acc
  | v => BitVec.ofNat 32 (packV f32 0 satf false (addV 0 (unpackF f32 false acc.toNat) v))

/-- R331, R232: the new accumulator word from a row of A and a column of B. -/
def mmaWord (fmt : BitVec 32) (acc : Word) (aRow bCol : Nat) (aScale bScale : BitVec 32) : Word :=
  let fa := fmA fmt
  let fb := fmB fmt
  let kk := 512 / inBits fa
  if intPair fa fb then
    let step := fun (w : Word) k =>
      let p : BitVec 32 := BitVec.ofInt 32 (inInt fa (rowElem fa aRow k) * inInt fb (rowElem fb bCol k))
      (⟨w.data + p, predAdd w.res (resOf p) 0 (carry32 w.data p 0)⟩ : Word)
    (List.range kk).foldl step acc
  else
    let prod := fun k => mulV (inVal fa fmt aScale k (rowElem fa aRow k)) (inVal fb fmt bScale k (rowElem fb bCol k))
    Word.ofData ((List.range (kk / 32)).foldl (fun a sl => slabAdd (fmSat fmt) a ((List.range 32).map (fun i => prod (32 * sl + i)))) acc.data)

/-- R331: an `mma` pass. -/
def State.runMma (s : State) (j : MatrixJob) : State :=
  let tile := jobTile j
  let row := fun i => (j.ops.drop (16 * i)).take 16
  let aScale := fun i => nth j.ops (512 + i)
  let off := (nth j.ops 544).data.toNat
  let (s1, bs) := s.engineScrs j (off / 4) (if isBlock (fmB j.fmt) then 2176 else 2048)
  let col := fun c => (bs.drop (16 * c)).take 16
  let bScale := fun c => nth bs (2048 + c)
  let aPois := fun i => (row i).any Word.isPoison || (isBlock (fmA j.fmt) && (aScale i).isPoison)
  let bPois := fun c => (col c).any Word.isPoison || (isBlock (fmB j.fmt) && (bScale c).isPoison)
  (List.range 4096).foldl (fun s w =>
    let i := w / 128
    let c := w % 128
    let (s2, acc) := s.tileWord j tile w
    let nw := if acc.isPoison || aPois i || bPois c then Word.poison
      else mmaWord j.fmt acc (rowNat (row i)) (rowNat (col c)) (aScale i).data (bScale c).data
    s2.putTile j tile w nw) s1

/-- The physical address and key of a word of a job's region, by its held translations, and whether its page streams. -/
def jobPa (j : MatrixJob) (va : Nat) : Nat × Nat × Bool :=
  let p := tget j.pages (va / 8192) (0, 0, false)
  (p.1 + va % 8192, p.2)

/-- Read a word of a job's global region at its home (R181, R334). -/
def State.jobRead (s : State) (j : MatrixJob) (va : Nat) : State × Word := let p := jobPa j va; s.readPaAs p.2.2 p.2.1 p.1
/-- Write words of a job's global region at their homes, in ascending address (R181, R334). -/
def State.jobWrite (s : State) (j : MatrixJob) (va : Nat) (ws : List Word) : State :=
  ws.zipIdx.foldl (fun s w =>
    let p := jobPa j (va + 4 * w.2)
    s.homePiece p.2.2 false (tagOf p.2.1 (lineOf p.1)) [(p.1 / 4 % 32, [(15, ingress w.1)])]) s

/-- R334: `mld` and `mst` carried out. -/
def State.runMove (s : State) (j : MatrixJob) (store : Bool) : State :=
  let sp := jobR j
  let base := if sp then (nth j.ops 0).data.toNat else (dat64 j.ops 0).toNat
  (List.range 4096).foldl (fun s w =>
    if store then
      let x := match s.teamAt j.team with | some t => tget t.tiles (tileKey (jobTile j) w) Word.zero | none => Word.poison
      if sp then
        let s1 := if x.checks then s else s.engineRecord j
        s1.scrWrite j.team (base / 4 + w) 15 (ingress x)
      else s.jobWrite j (base + 4 * w) [x]
    else
      let (s1, x) := if sp then (s, s.scrWord j.team (base / 4 + w)) else s.jobRead j (base + 4 * w)
      s1.putTile j (jobTile j) w x) s

/-! ### The drain (R336, R248, R249) -/

/-- A drained element: its bits, whether it saturated. -/
structure Drained where
  elems  : List Nat
  scales : List Nat
  nsat   : Nat

/-- The value of a tile word by the tile's kind (R333). -/
def tileVal (isInt : Bool) (w : Word) : FVal :=
  if isInt then .fin (w.data.getLsbD 31) w.data.toInt.natAbs 0 else unpackF f32 false w.data.toNat

/-- R336: elements and scale bytes of a block of one row. Poisoned places hold zero. -/
def drainBlock (o : Nat) (fmt : BitVec 32) (vs : List FVal) : Drained :=
  let rnd := fmRnd fmt
  let satf := fmSat fmt
  let ftz := fmt.getLsbD 15
  let plain := fun (f : FpFmt) (z : Bool) => (⟨vs.map (packV f rnd satf z), [], 0⟩ : Drained)
  match o with
  | 0 => plain f32 ftz
  | 1 => plain bf16 false
  | 2 => plain f16 ftz
  | 13 => let b := quantDx false rnd (fmGap fmt + 2) vs; ⟨b.elems, b.scales, b.nsat⟩
  | 14 => let b := quantDx true rnd (fmGap fmt + 2) vs; ⟨b.elems, b.scales, b.nsat⟩
  | _ =>
    match elemOf o with
    | none => ⟨[], [], 0⟩
    | some e =>
      if isBlock o then let b := quantMx e rnd vs; ⟨b.elems, b.scales, b.nsat⟩
      else
        let cs := vs.map (convElem e rnd satf)
        ⟨cs.map (·.bits), [], (cs.filter (·.sat)).length⟩

/-- Columns of a block of an output code. -/
def blockCols (o blk : Nat) : Nat := if o = 13 ∨ o = 14 then 64 else if isBlock o then blk else 128

/-- A number of `w`-bit elements packed from the lowest bit. -/
def packElems (w : Nat) (es : List Nat) : Nat := es.foldr (fun e a => e % 2 ^ w + 2 ^ w * a) 0

/-- Width of an output element in bits. -/
def outBits (o : Nat) : Nat := rowBytes o * 8 / 128

/-- R336: a row's element words and its scale bytes with their poison marks, saturations. -/
def drainRow (o : Nat) (fmt : BitVec 32) (isInt : Bool) (g : Word) (ws : List Word) : List Word × List (Nat × Bool) × Nat :=
  let scaled := 3 ≤ o && o ≤ 6
  let pois := ws.map (fun w => w.isPoison || (scaled && g.isPoison))
  let val := fun w => let v := tileVal isInt w; if scaled then mulV v (unpackF f32 (fmt.getLsbD 15) g.data.toNat) else v
  let n := blockCols o (fmBlk fmt)
  let blocks := (List.range (128 / n)).map (fun b =>
    let wb := (ws.zip pois).drop (n * b) |>.take n
    -- a poisoned value takes no part in the block: it stands as zero
    let d := drainBlock o fmt (wb.map (fun x => if x.2 then FVal.fin false 0 0 else val x.1))
    (d, wb.any (·.2)))
  let bitsAll := packElems (outBits o) (blocks.flatMap (fun b => b.1.elems))
  let words := (wordsOf (rowBytes o / 4) bitsAll).zipIdx.map (fun w =>
    let per := 32 / outBits o
    if (pois.drop (w.2 * per)).take per |>.any id then Word.poison else w.1)
  (words, blocks.flatMap (fun b => b.1.scales.map (fun x => (x, b.2))), blocks.foldl (fun a b => a + b.1.nsat) 0)

/-- R249: the largest magnitude among the non-NaN accumulator values, as binary32 bits. -/
def tileAmax (isInt : Bool) (ws : List Word) : Nat :=
  let vs := (ws.filter (fun w => !w.isPoison)).map (tileVal isInt)
  if vs.any (fun v => match v with | .inf _ => true | _ => false) then f32.inf
  else match amaxOf vs with
    | .fin _ m e => packF f32 0 false false false m e
    | _ => 0

/-- Words of a list of scale bytes; a word with a poisoned block's scale is poison. -/
def scaleWords (l : List (Nat × Bool)) : List Word :=
  (List.range (l.length / 4)).map (fun i =>
    let q := (l.drop (4 * i)).take 4
    if q.any (·.2) then Word.poison else Word.ofData (BitVec.ofNat 32 (packElems 8 (q.map (·.1)))))

/-- The bytes of words, for a CRC. -/
def crcBytes (ws : List Word) : List Byte := ws.flatMap (fun w => bytesOfWord w.data)

/-- Read every word of a tile. -/
def State.tileWords (s : State) (j : MatrixJob) : Nat → State × List Word
  | 0 => (s, [])
  | n + 1 =>
    let (s1, ws) := s.tileWords j n
    let (s2, w) := s1.tileWord j (jobTile j) n
    (s2, ws ++ [w])

/-- R336: a drain carried out. -/
def State.runDrain (s : State) (j : MatrixJob) : State :=
  let o := fmO j.fmt
  let isInt := intPair (fmA j.fmt) (fmB j.fmt)
  let (s1, ws) := s.tileWords j 4096
  let rows := (List.range 32).map (fun i => drainRow o j.fmt isInt (nth j.ops i) ((ws.drop (128 * i)).take 128))
  let elems := rows.flatMap (·.1)
  let scales := scaleWords (rows.flatMap (·.2.1))
  let vals := (ws.filter (fun w => !w.isPoison)).map (tileVal isInt)
  let nnan := min 65535 (vals.filter FVal.special).length
  let pois := ws.any Word.isPoison || (3 ≤ o && o ≤ 6 && (j.ops.take 32).any Word.isPoison)
  let flags := (if fmBlk j.fmt = 64 then 1 else 0) + 2 * fmGap j.fmt + (if fmSat j.fmt then 8 else 0) + (if pois then 16 else 0)
  let trailer := wordsOf 1 (tileAmax isInt ws) ++ wordsOf 1 (rows.foldl (fun a r => a + r.2.2) 0) ++
    wordsOf 1 (nnan + o * 2 ^ 16 + flags * 2 ^ 24) ++ wordsOf 1 (crc32c (crcBytes elems ++ crcBytes scales)).toNat
  let a := fun i => (dat64 (j.ops.drop 32) i).toNat
  let s2 := ((s1.jobWrite j (a 0) elems).jobWrite j (a 2) scales).jobWrite j (a 4) trailer
  if jobR j then s2.modTeam j.team (fun t => { t with tiles := (List.range 4096).foldl (fun m w => tset m (tileKey (jobTile j) w) Word.zero Word.zero) t.tiles })
  else s2

/-- A job carried out. -/
def State.runJob (s : State) (j : MatrixJob) : State :=
  match jobOp j with
  | 0x34 => s.runMma j
  | 0x35 => (List.range 4096).foldl (fun s w => s.putTile j (jobTile j) w Word.zero) s
  | 0x36 => s.runMove j false
  | 0x37 => s.runMove j true
  | _ => s.runDrain j

/-- Edges a job still has (R196, R329). -/
def edgesLeft (cl : Cluster) (j : MatrixJob) : Bool :=
  cl.jobs.any (fun k => j.after.contains k.seq) || cl.mjobs.any (fun k => !k.done && j.after.contains k.seq)

/-- R113: the job the engine grants next: higher priority, then earlier posting, core and scheduler deciding ties. -/
def State.nextGrant (s : State) (cl : Cluster) : Option MatrixJob :=
  let key := fun (j : MatrixJob) => [3 - s.jobPri j, j.posted, j.grp.core, j.sched, j.seq]
  match cl.mjobs.filter (fun j => !j.granted && !edgesLeft cl j) with
  | [] => none
  | j :: r => some (r.foldl (fun a b => if lexLt (key b) (key a) then b else a) j)

/-- R113 MMA_PASS_GRANT: one job is granted and does its work. -/
def execMmaPassGrant (die cluster : Nat) (s : State) : Host.Outcome State Fault Refusal :=
  let k := die * 16 + cluster
  let s1 := s.unfocus
  match s1.nextGrant (s1.cluster k) with
  | none => .next s1
  | some j =>
    .next ((s1.runJob j).modCluster k (fun x => { x with mjobs := x.mjobs.map (fun y => if y.seq = j.seq then { y with granted := true } else y) }))

/-- R329 MATRIX_JOB_FINISH: a granted job finishes: its edges end and its token's count falls. -/
def execMatrixJobFinish (die cluster job : Nat) (s : State) : Host.Outcome State Fault Refusal :=
  let k := die * 16 + cluster
  let s1 := s.unfocus
  match (s1.cluster k).mjobs.find? (fun j => j.seq == job && j.granted) with
  | none => .next s1
  | some j =>
    .next ((s1.modCluster k (fun x => { x with mjobs := x.mjobs.filter (fun y => y.seq != job) })).modGroup j.grp
      (fun g => { g with toks := tmod g.toks j.tok 0 (· - 1) }))

/-- R337: are the waited tokens' jobs all finished? -/
def toksDone (g : Group) (tok : Nat) (all : Bool) : Bool :=
  if all then g.toks.all (fun t => t.2 == 0) else tget g.toks tok 0 == 0

/-- R337 `mwait`. -/
def execSMwait (l : BitVec 1) (k : BitVec 4) (g : BitVec 3) (s : State) : Host.Outcome State Fault Refusal :=
  .next (s.sGuarded g (s.coreOnly true) ⟨[], []⟩ (fun s =>
    if toksDone s.g k.toNat (l == 1) then (s.acquire 4).advance else s.hold (.mwait k.toNat (l == 1))))

/-! ### `tcheck` (R338) -/

/-- What a lane's check has come to: its end, a failure, or a word it has to read through a window: word number and address. -/
inductive CheckRes (α : Type) where
  | done (x : α)
  | fail (f : LaneFail)
  | ask (k pa : Nat)

/-- The word that holds a byte a lane's check reads; one behind a window is asked for until it has come. -/
def State.checkWord (s : State) (a : Nat) : State × CheckRes Word :=
  let found := fun (w : Word) => if w.checks then CheckRes.done w else .fail (.rc 0)
  match s.locate a 1 .load false with
  | (s1, .error f) => (s1, .fail f)
  | (s1, .ok (.memory (p :: _))) => let (s2, w) := s1.coreWord s1.core p.x; (s2, found w)
  | (s1, .ok (.window pa)) => (s1, match tfind s1.g.checked (a / 4) with | some w => found w | none => .ask (a / 4) (pa / 4 * 4))
  | (s1, .ok _) => (s1, .fail (addrFail cPerm 0 a .load false))

/-- What the words at some addresses come to, each by itself. -/
def State.checkEach (s : State) : List Nat → State × List (CheckRes Word)
  | [] => (s, [])
  | a :: r =>
    let (s1, x) := s.checkWord a
    let (s2, xs) := s1.checkEach r
    (s2, x :: xs)

/-- The words of a lane's reads: a failed translation or permission comes before everything that the words themselves may bring (R158), a word
still to be read before a failed residue check. -/
def joinChecks (rs : List (CheckRes Word)) : CheckRes (List Word) :=
  let fails := rs.filterMap (fun r => match r with | .fail f => some f | _ => none)
  let first := fun (fs : List LaneFail) => fs.foldl (fun (a : Option LaneFail) f => some ((a.map (fun x => worse x (some f))).getD f)) none
  match first (fails.filter (fun f => f.cause != cResidue)), rs.findSome? (fun r => match r with | .ask k pa => some (k, pa) | _ => none), first fails with
  | some f, _, _ => .fail f
  | none, some (k, pa), _ => .ask k pa
  | none, none, some f => .fail f
  | none, none, none => .done (rs.filterMap (fun r => match r with | .done w => some w | _ => none))

/-- The words that hold bytes, by their first bytes in the range. -/
def State.checkWords (s : State) (as : List Nat) : State × CheckRes (List Word) :=
  let (s1, rs) := s.checkEach as
  (s1, joinChecks rs)

/-- The addresses of `n` words that begin at any byte address. -/
def checkAddrs (va n : Nat) : List Nat :=
  let cnt := if n = 0 then 0 else if va % 4 = 0 then n else n + 1
  (List.range cnt).map (fun i => if i = 0 then va % 2 ^ 64 else (va / 4 * 4 + 4 * i) % 2 ^ 64)

/-- R338: one lane's elements and scales by its trailer, whose `ofmt` is valid. The bases are read only now; of what can be read by a good one
a failed translation or permission comes first (R158). -/
def State.checkTile (s : State) (t l : Nat) (tr : List Word) : State × CheckRes Bool :=
  let o := (dat tr 2).toNat / 2 ^ 16 % 256
  let flags := (dat tr 2).toNat / 2 ^ 24
  let base := fun (i : Nat) => [s.v (t + i) l, s.v (t + i + 1) l]
  let addrs := fun (i n : Nat) => if allGood (base i) then checkAddrs (dat64 (base i) 0).toNat n else []
  let a1 := addrs 0 (8 * rowBytes o)
  let a2 := addrs 2 (scaleBytes o (if flags % 2 = 1 then 64 else 32) / 4)
  match s.vUse l ((List.range 4).map (fun i => ⟨t + i, 3⟩)) 0, s.checkWords (a1 ++ a2) with
  | .error e, (s1, .fail f) => (s1, .fail (worse e (some f)))
  | .error e, (s1, _) => (s1, .fail e)
  | .ok _, (s1, .fail f) => (s1, .fail f)
  | .ok _, (s1, .ask k pa) => (s1, .ask k pa)
  | .ok bs, (s1, .done ws) =>
    let es := shiftWords ((dat64 bs 0).toNat % 4) (ws.take a1.length)
    let xs := shiftWords ((dat64 bs 2).toNat % 4) (ws.drop a1.length)
    (s1, .done (flags / 32 == 0 && !tr.any Word.isPoison && !es.any Word.isPoison && !xs.any Word.isPoison &&
      crc32c (crcBytes es ++ crcBytes xs) == dat tr 3))

/-- R338: one lane: whether its tile passes, its failure, or what it still has to read. Without a valid `ofmt` no length follows: only the
trailer is read. -/
def State.checkLane (s : State) (t va sb l : Nat) : State × CheckRes Bool :=
  match s.vAddr va sb l with
  | .error e => (s, .fail e)
  | .ok a =>
    if bit s.glitch l then (s, .fail (.rc 0))
    else if a % 16 ≠ 0 then (s, .fail (addrFail cPerm 0 a .load false))
    else match s.checkWords (checkAddrs a 4) with
      | (s1, .fail f) => (s1, .fail f)
      | (s1, .ask k pa) => (s1, .ask k pa)
      | (s1, .done tr) => if (nth tr 2).isPoison || (dat tr 2).toNat / 2 ^ 16 % 256 > 14 then (s1, .done false) else s1.checkTile t l tr

/-- The lanes of a `tcheck`; the first word one has to read through a window ends the look. -/
def State.checkLanes (s : State) (t va sb : Nat) : List Nat → State × CheckRes (List (Nat × Except LaneFail Bool))
  | [] => (s, .done [])
  | l :: r =>
    match s.checkLane t va sb l with
    | (s1, .ask k pa) => (s1, .ask k pa)
    | (s1, x) =>
      let y : Except LaneFail Bool := match x with | .done b => .ok b | .fail f => .error f | .ask .. => .ok false
      match s1.checkLanes t va sb r with
      | (s2, .done xs) => (s2, .done ((l, y) :: xs))
      | o => o

/-- A word that a `tcheck` reads through a window: asked for once, while the group waits. -/
def State.askCheck (s : State) (k pa : Nat) : State :=
  if s.g.pset.any (fun e => e.dest == .check k) then s.hold .retry
  else match s.windowLoad s.tm.part pa 4 s.self s.g.nextId with
    | none => s.hold .retry
    | some (s1, ns) => (s1.addPend (.check k) [⟨uniLane, 0, 4, ns⟩] true).hold .retry

/-- R338: every lane has read what it checks. -/
def State.tcheckDone (s : State) (act : Act) (rs0 : List (Nat × Except LaneFail Bool)) : State :=
  let rs := byLane rs0 (faultyLanes act.faulty)
  let s1 : State := { s with glitch := 0, g := { s.g with checked := [] } }
  match s1.memTrap (lostOf rs) with
  | some tr => s1.raise tr
  | none => if (goodLanes rs).any (fun x => !x.2) then s1.raiseAll cTrailer 0 act.lanes else s1.advance

/-- R338 `tcheck`. -/
def execVTcheck (t a b : BitVec 6) (p : BitVec 3) (s : State) : Host.Outcome State Fault Refusal :=
  let act := s.act p.toNat
  .next (s.vGuarded act.lanes true ((addrNames a.toNat b.toNat).add ⟨[(t.toNat, 4)], []⟩) (fun s =>
    if s.g.outst ≠ 0 then s.hold .retry
    else
      match s.checkLanes t.toNat a.toNat b.toNat (lanesOf act.lanes) with
      | (s1, .done rs) => s1.tcheckDone act rs
      | (s1, .ask k pa) => s1.askCheck k pa
      | (s1, .fail _) => s1))

/-! ### Residue instructions (R339, R340) -/

/-- R340 `rchk`. -/
def execVRchk (a n : BitVec 6) (p : BitVec 3) (s : State) : Host.Outcome State Fault Refusal :=
  .next (s.laneOp p true ⟨[(a.toNat, n.toNat + 1)], []⟩ (fun s l =>
    match s.srcWords l ((List.range (n.toNat + 1)).map (fun i => ⟨a.toNat + i, 1⟩)) with
    | .error e => .error e
    | .ok _ => .ok ⟨[], []⟩))

/-- R340 `rpois`. -/
def execVRpois (d : BitVec 6) (w : BitVec 1) (p : BitVec 3) (s : State) : Host.Outcome State Fault Refusal :=
  .next (s.laneOp p true ⟨[(d.toNat, w.toNat + 1)], []⟩ (fun _ _ =>
    .ok ⟨(List.range (w.toNat + 1)).map (fun i => (d.toNat + i, Word.poison)), []⟩))

/-- R340 `rtst`. -/
def execVRtst (d : BitVec 3) (a : BitVec 6) (w : BitVec 1) (p : BitVec 3) (s : State) : Host.Outcome State Fault Refusal :=
  .next (s.laneOp p (d != 7) ⟨[(a.toNat, w.toNat + 1)], []⟩ (fun s l =>
    match s.srcWords l ((List.range (w.toNat + 1)).map (fun i => ⟨a.toNat + i, 1⟩)) with
    | .error e => .error e
    | .ok ws => .ok ⟨[], [(d.toNat, ws.any Word.isPoison)]⟩))

/-- R340: the data bits of a word; those of a poisoned word are free (R233). -/
def State.rawBits (s : State) (l i : Nat) (w : Word) : BitVec 32 := if w.isPoison then Config.freeData (s.freeNo + 2 * l + i) else w.data

/-- R340 `rgen`: S and H modes only. -/
def execVRgen (d a : BitVec 6) (w : BitVec 1) (p : BitVec 3) (s : State) : Host.Outcome State Fault Refusal :=
  let act := s.act p.toNat
  let n := w.toNat + 1
  let names : Names := ⟨[(d.toNat, n), (a.toNat, n)], []⟩
  .next (if !s.onKiln && s.namesOk names && s.mode = 0 then s.raiseAll cPriv 0 act.lanes
    else { s with freeNo := s.freeNo + 64 }.laneOp p true names (fun s0 l =>
      .ok ⟨(List.range n).map (fun i => (d.toNat + i, Word.ofData (s.rawBits l i (s0.v (a.toNat + i) l)))), []⟩))

end Sys2Proof.Machine
end

