-- ==== Sys2Proof/Machine/Control.lean ====
section
/-! DEFINITION. Control flow: fetch, register windows and links (R127–R131, R350, R351), divergence in both modes
(R136–R144), uniform and indirect branches (R146–R149, R348–R354), loops, exits and waits (R355–R358). -/

namespace Sys2Proof.Machine

/-! ### Fetch -/

/-- Key of an instruction-cache line. -/
def icKey (core tag : Nat) : Nat := core * 2 ^ 58 + tag

/-- Room for a line in an instruction cache, which holds 128 KiB (R11): a full one gives up a line. -/
def State.icRoom (s : State) (core : Nat) : State :=
  let held := (s.icache.filter (fun e => e.1 / 2 ^ 58 == core)).map (·.1)
  if held.length < Config.icacheLines then s
  else match freePick s.freeNo held with
    | some v => { s with icache := tdel s.icache v, freeNo := s.freeNo + 1 }
    | none => s

/-- A word of the instruction cache, its line brought in from the home when absent, as its page's `cache` says (R181); a word that fails its check is fetched once more
(R223). -/
def State.icWord (s : State) (stream : Bool) (core tag idx : Nat) : State × Word :=
  let bring := fun (s : State) =>
    let (s0, ws) := s.homeReadAs stream tag
    let s1 := s0.icRoom core
    ({ s1 with icache := tins s1.icache (icKey core tag) ws }, ws)
  let (s1, ws) := match tfind s.icache (icKey core tag) with
    | some ws => (s, ws)
    | none => bring s
  let w := ws.getD idx Word.poison
  if w.checks then (s1, w)
  else let (s2, ws2) := bring s1; (s2, ws2.getD idx Word.poison)

/-- The word at an address as a fetch of the issuing agent (R150, R178, R348). A Kiln engine reads past the cores' caches. -/
def State.fetchAt (s : State) (pc : Nat) : State × Except XFault Word :=
  let core := if s.onKiln then none else some s.core
  match s.translate core s.tm.part s.tm.asid pc .fetch s.mode with
  | (s1, .error f) => (s1, .error f)
  | (s1, .ok x) =>
    if regionOf x.pa = .window then (s1, .error ⟨true, 0, false⟩)
    else if s.onKiln then (let (s2, w) := s1.wordAt x; (s2, .ok w))
    else let (s2, w) := s1.icWord (x.cache == 2) s.core (tagOf x.key (lineOf x.pa)) (x.pa / 4 % 32); (s2, .ok w)

/-- The trap of a failed fetch at an address (R348, R147). -/
def fetchTrap (f : XFault) (at_ : Nat) (k p : BitVec 32) : Trap :=
  { cause := if f.perm then cPerm else cXlate, info := f.info, retAt := true, k, p, fva := at_, write := false, fetch := true,
    stage2 := f.stage2 }

/-- The trap of an instruction word that is poisoned or fails its check twice (R223). -/
def fetchResidue (k p : BitVec 32) : Trap := { Trap.plain cResidue 0 k p with fetch := true }

/-! ### Window moves (R129, R131) -/

/-- The pool words of some logical indices of the issuing group with their backing addresses. -/
def State.moveCells (s : State) (js : List Nat) : List (Nat × Nat) :=
  js.flatMap (fun j => (List.range 32).filterMap (fun k =>
    let h := homeOf s.g k
    if h < s.tm.ngrp then some (physKey h (j % s.ringSize) k, backBase s.tm h + 128 * j + 4 * k) else none))

/-- Translate the backing address of every cell; `none` when one fails. -/
def State.cellXls (s : State) (kind : Kind) : List (Nat × Nat) → State × Option (List (Nat × XOk))
  | [] => (s, some [])
  | (key, va) :: r =>
    match s.areaXl va kind with
    | (s1, none) => (s1, none)
    | (s1, some x) =>
      match s1.cellXls kind r with
      | (s2, none) => (s2, none)
      | (s2, some xs) => (s2, some ((key, x) :: xs))

/-- Spill one cell. -/
def State.spillCell (s : State) (c : Nat × XOk) : State := s.coreStore s.core c.2 (tget s.tm.vregs c.1 Word.zero)

/-- Fill one cell; a word that fails its check is filled as poison (R165). -/
def State.fillCell (s : State) (c : Nat × XOk) : State :=
  let (s1, w) := s.coreWord s.core c.2
  { s1 with tm := { s1.tm with vregs := tset s1.tm.vregs c.1 (if w.checks then w else Word.poison) Word.zero } }

/-- R129: the moves when the frame top goes from `top` to `top'`; `none` when one fails (R131). -/
def State.moveTop (s : State) (top top' : Nat) : Option State :=
  let p := s.ringSize
  let up := (List.range (min (resLo p top') (resHi p top) - resLo p top)).map (resLo p top + ·)
  let down := (List.range (min (resLo p top) (resHi p top') - resLo p top')).map (resLo p top' + ·)
  let js := up ++ down
  if js.isEmpty then some s
  else if s.tm.spillKib = 0 ∨ js.any (fun j => j ≥ backMax s.tm) then none
  else
    match s.cellXls .store (s.moveCells up) with
    | (_, none) => none
    | (s1, some ups) =>
      match s1.cellXls .load (s1.moveCells down) with
      | (_, none) => none
      | (s2, some downs) => some (downs.foldl State.fillCell (ups.foldl State.spillCell s2))

/-- A new window base and frame size with their moves; a top above 65,535 or a failed move gives `none` (R127, R131). -/
def State.setWindow (s : State) (wb frame : Nat) : Option State :=
  if wb + frame > 65535 then none
  else (s.moveTop (s.g.wb.toNat + s.g.frame) (wb + frame)).map (fun s1 =>
    { s1 with g := { s1.g with wb := BitVec.ofNat 16 wb, frame := frame } })

/-! ### Links (R128, R350) -/

/-- A link record. -/
def linkWords (ret : Addr) (wb frame ldepth : Nat) : List Word :=
  wordsOf 2 ret.toNat ++ wordsOf 2 (wb + frame * 2 ^ 16 + ldepth * 2 ^ 23)

/-- The `call` steps of R128 but for the jump: the link is pushed and the window slides; `none` is WINDOW_SPILL. -/
def State.pushLink (s : State) (ret : Addr) (slide : Nat) : Option State :=
  let g := s.g
  if g.spill = 0 ∨ g.spill.toNat + 16 > linkEnd s.tm g.idx then none
  else
    match s.areaWrite g.spill.toNat (linkWords ret g.wb.toNat g.frame g.loops.length) with
    | (_, false) => none
    | (s1, true) =>
      ({ s1 with g := { s1.g with spill := g.spill + 16 } }).setWindow (g.wb.toNat + slide) (g.frame - slide)

/-- `call` and `callu`: a taken transfer that pops no loop entry (R145). -/
def State.doCall (s : State) (t : Addr) (slide : Nat) : State :=
  if t.toNat % 4 ≠ 0 then s.illegal s.g.exec
  else match s.pushLink (s.g.pc + 4) slide with
    | none => s.raiseAll cWindow 0 s.g.exec
    | some s1 => s1.transfer t s1.g.loops

/-- R350 `call`: the slide is below F. -/
def execSCall (sl : BitVec 6) (d : BitVec 16) (g : BitVec 3) (s : State) : Host.Outcome State Fault Refusal :=
  .next (s.sGuarded g (s.coreOnly (decide (sl.toNat < s.g.frame))) ⟨[], []⟩ (fun s =>
    s.doCall (s.g.pc + 4 * d.signExtend 64) sl.toNat))

/-- R250, R348: a register target that is no multiple of 4; one that is poison has no bits to test. The check comes before that of the residue
(R158). -/
def misTarget (ws : List Word) : Bool := !ws.any Word.isPoison && (nth ws 0).data.toNat % 4 != 0

/-- A 64-bit register target of the S-set (R348), or its failure. -/
def State.uTarget (s : State) (a : Nat) : Except LaneFail Addr :=
  if misTarget [s.s a, s.s (a + 1)] then .error ⟨cIllegal, 0, 0, false, false⟩
  else match s.sUse (srcPair a 1) 2 with
  | .error e => .error e
  | .ok ws => .ok (dat64 ws 0)

/-- R350 `callu`: the slide is below F. -/
def execSCallu (a sl : BitVec 6) (g : BitVec 3) (s : State) : Host.Outcome State Fault Refusal :=
  .next (s.sGuarded g (s.coreOnly (decide (sl.toNat < s.g.frame))) ⟨[], [(a.toNat, 2)]⟩ (fun s =>
    match s.uTarget a.toNat with
    | .error e => if e.cause ≠ cIllegal ∧ (s.pushLink (s.g.pc + 4) sl.toNat).isNone then s.raiseAll cWindow 0 s.g.exec
      else s.raiseAll e.cause e.info s.g.exec
    | .ok t => s.doCall t sl.toNat))

/-- The frame base of the innermost trap frame ends at this address (R155). -/
def frameEnd (t : Team) (g : Group) : Nat := linkBase t g.idx + g.priv.kframe.toNat + 256

/-- R141: in compact mode, is a window base below that of the stack's innermost entry? -/
def State.belowTop (s : State) (wb : Nat) : Bool :=
  s.tm.mode.getLsbD 2 && (match s.tm.stack with | e :: _ => decide (wb < e.wb.toNat) | [] => false)

/-- R128, R350: the `ret` steps. The checks come in the order of R158; DESIGN CHOICE (log 32): a field of the link in a poisoned word is not
looked at. -/
def State.doRet (s : State) : State :=
  let g := s.g
  let lanes := g.exec
  if g.spill.toNat = linkBase s.tm g.idx ∨ (g.priv.kdepth ≠ 0 ∧ g.spill.toNat = frameEnd s.tm g) then s.raiseAll cWindow 0 lanes
  else match s.areaRead (g.spill - 16).toNat 4 with
    | (_, none) => s.raiseAll cWindow 0 lanes
    | (s1, some ws) =>
      let k := ofWords ws
      let t : Addr := BitVec.ofNat 64 k
      let top := field k 64 16 + field k 80 7
      -- the window the link names, unless the word that holds it is poison
      let named := !(nth ws 2).isPoison
      let next := ({ s1 with g := { s1.g with spill := g.spill - 16 } } : State).setWindow (field k 64 16) (field k 80 7)
      if misTarget (ws.take 2) then s1.illegal lanes
      else if named && s1.belowTop (field k 64 16) then s1.raiseAll cConverge 7 lanes
      else if named && next.isNone then s1.raiseAll cWindow 0 lanes
      else if ws.any Word.isPoison then s1.raiseAll cPoison 2 lanes
      else if ws.any (fun w => !w.checks) then s1.raiseAll cResidue 0 lanes
      else if s1.spillsPending top then s1.hold .retry
      else match next with
        | none => s1.raiseAll cWindow 0 lanes
        | some s2 => s2.transfer t (s2.g.loops.drop (s2.g.loops.length - field k 87 3))

/-- R350 `ret`. -/
def execSRet (g : BitVec 3) (s : State) : Host.Outcome State Fault Refusal :=
  .next (s.sGuarded g (s.coreOnly true) ⟨[], []⟩ State.doRet)

/-- R351 `enter`. -/
def execSEnter (n : BitVec 10) (g : BitVec 3) (s : State) : Host.Outcome State Fault Refusal :=
  .next (s.sGuarded g (s.coreOnly (1 ≤ n.toNat && n.toNat ≤ 64)) ⟨[], []⟩ (fun s =>
    match s.setWindow s.g.wb.toNat n.toNat with
    | none => s.raiseAll cWindow 0 s.g.exec
    | some s1 => if s.spillsPending (s.g.wb.toNat + n.toNat) then s.hold .retry else s1.advance))

/-! ### Group mode (R142, R147) -/

/-- Does the team run in compact mode (R136)? -/
def Team.compact (t : Team) : Bool := t.mode.getLsbD 2

/-- Sub-stack entries a group holds in hardware, and the size of its slice of the area (R137). -/
def subHw (t : Team) : Nat := min 32 (128 / t.ngrp)
def subSlice (t : Team) : Nat := spillM t.spillKib / (32 * t.ngrp)
/-- The most sub-entries a group may hold. -/
def subCap (t : Team) : Nat := subHw t + subSlice t

/-- A sub-entry as R136 lays it out. -/
def subWords (e : Sub) : List Word :=
  wordsOf 2 e.joinPc.toNat ++ wordsOf 2 e.pendPc.toNat ++ wordsOf 1 e.pend.toNat ++ wordsOf 1 e.arr.toNat ++
  wordsOf 1 e.fmt.toNat ++
  wordsOf 1 (e.wb.toNat + e.ldepth * 2 ^ 16 + (if e.second then 2 ^ 24 else 0) + (if e.indirect then 2 ^ 25 else 0))

/-- The innermost sub-entry, when it lies in the area, is written there; `false` when that fails. -/
def State.syncSub (s : State) : State × Bool :=
  match s.g.subs with
  | [] => (s, true)
  | e :: r =>
    if r.length < subHw s.tm then (s, true)
    else s.areaWrite (s.tm.spillBase.toNat + (s.g.idx * subSlice s.tm + (r.length - subHw s.tm)) * 32) (subWords e)

/-- Push a sub-entry; `none` is WINDOW_SPILL (R137). -/
def State.pushSub (s : State) (e : Sub) : Option State :=
  if s.g.subs.length ≥ subCap s.tm then none
  else match ({ s with g := { s.g with subs := e :: s.g.subs } }).syncSub with
    | (s1, true) => some s1
    | (_, false) => none

/-- Replace the innermost sub-entry; `none` is WINDOW_SPILL (R155). -/
def State.setSub (s : State) (e : Sub) : Option State :=
  match ({ s with g := { s.g with subs := e :: s.g.subs.tail } } : State).syncSub with
  | (s1, true) => some s1
  | (_, false) => none

/-- The innermost sub-entry leaves the sub-stack; one in the area is read there, and `none` is WINDOW_SPILL (R155). -/
def State.popSub (s : State) : Option State :=
  let n := s.g.subs.length - 1
  let popped : State := { s with g := { s.g with subs := s.g.subs.tail } }
  if n < subHw s.tm then some popped
  else if (s.areaXls (s.tm.spillBase.toNat + (s.g.idx * subSlice s.tm + (n - subHw s.tm)) * 32) .load 8).2.isSome then some popped else none

/-- A new sub-entry of the issuing group. -/
def State.newSub (s : State) (join pendPc : Addr) (pend : BitVec 32) (indirect : Bool) : Sub :=
  { joinPc := join, pendPc := pendPc, pend := pend, arr := 0, fmt := s.g.fmt, wb := s.g.wb, ldepth := s.g.loops.length,
    second := false, indirect := indirect }

/-- A group with no bound lane outside every path has exited and drops its latch (R124, R332). -/
def Group.retireIfEmpty (g : Group) : Group := if g.bind = 0 then { g with exited := true, latch := none } else g

/-- The last path of a sub-entry has reached the join: its lanes go on there. -/
def State.leaveSub (s : State) (e : Sub) : Option State :=
  s.popSub.map (fun s1 =>
    let g1 := { s1.g with exec := (e.arr ||| s.g.exec) &&& s.g.bind, fmt := e.fmt, pc := e.joinPc }
    { s1 with g := if g1.subs.isEmpty then g1.retireIfEmpty else g1 })

/-- R142, R147: join handling with the innermost sub-entry; an access to its place in the area that fails raises WINDOW_SPILL (R155). -/
def State.joinSub (s : State) (e : Sub) : State :=
  let g := s.g
  (if e.indirect then
    let next := e.pend &&& g.bind
    if next ≠ 0 then
      ({ s with g := { g with exec := next, pc := e.pendPc, fmt := e.fmt } } : State).setSub { e with arr := e.arr ||| g.exec }
    else s.leaveSub e
  else if !e.second then
    ({ s with g := { g with
        exec := e.pend &&& g.bind
        pc := e.pendPc
        fmt := e.fmt
        loops := popLoops e.pendPc g.loops } } : State).setSub { e with arr := g.exec, second := true }
  else s.leaveSub e).getD (s.raiseAll cWindow 0 g.exec)

/-! ### Compact mode (R136–R141) -/

/-- Level groups that hold slot k, ascending. -/
def holders (x : List (BitVec 32)) (k : Nat) : List Nat := (List.range x.length).filter (fun j => bit (x.getD j 0) k)

/-- R139: the number of compacted groups of a path with lane set X. -/
def pathGroups (x : List (BitVec 32)) : Nat := (List.range 32).foldl (fun n k => max n (holders x k).length) 0

/-- R139: the level group whose lane sits in slot k of compacted group c. -/
def slotSource (x : List (BitVec 32)) (c k : Nat) : Option Nat := (holders x k)[c]?

/-- The occupied slots of compacted group c. -/
def occupied (x : List (BitVec 32)) (c : Nat) : BitVec 32 := maskOf ((List.range 32).filter (fun k => (slotSource x c k).isSome))

/-- The home number of a slot that holds no lane: no group of a team has it. -/
def noHome : Nat := 32

/-- The homes of the compacted groups from the homes of the level groups. -/
def composeHomes (x : List (BitVec 32)) (hs : List (List Nat)) : List (List Nat) :=
  (List.range (pathGroups x)).map (fun c => (List.range 32).map (fun k =>
    match slotSource x c k with
    | some j => (hs.getD j []).getD k noHome
    | none => noHome))

/-- The lane set of an entry's running path. -/
def Top.running (e : Top) : List (BitVec 32) :=
  if e.second then (List.range e.bound.length).map (fun j => e.bound.getD j 0 &&& ~~~ e.taken.getD j 0) else e.taken

/-- The homes of the groups of the level above a stack: its innermost running path, or the home groups themselves. -/
def levelHomes (n : Nat) : List Top → List (List Nat)
  | [] => (List.range n).map (fun j => List.replicate 32 j)
  | e :: r => composeHomes e.running (levelHomes n r)

/-- The number of level groups of the running path (R136). -/
def levelCount (t : Team) : Nat := match t.stack with | [] => t.ngrp | e :: _ => e.ncomp

/-- Update the issuing group's team, the issuing group among its groups. -/
def State.onTeam (s : State) (f : Team → Team) : State :=
  let t := f s.mergedTeam
  { s with tm := t, g := (tfind t.groups s.g.idx).getD s.g }

/-- A reference to group j of the issuing group's team. -/
def State.peerRef (s : State) (j : Nat) : GroupRef := ⟨s.tm.die, s.tm.core, s.tm.slot, j⟩

/-- Do something in each of some groups of the team. -/
def State.inPeers (s : State) (js : List Nat) (f : State → State) : State := js.foldl (fun s j => s.inGroup (s.peerRef j) f) s

/-- R141: the groups of a meeting take a convergence trap, each with its active lanes. -/
def State.convTrap (s : State) (js : List Nat) (info : Nat) : State :=
  s.inPeers js (fun s => s.raiseAll cConverge info s.g.exec)

/-- Groups of a level, with their numbers. -/
def levelGroups (t : Team) : List (Nat × Group) := t.groups.filter (fun p => p.1 < levelCount t)
/-- R138: a level group that is live: one stopped at an outer join or with an empty EXEC still is while a lane is bound, and a meeting
waits for it. -/
def liveGroup (g : Group) : Bool := g.bind != 0 && !g.exited && !g.halted
/-- Does the group wait at a `bd`? -/
def atMeet (g : Group) : Bool := g.wait == .meet
/-- Does the group wait at a `bar`? -/
def atBar (g : Group) : Bool := match g.wait with | .bar _ => true | _ => false

/-- The predicate of a lane of any group of a team. -/
def teamPred (t : Team) (g : Group) (n l : Nat) : Option Bool :=
  if n = 7 then some true else railVal (tget t.preds ((homeOf g l * 8 + n) * 32 + l) 1)

/-- The lanes of EXEC whose predicate is true, and those whose pair is faulty. -/
def takenOf (t : Team) (g : Group) (n : Nat) : BitVec 32 :=
  maskOf ((List.range 32).filter (fun l => bit g.exec l && teamPred t g n l == some true))

/-- R139: the groups of a path begin: composed masks, the entry's format, the start address; the other level groups stop. -/
def Team.startPath (t : Team) (e : Top) (x : List (BitVec 32)) (pc : Addr) (homes : List (List Nat)) : Team :=
  let n := pathGroups x
  { t with groups := t.groups.map (fun (j, g) =>
      if j < n then
        (j, { g with
          exec := occupied x j, bind := occupied x j, pend := 0, fmt := e.fmt, pc := pc, loops := popLoops pc g.loops,
          wait := .none, homes := homes.getD j [], drain := !g.pset.isEmpty, exited := false })
      else if j < e.ngrp then (j, { g with exec := 0, bind := 0, pend := 0, wait := .path })
      else (j, g)) }

/-- The 64 words of a mask pair (R136). -/
def maskPair (e : Top) : List Word :=
  ((List.range 32).map (fun j => Word.ofData (e.bound.getD j 0))) ++ ((List.range 32).map (fun j => Word.ofData (e.taken.getD j 0)))

/-- A team-stack entry as R136 lays it out. -/
def topWords (e : Top) : List Word :=
  wordsOf 2 e.joinPc.toNat ++ wordsOf 2 e.pendPc.toNat ++ wordsOf 1 e.fmt.toNat ++ wordsOf 1 (e.wb.toNat + e.frame * 2 ^ 16) ++
  wordsOf 1 (e.ldepth + (if e.second then 2 ^ 8 else 0) + e.ngrp * 2 ^ 16 + e.ncomp * 2 ^ 24) ++ wordsOf 1 0 ++
  wordsOf 2 e.maskVa.toNat ++ List.replicate 54 Word.zero

/-- Entry number d's mask pair, and its spilled form past the sixteenth, are written to the team-stack area (R136, R137). -/
def State.writeTop (s : State) (d : Nat) (e : Top) : State × Bool :=
  s.areaWrite e.maskVa.toNat (maskPair e ++ (if d ≥ 16 then topWords e else []))

/-- Finish the meeting instruction in a group that goes on: its replay mask clears and a requested BREAK is taken. -/
def State.meetDone (s : State) : State := s.finish

/-- R138: the meeting at a `bd` with word `w`, all live level groups `js` at it. -/
def State.meet (s : State) (js : List Nat) (w : BitVec 32) (pc : Addr) : State :=
  let t := s.mergedTeam
  let lv := levelGroups t
  let n := bits w 22 3
  let a := lv.map (fun p => if js.contains p.1 then p.2.exec else 0)
  let tk := lv.map (fun p => if js.contains p.1 then takenOf t p.2 n else 0)
  let tgt := pc + 4 * (BitVec.ofNat 11 (bits w 11 11)).signExtend 64
  let join := pc + 4 * (BitVec.ofNat 11 (bits w 0 11)).signExtend 64
  if tk.all (· == 0) then s.inPeers js State.advance
  else if tk == a then s.inPeers js (fun s => s.transfer tgt (popLoops tgt s.g.loops))
  else
    let d := t.stack.length
    let g0 := ((lv.find? (fun p => js.contains p.1)).map (·.2)).getD s.g
    let e : Top :=
      { joinPc := join, pendPc := pc + 4, fmt := g0.fmt, wb := g0.wb, frame := g0.frame,
        ldepth := g0.loops.length, second := false, ngrp := lv.length, ncomp := pathGroups tk,
        maskVa := BitVec.ofNat 64 (t.spillBase.toNat + 512 * d), taken := tk, bound := a }
    let full := s.inPeers js (fun s => s.raiseAll cWindow 0 s.g.exec)
    if t.spillKib = 0 ∨ d ≥ spillM t.spillKib / 512 then full
    else match s.writeTop d e with
      | (_, false) => full
      | (s1, true) =>
        let s2 := s1.onTeam (fun t =>
          let u := t.startPath e tk tgt (composeHomes tk (levelHomes t.ngrp t.stack))
          { u with stack := e :: t.stack })
        s2.inPeers (List.range (pathGroups tk)) State.meetDone

/-- R139: the exited lanes of a drained path leave `bound`. -/
def clearExited (t : Team) (e : Top) : List (BitVec 32) :=
  let x := e.running
  (List.range e.bound.length).map (fun j =>
    let gone := (List.range 32).filter (fun k => (List.range e.ncomp).any (fun c =>
      slotSource x c k == some j && !bit ((tfind t.groups c).map (·.bind) |>.getD 0) k))
    e.bound.getD j 0 &&& ~~~ maskOf gone)

/-- R139: the pending path drained: the level groups are restored. -/
def Team.popPath (t : Team) (e : Top) : Team :=
  let rest := t.stack.tail
  let homes := levelHomes t.ngrp rest
  { t with
    stack := rest
    groups := t.groups.map (fun (j, g) =>
      if j < e.ngrp then
        let b := e.bound.getD j 0
        let g1 := { g with
          bind := b, exec := b, pc := e.joinPc, fmt := e.fmt, homes := if rest.isEmpty then [] else homes.getD j []
          wait := if b = 0 then .path else .none
          exited := false }
        (j, if rest.isEmpty && b == 0 then { g1 with exited := true, latch := none, wait := .none } else g1)
      else (j, g)) }

/-- Has the running path drained: every compacted group of it stopped? -/
def pathDrained (t : Team) : Bool :=
  match t.stack with
  | [] => false
  | e :: _ => (List.range e.ncomp).all (fun c => ((tfind t.groups c).map (·.wait)).getD .none == .path)

/-- One drain (R139): the pending path starts, or the entry pops. `none` is WINDOW_SPILL: the entry's place in the area cannot be written, or
read (R155). -/
def State.drainPath (s : State) (e : Top) : Option State :=
  let e1 := { e with bound := clearExited s.mergedTeam e }
  let d := s.tm.stack.length - 1
  let e2 := { e1 with second := true }
  if !e.second && e2.running.any (· != 0) then
    let e3 := { e2 with ncomp := pathGroups e2.running }
    match s.writeTop d e3 with
    | (_, false) => none
    | (s1, true) => some (s1.onTeam (fun t =>
      let u := t.startPath e3 e3.running e3.pendPc (composeHomes e3.running (levelHomes t.ngrp t.stack.tail))
      { u with stack := e3 :: t.stack.tail }))
  else if (s.areaXls e.maskVa.toNat .load (if d ≥ 16 then 128 else 64)).2.isNone then none
  else some (s.onTeam (fun t => t.popPath e1))

/-- The groups of a drained path whose stack entry cannot be reached take WINDOW_SPILL where they stopped (R155): those with an active lane, or all
of them when none has one (DESIGN CHOICE, log 32). -/
def State.drainFailed (s : State) (e : Top) : State :=
  let gs := s.mergedTeam.groups.filter (fun p => p.1 < e.ncomp && !p.2.halted)
  let busy := gs.filter (fun p => p.2.exec != 0)
  s.inPeers ((if busy.isEmpty then gs else busy).map (·.1)) (fun s => s.raiseAll cWindow 0 s.g.exec)

/-- The meeting of the running level, when it is complete, and row 5 of R141. -/
def State.tryMeet (s : State) : State :=
  let live := (levelGroups s.mergedTeam).filter (fun p => liveGroup p.2)
  let at_ := live.filter (fun p => atMeet p.2)
  match at_ with
  | [] => s
  | (_, g0) :: _ =>
    if at_.length = live.length then s.meet (at_.map (·.1)) g0.waitI g0.pc
    else if live.all (fun p => atMeet p.2 || atBar p.2) then s.convTrap (at_.map (·.1)) 5
    else s

/-- What follows when a group of a compact team stops, arrives or exits: drains, then the meeting. -/
def State.settlePaths (s : State) : Nat → State
  | 0 => s
  | n + 1 =>
    if !s.tm.compact || s.tm.aborted then s
    else match s.tm.stack with
      | [] => s.tryMeet
      | e :: _ =>
        if pathDrained s.mergedTeam then
          (match s.drainPath e with
           | some s1 => s1.settlePaths n
           | none => s.drainFailed e)
        else s.tryMeet

/-! ### Team barriers (R360–R363) -/

/-- R360: the participants of a team's barriers, with their slots. -/
def participants (t : Team) : List (Nat × Group) := (levelGroups t).filter (fun p => liveGroup p.2 && p.2.wait != .path)

/-- A barrier before anything arrives. -/
def Barrier.initial : Barrier := ⟨0, 0, false⟩
/-- Barrier b of the issuing group's team. -/
def State.bar (s : State) (b : Nat) : Barrier := tget s.tm.bars b Barrier.initial
/-- Update barrier b. -/
def State.modBar (s : State) (b : Nat) (f : Barrier → Barrier) : State :=
  { s with tm := { s.tm with bars := tset s.tm.bars b (f (s.bar b)) Barrier.initial } }

/-- The bit of a group slot. -/
def slotBit (c : Nat) : BitVec 32 := 1#32 <<< c

/-- Has barrier b's phase to turn: does `arrived` cover every participant? -/
def State.barFull (s : State) (b : Nat) : Bool :=
  (s.bar b).arrived != 0 && (participants s.mergedTeam).all (fun p => bit (s.bar b).arrived p.1)

/-- R361 `complete`: the phase turns and every group stalled on b goes on. -/
def State.turnBar (s : State) (b : Nat) : State :=
  if !s.barFull b then s
  else
    let s1 := s.modBar b (fun x => { x with arrived := 0, phase := !x.phase })
    let gs := s1.mergedTeam.groups
    let atBar := (gs.filter (fun p => p.2.wait == .bar b)).map (·.1)
    let atAwt := (gs.filter (fun p => p.2.wait == .awt b)).map (·.1)
    let s2 := atAwt.foldl (fun s c => s.modBar b (fun x => { x with armed := x.armed &&& ~~~ slotBit c })) s1
    s2.inPeers (atBar ++ atAwt) State.advance

/-- A REPORT packet to the front end (R28, R92): what is counted, the grid, the die and a number. -/
def reportPacket (die kind grid x : Nat) : Packet :=
  mkPacket 7 4 die Config.hubNode 0 0 0 false 0 [wordsOf 1 kind ++ wordsOf 2 grid ++ wordsOf 1 die ++ wordsOf 2 x ++ wordsOf 2 0]

/-- R366: the team has arrived at the grid barrier when every participant waits there; its dispatcher reports it. -/
def State.gridArrive (s : State) : State :=
  let ps := participants s.mergedTeam
  if !ps.isEmpty && !s.tm.gArr && ps.all (fun p => p.2.wait == .gbar) then
    ({ s with tm := { s.tm with gArr := true } }).send (reportPacket s.tm.die 1 s.tm.grid s.tm.t)
  else s

/-- Is a group stopped at a team barrier? -/
def atTeamBar (g : Group) : Bool := match g.wait with | .bar _ => true | .awt _ => true | _ => false

/-- R363: the arrivals of trapping groups are withdrawn. -/
def State.withdraw (s : State) (p : Nat × Group) : State :=
  match p.2.wait with
  | .bar b => s.modBar b (fun x => { x with arrived := x.arrived &&& ~~~ slotBit p.1 })
  | _ => s

/-- R363: every participant is stopped at a barrier and none can turn: the groups trap, those at `gbar` alone when both kinds
are present. -/
def State.deadBars (s : State) : State :=
  let ps := participants s.mergedTeam
  let atG := ps.filter (fun p => p.2.wait == .gbar)
  let atB := ps.filter (fun p => atTeamBar p.2)
  if ps.isEmpty || atG.length + atB.length != ps.length || atB.isEmpty then s
  else
    let hit := if atG.isEmpty then atB else atG
    let s1 := hit.foldl State.withdraw s
    s1.convTrap (hit.map (·.1)) 9

/-- What follows when a participant arrives, stops or exits: barriers turn, the team arrives at the grid barrier, or a dead
wait traps. -/
def State.settleBars (s : State) : State := ((List.range 16).foldl State.turnBar s).gridArrive.deadBars

/-- Paths, the meeting, then the barriers of the issuing group's team. -/
def State.settleTeam (s : State) : State := (s.settlePaths (2 * s.tm.stack.length + 2)).settleBars

/-- R139, R142, R144: does the stack's innermost entry bind the issuing group: was it pushed since the trap entry the group is in, if any,
or is no lane bound? A handler is left by its `tret` alone. -/
def State.ownEntry (s : State) : Bool := s.g.bind == 0 || s.g.sbase.headD 0 < s.stackDepth

/-- R134, R205: no result of the group is pending and no access of it is unperformed, as the fence of a join and the move of a lane into
another group's slot need. -/
def State.settled (s : State) : Bool := s.g.pset.isEmpty && s.g.outst == 0

/-- What happens when the issuing group fetches, before an instruction issues (R139, R141, R142); `none` when nothing does. -/
def State.preIssue (s : State) : Option State :=
  if s.onKiln || !s.ownEntry then none
  else if s.tm.compact then
    match s.tm.stack with
    | [] => none
    | e :: _ =>
      let g := s.g
      if g.pc ≠ e.joinPc ∧ g.exec ≠ 0 then none
      else if !s.settled then some (s.hold .retry)
      else
        let waiting := ((levelGroups s.mergedTeam).filter (fun p => atMeet p.2 && p.1 != g.idx)).map (·.1)
        if g.pc = e.joinPc ∧ !waiting.isEmpty then some (s.convTrap (waiting ++ [g.idx]) 2)
        else if g.pc = e.joinPc ∧ (g.wb ≠ e.wb ∨ g.loops.length ≠ e.ldepth) then some (s.convTrap [g.idx] 6)
        else some ((s.hold .path).settleTeam)
  else
    match s.g.subs with
    | [] => none
    | e :: _ =>
      if s.g.pc ≠ e.joinPc ∧ s.g.exec ≠ 0 then none
      else if s.g.pc = e.joinPc ∧ (s.g.wb ≠ e.wb ∨ s.g.loops.length ≠ e.ldepth) then
        some (s.raiseAll cConverge 11 s.g.exec)
      else if !s.settled then some (s.hold .retry)
      else some (s.joinSub e)

/-- R148: is a path pending? -/
def State.pathPending (s : State) : Bool :=
  if s.tm.compact then
    s.tm.stack.any (fun e => !e.second && (List.range e.bound.length).any (fun j => e.bound.getD j 0 &&& ~~~ e.taken.getD j 0 != 0))
  else s.g.subs.any (fun e => (e.indirect || !e.second) && e.pend &&& s.g.bind != 0)

/-! ### Branches -/

/-- The lanes of EXEC whose predicate n is true or has a faulty pair. -/
def State.predLanes (s : State) (n : Nat) : Act :=
  ⟨maskOf ((List.range 32).filter (fun l => bit s.baseLanes l && s.p n l == some true)),
   maskOf ((List.range 32).filter (fun l => bit s.baseLanes l && s.p n l == none))⟩

/-- R353, R138, R142 `bd`. -/
def execVBd (c : BitVec 3) (t j : BitVec 11) (s : State) : Host.Outcome State Fault Refusal :=
  .next (s.vGuarded s.baseLanes (t != 0 && (0 : Int) < j.toInt) ⟨[], []⟩ (fun s =>
    let g := s.g
    let a := s.predLanes c.toNat
    let tgt := g.pc + 4 * t.signExtend 64
    let fault := fun (s : State) => s.raise (Trap.plain cResidue 1 a.faulty s.baseLanes)
    if s.tm.compact then
      let waiting := (levelGroups s.mergedTeam).filter (fun p => atMeet p.2 && p.1 != g.idx)
      let all := waiting.map (·.1) ++ [g.idx]
      if waiting.any (fun p => p.2.pc != g.pc) then s.convTrap all 1
      else if waiting.any (fun p => p.2.fmt != g.fmt || p.2.wb != g.wb || p.2.frame != g.frame || p.2.loops != g.loops) then
        s.convTrap all 3
      else if g.exec ≠ g.bind then s.convTrap all 4
      else if a.faulty ≠ 0 then fault s
      else if !s.settled then s.hold .retry
      else
        let w := (encode (.vBd c t j)).getD 0
        (({ s with g := { g with waitI := w } }).hold .meet).settleTeam
    else
      let splits := a.lanes ≠ 0 ∧ a.lanes ||| a.faulty ≠ s.baseLanes
      let pushed := s.pushSub (s.newSub (g.pc + 4 * j.signExtend 64) (g.pc + 4) (g.exec &&& ~~~ a.lanes) false)
      if splits ∧ pushed.isNone then s.raiseAll cWindow 0 s.baseLanes
      else if a.faulty ≠ 0 then fault s
      else if a.lanes = 0 then s.advance
      else if a.lanes = s.baseLanes then s.transfer tgt (popLoops tgt g.loops)
      else match pushed with
      | none => s.raiseAll cWindow 0 s.baseLanes
      | some s1 => ({ s1 with g := { s1.g with exec := a.lanes } }).transfer tgt (popLoops tgt g.loops)))

/-- R352, R146 `bu`. -/
def execVBu (c : BitVec 3) (d : BitVec 22) (s : State) : Host.Outcome State Fault Refusal :=
  .next (s.vGuarded s.baseLanes true ⟨[], []⟩ (fun s =>
    let a := s.predLanes c.toNat
    let tgt := s.g.pc + 4 * d.signExtend 64
    if a.lanes ≠ 0 ∧ a.lanes ||| a.faulty ≠ s.baseLanes then s.raiseAll cUniformity 0 s.baseLanes
    else if a.faulty ≠ 0 then s.raise (Trap.plain cResidue 1 a.faulty s.baseLanes)
    else if a.lanes = 0 then s.advance
    else s.transfer tgt (popLoops tgt s.g.loops)))

/-- The target of one lane, or its failure (R224, R348, R250). -/
def State.laneTarget (s : State) (a l : Nat) : Except LaneFail Nat :=
  if misTarget [s.v a l, s.v (a + 1) l] then .error ⟨cIllegal, 0, 0, false, false⟩
  else match s.vUse l (srcPair a 1) 2 with
  | .error e => .error e
  | .ok ws => .ok (dat64 ws 0).toNat

/-- The sub-entry and the link an indirect transfer pushes before it takes lanes `lt` to the lowest target (R147): `none` is WINDOW_SPILL. -/
def State.indirectPush (s : State) (lt : BitVec 32) (many : Bool) (join : Addr) (slide : Option Nat) : Option State :=
  let g := s.g
  let rest := s.baseLanes &&& ~~~ lt
  let redo := match g.subs with
    | e :: _ => e.indirect && e.pendPc == g.pc && g.exec &&& ~~~ e.pend == 0
    | [] => false
  let pushed := if s.tm.compact then some s
    else match redo, g.subs with
      | true, e :: _ => s.setSub { e with pend := rest }
      | _, _ => if many then s.pushSub (s.newSub join g.pc rest true) else some s
  match slide with
  | none => pushed
  | some k => pushed.bind (fun s => s.pushLink (g.pc + 4) k)

/-- What the tag check finds at a target (R147): a fault of its fetch, a word that fails its check (R223), a landing pad's tag or none. -/
inductive PadCheck where
  | fault (f : XFault)
  | bad
  | tag (t : Option (BitVec 8))
deriving DecidableEq, Repr

/-- The tag check of a target. -/
def State.padAt (s : State) (t : Nat) : State × PadCheck :=
  match s.fetchAt t with
  | (s1, .error f) => (s1, .fault f)
  | (s1, .ok w) =>
    if !w.checks || w.isPoison then (s1, .bad)
    else (s1, .tag (match decode w.data with | .ok (.vPad x) => some x | _ => none))

/-- The lanes of a failure list whose cause is `c`. -/
def failLanes (fs : List (Nat × LaneFail)) (c : Nat) : BitVec 32 := maskOf ((fs.filter (fun x => x.2.cause == c)).map (·.1))

/-- R158 for the lanes of an indirect transfer whose targets do not read: poison before residue, the word at the target with the latter. -/
def State.indirectFail (s : State) (fs : List (Nat × LaneFail)) (lt : BitVec 32) (bad : Bool) : Option Trap :=
  let base := s.baseLanes
  let rc := failLanes fs cResidue ||| (if bad then lt else 0)
  let first := (fs.find? (fun x => x.2.cause == cResidue))
  if failLanes fs cPoison ≠ 0 then some (Trap.plain cPoison 2 (failLanes fs cPoison) base)
  else if rc = 0 then none
  else match first with
    | some (l, f) => if bad && (lanesOf lt).headD 32 < l then some (fetchResidue rc base) else some (Trap.plain cResidue f.info rc base)
    | none => some (fetchResidue rc base)

/-- R147, R354: `jmpi` and `calli`; a slide marks `calli`. The checks come in the order of R158. -/
def State.indirect (s : State) (a : Nat) (tag : BitVec 8) (join : Addr) (slide : Option Nat) : State :=
  let g := s.g
  let base := s.baseLanes
  let fails := (lanesOf base).filterMap (fun l => match s.laneTarget a l with | .error e => some (l, e) | .ok _ => none)
  let tgts := (lanesOf base).filterMap (fun l => match s.laneTarget a l with | .ok t => some (l, t) | .error _ => none)
  if g.exec = 0 then s.transfer join (popLoops join g.loops)
  else if failLanes fails cIllegal ≠ 0 then s.raise (Trap.plain cIllegal 0 (failLanes fails cIllegal) base)
  else match sortNat (tgts.map (·.2)) with
    | [] => (match s.indirectFail fails 0 false with | some t => s.raise t | none => s.advance)
    | t :: more =>
      let lt := maskOf ((tgts.filter (fun x => x.2 == t)).map (·.1))
      if s.tm.compact && !more.isEmpty then s.raiseAll cConverge 8 base
      else
        let (s1, pc) := s.padAt t
        match pc, s1.indirectPush lt (!more.isEmpty) join slide with
        | .tag x, linked =>
          if x ≠ some tag then s1.raise (Trap.plain cPad ((x.map (·.toNat)).getD 0) lt base)
          else (match linked, s1.indirectFail fails lt false with
            | none, _ => s1.raiseAll cWindow 0 base
            | _, some t => s1.raise t
            | some s2, none =>
              let t64 : Addr := BitVec.ofNat 64 t
              ({ s2 with g := { s2.g with exec := lt ||| (g.exec &&& ~~~ base) } }).transfer t64
                (if slide.isSome then g.loops else popLoops t64 g.loops))
        | _, none => s1.raiseAll cWindow 0 base
        | .fault f, some _ => s1.raise (fetchTrap f t lt base)
        | .bad, some _ => (match s1.indirectFail fails lt true with | some t => s1.raise t | none => s1.advance)

/-- R354 `jmpi`. -/
def execVJmpi (a : BitVec 6) (t : BitVec 8) (j : BitVec 11) (s : State) : Host.Outcome State Fault Refusal :=
  .next (s.vGuarded s.baseLanes ((0 : Int) < j.toInt) ⟨[(a.toNat, 2)], []⟩ (fun s =>
    s.indirect a.toNat t (s.g.pc + 4 * j.signExtend 64) none))

/-- R354 `calli`: the slide is below F. -/
def execVCalli (a : BitVec 6) (t : BitVec 8) (sl : BitVec 6) (s : State) : Host.Outcome State Fault Refusal :=
  .next (s.vGuarded s.baseLanes (decide (sl.toNat < s.g.frame)) ⟨[(a.toNat, 2)], []⟩ (fun s =>
    s.indirect a.toNat t (s.g.pc + 4) (some sl.toNat)))

/-- R354 `pad`. -/
def execVPad (_ : BitVec 8) (s : State) : Host.Outcome State Fault Refusal :=
  .next (s.vGuarded s.baseLanes true ⟨[], []⟩ State.advance)

/-- R349 `b`. -/
def execSB (d : BitVec 22) (g : BitVec 3) (s : State) : Host.Outcome State Fault Refusal :=
  .next (s.sGuarded g true ⟨[], []⟩ (fun s => s.jump s.g.exec (s.g.pc + 4 * d.signExtend 64)))

/-- R349 `jmpu`. -/
def execSJmpu (a : BitVec 6) (g : BitVec 3) (s : State) : Host.Outcome State Fault Refusal :=
  .next (s.sGuarded g true ⟨[], [(a.toNat, 2)]⟩ (fun s =>
    match s.uTarget a.toNat with
    | .error e => s.raiseAll e.cause e.info s.g.exec
    | .ok t => s.jump s.g.exec t))

/-! ### Loops (R355, R356) -/

/-- R355 `loop`. -/
def execSLoop (a : BitVec 6) (e : BitVec 10) (g : BitVec 3) (s : State) : Host.Outcome State Fault Refusal :=
  .next (s.sGuarded g (e != 0) ⟨[], [(a.toNat, 1)]⟩ (fun s =>
    let stop := s.g.pc + 4 * e.zeroExtend 64
    match s.sUse [⟨a.toNat, 1⟩] 2 with
    | .error e => s.sFail e
    | .ok ws =>
      if dat ws 0 = 0 then s.transfer (stop + 4) (popLoops (stop + 4) s.g.loops)
      else if s.g.loops.length ≥ 4 then s.raiseAll cLoop 0 s.g.exec
      else
        let l : Loop := ⟨s.g.pc + 4, stop, (dat ws 0).zeroExtend 64⟩
        ({ s with g := { s.g with loops := l :: s.g.loops, pc := s.g.pc + 4 } }).finish))

/-- R356 `lbrk`. -/
def execSLbrk (g : BitVec 3) (s : State) : Host.Outcome State Fault Refusal :=
  .next (s.sGuarded g true ⟨[], []⟩ (fun s =>
    ({ s with g := { s.g with loops := s.g.loops.tail, pc := s.g.pc + 4 } }).finish))

/-! ### Ending, waiting and doing nothing (R357, R358) -/

/-- The lanes of a mask leave EXEC and BIND (R124, R139, R142, R357): inside a path the group goes on to its stop or join; outside one a
group with no bound lane has exited. -/
def State.exitLanes (s : State) (m : BitVec 32) : State :=
  let g := { s.g with exec := s.g.exec &&& ~~~ m, bind := s.g.bind &&& ~~~ m }
  let inPath := if s.tm.compact then !s.tm.stack.isEmpty else !g.subs.isEmpty
  if g.bind ≠ 0 then ({ s with g := g }).advance
  else if inPath then ({ s with g := { g with latch := none, step := false, sbase := [] } } : State).advance.settleTeam
  else ({ s with g := { g with exited := true, latch := none, pend := 0, wait := .none, pc := g.pc + 4, step := false } }).settleTeam

/-- R357: the V-set `exit`. -/
def execVExit (p : BitVec 3) (s : State) : Host.Outcome State Fault Refusal :=
  let a := s.act p.toNat
  .next (s.vGuarded a.lanes true ⟨[], []⟩ (fun s =>
    if a.faulty ≠ 0 then s.raise (Trap.plain cResidue 4 a.faulty s.g.exec) else s.exitLanes a.lanes))

/-- R357: the S-set `exit`. -/
def execSExit (g : BitVec 3) (s : State) : Host.Outcome State Fault Refusal :=
  .next (s.sGuarded g (s.coreOnly true) ⟨[], []⟩ (fun s => s.exitLanes 0xffffffff))

/-- R358 `nop`. -/
def execSNop (g : BitVec 3) (s : State) : Host.Outcome State Fault Refusal := .next (s.sGuarded g true ⟨[], []⟩ State.advance)

/-- R358 `sleep`: the wait of 16 × n ck ends by SLEEP_EXPIRY. -/
def execSSleep (n : BitVec 10) (g : BitVec 3) (s : State) : Host.Outcome State Fault Refusal :=
  .next (s.sGuarded g true ⟨[], []⟩ (fun s => if n = 0 then s.advance else s.hold (.sleep (16 * n.toNat))))

/-- R252, R257: the V-set opcodes whose format holds a guard in bits [2:0]; the assigned others are VB, VBU, VBI and VX. -/
def guardedOp (op : Nat) : Bool :=
  op ≤ 0x16 || (0x18 ≤ op && op ≤ 0x1a) || (0x1c ≤ op && op ≤ 0x1e) || (0x20 ≤ op && op ≤ 0x2b) || op == 0x31 ||
  (0x39 ≤ op && op ≤ 0x3e)

/-- The active lanes of a V-set word that is no instruction: its guard narrows them where its opcode's format holds one (R251). -/
def State.badWordLanes (s : State) (w : BitVec 32) : BitVec 32 :=
  if guardedOp (field w.toNat 25 6) then (s.act (field w.toNat 0 3)).lanes else s.baseLanes

/-- UNASSIGNED_ENCODING (R259): a word that is no instruction raises ILLEGAL_INSN with its active lanes; on a Kiln engine a V-set word
ends the command (R89). -/
def execUnassignedEncoding (w : BitVec 32) (s : State) : Host.Outcome State Fault Refusal :=
  .next (if w.getLsbD 31 then s.illegal s.g.exec
    else if s.onKiln then s.kilnStop 0x09 false
    else s.illegal (s.badWordLanes w))

end Sys2Proof.Machine
end

