-- ==== Sys2Proof/Machine/LaneInt.lean ====
section
/-! DEFINITION. Lane instructions: integer, logic, compare and lane exchange (chapter 12, R268–R290). -/

namespace Sys2Proof.Machine

/-- Registers of a three-operand form, `k` registers each. -/
def names3 (d a b k : Nat) : Names := ⟨[(d, k), (a, k), (b, k)], []⟩
/-- Registers of a two-operand form. -/
def names2 (d a k : Nat) : Names := ⟨[(d, k), (a, k)], []⟩
/-- Destinations of `k` registers. -/
def dests (d k : Nat) : List Nat := (List.range k).map (d + ·)
/-! ### Integer arithmetic -/

/-- 32-bit add or subtract with its prediction (R226). -/
def addSub32 (sub : Bool) (ws : List Word) : List (BitVec 32 × BitVec 4) :=
  let x := dat ws 0
  let y := dat ws 1
  if sub then [(x - y, predSub (rs ws 0) (rs ws 1) 0 (borrow32 x y 0))]
  else [(x + y, predAdd (rs ws 0) (rs ws 1) 0 (carry32 x y 0))]

/-- 64-bit add or subtract by halves (R226): words 0–1 and 2–3 of the sources. -/
def addSub64 (sub : Bool) (ws : List Word) : List (BitVec 32 × BitVec 4) :=
  let al := dat ws 0
  let ah := dat ws 1
  let bl := dat ws 2
  let bh := dat ws 3
  if sub then
    let c0 := borrow32 al bl 0
    let c1 := borrow32 ah bh c0
    [(al - bl, predSub (rs ws 0) (rs ws 2) 0 c0), (ah - bh - BitVec.ofNat 32 c0, predSub (rs ws 1) (rs ws 3) c0 c1)]
  else
    let c0 := carry32 al bl 0
    let c1 := carry32 ah bh c0
    [(al + bl, predAdd (rs ws 0) (rs ws 2) 0 c0), (ah + bh + BitVec.ofNat 32 c0, predAdd (rs ws 1) (rs ws 3) c0 c1)]

/-- Packed add or subtract (R226, R271). -/
def addSubPacked (w n : Nat) (sub : Bool) (ws : List Word) : List (BitVec 32 × BitVec 4) :=
  let p := packedAdd w n sub (dat ws 0) (dat ws 1)
  [(p.1, if sub then predSub (rs ws 0) (rs ws 1) 0 p.2 else predAdd (rs ws 0) (rs ws 1) 0 p.2)]

/-- R271: `add` and `sub` by type code: 0 32-bit, 1 64-bit, 2 packed 16-bit, 3 packed 8-bit. -/
def addSub (sub : Bool) (t : Nat) (ws : List Word) : List (BitVec 32 × BitVec 4) :=
  match t with
  | 0 => addSub32 sub ws
  | 1 => addSub64 sub ws
  | 2 => addSubPacked 16 2 sub ws
  | _ => addSubPacked 8 4 sub ws

/-- The shared form of `add` and `sub`. -/
def execAddSub (sub : Bool) (d a b : BitVec 6) (t : BitVec 2) (p : BitVec 3) (s : State) : State :=
  let k := if t = 1 then 2 else 1
  s.laneOp p true (names3 d.toNat a.toNat b.toNat k) (fun s =>
    s.laneArith (srcs a.toNat k 1 ++ srcs b.toNat k 2) (dests d.toNat k) (addSub sub t.toNat))

/-- R271 `add`. -/
def execVAdd (d a b : BitVec 6) (t : BitVec 2) (p : BitVec 3) (s : State) : Host.Outcome State Fault Refusal :=
  .next (execAddSub false d a b t p s)

/-- R271 `sub`. -/
def execVSub (d a b : BitVec 6) (t : BitVec 2) (p : BitVec 3) (s : State) : Host.Outcome State Fault Refusal :=
  .next (execAddSub true d a b t p s)

/-- R273: add or subtract through `p6`: sum, prediction, carry or borrow out. -/
def addxWord (sub : Bool) (x y : Word) (ci : Nat) : BitVec 32 × BitVec 4 × Bool :=
  if sub then
    let c := borrow32 x.data y.data ci
    (x.data - y.data - BitVec.ofNat 32 ci, predSub x.res y.res ci c, c == 1)
  else
    let c := carry32 x.data y.data ci
    (x.data + y.data + BitVec.ofNat 32 ci, predAdd x.res y.res ci c, c == 1)

/-- R273: one lane of `addx` or `subx`; a poisoned source is a use (`info` 1). -/
def addxLane (sub : Bool) (d a b : Nat) (s : State) (l : Nat) : LaneRes :=
  if (s.v a l).isPoison || (s.v b l).isPoison then .error (.poison 1)
  else match s.srcWords l [⟨a, 1⟩, ⟨b, 2⟩] with
    | .error e => .error e
    | .ok _ =>
      match s.p 6 l with
      | none => .error (.rc 3)
      | some ci =>
        let r := addxWord sub (s.v a l) (s.v b l) (if ci then 1 else 0)
        match checkedWord r.1 r.2.1 with
        | .error e => .error e
        | .ok w => .ok ⟨[(d, w)], [(6, r.2.2)]⟩

/-- R273 `addx`. -/
def execVAddx (d a b : BitVec 6) (p : BitVec 3) (s : State) : Host.Outcome State Fault Refusal :=
  .next (s.laneOp p true (names3 d.toNat a.toNat b.toNat 1) (addxLane false d.toNat a.toNat b.toNat))

/-- R273 `subx`. -/
def execVSubx (d a b : BitVec 6) (p : BitVec 3) (s : State) : Host.Outcome State Fault Refusal :=
  .next (s.laneOp p true (names3 d.toNat a.toNat b.toNat 1) (addxLane true d.toNat a.toNat b.toNat))

/-- The low half of a·b + c with its prediction (R227). -/
def mulLow (a b : Word) (c : BitVec 32) (rc : BitVec 4) : BitVec 32 × BitVec 4 :=
  (a.data * b.data + c, predLow a.res b.res rc (resOf (hiProd a.data b.data c.toNat)))

/-- The low 64 bits of a 64-bit product from four partial products, summed under R226 (R227). -/
def mul64 (ws : List Word) : List (BitVec 32 × BitVec 4) :=
  let al := nth ws 0
  let ah := nth ws 1
  let bl := nth ws 2
  let bh := nth ws 3
  let h0 := hiProd al.data bl.data 0
  let l1 := al.data * bh.data
  let l2 := ah.data * bl.data
  let sum := h0.toNat + l1.toNat + l2.toNat
  let rh0 := predHigh al.res bl.res 0 (resOf (al.data * bl.data))
  let rl1 := predLow al.res bh.res 0 (resOf (hiProd al.data bh.data 0))
  let rl2 := predLow ah.res bl.res 0 (resOf (hiProd ah.data bl.data 0))
  [mulLow al bl 0 0, (BitVec.ofNat 32 sum, r15 (ri rh0 + ri rl1 + ri rl2 - (sum / 2 ^ 32 : Nat)))]

/-- R271 `mul`. -/
def execVMul (d a b : BitVec 6) (t : BitVec 1) (p : BitVec 3) (s : State) : Host.Outcome State Fault Refusal :=
  let k := if t = 1 then 2 else 1
  .next (s.laneOp p true (names3 d.toNat a.toNat b.toNat k) (fun s =>
    s.laneArith (srcs a.toNat k 1 ++ srcs b.toNat k 2) (dests d.toNat k) (fun ws =>
      if t = 1 then mul64 ws else [mulLow (nth ws 0) (nth ws 1) 0 0])))

/-- The signed high half of a·b + c, where c is sign-extended (R227, R274): the word and its prediction. -/
def mulHighS (a b : Word) (c : BitVec 32) (rc : BitVec 4) : BitVec 32 × BitVec 4 :=
  let hu := hiProd a.data b.data c.toNat
  let rhu := predHigh a.res b.res rc (resOf (a.data * b.data + c))
  let v : Int := (hu.toNat : Int) - (if isNeg a.data then (b.data.toNat : Int) else 0) -
    (if isNeg b.data then (a.data.toNat : Int) else 0) + (if isNeg c then 2 ^ 32 - 1 else 0)
  let x := BitVec.ofInt 32 v
  (x, predHighS rhu a.res b.res (isNeg a.data) (isNeg b.data) (((x.toNat : Int) - v) / 2 ^ 32))

/-- The unsigned high half of a·b + c with its prediction. -/
def mulHighU (a b : Word) (c : BitVec 32) (rc : BitVec 4) : BitVec 32 × BitVec 4 :=
  (hiProd a.data b.data c.toNat, predHigh a.res b.res rc (resOf (a.data * b.data + c)))

/-- R271 `mulh`: s = 1 signed. -/
def execVMulh (d a b : BitVec 6) (sg : BitVec 1) (p : BitVec 3) (s : State) : Host.Outcome State Fault Refusal :=
  .next (s.laneOp p true (names3 d.toNat a.toNat b.toNat 1) (fun s =>
    s.laneArith [⟨a.toNat, 1⟩, ⟨b.toNat, 2⟩] [d.toNat] (fun ws =>
      [if sg = 1 then mulHighS (nth ws 0) (nth ws 1) 0 0 else mulHighU (nth ws 0) (nth ws 1) 0 0])))

/-- R271 `mad`: the old destination is the addend. -/
def execVMad (d a b : BitVec 6) (p : BitVec 3) (s : State) : Host.Outcome State Fault Refusal :=
  .next (s.laneOp p true (names3 d.toNat a.toNat b.toNat 1) (fun s =>
    s.laneArith [⟨a.toNat, 1⟩, ⟨b.toNat, 2⟩, ⟨d.toNat, 3⟩] [d.toNat] (fun ws =>
      [mulLow (nth ws 0) (nth ws 1) (dat ws 2) (rs ws 2)])))

/-- R274 `madw`: s = 1 signed; the pair `vd` takes the 64-bit product plus the addend. -/
def execVMadw (d a b : BitVec 6) (sg : BitVec 1) (p : BitVec 3) (s : State) : Host.Outcome State Fault Refusal :=
  .next (s.laneOp p true ⟨[(d.toNat, 2), (a.toNat, 1), (b.toNat, 1)], []⟩ (fun s =>
    s.laneArith [⟨a.toNat, 1⟩, ⟨b.toNat, 2⟩, ⟨d.toNat, 3⟩] [d.toNat, d.toNat + 1] (fun ws =>
      [mulLow (nth ws 0) (nth ws 1) (dat ws 2) (rs ws 2),
       if sg = 1 then mulHighS (nth ws 0) (nth ws 1) (dat ws 2) (rs ws 2)
       else mulHighU (nth ws 0) (nth ws 1) (dat ws 2) (rs ws 2)])))

/-- R272 `sad`: the absolute difference plus the old destination, each step predicted (R226). -/
def sadWord (sgn : Bool) (a b c : Word) : BitVec 32 × BitVec 4 :=
  let less := if sgn then a.data.slt b.data else a.data.ult b.data
  let x := if less then b else a
  let y := if less then a else b
  let df := x.data - y.data
  let rd := predSub x.res y.res 0 (borrow32 x.data y.data 0)
  (df + c.data, predAdd rd c.res 0 (carry32 df c.data 0))

/-- R272 `sad`. -/
def execVSad (d a b : BitVec 6) (sg : BitVec 1) (p : BitVec 3) (s : State) : Host.Outcome State Fault Refusal :=
  .next (s.laneOp p true (names3 d.toNat a.toNat b.toNat 1) (fun s =>
    s.laneArith [⟨a.toNat, 1⟩, ⟨b.toNat, 2⟩, ⟨d.toNat, 3⟩] [d.toNat] (fun ws =>
      [sadWord (sg = 1) (nth ws 0) (nth ws 1) (nth ws 2)])))

/-- R272 `abs`, R226. -/
def absWord (a : Word) : BitVec 32 × BitVec 4 := if isNeg a.data then (0 - a.data, predNeg a.res 1) else (a.data, a.res)

/-- R272 `abs.i32`. -/
def execVAbs (d a : BitVec 6) (p : BitVec 3) (s : State) : Host.Outcome State Fault Refusal :=
  .next (s.laneOp p true (names2 d.toNat a.toNat 1) (fun s =>
    s.laneArith [⟨a.toNat, 1⟩] [d.toNat] (fun ws => [absWord (nth ws 0)])))

/-- R272 `neg.i32`, R226. -/
def execVNegI32 (d a : BitVec 6) (p : BitVec 3) (s : State) : Host.Outcome State Fault Refusal :=
  .next (s.laneOp p true (names2 d.toNat a.toNat 1) (fun s =>
    s.laneArith [⟨a.toNat, 1⟩] [d.toNat] (fun ws =>
      [(0 - dat ws 0, predNeg (rs ws 0) (if dat ws 0 = 0 then 0 else 1))])))

/-- R272 `neg.i64`: 0 minus the pair, by the 64-bit identities. -/
def execVNegI64 (d a : BitVec 6) (p : BitVec 3) (s : State) : Host.Outcome State Fault Refusal :=
  .next (s.laneOp p true (names2 d.toNat a.toNat 2) (fun s =>
    s.laneArith (srcPair a.toNat 1) [d.toNat, d.toNat + 1] (fun ws => addSub64 true ([Word.zero, Word.zero] ++ ws))))

/-! ### Bit fields, permutes and moves -/

/-- R277: position and limited length of a field operand. -/
def bfPos (b : BitVec 32) : Nat := b.toNat % 32
def bfLen (b : BitVec 32) : Nat := min (min (b.toNat / 256 % 64) 32) (32 - bfPos b)

/-- R277 `bfx.n32`. -/
def bfxU (a b : BitVec 32) : BitVec 32 := BitVec.ofNat 32 (a.toNat / 2 ^ bfPos b % 2 ^ bfLen b)
/-- R277 `bfx.i32`. -/
def bfxS (a b : BitVec 32) : BitVec 32 :=
  let x := a.toNat / 2 ^ bfPos b % 2 ^ bfLen b
  if bfLen b = 0 then 0
  else if x / 2 ^ (bfLen b - 1) = 1 then BitVec.ofInt 32 ((x : Int) - (2 ^ bfLen b : Nat)) else BitVec.ofNat 32 x
/-- R277 `bfi`. -/
def bfiW (old a b : BitVec 32) : BitVec 32 :=
  let m : BitVec 32 := BitVec.ofNat 32 (2 ^ bfLen b - 1)
  (old &&& ~~~ (m <<< bfPos b)) ||| ((a &&& m) <<< bfPos b)

/-- The shared form of the duplicated-class three-source instructions (R230). -/
def execDup (d : BitVec 6) (p : BitVec 3) (ss : List Src) (f : List Word → BitVec 32) (s : State) : State :=
  s.laneOp p true ⟨(d.toNat, 1) :: ss.map (fun x => (x.n, 1)), []⟩ (fun s =>
    s.laneArith ss [d.toNat] (fun ws => [gen (f ws)]))

/-- R277 `bfx.n32`. -/
def execVBfxN32 (d a b : BitVec 6) (p : BitVec 3) (s : State) : Host.Outcome State Fault Refusal :=
  .next (execDup d p [⟨a.toNat, 1⟩, ⟨b.toNat, 2⟩] (fun ws => bfxU (dat ws 0) (dat ws 1)) s)
/-- R277 `bfx.i32`. -/
def execVBfxI32 (d a b : BitVec 6) (p : BitVec 3) (s : State) : Host.Outcome State Fault Refusal :=
  .next (execDup d p [⟨a.toNat, 1⟩, ⟨b.toNat, 2⟩] (fun ws => bfxS (dat ws 0) (dat ws 1)) s)
/-- R277 `bfi`. -/
def execVBfi (d a b : BitVec 6) (p : BitVec 3) (s : State) : Host.Outcome State Fault Refusal :=
  .next (execDup d p [⟨a.toNat, 1⟩, ⟨b.toNat, 2⟩, ⟨d.toNat, 3⟩] (fun ws => bfiW (dat ws 2) (dat ws 0) (dat ws 1)) s)

/-- R278: the result byte of one selector byte over the pool of eight bytes. -/
def pickByte (pool sel : Nat) : Nat :=
  let b := pool / 256 ^ (sel % 8) % 256
  match sel / 8 % 4 with
  | 0 => b
  | 1 => if b ≥ 128 then 255 else 0
  | 2 => 0
  | _ => 255

/-- R278 `bpick`. -/
def bpickW (sel a b : BitVec 32) : BitVec 32 :=
  let pool := a.toNat + b.toNat * 2 ^ 32
  BitVec.ofNat 32 ((List.range 4).foldl (fun acc i => acc + pickByte pool (sel.toNat / 256 ^ i % 256) * 256 ^ i) 0)

/-- R278 `bpick`. -/
def execVBpick (d a b : BitVec 6) (p : BitVec 3) (s : State) : Host.Outcome State Fault Refusal :=
  .next (execDup d p [⟨a.toNat, 1⟩, ⟨b.toNat, 2⟩, ⟨d.toNat, 3⟩] (fun ws => bpickW (dat ws 2) (dat ws 0) (dat ws 1)) s)

/-- R279: a move of `k` words with their residues. -/
def movLane (d a k : Nat) (s : State) (l : Nat) : LaneRes :=
  match s.srcWords l (srcs a k 1) with
  | .error e => .error e
  | .ok ws => .ok (carry d (wholeValue ws))

/-- R279 `mov.b32`. -/
def execVMovB32 (d a : BitVec 6) (p : BitVec 3) (s : State) : Host.Outcome State Fault Refusal :=
  .next (s.laneOp p true (names2 d.toNat a.toNat 1) (movLane d.toNat a.toNat 1))
/-- R279 `mov.b64`. -/
def execVMovB64 (d a : BitVec 6) (p : BitVec 3) (s : State) : Host.Outcome State Fault Refusal :=
  .next (s.laneOp p true (names2 d.toNat a.toNat 2) (movLane d.toNat a.toNat 2))

/-! ### Minimum and maximum -/

/-- R275: the chosen words: a poisoned operand is never chosen; both poisoned give poison. -/
def minmaxWords (isMax sgn wide : Bool) (xs ys : List Word) : List Word :=
  let px := xs.any Word.isPoison
  let py := ys.any Word.isPoison
  if px && py then xs.map (fun _ => Word.poison)
  else if px then ys
  else if py then xs
  else if (if wide then picksA isMax sgn (dat64 xs 0) (dat64 ys 0) else picksA isMax sgn (dat xs 0) (dat ys 0)) then xs else ys

/-- One lane of `min` or `max`. -/
def minmaxLane (isMax sgn wide : Bool) (d a b : Nat) (s : State) (l : Nat) : LaneRes :=
  let k := if wide then 2 else 1
  match s.srcWords l (srcs a k 1 ++ srcs b k 2) with
  | .error e => .error e
  | .ok ws => .ok (carry d (minmaxWords isMax sgn wide (ws.take k) (ws.drop k)))

/-- R275: fn 0 signed, 1 unsigned in the low bit, w the 64-bit forms. -/
def execMinMax (isMax : Bool) (d a b : BitVec 6) (w u : BitVec 1) (p : BitVec 3) (s : State) : State :=
  s.laneOp p true (names3 d.toNat a.toNat b.toNat (if w = 1 then 2 else 1))
    (minmaxLane isMax (u = 0) (w = 1) d.toNat a.toNat b.toNat)

/-- R275 `min`. -/
def execVMin (d a b : BitVec 6) (w u : BitVec 1) (p : BitVec 3) (s : State) : Host.Outcome State Fault Refusal :=
  .next (execMinMax false d a b w u p s)
/-- R275 `max`. -/
def execVMax (d a b : BitVec 6) (w u : BitVec 1) (p : BitVec 3) (s : State) : Host.Outcome State Fault Refusal :=
  .next (execMinMax true d a b w u p s)

/-! ### Logic, shifts and bit counts -/

/-- The logic operations with predictions from another network (R228). -/
def andW (a b : Word) : BitVec 32 × BitVec 4 := (a.data &&& b.data, predAnd a.res b.res (resOf (a.data ||| b.data)))
def orW (a b : Word) : BitVec 32 × BitVec 4 := (a.data ||| b.data, predOr a.res b.res (resOf (a.data &&& b.data)))
def xorW (a b : Word) : BitVec 32 × BitVec 4 := (a.data ^^^ b.data, predXor a.res b.res (resOf (a.data &&& b.data)))
def andnW (a b : Word) : BitVec 32 × BitVec 4 := andW a ⟨~~~ b.data, predNot b.res⟩

/-- The shifts by k with their predictions (R229). -/
def shlW (a : Word) (k : Nat) : BitVec 32 × BitVec 4 := (a.data <<< k, predShl a.res k (outShl a.data k))
def shrW (a : Word) (k : Nat) : BitVec 32 × BitVec 4 := (a.data >>> k, predShr a.res k (outShr a.data k))
def sarW (a : Word) (k : Nat) : BitVec 32 × BitVec 4 :=
  (a.data.sshiftRight k, predSar a.res k (outShr a.data k) (isNeg a.data))
def rotW (a : Word) (k : Nat) : BitVec 32 × BitVec 4 := (a.data.rotateLeft k, predRot a.res k)

/-- A two-source logic form. -/
def execLogic (f : Word → Word → BitVec 32 × BitVec 4) (d a b : BitVec 6) (p : BitVec 3) (s : State) : State :=
  s.laneOp p true (names3 d.toNat a.toNat b.toNat 1) (fun s =>
    s.laneArith [⟨a.toNat, 1⟩, ⟨b.toNat, 2⟩] [d.toNat] (fun ws => [f (nth ws 0) (nth ws 1)]))

/-- R276: the shift count is `vb`[4:0]. -/
def byCount (f : Word → Nat → BitVec 32 × BitVec 4) (a b : Word) : BitVec 32 × BitVec 4 := f a (b.data.toNat % 32)

/-- R276 `and`. -/
def execVAnd (d a b : BitVec 6) (p : BitVec 3) (s : State) : Host.Outcome State Fault Refusal := .next (execLogic andW d a b p s)
/-- R276 `or`. -/
def execVOr (d a b : BitVec 6) (p : BitVec 3) (s : State) : Host.Outcome State Fault Refusal := .next (execLogic orW d a b p s)
/-- R276 `xor`. -/
def execVXor (d a b : BitVec 6) (p : BitVec 3) (s : State) : Host.Outcome State Fault Refusal := .next (execLogic xorW d a b p s)
/-- R276 `andn`. -/
def execVAndn (d a b : BitVec 6) (p : BitVec 3) (s : State) : Host.Outcome State Fault Refusal := .next (execLogic andnW d a b p s)
/-- R276 `shl`. -/
def execVShl (d a b : BitVec 6) (p : BitVec 3) (s : State) : Host.Outcome State Fault Refusal :=
  .next (execLogic (byCount shlW) d a b p s)
/-- R276 `shr`. -/
def execVShr (d a b : BitVec 6) (p : BitVec 3) (s : State) : Host.Outcome State Fault Refusal :=
  .next (execLogic (byCount shrW) d a b p s)
/-- R276 `sar`. -/
def execVSar (d a b : BitVec 6) (p : BitVec 3) (s : State) : Host.Outcome State Fault Refusal :=
  .next (execLogic (byCount sarW) d a b p s)
/-- R276 `rot`. -/
def execVRot (d a b : BitVec 6) (p : BitVec 3) (s : State) : Host.Outcome State Fault Refusal :=
  .next (execLogic (byCount rotW) d a b p s)

/-- R276 `shf`: the left funnel shift of va:old vd. -/
def shfW (a old : BitVec 32) (k : Nat) : BitVec 32 := if k = 0 then a else (a <<< k) ||| (old >>> (32 - k))

/-- R276 `shf`. -/
def execVShf (d a b : BitVec 6) (p : BitVec 3) (s : State) : Host.Outcome State Fault Refusal :=
  .next (execDup d p [⟨a.toNat, 1⟩, ⟨b.toNat, 2⟩, ⟨d.toNat, 3⟩]
    (fun ws => shfW (dat ws 0) (dat ws 2) ((dat ws 1).toNat % 32)) s)

/-- R276 `clz`: leading zeros. -/
def clzW (a : BitVec 32) : BitVec 32 := BitVec.ofNat 32 (if a = 0 then 32 else 31 - Nat.log2 a.toNat)
/-- R276 `popc`: set bits. -/
def popcW (a : BitVec 32) : BitVec 32 := BitVec.ofNat 32 (popcount a)
/-- R276 `brev`: bits reversed. -/
def brevW (a : BitVec 32) : BitVec 32 := a.reverse

/-- R276 `clz`. -/
def execVClz (d a : BitVec 6) (p : BitVec 3) (s : State) : Host.Outcome State Fault Refusal :=
  .next (execDup d p [⟨a.toNat, 1⟩] (fun ws => clzW (dat ws 0)) s)
/-- R276 `popc`. -/
def execVPopc (d a : BitVec 6) (p : BitVec 3) (s : State) : Host.Outcome State Fault Refusal :=
  .next (execDup d p [⟨a.toNat, 1⟩] (fun ws => popcW (dat ws 0)) s)
/-- R276 `brev`. -/
def execVBrev (d a : BitVec 6) (p : BitVec 3) (s : State) : Host.Outcome State Fault Refusal :=
  .next (execDup d p [⟨a.toNat, 1⟩] (fun ws => brevW (dat ws 0)) s)

/-! ### Immediate forms (R280, R281) -/

/-- A sign-extended immediate as a word with its residue (R223). -/
def immS {w : Nat} (i : BitVec w) : Word := Word.ofData (i.signExtend 32)

/-- A form with one source and an immediate word. -/
def execImm (f : Word → Word → BitVec 32 × BitVec 4) (d a : BitVec 6) (i : Word) (p : BitVec 3) (s : State) : State :=
  s.laneOp p true (names2 d.toNat a.toNat 1) (fun s =>
    s.laneArith [⟨a.toNat, 1⟩] [d.toNat] (fun ws => [f (nth ws 0) i]))

/-- 32-bit add of two words with its prediction (R226). -/
def addW (a b : Word) : BitVec 32 × BitVec 4 := (a.data + b.data, predAdd a.res b.res 0 (carry32 a.data b.data 0))

/-- R280 `addi`. -/
def execVAddi (d a : BitVec 6) (i : BitVec 10) (p : BitVec 3) (s : State) : Host.Outcome State Fault Refusal :=
  .next (execImm addW d a (immS i) p s)
/-- R280 `andi`. -/
def execVAndi (d a : BitVec 6) (i : BitVec 10) (p : BitVec 3) (s : State) : Host.Outcome State Fault Refusal :=
  .next (execImm andW d a (immS i) p s)
/-- R280 `ori`. -/
def execVOri (d a : BitVec 6) (i : BitVec 10) (p : BitVec 3) (s : State) : Host.Outcome State Fault Refusal :=
  .next (execImm orW d a (immS i) p s)
/-- R280 `xori`. -/
def execVXori (d a : BitVec 6) (i : BitVec 10) (p : BitVec 3) (s : State) : Host.Outcome State Fault Refusal :=
  .next (execImm xorW d a (immS i) p s)
/-- R280 `shli`. -/
def execVShli (d a : BitVec 6) (k : BitVec 5) (p : BitVec 3) (s : State) : Host.Outcome State Fault Refusal :=
  .next (execImm (byCount shlW) d a (Word.ofData (k.zeroExtend 32)) p s)
/-- R280 `shri`. -/
def execVShri (d a : BitVec 6) (k : BitVec 5) (p : BitVec 3) (s : State) : Host.Outcome State Fault Refusal :=
  .next (execImm (byCount shrW) d a (Word.ofData (k.zeroExtend 32)) p s)

/-- R280 `movi`. -/
def execVMovi (d : BitVec 6) (i : BitVec 16) (p : BitVec 3) (s : State) : Host.Outcome State Fault Refusal :=
  .next (s.laneOp p true ⟨[(d.toNat, 1)], []⟩ (fun s =>
    s.laneArith [] [d.toNat] (fun _ => [((immS i).data, (immS i).res)])))

/-- R281: one half of a word replaced, with its prediction. -/
def halfW (hi : Bool) (old : Word) (i : BitVec 16) : BitVec 32 × BitVec 4 :=
  let h := old.data.extractLsb' 16 16
  let l := old.data.extractLsb' 0 16
  if hi then (i ++ l, predReplace old.res h.toNat i.toNat) else (h ++ i, predReplace old.res l.toNat i.toNat)

/-- R281 `movl`. -/
def execVMovl (d : BitVec 6) (i : BitVec 16) (p : BitVec 3) (s : State) : Host.Outcome State Fault Refusal :=
  .next (s.laneOp p true ⟨[(d.toNat, 1)], []⟩ (fun s =>
    s.laneArith [⟨d.toNat, 3⟩] [d.toNat] (fun ws => [halfW false (nth ws 0) i])))
/-- R281 `movh`. -/
def execVMovh (d : BitVec 6) (i : BitVec 16) (p : BitVec 3) (s : State) : Host.Outcome State Fault Refusal :=
  .next (s.laneOp p true ⟨[(d.toNat, 1)], []⟩ (fun s =>
    s.laneArith [⟨d.toNat, 3⟩] [d.toNat] (fun ws => [halfW true (nth ws 0) i])))

/-! ### Compare, select and predicate logic -/

/-- R282: one lane of `sel`; both operands are source-checked, the selecting pair is checked. -/
def selLane (wide : Bool) (n d a b : Nat) (s : State) (l : Nat) : LaneRes :=
  let k := if wide then 2 else 1
  match s.srcWords l (srcs a k 1 ++ srcs b k 2) with
  | .error e => .error e
  | .ok ws =>
    match s.p n l with
    | none => .error (.rc 3)
    | some c => .ok (carry d (wholeValue (if c then ws.take k else ws.drop k)))

/-- R282 `sel`. -/
def execVSel (d a b : BitVec 6) (w : BitVec 1) (n p : BitVec 3) (s : State) : Host.Outcome State Fault Refusal :=
  .next (s.laneOp p true (names3 d.toNat a.toNat b.toNat (if w = 1 then 2 else 1))
    (selLane (w = 1) n.toNat d.toNat a.toNat b.toNat))

/-- R284: one lane of a compare: a poisoned source is a use; the condition is written to the predicate. -/
def cmpLane (d : Nat) (ss : List Src) (f : List Word → Bool) (s : State) (l : Nat) : LaneRes :=
  if ss.any (fun x => (s.v x.n l).isPoison) then .error (.poison 1)
  else match s.srcWords l ss with
    | .error e => .error e
    | .ok ws => if bit s.glitch l then .error (.rc 0) else .ok ⟨[], [(d, f ws)]⟩

/-- R284 `cmp`: a destination of 7 is illegal (R268). -/
def execVCmp (d : BitVec 3) (a b : BitVec 6) (w : BitVec 1) (c p : BitVec 3) (s : State) : Host.Outcome State Fault Refusal :=
  let k := if w = 1 then 2 else 1
  .next (s.laneOp p (d != 7) ⟨[(a.toNat, k), (b.toNat, k)], []⟩
    (cmpLane d.toNat (srcs a.toNat k 1 ++ srcs b.toNat k 2) (fun ws =>
      if w = 1 then condOf c.toNat (dat64 ws 0) (dat64 ws 2) else condOf c.toNat (dat ws 0) (dat ws 1))))

/-- R285 `cmpi`. -/
def execVCmpi (d : BitVec 3) (a : BitVec 6) (c : BitVec 3) (i : BitVec 7) (p : BitVec 3) (s : State) :
    Host.Outcome State Fault Refusal :=
  .next (s.laneOp p (d != 7) ⟨[(a.toNat, 1)], []⟩
    (cmpLane d.toNat [⟨a.toNat, 1⟩] (fun ws => condOf c.toNat (dat ws 0) (i.signExtend 32))))

/-- R286: one lane of `pset`. -/
def psetLane (d a b : Nat) (t : BitVec 4) (s : State) (l : Nat) : LaneRes :=
  match s.p a l, s.p b l with
  | none, _ => .error (.rc 1)
  | _, none => .error (.rc 2)
  | some x, some y => .ok ⟨[], [(d, t.getLsbD (2 * (if x then 1 else 0) + (if y then 1 else 0)))]⟩

/-- R286 `pset`. -/
def execVPset (d a b : BitVec 3) (t : BitVec 4) (p : BitVec 3) (s : State) : Host.Outcome State Fault Refusal :=
  .next (s.laneOp p (d != 7) ⟨[], []⟩ (psetLane d.toNat a.toNat b.toNat t))

/-! ### Lane exchange -/

/-- R287: an instruction that commits for every active lane or for none. A faulty guard fails its lanes with P = EXEC; a
failed source or result in any lane fails every active lane. -/
def State.allOrNone (s : State) (pg : BitVec 3) (legal : Bool) (names : Names)
    (f : State → List Nat → Except LaneFail (List (Nat × LaneOut))) : State :=
  let a := s.act pg.toNat
  s.vGuarded a.lanes legal names (fun s =>
    if a.faulty ≠ 0 then s.raise (Trap.plain cResidue 4 a.faulty s.g.exec)
    else
      let s1 := { s with glitch := 0 }
      match f s1 (lanesOf a.lanes) with
      | .error e => s1.raise (Trap.plain e.cause e.info a.lanes a.lanes)
      | .ok outs =>
        if outs.any (fun o => bit s.glitch o.1 && o.2.checked) then s1.raise (Trap.plain cResidue 0 a.lanes a.lanes)
        else (outs.foldl (fun s o => s.commitLane o.1 o.2) s1).advance)

/-- R288: the source slot of lane l at distance d. -/
def lxchSlot (mode l d : Nat) : Option Nat :=
  match mode with
  | 0 => some d
  | 1 => if l < d then none else some (l - d)
  | 2 => some ((l + d) % 32)
  | _ => some (l ^^^ d)

/-- R288: the writes of `lxch` over the active lanes. -/
def lxchOuts (mode d a b : Nat) (s : State) (ls : List Nat) : Except LaneFail (List (Nat × LaneOut)) :=
  if ls.any (fun l => !(s.v a l).checks || !(s.v b l).checks) then .error (.rc 1)
  else .ok (ls.map (fun l =>
    if (s.v b l).isPoison then (l, ⟨[(d, Word.poison)], []⟩)
    else match lxchSlot mode l ((s.v b l).data.toNat % 32) with
      | none => (l, ⟨[], []⟩)
      | some t => if ls.contains t then (l, ⟨[(d, s.v a t)], []⟩) else (l, ⟨[], []⟩)))

/-- R288 `lxch`. -/
def execVLxch (d a b : BitVec 6) (m : BitVec 2) (p : BitVec 3) (s : State) : Host.Outcome State Fault Refusal :=
  .next (s.allOrNone p true (names3 d.toNat a.toNat b.toNat 1) (lxchOuts m.toNat d.toNat a.toNat b.toNat))

/-- R289: the result of `poll` written to every active lane. -/
def pollOuts (mode d a : Nat) (s : State) (ls : List Nat) : Except LaneFail (List (Nat × LaneOut)) :=
  if ls.any (fun l => s.p a l == none) then .error (.rc 1)
  else
    let t := ls.filter (fun l => s.p a l == some true)
    let out : LaneOut := match mode with
      | 0 => ⟨[(d, Word.ofData (maskOf t))], []⟩
      | 1 => ⟨[(d, Word.ofData (BitVec.ofNat 32 t.length))], []⟩
      | 2 => ⟨[], [(d, t.length == ls.length)]⟩
      | 3 => ⟨[], [(d, t.length != 0)]⟩
      | _ => ⟨[], [(d, t.length == ls.length || t.length == 0)]⟩
    .ok (ls.map (fun l => (l, out)))

/-- R289 `poll`: modes 0 and 1 write a lane register, 2–4 a predicate; 5–7 are unassigned. -/
def execVPoll (d : BitVec 6) (a m p : BitVec 3) (s : State) : Host.Outcome State Fault Refusal :=
  .next (s.allOrNone p (m.toNat ≤ 4 && (m.toNat < 2 || d.toNat < 7)) ⟨if m.toNat < 2 then [(d.toNat, 1)] else [], []⟩
    (pollOuts m.toNat d.toNat a.toNat))

/-- R247: one level of the slot tree: adjacent results paired; one contributor passes on. -/
def foldLevel (f : Word → Word → Word) : List (Option Word) → List (Option Word)
  | x :: y :: r => (match x, y with | some a, some b => some (f a b) | some a, none => some a | none, b => b) :: foldLevel f r
  | r => r

/-- R247: the slot tree over 32 slots. -/
def foldTree (f : Word → Word → Word) : Nat → List (Option Word) → Option Word
  | 0, l => (l.headD none)
  | n + 1, l => foldTree f n (foldLevel f l)

/-- The rounding mode of `FMT` (R235). -/
def fmtRnd (f : BitVec 32) : Nat := field f.toNat 12 2
/-- `FMT`.satf. -/
def fmtSat (f : BitVec 32) : Bool := f.getLsbD 14
/-- `FMT`.ftz. -/
def fmtFtz (f : BitVec 32) : Bool := f.getLsbD 15

/-- R290: the combining step of `lfold`; min and max pass over poison, the others take it. -/
def foldStep (fn : Nat) (fmt : BitVec 32) (a b : Word) : Word :=
  let px := a.isPoison || b.isPoison
  let mm := fun (isMax sgn : Bool) => (minmaxWords isMax sgn false [a] [b]).headD Word.poison
  let fmm := fun (isMax : Bool) =>
    if a.isPoison then b else if b.isPoison then a
    else Word.ofData (BitVec.ofNat 32 (minmaxF f32 (fmtFtz fmt) isMax a.data.toNat b.data.toNat))
  match fn with
  | 1 => mm false true
  | 2 => mm false false
  | 3 => mm true true
  | 4 => mm true false
  | 9 => fmm false
  | 10 => fmm true
  | _ =>
    if px then Word.poison
    else Word.ofData (match fn with
      | 0 => a.data + b.data
      | 5 => a.data &&& b.data
      | 6 => a.data ||| b.data
      | 7 => a.data ^^^ b.data
      | _ => BitVec.ofNat 32 (addF f32 (fmtRnd fmt) false (fmtFtz fmt) a.data.toNat b.data.toNat))

/-- R290: the fold of the active lanes' `va`, written to each. -/
def lfoldOuts (fn d a : Nat) (s : State) (ls : List Nat) : Except LaneFail (List (Nat × LaneOut)) :=
  if ls.any (fun l => !(s.v a l).checks) then .error (.rc 1)
  else
    let slots := (List.range 32).map (fun l => if ls.contains l then some (s.v a l) else none)
    let r := (foldTree (foldStep fn s.g.fmt) 5 slots).getD Word.zero
    .ok (ls.map (fun l => (l, ⟨[(d, r)], []⟩)))

/-- R290 `lfold`: fn 0xb–0xf are unassigned. -/
def execVLfold (d a : BitVec 6) (f : BitVec 4) (p : BitVec 3) (s : State) : Host.Outcome State Fault Refusal :=
  .next (s.allOrNone p (f.toNat ≤ 10) (names2 d.toNat a.toNat 1) (lfoldOuts f.toNat d.toNat a.toNat))

end Sys2Proof.Machine
end

