-- ==== Sys2Proof/Machine/Uniform.lean ====
section
/-! DEFINITION. Uniform arithmetic (R341–R343), special registers, FMT and EXEC (R256, R344–R347). -/

namespace Sys2Proof.Machine

/-! ### Uniform arithmetic -/

/-- Registers of a three-operand uniform form, `k` each. -/
def unames3 (d a b k : Nat) : Names := ⟨[], [(d, k), (a, k), (b, k)]⟩
/-- Registers of a two-operand uniform form. -/
def unames2 (d a k : Nat) : Names := ⟨[], [(d, k), (a, k)]⟩

/-- A uniform form with two sources of `k` registers. -/
def execU2 (k : Nat) (d a b : BitVec 6) (g : BitVec 3) (f : List Word → List (BitVec 32 × BitVec 4)) (s : State) : State :=
  s.sGuarded g true (unames3 d.toNat a.toNat b.toNat k) (fun s =>
    s.sArith (srcs a.toNat k 1 ++ srcs b.toNat k 2) (dests d.toNat k) f)

/-- R342 `add`: t = 1 is the 64-bit form. -/
def execSAdd (d a b : BitVec 6) (t : BitVec 1) (g : BitVec 3) (s : State) : Host.Outcome State Fault Refusal :=
  .next (execU2 (t.toNat + 1) d a b g (if t = 1 then addSub64 false else addSub32 false) s)
/-- R342 `sub`. -/
def execSSub (d a b : BitVec 6) (t : BitVec 1) (g : BitVec 3) (s : State) : Host.Outcome State Fault Refusal :=
  .next (execU2 (t.toNat + 1) d a b g (if t = 1 then addSub64 true else addSub32 true) s)
/-- R342 `mul`. -/
def execSMul (d a b : BitVec 6) (t : BitVec 1) (g : BitVec 3) (s : State) : Host.Outcome State Fault Refusal :=
  .next (execU2 (t.toNat + 1) d a b g (fun ws => if t = 1 then mul64 ws else [mulLow (nth ws 0) (nth ws 1) 0 0]) s)
/-- R342 `mulh`. -/
def execSMulh (d a b : BitVec 6) (sg : BitVec 1) (g : BitVec 3) (s : State) : Host.Outcome State Fault Refusal :=
  .next (execU2 1 d a b g (fun ws => [if sg = 1 then mulHighS (nth ws 0) (nth ws 1) 0 0 else mulHighU (nth ws 0) (nth ws 1) 0 0]) s)

/-- A uniform logic form. -/
def execULogic (f : Word → Word → BitVec 32 × BitVec 4) (d a b : BitVec 6) (g : BitVec 3) (s : State) : State :=
  execU2 1 d a b g (fun ws => [f (nth ws 0) (nth ws 1)]) s

/-- R342 `and`. -/
def execSAnd (d a b : BitVec 6) (g : BitVec 3) (s : State) : Host.Outcome State Fault Refusal := .next (execULogic andW d a b g s)
/-- R342 `or`. -/
def execSOr (d a b : BitVec 6) (g : BitVec 3) (s : State) : Host.Outcome State Fault Refusal := .next (execULogic orW d a b g s)
/-- R342 `xor`. -/
def execSXor (d a b : BitVec 6) (g : BitVec 3) (s : State) : Host.Outcome State Fault Refusal := .next (execULogic xorW d a b g s)
/-- R342 `andn`. -/
def execSAndn (d a b : BitVec 6) (g : BitVec 3) (s : State) : Host.Outcome State Fault Refusal := .next (execULogic andnW d a b g s)
/-- R342 `shl`. -/
def execSShl (d a b : BitVec 6) (g : BitVec 3) (s : State) : Host.Outcome State Fault Refusal :=
  .next (execULogic (byCount shlW) d a b g s)
/-- R342 `shr`. -/
def execSShr (d a b : BitVec 6) (g : BitVec 3) (s : State) : Host.Outcome State Fault Refusal :=
  .next (execULogic (byCount shrW) d a b g s)
/-- R342 `sar`. -/
def execSSar (d a b : BitVec 6) (g : BitVec 3) (s : State) : Host.Outcome State Fault Refusal :=
  .next (execULogic (byCount sarW) d a b g s)

/-- Words chosen whole, with their residues (R230). -/
def State.sCarry (s : State) (ss : List Src) (d : Nat) (f : List Word → List Word) : State :=
  match s.sWords ss with
  | .error i => s.sResidue i
  | .ok ws => s.sResult d (f ws)

/-- R342 `min` and `max`, as R275. -/
def execUMinMax (isMax : Bool) (d a b : BitVec 6) (w u : BitVec 1) (g : BitVec 3) (s : State) : State :=
  let k := w.toNat + 1
  s.sGuarded g true (unames3 d.toNat a.toNat b.toNat k) (fun s =>
    s.sCarry (srcs a.toNat k 1 ++ srcs b.toNat k 2) d.toNat (fun ws => minmaxWords isMax (u = 0) (w = 1) (ws.take k) (ws.drop k)))

/-- R342 `min`. -/
def execSMin (d a b : BitVec 6) (w u : BitVec 1) (g : BitVec 3) (s : State) : Host.Outcome State Fault Refusal :=
  .next (execUMinMax false d a b w u g s)
/-- R342 `max`. -/
def execSMax (d a b : BitVec 6) (w u : BitVec 1) (g : BitVec 3) (s : State) : Host.Outcome State Fault Refusal :=
  .next (execUMinMax true d a b w u g s)

/-- A uniform compare (R341): a poisoned operand is a use, and nothing is written. -/
def State.sCompare (s : State) (ss : List Src) (d : Nat) (f : List Word → Bool) : State :=
  if ss.any (fun x => (s.s x.n).isPoison) then s.sPoison 1
  else match s.sWords ss with
    | .error i => s.sResidue i
    | .ok ws => s.sTwice (fun s => (s.setQ d (f ws)).advance)

/-- R342 `cmp`, as R284. -/
def execSCmp (d : BitVec 3) (a b : BitVec 6) (w : BitVec 1) (c g : BitVec 3) (s : State) : Host.Outcome State Fault Refusal :=
  let k := w.toNat + 1
  .next (s.sGuarded g (d != 7) ⟨[], [(a.toNat, k), (b.toNat, k)]⟩ (fun s =>
    s.sCompare (srcs a.toNat k 1 ++ srcs b.toNat k 2) d.toNat (fun ws =>
      if w = 1 then condOf c.toNat (dat64 ws 0) (dat64 ws 2) else condOf c.toNat (dat ws 0) (dat ws 1))))

/-- R342 `sel`, as R282; the selector 7 is `mov`'s, whose `sb` must be zero. -/
def execSSel (d a b : BitVec 6) (w : BitVec 1) (n g : BitVec 3) (s : State) : Host.Outcome State Fault Refusal :=
  let k := w.toNat + 1
  .next (s.sGuarded g (n != 7) (unames3 d.toNat a.toNat b.toNat k) (fun s =>
    match s.sWords (srcs a.toNat k 1 ++ srcs b.toNat k 2), s.q n.toNat with
    | .error i, _ => s.sResidue i
    | .ok _, none => s.sResidue 3
    | .ok ws, some c => s.sResult d.toNat (wholeValue (if c then ws.take k else ws.drop k))))

/-- R342 `mov`, as R279. -/
def execSMov (d a : BitVec 6) (w : BitVec 1) (g : BitVec 3) (s : State) : Host.Outcome State Fault Refusal :=
  let k := w.toNat + 1
  .next (s.sGuarded g true (unames2 d.toNat a.toNat k) (fun s => s.sCarry (srcs a.toNat k 1) d.toNat wholeValue))

/-- R342 `qset`, as R286. -/
def execSQset (d a b : BitVec 3) (t : BitVec 4) (g : BitVec 3) (s : State) : Host.Outcome State Fault Refusal :=
  .next (s.sGuarded g (d != 7) ⟨[], []⟩ (fun s =>
    match s.q a.toNat, s.q b.toNat with
    | none, _ => s.sResidue 1
    | _, none => s.sResidue 2
    | some x, some y => (s.setQ d.toNat (t.getLsbD (2 * (if x then 1 else 0) + (if y then 1 else 0)))).advance))

/-- A uniform form with one source and an immediate word (R343). -/
def execUImm (f : Word → Word → BitVec 32 × BitVec 4) (d a : BitVec 6) (i : Word) (g : BitVec 3) (s : State) : State :=
  s.sGuarded g true (unames2 d.toNat a.toNat 1) (fun s =>
    s.sArith [⟨a.toNat, 1⟩] [d.toNat] (fun ws => [f (nth ws 0) i]))

/-- R343 `addi`. -/
def execSAddi (d a : BitVec 6) (i : BitVec 10) (g : BitVec 3) (s : State) : Host.Outcome State Fault Refusal :=
  .next (execUImm addW d a (immS i) g s)
/-- R343 `andi`. -/
def execSAndi (d a : BitVec 6) (i : BitVec 10) (g : BitVec 3) (s : State) : Host.Outcome State Fault Refusal :=
  .next (execUImm andW d a (immS i) g s)
/-- R343 `ori`. -/
def execSOri (d a : BitVec 6) (i : BitVec 10) (g : BitVec 3) (s : State) : Host.Outcome State Fault Refusal :=
  .next (execUImm orW d a (immS i) g s)
/-- R343 `xori`. -/
def execSXori (d a : BitVec 6) (i : BitVec 10) (g : BitVec 3) (s : State) : Host.Outcome State Fault Refusal :=
  .next (execUImm xorW d a (immS i) g s)
/-- R343 `shli`. -/
def execSShli (d a : BitVec 6) (k : BitVec 5) (g : BitVec 3) (s : State) : Host.Outcome State Fault Refusal :=
  .next (execUImm (byCount shlW) d a (Word.ofData (k.zeroExtend 32)) g s)
/-- R343 `shri`. -/
def execSShri (d a : BitVec 6) (k : BitVec 5) (g : BitVec 3) (s : State) : Host.Outcome State Fault Refusal :=
  .next (execUImm (byCount shrW) d a (Word.ofData (k.zeroExtend 32)) g s)

/-- R343 `cmpi`, as R285. -/
def execSCmpi (d : BitVec 3) (a : BitVec 6) (c : BitVec 3) (i : BitVec 7) (g : BitVec 3) (s : State) :
    Host.Outcome State Fault Refusal :=
  .next (s.sGuarded g (d != 7) ⟨[], [(a.toNat, 1)]⟩ (fun s =>
    s.sCompare [⟨a.toNat, 1⟩] d.toNat (fun ws => condOf c.toNat (dat ws 0) (i.signExtend 32))))

/-- R343 `movi`. -/
def execSMovi (d : BitVec 6) (i : BitVec 16) (g : BitVec 3) (s : State) : Host.Outcome State Fault Refusal :=
  .next (s.sGuarded g true ⟨[], [(d.toNat, 1)]⟩ (fun s => s.sArith [] [d.toNat] (fun _ => [((immS i).data, (immS i).res)])))

/-- R343 `movl`. -/
def execSMovl (d : BitVec 6) (i : BitVec 16) (g : BitVec 3) (s : State) : Host.Outcome State Fault Refusal :=
  .next (s.sGuarded g true ⟨[], [(d.toNat, 1)]⟩ (fun s => s.sArith [⟨d.toNat, 3⟩] [d.toNat] (fun ws => [halfW false (nth ws 0) i])))
/-- R343 `movh`. -/
def execSMovh (d : BitVec 6) (i : BitVec 16) (g : BitVec 3) (s : State) : Host.Outcome State Fault Refusal :=
  .next (s.sGuarded g true ⟨[], [(d.toNat, 1)]⟩ (fun s => s.sArith [⟨d.toNat, 3⟩] [d.toNat] (fun ws => [halfW true (nth ws 0) i])))

/-! ### Special registers (R151, R256) -/

/-- R122: the team-lane number of the lane in slot l. -/
def State.laneNo (s : State) (l : Nat) : Nat := homeOf s.g l * 32 + l

/-- R123 `%tid`. -/
def tidOf (x y n : Nat) : Nat := n % x + n / x % y * 2 ^ 10 + n / (x * y) * 2 ^ 20

/-- Is a register number assigned; is the register 64 bits wide; is it per lane? -/
def specAssigned (n : Nat) : Bool := n ≤ 0x0e || (0x10 ≤ n && n ≤ 0x16) || (0x18 ≤ n && n ≤ 0x1b)
def specWide (n : Nat) : Bool := [0x03, 0x08, 0x09, 0x0a, 0x0b, 0x12, 0x15, 0x16, 0x18, 0x1b].contains n
def specPerLane (n : Nat) : Bool := n ≤ 2

/-- `%clock`: the package's count, on a Kiln engine the engine's own (R344). -/
def State.clockHere (s : State) : Nat := match s.focus with | .kiln k => tget s.kilnCk k 0 | _ => s.ck

/-- The value of a special register in slot l. -/
def State.special (s : State) (n l : Nat) : Nat :=
  let g := s.g
  let p := g.priv
  match n with
  | 0x00 => l
  | 0x01 => s.laneNo l
  | 0x02 => tidOf s.tm.teamX s.tm.teamY (s.laneNo l)
  | 0x03 => s.tm.gid.toNat
  | 0x04 => g.exec.toNat
  | 0x05 => g.bind.toNat
  | 0x06 => g.fmt.toNat
  | 0x07 => g.wb.toNat
  | 0x08 => g.spill.toNat
  | 0x09 => g.jcb.toNat
  | 0x0a => s.clockHere
  | 0x0b => s.gtime
  | 0x0c => s.tm.part
  | 0x0d => s.tm.die
  | 0x0e => s.tm.core
  | 0x10 => p.mode.toNat
  | 0x11 => p.kdepth.toNat
  | 0x12 => p.kpc.toNat
  | 0x13 => p.kcause.toNat
  | 0x14 => p.kmask.toNat
  | 0x15 => p.kframe.toNat
  | 0x16 => p.ktab.toNat
  | 0x18 => p.hpc.toNat
  | 0x19 => p.hcause.toNat
  | 0x1a => p.hmask.toNat
  | 0x1b => p.htab.toNat
  | _ => 0

/-- R151: does the current mode refuse this register? -/
def State.specDenied (s : State) (n : Nat) : Bool :=
  (decide (0x10 ≤ n) && decide (n ≤ 0x16) && s.mode == 0) || (decide (0x18 ≤ n) && s.mode != 2)

/-- R344: a Kiln engine reads only `%clock`, `%gtime` and `%part`. -/
def State.specHere (s : State) (n : Nat) : Bool := !s.onKiln || [0x0a, 0x0b, 0x0c].contains n

/-- R344 `rds`. -/
def execSRds (d a : BitVec 6) (v : BitVec 1) (g : BitVec 3) (s : State) : Host.Outcome State Fault Refusal :=
  let n := a.toNat
  let k := if specWide n then 2 else 1
  let legal := specAssigned n && s.specHere n && (if v = 1 then !s.onKiln else !specPerLane n)
  .next (s.sPriv g legal (!s.specDenied n) (if v = 1 then ⟨[(d.toNat, k)], []⟩ else ⟨[], [(d.toNat, k)]⟩) (fun s =>
    if v = 1 then
      s.settleLanes (s.laneResults ⟨s.baseLanes, 0⟩ (fun l => .ok (carry d.toNat (wordsOf k (s.special n l)))))
    else s.sResult d.toNat (wordsOf k (s.special n 0))))

/-- R151, R256: registers `wrs` may name. -/
def specWritable (n : Nat) : Bool := [0x08, 0x09, 0x12, 0x13, 0x16, 0x18, 0x19, 0x1b].contains n
/-- Does the current mode refuse to write this register? -/
def State.writeDenied (s : State) (n : Nat) : Bool := (n == 0x08 && s.mode == 0) || s.specDenied n

/-- R151, R345: write a special register. -/
def State.setSpecial (s : State) (n : Nat) (x : BitVec 64) : State :=
  let g := s.g
  let p := g.priv
  let low := x.extractLsb' 0 32
  let keep := fun (old : BitVec 32) => (low &&& 0xe0000000) ||| (old &&& 0x1fffffff)
  let g' := match n with
    | 0x08 => { g with spill := x &&& ~~~ 0xf#64 }
    | 0x09 => { g with jcb := x &&& ~~~ 0x3f#64 }
    | 0x12 => { g with priv := { p with kpc := x } }
    | 0x13 => { g with priv := { p with kcause := keep p.kcause } }
    | 0x16 => { g with priv := { p with ktab := x &&& ~~~ 0xfff#64 } }
    | 0x18 => { g with priv := { p with hpc := x } }
    | 0x19 => { g with priv := { p with hcause := keep p.hcause } }
    | 0x1b => { g with priv := { p with htab := x &&& ~~~ 0xfff#64 } }
    | _ => g
  { s with g := g' }

/-- R345 `wrs`. -/
def execSWrs (a b : BitVec 6) (g : BitVec 3) (s : State) : Host.Outcome State Fault Refusal :=
  let n := a.toNat
  let k := if specWide n then 2 else 1
  .next (s.sPriv g (s.coreOnly (specWritable n)) (!s.writeDenied n) ⟨[], [(b.toNat, k)]⟩ (fun s =>
    match s.sUse (srcs b.toNat k 2) (if n = 0x12 ∨ n = 0x18 then 2 else 0) with
      | .error e => s.sFail e
      | .ok ws =>
        let put := fun (s : State) => (s.setSpecial n (if k = 2 then dat64 ws 0 else (dat ws 0).zeroExtend 64)).advance
        -- the masked value's residue is predicted and checked; `%kpc` and `%hpc` take the word as it is
        if n = 0x12 ∨ n = 0x18 then put s else s.sTwice put))

/-! ### FMT and EXEC -/

/-- R346 `setfmt`, register form. -/
def execSSetfmt (a : BitVec 6) (g : BitVec 3) (s : State) : Host.Outcome State Fault Refusal :=
  .next (s.sGuarded g (s.coreOnly true) ⟨[], [(a.toNat, 1)]⟩ (fun s =>
    let w := s.s a.toNat
    if w.isPoison ∨ w.data.toNat ≥ 2 ^ 19 then s.illegal s.g.exec
    else if !w.checks then s.sResidue 1
    else ({ s with g := { s.g with fmt := w.data } }).advance))

/-- R346 `setfmt`, immediate form. -/
def execSSetfmtImm (d a b : BitVec 6) (i : BitVec 1) (g : BitVec 3) (s : State) : Host.Outcome State Fault Refusal :=
  .next (s.sGuarded g (s.coreOnly true) ⟨[], []⟩ (fun s =>
    ({ s with g := { s.g with fmt := (i ++ d ++ a ++ b).zeroExtend 32 } }).advance))

/-- R347 `wrexec`. -/
def execSWrexec (a : BitVec 6) (g : BitVec 3) (s : State) : Host.Outcome State Fault Refusal :=
  .next (s.sGuarded g (s.coreOnly true) ⟨[], [(a.toNat, 1)]⟩ (fun s =>
    match s.sUse [⟨a.toNat, 1⟩] 2 with
    | .error e => s.sFail e
    | .ok ws => ({ s with g := { s.g with exec := dat ws 0 &&& s.g.bind } }).advance))

/-- R347 `wrexec.p`. -/
def execSWrexecP (n : BitVec 3) (g : BitVec 3) (s : State) : Host.Outcome State Fault Refusal :=
  .next (s.sGuarded g (s.coreOnly true) ⟨[], []⟩ (fun s =>
    let bad := maskOf ((List.range 32).filter (fun l => bit s.g.exec l && s.p n.toNat l == none))
    let keep := maskOf ((List.range 32).filter (fun l => bit s.g.exec l && s.p n.toNat l == some true))
    if bad ≠ 0 then s.raise (Trap.plain cResidue 1 bad s.g.exec)
    else ({ s with g := { s.g with exec := keep } }).advance))

end Sys2Proof.Machine
end

