-- ==== Sys2Proof/Machine/Sync.lean ====
section
/-! DEFINITION. Synchronisation and system instructions (R359–R374, R377): barriers, fences, waits on a word, system calls and
`tret` (R160–R162), translation invalidation, key retirement, waits for child grids. -/

namespace Sys2Proof.Machine

/-! ### Barriers -/

/-- The common checks of a barrier (R148, R361, R362): no pending path, and the release of the group's earlier accesses. -/
def State.barrierOp (s : State) (g : BitVec 3) (k : State → State) : State :=
  s.sGuarded g (s.coreOnly true) ⟨[], []⟩ (fun s =>
    if s.pathPending then s.raiseAll cConverge 9 s.g.exec
    else k s)

/-- The issuing group's slot in the current phase of barrier b. -/
def State.arriveBar (s : State) (b : Nat) : State := s.modBar b (fun x => { x with arrived := x.arrived ||| slotBit s.g.idx })

/-- R361 `bar`. -/
def execSBar (b : BitVec 4) (g : BitVec 3) (s : State) : Host.Outcome State Fault Refusal :=
  .next (s.barrierOp g (fun s =>
    if !releaseReady s.g then s.hold .release
    else ((s.arriveBar b.toNat).hold (.bar b.toNat)).settleTeam))

/-- R361 `arv`. -/
def execSArv (b : BitVec 4) (g : BitVec 3) (s : State) : Host.Outcome State Fault Refusal :=
  .next (s.barrierOp g (fun s =>
    if bit (s.bar b.toNat).armed s.g.idx then s.raiseAll cConverge 9 s.g.exec
    else if !releaseReady s.g then s.hold .release
    else (((s.arriveBar b.toNat).modBar b.toNat (fun x => { x with armed := x.armed ||| slotBit s.g.idx })).advance).settleTeam))

/-- R361 `awt`. -/
def execSAwt (b : BitVec 4) (g : BitVec 3) (s : State) : Host.Outcome State Fault Refusal :=
  .next (s.barrierOp g (fun s =>
    if !bit (s.bar b.toNat).armed s.g.idx then s.raiseAll cConverge 9 s.g.exec
    else if bit (s.bar b.toNat).arrived s.g.idx then (s.hold (.awt b.toNat)).settleTeam
    else (s.modBar b.toNat (fun x => { x with armed := x.armed &&& ~~~ slotBit s.g.idx })).advance))

/-- R365, R366 `gbar`: class C only. -/
def execSGbar (g : BitVec 3) (s : State) : Host.Outcome State Fault Refusal :=
  .next (s.barrierOp g (fun s =>
    if field s.tm.mode.toNat 0 2 ≠ 0 then s.raiseAll cConverge 9 s.g.exec
    else if !releaseReady s.g then s.hold .release
    else (s.hold .gbar).settleTeam))

/-! ### Fences -/

/-- R367, R368 `fence`: a release side waits for the group's accesses, an acquire side for its loads, then invalidates. -/
def execSFence (sc o g : BitVec 3) (s : State) : Host.Outcome State Fault Refusal :=
  .next (s.sGuarded g (s.coreOnly (1 ≤ o.toNat && o.toNat ≤ 4 && sc.toNat ≤ 5)) ⟨[], []⟩ (fun s =>
    if ordRel o.toNat && !releaseReady s.g then s.hold .release
    else if ordAcq o.toNat && !s.g.pset.isEmpty then s.hold (.fence false)
    else (if ordAcq o.toNat then s.acquireWide sc.toNat else s).advance))

/-! ### Waiting on a word -/

/-- The words at an address of memory, read at their home as their page's `cache` says (R181). -/
def State.homeWords (s : State) (x : XOk) (n : Nat) : State × List Word := s.readAt x n

/-- R204: the group's own stores to a word that are under way come before its look at the word's home. -/
def State.ownFirst (s : State) (x : XOk) : State :=
  let tag := tagOf x.key (lineOf x.pa)
  let s1 := (s.landStores s.core tag).commitMerges s.core tag
  match tfind s1.l1 (l1Key s1.core tag (x.pa / 4 % 32)) with
  | some ⟨.pending .., _⟩ => s1.commitWord s1.core tag (x.pa / 4 % 32)
  | _ => s1

/-- R370: one look at the awaited word; `rem` is the remaining timeout. -/
def State.waitvLook (s : State) (x : XOk) (k c : Nat) (val : List Word) (rem : Option Nat) : State :=
  let (s1, ws) := ((List.range k).foldl (fun s i => s.ownFirst { x with pa := x.pa + 4 * i }) s).homeWords x k
  if ws.any Word.isPoison then s1.raiseAll cPoison 1 s.g.exec
  else if ws.any (fun w => !w.checks) then s1.raiseAll cResidue 0 s.g.exec
  else if s1.glitch ≠ 0 then ({ s1 with glitch := 0 }).sResidue 0
  else if (if k = 2 then condOf c (dat64 ws 0) (dat64 val 0) else condOf c (dat ws 0) (dat val 0)) then (s1.acquire 4).advance
  else s1.hold (.waitv rem)

/-- R369, R370 `waitv`. A group that waits already looks again with its remaining timeout, and with none left takes STARVATION. -/
def execSWaitv (d a b : BitVec 6) (w : BitVec 1) (c g : BitVec 3) (s : State) : Host.Outcome State Fault Refusal :=
  let k := w.toNat + 1
  .next (s.sGuarded g (s.coreOnly true) ⟨[], [(d.toNat, 1), (a.toNat, 2), (b.toNat, k)]⟩ (fun s =>
    if s.pathPending then s.raiseAll cWait 0 s.g.exec
    else if s.g.wait = .waitv (some 0) then s.raiseAll cStarve 0 s.g.exec
    else match s.uAddr a.toNat 0 with
      | .error e =>
        if e.cause = cResidue ∧ (s.s d.toNat).isPoison then s.sPoison 2
        else if e.cause = cResidue ∧ (srcs b.toNat k 2).any (fun x => (s.s x.n).isPoison) then s.sPoison 1
        else s.raiseAll e.cause e.info s.g.exec
      | .ok va =>
        match s.locate va (4 * k) .load true with
        | (s1, .error e) => s1.raise { Trap.plain e.cause e.info s.g.exec s.g.exec with fva := e.fva, stage2 := e.stage2 }
        | (s1, .ok (.memory ps)) =>
          if va % (4 * k) ≠ 0 then s1.raise { Trap.plain cPerm 0 s.g.exec s.g.exec with fva := va }
          else if (s1.s d.toNat).isPoison then s1.sPoison 2
          else match ps.head?, s1.sUse (srcs b.toNat k 2) 1, s1.sWords [⟨d.toNat, 3⟩] with
            | none, _, _ => s1.advance
            | _, .error e, _ => s1.sFail e
            | _, _, .error i => s1.sResidue i
            | some p, .ok val, .ok t =>
                let word := (encode (.sWaitv d a b w c g)).getD 0
                let rem := match s.g.wait with
                  | .waitv r => r
                  | _ => if dat t 0 = 0 then none else some (dat t 0).toNat
                ({ s1 with g := { s1.g with waitI := word } }).waitvLook p.x k c.toNat val rem
        | (s1, .ok _) => s1.raise { Trap.plain cPerm 0 s.g.exec s.g.exec with fva := va }))

/-! ### System calls and return -/

/-- A trap with return "after": the end-of-loop rule is applied first (R356). -/
def State.raiseAfter (s : State) (t : Trap) : State :=
  let n := loopNext s.g.pc s.g.loops
  ({ s with g := { s.g with pc := n.1 - 4, loops := n.2 } }).raise { t with retAt := false }

/-- R162, R371 `sys`. -/
def execSSys (n : BitVec 6) (g : BitVec 3) (s : State) : Host.Outcome State Fault Refusal :=
  .next (s.sGuarded g (s.coreOnly (decide (n.toNat < s.g.frame))) ⟨[], []⟩ (fun s =>
    if s.g.exec = 0 then s.advance else s.raiseAfter (Trap.plain cSys n.toNat s.g.exec s.g.exec)))

/-- R162, R371 `hcall`. -/
def execSHcall (g : BitVec 3) (s : State) : Host.Outcome State Fault Refusal :=
  .next (s.sPriv g (s.coreOnly true) (s.mode != 0) ⟨[], []⟩ (fun s => s.raiseAfter (Trap.plain cHcall 0 s.g.exec s.g.exec)))

/-- The loop stack of a trap frame (R156). A loop start is an instruction address: its two low bits read as zero (R6, R250). -/
def loopsOf (ws : List Word) (n : Nat) : List Loop :=
  (List.range (min n 4)).map (fun i => ⟨dat64 ws (16 + 6 * i) &&& ~~~ 3#64, dat64 ws (18 + 6 * i), dat64 ws (20 + 6 * i)⟩)

/-- R160: what `tret` restores from a frame, but for the window and the request bits. Reserved bits of `FMT` and of the cause word
read as zero whatever the frame held (R6, R152). -/
def tretGroup (g : Group) (ws : List Word) (h : Bool) : Group :=
  let p := g.priv
  let c := if h then p.hcause else p.kcause
  let bind := dat ws 7 &&& g.bind
  let m : BitVec 8 := BitVec.ofNat 8 (if h then field c.toNat 8 2 else min (field c.toNat 8 2) 1)
  let p1 := if h then p else { p with kpc := dat64 ws 0, kcause := dat ws 2 &&& 0xe0ff7fff, kmask := dat ws 3 }
  { g with
    pc := if h then p.hpc else p.kpc
    bind := bind
    exec := dat ws 6 &&& bind
    fmt := dat ws 9 &&& 0x7ffff
    loops := loopsOf ws (field (dat ws 10).toNat 24 8)
    spill := g.spill - 256
    sbase := g.sbase.tail
    latch := none
    priv := { p1 with kframe := dat64 ws 4, kdepth := p.kdepth - 1, mode := m } }

/-- R160, R161: `tret` in S or H mode. -/
def State.doTret (s : State) : State :=
  let g := s.g
  let p := g.priv
  let h := s.mode == 2
  let f := linkBase s.tm g.idx + p.kframe.toNat
  if p.kdepth = 0 then s.illegal g.exec
  else if g.spill.toNat ≠ f + 256 then s.raiseAll cWindow 0 g.exec
  else match s.frameXls f .load with
    | (s1, none) => s1.halt 0
    | (s1, some xs) =>
      let (s2, ws) := s1.coreWords s1.core xs
      if ws.any (fun w => w.isPoison || !w.checks) then s2.halt 0
      else if (dat ws 11).toNat ≠ s2.stackDepth then s2.raiseAll cConverge 10 g.exec
      else
        let c := if h then p.hcause else p.kcause
        let ret := if h then p.hpc else p.kpc
        if c.getLsbD 31 then s2.abortTree s.tm.grid (((tfind s.grids s.tm.grid).map (·.grade)).getD 0)
        else if ret.toNat % 4 ≠ 0 then s2.illegal g.exec
        else
          let w := (dat ws 10).toNat
          match s2.setWindow (field w 0 16) (field w 16 8) with
          | none => s2.raiseAll cWindow 0 g.exec
          | some s3 =>
            if s2.spillsPending (field w 0 16 + field w 16 8) then s2.hold .retry else
            let g1 := { tretGroup s3.g ws h with drain := !s3.g.pset.isEmpty }
            let due := if c.getLsbD 29 then s3.twin.retireDue ++ [s3.core] else s3.twin.retireDue
            let s4 : State := { s3 with twin := { s3.twin with retireDue := due } }
            if g.step then ({ s4 with g := g1 }).finish
            else
              let s5 := ({ s4 with g := g1 }).finish
              { s5 with g := { s5.g with
                  pend := if c.getLsbD 10 then dat ws 8 &&& s5.g.bind else 0
                  step := c.getLsbD 30
                  lastRc := if !h && c.getLsbD 10 && field c.toNat 0 8 == cResidue then some (ret, p.kmask) else none } }

/-- R160, R371 `tret`. -/
def execSTret (g : BitVec 3) (s : State) : Host.Outcome State Fault Refusal :=
  .next (s.sPriv g (s.coreOnly true) (s.mode != 0) ⟨[], []⟩ State.doTret)

/-! ### Translation invalidation (R372, R373) -/

/-- The TLBs of a partition's dies: those of its cores and the last-level ones. -/
def State.partTlb (s : State) (n : Nat) : Bool := if n < 512 then s.ownsDie s.tm.part (n / 64) else s.ownsDie s.tm.part (n - 512)

/-- R373 step 4: is any access, copy piece or engine job of the partition under way? A matrix job holds its translations from its posting
(R328). -/
def State.accessesOut (s : State) : Bool :=
  s.txns.any (fun t => s.ownsDie s.tm.part t.node && (match t.agent with
    | .load r _ _ => r != s.self
    | .prefetch .. => true
    | .merge .. => true
    | .reg _ => true
    | .store _ => true
    | .atom .. => true
    | .copy .. => true
    | .matrix .. => true
    | _ => false)) ||
  s.clusters.any (fun c => s.ownsDie s.tm.part (c.1 / 16) &&
    (c.2.jobs.any (fun j => j.started) || c.2.mjobs.any (fun j => !j.done)))

/-- R373: the entries a predicate covers leave every TLB of the partition, and the contexts another covers leave the caches; the group
then stalls until the accesses under way have been performed. -/
def State.tlbi (s : State) (entry : TlbEntry → Bool) (ctx : Nat → Ctx → Bool) : State :=
  if !releaseReady s.g then s.hold .release
  else
    let s1 : State := { s with
      tlbs := s.tlbs.map (fun t => if s.partTlb t.1 then (t.1, t.2.filter (fun e => !entry e)) else t)
      ctxs := s.ctxs.filter (fun c => !ctx c.1 c.2) }
    if s1.accessesOut then s1.hold (.fence false) else s1.advance

/-- The common checks of `tlbi`: mode, then its operands. -/
def State.tlbiOp (s : State) (g : BitVec 3) (stage2 : Bool) (ss : List Nat) (k : State → List Addr → State) : State :=
  s.sPriv g (s.coreOnly true) (if stage2 then s.mode == 2 else s.mode != 0) ⟨[], ss.map (fun n => (n, 2))⟩ (fun s =>
    match s.sUse (ss.zipIdx.flatMap (fun n => srcPair n.1 (if ss.length = 1 then 2 else n.2 + 1))) 0 with
      | .error e => s.sFail e
      | .ok ws => k s ((List.range ss.length).map (fun i => dat64 ws (2 * i))))

/-- Does an entry map this address? -/
def tlbMaps (e : TlbEntry) (va : Addr) : Bool := e.va == va.toNat / 2 ^ e.size
/-- The stage-2 root a context names, read through its cached copy. -/
def State.rootOfCtx (s : State) (asid : Addr) : Addr := (s.context s.tm.part asid).2.s2

/-- R372 `tlbi.va`. -/
def execSTlbiVa (a b : BitVec 6) (g : BitVec 3) (s : State) : Host.Outcome State Fault Refusal :=
  .next (s.tlbiOp g false [a.toNat, b.toNat] (fun s vs =>
    let va := vs.getD 0 0
    let c := vs.getD 1 0
    let root := s.rootOfCtx c
    s.tlbi (fun e => tlbMaps e va && (if e.glob then e.s2root == root else e.ctx == c)) (fun _ _ => false)))
/-- R372 `tlbi.ctx`. -/
def execSTlbiCtx (b : BitVec 6) (g : BitVec 3) (s : State) : Host.Outcome State Fault Refusal :=
  .next (s.tlbiOp g false [b.toNat] (fun s vs =>
    let c := vs.getD 0 0
    s.tlbi (fun e => !e.glob && e.ctx == c) (fun n _ => n == c.toNat)))
/-- R372 `tlbi.glob`. -/
def execSTlbiGlob (b : BitVec 6) (g : BitVec 3) (s : State) : Host.Outcome State Fault Refusal :=
  .next (s.tlbiOp g false [b.toNat] (fun s vs =>
    let root := s.rootOfCtx (vs.getD 0 0)
    s.tlbi (fun e => e.glob && e.s2root == root) (fun _ _ => false)))
/-- R372 `tlbi.ipa`: the entries whose stage-2 leaf maps the guest page. -/
def execSTlbiIpa (a b : BitVec 6) (g : BitVec 3) (s : State) : Host.Outcome State Fault Refusal :=
  .next (s.tlbiOp g true [a.toNat, b.toNat] (fun s vs =>
    let ipa := (vs.getD 0 0).toNat
    let root := vs.getD 1 0
    s.tlbi (fun e => e.s2root == root && e.leaf2.isSome && e.ipa / 2 ^ e.size2 == ipa / 2 ^ e.size2) (fun _ _ => false)))
/-- R372 `tlbi.s2`. -/
def execSTlbiS2 (b : BitVec 6) (g : BitVec 3) (s : State) : Host.Outcome State Fault Refusal :=
  .next (s.tlbiOp g true [b.toNat] (fun s vs =>
    let root := vs.getD 0 0
    s.tlbi (fun e => e.s2root == root) (fun _ c => c.s2 == root)))
/-- R372 `tlbi.all`: every entry and cached context of the partition. -/
def execSTlbiAll (g : BitVec 3) (s : State) : Host.Outcome State Fault Refusal :=
  .next (s.tlbiOp g true [] (fun s _ => s.tlbi (fun _ => true) (fun n _ => s.usablePa s.tm.part n)))

/-! ### Key retirement (R190, R374) -/

/-- A line leaves every L1 and its slice (R190 steps 1–3): L1s flush partials, write back and invalidate; the slice writes back and
invalidates. A fill on its way is not kept: neither in an L1 nor in the slice. -/
def State.flushTag (s : State) (tag : Nat) : State :=
  let cores := sortNat (((s.l1.map (·.1) ++ s.partials.map (·.1)).filter (fun k => k / 32 / 512 == tag)).map (fun k => k / 32 % 512) ++
    (s.merges.filter (fun m => m.tag == tag)).map (·.core))
  let s1 := cores.foldl (fun s c => s.flushLine c tag) (s.landBacks tag)
  let s2 : State := { s1 with
    own := match tfind s1.own tag with | some o => tins s1.own tag { o with owners := [], revoking := [] } | none => s1.own
    txns := s1.txns.map (fun t => if pktTag t.pkt = tag then { t with agent := t.agent.unkept } else t)
    stackTags := s1.stackTags.map (fun e => if e.2 = tag * 2 + 1 then (e.1, tag * 2) else e)
    icache := s1.icache.filter (fun e => e.1 % 2 ^ 58 != tag) }
  s2.l2Drop tag

/-- R190 steps 1–3 for the lines of a predicate on tags, wherever one is held, written or on its way. -/
def State.flushTags (s : State) (p : Nat → Bool) : State :=
  let held : List (List Nat) := [s.l1.map (fun e => e.1 / 32 / 512), s.partials.map (fun e => e.1 / 32 / 512), s.merges.map (fun m => m.tag),
    s.own.map (fun e => e.1), s.l2.map (fun e => e.1), s.icache.map (fun e => e.1 % 2 ^ 58), s.stackTags.map (fun e => e.2 / 2),
    s.txns.map (fun t => pktTag t.pkt)]
  let tags := sortNat (held.flatten.filter p)
  tags.foldl (fun s t => s.flushTag t) s

/-- The requests under a key that wait at the ports take effect, and the lines under it are flushed. -/
def State.flushKey (s : State) (k : Nat) : State :=
  let waiting := sortNat ((s.stackQ.filterMap portReq).filterMap (fun x => if reqKey x.hdr = k then some (reqLine x.hdr) else none))
  (waiting.foldl (fun s l => s.settle l) s).flushTags (fun t => tagKey t == k)

/-- R190: a key is retired: its lines are flushed, its slot is zeroed. -/
def State.retireKey (s : State) (k : Nat) : State := { s.flushKey k with keys := tdel (s.flushKey k).keys k }

/-- R374 `keyret`. -/
def execSKeyret (a : BitVec 6) (g : BitVec 3) (s : State) : Host.Outcome State Fault Refusal :=
  .next (s.sPriv g (s.coreOnly true) (s.mode == 2) ⟨[], [(a.toNat, 1)]⟩ (fun s =>
    match s.sUse [⟨a.toNat, 1⟩] 0 with
      | .error e => s.sFail e
      | .ok ws =>
        let k := (dat ws 0).toNat
        if k ≥ Config.keySlots ∨ !s.keyInPart s.tm.part k then s.raiseAll cPerm 0 s.g.exec
        else if !releaseReady s.g then s.hold .release
        else ((s.retireKey k).acquire 5).advance))

/-! ### Waiting for child grids (R377) -/

/-- The children of the team's grid that this team's group, or any group of the team, launched and that have not retired. -/
def State.children (s : State) (group : Option Nat) : List Nat :=
  (s.grids.filter (fun p => !p.2.complete && (match p.2.parent with
    | some (g, t, i) => g == s.tm.grid && t == s.tm.t && (match group with | some n => i == n | none => true)
    | none => false))).map (·.1)

/-- R377 `lwait`. -/
def execSLwait (g : BitVec 3) (s : State) : Host.Outcome State Fault Refusal :=
  .next (s.sGuarded g (s.coreOnly true) ⟨[], []⟩ (fun s =>
    if (s.children (some s.g.idx)).isEmpty then (s.acquire 4).advance else s.hold (.lwait none)))

/-- R377 `lwait` of one grid. -/
def execSLwaitGrid (a : BitVec 6) (g : BitVec 3) (s : State) : Host.Outcome State Fault Refusal :=
  .next (s.sGuarded g (s.coreOnly true) ⟨[], [(a.toNat, 2)]⟩ (fun s =>
    match s.sUse (srcPair a.toNat 1) 0 with
    | .error e => s.sFail e
    | .ok ws =>
      if (s.children none).contains (dat64 ws 0).toNat then s.hold (.lwait (some (dat64 ws 0).toNat))
      else (s.acquire 4).advance))

end Sys2Proof.Machine
end

