-- ==== Sys2Proof/Machine/Home.lean ====
section
/-! DEFINITION. Mesh messages (R26–R28, R32, R181, R184–R189): what a home slice does with a request, what a core does with a
forward, a revocation or a request for partials, and what a reply does at its agent. -/

namespace Sys2Proof.Machine

/-! ### Packets between home and cores -/

/-- A reply arrives at the agent of the request it answers; a malformed packet is dropped (R26). -/
def State.onReply (s : State) (p : Packet) (f : State → Txn → State) : State :=
  s.onPacket p (fun s => match s.txnFor p with | some t => f s t | none => s)

/-- A reply of the home to the source of a request. -/
def State.answerHome (s : State) (p : Packet) (cls mtype : Nat) (aux : BitVec 32) (flits : List (List Word)) : State :=
  s.send (mkPacket cls mtype p.hdr.dst.toNat p.hdr.src.toNat p.hdr.txn.toNat p.hdr.paWord.toNat p.hdr.key.toNat false aux flits)

/-- A message that the home of a line addresses to a core (R28). -/
def toCore (cls mtype src txn tag core : Nat) (aux : BitVec 32) : Packet :=
  mkPacket cls mtype src (core / 64) txn (coreField (tagLine tag) (core % 64)) (tagKey tag) (core % 64 / 32 == 1) aux []

/-- The cores that own words of a mask of a line, and the words each owns. -/
def ownersIn (o : OwnLine) (m : BitVec 32) : List (Nat × BitVec 32) :=
  (sortNat ((o.owners.filter (fun p => bit m p.1)).map (·.2))).map (fun c =>
    (c, maskOf ((o.owners.filter (fun p => bit m p.1 && p.2 == c)).map (·.1))))

/-- R187: the words of a mask that cores own are asked back, once; true when there are none. -/
def State.revokeStep (s : State) (tag : Nat) (m : BitVec 32) : State × Bool :=
  let o := s.ownLine tag
  let due := ownersIn o m
  if due.isEmpty then (s, true)
  else
    ((due.foldl (fun s (c, w) =>
      let ask := w &&& ~~~ maskOf o.revoking
      if ask = 0 then s
      else match s.ask .home (homeDie (tagLine tag)) 4 (fun id => toCore 4 1 (homeDie (tagLine tag)) id tag c ask) with
        | none => s
        | some s1 => s1.modOwn tag (fun o => { o with revoking := o.revoking ++ lanesOf ask })) s), false)

/-- A holder's partials of a line are asked for; none while no identifier is free. -/
def State.askPartials (s : State) (tag c : Nat) : Option State :=
  (s.ask .home (homeDie (tagLine tag)) 4 (fun id => toCore 4 2 (homeDie (tagLine tag)) id tag c 0xffffffff)).map
    (fun s1 => s1.modOwn tag (fun o => { o with asked := o.asked ++ [c] }))

/-- R189: the partials of every holder of a line are asked for, all of them or, while identifiers are short, none; true when the line has
none. A line's ownerships are called back first, so that the partials meet the current value. -/
def State.combineStep (s : State) (tag : Nat) : State × Bool :=
  let o := s.ownLine tag
  if o.holders.isEmpty && o.asked.isEmpty then (s, true)
  else
    let (s1, free) := s.revokeStep tag 0xffffffff
    if !free || !o.asked.isEmpty then (s1, false)
    else (((sortNat o.holders).foldlM (fun (s : State) c => s.askPartials tag c) s1).getD s1, false)

/-! ### Stack ports -/

/-- The line is asked for at its port; true when the slice holds it. -/
def State.fillStep (s : State) (tag : Nat) : State × Bool :=
  if (tfind s.l2 tag).isSome || !s.keeps tag then (s, true)
  else if s.stackTags.any (fun e => e.2 / 2 == tag) then (s, false)
  else match s.portAsk tag 1 0 [] with
    | some s1 => (s1, false)
    | none => (s, false)

/-! ### Serving a request -/

/-- The words a home delivers at once of those asked for: the ones no core owns. -/
def unowned (o : OwnLine) (m : BitVec 32) : BitVec 32 := m &&& ~~~ maskOf (o.owners.map (·.1))

/-- The request a packet belongs to, while it is outstanding at its source. -/
def State.sourceTxn (s : State) (p : Packet) : Option Txn :=
  s.txns.find? (fun t => t.node == p.hdr.src.toNat && t.id == p.hdr.txn.toNat && t.cls == p.hdr.cls.toNat)
/-- The agent that sent it. -/
def State.agentOf (s : State) (p : Packet) : Option Agent := match s.sourceTxn p with | some t => some t.agent | none => none
/-- Does it stream (R181)? -/
def State.streams (s : State) (p : Packet) : Bool := match s.sourceTxn p with | some t => t.stream | none => false

/-- The words its write covers whole. -/
def State.wholeOf (s : State) (p : Packet) : BitVec 32 := match s.sourceTxn p with | some t => t.whole | none => 0

/-- The words of a read's line that its requester puts together: those a load still awaits; none for a fill alone; else those it names. -/
def State.wanted (s : State) (p : Packet) : BitVec 32 :=
  match s.agentOf p with
  | some (.load r id _) =>
    (match (s.groupAt r).bind (fun g => g.pset.find? (fun e => e.id == id)) with
     | some e => p.hdr.aux &&& maskOf (e.lanes.flatMap (fun l => (l.words.filter (fun n => n.tag == pktTag p && n.got.isNone)).map (·.idx)))
     | none => 0)
  | some (.prefetch ..) => 0
  | some (.merge ..) => 0
  | _ => p.hdr.aux

/-- The owned words of those chunks whose wanted words lie in different places, so that no one reply could hold them (R211). -/
def scattered (o : OwnLine) (want : BitVec 32) : BitVec 32 :=
  maskOf ((List.range 8).flatMap (fun c =>
    let is := (List.range 4).filterMap (fun j => if bit want (4 * c + j) then some (4 * c + j) else none)
    if is.all (fun i => tfind o.owners i == tfind o.owners (is.headD 0)) then [] else is.filter (fun i => (tfind o.owners i).isSome)))

/-- Is a request of the line at its port? -/
def State.atPort (s : State) (tag : Nat) : Bool := s.stackTags.any (fun e => e.2 / 2 == tag)

/-- Does a request allocate nothing in the slice: it streams (R181), or a copy job wrote it with `nt` (R383)? -/
def State.noAllocate (s : State) (p : Packet) : Bool := s.streams p || (p.hdr.cls == 5 && 8 ≤ p.hdr.mtype.toNat && p.hdr.mtype != 8)

/-- R181, R185: the words of a request's line as the slice has them: a line it lacks is read, and kept unless the request allocates nothing. -/
def State.readStep (s : State) (p : Packet) (tag : Nat) : State × Option (List Word) :=
  if s.noAllocate p && !s.inSlice tag && !s.lineLost (tagLine tag) then
    (if s.atPort tag then (s, none) else let (s1, ws) := s.portRead tag; (s1, some ws))
  else match s.fillStep tag with
    | (s1, true) => (s1, some (s1.homeLine tag))
    | (s1, false) => (s1, none)

/-- R185: a read: unowned words come from the slice, the others are forwarded to their owners; a chunk is read in one place (R211). -/
def State.serveRead (s0 : State) (p : Packet) (tag : Nat) : State × Bool :=
  let (s, free) := s0.revokeStep tag (scattered (s0.ownLine tag) (s0.wanted p))
  if !free then (s, false)
  else
    let o := s.ownLine tag
    let here := unowned o p.hdr.aux
    let (s1, line) := if here = 0 then (s, some []) else s.readStep p tag
    match line with
    | none => (s1, false)
    | some ws =>
      let s2 := (ownersIn o p.hdr.aux).foldl (fun s (c, w) => s.send (toCore 0 3 p.hdr.src.toNat p.hdr.txn.toNat tag c w)) s1
      (if here = 0 then s2 else s2.answerHome p 2 0 here (windowFlits here ws), true)

/-- Words performed at a home pass the slice: under streaming cacheability the line is dropped (R181), else the slice holds it. -/
def State.putWords (s : State) (stream : Bool) (tag : Nat) (m : BitVec 32) (ws : List Word) : State :=
  if stream then (s.homePut tag m ws).l2Drop tag else s.homePut tag m ws

/-- R383: a slice passes words of a line it does not hold to the base die, in one `WR` or `WRM` whose other words are zero; the write counts as
performed, and is acknowledged, when the base die's acknowledgement reaches the slice. It waits while every tag is busy. -/
def State.passWords (s : State) (p : Packet) (tag : Nat) (ws : List Word) : State × Bool :=
  let m := p.hdr.aux
  let block := (List.range 32).map (fun i => if bit m i then ws.getD i Word.zero else Word.zero)
  match s.portAskAt tag (writeOp m) (writeMask m) block with
  | none => (s, false)
  | some (s1, k) =>
    ({ s1 with portAcks := s1.portAcks ++ [(k, mkPacket 3 0 p.hdr.dst.toNat p.hdr.src.toNat p.hdr.txn.toNat p.hdr.paWord.toNat p.hdr.key.toNat false m [])] },
      true)

/-- R185: a write performed at the home; whole words need the line only when some word is kept. A write that allocates nothing is passed to
the base die when the slice lacks its line (R181, R383). -/
def State.serveWrite (s : State) (p : Packet) (tag : Nat) (masked : Bool) : State × Bool :=
  let m := p.hdr.aux
  let st := s.streams p
  let (s1, free) := s.revokeStep tag m
  if !free then (s1, false)
  else if s1.lineLost (tagLine tag) || m = 0 then (s1.answerHome p 3 0 m [], true)
  else if !s1.inSlice tag && s1.noAllocate p then
    if s1.atPort tag || (s1.freeTag (chanOf (tagLine tag))).isNone then (s1, false)
    else if masked then (s1.portRead tag).1.passWords p tag (writtenWords p masked (s.wholeOf p) (s1.portRead tag).2)
    else s1.passWords p tag (pktWords p false)
  else if m = 0xffffffff && !masked then
    if s1.atPort tag then (s1, false)
    else
      let s2 := s1.l2Put tag ((pktWords p false).map ingress) true
      ((if st then s2.l2Drop tag else s2).answerHome p 3 0 m [], true)
  else
    match s1.readStep p tag with
    | (s2, none) => (s2, false)
    | (s2, some old) => ((s2.putWords st tag m (writtenWords p masked (s.wholeOf p) old)).answerHome p 3 0 m [], true)

/-- R315, R316: an atomic or reduction performed at the home. -/
def State.serveAtomic (s : State) (p : Packet) (tag : Nat) : State × Bool :=
  let m := p.hdr.aux
  let (s1, free) := s.revokeStep tag m
  if !free then (s1, false)
  else match s1.readStep p tag with
    | (s2, none) => (s2, false)
    | (s2, some line) =>
      let idx := lanesOf m
      let f := p.flits.getD 0 []
      let op := (nth f 4).data.toNat
      let (old, new) := aopStep (op % 16) (idx.map (fun i => line.getD i Word.poison)) (f.take 4)
      let red := op / 16 % 2 == 1
      -- R315: a new value whose check fails at the home is not stored; the answer, which names no word, fails the lane
      if !red && decide (0 < s2.redFaults) && !new.all Word.isPoison then
        (({ s2 with redFaults := s2.redFaults - 1 } : State).answerHome p 2 3 0 [List.replicate 8 Word.zero], true)
      else
        let (s2b, new1) := match red, s.agentOf p with
          | true, some (.store r) => s2.redChecked r (tagLine tag) new
          | _, _ => (s2, new)
        let nw := (List.range 32).map (fun i => nth new1 (indexOf idx i))
        let s3 := s2b.putWords (s.streams p) tag m nw
        (if red then s3.answerHome p 3 0 m []
         else s3.answerHome p 2 3 m [(List.range 8).map (fun i => if i < 2 then nth old i else Word.zero)], true)

/-- R216 DISCARD: zeros in the slice, or under streaming cacheability in memory alone (R181). -/
def State.serveDiscard (s : State) (p : Packet) (tag : Nat) : State × Bool :=
  if s.atPort tag then (s, false)
  else
    let s1 := s.dropOwned tag
    let s2 := if s1.lineLost (tagLine tag) then s1 else s1.l2Put tag (List.replicate 32 Word.zero) true
    ((if s.streams p then s2.l2Drop tag else s2).answerHome p 3 0 p.hdr.aux [], true)

/-- A request under a key whose slot is not valid goes through to the base die, which rejects it (R20, R190, R217): a read delivers
poison, a write has no effect, and nothing is registered. -/
def State.serveRetired (s : State) (p : Packet) (tag : Nat) : State :=
  let m := p.hdr.aux
  match p.hdr.cls.toNat, p.hdr.mtype.toNat % 8 with
  | 0, 2 => s.answerHome p 3 4 0 []
  | 0, _ => let (s1, ws) := s.portRead tag; s1.answerHome p 2 0 m (windowFlits m ws)
  | 5, 0 => let (s1, ws) := s.portRead tag; s1.answerHome p 2 0 m (windowFlits m ws)
  | 1, 3 =>
    let (s1, ws) := s.portRead tag
    let old := (lanesOf m).map (fun i => ws.getD i Word.poison)
    if (nth (p.flits.getD 0 []) 4).data.toNat / 16 % 2 = 1 then s1.answerHome p 3 0 m []
    else s1.answerHome p 2 3 m [(List.range 8).map (fun i => if i < 2 then nth old i else Word.zero)]
  | 1, 4 => s.answerHome p 3 0 m []
  | 1, k => (s.portWrite tag m (pktWords p (k == 1))).answerHome p 3 0 m []
  | 5, k => (s.portWrite tag m (pktWords p (k == 2))).answerHome p 3 0 m []
  | _, _ => s.send (mkPacket 2 2 p.hdr.dst.toNat p.hdr.src.toNat p.hdr.txn.toNat p.hdr.paWord.toNat p.hdr.key.toNat
      (match s.agentOf p with | some (.reg c) => c % 64 / 32 == 1 | _ => false) m [])

/-- The core that sent a registration or a write-back. -/
def State.senderCore (s : State) (p : Packet) : Option Nat :=
  match s.sourceTxn p with
  | none => none
  | some t =>
    match t.agent with
    | .reg c => some c
    | .writeback c => some c
    | .merge c _ => some c
    | _ => none

/-- R187 overflow: the lines of a slice that have owners, and the one registered longest ago. -/
def State.registryOf (s : State) (chan : Nat) : List (Nat × OwnLine) :=
  s.own.filter (fun e => chanOf (tagLine e.1) == chan && !e.2.owners.isEmpty)

/-- R184: a registration: another owner's words are revoked, then the words are granted. A word its own core still owns is
being written back, and waits for that; one that no longer awaits its grant is not registered. -/
def State.serveRegister (s : State) (p : Packet) (tag : Nat) : State × Bool :=
  match s.senderCore p with
  | none => (s, true)
  | some c =>
    let o := s.ownLine tag
    let m := p.hdr.aux &&& (match s.sourceTxn p with | some t => t.pkt.hdr.aux | none => 0)
    let mine := maskOf ((o.owners.filter (fun x => x.2 == c)).map (·.1))
    let (s1, free) := s.revokeStep tag (m &&& ~~~ mine)
    if !free || m &&& mine != 0 then (s1, false)
    else
      let reg := s1.registryOf (chanOf (tagLine tag))
      if o.owners.isEmpty && reg.length ≥ 4096 then
        match minBy (fun e => e.2.since) reg with
        | some e => ((s1.revokeStep e.1 0xffffffff).1, false)
        | none => (s1, false)
      else
        let s2 := s1.modOwn tag (fun o => { o with
          owners := (lanesOf m).foldl (fun t i => tins t i c) o.owners
          since := if o.owners.isEmpty then s1.ownNo else o.since })
        let s3 := { s2 with ownNo := s2.ownNo + 1 }
        (s3.send (mkPacket 2 2 p.hdr.dst.toNat p.hdr.src.toNat p.hdr.txn.toNat (coreField (tagLine tag) (c % 64)) (tagKey tag)
          (c % 64 / 32 == 1) m []), true)

/-- Has a write on its way already been performed (`State.landStores`)? -/
def State.performed1 (s : State) (p : Packet) : Bool :=
  p.hdr.cls == 1 && p.hdr.aux != 0 && (match s.sourceTxn p with
    | some t => t.pkt.hdr.aux == 0 && (match t.agent with | .store _ => true | _ => false)
    | none => false)

/-- One request at its home; false while it must wait, what it waits for having been asked. `combined` says that the line's
partials have just been added. -/
def State.serve (s0 : State) (p : Packet) (combined : Bool) : State × Bool :=
  let tag := pktTag p
  let s := s0.settle (tagLine tag)
  let (s1, ready) := if combined || (p.hdr.cls == 1 && p.hdr.mtype == 4) then (s, true) else s.combineStep tag
  if !ready then (s1, false)
  else if s.performed1 p then (s.answerHome p 3 0 p.hdr.aux [], true)
  else if (tfind s1.keys (tagKey tag)).isNone && !s1.lineLost (tagLine tag) then (s1.serveRetired p tag, true)
  else match p.hdr.cls.toNat, p.hdr.mtype.toNat % 8 with
    | 0, 2 => let (s2, ok) := s1.fillStep tag; (if ok then s2.answerHome p 3 4 0 [] else s2, ok)
    | 0, _ => s1.serveRead p tag
    | 1, 0 => s1.serveWrite p tag false
    | 1, 1 => s1.serveWrite p tag true
    | 1, 3 => s1.serveAtomic p tag
    | 1, 4 => s1.serveDiscard p tag
    | 4, 0 => s1.serveRegister p tag
    | 5, 0 => s1.serveRead p tag
    | 5, 1 => s1.serveWrite p tag false
    | 5, 2 => s1.serveWrite p tag true
    | _, _ => (s1, true)

/-- Remove the first waiting request of a line. -/
def dropFirst (tag : Nat) : List Packet → List Packet
  | [] => []
  | p :: r => if pktTag p = tag then r else p :: dropFirst tag r

/-- Serve the waiting requests of a line in order, as far as they go. -/
def State.retryHome (s : State) (tag : Nat) (combined : Bool) : Nat → State
  | 0 => s
  | n + 1 =>
    match s.homeQ.find? (fun p => pktTag p == tag) with
    | none => s
    | some p =>
      match s.serve p combined with
      | (s1, true) => ({ s1 with homeQ := dropFirst tag s1.homeQ }).retryHome tag false n
      | (s1, false) => s1

/-- Serve waiting requests of one line. -/
def State.retryLine (s : State) (tag : Nat) (combined : Bool) : State := s.retryHome tag combined (s.homeQ.length + 1)
/-- Serve waiting requests of every line. -/
def State.retryAll (s : State) : State := (sortNat (s.homeQ.map pktTag)).foldl (fun s t => s.retryLine t false) s

/-- A request arrives at its home: it waits behind earlier requests of its line. -/
def State.atHome (s0 : State) (p : Packet) : State := s0.onPacket p (fun s =>
  if s.homeQ.any (fun q => pktTag q == pktTag p) then { s with homeQ := s.homeQ ++ [p] }
  else match s.serve p false with
    | (s1, true) => s1
    | (s1, false) => { s1 with homeQ := s1.homeQ ++ [p] })

/-- LINE_READ (R28, R185). -/
def execLineRead (p : Packet) (s : State) : Host.Outcome State Fault Refusal := .next (s.atHome p)
/-- WORD_READ (R28, R185). -/
def execWordRead (p : Packet) (s : State) : Host.Outcome State Fault Refusal := .next (s.atHome p)
/-- PREF_L2 (R28). -/
def execPrefL2 (p : Packet) (s : State) : Host.Outcome State Fault Refusal := .next (s.atHome p)
/-- WRITE (R28, R185). -/
def execWrite (p : Packet) (s : State) : Host.Outcome State Fault Refusal := .next (s.atHome p)
/-- MASKED_WRITE (R28, R183). -/
def execMaskedWrite (p : Packet) (s : State) : Host.Outcome State Fault Refusal := .next (s.atHome p)
/-- ATOMIC (R28, R185). -/
def execAtomic (p : Packet) (s : State) : Host.Outcome State Fault Refusal := .next (s.atHome p)
/-- DISCARD (R28, R216). -/
def execDiscard (p : Packet) (s : State) : Host.Outcome State Fault Refusal := .next (s.atHome p)
/-- REGISTER (R184). -/
def execRegister (p : Packet) (s : State) : Host.Outcome State Fault Refusal := .next (s.atHome p)
/-- COPY_READ (R28). -/
def execCopyRead (p : Packet) (s : State) : Host.Outcome State Fault Refusal := .next (s.atHome p)
/-- COPY_WRITE (R28, R383). -/
def execCopyWrite (p : Packet) (s : State) : Host.Outcome State Fault Refusal := .next (s.atHome p)
/-- COPY_MWRITE (R28). -/
def execCopyMwrite (p : Packet) (s : State) : Host.Outcome State Fault Refusal := .next (s.atHome p)

/-! ### What an owner gives up -/

/-- WRITEBACK (R187): it applies to those of its words that its core still owns and that no access in one step has taken before
(`State.landBack`); revocations of them are complete. -/
def execWriteback (p : Packet) (s0 : State) : Host.Outcome State Fault Refusal :=
  .next (s0.onPacket p (fun s =>
    let tag := pktTag p
    let c := s.senderCore p
    let left := match s.sourceTxn p with | some t => t.pkt.hdr.aux | none => p.hdr.aux
    let held := p.hdr.aux &&& left &&& maskOf (((s.ownLine tag).owners.filter (fun x =>
      match c with | some k => x.2 == k | none => x.2 / 64 == p.hdr.src.toNat)).map (·.1))
    let s1 := ((s.settle (tagLine tag)).finishFill tag).homePut tag held (pktWords p false)
    ((s1.released tag held).answerHome p 3 0 p.hdr.aux []).retryAll))

/-- A pending word's revocation is deferred until its grant (R187). -/
def deferWord (t : Table L1Word) (k : Nat) : Table L1Word :=
  match tfind t k with
  | some ⟨.pending ws _ b, w⟩ => tins t k ⟨.pending ws true b, w⟩
  | _ => t

/-- R187: a core serves a revocation of words: registered ones are written back and dropped, those whose grant is still to come
are deferred; with nothing to write back, a clean acknowledgement. -/
def State.serveRevoke (s : State) (p : Packet) : State :=
  let core := addressee p
  let tag := pktTag p
  let st := fun i => tfind s.l1 (l1Key core tag i)
  let ls := lanesOf p.hdr.aux
  let pend := ls.filter (fun i => isPending (st i))
  let dirty := ls.filter (fun i => match st i with | some ⟨.owned true, _⟩ => true | _ => false)
  let clean := ls.filter (fun i => match st i with | some ⟨.owned false, _⟩ => true | _ => false)
  let back := s.txns.any (fun t => t.agent == .writeback core && pktTag t.pkt == tag)
  let gone := if back then [] else ls.filter (fun i => !isPending (st i) && !isOwned (st i))
  let s1 : State := { s with l1 := pend.foldl (fun t i => deferWord t (l1Key core tag i)) s.l1 }
  let give := dirty ++ clean
  let s2 := ({ s1 with l1 := give.foldl (fun t i => tdel t (l1Key core tag i)) s1.l1 } : State).staleFills core tag
  let ack := fun (s : State) (m : BitVec 32) => if m = 0 then s else s.send
    (mkPacket 3 1 p.hdr.dst.toNat p.hdr.src.toNat p.hdr.txn.toNat (tagLine tag * 32) (tagKey tag) false m [])
  if dirty.isEmpty then ack s2 (maskOf (clean ++ gone))
  else match s2.sendBack core tag (give.map (fun i => (i, ((st i).map (·.w)).getD Word.zero))) with
    | some s3 => ack s3 (maskOf gone)
    | none => s.send p

/-- REVOKE (R187). -/
def execRevoke (p : Packet) (s : State) : Host.Outcome State Fault Refusal := .next (s.onPacket p (fun s => s.serveRevoke p))

/-- CLEAN_ACK (R187). -/
def execCleanAck (p : Packet) (s0 : State) : Host.Outcome State Fault Refusal :=
  .next (s0.onPacket p (fun s => match s.txnFor p with
    | some t => if t.agent = .home ∧ t.pkt.hdr.cls = 4 then (s.released (pktTag p) p.hdr.aux).retryAll else s
    | none => s))

/-- FORWARD_READ (R185): the owner sends its words to the requester; words of a chunk it does not hold registered go back to the home, all
of the chunk together (R211). -/
def execForwardRead (p : Packet) (s0 : State) : Host.Outcome State Fault Refusal :=
  .next (s0.onPacket p (fun s =>
    let core := addressee p
    let tag := pktTag p
    let has := fun (i : Nat) => isOwned (tfind s.l1 (l1Key core tag i))
    let held := (lanesOf p.hdr.aux).filterMap (fun i =>
      if (lanesOf p.hdr.aux).all (fun j => j / 4 != i / 4 || has j) then (tfind s.l1 (l1Key core tag i)).map (fun e => (i, e.w)) else none)
    let m := maskOf (held.map (·.1))
    let rest := p.hdr.aux &&& ~~~ m
    let s1 := if m = 0 then s else s.send (mkPacket 2 1 p.hdr.dst.toNat p.hdr.src.toNat p.hdr.txn.toNat (tagLine tag * 32) (tagKey tag) false m (flitsAt m held))
    if rest = 0 then s1 else s1.send (mkPacket 0 1 p.hdr.src.toNat (homeDie (tagLine tag)) p.hdr.txn.toNat (tagLine tag * 32) (tagKey tag) false rest [])))

/-- PARTIAL_REQ (R189): the holder sends its partials of the line and holds them no more. -/
def execPartialReq (p : Packet) (s0 : State) : Host.Outcome State Fault Refusal :=
  .next (s0.onPacket p (fun s =>
    let core := addressee p
    let tag := pktTag p
    let mine := s.partialsOf tag core
    let m := maskOf (mine.map (·.1))
    (s.dropPartials tag core).send
      (mkPacket 2 4 p.hdr.dst.toNat p.hdr.src.toNat p.hdr.txn.toNat (tagLine tag * 32) (tagKey tag) false m (flitsAt m mine))))

/-- R189: when the last of the partials asked for has arrived they are added in ascending order of core, and the waiting request is
served. -/
def State.partialsCome (s : State) (tag : Nat) : State :=
  let o := s.ownLine tag
  if o.asked.isEmpty && o.partials.isEmpty || o.partials.length < o.asked.length then s
  else
    let s2 := (sortNat (o.partials.map (·.1))).foldl (fun s c =>
      (o.partials.filter (fun e => e.1 == c)).foldl (fun s e => s.addWords tag (tget s.commKinds tag 0) e.2) s) (s.settle (tagLine tag))
    let s3 := s2.modOwn tag (fun o => { o with asked := [], partials := [] })
    (s3.retryLine tag true).retryAll

/-- PARTIAL_DATA (R189): the partials that its request still names have arrived. -/
def execPartialData (p : Packet) (s0 : State) : Host.Outcome State Fault Refusal :=
  .next (s0.onReply p (fun s t =>
    if t.agent ≠ .home then s
    else ((s.dropTxn t).modOwn (pktTag p) (fun o => { o with
      partials := o.partials ++ [(addressee t.pkt, partialWords t p)] })).partialsCome (pktTag p)))

/-! ### Replies at their agents -/

/-- A fill enters a core's L1 (R181): its words are of one age; a word the core has written stays. -/
def State.install (s : State) (core tag : Nat) (ws : List (Nat × Word)) : State :=
  let s1 := s.l1Room core tag
  { s1 with
    l1 := ws.foldl (fun (t : Table L1Word) w =>
      if isPending (tfind t (l1Key core tag w.1)) || isOwned (tfind t (l1Key core tag w.1)) then t else tins t (l1Key core tag w.1) ⟨.clean s1.fillNo, w.2⟩) s1.l1
    fillNo := s1.fillNo + 1 }

/-- Words that arrive and are not to be installed may be newer than the core's clean copies and than fills still on their way (R204). -/
def State.passBy (s : State) (core tag : Nat) (ws : List (Nat × Word)) : State :=
  ({ s with l1 := ws.foldl (fun (t : Table L1Word) w =>
      if (cleanAge (tfind t (l1Key core tag w.1))).isSome then tdel t (l1Key core tag w.1) else t) s.l1 } : State).staleFills core tag

/-- The words of a fill at a core. -/
def State.fillL1 (s : State) (inst : Bool) (core tag : Nat) (ws : List (Nat × Word)) : State :=
  if inst then s.install core tag ws else s.passBy core tag ws

/-- The sub-word stores of a core whose whole chunk has its words (R211). -/
def readyMerges (l : List Merge) : List Merge :=
  l.filter (fun m => (l.filter (fun x => x.idx / 4 == m.idx / 4)).all (fun x => wholeStore x.bytes || x.got.isSome))

/-- R183: the merges that awaited these words: the words written in L1, their registration sent; none while no transaction is free. The
stores of one chunk are written together. -/
def State.applyMerges (s : State) (core tag : Nat) (ws : List (Nat × Word)) : Option State :=
  let all := s.merges.map (fun (m : Merge) => if m.core = core ∧ m.tag = tag ∧ m.got.isNone then
    { m with got := (ws.find? (fun w => w.1 == m.idx)).map (·.2) } else m)
  let due := readyMerges (all.filter (fun m => m.core == core && m.tag == tag))
  let s1 : State := { s with merges := all.filter (fun m => !due.contains m) }
  let s2 := due.foldl (fun (s : State) m =>
    let k := l1Key core tag m.idx
    { s with l1 := tins s.l1 k (match tfind s.l1 k with
      | some ⟨.pending ws d b, w⟩ => ⟨.pending (ws ++ [m.grp]) d (joinStores b m.bytes), overWord (some ⟨.clean 0, w⟩) m.bytes⟩
      | _ => ⟨.pending [m.grp] false m.bytes, overWord (m.got.map (fun w => ⟨.clean 0, w⟩)) m.bytes⟩) }) s1
  if due.isEmpty then some s2
  else (s2.staleFills core tag).request (.reg core) (core / 64) 4 0 tag (maskOf (due.map (·.idx))) []

/-- Words of a read arrive at the agent that asked for them. -/
def State.readArrives (s : State) (t : Txn) (tag : Nat) (ws : List (Nat × Word)) : Option State :=
  let m := maskOf (ws.map (·.1))
  match t.agent with
  | .load r id inst => some (((s.fill r id tag ws).partTxn t m).fillL1 inst (r.die * 64 + r.core) tag ws)
  | .prefetch c inst => some ((s.partTxn t m).fillL1 inst c tag ws)
  | .merge c inst => (s.applyMerges c tag ws).map (fun s1 => (s1.partTxn t m).fillL1 inst c tag ws)
  | .event q c => some ((s.eventSeen q c (ws.map (·.2))).partTxn t m)
  | _ => some (s.partTxn t m)

/-- The tag under which a request's words are awaited: its line's, or that of a hub transaction for a peer read. -/
def txnTag (t : Txn) : Nat := if t.node = Config.hubNode then peerTag t.id else pktTag t.pkt

/-- READ_DATA and FORWARD_DATA. -/
def State.dataReply (s0 : State) (p : Packet) : State := s0.onReply p (fun s t =>
  (s.readArrives t (txnTag t) ((lanesOf (p.hdr.aux &&& t.pkt.hdr.aux)).map (fun i => (i, windowWord p.flits i)))).getD (s.send p))

/-- READ_DATA (R28). -/
def execReadData (p : Packet) (s : State) : Host.Outcome State Fault Refusal := .next (s.dataReply p)
/-- FORWARD_DATA (R185). -/
def execForwardData (p : Packet) (s : State) : Host.Outcome State Fault Refusal := .next (s.dataReply p)

/-- R184: granted words are registered and their stores performed; a store whose word the home did not register, or no longer holds as
the core's, is lost (R216, R217). -/
def State.granted (s : State) (core tag : Nat) (m : BitVec 32) : State :=
  let line := s.homeLine tag
  (lanesOf m).foldl (fun (s : State) i =>
    match tfind s.l1 (l1Key core tag i) with
    | some ⟨.pending ws _ b, _⟩ =>
      if s.ownedBy tag i core then
        performed { s with l1 := tins s.l1 (l1Key core tag i) ⟨.owned true, layStores (line.getD i Word.poison) b⟩ } ws
      else performed (({ s with l1 := tdel s.l1 (l1Key core tag i) } : State).staleFills core tag) ws
    | _ => s) s

/-- GRANT (R184, R187): the stores are performed; deferred revocations of the granted words are served. -/
def execGrant (p : Packet) (s0 : State) : Host.Outcome State Fault Refusal :=
  .next (s0.onReply p (fun s t =>
    match t.agent with
    | .reg c =>
      let tag := pktTag p
      let m := p.hdr.aux &&& t.pkt.hdr.aux
      let due := maskOf ((lanesOf m).filter (fun i => match tfind s.l1 (l1Key c tag i) with | some ⟨.pending _ d _, _⟩ => d | _ => false))
      let s1 := (s.granted c tag m).dropTxn t
      let s2 := if due = 0 then s1 else
        match s1.txns.find? (fun t => t.agent == .home && t.pkt.hdr.cls == 4 && t.pkt.hdr.mtype == 1 && pktTag t.pkt == tag && addressee t.pkt == c) with
        | some r => s1.serveRevoke { r.pkt with hdr := { r.pkt.hdr with aux := due } }
        | none => s1
      s2.retryAll
    | _ => s))

/-- ATOMIC_RESULT (R28, R315). -/
def execAtomicResult (p : Packet) (s0 : State) : Host.Outcome State Fault Refusal :=
  .next (s0.onReply p (fun s t =>
    let s1 := s.dropTxn t
    match t.agent with
    | .atom r id lane =>
      if p.hdr.aux = 0 ∧ t.pkt.hdr.aux ≠ 0 then s1.atomFailed r id lane
      else s1.atomDone r id lane ((p.flits.getD 0 []).take (max 1 (lanesOf t.pkt.hdr.aux).length))
    | .store r => s1.writeDone r
    | .event q c => s1.eventSeen q c ((p.flits.getD 0 []).take 2)
    | .childEvent q _ => s1.childSignalled q ((p.flits.getD 0 []).take 2)
    | _ => s1))

/-- A write, a slot or another request without a value is complete: its transaction closes, and a group's write is performed. -/
def State.completeTxn (s : State) (t : Txn) : State :=
  let s1 := s.dropTxn t
  match t.agent with
  | .store r => s1.writeDone r
  | .slot r _ => s1.writeDone r
  | _ => s1

/-- WRITE_ACK (R28). -/
def execWriteAck (p : Packet) (s0 : State) : Host.Outcome State Fault Refusal :=
  .next (s0.onReply p (fun s t => (s.completeTxn t).retryAll))

/-- DONE (R28): a request is complete, and CONTROL messages that wait may go. -/
def execDone (p : Packet) (s0 : State) : Host.Outcome State Fault Refusal :=
  .next (s0.onReply p (fun s t => let s1 := s.completeTxn t; State.sendControls s1.controls s1))

/-! ### Lost requests (R32) and refusals (R58) -/

/-- R64: the status words of a die reach the snapshot being built, or will not come. -/
def State.statusCame (s : State) (die : Nat) (ws : Option (List Word)) : State :=
  { s with twin := { s.twin with snap := s.twin.snap.map (fun x => { x with
      awaited := x.awaited.filter (· != die)
      got := match ws with | some l => tins x.got die l | none => x.got }) } }

/-- A request whose destination is lost ends: reads and atomics deliver poison, writes are lost. -/
def State.failTxn (s : State) (t : Txn) : State :=
  let tag := txnTag t
  let m := t.pkt.hdr.aux
  let poison := (lanesOf m).map (fun i => (i, Word.poison))
  match t.agent with
  | .load r id _ => (s.fill r id tag poison).dropTxn t
  | .merge c _ =>
    let mine := s.merges.filter (fun x => x.core == c && x.tag == tag)
    performed ({ s with merges := s.merges.filter (fun x => !(x.core == c && x.tag == tag)) }.dropTxn t) (mine.map (·.grp))
  | .reg c =>
    let s1 := (lanesOf m).foldl (fun s i => match tfind s.l1 (l1Key c tag i) with
      | some ⟨.pending ws _ _, _⟩ => performed (({ s with l1 := tdel s.l1 (l1Key c tag i) } : State).staleFills c tag) ws
      | _ => s) s
    s1.dropTxn t
  | .atom r id lane => (s.dropTxn t).atomDone r id lane [Word.poison, Word.poison]
  | .event q c => (s.dropTxn t).eventSeen q c [Word.poison, Word.poison]
  | .status d => (s.dropTxn t).statusCame d none
  | .childEvent q _ => (s.dropTxn t).childSignalled q [Word.poison, Word.poison]
  | .home =>
    -- the core that was asked is lost with the words it owned
    let s1 := s.dropTxn t
    if t.pkt.hdr.mtype = 1 then ((s1.homePut tag m poisonLine).released tag m).retryAll
    else ((s1.modOwn tag (fun o => { o with asked := o.asked.filter (· != addressee t.pkt), holders := o.holders.filter (· != addressee t.pkt) })).partialsCome tag).retryAll
  | _ => s.completeTxn t

/-- R217: what is still under way under a retired key is over before the key id is used again: reads deliver poison, writes and reductions are
lost, and their packets are gone. -/
def State.endKey (s0 : State) (k : Nat) : State :=
  let s := s0.flushKey k
  let due := s.txns.filter (fun t => t.node != Config.hubNode && [0, 1, 4, 5].contains t.cls && tagKey (pktTag t.pkt) == k)
  let mine := fun (p : Packet) => (s.sourceTxn p).any due.contains || (s.txnFor p).any due.contains
  let s1 : State := { s with
    flight := s.flight.filter (fun p => !mine p)
    outbox := s.outbox.filter (fun p => !mine p)
    homeQ := s.homeQ.filter (fun p => tagKey (pktTag p) != k)
    own := s.own.filter (fun e => tagKey e.1 != k) }
  due.foldl (fun s t => if t.agent = .home then s.dropTxn t else s.failTxn t) s1

/-- ROUTE_LOST (R32): the source retries once, unless the destination itself is lost. -/
def execRouteLost (p : Packet) (s0 : State) : Host.Outcome State Fault Refusal :=
  .next (s0.onReply p (fun s t =>
    if t.retried || s.twin.lostDies.contains t.pkt.hdr.dst.toNat then s.failTxn t
    else ({ s with txns := s.txns.map (fun x => if t.same x then { x with retried := true } else x) } : State).send t.pkt))

/-- The mode a group of a team runs in. -/
def groupMode (t : Team) (n : Nat) : Nat := ((tfind t.groups n).map (fun g => g.priv.mode.toNat)).getD 0

/-- The cause word of a refused write or atomic: PERM_FAULT, the faulting access a write (R58, R152). -/
def refusedCause (mode : Nat) : BitVec 32 := recCause cPerm mode 0 ||| 0x1000

/-- R58, R71: the record of a group's refused write or atomic, in its own partition's log; one of a team that is gone names its core alone. -/
def State.refusedBy (s : State) (r : GroupRef) (arg : Nat) : State :=
  if r.die = kilnDie then
    s.record { Rec.event 6 r.core cPerm 3 arg with part := (tfind s.kilns r.core).map (·.part), cause := refusedCause 0 }
  else
    let rec0 := Rec.event 0 (r.die * 64 + r.core) cPerm 3 arg
    match s.teamAt (grpKey r) with
    | some tm => (s.gradeGrid tm.grid 3).record { rec0 with
        grid := tm.grid, teamT := tm.t, group := r.grp, mode := groupMode tm r.grp, cause := refusedCause (groupMode tm r.grp) }
    | none => s.record { rec0 with cause := refusedCause 0 }

/-- R58: the record of a refused write or atomic of the front end, in the log of the partition it was made for. -/
def State.refusedFront (s : State) (part arg : Nat) : State :=
  s.record { Rec.event 5 0 cPerm 3 arg with part := some part, cause := refusedCause 0 }

/-- REFUSED (R58): a peer refused the access: a read or an atomic delivers poison, and a write or an atomic is recorded at
grade G3, with the handle it named. -/
def execRefused (p : Packet) (s0 : State) : Host.Outcome State Fault Refusal :=
  .next (s0.onReply p (fun s t =>
      let arg := t.handle.toNat
      let s1 := match t.agent with
        | .store r => s.refusedBy r arg
        | .atom r _ _ => s.refusedBy r arg
        | .event q _ => s.refusedFront ((s.partOfQueue q).getD 0) arg
        | .childEvent part _ => s.refusedFront part arg
        | .front part => s.refusedFront part arg
        | _ => s
      s1.failTxn t))

/-! ### Channels (R200) -/

/-- The key of the team a channel message names: the core and the resident slot. -/
def slotTeam (p : Packet) : Nat := teamKey p.hdr.dst.toNat (pktCore p) (field p.hdr.paWord.toNat 11 5)

/-- SLOT (R200): the bytes are checked (R224) and written in the consumer's ring, then the send counts; the producer is told. A slot waits while a
job holds the scratchpad it writes (R330). -/
def execSlot (p : Packet) (s0 : State) : Host.Outcome State Fault Refusal :=
  .next (s0.onPacket p (fun s =>
    let key := slotTeam p
    let c := field p.hdr.paWord.toNat 5 6
    let n := field p.hdr.paWord.toNat 16 6
    let done := fun (s : State) => s.answerHome p 3 4 0 []
    match s.teamAt key with
    | none => done s
    | some t =>
      match (tfind s.grids t.grid).bind (fun g => g.chans[c]?) with
      | none => done s
      | some e =>
        let ep := tget t.chans c ⟨0, 0⟩
        -- the low six bits of the send number place it among the sends not yet counted
        let num := ep.sent.toNat + (n + 64 - ep.sent.toNat % 64) % 64
        let off := e.2.2.1 + 128 * (num % max 1 e.2.2.2)
        if s.scrHeld key off 128 || num ≠ ep.sent.toNat then s.send p
        else
          let s1 := (List.range 32).foldl (fun s i => s.scrWrite key (off / 4 + i) 15 (ingress (windowWord p.flits i))) s
          done (s1.modTeam key (fun t => { t with chans := tins t.chans c { ep with sent := ep.sent + 1 } }))))

/-- CREDIT (R200): the consumer's received count reaches the producer. -/
def execCredit (p : Packet) (s0 : State) : Host.Outcome State Fault Refusal :=
  .next (s0.onPacket p (fun s =>
    let c := field p.hdr.paWord.toNat 5 6
    let n : BitVec 32 := BitVec.ofNat 32 (field p.hdr.paWord.toNat 16 32)
    s.modTeam (slotTeam p) (fun t =>
      let ep := tget t.chans c ⟨0, 0⟩
      if (n - ep.received).toNat ≤ (ep.sent - ep.received).toNat then { t with chans := tins t.chans c { ep with received := n } } else t)))

/-! ### Caches (R181, R187, R191) -/

/-- L1_EVICTION (R187, R189): a line leaves a core's L1: owned words are written back, partials flushed. A line whose
registration or merge is under way stays. -/
def execL1Eviction (core tag : Nat) (s : State) : Host.Outcome State Fault Refusal :=
  let ws := (List.range 32).filterMap (fun i => (tfind s.l1 (l1Key core tag i)).map (fun w => (i, w)))
  if ws.any (fun w => isPending (some w.2)) || s.merges.any (fun m => m.core == core && m.tag == tag) then .next s
  else
    let owned := ws.filter (fun w => isOwned (some w.2))
    let s1 := if (s.partialsOf tag core).isEmpty then s else s.addPartials tag core (tget s.commKinds tag 0)
    let sent := if owned.isEmpty then some s1 else s1.sendBack core tag (owned.map (fun w => (w.1, w.2.w)))
    .next (match sent with
      | none => s
      | some s2 => ({ s2 with l1 := s2.l1.filter (fun e => e.1 / 32 != tag * 512 + core) } : State).staleFills core tag)

/-- A slice writes back and drops a line. -/
def State.dropL2 (s : State) (tag : Nat) : State :=
  match tfind s.l2 tag with
  | none => s
  | some l =>
    let s1 := { s with l2 := tdel s.l2 tag }
    if !l.dirty || s.lineLost (tagLine tag) then s1
    else match s1.portAsk tag 2 0 l.words with
      | some s2 => s2
      | none => s

/-- CACHE_POWER_GATE (R191): an L1 is flushed, or a slice writes back its dirty lines. -/
def execCachePowerGate (isL2 : Bool) (die unit : Nat) (s : State) : Host.Outcome State Fault Refusal :=
  .next (if isL2 then (s.l2Of (die * 64 + unit)).foldl (fun s e => s.l2Drop e.1) s else s.flushCore (die * 64 + unit))

end Sys2Proof.Machine
end

