-- ==== Sys2Proof/Machine/Stack.lean ====
section
/-! DEFINITION. The stack ports and base dies as steps of their own (R17–R25): a request taking effect, a reply reaching its
slice, the patrol scrubber and row repair. -/

namespace Sys2Proof.Machine

/-- STACK_RD (R14, R18, R22). -/
def execStackRd (x : StackReq) (s : State) : Host.Outcome State Fault Refusal := .next (s.portArrival x)
/-- STACK_WR (R14, R18, R22). -/
def execStackWr (x : StackReq) (s : State) : Host.Outcome State Fault Refusal := .next (s.portArrival x)
/-- STACK_WRM (R14, R18, R19). -/
def execStackWrm (x : StackReq) (s : State) : Host.Outcome State Fault Refusal := .next (s.portArrival x)

/-- STACK_READ_REPLY (R16, R17): the tag is free, the slice holds the line, and waiting requests go on. -/
def execStackReadReply (x : StackReply) (s : State) : Host.Outcome State Fault Refusal :=
  .next (if (tfind s.stackTags (portKey (x.die * 64 + x.slice) (replyTag x.hdr))).isSome then (s.takeReply x).retryAll else s.takeReply x)

/-- STACK_WRITE_ACK (R16, R17, R383): the tag is free, a write that was passed on is performed, and requests that waited for a tag go on. -/
def execStackWriteAck (x : StackReply) (s : State) : Host.Outcome State Fault Refusal :=
  .next (s.freeTagOf x).retryAll

/-- The highest line of a stack: among the last 64 lines of its die every channel has one. -/
def lastLineOf (stack : Nat) : Nat :=
  (((List.range 64).map (fun i => (stack / 2 + 1) * 2 ^ 30 - 1 - i)).find? (fun l => stackOf (chanOf l) == stack)).getD 0

/-- A codeword the scrubber has corrected is written back: with a miscorrection (R21) it then holds the words the decoder found. -/
def State.scrubbed (s : State) (line : Nat) (d : Decoded) : State :=
  let s1 : State := match d.wrong with
    | some ws => ws.zipIdx.foldl (fun s w => s.setRaw line w.2 w.1) s
    | none => s
  { s1 with syms := tdel s1.syms line }

/-- PATROL_SCRUB of a line (R24): a codeword it corrects is written back; one it cannot is left as it is and reported. It takes its place
behind the requests that have arrived. DESIGN CHOICE (log 32): R24 gives the scrub no order, and a pass ends when the highest line of the stack
is scrubbed. -/
def execPatrolScrub (line : Nat) (s0 : State) : Host.Outcome State Fault Refusal :=
  let s := s0.settle line
  let d := s.decoded line
  let s1 := s.bookDecode line d.status d.nsym
  let s2 : State := if d.status = 2 then s1 else s1.scrubbed line d
  let st := stackOf (chanOf line)
  .next (if line = lastLineOf st then { s2 with lastPass := tins s2.lastPass st s2.gtime } else s2)

/-- R25: does a row call for repair: has it reached the firmware's threshold of corrected symbols, or does it hold an UNCORRECTABLE
codeword? With the failed pins of its channel alone beyond the decoder's power every row does. -/
def State.rowDue (s : State) (chan row : Nat) : Bool :=
  decide (Config.rowThreshold ≤ tget s.rowFixed (chan * 2 ^ 32 + row) 0) ||
  decide (8 < (sortNat ((tget s.pins chan []).flatMap pinSymbols)).length) ||
  s.syms.any (fun e => chanOf e.1 == chan && Config.rowOfLine e.1 == row && (s.decoded e.1).status == 2)

/-- The lines of a row whose codewords have wrong symbols that the decoder takes away, rightly or not. -/
def State.rowFixable (s : State) (chan row : Nat) : List Nat :=
  (s.syms.filter (fun e => chanOf e.1 == chan && Config.rowOfLine e.1 == row && (s.decoded e.1).status != 2)).map (·.1)

/-- ROW_REPAIR (R25): the row's codewords, as corrected, move to a spare row; an uncorrectable one stays so. A row that does not call for it
is not repaired, nor one without a spare row left. More than 32 spare rows of a channel cross the threshold of R69. DESIGN CHOICE (log 32): R25
does not say what becomes of the row's count of corrected symbols; it begins anew in the spare row. -/
def execRowRepair (die slice row : Nat) (s : State) : Host.Outcome State Fault Refusal :=
  let chan := die * 64 + slice
  let used := tget s.spareRows chan 0
  if used ≥ 64 ∨ !s.rowDue chan row then .next s
  else
    let s1 := (s.rowFixable chan row).foldl (fun t l => t.scrubbed l (s.decoded l)) s
    .next { s1 with
      spareRows := tins s.spareRows chan (used + 1)
      rowFixed := tdel s.rowFixed (chan * 2 ^ 32 + row)
      twin := { s.twin with sr := if used + 1 > 32 then s.twin.sr ||| 2 else s.twin.sr } }

end Sys2Proof.Machine
end

