-- ==== Sys2Proof/Machine/Links.lean ====
section
/-! DEFINITION. The links of the Perit mesh and the routing tables (R10, R29–R32). -/

namespace Sys2Proof.Machine

/-- Ends of the fourteen links, in the order of R10: six horizontal, four vertical, two to die 0, two to die 4. -/
def linkEnds : List (Nat × Nat) :=
  [(0, 1), (1, 2), (2, 3), (4, 5), (5, 6), (6, 7), (0, 4), (1, 5), (2, 6), (3, 7), (8, 0), (8, 0), (8, 4), (8, 4)]

/-- A link's state. -/
def State.link (s : State) (l : Nat) : Link := tget s.links l Link.initial
/-- Update a link. -/
def State.modLink (s : State) (l : Nat) (f : Link → Link) : State := { s with links := tmod s.links l Link.initial f }

/-- Is an end of a link a lost die? -/
def State.linkCut (s : State) (l : Nat) : Bool :=
  let e := linkEnds.getD l (9, 9)
  s.twin.lostDies.contains e.1 || s.twin.lostDies.contains e.2

/-- Is a link in use: not down, and no end of it lost? -/
def State.linkUp (s : State) (l : Nat) : Bool := (s.link l).state < 2 && !s.linkCut l

/-- Neighbours of a node over links in use; the flag says that the hop is horizontal. -/
def State.hops1 (s : State) (n : Nat) : List (Nat × Bool) :=
  (List.range 14).filterMap (fun l =>
    let e := linkEnds.getD l (9, 9)
    if !s.linkUp l then none
    else if e.1 = n then some (e.2, decide (l < 6))
    else if e.2 = n then some (e.1, decide (l < 6))
    else none)

/-- One round of distances by node: each is at most one more than a neighbour's. -/
def State.relax (s : State) (d : List Nat) : List Nat :=
  (List.range 9).map (fun n => (s.hops1 n).foldl (fun x h => min x (1 + d.getD h.1 99)) (d.getD n 99))

/-- Distances of the nodes to a destination after `k` rounds; 99 or more where there is no path. -/
def State.dists (s : State) (dst : Nat) : Nat → List Nat
  | 0 => (List.range 9).map (fun n => if n = dst then 0 else 99)
  | k + 1 => s.relax (s.dists dst k)

/-- R32 step 4: the next node of a shortest path; a horizontal hop before another, then the lower node. -/
def State.shortHop (s : State) (n dst : Nat) : Option Nat :=
  let d := s.dists dst 8
  if d.getD n 99 ≥ 99 then none
  else (minBy (fun h => (if h.2 then 0 else 10) + h.1) ((s.hops1 n).filter (fun h => d.getD h.1 99 + 1 == d.getD n 99))).map (·.1)

/-- R31: the next node under the default tables. -/
def defaultHop (n dst : Nat) : Nat :=
  if n = 8 then (if dst < 4 then 0 else 4)
  else if dst = 8 then (if n % 4 = 0 then 8 else n - 1)
  else if n % 4 < dst % 4 then n + 1
  else if n % 4 > dst % 4 then n - 1
  else (n + 4) % 8

/-- The next node under the tables in force: a rewritten entry holds the node plus one, zero when there is no path. -/
def State.nextHop (s : State) (n dst : Nat) : Option Nat :=
  match tfind s.routes (n * 16 + dst) with
  | some v => if v = 0 then none else some (v - 1)
  | none => some (defaultHop n dst)

/-- The nodes a packet passes, its destination last. -/
def State.routeOf (s : State) (dst : Nat) : Nat → Nat → List (Nat × Nat)
  | 0, _ => []
  | k + 1, n => if n = dst then [] else
      match s.nextHop n dst with
      | none => []
      | some m => (n, m) :: s.routeOf dst k m

/-- R31: the link of a hop; a hub pair's link is numbered by bit 0 of (class XOR src XOR dst), or is the one not fenced. A link
that went down (state 2) stays in the tables until it is fenced (state 3). -/
def State.linkOfHop (s : State) (h : MeshHdr) (a b : Nat) : Option Nat :=
  let ls := (List.range 14).filter (fun l => let e := linkEnds.getD l (9, 9); (e == (a, b) || e == (b, a)) && (s.link l).state != 3)
  if ls.length = 2 then ls[((h.cls ^^^ h.src ^^^ h.dst).toNat % 2)]? else ls.head?

/-- The node a packet set out from: a FORWARD_READ, which carries its request's source, comes from the line's home. -/
def originOf (p : Packet) : Nat := if p.hdr.cls = 0 ∧ p.hdr.mtype = 3 then homeDie (pktLine p) else p.hdr.src.toNat

/-- The hops of a packet under the tables in force. -/
def State.hopsOf (s : State) (p : Packet) : List (Nat × Nat) := s.routeOf p.hdr.dst.toNat 9 (originOf p)

/-- Does a packet's route cross a link? -/
def State.crosses (s : State) (p : Packet) (l : Nat) : Bool :=
  (s.hopsOf p).any (fun h => s.linkOfHop p.hdr h.1 h.2 == some l)

/-- Does a packet's route enter or leave a die? -/
def State.passes (s : State) (p : Packet) (d : Nat) : Bool :=
  p.hdr.dst.toNat == d || (s.hopsOf p).any (fun h => h.1 == d || h.2 == d)

/-- R29: one byte of the CRC-16 with polynomial 0x1021. -/
def crc16Byte (c : BitVec 16) (b : Byte) : BitVec 16 :=
  (List.range 8).foldl (fun x _ => if x.getLsbD 15 then (x <<< 1) ^^^ 0x1021 else x <<< 1) (c ^^^ (b.setWidth 16 <<< 8))

/-- R29: the CRC-16 of a flit's bytes, with initial value 0xffff. -/
def crc16 (bs : List Byte) : BitVec 16 := bs.foldl crc16Byte 0xffff

/-- The flits of a packet: its header, then each data flit with its words' residues. -/
def flitBytes (p : Packet) : List (List Byte) :=
  bytesOf 16 (meshBits p.hdr) :: p.flits.map (fun f =>
    f.flatMap (fun w => bytesOf 4 w.data.toNat) ++ bytesOf ((f.length + 1) / 2) (f.foldr (fun w n => w.res.toNat + 16 * n) 0))

/-- R29: does a flit pass the receiver's check? -/
def LinkFlit.good (f : LinkFlit) : Bool := f.crc == crc16 f.bytes

/-- R29: a flit is sent: it takes the next sequence number, and the last 128 stay in the replay buffer. -/
def Link.transmit (x : Link) (bs : List Byte) : Link :=
  { x with
    seq := x.seq + 1
    buf := (x.buf ++ [({ seq := x.seq, bytes := bs, crc := crc16 bs } : LinkFlit)]).drop (x.buf.length - 127) }

/-- The flit of the replay buffer that the receiver takes next, when it has been sent and not taken. -/
def Link.owed (x : Link) : Option LinkFlit := if x.rx = x.seq then none else x.buf.find? (fun f => f.seq == x.rx)

/-- R29: a flit arrives: the receiver takes the one whose turn it is, with a good CRC; any other it discards. -/
def Link.take (x : Link) (f : LinkFlit) : Link :=
  if f.seq = x.rx ∧ f.good = true then { x with rx := x.rx + 1, fails := 0, nak := none } else x

/-- R29: a flit crosses a link: one that failed before is sent again from the replay buffer, with its own sequence number; any other is sent
for the first time. -/
def Link.cross (x : Link) (bs : List Byte) : Link :=
  match x.owed with
  | some f => if f.bytes = bs then x.take f else ({ x with rx := x.seq }.transmit bs).take ⟨x.seq, bs, crc16 bs⟩
  | none => (x.transmit bs).take ⟨x.seq, bs, crc16 bs⟩

/-- R29: a flit on the way fails its CRC: the receiver discards it and every flit after it, and a negative acknowledgement names its sequence
number; a flit's sixteenth failure in a row retrains the link. -/
def Link.fail (x : Link) : Link :=
  let y := { x with
    crcErrs := x.crcErrs + 1
    replays := x.replays + 1
    fails := x.fails + 1
    nak := some x.rx }
  if y.fails ≥ 16 ∧ y.state = 0 then { y with state := 1, fails := 0 } else y

/-- R32: a packet that no route of the tables takes to its destination. -/
def State.noRoute (s : State) (p : Packet) : Bool :=
  originOf p != p.hdr.dst.toNat && ((s.hopsOf p).getLast?.map (·.2)) != some p.hdr.dst.toNat

/-- Does a link still owe its receiver the flits of another packet, which it must send again first (R29)? -/
def State.owesOther (s : State) (p : Packet) (l : Nat) : Bool :=
  match (s.link l).owed with
  | none => false
  | some f => f.bytes != (flitBytes p).headD [] && s.flight.any (fun q => f.bytes == (flitBytes q).headD [])

/-- R29, R32: is a packet held on its way: by a link that retrains or is down, by one that sends another packet again, or by a lost die? A
malformed packet goes no further than the first node, which drops it (R26). -/
def State.heldUp (s : State) (p : Packet) : Bool :=
  if !pktOk p || (s.links.isEmpty && s.twin.lostDies.isEmpty) then false
  else
    (s.hopsOf p).any (fun h => match s.linkOfHop p.hdr h.1 h.2 with
      | none => true
      | some l => (s.link l).state != 0 || s.linkCut l || s.owesOther p l) ||
    s.noRoute p

/-- Is the packet a request, which a route-lost acknowledgement answers? -/
def isRequest (p : Packet) : Bool :=
  let c := p.hdr.cls.toNat
  c == 0 || c == 1 || c == 4 || c == 5 || (c == 6 && p.hdr.mtype == 0) || (c == 7 && (p.hdr.mtype == 0 || p.hdr.mtype == 3))

/-- The node at which a packet cannot go on: at a fenced output, or where the tables name no next node. -/
def State.lostAt (s : State) (p : Packet) : Nat :=
  let hs := s.hopsOf p
  match hs.find? (fun h => match s.linkOfHop p.hdr h.1 h.2 with | none => true | some l => (s.link l).state == 3 || s.linkCut l) with
  | some h => h.1
  | none => (hs.getLast?.map (·.2)).getD (originOf p)

/-- R32: the route-lost acknowledgement of a request, from the node at the fenced output. A FORWARD_READ carries the identity of the original
request. -/
def routeLostAck (n : Nat) (p : Packet) : Packet :=
  mkPacket 3 2 n p.hdr.src.toNat p.hdr.txn.toNat p.hdr.paWord.toNat p.hdr.key.toNat false p.hdr.aux []

/-- The links a packet's route crosses, in order. -/
def State.linksOf (s : State) (p : Packet) : List Nat := (s.hopsOf p).filterMap (fun h => s.linkOfHop p.hdr h.1 h.2)

/-- R29: a packet's flits have crossed the links of its route. -/
def State.carried (s : State) (p : Packet) : State :=
  if originOf p = p.hdr.dst.toNat then s
  else (s.linksOf p).foldl (fun s l => s.modLink l (fun x => (flitBytes p).foldl Link.cross x)) s

/-- R32 step 3: a packet the mesh still holds is answered as route-lost: a request to its source, a reply to the one that awaits it. Messages
that nobody awaits wait for the new tables. -/
def answered (p : Packet) : Packet :=
  let c := p.hdr.cls.toNat
  if isRequest p then routeLostAck (originOf p) p
  else if c = 2 ∨ c = 3 ∨ (c = 7 ∧ p.hdr.mtype = 1) then
    mkPacket 3 2 p.hdr.src.toNat p.hdr.dst.toNat p.hdr.txn.toNat p.hdr.paWord.toNat p.hdr.key.toNat (p.hdr.lc5 == 1) p.hdr.aux []
  else p

/-- R32 step 1: packets held at a fenced output: requests are answered as route-lost; a packet from or to a lost die is gone. -/
def State.loseHeld (s : State) (held : Packet → Bool) (die : Option Nat) : State :=
  let lost := fun n => s.twin.lostDies.contains n || die == some n
  { s with flight := s.flight.filterMap (fun p =>
      if lost p.hdr.src.toNat then none
      else if !held p then some p
      else if isRequest p then some (routeLostAck (s.lostAt p) p)
      else if lost p.hdr.dst.toNat then none else some p) }

/-- R32: a packet for which the tables have no route is answered where it stands: a request with a route-lost acknowledgement to its source, a
reply likewise to the one that awaits it, unless that is lost. -/
def State.answerLost (s : State) (n : Nat) (p : Packet) : State :=
  let rest := s.flight.eraseIdx n
  if s.twin.lostDies.contains p.hdr.src.toNat || (!isRequest p && s.twin.lostDies.contains p.hdr.dst.toNat) then { s with flight := rest }
  else { s with flight := rest ++ [if isRequest p then routeLostAck (s.lostAt p) p else answered p] }

/-- FLIT_CRC_FAIL (R29): a flit on a link fails its CRC: the header flit of the packet next to cross it, which has been sent with the flits after
it. They stay in the replay buffer and are sent again when the packet crosses. -/
def execFlitCrcFail (link : Nat) (s : State) : Host.Outcome State Fault Refusal :=
  .next (s.modLink link (fun x =>
    (match x.owed, s.flight.find? (fun p => pktOk p && originOf p != p.hdr.dst.toNat && s.crosses p link) with
     | none, some p => (flitBytes p).foldl Link.transmit x
     | _, _ => x).fail))

/-- LINK_RETRAIN (R29): flits wait at the transmitter while it lasts. -/
def execLinkRetrain (link : Nat) (s : State) : Host.Outcome State Fault Refusal :=
  .next (s.modLink link (fun x => if x.state = 0 then { x with state := 1, fails := 0 } else x))

/-- LINK_RETRAIN_DONE (R30): failed lanes are replaced while spares remain; else the link is down. -/
def execLinkRetrainDone (link badLanes : Nat) (s : State) : Host.Outcome State Fault Refusal :=
  let l := s.link link
  if l.state ≠ 1 then .next s
  else
    let used := l.lanesUsed + badLanes
    let s1 := s.modLink link (fun x => { x with state := if used ≤ 2 then 0 else 2, lanesUsed := min 2 used, fails := 0 })
    let s2 := s1.record (Rec.event 3 link (if used ≤ 2 then 0x45 else 0x46) 0 0)
    .next { s2 with twin := { s2.twin with sr := if used ≥ 2 then s2.twin.sr ||| 4 else s2.twin.sr } }

/-- ROUTING_REWRITE (R32 steps 1 and 2): the lost die's links, or the lost link, are fenced, what they hold is answered, and
injection stops. -/
def execRoutingRewrite (lost : Lost) (s : State) : Host.Outcome State Fault Refusal :=
  let s1 := match lost with
    | .die d =>
      let ls := (List.range 14).filter (fun l => (linkEnds.getD l (9, 9)).1 == d || (linkEnds.getD l (9, 9)).2 == d)
      ls.foldl (fun (s : State) l => s.modLink l (fun x => { x with state := 3 })) (s.loseHeld (fun p => s.passes p d) (some d))
    | .link l => (s.loseHeld (fun p => s.crosses p l) none).modLink l (fun x => { x with state := 3 })
  .next { s1 with twin := { s1.twin with stopInject := true } }

/-- R73: an item is loaded: its measurement register is extended with it. -/
def State.measure (s : State) (i : Nat) (item : List Byte) : State :=
  { s with twin := { s.twin with meas := tmod s.twin.meas i [] (fun l => l ++ [item]) } }

/-- The items loaded at boot that a measurement register is extended with. m1's is the firmware the package was reset with. -/
def State.bootOf (s : State) (i : Nat) : List (List Byte) :=
  match s.twin.bootImage with
  | some im => if i = 1 then [im] else Config.bootItems i
  | none => Config.bootItems i

/-- R73: the value of a measurement register: zero, extended with each item loaded at boot and since, m := SHAKE256(m ‖ SHAKE256(item)).
m7 is reserved and zero. -/
def State.measured (s : State) (i : Nat) : BitVec 512 :=
  if i = 7 then 0
  else (s.bootOf i ++ tget s.twin.meas i []).foldl (fun m item =>
    Config.shake256 (bytesOf 64 m.toNat ++ bytesOf 64 (Config.shake256 item).toNat)) 0

/-- R32 step 4: the tables over what is left, nine entries for each node. -/
def State.newRoutes (s : State) : List (Nat × Nat) :=
  (List.range 9).flatMap (fun n => (List.range 9).map (fun d =>
    (n * 16 + d, match s.shortHop n d with | some m => m + 1 | none => 0)))

/-- ROUTING_RESUME (R32 steps 3 to 5): what the mesh still holds is answered as route-lost, the new tables give shortest
paths over what is left, and injection resumes with what waited at the nodes. The tables loaded are measured (R73). -/
def execRoutingResume (s : State) : Host.Outcome State Fault Refusal :=
  let s1 := s.loseHeld (fun p => originOf p != p.hdr.dst.toNat) none
  let s2 := s1.measure 6 (s.newRoutes.map (fun e => BitVec.ofNat 8 e.2))
  .next { s2 with
    flight := s1.flight.map (fun p => if originOf p = p.hdr.dst.toNat then p else answered p) ++ s1.outbox
    outbox := []
    twin := { s2.twin with stopInject := false }
    routes := s.newRoutes }

end Sys2Proof.Machine
end

