-- ==== Sys2Proof/Machine/Cinder.lean ====
section
/-! DEFINITION. Twin Star's Cinder logs (R166–R170): the descriptors, the logs in memory, the buffer, and where records go. -/

namespace Sys2Proof.Machine

/-- Physical address of a partition's Cinder descriptor (R166). -/
def State.cinderPa (s : State) (p : Nat) : Nat := s.tableDie p * 2 ^ 37 + 32768

/-- Fields of a Cinder descriptor (R166). -/
def cdOn (d : BitVec 256) : Bool := d.getLsbD 0
def cdLog2 (d : BitVec 256) : Nat := field d.toNat 140 5
def cdVa (d : BitVec 256) : Nat := field d.toNat 145 47 * 64
def cdAsid (d : BitVec 256) : Addr := BitVec.ofNat 64 (field d.toNat 192 64)
/-- Enabled, its fields in range. -/
def cdValid (d : BitVec 256) : Bool := cdOn d && 6 ≤ cdLog2 d && cdLog2 d ≤ 24 && field d.toNat 1 139 == 0

/-- Write a partition's `written` and `lost` counts to its descriptor (R166, R167). -/
def State.putCounts (s : State) (p : Nat) : State :=
  let q := s.part p
  s.writeWords (s.kBase p) (s.cinderPa p + 48) (wordsOf 2 q.lost ++ wordsOf 2 q.written)

/-- Translate the 64 bytes of a log position as an S-mode store; none where it fails or meets window space
(R167), or memory that is not live (R77). -/
def State.logPlace (s : State) (p : Nat) (d : BitVec 256) (w : Nat) : State × Option XOk :=
  match s.translate none p (cdAsid d) (cdVa d + 64 * (w % 2 ^ cdLog2 d)) .store 1 with
  | (s1, .error _) => (s1, none)
  | (s1, .ok x) => (s1, if regionOf x.pa = .window ∨ s1.lineLost (lineOf x.pa) = true then none else some x)

/-- R167: store a record at its position and publish the count; none when the log cannot take it. -/
def State.logRecord (s : State) (p : Nat) (ws : List Word) : State × Bool :=
  let q := s.part p
  if !q.cinderOn then (s, false)
  else match s.logPlace p q.cinder q.written with
    | (s1, none) => (s1, false)
    | (s1, some x) =>
      let s2 := s1.writeAt x ws
      ((s2.modPart p (fun q => { q with written := q.written + 1 })).putCounts p, true)

/-- Buffered records are written in order while the log takes them. -/
def State.drainRecs (s : State) (p : Nat) : Nat → State
  | 0 => s
  | n + 1 =>
    match (s.part p).recBuf with
    | [] => s
    | ws :: r =>
      match s.logRecord p ws with
      | (s1, false) => s1
      | (s1, true) => (s1.modPart p (fun q => { q with recBuf := r })).drainRecs p n

/-- Records waiting in the 256-record buffer of the banked domain. -/
def State.buffered (s : State) : Nat := (List.range 8).foldl (fun n p => n + (s.part p).recBuf.length) 0

/-- Append a record to a partition's log, behind those that wait; a full buffer discards it and counts it in `lost`. -/
def State.appendRec (s : State) (p grade : Nat) (ws : List Word) : State :=
  let s0 := s.modPart p (fun q => { q with maxGrade := max q.maxGrade grade })
  let (s1, ok) := if (s0.part p).recBuf.isEmpty then s0.logRecord p ws else (s0, false)
  if ok then s1
  else if s1.buffered < 256 then s1.modPart p (fun q => { q with recBuf := q.recBuf ++ [ws] })
  else (s1.modPart p (fun q => { q with lost := q.lost + 1 })).putCounts p

/-- The valid partitions. -/
def State.validParts (s : State) : List Nat := (List.range 8).filter (fun p => peValid (s.part p).entry)

/-- R167: the logs a record goes to, by the kind and index of its source and the partition its packet names. -/
def State.logsOf (s : State) (kind idx : Nat) (named : Option Nat) : List Nat :=
  let ofDie := fun d => (s.ownerOf d).toList
  match named with
  | some p => [p]
  | none =>
    if kind = 0 then ofDie (idx / 64 % 8)
    else if kind = 1 then ofDie (idx % 8)
    else if kind = 2 then ofDie (idx / 2 % 8)
    else if kind = 3 then
      let e := linkEnds.getD idx (9, 9)
      if e.1 < 8 && e.2 < 8 && s.ownerOf e.1 == s.ownerOf e.2 then ofDie e.1 else s.validParts
    else s.validParts

/-- RECORD (R28, R167): Twin Star appends the record to its logs. -/
def execRecord (p : Packet) (s0 : State) : Host.Outcome State Fault Refusal :=
  .next (s0.onPacket p (fun s =>
    let ws := p.flits.flatMap (fun f => f)
    let w3 := (nth ws 3).data.toNat
    let named := if p.hdr.paWord.toNat ≥ 256 then some (p.hdr.paWord.toNat % 8) else none
    (s.logsOf (field w3 12 4) (field w3 0 12) named).foldl (fun s q => s.appendRec q (field w3 24 3) ws) s))

/-- R166: one partition's descriptor is read; a change of `enable` from 0 to 1 resets the counts. A poisoned descriptor counts as disabled
(R387); while the table die is lost the fields last read stay (R77). -/
def State.readCinder (s : State) (p : Nat) : State :=
  if s.lineLost (lineOf (s.cinderPa p)) then s.drainRecs p 256
  else
  let (s1, ws) := s.readWords (s.kBase p) (s.cinderPa p) 8
  let d : BitVec 256 := BitVec.ofNat 256 (ofWords ws)
  let on := !(ws.any Word.isPoison) && cdValid d
  let was := cdOn (s.part p).cinder
  let rise := !(ws.any Word.isPoison) && cdOn d && !was
  let s2 := s1.modPart p (fun q => { q with
    cinder := if ws.any Word.isPoison then 0 else d
    cinderOn := on
    written := if rise then 0 else q.written
    lost := if rise then 0 else q.lost })
  let s3 := if rise then s2.putCounts p else s2
  s3.drainRecs p 256

/-- CINDER_DESCRIPTOR_READ (R166): every partition's. -/
def execCinderDescriptorRead (s : State) : Host.Outcome State Fault Refusal := .next (s.validParts.foldl State.readCinder s)

/-! ### Status (R28, R64) -/

/-- The counters a stack's base die keeps for the inventory (R65): symbols corrected, UNCORRECTABLE codewords, the last patrol pass, spare rows
used and the most in one channel. -/
def State.stackWords (s : State) (k : Nat) : List Word :=
  let rows := ((List.range 512).filter (fun c => stackOf c == k)).map (fun c => tget s.spareRows c 0)
  wordsOf 2 (tget s.symFixed k 0) ++ wordsOf 1 (tget s.uncorr k 0) ++ wordsOf 2 (tget s.lastPass k 0) ++
  wordsOf 1 (rows.foldl (· + ·) 0 + rows.foldl max 0 * 2 ^ 16)

/-- The sixteen status words of a die (R64, R65): residue traps, stretches, and its two stacks' counters. DESIGN CHOICE (log 30): they are
its status register 0; the manual numbers no status register. -/
def State.statusWords (s : State) (die : Nat) : List Word :=
  wordsOf 2 (tget s.traps die 0) ++ wordsOf 2 (tget s.stretches die 0) ++ s.stackWords (2 * die) ++ s.stackWords (2 * die + 1)

/-- STATUS_READ (R28, R64): the node answers with its status words; of another register than 0 (log 30) with a free word. -/
def execStatusRead (p : Packet) (s0 : State) : Host.Outcome State Fault Refusal :=
  .next (s0.onPacket p (fun s =>
    let reply := fun (s : State) (fs : List (List Word)) =>
      s.send (mkPacket 7 1 p.hdr.dst.toNat p.hdr.src.toNat p.hdr.txn.toNat p.hdr.paWord.toNat 0 false 0 fs)
    if p.hdr.paWord.toNat % 65536 = 0 then
      let ws := s.statusWords p.hdr.dst.toNat
      reply s [ws.take 8, ws.drop 8]
    else reply { s with freeNo := s.freeNo + 1 } [Word.ofData (Config.freeData s.freeNo) :: List.replicate 7 Word.zero]))

/-- STATUS_DATA (R28, R64): the words reach Twin Star, for the snapshot that asked. -/
def execStatusData (p : Packet) (s0 : State) : Host.Outcome State Fault Refusal :=
  .next (s0.onReply p (fun s t =>
    let s1 := s.dropTxn t
    match t.agent with
    | .status d => s1.statusCame d (some (p.flits.flatMap (fun f => f)))
    | _ => s1))

end Sys2Proof.Machine
end

