-- ==== Sys2Proof/Machine/Queues.lean ====
section
/-! DEFINITION. Submission queues at the front end (R75–R87): descriptors, tails, slots, the mirror, status codes, events, and the
commands that are not launches. -/

namespace Sys2Proof.Machine

/-! ### Descriptors (R75) -/

/-- Fields of a queue descriptor. -/
def qdEnable (d : BitVec 256) : Bool := d.getLsbD 0
def qdHaltOnErr (d : BitVec 256) : Bool := d.getLsbD 1
def qdPrio (d : BitVec 256) : Nat := field d.toNat 45 3
def qdWeight (d : BitVec 256) : Nat := field d.toNat 48 8
def qdCap (d : BitVec 256) : Nat := 2 ^ field d.toNat 56 4
def qdRing (d : BitVec 256) : Nat := field d.toNat 60 46 * 128
def qdMirror (d : BitVec 256) : Nat := field d.toNat 106 49 * 16
def qdStart (d : BitVec 256) : BitVec 32 := BitVec.ofNat 32 (field d.toNat 160 32)
def qdAsid (d : BitVec 256) : Addr := BitVec.ofNat 64 (field d.toNat 192 64)
/-- R76: `log2_cap` and `weight` are in range and reserved fields are zero. -/
def qdOk (d : BitVec 256) : Bool :=
  4 ≤ field d.toNat 56 4 && 1 ≤ qdWeight d && field d.toNat 2 43 == 0 && field d.toNat 155 5 == 0

/-- A queue's state. -/
def State.queue (s : State) (q : Nat) : Queue := tget s.queues q Queue.initial
/-- Update a queue. -/
def State.modQueue (s : State) (q : Nat) (f : Queue → Queue) : State := { s with queues := tmod s.queues q Queue.initial f }

/-- Physical address of a queue's descriptor at its partition's table die. -/
def State.descPa (s : State) (p q : Nat) : Nat := s.tableDie p * 2 ^ 37 + 32 * (q - peQBase (s.part p).entry)

/-! ### The front end's accesses -/

/-- Words at a virtual address, read as a U-mode `.sys` acquire at their homes (R75); none when translation or permission fails or
the address lies in window space. -/
def State.frontRead (s : State) (p : Nat) (asid : Addr) (va n : Nat) : State × Option (List Word) := s.engineWords none p asid 0 va n

/-- A group no window access of the front end belongs to. -/
def noGroup : GroupRef := ⟨9, 0, 0, 0⟩

/-- What came of an access of the front end: made, sent through a window, refused, or to be tried again when the window's path has
room. -/
inductive Signalled where
  | made
  | sent
  | refused
  | busy
deriving DecidableEq, Repr

/-- A U-mode `.sys` store of whole words, at their home or through a window. -/
def State.frontWrite (s : State) (p : Nat) (asid : Addr) (va : Nat) (ws : List Word) : State × Signalled :=
  match s.translate none p asid va .store 0 with
  | (s1, .error _) => (s1, .refused)
  | (s1, .ok x) =>
    if regionOf x.pa = .window then
      if s1.windowAllows p x.pa .store (4 * ws.length) then
        match s1.windowStore p x.pa (4 * ws.length) ws (.front p) with
        | some s2 => (s2, .sent)
        | none => (s1, .busy)
      else (s1, .refused)
    else (s1.writeAt x ws, .made)

/-! ### Mirror and status (R82, R83) -/

/-- The four words of a mirror record. -/
def mirrorWords (x : Queue) : List Word :=
  [Word.ofData x.head, Word.ofData x.errSlot, Word.ofData (x.code.setWidth 32 ||| (x.count.setWidth 32 <<< 8)), Word.zero]

/-- Write the mirror record; one that cannot be written is lost (R77); one whose window has no room stays due. -/
def State.mirrorNow (s : State) (q : Nat) : State :=
  match s.partOfQueue q with
  | none => s.modQueue q (fun x => { x with mirrorDue := false })
  | some p =>
    let (s1, r) := s.frontWrite p (qdAsid (s.queue q).desc) (qdMirror (s.queue q).desc) (mirrorWords (s.queue q))
    s1.modQueue q (fun x => { x with mirrorDue := r == .busy })

/-- R83: does a code halt its queue? -/
def codeHalts (code : Nat) (onErr : Bool) : Bool :=
  code == 0x10 || code == 0x11 || (onErr && !(code == 0x0a || code == 0x0b || code == 0x0c || code == 0x0d))

/-- Write a status code, and the mirror at once. -/
def State.writeStatus (s : State) (q code : Nat) (slot : BitVec 32) : State :=
  (s.modQueue q (fun x => { x with
    code := BitVec.ofNat 8 code
    count := x.count + 1
    errSlot := slot
    halted := x.halted || codeHalts code (qdHaltOnErr x.desc) })).mirrorNow q

/-! ### Drain state (R66) -/

/-- Replace the state field of a partition entry. -/
def State.setPartState (s : State) (p st : Nat) : State :=
  s.modPart p (fun x => { x with entry := BitVec.ofNat 64 (x.entry.toNat / 4 * 4 + st) })

/-- The queues of a partition. -/
def State.queuesOf (s : State) (p : Nat) : List (Nat × Queue) := s.queues.filter (fun e => s.partOfQueue e.1 == some p)

/-- Accepted commands of a partition that are not complete (R65). -/
def State.accepted (s : State) (p : Nat) : Nat := (s.queuesOf p).foldl (fun n e => n + e.2.cmds.length) 0

/-- A partition in DRAINING with nothing accepted left enters DRAINED. -/
def State.settleDrain (s : State) : State :=
  (List.range 8).foldl (fun s p =>
    if peState (s.part p).entry = 2 ∧ s.accepted p = 0 ∧ (s.grids.filter (fun g => g.2.part == p && !g.2.complete)).isEmpty
    then s.setPartState p 3 else s) s

/-! ### Notifications (R76, R79) -/

/-- R79: the monotonic-maximum rule. -/
def State.applyTail (s : State) (q : Nat) (v : BitVec 32) : State :=
  let x := s.queue q
  let d := (v - x.tail).toNat
  if d = 0 ∨ d ≥ 2 ^ 31 then s
  else if (v - x.head).toNat > qdCap x.desc then s.writeStatus q 0x0c x.head
  else s.modQueue q (fun x => { x with tail := v })

/-- R76: a NOTIFY of a queue: its descriptor is read again, then the tail is applied and the slot at head read again. A poisoned descriptor
counts as unchanged for a latched queue; another stays disabled with BAD_QUEUE (R387), without a code while its table die is lost (R77). DESIGN
CHOICE (log 32): a re-enable keeps the queue's count, last code and `err_slot`, and a descriptor that is not valid replaces the stored one with
its head and tail all the same. -/
def State.notify (s : State) (q : Nat) (v : BitVec 32) : State :=
  match s.partOfQueue q with
  | none => s
  | some p =>
    let (s1, w8) := s.readWords (s.kBase p) (s.descPa p q) 2
    let x := s1.queue q
    let on := if allGood w8 then (nth w8 0).data.getLsbD 0 else x.enabled
    if !x.enabled && allGood w8 && !on then s1
    else if x.enabled then
      if on then (s1.applyTail q v).modQueue q (fun x => { x with slotWait := false })
      else s1.modQueue q (fun x => { x with enabled := false })
    else
      let (s2, ws) := s1.readWords (s.kBase p) (s.descPa p q) 8
      if !allGood ws then (if s2.lineLost (lineOf (s2.descPa p q)) then s2 else s2.writeStatus q 0x11 x.head)
      else
        let d : BitVec 256 := BitVec.ofNat 256 (ofWords ws)
        if !qdEnable d then s2
        else if !qdOk d then
          (s2.modQueue q (fun x => { x with desc := d, head := qdStart d, tail := qdStart d })).writeStatus q 0x11 (qdStart d)
        else ((s2.modQueue q (fun x => { x with
            enabled := true
            desc := d
            head := qdStart d
            tail := qdStart d
            halted := false })).applyTail q v).modQueue q (fun x => { x with slotWait := false })

/-! ### Slots (R78, R80) -/

/-- Header fields of a slot, taken as a number. -/
def slOp (n : Nat) : Nat := field n 32 8
def slEvEn (n : Nat) : Bool := field n 40 1 == 1
def slPro (n : Nat) : Bool := field n 41 1 == 1
def slEvVa (n : Nat) : Nat := byteField n 88 8
def slEvInc (n : Nat) : Nat := byteField n 96 4
/-- Are the bytes from `lo` up to `hi` zero? -/
def zeroBytes (n lo hi : Nat) : Bool := byteField n lo (hi - lo) == 0

/-- R78, R84: a command's reserved bits and unnamed bytes are zero. Launch fields are checked apart. -/
def slotFieldsOk (n : Nat) : Bool :=
  let op := slOp n
  let ev := op == 1 || op == 4 || op == 5
  field n 42 22 == 0 && (!slPro n || op == 1) && (!slEvEn n || ev) && (!ev || slEvEn n || zeroBytes n 88 100) &&
  (op != 2 || (zeroBytes n 8 88 && zeroBytes n 100 128)) &&
  (op != 3 || (zeroBytes n 16 88 && zeroBytes n 96 128)) &&
  (op != 4 || (zeroBytes n 80 88 && zeroBytes n 100 128 && byteField n 72 8 % 4096 == 0)) &&
  (op != 5 || (zeroBytes n 8 88 && zeroBytes n 100 128)) &&
  (op != 6 || zeroBytes n 8 128)

/-- A consumed command that has not started. -/
def Cmd.fresh (uid : Nat) (idx : BitVec 32) (asid : Addr) (slot : List Word) : Cmd :=
  { uid, idx, asid, slot, started := false, complete := false, grids := [], run := 0, inKiln := false, waitKiln := false, rerun := false,
    sregs := [], code := 0, signal := false, asked := false, seen := none }

/-- The slot of a command as a number. -/
def Cmd.num (c : Cmd) : Nat := ofWords c.slot

/-- R86: the command of a queue that may start now: every earlier one has started, no EVENT_WAIT before it is incomplete, and a
FENCE or EVENT_SIGNAL waits for every earlier command to complete. Complete commands are not listed. -/
def Queue.startable (x : Queue) : Option Cmd :=
  let early := x.cmds.takeWhile (·.started)
  match x.cmds.dropWhile (·.started) with
  | [] => none
  | c :: _ =>
    let op := slOp c.num
    if c.inKiln || c.waitKiln || early.any (fun e => slOp e.num == 3) || ((op == 5 || op == 2) && !early.isEmpty) then none else some c

/-- Remove a command: it is complete. -/
def State.dropCmd (s : State) (q uid : Nat) : State :=
  (s.modQueue q (fun x => { x with cmds := x.cmds.filter (fun c => c.uid != uid) })).settleDrain

/-- A command ends with a code and without effect. -/
def State.failCmd (s : State) (q : Nat) (c : Cmd) (code : Nat) : State := (s.writeStatus q code c.idx).dropCmd q c.uid

/-- R83: commands with a reserved `op` end when their turn to start comes; `n` bounds how many. -/
def State.dropBadOps (s : State) (q : Nat) : Nat → State
  | 0 => s
  | n + 1 =>
    match (s.queue q).startable with
    | some c => if 1 ≤ slOp c.num ∧ slOp c.num ≤ 6 then s else (s.failCmd q c 1).dropBadOps q n
    | none => s

/-- R80, R66: consume the slot at head. -/
def State.consume (s : State) (p q : Nat) (ws : List Word) : State :=
  let x := s.queue q
  let s1 := s.modQueue q (fun x => { x with head := x.head + 1, mirrorDue := true })
  let s2 : State := { s1 with lastServed := tins s1.lastServed (qdPrio x.desc) q }
  if peState (s.part p).entry ≠ 1 then
    (s2.modPart p (fun y => { y with refused := y.refused + 1 })).writeStatus q 0x0d x.head
  else ({ s2 with cmdNo := s2.cmdNo + 1 }.modQueue q (fun x => { x with
    cmds := x.cmds ++ [Cmd.fresh s2.cmdNo (x.head - 1) (qdAsid x.desc) ws] })).dropBadOps q 4

/-- R80: may the slot at head be read? -/
def Queue.readable (x : Queue) : Bool :=
  x.enabled && !x.halted && !x.slotWait && x.head != x.tail && (x.cmds.filter (fun c => !c.started)).length < 4

/-- R94: the queue served next: of the highest priority, in round-robin order after the one last served at that priority. -/
def State.nextServed (s : State) : Option Nat :=
  let rs := s.queues.filter (fun e => e.2.readable && (s.partOfQueue e.1).isSome)
  let top := rs.foldl (fun n e => max n (qdPrio e.2.desc)) 0
  let qs := sortNat ((rs.filter (fun e => qdPrio e.2.desc == top)).map (·.1))
  match tfind s.lastServed top with
  | some l => (match qs.find? (fun q => l < q) with
    | some q => some q
    | none => qs.head?)
  | none => qs.head?

/-- R80: the slot at head is read, and consumed, waited for, or the queue halts; consumption pauses while new firmware starts (R72). -/
def State.slotRead (s : State) (q : Nat) : State :=
  let x := s.queue q
  match s.partOfQueue q with
  | none => s
  | some p =>
    if !x.readable || s.nextServed != some q || s.twin.activating.isSome then s
    else
      let (s1, r) := s.frontRead p (qdAsid x.desc) (qdRing x.desc + 128 * (x.head.toNat % qdCap x.desc)) 32
      match r with
      | none => s1.writeStatus q 0x11 x.head
      | some ws =>
        if !allGood ws then s1.writeStatus q 0x11 x.head
        else
          let e := ((nth ws 0).data - x.head).toNat
          if e = 0 then s1.consume p q ws
          else if e < 2 ^ 31 ∧ e % qdCap x.desc = 0 then s1.writeStatus q 0x10 x.head
          else s1.modQueue q (fun x => { x with slotWait := true, mirrorDue := true })

/-- SLOT_READ (R80). -/
def execSlotRead (q : Nat) (s : State) : Host.Outcome State Fault Refusal := .next (s.unfocus.slotRead q)

/-- SLOT_REREAD_TIMER (R80): 1 µs after a stamp that did not match, the slot is read again. -/
def execSlotRereadTimer (q : Nat) (s : State) : Host.Outcome State Fault Refusal :=
  .next ((s.unfocus.modQueue q (fun x => { x with slotWait := false })).slotRead q)

/-- MIRROR_WRITE (R82). -/
def execMirrorWrite (q : Nat) (s : State) : Host.Outcome State Fault Refusal :=
  .next (let s0 := s.unfocus; if (s0.queue q).mirrorDue then s0.mirrorNow q else s0)

/-! ### Events (R87) -/

/-- The check of an event address when its command starts. -/
def State.eventAddrOk (s : State) (p : Nat) (asid : Addr) (va : Nat) (k : Kind) : State × Bool :=
  if va % 8 ≠ 0 then (s, false)
  else match s.translate none p asid va k 0 with
    | (s1, .ok _) => (s1, true)
    | (s1, .error f) =>
      if !f.perm then (s1, false)
      else
        -- an address in a host window is not checked at start
        let inHost := fun (r : Except XFault XOk) => match r with
          | .ok x => (match s.window p x.pa with | some w => !winPeer w | none => false)
          | .error _ => false
        (s1, inHost (s.translate none p asid va .load 0).2 || inHost (s.translate none p asid va .store 0).2)

/-- Add to an event counter: at its home in one step, or through a window, whose answer reaches the agent (R87). -/
def State.signalEvent (s : State) (p : Nat) (asid : Addr) (va inc : Nat) (agent : Agent) : State × Signalled :=
  match s.translate none p asid va .store 0 with
  | (s1, .error _) => (s1, .refused)
  | (s1, .ok x) =>
    if va % 8 ≠ 0 then (s1, .refused)
    else if regionOf x.pa = .window then
      if !s1.windowAllows p x.pa .atomic 8 then (s1, .refused)
      else match s1.windowAtomic p x.pa 1 false (wordsOf 2 inc) agent with
        | some s2 => (s2, .sent)
        | none => (s1, .busy)
    else
      let (s2, ws) := s1.readAt x 2
      if !allGood ws then (s2.counterPoison p, .refused)
      else (s2.writeAt x (wordsOf 2 (ofWords ws + inc)), .made)

/-- A waiting EVENT_WAIT looks at its counter: complete, refused, or waiting on. -/
def State.evalWait (s : State) (p q : Nat) (c : Cmd) : State :=
  let asid := c.asid
  let va := slEvVa c.num
  let value := byteField c.num 8 8
  let judge := fun (s : State) (v : Option Nat) => match v with
    | none => (s.counterPoison p).failCmd q c 0x0e
    | some n => if n ≥ value then (s.dropCmd q c.uid).dropBadOps q 4 else s.modCmd q c.uid (fun c => { c with asked := false, seen := none })
  match c.seen with
  | some v => judge s (v.map (·.toNat))
  | none =>
    if c.asked then s
    else match s.translate none p asid va .load 0 with
      | (s1, .error _) => s1.failCmd q c 0x0e
      | (s1, .ok x) =>
        if regionOf x.pa = .window then
          if !s1.windowAllows p x.pa .load 8 then s1.failCmd q c 0x0e
          else match s1.window p x.pa with
            | none => s1.failCmd q c 0x0e
            | some w =>
              let off := x.pa - winBase w
              let i0 := off / 4 % 32
              let sent := if winPeer w then s1.peerAsk p w off 0 1 (maskOf [i0, i0 + 1]) [] (.event q c.uid)
                else s1.thtAsk (winPath w) 2 0 (BitVec.ofNat 64 (winRemote w + off)) 8 [] (.event q c.uid)
              match sent with
              | some s2 => s2.modCmd q c.uid (fun c => { c with asked := true })
              | none => s1
        else
          let (s2, ws) := s1.readAt x 2
          judge s2 (if allGood ws then some (ofWords ws) else none)

/-- R87: after a signal the partition's waiting EVENT_WAITs look again. -/
def State.rereadWaits (s : State) (p : Nat) : State :=
  (s.queuesOf p).foldl (fun s e =>
    match (s.queue e.1).cmds.find? (fun c => c.started && slOp c.num == 3) with
    | some c => s.evalWait p e.1 c
    | none => s) s

/-! ### Completion -/

/-- A command's work is done: its event is signalled, if it has one, and it is complete; a window's answer is awaited (R87, R92). -/
def State.endCmd (s : State) (p q : Nat) (c : Cmd) : State :=
  let ended := fun (s : State) => ((s.dropCmd q c.uid).dropBadOps q 4)
  if !c.signal then ended s
  else match c.seen with
    | some (some _) => (ended s).rereadWaits p
    | some none => (s.counterPoison p).failCmd q c 0x0e
    | none =>
      if c.asked then s
      else match s.signalEvent p c.asid (slEvVa c.num) (slEvInc c.num) (.event q c.uid) with
        | (s1, .made) => (ended s1).rereadWaits p
        | (s1, .sent) => s1.modCmd q c.uid (fun c => { c with asked := true })
        | (s1, .refused) => s1.failCmd q c 0x0e
        | (s1, .busy) => s1

/-- One command's due code is written, and, its work done, it ends (R83, R87, R92). -/
def State.finishCmd (s : State) (q : Nat) (c0 : Cmd) : State :=
  let s1 := if c0.code ≠ 0 then (s.writeStatus q c0.code c0.idx).modCmd q c0.uid (fun c => { c with code := 0 }) else s
  match (s1.queue q).cmds.find? (fun c => c.uid == c0.uid), s1.partOfQueue q with
  | some c, some p => if !c.complete || !c.grids.isEmpty || c.inKiln || c.waitKiln || c.rerun then s1 else s1.endCmd p q c
  | _, _ => s1

/-- Has a command something to finish: a code to write, or its work done? -/
def Cmd.due (c : Cmd) : Bool := c.code != 0 || (c.complete && c.grids.isEmpty && !c.inKiln && !c.waitKiln && !c.rerun)

/-- Every command's due codes and completions; then commands with a reserved `op` whose turn to start has come end (R83). -/
def State.settleCmds (s : State) : State :=
  s.queues.foldl (fun s e =>
    ((s.queue e.1).cmds.foldl (fun s c => if c.due then s.finishCmd e.1 c else s) s).dropBadOps e.1 4) s

/-! ### Starting commands (R86) -/

/-- Start the queue's next command if it is of this kind; a failed check ends it without effect. -/
def State.startCmd (s : State) (q op : Nat) (k : State → Nat → Cmd → State) : State :=
  match (s.queue q).startable, s.partOfQueue q with
  | some c, some p =>
    if slOp c.num ≠ op then s
    else if !slotFieldsOk c.num then s.failCmd q c 2
    else if op = 2 ∨ op = 3 ∨ (op ≠ 1 ∧ slEvEn c.num) then
      match s.eventAddrOk p c.asid (slEvVa c.num) (if op = 3 then .load else .store) with
      | (s1, false) => s1.failCmd q c 0x0e
      | (s1, true) => k s1 p c
    else k s p c
  | _, _ => s

/-- NOP (R84, R86): starts and is complete. -/
def execNop (q : Nat) (s : State) : Host.Outcome State Fault Refusal :=
  .next (s.unfocus.startCmd q 6 (fun s _ c => (s.dropCmd q c.uid).dropBadOps q 4))

/-- FENCE (R84, R86): starts once every earlier command is complete, and is complete. -/
def execFence (q : Nat) (s : State) : Host.Outcome State Fault Refusal :=
  .next (s.unfocus.startCmd q 5 (fun s _ c =>
    (s.modCmd q c.uid (fun c => { c with started := true, complete := true, signal := slEvEn c.num })).settleCmds))

/-- EVENT_SIGNAL (R84, R87): complete when the add has been performed. -/
def execEventSignal (q : Nat) (s : State) : Host.Outcome State Fault Refusal :=
  let s0 := s.unfocus
  .next (match (s0.queue q).cmds.find? (fun c => c.started && slOp c.num == 2), s0.partOfQueue q with
  | some c, some p => s0.endCmd p q c
  | _, _ => s0.startCmd q 2 (fun s p c =>
      match s.signalEvent p c.asid (slEvVa c.num) (slEvInc c.num) (.event q c.uid) with
      | (s1, .refused) => s1.failCmd q c 0x0e
      | (s1, .busy) => s1
      | (s1, .sent) => s1.modCmd q c.uid (fun c => { c with started := true, signal := true, asked := true })
      | (s1, .made) => ((s1.dropCmd q c.uid).dropBadOps q 4).rereadWaits p))

/-- EVENT_WAIT (R84, R87): starts and looks at its counter. -/
def execEventWait (q : Nat) (s : State) : Host.Outcome State Fault Refusal :=
  .next (s.unfocus.startCmd q 3 (fun s p c =>
    (s.modCmd q c.uid (fun c => { c with started := true })).evalWait p q { c with started := true }))

/-- EVENT_REREAD (R87): a started EVENT_WAIT looks again. -/
def execEventReread (q : Nat) (s : State) : Host.Outcome State Fault Refusal :=
  let s0 := s.unfocus
  .next (match (s0.queue q).cmds.find? (fun c => c.started && slOp c.num == 3), s0.partOfQueue q with
  | some c, some p => s0.evalWait p q c
  | _, _ => s0)

/-- COPY (R84, R86): a job on channel 15 of cluster q mod 16 of the die that homes the destination's first byte, or of the
partition's lowest die when that byte lies in a window. A faulty card is a faulted job (R195). -/
def execCopy (q : Nat) (s : State) : Host.Outcome State Fault Refusal :=
  .next (s.unfocus.startCmd q 4 (fun s p c =>
    let card := (c.slot.drop 2).take 16
    let n := ofWords card
    let d : BitVec 64 := BitVec.ofNat 64 (byteField c.num 72 8)
    let dst := tileBase (cdDst n) (cdDstLay n) (cdDstPitch n) n d
    let die := match (s.translate none p c.asid dst .store 0).2 with
      | .ok y => if regionOf y.pa = .window then s.tableDie p else homeDie (lineOf y.pa)
      | .error _ => s.tableDie p
    let k := die * 16 + q % 16
    let fault := if !cardOk n d true then 3
      else if !(dwZfill d || sideFits (cdSrcLay n) (cdSrcPitch n) (cdRfp n) n d) || !sideFits (cdDstLay n) (cdDstPitch n) (cdWfp n) n d then 3
      else 0
    let rfp := if fault ≠ 0 ∨ dwZfill d then (0, 0, 0) else sideFp (cdSrc n) (cdSrcLay n) (cdSrcPitch n) (cdRfp n) n d
    let wfp := if fault ≠ 0 then (0, 0, 0) else sideFp (cdDst n) (cdDstLay n) (cdDstPitch n) (cdWfp n) n d
    let job : CopyJob :=
      { seq := (s.cluster k).nextSeq, owner := none, queue := some (q, c.uid), chan := 15, batch := 0, card := card, data := d,
        rfp := rfp, wfp := wfp, after := [], started := false, fault := fault, offset := 0, outst := 0, asid := c.asid,
        part := p, mode := 0 }
    (s.modCluster k (fun y => { y with jobs := y.jobs ++ [job], nextSeq := y.nextSeq + 1 })).modCmd q c.uid
      (fun c => { c with started := true, signal := slEvEn c.num })))

end Sys2Proof.Machine
end

