-- ==== Sys2Proof/Machine/Grids.lean ====
section
/-! DEFINITION. Launches (R85, R90–R92, R105, R199, R375–R378): the checks of a packet, the split of a grid into shares, Kiln
prologue runs, child grids, completion, the grid barrier, and the management packets between front end and dispatchers. -/

namespace Sys2Proof.Machine

/-! ### The fields of a packet (R85) -/

def pkEntry (n : Nat) : Nat := byteField n 8 8
def pkArgs (n : Nat) : Nat := byteField n 16 8
def pkGx (n : Nat) : Nat := byteField n 24 4
def pkGy (n : Nat) : Nat := byteField n 28 2
def pkGz (n : Nat) : Nat := byteField n 30 2
def pkTx (n : Nat) : Nat := byteField n 32 2
def pkTy (n : Nat) : Nat := byteField n 34 2
def pkTz (n : Nat) : Nat := byteField n 36 2
def pkRegs8 (n : Nat) : Nat := byteField n 38 1
def pkMode (n : Nat) : Nat := byteField n 39 1
def pkPartWord (n : Nat) : Nat := byteField n 40 4
def pkScratch (n : Nat) : Nat := byteField n 44 2
def pkAcc (n : Nat) : Nat := byteField n 46 2
def pkJcb (n : Nat) : Nat := byteField n 48 8
def pkSpillVa (n : Nat) : Nat := byteField n 56 8
def pkSpillKib (n : Nat) : Nat := byteField n 64 2
def pkChanN (n : Nat) : Nat := byteField n 66 1
def pkSx (n : Nat) : Nat := byteField n 67 1
def pkSy (n : Nat) : Nat := byteField n 68 1
def pkKrep (n : Nat) : Nat := byteField n 69 1
def pkChanVa (n : Nat) : Nat := byteField n 72 8
def pkPrologue (n : Nat) : Nat := byteField n 80 8
def pkMap (n : Nat) : Nat := byteField n 104 24
/-- Lanes of a team, its groups, and the teams of the grid (R90, R122). -/
def pkLanes (n : Nat) : Nat := pkTx n * pkTy n * pkTz n
def pkGroups (n : Nat) : Nat := (pkLanes n + 31) / 32
def pkTeams (n : Nat) : Nat := pkGx n * pkGy n * pkGz n
/-- Class: 0 C, 1 P, 2 W. -/
def pkClass (n : Nat) : Nat := pkMode n % 4
/-- Affinity mode. -/
def pkAffine (n : Nat) : Bool := field (pkMode n) 3 1 == 1
/-- The granules a partition word gives registers, scratchpad and accumulators. -/
def pwReg (w : Nat) : Nat := field w 0 9
def pwScr (w : Nat) : Nat := field w 9 9
def pwAcc (w : Nat) : Nat := field w 18 9

/-- R85: limits and zero bytes of the launch fields. `pro` says that the slot names a prologue. -/
def launchFieldsOk (n : Nat) (pro : Bool) : Bool :=
  pkEntry n % 4 == 0 && pkEntry n < 2 ^ 53 && 1 ≤ pkGx n && pkGx n < 2 ^ 31 && 1 ≤ pkGy n && 1 ≤ pkGz n &&
  1 ≤ pkTx n && 1 ≤ pkTy n && 1 ≤ pkTz n && pkLanes n ≤ 1024 && 1 ≤ pkRegs8 n && pkRegs8 n ≤ 32 &&
  pkClass n != 3 && pkMode n < 64 && pkPartWord n < 2 ^ 27 && pkScratch n ≤ 1024 && pkAcc n ≤ 256 &&
  pkJcb n % 64 == 0 && pkSpillVa n % 8192 == 0 && pkChanN n ≤ 64 && pkSx n < 32 && pkSy n < 32 && zeroBytes n 70 72 &&
  zeroBytes n 100 104 && (pro || pkPrologue n == 0) && (pkAffine n || pkMap n == 0)

/-- R85: one team fits the partition word. -/
def teamFits (n : Nat) : Bool :=
  pkGroups n * pkRegs8 n ≤ 16 * pwReg (pkPartWord n) && pkScratch n ≤ 4 * pwScr (pkPartWord n) && pkAcc n ≤ pwAcc (pkPartWord n) &&
  (field (pkMode n) 2 1 == 0 || pkGroups n ≤ 32)

/-- R100: how many teams a core holds at once. -/
def coreHolds (n : Nat) : Nat :=
  let w := pkPartWord n
  let lim := fun (need have_ : Nat) => if need = 0 then 32 else have_ / need
  min (min (min 32 (lim (pkGroups n) 64)) (lim (pkGroups n * pkRegs8 n) (16 * pwReg w)))
    (min (lim (pkScratch n) (4 * pwScr w)) (lim (pkAcc n) (pwAcc w)))

/-! ### The split (R90, R91, R105) -/

/-- Enabled cores of a die. -/
def State.coresUp (s : State) (d : Nat) : Nat := ((List.range 64).filter (fun c => (s.coreAt (d * 64 + c)).enabled)).length

/-- The partition's dies that are up. -/
def State.upDies (s : State) (p : Nat) : List Nat := (s.diesOf p).filter (fun d => !s.twin.lostDies.contains d)

/-- R90: the sizes of the shares in range mode. -/
def rangeSizes (T : Nat) (cs : List Nat) : List Nat :=
  let C := cs.foldl (· + ·) 0
  let base := cs.map (fun c => T * c / max 1 C)
  let rest := T - base.foldl (· + ·) 0
  base.zipIdx.map (fun b => b.1 + if b.2 < rest then 1 else 0)

/-- Give consecutive teams to dies. -/
def rangeShares : Nat → List (Nat × Nat) → List (Nat × List Nat)
  | _, [] => []
  | lo, (d, n) :: r => (d, (List.range n).map (lo + ·)) :: rangeShares (lo + n) r

/-- R91: the die of a team in affinity mode. -/
def affineDie (n t : Nat) : Nat :=
  let x := t % pkGx n
  let y := t / pkGx n % pkGy n
  field (pkMap n) (3 * (x / 2 ^ pkSx n % 8 + 8 * (y / 2 ^ pkSy n % 8))) 3

/-- R91: the team's preferred L2 slice. It is a hint. -/
def preferredSlice (n t : Nat) : Nat :=
  let v := (t % pkGx n) / 2 ^ pkSx n ^^^ (t / pkGx n % pkGy n) / 2 ^ pkSy n ^^^ t / (pkGx n * pkGy n)
  (List.range 6).foldl (fun a k => a ^^^ v / 2 ^ (6 * k) % 64) 0

/-- The map entries some team selects. -/
def affineEntries (n : Nat) : List Nat :=
  (List.range (min 8 ((pkGx n - 1) / 2 ^ pkSx n + 1))).flatMap (fun i =>
    (List.range (min 8 ((pkGy n - 1) / 2 ^ pkSy n + 1))).map (fun j => field (pkMap n) (3 * (i + 8 * j)) 3))

/-- The teams of each die. -/
def State.split (s : State) (p n : Nat) : List (Nat × List Nat) :=
  let ds := s.upDies p
  if pkAffine n then ds.map (fun d => (d, (List.range (pkTeams n)).filter (fun t => affineDie n t == d)))
  else rangeShares 0 (ds.zip (rangeSizes (pkTeams n) (ds.map s.coresUp)))

/-! ### Channel tables (R199) -/

/-- One entry: producer, consumer, offset, slots; none when it breaks a limit. -/
def chanEntry (n : Nat) (ws : List Word) : Option (Nat × Nat × Nat × Nat) :=
  let e := ofWords ws
  let pr := byteField e 0 8
  let co := byteField e 8 8
  let off := byteField e 16 4
  let k := byteField e 20 1
  if allGood ws && pr < pkTeams n && co < pkTeams n && pr ≠ co && off % 128 = 0 && 1 ≤ k && k ≤ 64 && zeroBytes e 21 32 &&
    off + 128 * k ≤ 4096 * pkScratch n then some (pr, co, off, k) else none

/-- Do two rings of one consumer overlap? -/
def ringsClash (a b : Nat × Nat × Nat × Nat) : Bool :=
  a.2.1 == b.2.1 && a.2.2.1 < b.2.2.1 + 128 * b.2.2.2 && b.2.2.1 < a.2.2.1 + 128 * a.2.2.2

/-- The table as read; none when an entry, or the table itself, cannot be used. -/
def chanTable (n : Nat) : Nat → List Word → Option (List (Nat × Nat × Nat × Nat))
  | 0, _ => some []
  | k + 1, ws =>
    match chanEntry n (ws.take 8), chanTable n k (ws.drop 8) with
    | some e, some r => if r.any (ringsClash e) then none else some (e :: r)
    | _, _ => none

/-- Read a grid's channel table, which may begin at any byte. -/
def State.channels (s : State) (p : Nat) (asid : Addr) (n : Nat) : State × Option (List (Nat × Nat × Nat × Nat)) :=
  if pkChanN n = 0 then (s, some [])
  else
    let va := pkChanVa n
    match s.frontRead p asid (va / 4 * 4) (8 * pkChanN n + if va % 4 = 0 then 0 else 1) with
    | (s1, none) => (s1, none)
    | (s1, some ws) => (s1, chanTable n (pkChanN n) (shiftWords (va % 4) ws))

/-! ### Checks, in the order of R83 -/

/-- The code of a launch packet's checks, zero when all pass. -/
def State.launchCode (s : State) (p n : Nat) (pro : Bool) : Nat :=
  let w := pkPartWord n
  if !launchFieldsOk n pro then 0x02
  else if pwReg w + pwScr w + pwAcc w > 256 then 0x03
  else if !teamFits n then 0x04
  else if pkClass n = 0 ∧ !pkAffine n ∧ (s.split p n).any (fun e => e.2.length > coreHolds n * s.coresUp e.1) then 0x05
  else if pkClass n = 0 ∧ pkAffine n ∧ (s.upDies p).any (fun d =>
      ((List.range (pkTeams n)).filter (fun t => affineDie n t == d)).length > coreHolds n * s.coresUp d) then 0x05
  else if pkChanN n ≠ 0 ∧ pkClass n ≠ 0 then 0x06
  else if pkAffine n ∧ (affineEntries n).any (fun d => !(s.upDies p).contains d) then 0x07
  else 0

/-! ### Grids -/

/-- Queues of a priority that have a grid with unplaced teams. -/
def State.hasUnplaced (s : State) (q : Nat) : Bool :=
  s.grids.any (fun g => g.2.queue == q && !g.2.complete && !g.2.aborted && g.2.shares.any (fun sh => !sh.unplaced.isEmpty))

/-- R95, R96: a queue that joins takes at least the smallest virtual time of its priority, and its starvation timer starts. -/
def State.joinVt (s0 : State) (q : Nat) : State :=
  if s0.hasUnplaced q then s0
  else
    let s := s0.modQueue q (fun x => { x with waitFrom := s0.gtime })
    let pr := qdPrio (s.queue q).desc
    let others := s.queues.filter (fun e => e.1 != q && qdPrio e.2.desc == pr && s.hasUnplaced e.1)
    match minBy (fun e => e.2.vt) others with
    | some e => s.modQueue q (fun x => { x with vt := max x.vt e.2.vt })
    | none => s

/-- R90, R376: a grid that passed its checks: its number is the next one, its shares are fixed. -/
def State.newGrid (s : State) (p q : Nat) (cmd : Nat) (asid : Addr) (ws : List Word) (parent : Option (Nat × Nat × Nat))
    (depth : Nat) (chans : List (Nat × Nat × Nat × Nat)) : State × Nat :=
  let n := ofWords ws
  let num := s.nextGrid
  let shares := ((s.split p n).filter (fun e => !e.2.isEmpty)).map (fun e =>
    ({ die := e.1, total := e.2.length, unplaced := e.2, saved := [], retired := 0, told := false, satisfied := false, reported := false, since := s.gtime } : Share))
  let g : Grid :=
    { num := num, part := p, queue := q, cmd := cmd, asid := asid, packet := ws, parent := parent, depth := depth, shares := shares,
      total := pkTeams n, done := 0, reports := [], complete := false, aborted := false, grade := 0, winWrite := false,
      released := pkClass n != 0, claim := pkClass n == 0, gArrived := [], gPhase := false, chans := chans, startNo := num }
  let s1 := s.joinVt q
  ({ s1 with grids := tins s1.grids num g, nextGrid := num + 1 }, num)

/-- The checks and the making of a grid from a packet: a code, or the grid's number. -/
def State.tryLaunch (s : State) (p q : Nat) (cmd : Nat) (asid : Addr) (ws : List Word) (parent : Option (Nat × Nat × Nat))
    (depth : Nat) (pro : Bool) : State × Except Nat Nat :=
  let n := ofWords ws
  let c := s.launchCode p n pro
  if c ≠ 0 then (s, .error c)
  else match s.channels p asid n with
    | (s1, none) => (s1, .error 0x02)
    | (s1, some ch) =>
      let (s2, g) := s1.newGrid p q cmd asid ws parent depth ch
      (s2, .ok g)

/-- LAUNCH (R85, R86, R88, R93): the slot is checked; a launch with `pro` waits for a Kiln engine, another starts its grid. -/
def execLaunch (q : Nat) (s : State) : Host.Outcome State Fault Refusal :=
  .next (s.unfocus.startCmd q 1 (fun s p c =>
    let n := c.num
    let asid := c.asid
    let code := s.launchCode p n (slPro n)
    if code ≠ 0 then s.failCmd q c code
    else
      let (s1, evOk) := if slEvEn n then s.eventAddrOk p asid (slEvVa n) .store else (s, true)
      if !evOk then s1.failCmd q c 0x0e
      else if slPro n then s1.modCmd q c.uid (fun c => { c with waitKiln := true, signal := slEvEn n })
      else match s1.tryLaunch p q c.uid asid c.slot none 0 false with
        | (s2, .error e) => s2.failCmd q c e
        | (s2, .ok g) =>
          s2.modCmd q c.uid (fun c => { c with started := true, complete := true, grids := c.grids ++ [g], signal := slEvEn n })))

/-! ### Kiln runs (R88, R89, R378) -/

/-- The commands that wait for a Kiln engine, in queue order. -/
def State.kilnWaiters (s : State) : List (Nat × Cmd) :=
  s.queues.flatMap (fun e => (e.2.cmds.filter (·.waitKiln)).map (fun c => (e.1, c)))

/-- The uniform registers at the start of a run. -/
def kilnRegs (q : Nat) (c : Cmd) : Table Word :=
  let base : Table Word := if c.run = 0 then
    c.slot.zipIdx.foldl (fun t w => tset t (32 + w.2) w.1 Word.zero) [] else c.sregs
  tset (tset (tset base 0 (Word.ofData (BitVec.ofNat 32 c.run)) Word.zero) 1 (Word.ofData (BitVec.ofNat 32 q)) Word.zero)
    2 (Word.ofData c.idx) Word.zero

/-- KILN_RUN_START (R88): the lowest-numbered free engine of the sixteen takes the first command that waits for one. -/
def execKilnRunStart (k : Nat) (s : State) : Host.Outcome State Fault Refusal :=
  let s0 := s.unfocus
  .next (if 16 ≤ k || (tfind s0.kilns k).isSome || (List.range k).any (fun j => (tfind s0.kilns j).isNone) then s0
    else match s0.kilnWaiters with
      | [] => s0
      | (q, c) :: _ =>
        match s0.partOfQueue q with
        | none => s0
        | some p =>
          let g : Group := { Group.initial with
            pc := BitVec.ofNat 64 (pkPrologue c.num / 4 * 4)
            sregs := kilnRegs q c }
          ({ s0 with kilns := tins s0.kilns k { queue := q, cmd := c.uid, part := p, asid := c.asid, g := g } }).modCmd q c.uid
            (fun c => { c with waitKiln := false, inKiln := true }))

/-- R89: the run of engine k ends its command with PROLOGUE_BOUND when it has executed 65,536 instructions. -/
def execPrologueBudgetExceeded (k : Nat) (s : State) : Host.Outcome State Fault Refusal :=
  let s0 := s.unfocus
  .next (match tfind s0.kilns k with
    | none => s0
    | some e =>
      if e.g.count < 65536 then s0
      else (({ s0 with kilns := tdel s0.kilns k }).modCmd e.queue e.cmd (fun c =>
        { c with inKiln := false, started := true, complete := true, rerun := false, code := 0x0a })).settleCmds)

/-- A Kiln-only instruction: legal on an engine alone. `k` gets the state, the engine's entry and its command. -/
def State.kilnOnly (s : State) (g : BitVec 3) (k : State → Kiln → Cmd → State) : State :=
  s.sGuarded g s.onKiln ⟨[], []⟩ (fun s =>
    match s.focus with
    | .kiln i =>
      (match tfind s.kilns i with
       | none => s
       | some e =>
         match (s.queue e.queue).cmds.find? (fun c => c.uid == e.cmd) with
         | none => { s with kilns := tdel s.kilns i }
         | some c => k { s with kilns := tdel s.kilns i } e c)
    | _ => s)

/-- The run ends by emitting `s32`–`s63` (R89): checked as a LAUNCH whose `stamp` and event fields are ignored. -/
def State.emitGrid (s : State) (e : Kiln) (c : Cmd) (rerun : Bool) : State :=
  let ws := (List.range 32).map (fun i => s.s (32 + i))
  let n := ofWords ws
  let regs := s.g.sregs
  let fail := fun (s : State) (code : Nat) => s.modCmd e.queue c.uid (fun c =>
    { c with inKiln := false, started := true, complete := true, rerun := false, code := code, signal := false })
  if !allGood ws || slOp n ≠ 1 || slPro n || field n 42 22 ≠ 0 then fail s 0x02
  else match s.tryLaunch e.part e.queue c.uid e.asid ws none 0 false with
    | (s1, .error code) => fail s1 code
    | (s1, .ok g) =>
      let again := rerun && c.run < pkKrep c.num
      s1.modCmd e.queue c.uid (fun c =>
        { c with
          inKiln := false
          started := true
          complete := !again
          rerun := again
          grids := c.grids ++ [g]
          sregs := regs
          code := if rerun && !again then 0x0a else c.code })

/-- An emission is a `.dev` release of the prologue's stores (R89, R219): it waits until they have been performed. -/
def State.kilnEmit (s : State) (g : BitVec 3) (rerun : Bool) : State :=
  if s.onKiln && s.q g.toNat == some true && !releaseReady s.g then s.hold .release
  else s.kilnOnly g (fun s e c => s.emitGrid e c rerun)

/-- R378 `kemit`. -/
def execSKemit (g : BitVec 3) (s : State) : Host.Outcome State Fault Refusal :=
  .next (s.kilnEmit g false)
/-- R378 `krepeat`. -/
def execSKrepeat (g : BitVec 3) (s : State) : Host.Outcome State Fault Refusal :=
  .next (s.kilnEmit g true)
/-- R378 `kcancel`: the command ends with CANCELLED; its event is signalled at completion. -/
def execSKcancel (g : BitVec 3) (s : State) : Host.Outcome State Fault Refusal :=
  .next (s.kilnOnly g (fun s e c => s.modCmd e.queue c.uid (fun c =>
    { c with inKiln := false, started := true, complete := true, rerun := false, code := 0x0b })))
/-- R378 `kdone`: the command ends without a code. -/
def execSKdone (g : BitVec 3) (s : State) : Host.Outcome State Fault Refusal :=
  .next (s.kilnOnly g (fun s e c => s.modCmd e.queue c.uid (fun c =>
    { c with inKiln := false, started := true, complete := true, rerun := false })))

/-! ### Child grids (R375, R376) -/

/-- A refusal's result: bit 63 and the code. -/
def refusal (code : Nat) : BitVec 64 := BitVec.ofNat 64 (2 ^ 63 + code)

/-- R376: the front end's checks of a child's packet, and the child. -/
def State.launchChild (s : State) (ws : List Word) : State × BitVec 64 :=
  let n := ofWords ws
  match tfind s.grids s.tm.grid with
  | none => (s, refusal 0x21)
  | some pg =>
    if !allGood ws then (s, refusal 0x22)
    else if slOp n ≠ 1 || slPro n then (s, refusal 0x21)
    else if field n 42 22 ≠ 0 || (!slEvEn n && !zeroBytes n 88 100) then (s, refusal 0x02)
    else
      let code := s.launchCode s.tm.part n false
      if code ≠ 0 then (s, refusal code)
      else
        let (s1, evOk) := if slEvEn n then s.eventAddrOk s.tm.part pg.asid (slEvVa n) .store else (s, true)
        if !evOk then (s1, refusal 0x0e)
        else match s1.channels s.tm.part pg.asid n with
          | (s2, none) => (s2, refusal 0x02)
          | (s2, some ch) =>
            if pg.depth ≥ 15 then (s2, refusal 0x20)
            else
              let (s3, g) := s2.newGrid s.tm.part pg.queue pg.cmd pg.asid ws (some (s.tm.grid, s.tm.t, s.g.idx)) (pg.depth + 1) ch
              (s3, BitVec.ofNat 64 g)

/-- The words of a packet that have come through a window, if all have. -/
def State.cameThrough (s : State) (k n : Nat) : Option (List Word) :=
  let ws := (List.range n).filterMap (fun i => tfind s.g.checked (k + i))
  if ws.length = n then some ws else none

/-- A launch packet behind a window is read there, while the group waits (R53, R375). -/
def State.askPacket (s : State) (k pa : Nat) : State :=
  match s.windowLoad s.tm.part pa 128 s.self s.g.nextId with
  | none => s.hold .retry
  | some (s1, ns) => (s1.addPend (.check k) [⟨uniLane, 0, 128, ns⟩] true).hold .retry

/-- The launch of a packet that has been read: `s`d gets the front end's answer. -/
def State.launchWith (s : State) (d : Nat) (ws : List Word) : State :=
  let (s1, r) := s.launchChild ws
  ((s1.setS d (Word.ofData (r.setWidth 32))).setS (d + 1) (Word.ofData ((r >>> 32).setWidth 32))).advance

/-- R375 `launch`. -/
def execSLaunch (d a : BitVec 6) (g : BitVec 3) (s : State) : Host.Outcome State Fault Refusal :=
  .next (s.sGuarded g (s.coreOnly (d.toNat ≤ 62 && a.toNat ≤ 62)) ⟨[], [(d.toNat, 2), (a.toNat, 2)]⟩ (fun s =>
    match s.uAddr a.toNat 0 with
    | .error e => s.raiseAll e.cause e.info s.g.exec
    | .ok va =>
      match s.locate va 128 .load true with
      | (s1, .error e) => s1.raise { Trap.plain e.cause e.info s.g.exec s.g.exec with fva := e.fva, stage2 := e.stage2 }
      | (s1, .ok (.memory (p :: _))) =>
        if !releaseReady s1.g then s1.hold .release
        else
          let (s2, ws) := s1.readAt p.x 32
          s2.launchWith d.toNat ws
      | (s1, .ok (.window pa)) =>
        if !releaseReady s1.g then s1.hold .release
        else match s1.cameThrough (va / 4) 32 with
          | some ws => ({ s1 with g := { s1.g with checked := [] } } : State).launchWith d.toNat ws
          | none => s1.askPacket (va / 4) pa
      | (s1, .ok _) => s1.raise { Trap.plain cPerm 0 s.g.exec s.g.exec with fva := va }))

/-! ### Completion (R92) -/

/-- Update a grid. -/
def State.modGrid (s : State) (g : Nat) (f : Grid → Grid) : State :=
  { s with grids := s.grids.map (fun p => if p.1 = g then (p.1, f p.2) else p) }

/-- Every child of a grid is complete. -/
def State.childrenDone (s : State) (g : Nat) : Bool :=
  s.grids.all (fun p => p.2.complete || (match p.2.parent with | some (x, _, _) => x != g | none => true))

/-- Teams of a grid still on a core. -/
def State.anyResident (s : State) (g : Nat) : Bool := s.teams.any (fun p => p.2.grid == g)

/-- R106, R109, R114: class-C grids that a team waiting in `lwait` for a child had swapped out have a claim again from now, when that child is
complete. -/
def State.renewClaims (s : State) (child : Nat) : State :=
  let back := (s.savedRecs.filter (fun r => r.parkedFor.contains child)).map (·.grid)
  { s with grids := s.grids.map (fun p =>
      if back.contains p.1 && pkClass (ofWords p.2.packet) == 0 then
        (p.1, { p.2 with shares := p.2.shares.map (fun sh => { sh with since := s.gtime }) }) else p) }

/-- R92, R376: a grid completes in one step when every team has retired, or an aborted one's teams have stopped, and its children
are complete: its command, or its parent, goes on. `n` bounds the depth of the tree. -/
def State.checkGrid (s : State) (g : Nat) : Nat → State
  | 0 => s
  | n + 1 =>
    match tfind s.grids g with
    | none => s
    | some x =>
      let stopped := if x.aborted then !s.anyResident g else x.done == x.total
      if x.complete || !stopped || !s.childrenDone g then s
      else
        let pn := ofWords x.packet
        let (s1, sig) := if x.parent.isSome && slEvEn pn && !x.aborted then
          s.signalEvent x.part x.asid (slEvVa pn) (slEvInc pn) (.childEvent x.part (slEvVa pn)) else (s, .made)
        if sig = .busy then s1
        else
          let s2 := (s1.modGrid g (fun x => { x with complete := true })).renewClaims g
          match x.parent with
          | some (pg, _, _) => (s2.rereadWaits x.part).checkGrid pg n
          | none =>
            (s2.modCmd x.queue x.cmd (fun c =>
              let rest := c.grids.filter (· != g)
              if x.aborted then { c with grids := rest, complete := true, rerun := false, code := 0x12, signal := false }
              else if c.rerun && rest.isEmpty then { c with grids := rest, rerun := false, waitKiln := true, run := c.run + 1 }
              else { c with grids := rest })).settleCmds.settleDrain

/-- The grids whose completion is due. -/
def State.settleGrids (s : State) : State := s.grids.foldl (fun s p => if p.2.complete then s else s.checkGrid p.1 17) s

/-! ### Messages between the front end and the dies (R28, R107, R366) -/

/-- R107: the release of a C grid's teams goes to every die that holds some. -/
def State.releaseGrid (s : State) (g : Nat) : State :=
  match tfind s.grids g with
  | none => s
  | some x => x.shares.foldl (fun s sh => s.control sh.die 1 g) (s.modGrid g (fun x => { x with released := true }))

/-- R366: the grid phase turns when every team has arrived or retired. -/
def State.checkTurn (s : State) (g : Nat) : State :=
  match tfind s.grids g with
  | none => s
  | some x =>
    let retired := x.shares.foldl (fun n sh => n + sh.retired) 0
    if x.gArrived.isEmpty || x.gArrived.length + retired < x.total then s
    else x.shares.foldl (fun s sh => s.control sh.die 2 g) (s.modGrid g (fun x => { x with gPhase := !x.gPhase, gArrived := [] }))

/-- The resident teams of a grid on a die. -/
def State.teamsOn (s : State) (g die : Nat) : List (Nat × Team) := s.teams.filter (fun p => p.2.grid == g && p.2.die == die)

/-- R366: the groups of a team that wait at the grid barrier go on, with an acquire at `.dev`. -/
def State.leaveGbar (s : State) (key : Nat) (t : Team) : State :=
  let s1 := s.modTeam key (fun t => { t with gArr := false })
  t.groups.foldl (fun s p =>
    if p.2.wait = .gbar then
      s.inGroup ⟨t.die, t.core, t.slot, p.1⟩ (fun s => (({ s with g := { s.g with wait := .none } }).acquire 4).advance)
    else s) s1

/-- CONTROL (R28): a die acts on a message of the front end and answers DONE. -/
def execControl (p : Packet) (s0 : State) : Host.Outcome State Fault Refusal :=
  .next (s0.unfocus.onPacket p (fun s =>
    let ws := p.flits.flatMap (fun f => f)
    let kind := (nth ws 0).data.toNat
    let g := ofWords ((ws.drop 1).take 2)
    let die := p.hdr.dst.toNat
    let s1 : State :=
      if kind = 1 then { s with teams := s.teams.map (fun t => if t.2.grid = g ∧ t.2.die = die then (t.1, { t.2 with released := true }) else t) }
      else if kind = 2 then (s.teamsOn g die).foldl (fun s e => s.leaveGbar e.1 e.2) s
      else s
    s1.send (mkPacket 3 4 die p.hdr.src.toNat p.hdr.txn.toNat p.hdr.paWord.toNat 0 false 0 [])))

/-- REPORT (R28, R92, R106, R366): the front end counts a completion once per die, a team's arrival at the grid barrier, or notes
a claim's status. -/
def execReport (p : Packet) (s0 : State) : Host.Outcome State Fault Refusal :=
  .next (s0.unfocus.onPacket p (fun s =>
    let ws := p.flits.flatMap (fun f => f)
    let kind := (nth ws 0).data.toNat
    let g := ofWords ((ws.drop 1).take 2)
    let die := (nth ws 3).data.toNat
    let x := ofWords ((ws.drop 4).take 2)
    match tfind s.grids g with
    | none => s
    | some e =>
      if kind = 0 then
        if e.reports.contains die then s
        else (s.modGrid g (fun y => { y with reports := y.reports ++ [die], done := y.done + x })).checkGrid g 17
      else if kind = 1 then
        if e.gArrived.contains x then s else (s.modGrid g (fun y => { y with gArrived := y.gArrived ++ [x] })).checkTurn g
      else s.modGrid g (fun y => { y with shares := y.shares.map (fun sh => if sh.die = die then { sh with satisfied := x = 1 } else sh) })))

end Sys2Proof.Machine
end

