-- ==== Sys2Proof/Machine/Save.lean ====
section
/-! DEFINITION. Save records of pre-empted teams (R115–R121): quiescence, the record's words, the arena, and the team a record
restores. -/

namespace Sys2Proof.Machine

/-! ### Quiescence (R115) -/

/-- The copy jobs of a team at its cluster. -/
def State.teamCopies (s : State) (key : Nat) (t : Team) : List CopyJob :=
  (s.cluster (s.clusterOf (t.die * 64 + t.core))).jobs.filter (fun j => j.owner.isSome && j.team == key)

/-- Matrix jobs of a team not finished. -/
def State.teamMatrix (s : State) (key : Nat) (t : Team) : List MatrixJob :=
  (s.cluster (s.clusterOf (t.die * 64 + t.core))).mjobs.filter (fun j => !j.done && j.team == key)

/-- Is a group's own work done: nothing pending, no write outstanding, no load, atomic, release or fence it issued awaited? -/
def groupQuiet (g : Group) : Bool :=
  g.pset.isEmpty && g.outst == 0 && (match g.wait with | .load _ => false | .atom _ => false | .release => false | .fence _ => false | _ => true)

/-- A team's work is done: its groups', its matrix jobs and its started copy jobs. -/
def State.teamQuiet (s : State) (key : Nat) (t : Team) : Bool :=
  t.groups.all (fun p => groupQuiet p.2) && (s.teamMatrix key t).isEmpty &&
  (s.teamCopies key t).all (fun j => !j.started && !neededBy (s.cluster (s.clusterOf (t.die * 64 + t.core))) 64 j)

/-- No barrier report or release, and no channel transfer, of a grid is under way. -/
def State.gridQuiet (s : State) (g : Nat) : Bool :=
  !(s.flight.any (fun p => p.hdr.cls == 7 && (p.hdr.mtype == 3 || p.hdr.mtype == 4) && ofWords (((p.flits.getD 0 []).drop 1).take 2) == g)) &&
  !(s.txns.any (fun t => match t.agent with
    | .slot r _ => (match tfind s.teams (grpKey r) with | some x => x.grid == g | none => false)
    | _ => false)) &&
  !(s.flight.any (fun p => p.hdr.cls == 6 && (match tfind s.teams (slotTeam p) with | some x => x.grid == g | none => false)))

/-! ### The record (R117, R118) -/

/-- A word as the save hardware writes it: one with a mismatched residue becomes poison. -/
def savedWord (w : Word) : Word := if w.checks then w else Word.poison

/-- Bytes of a group block. -/
def blockWords (regs8 : Nat) : Nat := 128 + 256 * regs8

/-- Code and argument of a stall (R118). -/
def waitCode : Wait → Nat × Nat
  | .bar b => (1, b)
  | .awt b => (2, b)
  | .gbar => (3, 0)
  | .lwait g => (4, g.getD 0)
  | .mwait t a => (5, t + if a then 16 else 0)
  | .cwait n => (6, n)
  | .chsend c => (7, c)
  | .chrecv c => (8, c)
  | .waitv r => (9, r.getD 0)
  | .sleep r => (10, r)
  | .meet => (11, 0)
  | .cyield pc => (12, pc.toNat)
  | _ => (0, 0)

/-- Where a group goes on and with which loops: past a waiting instruction, a loop's end taken; a `cyield` at its continuation. The hardware
keeps a waiting instruction's own address and loops beside the record (R118 gives them no field), and its completion comes to what is saved
here (DEDUCED, log 25). -/
def nextPlace (g : Group) : Addr × List Loop :=
  match g.wait with
  | .cyield pc => (pc, popLoops pc g.loops)
  | w => if (waitCode w).1 = 0 then (g.pc, g.loops) else loopNext g.pc g.loops

/-- A predicate of a group's home lanes as a mask. -/
def savedPred (t : Team) (home n : Nat) : BitVec 32 :=
  maskOf ((List.range 32).filter (fun l => (tget t.preds ((home * 8 + n) * 32 + l) 1).getLsbD 1))

/-- The 128 words of a group's control state. -/
def controlWords (t : Team) (i : Nat) (g : Group) : List Word :=
  let p := g.priv
  let (w, arg) := waitCode g.wait
  let (pc, loops) := nextPlace g
  wordsOf 2 pc.toNat ++
  wordsOf 1 (p.mode.toNat + p.kdepth.toNat * 2 ^ 8 + loops.length * 2 ^ 16 + w * 2 ^ 24) ++
  wordsOf 1 g.exec.toNat ++ wordsOf 1 g.bind.toNat ++ wordsOf 1 g.pend.toNat ++ wordsOf 1 g.fmt.toNat ++
  wordsOf 1 (g.wb.toNat + g.frame * 2 ^ 16) ++ wordsOf 2 g.spill.toNat ++ wordsOf 2 g.jcb.toNat ++
  ((List.range 4).flatMap (fun k => match loops[k]? with
    | some l => wordsOf 2 l.start.toNat ++ wordsOf 2 l.stop.toNat ++ wordsOf 2 l.count.toNat
    | none => List.replicate 6 Word.zero)) ++
  (List.range 7).map (fun n => Word.ofData (savedPred t i n)) ++
  wordsOf 1 (((List.range 7).filter (fun n => (tget g.upreds n 1).getLsbD 1)).foldl (fun a n => a + 2 ^ n) 0) ++
  (List.range 64).map (fun n => savedWord (tget g.sregs n Word.zero)) ++
  wordsOf 2 p.kpc.toNat ++ wordsOf 1 p.kcause.toNat ++ wordsOf 1 p.kmask.toNat ++ wordsOf 2 p.kframe.toNat ++ wordsOf 2 p.ktab.toNat ++
  wordsOf 2 p.hpc.toNat ++ wordsOf 1 p.hcause.toNat ++ wordsOf 1 p.hmask.toNat ++ wordsOf 2 p.htab.toNat ++
  wordsOf 1 g.sealed.toNat ++ wordsOf 1 g.finished.toNat ++ wordsOf 2 arg ++ wordsOf 2 0

/-- The registers of a home group's block: physical register i of lane l is word 32 × i + l. -/
def regWords (t : Team) (i : Nat) : List Word :=
  (List.range (256 * t.regs8)).map (fun k => savedWord (tget t.vregs (physKey i (k / 32) (k % 32)) Word.zero))

/-- A group's block: zeros when it has exited. -/
def groupBlock (t : Team) (i : Nat) (g : Group) : List Word :=
  if g.exited then List.replicate (blockWords t.regs8) Word.zero else controlWords t i g ++ regWords t i

/-- The end, from the region's base, of the backing area of a home that a frame top reaches. -/
def backTo (t : Team) (top home : Nat) : Nat :=
  if top > 8 * t.regs8 then backBase t home - t.spillBase.toNat + 128 * (top - 8 * t.regs8) else 0

/-- The homes whose backing areas a group's lanes spill to (R129). -/
def spillHomes (t : Team) (g : Group) : List Nat := if g.homes.isEmpty then [g.idx] else g.homes.filter (fun h => h < t.ngrp)

/-- Bytes of the spill region in use, from its base: stack entries in the area, link records, spilled registers of a group's lanes and of the
lanes that a stack entry holds. -/
def spillUsed (t : Team) : Nat :=
  if t.spillKib = 0 then 0
  else
    let base := t.spillBase.toNat
    let ofGroup := fun (p : Nat × Group) =>
      let g := p.2
      let link := g.spill.toNat - base
      let back := (spillHomes t g).foldl (fun n h => max n (backTo t (g.wb.toNat + g.frame) h)) 0
      let subs := if g.subs.length > subHw t then (p.1 * subSlice t + (g.subs.length - subHw t)) * 32 else 0
      max (if g.spill.toNat > linkBase t p.1 then link else 0) (max back subs)
    let held := t.stack.foldl (fun n e => (List.range t.ngrp).foldl (fun n h => max n (backTo t (e.wb.toNat + e.frame) h)) n) (512 * t.stack.length)
    t.groups.foldl (fun n p => max n (ofGroup p)) held

/-- The hardware entries of the stack, 4,096 bytes, outermost first: team entries, or each group's share of sub-entries. -/
def stackWords (t : Team) : List Word :=
  let ws := if t.compact then (t.stack.reverse.take 16).flatMap topWords
    else (List.range t.ngrp).flatMap (fun i =>
      let es := (((tfind t.groups i).map (·.subs)).getD []).reverse.take (subHw t)
      es.flatMap subWords ++ List.replicate (8 * (subHw t - es.length)) Word.zero)
  (ws ++ List.replicate 1024 Word.zero).take 1024

/-- Has every group of a team exited? -/
def Team.ended (t : Team) : Bool := t.groups.all (fun p => p.2.exited)

/-- R109: is every live group of a team stalled in `lwait`? -/
def Team.parked (t : Team) : Bool :=
  !t.ended && t.groups.all (fun p => p.2.exited || (match p.2.wait with | .lwait _ => true | .path => true | _ => false)) &&
  t.groups.any (fun p => match p.2.wait with | .lwait _ => true | _ => false)

/-- The header (R117). -/
def headerWords (t : Team) (spillLen jobs : Nat) : List Word :=
  let live := maskOf ((t.groups.filter (fun p => !p.2.exited)).map (·.1))
  let depth := if t.compact then t.stack.length else t.groups.foldl (fun n p => max n p.2.subs.length) 0
  wordsOf 2 t.grid ++ wordsOf 2 t.t ++ wordsOf 1 t.partWord.toNat ++ wordsOf 1 (t.scratchN + t.accN * 2 ^ 16) ++
  wordsOf 1 (t.ngrp + t.regs8 * 2 ^ 8 + t.mode.toNat * 2 ^ 16 + (if t.parked then 2 ^ 24 else 0) + (if jobs > 0 then 2 ^ 25 else 0)) ++
  wordsOf 1 live.toNat ++ wordsOf 1 depth ++ wordsOf 1 spillLen ++ wordsOf 2 t.sampleAt ++ wordsOf 2 t.spillBase.toNat ++
  wordsOf 1 (t.die * 64 + t.core + t.slot * 2 ^ 16) ++ List.replicate 17 Word.zero

/-- Words of `n` bytes' padding up to a multiple of `m` words. -/
def padTo (m : Nat) (ws : List Word) : List Word := ws ++ List.replicate ((m - ws.length % m) % m) Word.zero

/-- The whole record; `cap` is the copy aperture of the team's address space and `spill` the saved words of its spill region. -/
def recordWords (t : Team) (cap : Nat) (jobs : List (Nat × Nat × Nat × BitVec 64)) (spill : List Word) : List Word :=
  let head := headerWords t (spillUsed t) jobs.length ++ stackWords t ++
    (List.range 64).flatMap (fun c => let e := tget t.chans c ⟨0, 0⟩; [Word.ofData e.sent, Word.ofData e.received, Word.zero, Word.zero]) ++
    (List.range 64).flatMap (fun k => match jobs[k]? with
      | some j => wordsOf 2 (cap + 8 * j.2.1) ++ wordsOf 2 j.2.2.2.toNat
      | none => List.replicate 4 Word.zero) ++
    (List.range 16).flatMap (fun b => let x := tget t.bars b Barrier.initial
      [Word.ofData x.arrived, Word.ofData x.armed, Word.ofData (if x.phase then 1 else 0), Word.zero]) ++
    List.replicate 416 Word.zero
  let blocks := (List.range t.ngrp).flatMap (fun i => match tfind t.groups i with
    | some g => groupBlock t i g
    | none => List.replicate (blockWords t.regs8) Word.zero)
  let scr := (List.range (1024 * t.scratchN)).map (fun i => savedWord (tget t.scratch i Word.zero))
  let acc := (List.range (4096 * t.accN)).map (fun i => savedWord (tget t.tiles i Word.zero))
  padTo 2048 (padTo 1024 (head ++ blocks) ++ scr ++ acc ++ padTo 16 spill)

/-- Bytes of a team's record with `spill` bytes of its spill region. -/
def recordLen (t : Team) (spill : Nat) : Nat :=
  let up := fun (m n : Nat) => (n + m - 1) / m * m
  up 8192 (up 4096 (8192 + t.ngrp * 4 * blockWords t.regs8) + 4096 * t.scratchN + 16384 * t.accN + up 64 spill)

/-- The room kept for a team's record when it is sampled: a trap that its last instruction raises still pushes a frame of 256 bytes (R115). -/
def recordRoom (t : Team) : Nat := recordLen t (if t.spillKib = 0 then 0 else spillUsed t + 256)

/-- How many words of a table fail their residue checks. -/
def failing (x : Table Word) : Nat := (x.filter (fun e => !e.2.checks)).length

/-- The words of a team's storage that fail their residue checks, by group, for the Cinder records of R116: those of its live groups'
registers, and (as group 0's) of its scratchpad and accumulators. -/
def failingBy (t : Team) : List (Nat × Nat) :=
  (t.groups.filter (fun p => !p.2.exited)).map (fun p =>
    (p.1, failing p.2.sregs + failing (t.vregs.filter (fun e => e.1 / 8192 == p.1)))) ++ [(0, failing t.scratch + failing t.tiles)]

/-! ### The arena (R116) -/

/-- First byte of a die's save arena. -/
def arenaBase (die : Nat) : Nat := die * 2 ^ 37 + 2 ^ 37 - 2 ^ 29

/-- What is taken of a die's arena: records, and the places kept for those of sampled teams (R114). -/
def State.arenaTaken (s : State) (die : Nat) : List (Nat × Nat) :=
  (s.savedRecs.filter (fun r => r.die == die)).map (fun r => (r.base, r.len)) ++
  (s.teams.filter (fun p => p.2.die == die)).filterMap (fun p => p.2.arena)

/-- The lowest place in a die's arena that holds `len` bytes. -/
def State.arenaFree (s : State) (die len : Nat) : Option Nat :=
  let rs := s.arenaTaken die
  (sortNat (arenaBase die :: rs.map (fun r => r.1 + r.2))).find? (fun b =>
    b + len ≤ arenaBase die + 2 ^ 29 && rs.all (fun r => r.1 + r.2 ≤ b || b + len ≤ r.1))

/-- Where a sampled team's record goes: the place kept for it, if that holds the record, else another. -/
def State.recordPlace (s : State) (key : Nat) (t : Team) : Option Nat :=
  let len := recordLen t (spillUsed t)
  match t.arena with
  | some (b, l) => if len ≤ l then some b else ({ s with teams := tdel s.teams key } : State).arenaFree t.die len
  | none => s.arenaFree t.die len

/-! ### Saving -/

/-- A Cinder record of the save hardware about a team (R116): its cause at grade G0, and the address concerned. -/
def State.saveRecord (s : State) (t : Team) (i cause va : Nat) : State :=
  s.record { Rec.event 0 (t.die * 64 + t.core) cause 0 va with
    grid := t.grid, teamT := t.t, group := i, mode := 1, cause := recCause cause 1 0 }

/-- The words of a team's used spill region (R116). A part that cannot be read, in the window space too, is poison, and recorded once with the
fault's cause (`cut` is the cause of the part the word before belongs to); a word that fails its residue check is recorded. -/
def State.spillRead (s : State) (t : Team) (va : Nat) (cut : Option Nat) : Nat → State × List Word
  | 0 => (s, [])
  | n + 1 =>
    let (s1, w, no) : State × Word × Option Nat := match s.translate (some s.core) s.tm.part s.tm.asid va .load 1 with
      | (s1, .ok x) => if regionOf x.pa = Region.window then (s1, Word.poison, some cPerm) else
          let (s2, w) := s1.coreWord s1.core x
          (s2, w, none)
      | (s1, .error f) => (s1, Word.poison, some (if f.perm then cPerm else cXlate))
    let s2 := match no with
      | some c => if cut = some c then s1 else s1.saveRecord t 0 c va
      | none => if w.checks then s1 else s1.saveRecord t 0 cResidue va
    let (s3, ws) := s2.spillRead t (va + 4) no n
    (s3, savedWord w :: ws)

/-- Focus a team by its first group, so that its spill region can be reached. -/
def State.atTeam (s : State) (t : Team) (f : State → State) : State :=
  match t.groups.head? with
  | none => s
  | some (i, _) => s.inGroup ⟨t.die, t.core, t.slot, i⟩ f

/-- Jobs of a team the engine has not started, as the record and the hardware keep them. -/
def State.unstartedOf (s : State) (key : Nat) (t : Team) : List (Nat × Nat × Nat × BitVec 64) :=
  (s.teamCopies key t).filterMap (fun j => j.owner.map (fun r => (r.grp, j.chan, j.batch, j.data)))

/-- R115 steps 3 and 4: write a quiet team's record at an arena address and free its storage. `parked` lists the children a
swapped-out team waits for. -/
def State.saveTeam (s : State) (key : Nat) (t : Team) (base : Nat) (parked : List Nat) : State :=
  let jobs := s.unstartedOf key t
  let k := s.clusterOf (t.die * 64 + t.core)
  -- mask pairs and deep entries of the stack stand in the area as the hardware holds them
  let s1 := s.atTeam t (fun s => (t.stack.reverse.zipIdx).foldl (fun s e => (s.writeTop e.2 e.1).1) s)
  let n := (spillUsed t + 3) / 4
  let r := match t.groups.head? with
    | none => (s1, [])
    | some (i, _) =>
      match s1.focusOn ⟨t.die, t.core, t.slot, i⟩ with
      | none => (s1, [])
      | some s2 => let (s3, ws) := s2.spillRead t t.spillBase.toNat none n; (s3.unfocus, ws)
  let (s4, spill) := r
  let (s5, c) := s4.context t.part t.asid
  let ws := recordWords t c.capVa.toNat jobs spill
  let s6 := s5.writeWords (s5.kBase t.part) base ws
  let s7 := (failingBy t).foldl (fun s e => (List.range e.2).foldl (fun s _ => s.saveRecord t e.1 cResidue 0) s) s6
  let rest : Team := { t with
    vregs := [], scratch := [], tiles := [], unstarted := jobs, sampled := false, arena := none,
    groups := t.groups.map (fun p => (p.1, { p.2 with latch := none })) }
  let s8 : State := { s7 with
    teams := tdel s7.teams key
    savedRecs := s7.savedRecs ++ [⟨t.die, base, 4 * ws.length, t.grid, t.t, t.part, parked, rest⟩] }
  (s8.modCluster k (fun cl => { cl with jobs := cl.jobs.filter (fun j => !(j.owner.isSome && j.team == key)) })).modGrid t.grid (fun g =>
    { g with shares := g.shares.map (fun sh => if sh.die = t.die then { sh with saved := sh.saved ++ [t.t], since := s.gtime } else sh) })

/-! ### Restoring (R120, R121) -/

/-- A 32-bit or 64-bit number at a word offset. -/
def num1 (ws : List Word) (i : Nat) : Nat := (nth ws i).data.toNat
def num2 (ws : List Word) (i : Nat) : Nat := ofWords ((ws.drop i).take 2) % 2 ^ 64

/-- A group from its block's control words; what R118 does not hold is `g`'s, a waiting instruction's own address and loops among it, and the A
latch is empty (R332). -/
def restoreGroup (g : Group) (ws : List Word) (delta : Int) : Group :=
  let b := num1 ws 2
  let w := b / 2 ^ 24
  let wf := num1 ws 7
  let rebase := fun (a : Nat) => if a = 0 then (0 : Addr) else BitVec.ofInt 64 (a + delta)
  { g with
    pc := if w = 0 then BitVec.ofNat 64 (num2 ws 0) else g.pc
    exec := BitVec.ofNat 32 (num1 ws 3)
    bind := BitVec.ofNat 32 (num1 ws 4)
    pend := BitVec.ofNat 32 (num1 ws 5)
    fmt := BitVec.ofNat 32 (num1 ws 6)
    wb := BitVec.ofNat 16 wf
    frame := wf / 2 ^ 16
    spill := rebase (num2 ws 8)
    jcb := BitVec.ofNat 64 (num2 ws 10)
    latch := none
    loops := if w = 0 then (List.range (b / 2 ^ 16 % 256)).map (fun k =>
      ⟨BitVec.ofNat 64 (num2 ws (12 + 6 * k)), BitVec.ofNat 64 (num2 ws (14 + 6 * k)), BitVec.ofNat 64 (num2 ws (16 + 6 * k))⟩) else g.loops
    upreds := (List.range 7).foldl (fun t n => tset t n (if (num1 ws 43).testBit n then 2 else 1) 1) []
    sregs := (List.range 64).foldl (fun t n => tset t n (nth ws (44 + n)) Word.zero) []
    priv := { g.priv with
      mode := BitVec.ofNat 8 b
      kdepth := BitVec.ofNat 8 (b / 2 ^ 8)
      kpc := BitVec.ofNat 64 (num2 ws 108)
      kcause := BitVec.ofNat 32 (num1 ws 110)
      kmask := BitVec.ofNat 32 (num1 ws 111)
      kframe := BitVec.ofNat 64 (num2 ws 112)
      ktab := BitVec.ofNat 64 (num2 ws 114)
      hpc := BitVec.ofNat 64 (num2 ws 116)
      hcause := BitVec.ofNat 32 (num1 ws 118)
      hmask := BitVec.ofNat 32 (num1 ws 119)
      htab := BitVec.ofNat 64 (num2 ws 120) }
    sealed := BitVec.ofNat 32 (num1 ws 122)
    finished := BitVec.ofNat 32 (num1 ws 123)
    wait := match g.wait with
      | .retry => .none
      | x => x }

/-- Lane predicates of a block. -/
def restorePreds (t : Table (BitVec 2)) (i : Nat) (ws : List Word) : Table (BitVec 2) :=
  (List.range 7).foldl (fun t n => (List.range 32).foldl (fun t l =>
    tset t ((i * 8 + n) * 32 + l) (if (num1 ws (36 + n)).testBit l then 2 else 1) 1) t) t

/-- A table from consecutive words. -/
def wordTable (ws : List Word) (key : Nat → Nat) (t : Table Word) : Table Word :=
  ws.zipIdx.foldl (fun t w => tset t (key w.2) w.1 Word.zero) t

/-- The team a record restores, on a core and slot, with the new base of its spill region. -/
def restoreTeam (r : SavedRec) (ws : List Word) (core slot base order : Nat) : Team :=
  let t := r.rest
  let delta : Int := base - t.spillBase.toNat
  let bw := blockWords t.regs8
  let live := num1 ws 7
  let block := fun (i : Nat) => (ws.drop (2048 + i * bw)).take bw
  let after := (2048 + t.ngrp * bw + 1023) / 1024 * 1024
  { t with
    core := core
    slot := slot
    order := order
    spillBase := BitVec.ofNat 64 base
    aborted := false
    sampled := false
    released := t.mode.toNat % 4 != 0
    groups := t.groups.map (fun p => if live.testBit p.1 then (p.1, restoreGroup p.2 (block p.1) delta) else (p.1, { p.2 with exited := true }))
    preds := (List.range t.ngrp).foldl (fun x i => if live.testBit i then restorePreds x i (block i) else x) []
    vregs := (List.range t.ngrp).foldl (fun x i => if live.testBit i then
      wordTable ((block i).drop 128) (fun k => physKey i (k / 32) (k % 32)) x else x) []
    scratch := wordTable ((ws.drop after).take (1024 * t.scratchN)) id []
    tiles := wordTable ((ws.drop (after + 1024 * t.scratchN)).take (4096 * t.accN)) id []
    chans := (List.range 64).foldl (fun x c => tset x c ⟨(nth ws (1056 + 4 * c)).data, (nth ws (1057 + 4 * c)).data⟩ ⟨0, 0⟩) []
    bars := (List.range 16).foldl (fun x b =>
      tset x b ⟨(nth ws (1568 + 4 * b)).data, (nth ws (1569 + 4 * b)).data, (nth ws (1570 + 4 * b)).data = 1⟩ Barrier.initial) []
    stack := t.stack.map (fun e => { e with maskVa := if e.maskVa = 0 then 0 else BitVec.ofInt 64 (e.maskVa.toNat + delta) })
    unstarted := [] }

/-- R121: is the header, the team section or a group's control state poisoned? -/
def recordPoisoned (r : SavedRec) (ws : List Word) : Bool :=
  (ws.take 2048).any (fun w => w.isPoison || !w.checks) ||
  (List.range r.rest.ngrp).any (fun i => ((ws.drop (2048 + i * blockWords r.rest.regs8)).take 128).any (fun w => w.isPoison || !w.checks))

/-- The saved spill bytes are written to the new region, word by word. -/
def State.spillWrite (s : State) (va : Nat) : List Word → State
  | [] => s
  | w :: r =>
    (match s.translate (some s.core) s.tm.part s.tm.asid va .store 1 with
     | (s1, .ok x) => if regionOf x.pa = Region.window then s1 else s1.coreStore s1.core x w
     | (s1, .error _) => s1).spillWrite (va + 4) r

/-- Unstarted copy jobs are issued again, each to its own batch. -/
def State.reissue (s : State) (t : Team) (jobs : List (Nat × Nat × Nat × BitVec 64)) : State :=
  jobs.foldl (fun s j => s.inGroup ⟨t.die, t.core, t.slot, j.1⟩ (fun s =>
    let open0 := s.g.openJobs
    let k := s.clusterOf s.core
    let s1 := s.admitCopy j.2.1 j.2.2.2
    let last := (s1.cluster k).nextSeq - 1
    let s2 := s1.modCluster k (fun cl => { cl with jobs := cl.jobs.map (fun x => if x.seq = last then { x with batch := j.2.2.1 } else x) })
    { s2 with g := { s2.g with openJobs := open0 } })) s

/-- The teams resident on a core. -/
def State.onCore (s : State) (die core : Nat) : List Team := (s.teams.filter (fun p => p.2.die == die && p.2.core == core)).map (·.2)

/-- R101: schedulers of `n` groups placed in order, each on the one with the fewest groups, then the lowest. -/
def pickScheds : Nat → List Nat → List Nat
  | 0, _ => []
  | n + 1, load =>
    let k := (minBy (fun i => load.getD i 0) (List.range 8)).getD 0
    k :: pickScheds n (load.zipIdx.map (fun l => if l.2 = k then l.1 + 1 else l.1))

/-- Groups resident per scheduler of a core. -/
def State.schedLoad (s : State) (die core : Nat) : List Nat :=
  (List.range 8).map (fun k => (s.onCore die core).foldl (fun n t => n + (t.groups.filter (fun g => g.2.sched == k)).length) 0)

/-- The lowest `n` granules not held. -/
def lowestFree (n : Nat) (held : List Nat) (limit : Nat) : List Nat := ((List.range limit).filter (fun g => !held.contains g)).take n

/-- R101: a restored team takes the lowest free granules of its new core, and its groups schedulers there. -/
def State.rehouse (s : State) (t : Team) : Team :=
  let held := fun (f : Team → List Nat) => (s.onCore t.die t.core).flatMap f
  let scheds := pickScheds t.ngrp (s.schedLoad t.die t.core)
  { t with
    regGran := lowestFree (t.ngrp * t.regs8) (held (·.regGran)) (16 * pwReg t.partWord.toNat)
    scrGran := lowestFree t.scratchN (held (·.scrGran)) (4 * pwScr t.partWord.toNat)
    accGran := lowestFree t.accN (held (·.accGran)) (pwAcc t.partWord.toNat)
    groups := t.groups.map (fun p => (p.1, { p.2 with sched := scheds.getD p.1 0 })) }

/-- R120: restore a record on a core and slot: its storage, spill region and jobs; the record's space is free. A poisoned record
aborts its grid (R121). A `.dev` acquire precedes the groups' next instructions (R219). -/
def State.restoreAt (s : State) (r : SavedRec) (core slot : Nat) : State :=
  match tfind s.grids r.grid with
  | none => s
  | some g =>
    let (s1, ws) := s.readWords (s.kBase r.part) r.base (r.len / 4)
    let s2 : State := { s1 with savedRecs := s1.savedRecs.filter (fun x => !(x.die == r.die && x.base == r.base)) }
    let s3 := s2.modGrid r.grid (fun g => { g with
      shares := g.shares.map (fun sh => if sh.die = r.die then { sh with saved := sh.saved.filter (· != r.t), since := s.gtime } else sh) })
    if recordPoisoned r ws then (s3.gradeGrid r.grid 1).abortTree r.grid 1
    else
      let n := ofWords g.packet
      let base := pkSpillVa n + 1024 * r.rest.spillKib * ((r.die * 64 + core) * 32 + slot)
      let t := s3.rehouse (restoreTeam r ws core slot base s3.placeNo)
      let after := (2048 + t.ngrp * blockWords t.regs8 + 1023) / 1024 * 1024 + 1024 * t.scratchN + 4096 * t.accN
      let s4 : State := { s3.invalidate (r.die * 64 + core) (s3.diesOf r.part) with
        teams := tins s3.teams (teamKey r.die core slot) t
        placeNo := s3.placeNo + 1 }
      let s5 := s4.atTeam t (fun s =>
        let s1 := s.spillWrite base ((ws.drop after).take ((num1 ws 9 + 3) / 4))
        (t.stack.reverse.zipIdx).foldl (fun s e => (s.writeTop e.2 e.1).1) s1)
      s5.reissue t r.rest.unstarted

end Sys2Proof.Machine
end

