-- ==== Sys2Proof/Machine/Place.lean ====
section
/-! DEFINITION. The die dispatchers (R93–R109, R114, R119): candidates in order, cores, placement, claims, retirement, pre-emption
and child swap-out. -/

namespace Sys2Proof.Machine

/-! ### Candidates (R99) -/

/-- A candidate: a grid's saved or new teams on a die, and the first of them. -/
structure Cand where
  grid  : Grid
  saved : Bool
  t     : Nat
deriving DecidableEq, Repr

/-- The record of a saved team. -/
def State.recOf (s : State) (die g t : Nat) : Option SavedRec := s.savedRecs.find? (fun r => r.die == die && r.grid == g && r.t == t)

/-- May a saved team be restored: a swapped-out one once the children it waits for have retired (R109)? -/
def State.recReady (s : State) (die g t : Nat) : Bool :=
  match s.recOf die g t with
  | some r => r.parkedFor.all (fun c => match tfind s.grids c with | some x => x.complete | none => true)
  | none => false

/-- R98, R106, R109, R120: may a grid's teams be placed or restored now? Those of a C grid only whole: none of them on a core, every saved one
ready. -/
def State.placeable (s : State) (g : Grid) : Bool :=
  pkClass (ofWords g.packet) != 0 ||
  (s.teams.all (fun p => p.2.grid != g.num || p.2.ended) &&
    (s.savedRecs.filter (fun r => r.grid == g.num)).all (fun r => s.recReady r.die g.num r.t))

/-- The candidates of a die. -/
def State.candidates (s : State) (die : Nat) : List Cand :=
  (s.grids.filter (fun p => !p.2.complete && !p.2.aborted && s.placeable p.2)).flatMap (fun p =>
    (p.2.shares.filter (fun sh => sh.die == die)).flatMap (fun sh =>
      ((sh.saved.find? (s.recReady die p.1)).map (fun t => (⟨p.2, true, t⟩ : Cand))).toList ++
      (sh.unplaced.head?.map (fun t => (⟨p.2, false, t⟩ : Cand))).toList))

/-- The effective priority of a grid (R95). -/
def State.gridPrio (s : State) (g : Grid) : Nat := qdPrio (s.queue g.queue).desc

/-- R99: the candidate's place in the order, first number first. -/
def State.candKey (s : State) (c : Cand) : List Nat :=
  [if (s.queue c.grid.queue).starving then 0 else 1, 7 - s.gridPrio c.grid, if c.saved then 0 else 1, 15 - c.grid.depth,
    (s.queue c.grid.queue).vt, c.grid.queue, c.grid.startNo]

/-- Insert a candidate in order. -/
def State.insertCand (s : State) (c : Cand) : List Cand → List Cand
  | [] => [c]
  | d :: r => if lexLt (s.candKey c) (s.candKey d) then c :: d :: r else d :: s.insertCand c r

/-- The candidates in the order of R99. -/
def State.ordered (s : State) (die : Nat) : List Cand := (s.candidates die).foldr s.insertCand []

/-- R104: is a grid pinned on a die? -/
def State.pinnedOn (s : State) (die g : Nat) : Bool := (tfind (tget s.disps die Disp.initial).pinned g).isSome

/-- Is a candidate's grid of class C? -/
def Cand.isC (c : Cand) : Bool := pkClass (ofWords c.grid.packet) == 0

/-- Does a candidate hold back later ones: a claim (R106), or a pinned candidate of the die (R104)? -/
def State.holdsBack (s : State) (die : Nat) (c : Cand) : Bool := c.isC || s.pinnedOn die c.grid.num

/-- The candidates that may be placed now: none behind the first that holds back. -/
def State.eligible (s : State) (die : Nat) : List Cand :=
  let cs := s.ordered die
  let before := cs.takeWhile (fun c => !s.holdsBack die c)
  before ++ (cs.drop before.length).take 1

/-! ### Cores (R100–R102) -/

/-- R100: does a team of the packet fit on a core under the partition word it has? A group goes to the scheduler with the fewest (R101), so
that none has more than 8 of 64. -/
def State.fitsCore (s : State) (die core n : Nat) (word : Nat) : Bool :=
  let ts := s.onCore die core
  let sum := fun (f : Team → Nat) => ts.foldl (fun a t => a + f t) 0
  (s.coreAt (die * 64 + core)).enabled && word == pkPartWord n && ts.length < 32 &&
  sum (·.ngrp) + pkGroups n ≤ 64 && sum (fun t => t.ngrp * t.regs8) + pkGroups n * pkRegs8 n ≤ 16 * pwReg word &&
  sum (·.scratchN) + pkScratch n ≤ 4 * pwScr word && sum (·.accN) + pkAcc n ≤ pwAcc word

/-- R102: has a core no team and no work of its teams under way? -/
def State.coreIdle (s : State) (die core : Nat) : Bool :=
  let cl := s.cluster (s.clusterOf (die * 64 + core))
  (s.onCore die core).isEmpty && (s.coreAt (die * 64 + core)).enabled &&
  !(cl.jobs.any (fun j => match j.owner with | some r => r.die == die && r.core == core | none => false)) &&
  !(cl.mjobs.any (fun j => !j.done && j.grp.die == die && j.grp.core == core))

/-- R101, R102: the core for a team: where it fits, fewest resident teams then lowest; else the lowest idle core, whose partition
word is set. -/
def State.findCore (s : State) (die n : Nat) : Option (Nat × Bool) :=
  let fits := (List.range 64).filter (fun c => s.fitsCore die c n (s.coreAt (die * 64 + c)).word.toNat)
  match minBy (fun c => (s.onCore die c).length) fits with
  | some c => some (c, false)
  | none => ((List.range 64).find? (fun c => s.coreIdle die c && s.fitsCore die c n (pkPartWord n))).map (fun c => (c, true))

/-- Set a core's partition word. -/
def State.setWord (s : State) (core w : Nat) : State :=
  { s with cores := tmod s.cores core (Core.initial (core % 64)) (fun c => { c with word := BitVec.ofNat 32 w }) }

/-- The lowest free resident slot of a core (R101). -/
def State.freeSlot (s : State) (die core : Nat) : Nat :=
  ((List.range 32).find? (fun k => (tfind s.teams (teamKey die core k)).isNone)).getD 0

/-! ### A new team (R103, R122, R123) -/

/-- The lanes bound in group i of a team of L lanes (R122). -/
def launchBind (L i : Nat) : BitVec 32 := BitVec.ofNat 32 (2 ^ min 32 (L - 32 * i) - 1)

/-- Group i of a new team. -/
def newGroup (t : Team) (n i sched : Nat) (c : Ctx) : Group :=
  let b := launchBind (pkLanes n) i
  { Group.initial with
    idx := i
    sched := sched
    pc := BitVec.ofNat 64 (pkEntry n)
    exec := b
    bind := b
    frame := min 64 (8 * pkRegs8 n)
    spill := if pkSpillKib n = 0 then 0 else BitVec.ofNat 64 (linkBase t i)
    jcb := BitVec.ofNat 64 (pkJcb n)
    sregs := tset (tset [] 0 (Word.ofData (BitVec.ofNat 32 (pkArgs n))) Word.zero) 1
      (Word.ofData (BitVec.ofNat 32 (pkArgs n / 2 ^ 32))) Word.zero
    priv := { Priv.initial with ktab := c.ktab &&& ~~~3#64, htab := c.htab &&& ~~~3#64 } }

/-- A new team of a grid on a core. -/
def State.newTeam (s : State) (g : Grid) (die core t : Nat) (c : Ctx) : Team :=
  let n := ofWords g.packet
  let slot := s.freeSlot die core
  let held := fun (f : Team → List Nat) => (s.onCore die core).flatMap f
  let t0 : Team := { Team.initial with
    grid := g.num
    t := t
    die := die
    core := core
    slot := slot
    ngrp := pkGroups n
    regs8 := pkRegs8 n
    mode := BitVec.ofNat 8 (pkMode n)
    scratchN := pkScratch n
    accN := pkAcc n
    partWord := BitVec.ofNat 32 (pkPartWord n)
    part := g.part
    asid := g.asid
    spillBase := if pkSpillKib n = 0 then 0 else BitVec.ofNat 64 (pkSpillVa n + 1024 * pkSpillKib n * ((die * 64 + core) * 32 + slot))
    spillKib := pkSpillKib n
    teamX := pkTx n
    teamY := pkTy n
    gid := BitVec.ofNat 64 (t % pkGx n + t / pkGx n % pkGy n * 2 ^ 31 + t / (pkGx n * pkGy n) * 2 ^ 47)
    regGran := lowestFree (pkGroups n * pkRegs8 n) (held (·.regGran)) (16 * pwReg (pkPartWord n))
    scrGran := lowestFree (pkScratch n) (held (·.scrGran)) (4 * pwScr (pkPartWord n))
    accGran := lowestFree (pkAcc n) (held (·.accGran)) (pwAcc (pkPartWord n))
    order := s.placeNo
    released := pkClass n != 0 }
  let scheds := pickScheds (pkGroups n) (s.schedLoad die core)
  { t0 with groups := (List.range (pkGroups n)).map (fun i => (i, newGroup t0 n i (scheds.getD i 0) c)) }

/-- Change a grid's share on a die. -/
def State.modShare (s : State) (g die : Nat) (f : Share → Share) : State :=
  s.modGrid g (fun g => { g with shares := g.shares.map (fun sh => if sh.die = die then f sh else sh) })

/-- R95, R96: a queue after a placement of one of its teams: a new one advances its virtual time, and its starvation timer starts anew. -/
def State.served (s : State) (q : Nat) (new : Bool) : State :=
  s.modQueue q (fun x => { x with
    vt := if new then (x.vt + 65536 / max 1 (qdWeight x.desc)) % 2 ^ 64 else x.vt
    starving := false
    waitFrom := s.gtime })

/-- R101, R103: place a new team on a core; the root queue's virtual time advances (R95). The context is read when the grid's first team is
placed (R176), and a `.dev` acquire precedes the team's first instructions (R219). -/
def State.placeNew (s : State) (g : Grid) (die core t : Nat) : State :=
  let first := ((tfind s.grids g.num).getD g).shares.all (fun sh => sh.unplaced.length == sh.total)
  let (s0, c) := if first then s.freshCtx g.part g.asid else s.context g.part g.asid
  let s1 := s0.invalidate (die * 64 + core) (s0.diesOf g.part)
  let tm := s1.newTeam g die core t c
  let s2 : State := { s1 with
    teams := tins s1.teams (teamKey die core tm.slot) tm
    placeNo := s1.placeNo + 1 }
  (s2.modShare g.num die (fun sh => { sh with
    unplaced := sh.unplaced.filter (· != t)
    since := s.gtime })).served g.queue true

/-- Place or restore a candidate team where it fits on its die. -/
def State.enlist (s : State) (die : Nat) (c : Cand) : Option State :=
  let n := ofWords c.grid.packet
  match s.findCore die n with
  | none => none
  | some (core, fresh) =>
    let s1 := if fresh then s.setWord (die * 64 + core) (pkPartWord n) else s
    if c.saved then (s1.recOf die c.grid.num c.t).map (fun r => (s1.restoreAt r core (s1.freeSlot die core)).served c.grid.queue false)
    else some (s1.placeNew c.grid die core c.t)

/-! ### Claims (R105–R107, R120) -/

/-- The teams of a share that are not resident, saved ones first. -/
def shareCands (g : Grid) (sh : Share) : List Cand := sh.saved.map (fun t => ⟨g, true, t⟩) ++ sh.unplaced.map (fun t => ⟨g, false, t⟩)

/-- R100–R102: the storage of one more team of a grid is taken on the core the team would go to. -/
def State.reserve (s : State) (die : Nat) (c : Cand) : Option State :=
  (s.findCore die (ofWords c.grid.packet)).map (fun f =>
    let s1 := if f.2 then s.setWord (die * 64 + f.1) (pkPartWord (ofWords c.grid.packet)) else s
    { s1 with teams := tins s1.teams (teamKey die f.1 (s1.freeSlot die f.1)) (s1.newTeam c.grid die f.1 c.t ⟨0, 0, 0, 0, 0, false⟩) })

/-- The storage of several teams, if there is enough for all. -/
def State.reserveAll (s : State) (die : Nat) : List Cand → Option State
  | [] => some s
  | c :: r => (s.reserve die c).bind (fun s1 => s1.reserveAll die r)

/-- The storage a claim or a pinned candidate waits for: a C grid's whole share on the die, else one team. -/
def State.reserveFor (s : State) (die : Nat) (c : Cand) : Option State :=
  if c.isC then s.reserveAll die ((c.grid.shares.filter (fun sh => sh.die == die)).flatMap (shareCands c.grid)) else s.reserve die c

/-- R106: is the claim of a C grid satisfied on a die: it heads the die's claims, and the free storage holds the whole share? -/
def State.claimHolds (s : State) (die : Nat) (c : Cand) : Bool :=
  (s.eligible die).any (fun x => x.grid.num == c.grid.num) && (s.reserveFor die c).isSome

/-- R106: the claims on a die are tested, and what has changed is reported to the front end. -/
def State.tellClaims (s : State) (die : Nat) : State :=
  ((s.candidates die).filter Cand.isC).foldl (fun s c =>
    let holds := s.claimHolds die c
    if c.grid.shares.all (fun sh => sh.die != die || sh.told == holds) then s
    else (s.modShare c.grid.num die (fun sh => { sh with told := holds })).send (reportPacket die 2 c.grid.num (if holds then 1 else 0))) s

/-- R106: has every die that holds part of a C grid's share reported its claim satisfied, and is each satisfied still? -/
def State.claimsMet (s : State) (c : Cand) : Bool :=
  c.grid.shares.all (fun sh => (shareCands c.grid sh).isEmpty || (sh.satisfied && s.claimHolds sh.die c))

/-- A pin is released by its candidate's placement. -/
def State.unpin (s : State) (die g : Nat) : State :=
  { s with disps := tmod s.disps die Disp.initial (fun d => { d with pinned := tdel d.pinned g }) }

/-- A team of a C grid is placed or restored; once the grid is aborted (R121) no more are. -/
def State.admitTeam (s : State) (die : Nat) (c : Cand) : State :=
  match tfind s.grids c.grid.num with
  | none => s
  | some g => if g.aborted then s else (s.enlist die c).getD s

/-- R104: a candidate was placed while `head` headed the order: its own pin is released; a head passed over is noted, with the time it
was first passed over. -/
def State.notePlaced (s : State) (die : Nat) (head c : Cand) : State :=
  let s1 := s.unpin die c.grid.num
  { s1 with disps := tmod s1.disps die Disp.initial (fun d => { d with
    passed := if head.grid.num = c.grid.num then none
      else if d.passed.map (·.1) = some head.grid.num then d.passed else some (head.grid.num, s.gtime) }) }

/-- The dies a C grid is placed on, each with the head its order has before the placement. -/
def State.claimHeads (s : State) (g : Grid) : List (Nat × Cand) :=
  g.shares.filterMap (fun sh => if (shareCands g sh).isEmpty then none else (s.ordered sh.die).head?.map (fun h => (sh.die, h)))

/-- R106: a C grid whose claims are met is placed on all its dies at once, and then released (R107) unless a record's poison aborted it (R121). -/
def State.placeClaim (s : State) (g : Grid) : State :=
  let s1 := g.shares.foldl (fun s sh => ((shareCands g sh).foldl (fun s c => s.admitTeam sh.die c) s).unpin sh.die g.num) s
  let s2 := s1.modGrid g.num (fun g => { g with shares := g.shares.map (fun sh => { sh with
    told := false
    satisfied := false }) })
  if ((tfind s2.grids g.num).map (·.aborted)).getD true then s2 else s2.releaseGrid g.num

/-! ### One placement (R99, R104) -/

/-- One placement on a die: the first eligible candidate that can be placed. `saved` says whether it must be a saved team. -/
def State.dispatch (s : State) (die : Nat) (saved : Bool) (head : Cand) : List Cand → State
  | [] => s
  | c :: r =>
    if c.isC then
      (if c.saved = saved && s.claimsMet c then (s.claimHeads c.grid).foldl (fun s h => s.notePlaced h.1 h.2 c) (s.placeClaim c.grid) else s)
    else match s.enlist die c with
      | none => s.dispatch die saved head r
      | some s1 => if c.saved = saved then s1.notePlaced die head c else s

/-- A placement on a die, its claims tested first; none while new firmware starts (R72). -/
def State.place (s : State) (die : Nat) (saved : Bool) : State :=
  if s.twin.activating.isSome then s.unfocus
  else
    let s1 := s.unfocus.tellClaims die
    match s1.eligible die with
    | [] => s1
    | c :: r => s1.dispatch die saved c (c :: r)

/-- TEAM_PLACE (R99–R103, R106). -/
def execTeamPlace (die : Nat) (s : State) : Host.Outcome State Fault Refusal := .next (s.place die false)

/-- TEAM_RESTORE (R99, R120). -/
def execTeamRestore (die : Nat) (s : State) : Host.Outcome State Fault Refusal := .next (s.place die true)

/-- QUEUE_STARVATION (R96): a queue none of whose unplaced teams has been placed for the interval is served out of turn, and its timer
starts anew. -/
def execQueueStarvation (q : Nat) (s : State) : Host.Outcome State Fault Refusal :=
  .next (if s.hasUnplaced q && (s.queue q).waitFrom + Config.starvationNs ≤ s.gtime then
    s.modQueue q (fun x => { x with
      starving := true
      waitFrom := s.gtime })
  else s)

/-- CANDIDATE_PIN (R104): the candidate that heads the order, when later ones have been placed past it for 100 µs, is pinned. -/
def execCandidatePin (die : Nat) (s : State) : Host.Outcome State Fault Refusal :=
  .next (match (s.ordered die).head?, (tget s.disps die Disp.initial).passed with
    | some c, some (g, since) =>
      if c.grid.num = g && since + 100000 ≤ s.gtime && !s.pinnedOn die g then
        { s with disps := tmod s.disps die Disp.initial (fun d => { d with pinned := tins d.pinned g s.gtime }) }
      else s
    | _, _ => s)

/-! ### Retirement (R93, R119, R164) -/

/-- The spare cores of a die that are neither in use nor retired (R70), ascending. -/
def State.freeSpares (s : State) (die : Nat) : List Nat :=
  ((List.range 4).map (64 + ·)).filter (fun b =>
    !s.twin.retired.contains (die * 68 + b) && !((List.range 64).any (fun c => (s.coreAt (die * 64 + c)).built == b)))

/-- The spare core that is enabled: R70 does not say which, and the lowest-numbered is taken (DESIGN CHOICE, log 32). -/
def State.spareOf (s : State) (die : Nat) : Option Nat := (s.freeSpares die).head?

/-- Spare cores of a die in use or retired. -/
def State.sparesUsed (s : State) (die : Nat) : Nat := 4 - (s.freeSpares die).length

/-- R69: the spare-core threshold. -/
def State.coreThreshold (s : State) (die : Nat) : State :=
  if s.sparesUsed die ≥ 3 then { s with twin := { s.twin with sr := s.twin.sr ||| 1 } } else s

/-- R70: a retired core whose teams have left is flushed (R189, R191) and gives its logical number to a spare, if there
is one, which starts idle with partition word 0. -/
def State.settleSpare (s : State) (die core : Nat) : State :=
  let c := s.coreAt (die * 64 + core)
  if !s.twin.retired.contains (die * 68 + c.built) || !(s.onCore die core).isEmpty then s
  else
    let s0 := s.flushCore (die * 64 + core)
    let s1 : State := { s0 with
      icache := s0.icache.filter (fun e => e.1 / 2 ^ 58 != die * 64 + core)
      tlbs := tdel s0.tlbs (die * 64 + core) }
    match s.spareOf die with
    | none => s1
    | some b => ({ s1 with cores := tins s1.cores (die * 64 + core) (Core.initial b) } : State).coreThreshold die

/-- Drop a stopped team's jobs that never started. -/
def State.dropJobs (s : State) (key : Nat) (t : Team) : State :=
  s.modCluster (s.clusterOf (t.die * 64 + t.core)) (fun cl => { cl with jobs := cl.jobs.filter (fun j => j.started || !(j.owner.isSome && j.team == key)) })

/-- A share's completion has been reported (R92). -/
def State.markReported (s : State) (g die : Nat) : State :=
  s.modGrid g (fun g => { g with shares := g.shares.map (fun x => if x.die = die then { x with reported := true } else x) })

/-- TEAM_RETIRE (R92, R93, R119, R164): a team whose groups have all exited, or whose grid is aborted, leaves its core when all its
work is done; a retirement is counted once. -/
def execTeamRetire (die core slot : Nat) (s : State) : Host.Outcome State Fault Refusal :=
  let s0 := s.unfocus
  let key := teamKey die core slot
  .next (match tfind s0.teams key with
    | none => s0
    | some t =>
      if !(t.ended || t.aborted) || !s0.teamQuiet key t || (!t.aborted && !(s0.teamCopies key t).isEmpty) then s0
      else
        let s1 := s0.dropJobs key t
        let s2 : State := { s1 with teams := tdel s1.teams key }
        if t.aborted then ((s2.checkGrid t.grid 17).settleSpare die core)
        else
          let s3 := s2.modGrid t.grid (fun g => { g with
            shares := g.shares.map (fun sh => if sh.die = die then { sh with retired := sh.retired + 1 } else sh) })
          let full : Option Share := (tfind s3.grids t.grid).bind (fun g => g.shares.find? (fun sh => sh.die == die && sh.retired == sh.total && !sh.reported))
          let s4 := match full with
            | some sh => (s3.markReported t.grid die).send (reportPacket die 0 t.grid sh.retired)
            | none => s3
          (s4.checkTurn t.grid).settleSpare die core)

/-! ### Pre-emption (R114, R115) -/

/-- R114, R115 step 1: the sample of a team, which issues nothing more; its record's place in the arena is kept for it. None when the arena
lacks the room. -/
def State.sample (s : State) (key : Nat) : Option State :=
  match tfind s.teams key with
  | none => some s
  | some t =>
    if t.sampled then some s
    else (s.arenaFree t.die (recordRoom t)).map (fun base => s.modTeam key (fun t => { t with
      sampled := true
      sampleAt := s.gtime
      arena := some (base, recordRoom t) }))

/-- The sample of several teams, when the arenas have room for all their records. -/
def State.sampleAll (s : State) : List Nat → Option State
  | [] => some s
  | k :: r => (s.sample k).bind (fun s1 => s1.sampleAll r)

/-- R114: the resident teams of a die below a priority, in the order they are taken: W before P before C, lower priority first,
later placed first. -/
def State.victims (s : State) (die prio : Nat) : List (Nat × Team) :=
  let ts := s.teams.filter (fun p => p.2.die == die && !p.2.sampled && !p.2.aborted && !p.2.ended &&
    (match tfind s.grids p.2.grid with | some g => s.gridPrio g < prio | none => false))
  let key := fun (p : Nat × Team) => [2 - p.2.mode.toNat % 4,
    (match tfind s.grids p.2.grid with | some g => s.gridPrio g | none => 0), s.placeNo - p.2.order]
  ts.foldr (fun x l => (l.takeWhile (fun y => lexLt (key y) (key x))) ++ x :: l.dropWhile (fun y => lexLt (key y) (key x))) []

/-- A C grid is taken whole, on every die. -/
def State.wholeTeam (s : State) (p : Nat × Team) : List Nat :=
  if p.2.mode.toNat % 4 = 0 then (s.teams.filter (fun q => q.2.grid == p.2.grid && !q.2.ended)).map (·.1) else [p.1]

/-- The machine as it will be without some teams. -/
def State.without (s : State) (gone : List Nat) : State := { s with teams := s.teams.filter (fun p => !gone.contains p.1) }

/-- The teams already sampled, whose storage is about to be free. -/
def State.leaving (s : State) : List Nat := (s.teams.filter (fun p => p.2.sampled)).map (·.1)

/-- Enough victims, in order, for the candidate to be placed; none when all would not do. -/
def State.enough (s : State) (die : Nat) (c : Cand) (gone : List Nat) : List (Nat × Team) → Option (List Nat)
  | [] => if ((s.without gone).reserveFor die c).isSome then some gone else none
  | v :: r => if ((s.without gone).reserveFor die c).isSome then some gone
    else s.enough die c (gone ++ (s.wholeTeam v).filter (fun k => !gone.contains k)) r

/-- `%gtime` since when a claim or a pinned candidate waits on a die. A claim is made when the last of its grid's shares begins to wait (R120). -/
def State.waitsFrom (s : State) (die : Nat) (c : Cand) : Nat :=
  if c.isC then c.grid.shares.foldl (fun n sh => max n sh.since) 0 else tget (tget s.disps die Disp.initial).pinned c.grid.num 0

/-- R114: the claims and the pinned candidate of a die in order: the first that has waited 50 µs, that what is free or is becoming free does not
satisfy, and that enough teams below its priority would, has those sampled, if the arenas have room. `free` is the machine without the
teams that are leaving and with the storage of the candidates ahead taken. -/
def State.preemptFor (s : State) (die : Nat) (free : State) : List Cand → Option State
  | [] => none
  | c :: r =>
    match free.reserveFor die c with
    | some f => s.preemptFor die f r
    | none =>
      if s.gtime < s.waitsFrom die c + 50000 then s.preemptFor die free r
      else match (free.enough die c [] (s.victims die (s.gridPrio c.grid))).bind s.sampleAll with
        | some s1 => some s1
        | none => s.preemptFor die free r

/-- PREEMPT_TRIGGER (R114): a claim or pinned candidate has waited 50 µs: enough teams of lower priority are sampled. -/
def execPreemptTrigger (die : Nat) (s : State) : Host.Outcome State Fault Refusal :=
  let s0 := s.unfocus
  .next ((s0.preemptFor die (s0.without s0.leaving) ((s0.ordered die).filter (s0.holdsBack die))).getD s0)

/-- R109: the children the groups of a team wait for in `lwait`. -/
def State.awaited (s : State) (t : Team) : List Nat :=
  (s.grids.filter (fun p => !p.2.complete && (match p.2.parent with
    | some (g, x, i) => g == t.grid && x == t.t && t.groups.any (fun q => !q.2.exited && (match q.2.wait with
      | .lwait none => q.1 == i
      | .lwait (some c) => c == p.1
      | _ => false))
    | none => false))).map (·.1)

/-- PREEMPT_SAVE (R115, R119): a sampled team that is quiet is saved and its storage freed. Teams of a C grid wait for each other and
for the grid's messages; one whose groups have all exited is not saved. -/
def execPreemptSave (die core slot : Nat) (s : State) : Host.Outcome State Fault Refusal :=
  let s0 := s.unfocus
  let key := teamKey die core slot
  .next (match tfind s0.teams key with
    | none => s0
    | some t =>
      let mates := s0.teams.filter (fun p => p.2.grid == t.grid && !p.2.ended)
      let ready := if t.mode.toNat % 4 = 0 then mates.all (fun p => p.2.sampled && s0.teamQuiet p.1 p.2) && s0.gridQuiet t.grid
        else s0.teamQuiet key t
      if !t.sampled || t.aborted || t.ended || !ready then s0
      else match s0.recordPlace key t with
        | none => s0
        | some base =>
          let swapped := (tget s0.disps die Disp.initial).swapped.contains (core, slot)
          let kids := if swapped then s0.awaited t else []
          let s1 := s0.saveTeam key t base kids
          ({ s1 with disps := tmod s1.disps die Disp.initial (fun d => { d with swapped := d.swapped.filter (· != (core, slot)) }) }).settleSpare die core)

/-- R109: the child grid with unplaced teams that heads its die's order, is pinned there or has a claim, has placed none for 20 µs, and fits
neither what is free nor what is becoming free. -/
def State.swapCand (s : State) (die : Nat) : Option Cand :=
  ((s.ordered die).filter (fun c => c.grid.depth > 0 &&
    c.grid.shares.any (fun sh => sh.die == die && !sh.unplaced.isEmpty && sh.since + 20000 ≤ s.gtime) &&
    ((s.ordered die).head? == some c || s.holdsBack die c) &&
    ((s.without s.leaving).reserveFor die c).isNone)).head?

/-- R109: the parked teams of the candidate's queue on the die that may make room, lowest priority first, later placed first. -/
def State.swapVictims (s : State) (die : Nat) (c : Cand) : List (Nat × Team) :=
  let ok := fun (p : Nat × Team) => p.2.die == die && p.2.parked && !p.2.sampled && !p.2.aborted &&
    (match tfind s.grids p.2.grid with | some g => g.queue == c.grid.queue | none => false) &&
    (p.2.mode.toNat % 4 != 0 || (s.teams.filter (fun q => q.2.grid == p.2.grid)).all (fun q => q.2.parked || q.2.ended))
  let key := fun (p : Nat × Team) => [(match tfind s.grids p.2.grid with | some g => s.gridPrio g | none => 0), s.placeNo - p.2.order]
  (s.teams.filter ok).foldr (fun x l =>
    (l.takeWhile (fun y => lexLt (key y) (key x))) ++ x :: l.dropWhile (fun y => lexLt (key y) (key x))) []

/-- R109: a team marked as swapped out for a child. -/
def State.markSwapped (s : State) (key : Nat) : State :=
  match tfind s.teams key with
  | none => s
  | some t => { s with disps := tmod s.disps t.die Disp.initial (fun d => { d with swapped := d.swapped ++ [(t.core, t.slot)] }) }

/-- CHILD_SWAP_OUT (R109): a child grid heads the order, or is pinned, and cannot be placed: the first parked team of its root queue
whose record has room is swapped out, a C grid's teams together. -/
def execChildSwapOut (die : Nat) (s : State) : Host.Outcome State Fault Refusal :=
  let s0 := s.unfocus
  .next (match s0.swapCand die with
    | none => s0
    | some c => ((s0.swapVictims die c).findSome? (fun v => (s0.sampleAll (s0.wholeTeam v)).map (fun s1 =>
        (s0.wholeTeam v).foldl State.markSwapped s1))).getD s0)

end Sys2Proof.Machine
end

