-- ==== Sys2Proof/Machine/Health.lean ====
section
/-! DEFINITION. Health, spares and lost parts (R65–R71, R171), the inventory (R64, R65), clock and power (R74), gating (R50), and
what time alone brings to groups (R112, R366, R370). -/

namespace Sys2Proof.Machine

/-! ### Cores (R70) -/

/-- Logical cores of a die that are retired and whose spare is not enabled yet. -/
def State.awaitSpare (s : State) (die : Nat) : Nat := ((List.range 64).filter (fun c => !(s.coreAt (die * 64 + c)).enabled)).length

/-- CORE_RETIRE (R70, R71, R114): nothing more is placed on the core; its teams, and the whole grids of its C teams, are pre-empted, each as soon
as the arenas have room for it; a spare takes its logical number once its teams have left. The record is graded by whether a spare remains
for it beside those that wait for one. -/
def execCoreRetire (die core : Nat) (s : State) : Host.Outcome State Fault Refusal :=
  let s0 := s.unfocus
  let id := die * 64 + core
  let c := s0.coreAt id
  let told : State := { s0 with twin := { s0.twin with retireDue := s0.twin.retireDue.filter (· != id) } }
  let again := s0.twin.retired.contains (die * 68 + c.built)
  let s1 : State := if again then told else
    ({ told with
        cores := tmod s0.cores id (Core.initial core) (fun c => { c with enabled := false })
        twin := { told.twin with retired := insertNat (die * 68 + c.built) s0.twin.retired } } : State).record
      (Rec.event 0 id 0x42 (if (s0.freeSpares die).length > s0.awaitSpare die then 1 else 2) 0)
  let mine := s1.teams.filter (fun p => p.2.die == die && p.2.core == core && !p.2.ended && !p.2.aborted && !p.2.sampled)
  let s2 := mine.foldl (fun s p => (s.sampleAll (s.wholeTeam p)).getD s) s1
  .next ((s2.settleSpare die core).coreThreshold die)

/-! ### A die fenced (R171, R32) -/

/-- Does a waiting group of an aborted grid take BARRIER_LOST when a die is lost (R171)? A `waitv` does when its word is homed there. -/
def State.waitLost (s : State) (die : Nat) (t : Team) (g : Group) : Bool :=
  match g.wait with
  | .gbar => true
  | .lwait _ => true
  | .chsend _ => true
  | .chrecv _ => true
  | .waitv _ =>
    (match decode g.waitI with
     | .ok (.sWaitv _ a _ _ _ _) =>
       let va := (pairVal (tget g.sregs a.toNat Word.zero) (tget g.sregs (a.toNat + 1) Word.zero)).toNat
       (match (s.translate (some (t.die * 64 + t.core)) t.part t.asid va .load g.priv.mode.toNat).2 with
        | .ok x => homeDie (lineOf x.pa) == die
        | .error _ => false)
     | _ => false)
  | _ => false

/-- BARRIER_LOST records of a team's waiting groups; they stop without a handler. -/
def State.loseWaiters (s : State) (die key : Nat) (t : Team) : State :=
  t.groups.foldl (fun s p =>
    if p.2.exited || !s.waitLost die t p.2 then s
    else
      let r : Rec := { Rec.event 0 (t.die * 64 + t.core) cBarrier 2 0 with
        pc := p.2.pc.toNat, mask := p.2.exec, pend := p.2.exec, grid := t.grid, teamT := t.t, group := p.1,
        mode := p.2.priv.mode.toNat, depth := p.2.priv.kdepth.toNat, cause := recCause cBarrier p.2.priv.mode.toNat 0 }
      (s.modTeam key (fun t => t.modGroup p.1 (fun g => { g with halted := true, wait := .none }))).record r) s

/-- Grids with a share on a die, or a team resident or saved there. -/
def State.gridsOnDie (s : State) (die : Nat) : List Nat :=
  (s.grids.filter (fun p => !p.2.complete && (p.2.shares.any (fun sh => sh.die == die) ||
    s.teams.any (fun t => t.2.grid == p.1 && t.2.die == die) || s.savedRecs.any (fun r => r.grid == p.1 && r.die == die)))).map (·.1)

/-- Words a lost die's cores owned are lost with them: they become poison at their homes. -/
def State.loseOwners (s : State) (die : Nat) : State :=
  s.own.foldl (fun s e =>
    let gone := maskOf ((e.2.owners.filter (fun x => x.2 / 64 == die)).map (·.1))
    let s1 := if gone = 0 then s else (s.homePut e.1 gone poisonLine).released e.1 gone
    (s1.modOwn e.1 (fun o => { o with
      holders := o.holders.filter (fun c => c / 64 != die)
      asked := o.asked.filter (fun c => c / 64 != die) })).partialsCome e.1) s

/-- What a die held is gone: its teams, caches and requests; a queue's COPY on one of its engines ends as a fault (R83, R86). Requests to it from
elsewhere end (R32). -/
def State.dropDie (s : State) (die : Nat) : State :=
  let copies := (s.clusters.filter (fun e => e.1 / 16 == die)).flatMap (fun e => e.2.jobs.filterMap (·.queue))
  let sq := copies.foldl (fun (s : State) c => s.modCmd c.1 c.2 (fun c => { c with complete := true, code := 0x0f, signal := false })) s
  let s0 : State := { sq with
    teams := s.teams.filter (fun p => p.2.die != die)
    savedRecs := s.savedRecs.filter (fun r => r.die != die)
    l1 := s.l1.filter (fun e => e.1 / 32 % 512 / 64 != die)
    partials := s.partials.filter (fun e => e.1 / 32 % 512 / 64 != die)
    merges := s.merges.filter (fun m => m.core / 64 != die)
    l2 := s.l2.filter (fun e => homeDie (tagLine e.1) != die)
    own := s.own.filter (fun e => homeDie (tagLine e.1) != die)
    homeQ := s.homeQ.filter (fun p => homeDie (pktLine p) != die && p.hdr.src.toNat != die)
    stackTags := s.stackTags.filter (fun e => e.1 / 512 != die)
    tlbs := s.tlbs.filter (fun e => if e.1 < 512 then e.1 / 64 != die else e.1 - 512 != die)
    portSeen := s.portSeen.filter (fun k => k / 512 != die)
    icache := s.icache.filter (fun e => e.1 / 2 ^ 58 / 64 != die)
    clusters := s.clusters.filter (fun e => e.1 / 16 != die)
    txns := s.txns.filter (fun t => t.node != die) }
  let dead := s0.txns.filter (fun t => t.pkt.hdr.dst.toNat == die)
  let s1 : State := { s0 with
    flight := s0.flight.filter (fun p => p.hdr.dst.toNat != die &&
      !(p.hdr.src.toNat == die && dead.any (answers p))) }
  (dead.foldl State.failTxn s1).loseOwners die

/-- DIE_FENCE (R71, R92, R171): the die is lost; every grid with a part on it is aborted at grade G2 or more; its waiting groups on
live dies take BARRIER_LOST. -/
def execDieFence (die : Nat) (s : State) : Host.Outcome State Fault Refusal :=
  let s0 := s.unfocus
  if s0.twin.lostDies.contains die then .next s0
  else
    let gs := s0.gridsOnDie die
    let s1 := (s0.teams.filter (fun p => gs.contains p.2.grid && p.2.die != die)).foldl (fun s p => s.loseWaiters die p.1 p.2) s0
    let s2 := gs.foldl (fun s g => s.abortTree g 2) s1
    let s3 := s2.dropDie die
    let s4 : State := { s3 with
      twin := { s3.twin with lostDies := insertNat die s3.twin.lostDies, sr := s3.twin.sr ||| 16 } }
    let r := { Rec.event 5 0 0x47 2 0 with part := s0.ownerOf die }
    .next (s4.record r).settleGrids.retryAll

/-! ### The inventory (R64, R65, R68) -/

/-- The cores a die runs: its enabled ones, and those a spare is about to replace (R70). -/
def State.coresRun (s : State) (d : Nat) : Nat := min 64 (s.coresUp d + (4 - s.sparesUsed d))

/-- A partition's `health` (R68). -/
def State.partHealth (s : State) (p : Nat) : Nat :=
  let ds := s.diesOf p
  let lost := ds.filter (fun d => s.twin.lostDies.contains d)
  if !ds.isEmpty && lost.length == ds.length then 3
  else if !lost.isEmpty || ds.any (fun d => s.coresRun d < 64) then 2 else 0

/-- A partition entry as it reads, its `health` included. -/
def State.entryNow (s : State) (p : Nat) : Nat :=
  let e := (s.part p).entry.toNat
  if peValid (s.part p).entry then e - field e 4 2 * 16 + s.partHealth p * 16 else e

/-- Die-partitioned mode: some partition is valid and it is not partition 0 with every die (R59). With no valid partition the mode is taken as
whole-package (DESIGN CHOICE, log 29). -/
def State.partitioned (s : State) : Bool :=
  !(s.validParts.isEmpty) && !(peValid (s.part 0).entry && peDies (s.part 0).entry == 255)

/-- R68: the first state of the table whose condition holds: 0 OK, 1 SERVICE-REQUESTED, 2 DEGRADED, 3 FAILED. -/
def State.healthNow (s : State) : Nat :=
  let lost := s.twin.lostDies
  let short := (List.range 8).any (fun d => !lost.contains d && s.coresRun d < 64)
  let spare := s.twin.sr.toNat % 16 != 0
  if s.twin.failed || lost.length ≥ 8 then 3
  else if (!s.partitioned && (!lost.isEmpty || short)) || (s.partitioned && spare && s.validParts.any (fun p => s.partHealth p ≥ 2)) then 2
  else if spare || (s.partitioned && !lost.isEmpty) then 1 else 0

/-- The device's health, which never returns toward OK (R68). -/
def State.health (s : State) : Nat := max s.twin.worst s.healthNow

/-- The average of the package's power measurements of the last 10 ms, in whole W. -/
def State.powerAvg (s : State) : Nat := s.twin.power.foldl (fun n m => n + m.1) 0 / max 1 s.twin.power.length

/-- A die's arithmetic clock in MHz (R74). -/
def State.clockOf (s : State) (d : Nat) : Nat := tget s.twin.clocks d 2700

/-- A number of two words of a die's status words. -/
def stat2 (ws : List Word) (i : Nat) : Nat := ofWords ((ws.drop i).take 2)
/-- A number of one word. -/
def stat1 (ws : List Word) (i : Nat) : Nat := (nth ws i).data.toNat
/-- The status words a snapshot has of a die; of one that sent none, those it last had (R64). -/
def State.statusOf (s : State) (x : Snap) (d : Nat) : List Word := tget x.got d (s.statusWords d)

/-- The 32-byte partition record (R65). -/
def State.partRecord (s : State) (p : Nat) : List Byte :=
  let x := s.part p
  bytesOf 8 (s.entryNow p) ++ bytesOf 4 (s.accepted p) ++ bytesOf 4 x.refused ++ bytesOf 4 x.refusals ++ bytesOf 1 x.maxGrade ++
  bytesOf 3 0 ++ bytesOf 8 x.written

/-- A die's record. DESIGN CHOICE (log 29): `clock_mhz` is the clock Twin Star has set (R74), whatever droop stretches at the time. -/
def State.dieRecord (s : State) (x : Snap) (d : Nat) : List Byte :=
  let ws := s.statusOf x d
  let own := s.ownerOf d
  let retired := ((List.range 68).filter (fun b => s.twin.retired.contains (d * 68 + b))).foldl (fun a b => a + 2 ^ b) 0
  bytesOf 1 (if s.twin.lostDies.contains d then 1 else if own.isNone then 2 else 0) ++ bytesOf 1 (own.getD 0xff) ++
  bytesOf 1 (s.coresUp d) ++ bytesOf 1 (s.sparesUsed d) ++ bytesOf 9 retired ++ bytesOf 1 0 ++ bytesOf 2 (s.clockOf d) ++
  bytesOf 8 (stat2 ws 0) ++ bytesOf 8 (stat2 ws 2) ++ bytesOf 32 0

/-- A stack's record. -/
def State.stackRecord (s : State) (x : Snap) (k : Nat) : List Byte :=
  let ch := (List.range 512).filter (fun c => stackOf c == k)
  let ws := (s.statusOf x (k / 2)).drop (4 + k % 2 * 6)
  bytesOf 1 (if s.twin.lostDies.contains (k / 2) then 2 else if ch.any (fun c => s.fenced.contains c) then 1 else 0) ++ bytesOf 1 0 ++
  bytesOf 2 (stat1 ws 5) ++ bytesOf 2 (stat1 ws 5 / 2 ^ 16) ++ bytesOf 2 0 ++ bytesOf 8 (stat2 ws 0) ++
  bytesOf 4 (stat1 ws 2) ++ bytesOf 4 0 ++ bytesOf 8 (stat2 ws 3)

/-- A link's record. -/
def State.linkRecord (s : State) (l : Nat) : List Byte :=
  let e := linkEnds.getD l (0, 0)
  let x := s.link l
  bytesOf 1 (e.1 + 16 * e.2) ++ bytesOf 1 (if s.linkUp l then x.state else 2) ++ bytesOf 1 x.lanesUsed ++ bytesOf 1 0 ++ bytesOf 4 x.replays ++ bytesOf 8 x.crcErrs

/-- A port's record. -/
def State.portRecord (s : State) (p : Nat) : List Byte :=
  let x := s.port p
  bytesOf 1 (if x.retired then 2 else if x.up then 0 else 1) ++ bytesOf 1 x.fec ++ bytesOf 1 (s.failovers p) ++ bytesOf 1 0 ++
  bytesOf 6 (Config.mac p).toNat ++ bytesOf 2 0 ++ bytesOf 8 x.dropCount ++ bytesOf 8 x.fecUncorr ++ bytesOf 4 0

/-- The 4,080 bytes of a snapshot. -/
def State.inventory (s : State) (x : Snap) (gen : Nat) : List Byte :=
  bytesOf 8 gen ++ bytesOf 8 x.time ++ bytesOf 8 Config.devId.toNat ++ bytesOf 4 s.twin.fwVersion.toNat ++ bytesOf 1 s.health ++
  bytesOf 1 (if s.partitioned then 1 else 0) ++ bytesOf 2 s.powerAvg ++ bytesOf 2 s.twin.capW ++ bytesOf 2 s.twin.sr.toNat ++ bytesOf 28 0 ++
  (List.range 8).flatMap (s.dieRecord x) ++ (List.range 16).flatMap (s.stackRecord x) ++ (List.range 14).flatMap s.linkRecord ++
  (List.range 10).flatMap s.portRecord ++ (List.range 8).flatMap s.partRecord ++ List.replicate 2192 0

/-- R64: a snapshot whose status words have come is written into the inactive buffer, which then becomes active in one step. -/
def State.settleSnap (s : State) : State :=
  match s.twin.snap with
  | some x =>
    if !x.awaited.isEmpty then s
    else
      let gen := s.twin.gen + 1
      let i := 1 - s.twin.invActive % 2
      { s with twin := { s.twin with
        gen := gen
        snap := none
        worst := s.health
        invBuf := (List.range 2).map (fun k => if k = i then s.inventory x gen else s.twin.invBuf.getD k [])
        invActive := i } }
  | none => s

/-- The dies whose status registers a snapshot reads: those that are up and powered (R59). -/
def State.askedDies (s : State) : List Nat := (List.range 8).filter (fun d => !s.twin.lostDies.contains d && (s.ownerOf d).isSome)

/-- Twin Star reads the dies' status registers over the mesh; none while it lacks a transaction. -/
def State.askStatus (s : State) : List Nat → Option State
  | [] => some s
  | d :: r => (s.ask (.status d) Config.hubNode 7 (fun id => mkPacket 7 0 Config.hubNode d id 0 0 false 0 [])).bind (fun s1 => s1.askStatus r)

/-- INVENTORY_SNAPSHOT (R64): Twin Star starts a snapshot, one at a time, by reading the dies' status registers; it is built when they have
answered. -/
def execInventorySnapshot (s : State) : Host.Outcome State Fault Refusal :=
  .next (if s.twin.snap.isSome then s
    else match s.askStatus s.askedDies with
      | none => s
      | some s1 => ({ s1 with twin := { s1.twin with snap := some ⟨s.gtime, s.askedDies, []⟩ } } : State).settleSnap)

/-! ### Clock and power (R61, R74) -/

/-- POWER_MEASURE: a measurement of the package and of its dies joins those of the last 10 ms. -/
def execPowerMeasure (watts : Nat × List Nat) (s : State) : Host.Outcome State Fault Refusal :=
  .next { s with twin := { s.twin with power := (watts :: s.twin.power).take 100 } }

/-- The strict partition a die belongs to, if it does (R61). -/
def State.strictOf (s : State) (d : Nat) : Option Nat := (s.ownerOf d).filter (fun p => (s.part p).entry.getLsbD 55)

/-- The power that governs a die's clock and its cap, both times 8 and times the number of measurements: the package's, or of a strict partition
its dies' power and its share of the package cap (R61). -/
def State.powerFor (s : State) (d : Nat) : Nat × Nat :=
  let n := s.twin.power.length
  match s.strictOf d with
  | none => (8 * s.twin.power.foldl (fun a m => a + m.1) 0, 8 * s.twin.capW * n)
  | some p =>
    let ds := s.diesOf p
    (8 * s.twin.power.foldl (fun a m => a + (ds.map (fun d => m.2.getD d 0)).foldl (· + ·) 0) 0, s.twin.capW * ds.length * n)

/-- R74: a clock 100 MHz lower while the average exceeds the cap, higher when it is more than 3 % below it. -/
def steppedClock (power cap c : Nat) : Nat :=
  if power > cap then max 1500 (c - 100) else if power * 100 < cap * 97 then min 2700 (c + 100) else c

/-- CLOCK_STEP: every die's clock by the power that governs it. -/
def execClockStep (s : State) : Host.Outcome State Fault Refusal :=
  .next { s with twin := { s.twin with
    clocks := (List.range 8).map (fun d => (d, steppedClock (s.powerFor d).1 (s.powerFor d).2 (s.clockOf d))) } }

/-- DROOP_STRETCH: the cluster's clock is stretched while the sag lasts. -/
def execDroopStretch (die cluster : Nat) (s : State) : Host.Outcome State Fault Refusal :=
  let k := die * 16 + cluster
  .next (if (s.cluster k).stretched then s else
    { s.modCluster k (fun c => { c with stretched := true }) with stretches := tmod s.stretches die 0 (· + 1) })

/-- SUPPLY_SAG_END. -/
def execSupplySagEnd (die cluster : Nat) (s : State) : Host.Outcome State Fault Refusal :=
  .next (s.modCluster (die * 16 + cluster) (fun c => { c with stretched := false }))

/-! ### Gating and Twin Star (R50, R63, R71, R72) -/

/-- R50: the aperture is ungated: buffered notifications are applied in arrival order. -/
def State.ungate (s : State) : State :=
  let s1 : State := { s with
    gated := false
    wake := [] }
  s.wake.foldl (fun s w => s.notify w.1 w.2) s1

/-- R50, R72: the aperture is ungated when nothing gates it any more: the front end has power, and no recovery and no activation is under way. -/
def State.openAperture (s : State) : State :=
  if s.fePowered && !s.twin.recovering && s.twin.activating.isNone then s.ungate else s

/-- FRONT_END_POWER_GATING. -/
def execFrontEndPowerGating (s : State) : Host.Outcome State Fault Refusal :=
  .next { s with
    fePowered := false
    gated := true }

/-- FRONT_END_UNGATING; a recovery or an activation under way keeps the aperture gated. -/
def execFrontEndUngating (s : State) : Host.Outcome State Fault Refusal :=
  .next ({ s.unfocus with fePowered := true } : State).openAperture

/-- CHECKPOINT_RECOVERY (R49, R63, R71): a mismatch starts a recovery, which gates the aperture and makes management requests BUSY; the
next such step ends it, with its record. -/
def execCheckpointRecovery (s : State) : Host.Outcome State Fault Refusal :=
  let s0 := s.unfocus
  .next (if s0.twin.recovering then
    ({ s0 with twin := { s0.twin with recovering := false } } : State).openAperture.record (Rec.event 5 0 0x49 0 0)
  else { s0 with
    twin := { s0.twin with recovering := true }
    gated := true })

/-- HUB_FAILURE (R71): recorded at G4; from then on only INV_READ on path 0 is answered. -/
def execHubFailure (s : State) : Host.Outcome State Fault Refusal :=
  .next ({ s with twin := { s.twin with failed := true } }.record (Rec.event 5 0 0x4a 4 0))

/-- The firmware image that runs, when it has been activated (R72). -/
def State.runningImage (s : State) : Option (List Byte) :=
  match (tget s.twin.meas 1 []).getLast? with
  | some im => some im
  | none => s.twin.bootImage

/-- PACKAGE_RESET: the state of reset. The fused counter and the firmware that runs, with its version, stay, and so do what has left the device
and what the environment still brings (DESIGN CHOICE, log 24). -/
def execPackageReset (s : State) : Host.Outcome State Fault Refusal :=
  .next { State.reset with
    twin := { TwinStar.initial with
      fuse := s.twin.fuse
      fwVersion := s.twin.fwVersion
      bootImage := s.runningImage }
    sent := s.sent
    freeNo := s.freeNo
    turns := s.turns }

/-- HUB_SLOT_ROTATION (R61): the hub passes to the next of its eight slots. -/
def execHubSlotRotation (s : State) : Host.Outcome State Fault Refusal :=
  .next { s with twin := { s.twin with rotation := (s.twin.rotation + 1) % 8 } }

/-! ### What time brings to groups -/

/-- R112: a group whose starvation counter has reached 4,096 is raised, from a given ck on. -/
def State.raiseGroup (s : State) (r : GroupRef) (n : Nat) : State :=
  s.modGroup r (fun g => if g.starve ≥ 4096 ∧ g.raised = none then { g with raised := some n } else g)

/-- GROUP_RAISED (R112). -/
def execGroupRaised (r : GroupRef) (s : State) : Host.Outcome State Fault Refusal := .next (s.raiseGroup r s.ck)

/-- SLEEP_EXPIRY: a sleep with no time left ends. -/
def execSleepExpiry (r : GroupRef) (s : State) : Host.Outcome State Fault Refusal :=
  .next (s.inGroup r (fun s => if s.g.wait = .sleep 0 then ({ s with g := { s.g with wait := .none } }).advance else s))

/-- WAITV_REREAD (R370): a waiting `waitv` looks at its word again. -/
def execWaitvReread (r : GroupRef) (s : State) : Host.Outcome State Fault Refusal :=
  .next (s.inGroup r (fun s =>
    match s.g.wait, decode s.g.waitI with
    | .waitv _, .ok (.sWaitv d a b w c g) => (match execSWaitv d a b w c g s with | .next s1 => s1 | _ => s)
    | _, _ => s))

end Sys2Proof.Machine
end

