-- ==== Sys2Proof/Machine/Mgmt.lean ====
section
/-! DEFINITION. Management requests as Twin Star serves them (R43, R44, R52, R54, R57, R60–R67, R72–R74). -/

namespace Sys2Proof.Machine

/-- What a request is answered with: status, `value`, body. -/
structure Reply where
  status : Nat
  value  : Nat
  body   : List Byte
deriving DecidableEq, Repr

/-- Status codes of R62. -/
def stOk : Reply := ⟨0, 0, []⟩
def stDenied : Reply := ⟨1, 0, []⟩
def stBadOp : Reply := ⟨2, 0, []⟩
def stBadArg : Reply := ⟨3, 0, []⟩
def stState : Reply := ⟨4, 0, []⟩
def stSigFail : Reply := ⟨5, 0, []⟩
def stBusy : Reply := ⟨6, 0, []⟩

/-- Send a MGMT_RESP (R40, R43, R62): on path 0 to the request's own address, port and tag, with DSCP 0 (DESIGN CHOICE, log 28). -/
def State.respond (s : State) (m : MgmtReq) (r : Reply) : State :=
  let payload := bytesOf 2 m.mop.toNat ++ bytesOf 1 r.status ++ bytesOf 5 0 ++ bytesOf 8 r.value ++ r.body
  let hdr := fun (path : Nat) => thtHdr 0 0 0 payload.length path 0 m.psn false false 8
  if m.path = 0 then s.emit m.port m.srcIp m.srcUdp (srcUdpOf 0) m.tag 0 (hdr 0) payload
  else s.emitPath m.path (hdr (pcHostPath (s.path m.path).ctx)) payload

/-- R63: the checks every request meets, then its operation, whose response may come later, and what follows the response. `own` says that other
paths than 0 may use it for their partition. A request of path 0 waits while an earlier one, an activation, is being served. DESIGN CHOICE
(log 29): BUSY and DENIED come before BAD_ARG for a reserved byte, and that before BAD_OP; BUSY is answered on arrival. -/
def State.serveThen (s : State) (m : MgmtReq) (own : Bool) (op : State → State × Option Reply) (after : State → State) : State :=
  let s0 := s.unfocus
  if s0.twin.failed && !(m.mop == 1 && m.path == 0) then s0
  else if s0.twin.recovering && !s0.twin.failed then s0.respond m stBusy
  else if m.path == 0 && s0.twin.activating.isSome && !s0.twin.failed then
    { s0 with twin := { s0.twin with mgmtWait := s0.twin.mgmtWait ++ [m] } }
  else if m.path ≠ 0 ∧ (!own ∨ m.part.toNat ≠ pcPart (s0.path m.path).ctx) then s0.respond m stDenied
  else if m.rsv ≠ 0 then s0.respond m stBadArg
  else
    match op s0 with
    | (s1, some r) => after (s1.respond m r)
    | (s1, none) => s1

/-- A request with nothing to follow its response. -/
def State.serveLater (s : State) (m : MgmtReq) (own : Bool) (op : State → State × Option Reply) : State := s.serveThen m own op id

/-- A request that is answered at once. -/
def State.serveMgmt (s : State) (m : MgmtReq) (own : Bool) (op : State → State × Reply) : State :=
  s.serveLater m own (fun s => let (s1, r) := op s; (s1, some r))

/-- The partition a request names; 0xff and higher numbers name none. -/
def reqTarget (m : MgmtReq) : Option Nat := if m.part.toNat < 8 then some m.part.toNat else none

/-- An operation on the partition a request names. DESIGN CHOICE (log 29): a number that names none, 0xff included, is answered BAD_ARG, as a body
of the wrong length is by each operation. -/
def onPart (m : MgmtReq) (f : Nat → State → State × Reply) (s : State) : State × Reply :=
  match reqTarget m with
  | none => (s, stBadArg)
  | some p => f p s

/-! ### The operations -/

/-- INV_READ (R64). -/
def opInvRead (m : MgmtReq) (s : State) : State × Reply :=
  if m.arg ≠ 0 ∨ m.body ≠ [] then (s, stBadArg)
  else
    let b := s.twin.invBuf.getD s.twin.invActive []
    (s, ⟨0, 0, b ++ List.replicate (4080 - b.length) 0⟩)

/-- Do two ranges of `n` and `m` numbers overlap? An empty one overlaps none. -/
def overlaps (a n b m : Nat) : Bool := decide (0 < n ∧ 0 < m ∧ a < b + m ∧ b < a + n)

/-- R60 step 1: a die's L1 and L2 contents are written back and invalidated, and its TLBs emptied. -/
def State.flushDie (s : State) (d : Nat) : State :=
  let s1 := (List.range 64).foldl (fun s c => s.flushCore (d * 64 + c)) s
  let s2 := (s1.l2.filter (fun e => homeDie (tagLine e.1) == d)).foldl (fun s e => s.l2Drop e.1) s1
  { s2 with tlbs := s2.tlbs.filter (fun e => if e.1 < 512 then e.1 / 64 != d else e.1 - 512 != d), ctxs := [] }

/-- The dies a partition entry gives its partition: none unless it is valid. -/
def peOwned (e : BitVec 64) : Nat := if peValid e then peDies e else 0

/-- PART_SET (R60, R77, R166). The dies that change their partition are flushed, and the key slots of their old one that no entry assigns any more
are zeroed. DESIGN CHOICE (log 29): a die that an entry written with `valid` 0 gives up moves then, to no partition; a request that calls
for both is answered BAD_ARG rather than STATE; an entry written with `valid` 0 becomes UNCONFIGURED. The health seen so far stays
(R68). -/
def opPartSet (m : MgmtReq) (s : State) : State × Reply :=
  match reqTarget m with
  | none => (s, stBadArg)
  | some p =>
    let e : BitVec 64 := BitVec.ofNat 64 (ofBytes m.body)
    let old := (s.part p).entry
    let others := (List.range 8).filter (fun q => q != p && peValid (s.part q).entry)
    let clash := others.any (fun q =>
      let o := (s.part q).entry
      (peDies o &&& peDies e) != 0 || overlaps (peQBase o) (peQCount o) (peQBase e) (peQCount e) ||
      overlaps (peKBase o) (peKCount o) (peKBase e) (peKCount e))
    if m.arg ≠ 0 ∨ m.body.length ≠ 8 then (s, stBadArg)
    else if clash || peQBase e + peQCount e > 1024 || peKBase e + peKCount e > 8192 || (peValid e && peDies e == 0) then (s, stBadArg)
    else if peState old = 1 ∨ peState old = 2 then (s, stState)
    else
      let moved := (List.range 8).filter (fun d => (peOwned e).testBit d != (peOwned old).testBit d)
      let s1 := moved.foldl State.flushDie s
      let kept := fun (k : Nat) => (peValid e && peKBase e ≤ k && k < peKBase e + peKCount e) || others.any (fun q => s.keyInPart q k)
      let s2 : State := { s1 with
        keys := s1.keys.filter (fun x => !(!moved.isEmpty && peValid old && peKBase old ≤ x.1 && x.1 < peKBase old + peKCount old && !kept x.1)) }
      let e1 : BitVec 64 := BitVec.ofNat 64 (e.toNat / 64 * 64 + if peValid e then 1 else 0)
      let inRange := fun (o : BitVec 64) (q : Nat) => peQBase o ≤ q && q < peQBase o + peQCount o
      let s3 : State := (s2.modPart p (fun x => { x with
        entry := e1
        maxGrade := 0
        refused := 0 })).measure 5 m.body
      let s4 : State := { s3 with
        queues := s3.queues.map (fun (x : Nat × Queue) => if inRange old x.1 || inRange e x.1 then
          (x.1, { x.2 with
            enabled := false
            halted := false }) else x) }
      let s5 : State := { s4 with twin := { s4.twin with worst := max s.twin.worst s.health } }
      (if peValid e then s5.readCinder p else s5, stOk)

/-- PART_STATUS (R65). -/
def opPartStatus (m : MgmtReq) (s : State) : State × Reply :=
  onPart m (fun p s => if m.arg ≠ 0 ∨ m.body ≠ [] then (s, stBadArg) else (s, ⟨0, 0, s.partRecord p⟩)) s

/-- DRAIN of one partition (R66). -/
def State.drainPart (s : State) (p : Nat) : State :=
  if peState (s.part p).entry = 1 then (s.setPartState p 2).settleDrain else s

/-- DRAIN (R66). DESIGN CHOICE (log 29): an UNCONFIGURED partition is answered STATE. -/
def opDrain (m : MgmtReq) (s : State) : State × Reply :=
  if m.arg ≠ 0 ∨ m.body ≠ [] then (s, stBadArg)
  else if m.part = 0xff then (s.validParts.foldl State.drainPart s, stOk)
  else onPart m (fun p s => if peState (s.part p).entry = 0 then (s, stState) else (s.drainPart p, stOk)) s

/-- UNDRAIN of one partition (R67). -/
def State.undrainPart (s : State) (p : Nat) : State :=
  let st := peState (s.part p).entry
  if st = 2 ∨ st = 3 then (s.setPartState p 1).modPart p (fun x => { x with
    refused := 0
    maxGrade := 0 }) else s

/-- UNDRAIN (R67). -/
def opUndrain (m : MgmtReq) (s : State) : State × Reply :=
  if m.arg ≠ 0 ∨ m.body ≠ [] then (s, stBadArg)
  else if m.part = 0xff then (s.validParts.foldl State.undrainPart s, stOk)
  else onPart m (fun p s => if peState (s.part p).entry = 0 then (s, stState) else (s.undrainPart p, stOk)) s

/-- Are a path context's codes ones R38 gives (no reserved `mtu`, `state` CLOSED or OPEN: R43)? -/
def pcOk (c : BitVec 256) : Bool := field c.toNat 20 2 != 3 && pcState c < 2

/-- A register's value written with its reserved fields, `n` bits from `lo` each, reading as zero (R6). -/
def clearFields (x : Nat) (rsv : List (Nat × Nat)) : BitVec 256 :=
  BitVec.ofNat 256 (rsv.foldl (fun v r => v - field v r.1 r.2 * 2 ^ r.1) x)

/-- The context a PATH_SET body gives: writes of its reserved fields are ignored (R6, R38). -/
def pcOf (body : List Byte) : BitVec 256 := clearFields (ofBytes (body.take 32)) [(0, 6), (8, 9), (96, 4)]

/-- The window entry a WINDOW_SET body gives: writes of its reserved fields are ignored (R6, R52). -/
def winOf (body : List Byte) : BitVec 256 := clearFields (ofBytes body) [(4, 35), (128, 4)]

/-- R173: a valid entry keeps to window space and overlaps no other valid entry of its partition. -/
def winFits (windows : Table (BitVec 256)) (k : Nat) (w : BitVec 256) : Bool :=
  !winValid w || (0x800 * 2 ^ 40 ≤ winBase w && winBase w + winSize w ≤ 2 ^ 52 &&
    windows.all (fun e => e.1 == k || !winValid e.2 || !overlaps (winBase w) (winSize w) (winBase e.2) (winSize e.2)))

/-- PATH_SET (R43). -/
def opPathSet (m : MgmtReq) (s : State) : State × Reply :=
  let p := m.arg.toNat
  let c := pcOf m.body
  let st := s.path p
  if p = 0 ∨ p ≥ 4096 ∨ m.body.length ≠ 40 ∨ !pcOk c then (s, stBadArg)
  else if pcState c = 1 then
    if pcState st.ctx = 1 then (s, stState)
    else ({ s with paths := tins s.paths p { PathSt.initial with
      ctx := c
      psnIn := BitVec.ofNat 24 (ofBytes ((m.body.drop 32).take 3))
      psnOut := BitVec.ofNat 24 (ofBytes ((m.body.drop 35).take 3))
      vlan := BitVec.ofNat 16 (ofBytes ((m.body.drop 38).take 2)) } }, stOk)
  else if !st.buf.isEmpty then (s, stState)
  else (s.modPath p (fun x => { x with
    ctx := c
    vlan := BitVec.ofNat 16 (ofBytes ((m.body.drop 38).take 2)) }), stOk)

/-- WINDOW_SET (R52, R173). -/
def opWindowSet (m : MgmtReq) (s : State) : State × Reply :=
  let w := winOf m.body
  onPart m (fun p s =>
    if m.arg.toNat ≥ 64 ∨ m.body.length ≠ 32 ∨ winFits (s.part p).windows m.arg.toNat w = false then (s, stBadArg)
    else (s.modPart p (fun x => { x with windows := tins x.windows m.arg.toNat w }), stOk)) s

/-- Is a range of physical memory a partition's, its save arenas left out (R116)? -/
def State.rangeInPart (s : State) (p base size : Nat) : Bool :=
  base + size ≤ 2 ^ 40 && (List.range 8).all (fun d =>
    !overlaps base size (d * 2 ^ 37) (2 ^ 37) || (s.ownsDie p d && !overlaps base size (arenaBase d) (2 ^ 29)))

/-- HANDLE_EXPORT (R54). DESIGN CHOICE (log 29): a base that is not 8 KiB aligned is answered BAD_ARG. -/
def opHandleExport (m : MgmtReq) (s : State) : State × Reply :=
  let base := ofBytes (m.body.take 8)
  let size := ofBytes ((m.body.drop 8).take 8) * 8192
  let key := ofBytes ((m.body.drop 16).take 2)
  onPart m (fun p s =>
    if m.arg ≠ 0 ∨ m.body.length ≠ 22 ∨ base % 8192 ≠ 0 then (s, stBadArg)
    else if !s.rangeInPart p base size || !s.keyInPart p key then (s, stDenied)
    else
      let h : Handle :=
        { id := BitVec.ofNat 32 s.nextHandle, base := base, size := size, key := key,
          perms := BitVec.ofNat 3 (ofBytes ((m.body.drop 18).take 1)), dev := BitVec.ofNat 16 (ofBytes ((m.body.drop 19).take 2)),
          impPart := ofBytes ((m.body.drop 21).take 1), part := p, live := true }
      ({ s with
          handles := s.handles ++ [h]
          nextHandle := s.nextHandle + 1 }, ⟨0, h.id.toNat, []⟩)) s

/-- HANDLE_REVOKE (R54): a revoked handle stays known, so that requests to it are counted (R65). DESIGN CHOICE (log 29): a number that is no
live handle of the partition is answered BAD_ARG. -/
def opHandleRevoke (m : MgmtReq) (s : State) : State × Reply :=
  onPart m (fun p s =>
    let mine := fun (h : Handle) => h.id.toNat == m.arg.toNat && h.part == p && h.live
    if m.body ≠ [] ∨ !s.handles.any mine then (s, stBadArg)
    else ({ s with handles := s.handles.map (fun h => if mine h then { h with live := false } else h) }, stOk)) s

/-- KEY_GEN (R13, R63): a fresh key; nothing under way under the old one lives to meet it (R217). -/
def opKeyGen (m : MgmtReq) (s : State) : State × Reply :=
  let k := m.arg.toNat
  onPart m (fun p s =>
    if m.body ≠ [] then (s, stBadArg)
    else if !s.keyInPart p k then (s, stDenied)
    else if (tfind s.keys k).isSome then (s, stState)
    else
      let s1 := s.endKey k
      ({ s1 with
        keys := tins s1.keys k s1.nextGen
        nextGen := s1.nextGen + 1 }, stOk)) s

/-- KEY_ZERO (R63, R190). -/
def opKeyZero (m : MgmtReq) (s : State) : State × Reply :=
  let k := m.arg.toNat
  onPart m (fun p s =>
    if m.body ≠ [] then (s, stBadArg)
    else if !s.keyInPart p k then (s, stDenied)
    else (s.retireKey k, stOk)) s

/-- FW_STAGE (R72): image bytes into the staging area of 64 MiB. -/
def opFwStage (m : MgmtReq) (s : State) : State × Reply :=
  if m.body = [] ∨ m.arg.toNat + m.body.length > 2 ^ 26 then (s, stBadArg)
  else ({ s with twin := { s.twin with
    staging := m.body.zipIdx.foldl (fun t b => tins t (m.arg.toNat + b.2) b.1) s.twin.staging } }, stOk)

/-- The staged image: bytes from 0 to the highest staged one. Its header is taken as version (4 bytes), counter (4), digest (64)
and signature (1,280), then the firmware (the manual names these parts and not their places). -/
def State.staged (s : State) (lo n : Nat) : List Byte := (List.range n).map (fun i => tget s.twin.staging (lo + i) 0)
/-- The staged image's length. -/
def State.stagedLen (s : State) : Nat := s.twin.staging.foldl (fun n e => max n (e.1 + 1)) 0

/-- The part of a staged image that its digest covers and that is loaded. -/
def State.stagedImage (s : State) : List Byte := s.staged 0 8 ++ s.staged 1352 (s.stagedLen - 1352)

/-- R72 steps 3 to 6: the checkpoint, the new image, which keeps the device's tables, the fused counter, the aperture ungated unless something
else gates it. -/
def State.fwStart (s : State) : State :=
  let s1 := s.measure 1 s.stagedImage
  ({ s1 with
    twin := { s1.twin with
      activating := none
      checkpoint := s.gtime
      fwVersion := BitVec.ofNat 32 (ofBytes (s.staged 0 4))
      fuse := BitVec.ofNat 32 (ofBytes (s.staged 4 4)) } } : State).openAperture

/-- FW_ACTIVATE (R72): signature, digest and counter are checked; then the aperture is gated and consumption and dispatch pause, until the
prologues in flight have finished and the new image runs. -/
def opFwActivate (m : MgmtReq) (s : State) : State × Option Reply :=
  if m.arg ≠ 0 ∨ m.body ≠ [] then (s, some stBadArg)
  else
    let counter : BitVec 32 := BitVec.ofNat 32 (ofBytes (s.staged 4 4))
    let digest : BitVec 512 := BitVec.ofNat 512 (ofBytes (s.staged 8 64))
    if s.stagedLen ≤ 1352 || !Config.falconVerify digest (s.staged 72 1280) || Config.shake256 s.stagedImage != digest ||
      counter.toNat < s.twin.fuse.toNat then (s, some stSigFail)
    else
      let s1 : State := { s with
        gated := true
        twin := { s.twin with activating := some m } }
      if s.kilns.isEmpty then (s1.fwStart, some stOk) else (s1, none)

/-- ATTEST (R73). -/
def opAttest (m : MgmtReq) (s : State) : State × Reply :=
  onPart m (fun p s =>
    if m.arg ≠ 0 ∨ m.body.length ≠ 32 then (s, stBadArg)
    else
      let b := m.body ++ bytesOf 8 Config.devId.toNat ++ bytesOf 8 (s.entryNow p) ++ bytesOf 8 s.twin.gen ++
        (List.range 8).flatMap (fun k => bytesOf 64 (s.measured k).toNat) ++ Config.identityKey
      (s, ⟨0, 0, b ++ bytesOf 1280 (Config.falconSign (Config.shake256 b)).toNat⟩)) s

/-- POWER_CAP (R74). -/
def opPowerCap (m : MgmtReq) (s : State) : State × Reply :=
  if m.body ≠ [] ∨ m.arg.toNat < 2000 ∨ m.arg.toNat > 7500 then (s, stBadArg)
  else ({ s with twin := { s.twin with capW := m.arg.toNat } }, stOk)

/-- Are a port record's fields within the limits of R44? -/
def portRecOk (r : List Byte) : Bool :=
  let b := fun (i : Nat) => (r.getD i 0).toNat
  let entryOk := fun (i : Nat) => let a := prAllow r i; (a.getD 16 0).toNat ≤ 128 && a.getD 17 0 == 0 && ofBytes ((a.drop 20).take 4) == 0
  ofBytes ((r.drop 44).take 4) == 0 && 1 ≤ b 16 && b 16 ≤ 128 && b 17 ≤ 32 && b 15 != 0xff && prIp6 r != 0 && prThtPort r != 0 &&
  (List.range 4).all entryOk

/-- The record a PORT_SET puts in force after its response, when it does. -/
def newPortRec (m : MgmtReq) : Option (List Byte) :=
  if m.arg.toNat < 2 ∧ m.body.length = 144 ∧ portRecOk m.body then some m.body else none

/-- PORT_SET (R44): the response holds the record in force before it. -/
def opPortSet (m : MgmtReq) (s : State) : State × Reply :=
  if m.arg.toNat ≥ 2 then (s, stBadArg)
  else
    let r := s.portRec m.arg.toNat
    (s, if m.body = [] ∨ (newPortRec m).isSome then ⟨0, 0, r⟩ else ⟨3, 0, r⟩)

/-- PEER_SET (R57). -/
def opPeerSet (m : MgmtReq) (s : State) : State × Reply :=
  onPart m (fun p s =>
    let b := m.body
    let reserved := (b.getD 2 0) &&& 0xfe != 0 || ofBytes ((b.drop 3).take 5) != 0 || ofBytes ((b.drop 72).take 8) != 0
    let twice := peerValid b && (s.part p).peers.any (fun e => e.1 != m.arg.toNat && peerValid e.2 && peerDevOf e.2 == peerDevOf b)
    if m.arg.toNat ≥ 256 ∨ b.length ≠ 80 ∨ reserved ∨ twice then (s, stBadArg)
    else (s.modPart p (fun x => { x with peers := tins x.peers m.arg.toNat b }), stOk)) s

/-- PATH0_SYNC (R43): the expected request PSN of path 0 follows the request's own. -/
def opPath0Sync (m : MgmtReq) (s : State) : State × Reply :=
  if m.arg ≠ 0 ∨ m.body ≠ [] then (s, stBadArg)
  else ({ s with path0 := { s.path0 with psnIn := m.psn + 1 } }, ⟨0, (m.psn + 1).toNat, []⟩)

/-! ### The rows of R63 -/

/-- INV_READ. -/
def execInvRead (m : MgmtReq) (s : State) : Host.Outcome State Fault Refusal :=
  .next (s.serveMgmt { m with mop := 0x0001 } false (opInvRead m))
/-- PART_SET. -/
def execPartSet (m : MgmtReq) (s : State) : Host.Outcome State Fault Refusal :=
  .next (s.serveMgmt { m with mop := 0x0002 } false (opPartSet m))
/-- PART_STATUS. -/
def execPartStatus (m : MgmtReq) (s : State) : Host.Outcome State Fault Refusal :=
  .next (s.serveMgmt { m with mop := 0x0003 } true (opPartStatus m))
/-- DRAIN. -/
def execDrain (m : MgmtReq) (s : State) : Host.Outcome State Fault Refusal := .next (s.serveMgmt { m with mop := 0x0004 } true (opDrain m))
/-- UNDRAIN. -/
def execUndrain (m : MgmtReq) (s : State) : Host.Outcome State Fault Refusal :=
  .next (s.serveMgmt { m with mop := 0x0005 } true (opUndrain m))
/-- PATH_SET. -/
def execPathSet (m : MgmtReq) (s : State) : Host.Outcome State Fault Refusal :=
  .next (s.serveMgmt { m with mop := 0x0006 } false (opPathSet m))
/-- WINDOW_SET. -/
def execWindowSet (m : MgmtReq) (s : State) : Host.Outcome State Fault Refusal :=
  .next (s.serveMgmt { m with mop := 0x0007 } true (opWindowSet m))
/-- HANDLE_EXPORT. -/
def execHandleExport (m : MgmtReq) (s : State) : Host.Outcome State Fault Refusal :=
  .next (s.serveMgmt { m with mop := 0x0008 } true (opHandleExport m))
/-- HANDLE_REVOKE. -/
def execHandleRevoke (m : MgmtReq) (s : State) : Host.Outcome State Fault Refusal :=
  .next (s.serveMgmt { m with mop := 0x0009 } true (opHandleRevoke m))
/-- KEY_GEN. -/
def execKeyGen (m : MgmtReq) (s : State) : Host.Outcome State Fault Refusal := .next (s.serveMgmt { m with mop := 0x000a } true (opKeyGen m))
/-- KEY_ZERO. -/
def execKeyZero (m : MgmtReq) (s : State) : Host.Outcome State Fault Refusal := .next (s.serveMgmt { m with mop := 0x000b } true (opKeyZero m))
/-- FW_STAGE. -/
def execFwStage (m : MgmtReq) (s : State) : Host.Outcome State Fault Refusal := .next (s.serveMgmt { m with mop := 0x000c } false (opFwStage m))
/-- FW_ACTIVATE. -/
def execFwActivate (m : MgmtReq) (s : State) : Host.Outcome State Fault Refusal :=
  .next (s.serveLater { m with mop := 0x000d } false (opFwActivate { m with mop := 0x000d }))
/-- ATTEST. -/
def execAttest (m : MgmtReq) (s : State) : Host.Outcome State Fault Refusal := .next (s.serveMgmt { m with mop := 0x000e } true (opAttest m))
/-- POWER_CAP. -/
def execPowerCap (m : MgmtReq) (s : State) : Host.Outcome State Fault Refusal :=
  .next (s.serveMgmt { m with mop := 0x000f } false (opPowerCap m))
/-- R44: after the response of an accepted PORT_SET the new record is in force. -/
def State.putPortRec (m : MgmtReq) (s : State) : State :=
  match newPortRec m with
  | some r => { s with portRecs := tins s.portRecs m.arg.toNat r }
  | none => s
/-- A PORT_SET served (R44). -/
def State.servePortSet (s : State) (m : MgmtReq) : State :=
  s.serveThen m false (fun s => let (s1, r) := opPortSet m s; (s1, some r)) (State.putPortRec m)
/-- PORT_SET. -/
def execPortSet (m : MgmtReq) (s : State) : Host.Outcome State Fault Refusal := .next (s.servePortSet { m with mop := 0x0010 })
/-- PEER_SET. -/
def execPeerSet (m : MgmtReq) (s : State) : Host.Outcome State Fault Refusal :=
  .next (s.serveMgmt { m with mop := 0x0011 } true (opPeerSet m))
/-- PATH0_SYNC. -/
def execPath0Sync (m : MgmtReq) (s : State) : Host.Outcome State Fault Refusal :=
  .next (s.serveMgmt { m with mop := 0x0012 } false (opPath0Sync m))

/-- A request as its operation code says (R63); an unlisted one is answered BAD_OP. -/
def State.manage (s : State) (m : MgmtReq) : State :=
  match m.mop.toNat with
  | 0x01 => s.serveMgmt m false (opInvRead m)
  | 0x02 => s.serveMgmt m false (opPartSet m)
  | 0x03 => s.serveMgmt m true (opPartStatus m)
  | 0x04 => s.serveMgmt m true (opDrain m)
  | 0x05 => s.serveMgmt m true (opUndrain m)
  | 0x06 => s.serveMgmt m false (opPathSet m)
  | 0x07 => s.serveMgmt m true (opWindowSet m)
  | 0x08 => s.serveMgmt m true (opHandleExport m)
  | 0x09 => s.serveMgmt m true (opHandleRevoke m)
  | 0x0a => s.serveMgmt m true (opKeyGen m)
  | 0x0b => s.serveMgmt m true (opKeyZero m)
  | 0x0c => s.serveMgmt m false (opFwStage m)
  | 0x0d => s.serveLater m false (opFwActivate m)
  | 0x0e => s.serveMgmt m true (opAttest m)
  | 0x0f => s.serveMgmt m false (opPowerCap m)
  | 0x10 => s.servePortSet m
  | 0x11 => s.serveMgmt m true (opPeerSet m)
  | 0x12 => s.serveMgmt m false (opPath0Sync m)
  | _ => s.serveMgmt m true (fun s => (s, stBadOp))

/-- R63: the requests of path 0 that waited behind an activation are served in the order they came. -/
def State.serveWaiting (s : State) : State :=
  s.twin.mgmtWait.foldl State.manage ({ s with twin := { s.twin with mgmtWait := [] } } : State)

/-- R72 step 2: an activation goes on when the Kiln prologues in flight have finished, and is then answered; a recovery comes first (R63), and a
device that has failed does nothing more (R71). -/
def State.settleFw (s : State) : State :=
  match s.twin.activating with
  | some m => if s.twin.failed || s.twin.recovering || !s.kilns.isEmpty then s else (s.fwStart.respond m stOk).serveWaiting
  | none => s

end Sys2Proof.Machine
end

