-- ==== Sys2Proof/Machine/Ethernet.lean ====
section
/-! DEFINITION. Host ports (R34–R37, R44, R69): frames a port drops, address resolution, links, rebinding; and the Thahal Host
Transport as receiver and as sender (R39–R51). -/

namespace Sys2Proof.Machine

/-! ### Frames (R35, R36) -/

/-- A number from bytes in network order. -/
def netOf (bs : List Byte) : Nat := ofBytes bs.reverse
/-- `n` bytes of a list from position `i`, as a number in network order. -/
def netAt (bs : List Byte) (i n : Nat) : Nat := netOf ((bs.drop i).take n)

/-- Is a port one of the two host ports? -/
def isHostPort (p : Nat) : Bool := p < 2

/-- The solicited-node multicast MAC address of an IPv6 address. -/
def solicitedMac (ip : BitVec 128) : Nat := 0x3333ff000000 + ip.toNat % 2 ^ 24

/-- The octets of an Ethernet frame, its FCS included (R34). -/
def frameLen (tags payload : Nat) : Nat := 14 + 4 * tags + payload + 4

/-- R34, R35: why a port does not take a frame, if it does not: its size, its tags, its address or its EtherType. A port whose IPv4 is turned off
(R44) takes neither IPv4 nor ARP. -/
def State.frameWhy (s : State) (f : EthFrame) : Option DropReason :=
  let r := s.portRec f.port
  let own := f.dstMac == Config.mac f.port
  if frameLen f.tags.length f.payload.length > 9216 then some .size
  else if f.tags.length > 1 then some .tags
  else if isHostPort f.port then
    if !(f.etype == 0x86dd || ((f.etype == 0x0800 || f.etype == 0x0806) && prIp4Len r != 0)) then some .etype
    else if own || (f.dstMac == 0xffffffffffff && f.etype == 0x0806) || (f.dstMac.toNat == solicitedMac (prIp6 r) && f.etype == 0x86dd) then none
    else some .mac
  else if !(f.etype == 0x88b5 || f.etype == 0x88cc) then some .etype
  else if own then none else some .mac

/-- Does a port take a frame? -/
def State.frameTaken (s : State) (f : EthFrame) : Bool := (s.frameWhy f).isNone

/-- A UDP datagram with a checksum that verifies over its pseudo-header; a zero checksum counts as `zeroOk` says (R36). -/
def udpOk (pseudo dgram : List Byte) (zeroOk : Bool) : Bool :=
  if netAt dgram 6 2 = 0 then zeroOk else onesSum (pseudo ++ dgram) == 0xffff

/-- R35, R36: why the hub drops an IP packet, if it does. -/
def ipWhy (r : List Byte) (f : EthFrame) : Option DropReason :=
  let b := f.payload
  if f.etype = 0x86dd then
    let nh := netAt b 6 1
    let d := (b.drop 40).take (netAt b 4 2)
    if nh = 44 then some .fragment
    -- hop-by-hop, routing, encapsulation, authentication, destination and mobility headers
    else if [0, 43, 50, 51, 60, 135, 139, 140, 253, 254].contains nh then some .extension
    else if nh ≠ 17 then none
    else if ipOf ((b.drop 24).take 16) ≠ prIp6 r then some .address
    else if netAt d 2 2 ≠ prThtPort r then some .udpPort
    else if udpOk ((b.drop 8).take 32 ++ netBytes 4 d.length ++ [0, 0, 0, 17]) d false then none else some .checksum
  else if f.etype = 0x0800 then
    let d := (b.drop 20).take (netAt b 2 2 - 20)
    if netAt b 0 1 % 16 ≠ 5 then some .options
    else if netAt b 6 2 % 0x4000 ≠ 0 then some .fragment
    else if netAt b 9 1 ≠ 17 then none
    else if netAt b 16 4 ≠ prIp4 r then some .address
    else if netAt d 2 2 ≠ prThtPort r then some .udpPort
    else if udpOk ((b.drop 12).take 8 ++ [0, 17] ++ netBytes 2 d.length) d true then none else some .checksum
  else none

/-- Why a frame is dropped, if it is. -/
def State.dropWhy (s : State) (f : EthFrame) : Option DropReason :=
  (s.frameWhy f).or (if isHostPort f.port then ipWhy (s.portRec f.port) f else none)

/-- FRAME_DROP (R35): a frame the port does not accept is dropped and counted by its reason. -/
def execFrameDrop (f : EthFrame) (s : State) : Host.Outcome State Fault Refusal :=
  .next (match s.dropWhy f with
    | some why => s.countDrop f.port why
    | none => s)

/-- A next hop's MAC address is known (R44): the packets that waited for it leave, if the port's link is up. -/
def State.resolved (s : State) (port : Nat) (addr : BitVec 128) (mac : BitVec 48) : State :=
  let mine := fun (u : BitVec 128 × ThtOut) => u.2.port == port && u.1 == addr
  { s with
    hops := ⟨port, addr, mac⟩ :: s.hops.filter (fun h => !(h.port == port && h.addr == addr))
    unresolved := s.unresolved.filter (fun u => !mine u)
    sent := s.sent ++ (if (s.port port).up then (s.unresolved.filter mine).map (fun u => .tht mac u.2) else []) }

/-- ARP (R35, R44): a request for the port's IPv4 address is answered; a reply is recorded. -/
def execArp (f : EthFrame) (s : State) : Host.Outcome State Fault Refusal :=
  let r := s.portRec f.port
  let b := f.payload
  let sha : BitVec 48 := BitVec.ofNat 48 (netAt b 8 6)
  .next (
    if !isHostPort f.port || f.etype ≠ 0x0806 || !s.frameTaken f then s
    else if netAt b 6 2 = 1 ∧ netAt b 24 4 = prIp4 r then
      { s with sent := s.sent ++ [.arpReply f.port sha (BitVec.ofNat 32 (netAt b 14 4))] }
    else if netAt b 6 2 = 2 then s.resolved f.port (mapped4 (netAt b 14 4)) sha
    else s)

/-- The target link-layer address option of an advertisement, else the frame's source. -/
def advertMac (f : EthFrame) : BitVec 48 :=
  if netAt f.payload 64 2 = 0x0201 then BitVec.ofNat 48 (netAt f.payload 66 6) else f.srcMac

/-- NEIGHBOR_DISCOVERY (R35, R44): a solicitation of the port's IPv6 address is answered; an advertisement is recorded. -/
def execNeighborDiscovery (f : EthFrame) (s : State) : Host.Outcome State Fault Refusal :=
  let b := f.payload
  let target := ipOf ((b.drop 48).take 16)
  .next (
    if !isHostPort f.port || f.etype ≠ 0x86dd || netAt b 6 1 ≠ 58 || !s.frameTaken f then s
    else if netAt b 40 1 = 135 ∧ target = prIp6 (s.portRec f.port) then
      { s with sent := s.sent ++ [.ndAdvert f.port f.srcMac (ipOf ((b.drop 8).take 16))] }
    else if netAt b 40 1 = 136 then s.resolved f.port target (advertMac f)
    else s)

/-- NEXT_HOP_EXPIRY (R44): a resolution is forgotten after 60 s. -/
def execNextHopExpiry (port : Nat) (addr : BitVec 128) (s : State) : Host.Outcome State Fault Refusal :=
  .next { s with hops := s.hops.filter (fun h => !(h.port == port && h.addr == addr)) }

/-! ### Links of ports (R37, R69) -/

/-- PORT_LINK_DOWN: a port's link goes down, or up; the time it went down is kept (R37, R69). -/
def execPortLinkDown (port : Nat) (up : Bool) (s : State) : Host.Outcome State Fault Refusal :=
  .next (s.modPort port (fun x => { x with
    up := up
    downAt := if x.up && !up then s.gtime else x.downAt }))

/-- R69: a port is retired; a host port's retirement crosses a spare threshold. -/
def State.retirePort (s : State) (port : Nat) : State :=
  let s1 := s.modPort port (fun x => { x with retired := true })
  if isHostPort port then { s1 with twin := { s1.twin with sr := s1.twin.sr ||| 8 } } else s1

/-- Bind a path to a host port. -/
def pcWithPort (c : BitVec 256) (p : Nat) : BitVec 256 := BitVec.ofNat 256 (c.toNat - pcPort c * 2 ^ 28 + p % 2 * 2 ^ 28)

/-- Resend a path's requests from a PSN on, in order. -/
def State.resend (s : State) (p : Nat) (reqs : List SentReq) : State := reqs.foldl (fun s q => s.emitPath p q.hdr q.payload) s

/-- R37: the paths bound to a port, those in ERROR among them. -/
def State.boundTo (s : State) (port : Nat) : List Nat :=
  (s.paths.filter (fun e => pcState e.2.ctx != 0 && pcPort e.2.ctx == port)).map (·.1)

/-- PATH_REBIND (R37): the paths of a port that has been down for 50 µs move to the other host port and resend from the oldest
unacknowledged packet. The eighth failover retires the port (R69). -/
def execPathRebind (port : Nat) (s : State) : Host.Outcome State Fault Refusal :=
  let other := 1 - port
  if !isHostPort port || (s.port port).up || s.gtime < (s.port port).downAt + 50000 || !(s.port other).up || (s.port other).retired then .next s
  else
    let mine := s.boundTo port
    let s1 := mine.foldl (fun s p =>
      let s1 := s.modPath p (fun x => { x with ctx := pcWithPort x.ctx other })
      s1.resend p (s1.path p).buf) s
    let s2 := if mine.isEmpty then s1 else s1.modPort port (fun x => { x with failTimes := s1.gtime :: x.failTimes })
    .next (if s2.failovers port ≥ 8 then s2.retirePort port else s2)

/-- R69: has a port been down for 60 s without a break, or had 8 failovers within 24 h? -/
def State.portSpent (s : State) (port : Nat) : Bool :=
  (!(s.port port).up && decide ((s.port port).downAt + 60000000000 ≤ s.gtime)) || decide (8 ≤ s.failovers port)

/-- PORT_RETIRE (R69). -/
def execPortRetire (port : Nat) (s : State) : Host.Outcome State Fault Refusal :=
  .next (if s.portSpent port then s.retirePort port else s)

/-! ### THT: what every packet meets (R40–R42) -/

/-- A path's state, path 0's included. -/
def State.tht (s : State) (n : Nat) : PathSt := if n = 0 then s.path0 else s.path n
/-- Update it. -/
def State.modTht (s : State) (n : Nat) (f : PathSt → PathSt) : State := if n = 0 then { s with path0 := f s.path0 } else s.modPath n f

/-- R43, R44: the source matches an entry of the arrival port's allow-list. -/
def State.allowed (s : State) (f : ThtPacket) : Bool :=
  (List.range 4).any (fun i =>
    let a := prAllow (s.portRec f.port) i
    let len := (a.getD 16 0).toNat
    let udp := ofBytes ((a.drop 18).take 2)
    len != 0 && samePrefix len (allowIp a) f.srcIp && (udp == 0 || udp == f.srcUdp.toNat))

/-- Octets of a THT packet's frame: Ethernet, IP and UDP headers, THT header, payload, CRC-32C and FCS. -/
def thtFrameLen (f : ThtPacket) : Nat :=
  frameLen (if f.tag.isSome then 1 else 0) ((if isMapped f.srcIp then 20 else 40) + 8 + 32 + f.payload.length + 4)

/-- Is a packet a request, which a path in ERROR still answers (R42)? -/
def thtAsks (f : ThtPacket) : Bool := [1, 2, 4, 6, 7].contains (thOp f.hdr)

/-- R34, R35, R41, R44: why a packet is discarded without reply, if it is. THT is taken at the host ports alone, at a configured address and
`tht_port`. Of a path in ERROR only requests are taken, for the NAK they are answered with (R42). -/
def State.thtWhy (s : State) (f : ThtPacket) : Option DropReason :=
  let n := thPath f.hdr
  let r := s.portRec f.port
  let st := pcState (s.path n).ctx
  if !isHostPort f.port then some .etype
  else if thtFrameLen f > 9216 then some .size
  else if !(f.dstIp == prIp6 r || (prIp4Len r != 0 && f.dstIp == mapped4 (prIp4 r))) then some .address
  else if f.dstUdp.toNat ≠ prThtPort r then some .udpPort
  else if f.crc ≠ crc32c (thtBytes f.hdr f.payload) then some .crc
  else if thVer f.hdr ≠ 1 then some .version
  else if n = 0 then (if s.allowed f then none else some .source)
  else if !(st == 1 || (st == 2 && thtAsks f)) then some .path
  else if pcIp (s.path n).ctx == f.srcIp && pcUdp (s.path n).ctx == f.srcUdp then none else some .source

/-- R71: a device that has failed answers nothing but INV_READ on path 0. -/
def State.deafTo (s : State) (f : ThtPacket) : Bool :=
  s.twin.failed && !(thPath f.hdr == 0 && thOp f.hdr == 7 && ofBytes (f.payload.take 2) == 1)

/-- R40, R41: the `op` is assigned, reserved fields are zero and `len` is in its range. -/
def thtFormatOk (mtu : Nat) (f : ThtPacket) : Bool :=
  let h := f.hdr.toNat
  let op := thOp f.hdr
  let len := thLen f.hdr
  let imm := thImm f.hdr
  field h 116 12 == 0 && field h 109 3 == 0 && field h 76 20 == 0 && field h 48 16 == 0 && field h 13 3 == 0 && field h 8 3 == 0 &&
  (op == 10 || thCode f.hdr == 0) && (thSubop f.hdr == 0 || (op == 4 && thSubop f.hdr == 1)) && len == f.payload.length &&
  (match op with
   | 1 => 1 ≤ len && len ≤ mtu && imm == 0
   | 2 => len == 0 && 1 ≤ field imm.toNat 0 13 && field imm.toNat 0 13 ≤ mtu && field imm.toNat 13 51 == 0
   | 3 => 1 ≤ len && len ≤ 4096 && imm == 0
   | 4 => len == 16 && imm == 0 && (thAddr f.hdr).toNat % 8 == 0
   | 5 => len == 8 && imm == 0
   | 6 => len == 0 && field imm.toNat 10 22 == 0
   | 7 => 1 ≤ len && len ≤ 4096 && imm == 0
   | 8 => len ≤ 4096 && imm == 0
   | 9 => len == 0 && imm == 0
   | 10 => len == 0 && imm == 0
   | _ => false)

/-- Largest payload of the path a packet names. -/
def State.thtMtu (s : State) (f : ThtPacket) : Nat := if thPath f.hdr = 0 then 4096 else pcMtu (s.path (thPath f.hdr)).ctx

/-- Send an answer on the path of a packet: on path 0 to the packet's own source (R43). ACK and NAK carry a pending CE echo (R47). DESIGN
CHOICE (log 28): path 0 has no stored context, and its packets are sent with DSCP 0 (R36). -/
def State.thtReply (s : State) (f : ThtPacket) (op code : Nat) (psn : BitVec 24) (addr : BitVec 64) (payload : List Byte) : State :=
  let n := thPath f.hdr
  let ce := (op == 9 || op == 10) && (s.tht n).echo
  let hdr := thtHdr 0 addr 0 payload.length (if n = 0 then 0 else pcHostPath (s.path n).ctx) code psn ce false op
  let s1 := if op = 9 ∨ op = 10 then s.modTht n (fun x => { x with echo := false }) else s
  if n = 0 then s1.emit f.port f.srcIp f.srcUdp (srcUdpOf 0) f.tag 0 hdr payload else s1.emitPath n hdr payload

/-- R42: the cumulative ACK of a path. -/
def State.thtAckNow (s : State) (f : ThtPacket) : State :=
  let n := thPath f.hdr
  (s.modTht n (fun x => { x with unacked := 0 })).thtReply f 9 0 ((s.tht n).psnIn - 1) 0 []

/-- What serving a request came to: its NAK code (0 none), and whether a response has acknowledged it. -/
structure Served where
  st   : State
  nak  : Nat
  resp : Bool
deriving DecidableEq, Repr

/-- R42: an expected request is served, its PSN consumed but for WAKE_FULL, and an ACK sent when one is due. -/
def State.thtExpected (s : State) (f : ThtPacket) (serve : State → Served) : State :=
  let n := thPath f.hdr
  let psn := thPsn f.hdr
  let s0 := s.modTht n (fun x => { x with nakSent := false })
  let r := if pcState (s.tht n).ctx = 2 then ⟨s0, 6, false⟩
    else if !thtFormatOk (s.thtMtu f) f || (n == 0 && thOp f.hdr != 7) then ⟨s0, 4, false⟩
    else serve s0
  if r.nak = 2 then r.st.thtReply f 10 2 psn 0 []
  else
    let s1 := r.st.modTht n (fun x => { x with
      psnIn := psn + 1
      unacked := if r.resp then 0 else x.unacked + 1 })
    let s2 := if r.nak = 0 then s1 else s1.thtReply f 10 r.nak psn 0 []
    if thAckReq f.hdr || (s2.tht n).unacked ≥ 16 || (n == 0 && (s2.tht n).echo) then s2.thtAckNow f else s2

/-- R42: a request behind the expected PSN. `again` serves a READ or an ATOMIC once more; none where an ACK is the answer. DESIGN CHOICE (log 28):
an ATOMIC that left no result, its first run having been answered NAK, is answered with an ACK. -/
def State.thtDuplicate (s : State) (f : ThtPacket) (again : State → Option Served) : State :=
  if pcState (s.tht (thPath f.hdr)).ctx = 2 then s.thtReply f 10 6 (thPsn f.hdr) 0 []
  else if !thtFormatOk (s.thtMtu f) f then s.thtReply f 10 4 (thPsn f.hdr) 0 []
  else match again s with
    | some r => if r.nak = 0 then r.st else r.st.thtReply f 10 r.nak (thPsn f.hdr) 0 []
    | none => s.thtAckNow f

/-- R41, R42: a packet of one of the given operations arrives: taken or discarded and counted; a reserved `op` counts as a request.
A packet of another operation is not this event. -/
def State.thtArrive (s : State) (f : ThtPacket) (op : Nat) (k : State → State) : State :=
  let o := thOp f.hdr
  match s.unfocus.thtWhy f with
  | some why => s.unfocus.countDrop f.port why
  | none =>
    let s0 := (if thPath f.hdr = 0 then { s.unfocus with src0 := some ⟨f.port, f.srcIp, f.srcUdp, f.tag⟩ } else s.unfocus : State)
    let s1 := if f.ce then s0.modTht (thPath f.hdr) (fun x => { x with echo := true }) else s0
    if s0.deafTo f then s0 else
    if o = op then k s1
    else if o = 0 ∨ o > 10 then
      (if thPsn f.hdr = (s1.tht (thPath f.hdr)).psnIn then s1.thtExpected f (fun s => ⟨s, 4, false⟩)
       else s1.thtReply f 10 4 (thPsn f.hdr) 0 [])
    else s.unfocus

/-- R42: a request by the PSN it carries. -/
def State.thtRequest (s : State) (f : ThtPacket) (serve : State → Served) (again : State → Option Served) : State :=
  let n := thPath f.hdr
  let d := (thPsn f.hdr - (s.tht n).psnIn).toNat
  if d = 0 then s.thtExpected f serve
  else if d ≥ 2 ^ 23 then s.thtDuplicate f again
  else if pcState (s.tht n).ctx = 2 then s.thtReply f 10 6 (thPsn f.hdr) 0 []
  else if (s.tht n).nakSent then s
  else (s.modTht n (fun x => { x with nakSent := true })).thtReply f 10 1 (s.tht n).psnIn 0 []

/-! ### Requests from hosts (R45, R48, R49–R51) -/

/-- A host's access to one page of device memory (R45): permission of the path and of the pages; window space refuses. -/
def State.hostXl (s : State) (n va : Nat) (k : Kind) (bit : Nat) : State × Option XOk :=
  let c := (s.path n).ctx
  if !(pcPerm c).testBit bit then (s, none)
  else match s.translate none (pcPart c) (pcAsid c) va k 0 with
    | (s1, .error _) => (s1, none)
    | (s1, .ok x) => if regionOf x.pa = .window then (s1, none) else (s1, some x)

/-- The pieces of a byte range within pages, as offsets and lengths. -/
def pagePieces (va : Nat) : Nat → Nat → List (Nat × Nat)
  | 0, _ => []
  | _, 0 => []
  | fuel + 1, n =>
    let m := min n (8192 - va % 8192)
    (0, m) :: (pagePieces (va + m) fuel (n - m)).map (fun x => (x.1 + m, x.2))

/-- Store bytes at a translated address, with the residues generated at ingress (R48, R183). -/
def State.putBytes (s : State) (x : XOk) (bs : List Byte) : State :=
  let off := x.pa % 4
  let padded := List.replicate off (0 : Byte) ++ bs
  let n := (padded.length + 3) / 4
  let ws := wordsOf n (ofBytes padded)
  let mask := fun (i : Nat) => BitVec.ofNat 4 ((List.range 4).foldl (fun a j =>
    if off ≤ 4 * i + j && 4 * i + j < padded.length then a + 2 ^ j else a) 0)
  s.writeRun (x.cache == 2) x.key (x.pa - off) ((List.range n).map (fun i => (mask i, nth ws i)))

/-- R45: a WRITE page by page; a page that fails ends it, and earlier pages stand. -/
def State.hostWrite (s : State) (n va : Nat) (bs : List Byte) : Served :=
  let r := (pagePieces va 3 bs.length).foldl (fun (r : Served) p =>
    if r.nak ≠ 0 then r
    else match r.st.hostXl n (va + p.1) .store 1 with
      | (s1, none) => ⟨s1, 3, false⟩
      | (s1, some x) => ⟨s1.putBytes x ((bs.drop p.1).take p.2), 0, false⟩) ⟨s, 0, false⟩
  r

/-- THT_WRITE (R45). -/
def execThtWrite (f : ThtPacket) (s : State) : Host.Outcome State Fault Refusal :=
  .next (s.thtArrive f 1 (fun s =>
    s.thtRequest f (fun s => s.hostWrite (thPath f.hdr) (thAddr f.hdr).toNat f.payload) (fun _ => none)))

/-- The bytes of a range, read page by page: a NAK code, or the words' bytes. -/
def State.hostBytes (s : State) (n va len : Nat) : State × Nat × List Byte :=
  (pagePieces va 3 len).foldl (fun (r : State × Nat × List Byte) p =>
    if r.2.1 ≠ 0 then r
    else match r.1.hostXl n (va + p.1) .load 0 with
      | (s1, none) => (s1, 3, [])
      | (s1, some x) =>
        let off := x.pa % 4
        let (s2, ws) := s1.readAt { x with pa := x.pa - off } ((off + p.2 + 3) / 4)
        if egressOk ws then (s2, 0, r.2.2 ++ ((dataBytes ws).drop off).take p.2) else (s2, 5, [])) (s, 0, [])

/-- R45, R48: a READ answered with its data, or with NAK DATA_POISON and a record. -/
def State.hostRead (s : State) (f : ThtPacket) : Served :=
  let n := thPath f.hdr
  let (s1, nak, bs) := s.hostBytes n (thAddr f.hdr).toNat (field (thImm f.hdr).toNat 0 13)
  if nak = 0 then ⟨s1.thtReply f 3 0 (thPsn f.hdr) (thAddr f.hdr) bs, 0, true⟩
  else if nak = 5 then ⟨s1.egressRecord (pcPart (s.path n).ctx) n, 5, false⟩
  else ⟨s1, nak, false⟩

/-- THT_READ (R45): a duplicate is executed again. -/
def execThtRead (f : ThtPacket) (s : State) : Host.Outcome State Fault Refusal :=
  .next (s.thtArrive f 2 (fun s => s.thtRequest f (fun s => s.hostRead f) (fun s => some (s.hostRead f))))

/-- R45: an ATOMIC at the home slice: fetch-add or compare-swap of 8 bytes; its result is kept (R42). DESIGN CHOICE (log
28): a poisoned old value is answered NAK DATA_POISON with a record, and the effect stands (R48 names reads and device WRITEs alone). -/
def State.hostAtomic (s : State) (f : ThtPacket) : Served :=
  let n := thPath f.hdr
  match s.hostXl n (thAddr f.hdr).toNat .atomic 2 with
  | (s1, none) => ⟨s1, 3, false⟩
  | (s1, some x) =>
    let (s2, old) := s1.readAt x 2
    let (rep, new) := aopStep (if thSubop f.hdr = 1 then 14 else 1) old (wordsOf 4 (ofBytes f.payload))
    let s3 := s2.writeAt x new
    if egressOk rep then
      let v := pairVal (nth rep 0) (nth rep 1)
      let s4 := s3.modPath n (fun p => { p with atoms := ((thPsn f.hdr, v) :: p.atoms).take 256 })
      ⟨s4.thtReply f 5 0 (thPsn f.hdr) 0 (dataBytes rep), 0, true⟩
    else ⟨s3.egressRecord (pcPart (s.path n).ctx) n, 5, false⟩

/-- R42: the recorded result of an ATOMIC that comes again. -/
def State.hostAtomicAgain (s : State) (f : ThtPacket) : Option Served :=
  ((s.path (thPath f.hdr)).atoms.find? (fun a => a.1 == thPsn f.hdr)).map (fun a =>
    ⟨s.thtReply f 5 0 (thPsn f.hdr) 0 (bytesOf 8 a.2.toNat), 0, true⟩)

/-- THT_ATOMIC (R45). -/
def execThtAtomic (f : ThtPacket) (s : State) : Host.Outcome State Fault Refusal :=
  .next (s.thtArrive f 4 (fun s => s.thtRequest f (fun s => s.hostAtomic f) (fun s => s.hostAtomicAgain f)))

/-- R49–R51: a NOTIFY: another partition's queue is refused; through a gated aperture it waits in the 64-entry wake buffer. -/
def State.hostNotify (s : State) (f : ThtPacket) : Served :=
  let q := field (thImm f.hdr).toNat 0 10
  let v : BitVec 32 := BitVec.ofNat 32 (field (thImm f.hdr).toNat 32 32)
  if s.partOfQueue q ≠ some (pcPart (s.path (thPath f.hdr)).ctx) then ⟨s, 3, false⟩
  else if !s.gated then ⟨s.notify q v, 0, false⟩
  else if s.wake.length < 64 then ⟨{ s with wake := s.wake ++ [(q, v)] }, 0, false⟩
  else ⟨s, 2, false⟩

/-- THT_NOTIFY (R49–R51). -/
def execThtNotify (f : ThtPacket) (s : State) : Host.Outcome State Fault Refusal :=
  .next (s.thtArrive f 6 (fun s => s.thtRequest f (fun s => s.hostNotify f) (fun _ => none)))

/-- The request a MGMT packet carries (R62). DESIGN CHOICE (log 29): a payload shorter than the 16-byte header is read as if zeros followed. -/
def mgmtOf (f : ThtPacket) : MgmtReq :=
  { path := thPath f.hdr, psn := thPsn f.hdr, port := f.port, srcIp := f.srcIp, srcUdp := f.srcUdp, tag := f.tag,
    mop := BitVec.ofNat 16 (ofBytes (f.payload.take 2)), part := f.payload.getD 2 0,
    rsv := BitVec.ofNat 40 (ofBytes ((f.payload.drop 3).take 5)), arg := BitVec.ofNat 64 (ofBytes ((f.payload.drop 8).take 8)),
    body := f.payload.drop 16 }

/-- THT_MGMT (R43, R62): Twin Star serves the request; PATH0_SYNC on path 0 is accepted at any PSN. -/
def execThtMgmt (f : ThtPacket) (s : State) : Host.Outcome State Fault Refusal :=
  .next (s.thtArrive f 7 (fun s =>
    let m := mgmtOf f
    let s1 : State := if m.path = 0 ∧ m.mop = 0x12 then { s with path0 := { s.path0 with psnIn := m.psn } } else s
    -- an activation that waits for prologues to finish, and what waits behind it, is answered when it is done (R63, R72)
    s1.thtRequest f (fun s => ⟨s.manage m, 0, m.path != 0 || (s.manage m).twin.activating.isNone⟩) (fun _ => none)))

/-! ### Answers from hosts (R42, R46) -/

/-- PSN `a` is not after PSN `b`. -/
def psnLe (a b : BitVec 24) : Bool := (b - a).toNat < 2 ^ 23

/-- The operation of a request kept for retransmission. -/
def SentReq.op (q : SentReq) : Nat := thOp q.hdr
/-- Does a request await a response of its own? -/
def SentReq.asks (q : SentReq) : Bool := q.op == 2 || q.op == 4

/-- R42, R46: every request up to a PSN is accepted: writes among them are complete; reads and atomics await their responses. -/
def State.ackUpTo (s : State) (n : Nat) (psn : BitVec 24) : State :=
  let st := s.path n
  let hit := st.buf.filter (fun q => psnLe q.psn psn && !q.asks)
  let s1 := s.modPath n (fun x => { x with
    buf := (x.buf.filter (fun q => !(psnLe q.psn psn && !q.asks))).map (fun q => if hit.isEmpty then q else { q with tries := 0 }) })
  hit.foldl (fun s q => s.answer q.agent (pathTag n q.psn) none) s1

/-- The request with a PSN ends, with its answer's words or without. -/
def State.endReq (s : State) (n : Nat) (psn : BitVec 24) (ws : Option (List Word)) : State :=
  match (s.path n).buf.find? (fun q => q.psn == psn) with
  | none => s
  | some q =>
    (s.modPath n (fun x => { x with buf := (x.buf.filter (fun q => q.psn != psn)).map (fun q => { q with tries := 0 }) })).answer q.agent
      (pathTag n psn) ws

/-- R47: the rate is cut when an echo arrives, at most once per 10 µs. Rates in kb/s, alpha in units of 2⁻⁶⁴. -/
def rateCut (now : Nat) (x : PathSt) : PathSt :=
  match x.lastCut with
  | some t => if now < t + 10000 then x else cut x
  | none => cut x
where
  cut (x : PathSt) : PathSt :=
    let a := x.alpha * 15 / 16 + 2 ^ 60
    { x with
      alpha := a
      rate := max 1000000 (x.rate * (2 ^ 65 - a) / 2 ^ 65)
      lastCut := some now }

/-- A response or acknowledgement arrives: a malformed one is answered FORMAT_ERR (R41); an echo cuts the rate. -/
def State.thtAnswer (s : State) (f : ThtPacket) (k : Nat → State → State) : State :=
  let n := thPath f.hdr
  if !thtFormatOk (s.thtMtu f) f then s.thtReply f 10 4 (thPsn f.hdr) 0 []
  else if n = 0 then s
  else k n (if thCeEcho f.hdr && (thOp f.hdr == 9 || thOp f.hdr == 10) then s.modPath n (rateCut s.gtime) else s)

/-- A response's words, with residues generated at ingress (R48). -/
def ingressWords (bs : List Byte) : List Word := wordsOf ((bs.length + 3) / 4) (ofBytes bs)

/-- A READ_RESP or ATOMIC_RESP completes the request it echoes, when that is of the matching kind and length. -/
def State.thtResponse (s : State) (f : ThtPacket) (reqOp : Nat) : State :=
  s.thtAnswer f (fun n s =>
    match (s.path n).buf.find? (fun q => q.psn == thPsn f.hdr) with
    | none => s
    | some q =>
      if q.op ≠ reqOp then s
      else if reqOp = 2 ∧ f.payload.length ≠ field (thImm q.hdr).toNat 0 13 then s.thtReply f 10 4 (thPsn f.hdr) 0 []
      else (s.ackUpTo n (thPsn f.hdr)).endReq n (thPsn f.hdr) (some (ingressWords f.payload)))

/-- THT_READ_RESP (R42, R48). -/
def execThtReadResp (f : ThtPacket) (s : State) : Host.Outcome State Fault Refusal := .next (s.thtArrive f 3 (fun s => s.thtResponse f 2))

/-- THT_ATOMIC_RESP (R42, R48). -/
def execThtAtomicResp (f : ThtPacket) (s : State) : Host.Outcome State Fault Refusal := .next (s.thtArrive f 5 (fun s => s.thtResponse f 4))

/-- THT_MGMT_RESP (R42): it acknowledges; the device sends no MGMT of its own. -/
def execThtMgmtResp (f : ThtPacket) (s : State) : Host.Outcome State Fault Refusal :=
  .next (s.thtArrive f 8 (fun s => s.thtAnswer f (fun n s => s.ackUpTo n (thPsn f.hdr))))

/-- THT_ACK (R42, R47). -/
def execThtAck (f : ThtPacket) (s : State) : Host.Outcome State Fault Refusal :=
  .next (s.thtArrive f 9 (fun s => s.thtAnswer f (fun n s => s.ackUpTo n (thPsn f.hdr))))

/-- R42: go back: the requests from a PSN on are sent again; one already sent again 7 times puts the path into ERROR. -/
def State.goBack (s : State) (n : Nat) (psn : BitVec 24) : State :=
  let again := (s.path n).buf.filter (fun q => psnLe psn q.psn)
  if again.any (fun q => q.tries ≥ 7) then s.pathError n false
  else (s.modPath n (fun x => { x with buf := x.buf.map (fun q => if psnLe psn q.psn then { q with tries := q.tries + 1 } else q) })).resend n again

/-- THT_NAK (R42): SEQ_ERR goes back to its PSN; WAKE_FULL does so by the sender's timer; the others end the request they name. -/
def execThtNak (f : ThtPacket) (s : State) : Host.Outcome State Fault Refusal :=
  .next (s.thtArrive f 10 (fun s => s.thtAnswer f (fun n s =>
    match thCode f.hdr with
    | 1 => s.goBack n (thPsn f.hdr)
    | 3 => s.endReq n (thPsn f.hdr) none
    | 4 => s.endReq n (thPsn f.hdr) none
    | 5 => s.endReq n (thPsn f.hdr) none
    | 6 => s.endReq n (thPsn f.hdr) none
    | _ => s)))

/-! ### Timers (R42, R47) -/

/-- A path's own answer without a packet to answer: the cumulative ACK on its bound port; on path 0, to the source of the packet taken last,
with DSCP 0 (DESIGN CHOICE, log 28). -/
def State.ackPath (s : State) (n : Nat) : State :=
  let st := s.tht n
  let s1 := s.modTht n (fun x => { x with
    unacked := 0
    echo := false })
  let hdr := fun (path : Nat) => thtHdr 0 0 0 0 path 0 (st.psnIn - 1) st.echo false 9
  if n ≠ 0 then s1.emitPath n (hdr (pcHostPath st.ctx)) []
  else match s.src0 with
    | some a => s1.emit a.port a.ip a.udp (srcUdpOf 0) a.tag 0 (hdr 0) []
    | none => s

/-- THT_ACK_TIMER (R42): 2 µs after the oldest unacknowledged accepted request, or with an echo pending (R47); a device that has failed sends none
(R71). -/
def execThtAckTimer (path : Nat) (s : State) : Host.Outcome State Fault Refusal :=
  .next (if !s.twin.failed && (path == 0 || pcState (s.path path).ctx == 1) && ((s.tht path).unacked > 0 || (s.tht path).echo) then s.ackPath path else s)

/-- THT_RETRANSMIT_TIMEOUT (R42): 20 µs without progress of the oldest request. -/
def execThtRetransmitTimeout (path : Nat) (s : State) : Host.Outcome State Fault Refusal :=
  .next (match (s.path path).buf with
    | [] => s
    | q :: _ => if pcState (s.path path).ctx = 1 then s.unfocus.goBack path q.psn else s)

/-- R47: 50 µs without an echo. -/
def rateUp (x : PathSt) : PathSt :=
  { x with
    alpha := x.alpha * 15 / 16
    rate := if x.rate < 800000000 then min 800000000 (x.rate + 5000000) else x.rate }

/-- THT_RATE_INCREASE (R47). -/
def execThtRateIncrease (path : Nat) (s : State) : Host.Outcome State Fault Refusal := .next (s.modPath path rateUp)

end Sys2Proof.Machine
end

