-- ==== Sys2Proof/Machine/Fabric.lean ====
section
/-! DEFINITION. Perit frames between devices (R33, R55–R58): sequence rules per peer, the exporter's checks, and the reissue of a
peer's requests at their homes. -/

namespace Sys2Proof.Machine

/-- R55: is a frame well formed and addressed to this device? A frame that is not is discarded and counted. -/
def peritOk (f : PeritFrame) : Bool :=
  f.crc == crc32c (peritBytes f.hdr f.packets) && phVer f.hdr == 1 && field f.hdr.toNat 60 4 == 0 && phDst f.hdr == ownDev &&
  phNpkt f.hdr == f.packets.length &&
  (match phKind f.hdr with
   | 0 => 1 ≤ f.packets.length && f.packets.length ≤ 8
   | 1 => f.packets.isEmpty && phHandle f.hdr == 0
   | 2 => f.packets.isEmpty && phHandle f.hdr == 0
   | _ => false)

/-- R54, R57: the partition whose peer table the answers to a data frame leave by: the exporter of the handle its requests name, or the
importer of the handle its replies name. DESIGN CHOICE (log 28): the answers to a handle no partition knows leave by partition 0's table. -/
def State.frameOwner (s : State) (dev : BitVec 16) (handle : BitVec 32) (asks : Bool) : Nat :=
  if asks then ((s.handles.find? (fun h => h.id == handle)).map (·.part)).getD 0
  else ((List.range 8).find? (fun p => (s.part p).windows.any (fun w =>
    winValid w.2 && winPeer w.2 && winDev w.2 == dev && winHandle w.2 == handle))).getD 0

/-- A frame without packets to a peer, on a given port, by a partition's peer table (R57). -/
def State.peritTell (s : State) (dev : BitVec 16) (part port kind : Nat) (seq : BitVec 24) : State :=
  let h := peritHdr 0 dev ownDev 0 ((s.peer dev).seqIn - 1) seq kind
  match s.peerEntry part dev with
  | none => s
  | some e =>
    let m := peerPort e (port - 2)
    if m.1 = 0 ∨ !(s.port port).up then s
    else { s with sent := s.sent ++ [.perit port (BitVec.ofNat 48 m.1) (vlanTag m.2) ⟨port, h, [], crc32c (peritBytes h [])⟩] }

/-- The cumulative acknowledgement of a peer's frames. -/
def State.peritAck (s : State) (dev : BitVec 16) (part port : Nat) : State :=
  (s.modPeer dev (fun x => { x with unacked := 0 })).peritTell dev part port 1 0

/-- `aseq` acknowledges every frame up to it. -/
def State.peritAcked (s : State) (dev : BitVec 16) (aseq : BitVec 24) : State :=
  s.modPeer dev (fun x =>
    let left := x.buf.filter (fun b => !psnLe b.1 aseq)
    { x with
      buf := left
      tries := if left.length < x.buf.length then 0 else x.tries })

/-- R42, R56, R57: frames go again from a sequence number. After 7 times without progress the link is declared down, and the traffic
moves to the next fabric port that joins the peer. DESIGN CHOICE (log 32): a link declared down stays down, and with every one down the frames stay
unacknowledged. -/
def State.peritResend (s : State) (dev : BitVec 16) (seq : BitVec 24) : State :=
  let x := s.peer dev
  let s1 :=
    if x.tries ≥ 7 then
      match (x.buf.head?.bind (fun b => s.peerEntry b.2.1 dev)).bind (fun e => s.peritPort e dev) with
      | some k => s.modPeer dev (fun x => { x with
          down := k :: x.down
          tries := 0 })
      | none => s
    else s.modPeer dev (fun x => { x with tries := x.tries + 1 })
  (x.buf.filter (fun b => psnLe seq b.1)).foldl (fun s b => s.peritEmit b.2.1 dev b.2.2) s1

/-! ### The exporter (R58) -/

/-- The byte offsets in a handle's range of the words a request names. -/
def askedBytes (p : Packet) : List Nat := (lanesOf p.hdr.aux).map (fun i => (pktLine p * 32 + i) * 4)

/-- The permission bit of a handle that a request needs: read 0, write 1, atomic 2; none for a type peers do not send. -/
def needPerm (p : Packet) : Option Nat :=
  match p.hdr.cls.toNat, p.hdr.mtype.toNat with
  | 0, 0 => some 0
  | 0, 1 => some 0
  | 0, 2 => some 0
  | 1, 0 => some 1
  | 1, 1 => some 1
  | 1, 3 => some 2
  | 1, 4 => some 1
  | _, _ => none

/-- R58: does a handle allow a request: it is not revoked, and admits the device, its partition, the access and the range? -/
def handleAdmits (h : Handle) (src : BitVec 16) (p : Packet) : Bool :=
  h.live && h.dev == src && h.impPart == Config.importer src h.id && (match needPerm p with | some b => h.perms.getLsbD b | none => false) &&
  (askedBytes p).all (fun a => a + 4 ≤ h.size) && pktLine p * 128 < h.size

/-- A reply to a peer's request. -/
def peerReply (p : Packet) (cls mtype : Nat) (aux : BitVec 32) (flits : List (List Word)) : Packet :=
  mkPacket cls mtype Config.hubNode Config.hubNode p.hdr.txn.toNat p.hdr.paWord.toNat 0 false aux flits

/-- R55: the request at the exporter's own address and key, made at its home. -/
def State.peerServe (s : State) (h : Handle) (p : Packet) : State × Packet :=
  let tag := tagOf h.key (lineOf h.base + pktLine p)
  let m := p.hdr.aux
  match p.hdr.cls.toNat, p.hdr.mtype.toNat with
  | 0, 2 => (s, peerReply p 3 4 0 [])
  | 0, _ =>
    let (s1, ws) := s.homeRead tag
    (s1, peerReply p 2 0 m (windowFlits m ws))
  | 1, 0 => (s.homeWrite tag m (windowWords p.flits), peerReply p 3 0 m [])
  | 1, 1 =>
    let (s1, line) := s.homeRead tag
    (s1.homeWrite tag m (writtenWords p true 0 line), peerReply p 3 0 m [])
  | 1, 3 =>
    let idx := lanesOf m
    let (s1, line) := s.homeRead tag
    let f := p.flits.getD 0 []
    let op := (nth f 4).data.toNat
    let (old, new) := aopStep (op % 16) (idx.map (fun i => line.getD i Word.poison)) (f.take 4)
    let s2 := s1.homeWrite tag m ((List.range 32).map (fun i => nth new (indexOf idx i)))
    (s2, if op / 16 % 2 = 1 then peerReply p 3 0 m []
      else peerReply p 2 3 m [(List.range 8).map (fun i => if i < 2 then nth old i else Word.zero)])
  | _, _ => (s.homeWrite tag 0xffffffff (List.replicate 32 Word.zero), peerReply p 3 0 m [])

/-- R58: one request packet checked, then reissued or refused; the reply. A refusal counts for the handle's partition; a number no handle ever
had is no partition's. -/
def State.servePeer (s : State) (src : BitVec 16) (handle : BitVec 32) (p : Packet) : State × Packet :=
  match s.handles.find? (fun h => h.id == handle) with
  | none => (s, peerReply p 3 3 p.hdr.aux [])
  | some h =>
    if handleAdmits h src p then s.peerServe h p
    else (s.modPart h.part (fun x => { x with refusals := x.refusals + 1 }), peerReply p 3 3 p.hdr.aux [])

/-- Is a packet a request? Replies and acknowledgements are of classes 2 and 3. -/
def isPeerRequest (p : Packet) : Bool := !(p.hdr.cls == 2 || p.hdr.cls == 3)

/-- The packets of an accepted data frame: replies go to the hub's transactions, requests are served and their replies leave in one
frame of the same handle; none while that frame cannot be sent. -/
def State.peritPackets (s : State) (src : BitVec 16) (f : PeritFrame) : Option State :=
  let ps := f.packets.filter pktOk
  let s0 := (f.packets.filter (fun p => !pktOk p)).foldl State.protoError s
  let s1 := (ps.filter (fun p => !isPeerRequest p)).foldl State.send s0
  let (s2, out) := (ps.filter isPeerRequest).foldl (fun (r : State × List Packet) p =>
    let (s2, a) := r.1.servePeer src (phHandle f.hdr) p
    (s2, r.2 ++ [a])) (s1, [])
  if out.isEmpty then some s2 else s2.peritSend (s.frameOwner src (phHandle f.hdr) true) src (phHandle f.hdr) out

/-! ### Frames -/

/-- What every frame of a peer meets: it is discarded and counted, or its acknowledgement is taken. Frames come at fabric ports (R1, R57). -/
def State.peritArrive (s : State) (f : PeritFrame) (kind : Nat) (k : BitVec 16 → State → State) : State :=
  let s0 := s.unfocus
  if f.port < 2 ∨ 10 ≤ f.port then s0.countDrop f.port .etype
  else if !peritOk f then s0.countDrop f.port .perit
  else if phKind f.hdr ≠ kind then s0
  else k (phSrc f.hdr) (s0.peritAcked (phSrc f.hdr) (phAseq f.hdr))

/-- R42, R56, R57: a data frame by its sequence number; what answers it goes back on its own port. -/
def State.peritData (s : State) (src : BitVec 16) (f : PeritFrame) : State :=
  let q := s.peer src
  let own := s.frameOwner src (phHandle f.hdr) (f.packets.any isPeerRequest)
  let d := (phSeq f.hdr - q.seqIn).toNat
  if d = 0 then
    match s.peritPackets src f with
    | none => s
    | some s1 =>
      let s2 := s1.modPeer src (fun x => { x with
        seqIn := x.seqIn + 1
        nakSent := false
        lastPort := f.port
        lastPart := own
        unacked := x.unacked + 1 })
      if (s2.peer src).unacked ≥ 16 then s2.peritAck src own f.port else s2
  else if d ≥ 2 ^ 23 then s.peritAck src own f.port
  else if q.nakSent then s
  else (s.modPeer src (fun x => { x with nakSent := true })).peritTell src own f.port 2 q.seqIn

/-- PERIT_DATA_FRAME (R55–R58). -/
def execPeritDataFrame (f : PeritFrame) (s : State) : Host.Outcome State Fault Refusal :=
  .next (s.peritArrive f 0 (fun src s => s.peritData src f))

/-- PERIT_ACK_FRAME (R56). -/
def execPeritAckFrame (f : PeritFrame) (s : State) : Host.Outcome State Fault Refusal := .next (s.peritArrive f 1 (fun _ s => s))

/-- PERIT_NAK_FRAME (R56): the sender goes back to the sequence number it names. -/
def execPeritNakFrame (f : PeritFrame) (s : State) : Host.Outcome State Fault Refusal :=
  .next (s.peritArrive f 2 (fun src s => s.peritResend src (phSeq f.hdr)))

/-- PERIT_TIMEOUT (R56): 8 µs without progress of the oldest frame. -/
def execPeritTimeout (dev : BitVec 16) (s : State) : Host.Outcome State Fault Refusal :=
  .next (match (s.peer dev).buf with
    | [] => s
    | b :: _ => s.unfocus.peritResend dev b.1)

/-- PERIT_ACK_TIMER (R42, R56): 2 µs after the oldest unacknowledged accepted frame. -/
def execPeritAckTimer (dev : BitVec 16) (s : State) : Host.Outcome State Fault Refusal :=
  let q := s.peer dev
  .next (if q.unacked > 0 then s.peritAck dev q.lastPart q.lastPort else s)

end Sys2Proof.Machine
end

