-- ==== Sys2Proof/Machine/LaneFloat.lean ====
section
/-! DEFINITION. Lane instructions: floating point and conversion (chapter 13, R291–R305). -/

namespace Sys2Proof.Machine

/-- R291: registers per operand of a type code: two for `.f64`. -/
def tyRegs (t : Nat) : Nat := if t = 1 then 2 else 1

/-- R293: the rounding mode, toward zero under `.rz`. -/
def modeOf (fmt : BitVec 32) (rz : Bool) : Nat := if rz then 1 else fmtRnd fmt

/-- A word result at the generation point. -/
def genN (x : Nat) : List (BitVec 32 × BitVec 4) := [gen (BitVec.ofNat 32 x)]
/-- A 64-bit result at the generation point. -/
def gen64N (x : Nat) : List (BitVec 32 × BitVec 4) := gen64 (BitVec.ofNat 64 x)

/-- Apply an operation of a wide format by type code (R291), `satf` acting on packed halves only and `ftz` on binary32 and
binary16 only (R235). -/
def byType (t : Nat) (fmt : BitVec 32) (f : FpFmt → Bool → Bool → Nat → Nat → Nat) (ws : List Word) :
    List (BitVec 32 × BitVec 4) :=
  let ftz := fmtFtz fmt
  match t with
  | 0 => genN (f f32 false ftz (dat ws 0).toNat (dat ws 1).toNat)
  | 1 => gen64N (f f64 false false (dat64 ws 0).toNat (dat64 ws 2).toNat)
  | 2 => genN (halves2 (f f16 (fmtSat fmt) ftz) (dat ws 0).toNat (dat ws 1).toNat)
  | _ => genN (halves2 (f bf16 (fmtSat fmt) false) (dat ws 0).toNat (dat ws 1).toNat)

/-- The shared form of a two-source float instruction. -/
def execF2 (f : Nat → FpFmt → Bool → Bool → Nat → Nat → Nat) (d a b : BitVec 6) (r : BitVec 1) (t : BitVec 2) (p : BitVec 3)
    (s : State) : State :=
  let k := tyRegs t.toNat
  s.laneOp p true (names3 d.toNat a.toNat b.toNat k) (fun s =>
    s.laneArith (srcs a.toNat k 1 ++ srcs b.toNat k 2) (dests d.toNat k)
      (byType t.toNat s.g.fmt (f (modeOf s.g.fmt (r = 1)))))

/-- R295 `fadd`. -/
def execVFadd (d a b : BitVec 6) (r : BitVec 1) (t : BitVec 2) (p : BitVec 3) (s : State) : Host.Outcome State Fault Refusal :=
  .next (execF2 (fun m f sat ftz => addF f m sat ftz) d a b r t p s)
/-- R295 `fsub`. -/
def execVFsub (d a b : BitVec 6) (r : BitVec 1) (t : BitVec 2) (p : BitVec 3) (s : State) : Host.Outcome State Fault Refusal :=
  .next (execF2 (fun m f sat ftz => subF f m sat ftz) d a b r t p s)
/-- R295 `fmul`. -/
def execVFmul (d a b : BitVec 6) (r : BitVec 1) (t : BitVec 2) (p : BitVec 3) (s : State) : Host.Outcome State Fault Refusal :=
  .next (execF2 (fun m f sat ftz => mulF f m sat ftz) d a b r t p s)

/-- R295: `fma` by type code, va · vb + old vd, one rounding; sources in the order va, vb, vd. -/
def fmaWords (t : Nat) (fmt : BitVec 32) (m : Nat) (ws : List Word) : List (BitVec 32 × BitVec 4) :=
  let ftz := fmtFtz fmt
  let x := (dat ws 0).toNat
  let y := (dat ws 1).toNat
  let z := (dat ws 2).toNat
  let half := fun (h : FpFmt) (fz : Bool) => fmaF h m (fmtSat fmt) fz
  match t with
  | 0 => genN (fmaF f32 m false ftz x y z)
  | 1 => gen64N (fmaF f64 m false false (dat64 ws 0).toNat (dat64 ws 2).toNat (dat64 ws 4).toNat)
  | 2 => genN (half f16 ftz (x % 65536) (y % 65536) (z % 65536) + 65536 * half f16 ftz (x / 65536) (y / 65536) (z / 65536))
  | _ => genN (half bf16 false (x % 65536) (y % 65536) (z % 65536) +
      65536 * half bf16 false (x / 65536) (y / 65536) (z / 65536))

/-- R295 `fma`. -/
def execVFma (d a b : BitVec 6) (r : BitVec 1) (t : BitVec 2) (p : BitVec 3) (s : State) : Host.Outcome State Fault Refusal :=
  let k := tyRegs t.toNat
  .next (s.laneOp p true (names3 d.toNat a.toNat b.toNat k) (fun s =>
    s.laneArith (srcs a.toNat k 1 ++ srcs b.toNat k 2 ++ srcs d.toNat k 3) (dests d.toNat k)
      (fmaWords t.toNat s.g.fmt (modeOf s.g.fmt (r = 1)))))

/-- R296: the shared form of `fmin` and `fmax`. A chosen word carries its residue, and the result's residue equals that of the
word either way. -/
def execFMinMax (isMax : Bool) (d a b : BitVec 6) (t : BitVec 2) (p : BitVec 3) (s : State) : State :=
  let k := tyRegs t.toNat
  s.laneOp p true (names3 d.toNat a.toNat b.toNat k) (fun s =>
    s.laneArith (srcs a.toNat k 1 ++ srcs b.toNat k 2) (dests d.toNat k)
      (byType t.toNat s.g.fmt (fun f _ ftz => minmaxF f ftz isMax)))

/-- R296 `fmin`. -/
def execVFmin (d a b : BitVec 6) (t : BitVec 2) (p : BitVec 3) (s : State) : Host.Outcome State Fault Refusal :=
  .next (execFMinMax false d a b t p s)
/-- R296 `fmax`. -/
def execVFmax (d a b : BitVec 6) (t : BitVec 2) (p : BitVec 3) (s : State) : Host.Outcome State Fault Refusal :=
  .next (execFMinMax true d a b t p s)

/-- R296: set sign bits of a word by `f` at bit 31, and at bit 15 of a packed word, with the predicted residue. -/
def signWord (both : Bool) (f : Bool → Bool) (w : Word) : BitVec 32 × BitVec 4 :=
  let b31 := w.data.getLsbD 31
  let b15 := w.data.getLsbD 15
  let up := fun (on b : Bool) => if on && !b && f b then 1 else 0
  let down := fun (on b : Bool) => if on && b && !f b then 1 else 0
  let flip := (if f b31 != b31 then (0x80000000#32) else 0) ||| (if both && f b15 != b15 then (0x8000#32) else 0)
  (w.data ^^^ flip, predSign w.res (up true b31 + up both b15) (down true b31 + down both b15))

/-- R296: sign operations by type: the high word of `.f64` changes, the low word is carried. -/
def signWords (t : Nat) (f : Bool → Bool) (ws : List Word) : List (BitVec 32 × BitVec 4) :=
  match t with
  | 0 => [signWord false f (nth ws 0)]
  | 1 => [(dat ws 0, rs ws 0), signWord false f (nth ws 1)]
  | _ => [signWord true f (nth ws 0)]

/-- The shared form of `fneg` and `fabs`. -/
def execFSign (f : Bool → Bool) (d a : BitVec 6) (t : BitVec 2) (p : BitVec 3) (s : State) : State :=
  let k := tyRegs t.toNat
  s.laneOp p true (names2 d.toNat a.toNat k) (fun s =>
    s.laneArith (srcs a.toNat k 1) (dests d.toNat k) (signWords t.toNat f))

/-- R296 `fneg`. -/
def execVFneg (d a : BitVec 6) (t : BitVec 2) (p : BitVec 3) (s : State) : Host.Outcome State Fault Refusal :=
  .next (execFSign (fun b => !b) d a t p s)
/-- R296 `fabs`. -/
def execVFabs (d a : BitVec 6) (t : BitVec 2) (p : BitVec 3) (s : State) : Host.Outcome State Fault Refusal :=
  .next (execFSign (fun _ => false) d a t p s)

/-- R297 `fcmp`: condition 7 is `fclass`'s code and no condition. -/
def execVFcmp (d : BitVec 3) (a b : BitVec 6) (c : BitVec 3) (t : BitVec 1) (p : BitVec 3) (s : State) :
    Host.Outcome State Fault Refusal :=
  let k := if t = 1 then 2 else 1
  .next (s.laneOp p (d != 7 && c != 7) ⟨[(a.toNat, k), (b.toNat, k)], []⟩
    (cmpLane d.toNat (srcs a.toNat k 1 ++ srcs b.toNat k 2) (fun ws =>
      if t = 1 then cmpF f64 false c.toNat (dat64 ws 0).toNat (dat64 ws 2).toNat
      else cmpF f32 (fmtFtz s.g.fmt) c.toNat (dat ws 0).toNat (dat ws 1).toNat)))

/-- R298 `fclass`. -/
def execVFclass (d a : BitVec 6) (t : BitVec 1) (p : BitVec 3) (s : State) : Host.Outcome State Fault Refusal :=
  let k := if t = 1 then 2 else 1
  .next (s.laneOp p true ⟨[(d.toNat, 1), (a.toNat, k)], []⟩ (fun s =>
    s.laneArith (srcs a.toNat k 1) [d.toNat] (fun ws =>
      genN (2 ^ (if t = 1 then classF f64 (dat64 ws 0).toNat else classF f32 (dat ws 0).toNat)))))

/-- R299 `fdiv`, for `.f32` and `.f64`. -/
def execVFdiv (d a b : BitVec 6) (t : BitVec 2) (p : BitVec 3) (s : State) : Host.Outcome State Fault Refusal :=
  let k := tyRegs t.toNat
  .next (s.laneOp p (t.toNat < 2) (names3 d.toNat a.toNat b.toNat k) (fun s =>
    s.laneArith (srcs a.toNat k 1 ++ srcs b.toNat k 2) (dests d.toNat k)
      (byType t.toNat s.g.fmt (fun f sat ftz => divF f (fmtRnd s.g.fmt) sat ftz))))

/-- R299 `fscale`: `vb` is one register, a signed integer. -/
def execVFscale (d a b : BitVec 6) (t : BitVec 2) (p : BitVec 3) (s : State) : Host.Outcome State Fault Refusal :=
  let k := tyRegs t.toNat
  .next (s.laneOp p (t.toNat < 2) ⟨[(d.toNat, k), (a.toNat, k), (b.toNat, 1)], []⟩ (fun s =>
    s.laneArith (srcs a.toNat k 1 ++ srcs b.toNat 1 2) (dests d.toNat k) (fun ws =>
      if t.toNat = 1 then gen64N (scaleF f64 (fmtRnd s.g.fmt) false (dat64 ws 0).toNat (dat ws 2).toInt)
      else genN (scaleF f32 (fmtRnd s.g.fmt) (fmtFtz s.g.fmt) (dat ws 0).toNat (dat ws 1).toInt))))

/-- R299 `frnd`: all four types, by the mode in the instruction. -/
def execVFrnd (d a : BitVec 6) (m t : BitVec 2) (p : BitVec 3) (s : State) : Host.Outcome State Fault Refusal :=
  let k := tyRegs t.toNat
  .next (s.laneOp p true (names2 d.toNat a.toNat k) (fun s =>
    s.laneArith (srcs a.toNat k 1) (dests d.toNat k) (fun ws =>
      byType t.toNat s.g.fmt (fun f _ ftz x _ => rndF f m.toNat ftz x) (if t.toNat = 1 then ws ++ ws else ws ++ ws))))

/-! ### Special functions: long-latency VR1 forms -/

/-- R300: the result words of a special function by type code. -/
def specialWords (fn t : Nat) (fmt : BitVec 32) (ws : List Word) : List Word :=
  let r := match t with
    | 0 => genN (specialF32 fn (fmtRnd fmt) (fmtFtz fmt) (dat ws 0).toNat)
    | 1 => gen64N (specialF64 fn (fmtRnd fmt) (dat64 ws 0).toNat)
    | 2 => genN (halves1 (specialHalf f16 fn (fmtRnd fmt) (fmtSat fmt) (fmtFtz fmt)) (dat ws 0).toNat)
    | _ => genN (halves1 (specialHalf bf16 fn (fmtRnd fmt) (fmtSat fmt) false) (dat ws 0).toNat)
  r.map (fun p => ⟨p.1, p.2⟩)

/-- One lane's result words: poison makes poison (R292). -/
def specialLane (fn t : Nat) (d a : Nat) (s : State) (l : Nat) : LaneRes :=
  let k := tyRegs t
  match s.srcWords l (srcs a k 1) with
  | .error e => .error e
  | .ok ws =>
    if ws.any Word.isPoison then .ok ⟨(dests d k).map (fun x => (x, Word.poison)), []⟩
    else .ok ⟨(dests d k).zip (specialWords fn t s.g.fmt ws), []⟩

/-- A result word as a datapath fault leaves it: its nibble no longer matches (R224, R231). -/
def spoil (w : Word) : Word := if w.isPoison then w else ⟨w.data, r15 (ri w.res + 1)⟩

/-- R300: the shared form of the special functions. The sources are read and checked at issue; results arrive later (R294).
A lane that fails a source check traps at issue and the others' results are still pending with it left out. -/
def execSpecial (fn : Nat) (d a : BitVec 6) (t : BitVec 2) (la : BitVec 4) (p : BitVec 3) (s : State) : State :=
  let k := tyRegs t.toNat
  let act := s.act p.toNat
  s.vGuarded act.lanes (t.toNat ≠ 1 || fn < 3) (names2 d.toNat a.toNat k) (fun s =>
    if psetSize s.g + k > 8 then s.hold .retry
    else
      let s0 := { s with glitch := 0 }
      let rs := s0.laneResults act (specialLane fn t.toNat d.toNat a.toNat s)
      let lanes := rs.filterMap (fun r => match r.2 with
        | .ok o => some { lane := r.1, off := 0, bytes := 4 * k, words := o.regs.map (fun w => ⟨0, 0, some (if bit s.glitch r.1 then spoil w.2 else w.2)⟩) : PendLane }
        | .error _ => none)
      match trapOf (failsOf rs) with
      | some tr => s0.trapPending tr (.lane d.toNat k) la.toNat true lanes
      | none => s0.openWindow (.lane d.toNat k) la.toNat true lanes)

/-- R300 `frcp`. -/
def execVFrcp (d a : BitVec 6) (t : BitVec 2) (l : BitVec 4) (p : BitVec 3) (s : State) : Host.Outcome State Fault Refusal :=
  .next (execSpecial 0 d a t l p s)
/-- R300 `frsq`. -/
def execVFrsq (d a : BitVec 6) (t : BitVec 2) (l : BitVec 4) (p : BitVec 3) (s : State) : Host.Outcome State Fault Refusal :=
  .next (execSpecial 1 d a t l p s)
/-- R300 `fsqrt`. -/
def execVFsqrt (d a : BitVec 6) (t : BitVec 2) (l : BitVec 4) (p : BitVec 3) (s : State) : Host.Outcome State Fault Refusal :=
  .next (execSpecial 2 d a t l p s)
/-- R300 `fex2`. -/
def execVFex2 (d a : BitVec 6) (t : BitVec 2) (l : BitVec 4) (p : BitVec 3) (s : State) : Host.Outcome State Fault Refusal :=
  .next (execSpecial 3 d a t l p s)
/-- R300 `flg2`. -/
def execVFlg2 (d a : BitVec 6) (t : BitVec 2) (l : BitVec 4) (p : BitVec 3) (s : State) : Host.Outcome State Fault Refusal :=
  .next (execSpecial 4 d a t l p s)
/-- R300 `fsin`. -/
def execVFsin (d a : BitVec 6) (t : BitVec 2) (l : BitVec 4) (p : BitVec 3) (s : State) : Host.Outcome State Fault Refusal :=
  .next (execSpecial 5 d a t l p s)
/-- R300 `fcos`. -/
def execVFcos (d a : BitVec 6) (t : BitVec 2) (l : BitVec 4) (p : BitVec 3) (s : State) : Host.Outcome State Fault Refusal :=
  .next (execSpecial 6 d a t l p s)

/-! ### Conversion -/

/-- R302: the wide float format of a type code 0–3 (4 and 5 for packed halves). -/
def cvtFmt (c : Nat) : FpFmt :=
  match c with
  | 0 => f32
  | 1 => f64
  | 2 => f16
  | 3 => bf16
  | 4 => f16
  | _ => bf16

/-- R302: does the type take a register pair? -/
def cvtWide (c : Nat) : Bool := c == 1 || c == 8 || c == 9

/-- R302: the legal pairs. -/
def cvtLegal (dt st : Nat) : Bool :=
  (dt < 4 && st < 4 && dt != st) || (dt == 4 && st == 5) || (dt == 5 && st == 4) ||
  (st == 0 && (dt == 4 || dt == 5)) || (dt == 0 && (st == 4 || st == 5)) ||
  (dt < 4 && 6 ≤ st && st ≤ 9) || (st < 4 && 6 ≤ dt && dt ≤ 9)

/-- Registers of the destination and source of a pair: a binary32 pair beside packed halves. -/
def cvtDRegs (dt st : Nat) : Nat := if cvtWide dt || (dt == 0 && (st == 4 || st == 5)) then 2 else 1
def cvtSRegs (dt st : Nat) : Nat := if cvtWide st || (st == 0 && (dt == 4 || dt == 5)) then 2 else 1

/-- Does `ftz` act on a format (R235)? -/
def ftzOn (c : Nat) (fmt : BitVec 32) : Bool := fmtFtz fmt && (c == 0 || c == 2 || c == 4)
/-- Does `satf` act on a destination (R303)? -/
def satOn (c : Nat) (fmt : BitVec 32) : Bool := fmtSat fmt && 2 ≤ c && c ≤ 5

/-- R303: float to float of one value. -/
def cvtVal (dt st mode : Nat) (fmt : BitVec 32) (x : Nat) : Nat :=
  cvtFF (cvtFmt st) (cvtFmt dt) mode (satOn dt fmt) (ftzOn st fmt) (ftzOn dt fmt) x

/-- An integer source by its type code 6–9. -/
def cvtIntOf (c : Nat) (ws : List Word) : Int :=
  match c with
  | 6 => (dat ws 0).toInt
  | 7 => (dat ws 0).toNat
  | 8 => (dat64 ws 0).toInt
  | _ => (dat64 ws 0).toNat

/-- R302, R303: the result words of a conversion. -/
def cvtWords (dt st mode : Nat) (fmt : BitVec 32) (ws : List Word) : List (BitVec 32 × BitVec 4) :=
  let one := fun (i : Nat) => if st = 1 then (dat64 ws 0).toNat else if st = 2 || st = 3 then (dat ws i).toNat % 65536 else (dat ws i).toNat
  let out := fun (x : Nat) => if cvtWide dt then gen64N x else genN x
  if 6 ≤ dt then
    let v := cvtFI (cvtFmt st) mode (ftzOn st fmt) (if cvtWide dt then 64 else 32) (dt % 2 == 0) (one 0)
    if cvtWide dt then gen64 (BitVec.ofInt 64 v) else [gen (BitVec.ofInt 32 v)]
  else if 6 ≤ st then out (cvtIF (cvtFmt dt) mode (satOn dt fmt) (ftzOn dt fmt) (cvtIntOf st ws))
  else if st ≥ 4 && dt ≥ 4 then genN (halves1 (cvtVal dt st mode fmt) (dat ws 0).toNat)
  else if dt ≥ 4 then genN (cvtVal dt 0 mode fmt (dat ws 0).toNat + 65536 * cvtVal dt 0 mode fmt (dat ws 1).toNat)
  else if st ≥ 4 then
    [gen (BitVec.ofNat 32 (cvtVal 0 st mode fmt ((dat ws 0).toNat % 65536))),
     gen (BitVec.ofNat 32 (cvtVal 0 st mode fmt ((dat ws 0).toNat / 65536)))]
  else out (cvtVal dt st mode fmt (one 0))

/-- R302, R303 `cvt`. -/
def execVCvt (d a : BitVec 6) (r : BitVec 1) (st dt : BitVec 4) (p : BitVec 3) (s : State) : Host.Outcome State Fault Refusal :=
  let kd := cvtDRegs dt.toNat st.toNat
  let ka := cvtSRegs dt.toNat st.toNat
  .next (s.laneOp p (cvtLegal dt.toNat st.toNat) ⟨[(d.toNat, kd), (a.toNat, ka)], []⟩ (fun s =>
    s.laneArith (srcs a.toNat ka 1) (dests d.toNat kd) (cvtWords dt.toNat st.toNat (modeOf s.g.fmt (r = 1)) s.g.fmt)))

/-- R304: the format code names an element with position k. -/
def cvtnLegal (code k : Nat) : Bool :=
  3 ≤ code && code ≤ 12 && (match elemOf code with | some e => k < 32 / elemBits e | none => false)

/-- R304 `cvtn.pk`: element k of the old word replaced. -/
def packElem (code k mode : Nat) (fmt : BitVec 32) (ws : List Word) : List (BitVec 32 × BitVec 4) :=
  match elemOf code with
  | none => []
  | some e =>
    let ftz := fmtFtz fmt
    let v := mulV (unpackF f32 ftz (dat ws 0).toNat) (unpackF f32 ftz (dat ws 1).toNat)
    let w := elemBits e
    let x := (convElem e mode (fmtSat fmt) v).bits % 2 ^ w
    let old := fieldOf w k (dat ws 2)
    [((dat ws 2) - BitVec.ofNat 32 (old * 2 ^ (w * k)) + BitVec.ofNat 32 (x * 2 ^ (w * k)), predReplace (rs ws 2) old x)]

/-- R304 `cvtn.pk`. -/
def execVCvtnPk (d a b : BitVec 6) (k p : BitVec 3) (s : State) : Host.Outcome State Fault Refusal :=
  let code := field s.g.fmt.toNat 8 4
  .next (s.laneOp p (cvtnLegal code k.toNat) (names3 d.toNat a.toNat b.toNat 1) (fun s =>
    s.laneArith [⟨a.toNat, 1⟩, ⟨b.toNat, 2⟩, ⟨d.toNat, 3⟩] [d.toNat] (packElem code k.toNat (fmtRnd s.g.fmt) s.g.fmt)))

/-- R304 `cvtn.unpk`: element k times the scale, rounded once. -/
def unpackElem (code k mode : Nat) (fmt : BitVec 32) (ws : List Word) : List (BitVec 32 × BitVec 4) :=
  match elemOf code with
  | none => []
  | some e =>
    let ftz := fmtFtz fmt
    let v := decodeElem e (fieldOf (elemBits e) k (dat ws 0))
    genN (packV f32 mode false ftz (mulV v (unpackF f32 ftz (dat ws 1).toNat)))

/-- R304 `cvtn.unpk`. -/
def execVCvtnUnpk (d a b : BitVec 6) (k p : BitVec 3) (s : State) : Host.Outcome State Fault Refusal :=
  let code := field s.g.fmt.toNat 0 4
  .next (s.laneOp p (cvtnLegal code k.toNat) (names3 d.toNat a.toNat b.toNat 1) (fun s =>
    s.laneArith [⟨a.toNat, 1⟩, ⟨b.toNat, 2⟩] [d.toNat] (unpackElem code k.toNat (fmtRnd s.g.fmt) s.g.fmt)))

/-- R305: a widening field move. -/
def cvtwWiden (w k : Nat) (sgn : Bool) (ws : List Word) : List (BitVec 32 × BitVec 4) :=
  let x := fieldOf w k (dat ws 0)
  [gen (if sgn then BitVec.ofInt 32 (twos w x) else BitVec.ofNat 32 x)]

/-- R305: a narrowing field move into the old word (source 2), clamped. -/
def cvtwNarrow (w k : Nat) (sgn : Bool) (ws : List Word) : List (BitVec 32 × BitVec 4) :=
  let x : Nat := if sgn then ((max (-(2 ^ (w - 1) : Nat) : Int) (min ((2 ^ (w - 1) : Nat) - 1) (dat ws 0).toInt)) % (2 ^ w : Nat)).toNat
    else min (dat ws 0).toNat (2 ^ w - 1)
  let old := fieldOf w k (dat ws 1)
  [((dat ws 1) - BitVec.ofNat 32 (old * 2 ^ (w * k)) + BitVec.ofNat 32 (x * 2 ^ (w * k)), predReplace (rs ws 1) old x)]

/-- R305 `cvtw`. -/
def execVCvtw (d a : BitVec 6) (w n sg : BitVec 1) (k : BitVec 2) (p : BitVec 3) (s : State) : Host.Outcome State Fault Refusal :=
  let bits := if w = 1 then 16 else 8
  .next (s.laneOp p (w = 0 || k.toNat < 2) (names2 d.toNat a.toNat 1) (fun s =>
    if n = 1 then s.laneArith [⟨a.toNat, 1⟩, ⟨d.toNat, 3⟩] [d.toNat] (cvtwNarrow bits k.toNat (sg = 1))
    else s.laneArith [⟨a.toNat, 1⟩] [d.toNat] (cvtwWiden bits k.toNat (sg = 1))))

end Sys2Proof.Machine
end

