-- ==== Sys2Proof/Machine/Dispatch.lean ====
section
/-! DEFINITION. The meaning of every instruction and hardware step: one arm per constructor. -/

namespace Sys2Proof.Machine

/-- One instruction or hardware step. -/
def exec (i : Instr) (s : State) : Host.Outcome State Fault Refusal :=
  match i with
  | .vAdd d a b t p => Sys2Proof.Machine.execVAdd d a b t p s
  | .vSub d a b t p => Sys2Proof.Machine.execVSub d a b t p s
  | .vAddx d a b p => Sys2Proof.Machine.execVAddx d a b p s
  | .vSubx d a b p => Sys2Proof.Machine.execVSubx d a b p s
  | .vMul d a b t p => Sys2Proof.Machine.execVMul d a b t p s
  | .vMulh d a b s0 p => Sys2Proof.Machine.execVMulh d a b s0 p s
  | .vMad d a b p => Sys2Proof.Machine.execVMad d a b p s
  | .vMadw d a b s0 p => Sys2Proof.Machine.execVMadw d a b s0 p s
  | .vSad d a b s0 p => Sys2Proof.Machine.execVSad d a b s0 p s
  | .vAbs d a p => Sys2Proof.Machine.execVAbs d a p s
  | .vNegI32 d a p => Sys2Proof.Machine.execVNegI32 d a p s
  | .vNegI64 d a p => Sys2Proof.Machine.execVNegI64 d a p s
  | .vBfxN32 d a b p => Sys2Proof.Machine.execVBfxN32 d a b p s
  | .vBfxI32 d a b p => Sys2Proof.Machine.execVBfxI32 d a b p s
  | .vBfi d a b p => Sys2Proof.Machine.execVBfi d a b p s
  | .vBpick d a b p => Sys2Proof.Machine.execVBpick d a b p s
  | .vMovB32 d a p => Sys2Proof.Machine.execVMovB32 d a p s
  | .vMovB64 d a p => Sys2Proof.Machine.execVMovB64 d a p s
  | .vMin d a b w s0 p => Sys2Proof.Machine.execVMin d a b w s0 p s
  | .vMax d a b w s0 p => Sys2Proof.Machine.execVMax d a b w s0 p s
  | .vAnd d a b p => Sys2Proof.Machine.execVAnd d a b p s
  | .vOr d a b p => Sys2Proof.Machine.execVOr d a b p s
  | .vXor d a b p => Sys2Proof.Machine.execVXor d a b p s
  | .vAndn d a b p => Sys2Proof.Machine.execVAndn d a b p s
  | .vShl d a b p => Sys2Proof.Machine.execVShl d a b p s
  | .vShr d a b p => Sys2Proof.Machine.execVShr d a b p s
  | .vSar d a b p => Sys2Proof.Machine.execVSar d a b p s
  | .vRot d a b p => Sys2Proof.Machine.execVRot d a b p s
  | .vShf d a b p => Sys2Proof.Machine.execVShf d a b p s
  | .vClz d a p => Sys2Proof.Machine.execVClz d a p s
  | .vPopc d a p => Sys2Proof.Machine.execVPopc d a p s
  | .vBrev d a p => Sys2Proof.Machine.execVBrev d a p s
  | .vSel d a b w n p => Sys2Proof.Machine.execVSel d a b w n p s
  | .vCmp d a b w c p => Sys2Proof.Machine.execVCmp d a b w c p s
  | .vPset d a b t p => Sys2Proof.Machine.execVPset d a b t p s
  | .vAddi d a n p => Sys2Proof.Machine.execVAddi d a n p s
  | .vAndi d a n p => Sys2Proof.Machine.execVAndi d a n p s
  | .vOri d a n p => Sys2Proof.Machine.execVOri d a n p s
  | .vXori d a n p => Sys2Proof.Machine.execVXori d a n p s
  | .vShli d a k p => Sys2Proof.Machine.execVShli d a k p s
  | .vShri d a k p => Sys2Proof.Machine.execVShri d a k p s
  | .vCmpi d a c n p => Sys2Proof.Machine.execVCmpi d a c n p s
  | .vMovi d n p => Sys2Proof.Machine.execVMovi d n p s
  | .vMovl d n p => Sys2Proof.Machine.execVMovl d n p s
  | .vMovh d n p => Sys2Proof.Machine.execVMovh d n p s
  | .vFadd d a b r t p => Sys2Proof.Machine.execVFadd d a b r t p s
  | .vFsub d a b r t p => Sys2Proof.Machine.execVFsub d a b r t p s
  | .vFmul d a b r t p => Sys2Proof.Machine.execVFmul d a b r t p s
  | .vFma d a b r t p => Sys2Proof.Machine.execVFma d a b r t p s
  | .vFmin d a b t p => Sys2Proof.Machine.execVFmin d a b t p s
  | .vFmax d a b t p => Sys2Proof.Machine.execVFmax d a b t p s
  | .vFneg d a t p => Sys2Proof.Machine.execVFneg d a t p s
  | .vFabs d a t p => Sys2Proof.Machine.execVFabs d a t p s
  | .vFcmp d a b c t p => Sys2Proof.Machine.execVFcmp d a b c t p s
  | .vFclass d a t p => Sys2Proof.Machine.execVFclass d a t p s
  | .vFrcp d a t l p => Sys2Proof.Machine.execVFrcp d a t l p s
  | .vFrsq d a t l p => Sys2Proof.Machine.execVFrsq d a t l p s
  | .vFsqrt d a t l p => Sys2Proof.Machine.execVFsqrt d a t l p s
  | .vFex2 d a t l p => Sys2Proof.Machine.execVFex2 d a t l p s
  | .vFlg2 d a t l p => Sys2Proof.Machine.execVFlg2 d a t l p s
  | .vFsin d a t l p => Sys2Proof.Machine.execVFsin d a t l p s
  | .vFcos d a t l p => Sys2Proof.Machine.execVFcos d a t l p s
  | .vFdiv d a b t p => Sys2Proof.Machine.execVFdiv d a b t p s
  | .vFscale d a b t p => Sys2Proof.Machine.execVFscale d a b t p s
  | .vFrnd d a m t p => Sys2Proof.Machine.execVFrnd d a m t p s
  | .vCvt d a r s0 t p => Sys2Proof.Machine.execVCvt d a r s0 t p s
  | .vCvtnPk d a b k p => Sys2Proof.Machine.execVCvtnPk d a b k p s
  | .vCvtnUnpk d a b k p => Sys2Proof.Machine.execVCvtnUnpk d a b k p s
  | .vCvtw d a w n s0 k p => Sys2Proof.Machine.execVCvtw d a w n s0 k p s
  | .vLxch d a b m p => Sys2Proof.Machine.execVLxch d a b m p s
  | .vPoll d a m p => Sys2Proof.Machine.execVPoll d a m p s
  | .vLfold d a f p => Sys2Proof.Machine.execVLfold d a f p s
  | .vLd s0 t a b l p => Sys2Proof.Machine.execVLd s0 t a b l p s
  | .vSt t a b z p => Sys2Proof.Machine.execVSt t a b z p s
  | .vCpy t a b p => Sys2Proof.Machine.execVCpy t a b p s
  | .vAtom t a s0 o k p => Sys2Proof.Machine.execVAtom t a s0 o k p s
  | .vRed t a s0 o k p => Sys2Proof.Machine.execVRed t a s0 o k p s
  | .vPrefL1 a b p => Sys2Proof.Machine.execVPrefL1 a b p s
  | .vPrefL2 a b p => Sys2Proof.Machine.execVPrefL2 a b p s
  | .vDisc a b p => Sys2Proof.Machine.execVDisc a b p s
  | .vLds t a z o l p => Sys2Proof.Machine.execVLds t a z o l p s
  | .vLdcl t a z o l p => Sys2Proof.Machine.execVLdcl t a z o l p s
  | .vSts t a o z p => Sys2Proof.Machine.execVSts t a o z p s
  | .vStcl t a o z p => Sys2Proof.Machine.execVStcl t a o z p s
  | .vBd c t j => Sys2Proof.Machine.execVBd c t j s
  | .vBu c d => Sys2Proof.Machine.execVBu c d s
  | .vJmpi a t j => Sys2Proof.Machine.execVJmpi a t j s
  | .vCalli a t s0 => Sys2Proof.Machine.execVCalli a t s0 s
  | .vPad t => Sys2Proof.Machine.execVPad t s
  | .vExit p => Sys2Proof.Machine.execVExit p s
  | .vMma a b c r k => Sys2Proof.Machine.execVMma a b c r k s
  | .vMzero c k => Sys2Proof.Machine.execVMzero c k s
  | .vMld b c r k => Sys2Proof.Machine.execVMld b c r k s
  | .vMst b c r k => Sys2Proof.Machine.execVMst b c r k s
  | .vMdrain a b c z k => Sys2Proof.Machine.execVMdrain a b c z k s
  | .vTcheck t a b p => Sys2Proof.Machine.execVTcheck t a b p s
  | .vChsend a c p => Sys2Proof.Machine.execVChsend a c p s
  | .vChrecv d c p => Sys2Proof.Machine.execVChrecv d c p s
  | .vRchk a n p => Sys2Proof.Machine.execVRchk a n p s
  | .vRpois d w p => Sys2Proof.Machine.execVRpois d w p s
  | .vRtst d a w p => Sys2Proof.Machine.execVRtst d a w p s
  | .vRgen d a w p => Sys2Proof.Machine.execVRgen d a w p s
  | .sAdd d a b t g => Sys2Proof.Machine.execSAdd d a b t g s
  | .sSub d a b t g => Sys2Proof.Machine.execSSub d a b t g s
  | .sMul d a b t g => Sys2Proof.Machine.execSMul d a b t g s
  | .sMulh d a b s0 g => Sys2Proof.Machine.execSMulh d a b s0 g s
  | .sAnd d a b g => Sys2Proof.Machine.execSAnd d a b g s
  | .sOr d a b g => Sys2Proof.Machine.execSOr d a b g s
  | .sXor d a b g => Sys2Proof.Machine.execSXor d a b g s
  | .sAndn d a b g => Sys2Proof.Machine.execSAndn d a b g s
  | .sShl d a b g => Sys2Proof.Machine.execSShl d a b g s
  | .sShr d a b g => Sys2Proof.Machine.execSShr d a b g s
  | .sSar d a b g => Sys2Proof.Machine.execSSar d a b g s
  | .sMin d a b w s0 g => Sys2Proof.Machine.execSMin d a b w s0 g s
  | .sMax d a b w s0 g => Sys2Proof.Machine.execSMax d a b w s0 g s
  | .sCmp d a b w c g => Sys2Proof.Machine.execSCmp d a b w c g s
  | .sSel d a b w n g => Sys2Proof.Machine.execSSel d a b w n g s
  | .sMov d a w g => Sys2Proof.Machine.execSMov d a w g s
  | .sQset d a b t g => Sys2Proof.Machine.execSQset d a b t g s
  | .sAddi d a n g => Sys2Proof.Machine.execSAddi d a n g s
  | .sAndi d a n g => Sys2Proof.Machine.execSAndi d a n g s
  | .sOri d a n g => Sys2Proof.Machine.execSOri d a n g s
  | .sXori d a n g => Sys2Proof.Machine.execSXori d a n g s
  | .sShli d a k g => Sys2Proof.Machine.execSShli d a k g s
  | .sShri d a k g => Sys2Proof.Machine.execSShri d a k g s
  | .sCmpi d a c n g => Sys2Proof.Machine.execSCmpi d a c n g s
  | .sMovi d n g => Sys2Proof.Machine.execSMovi d n g s
  | .sMovl d n g => Sys2Proof.Machine.execSMovl d n g s
  | .sMovh d n g => Sys2Proof.Machine.execSMovh d n g s
  | .sSld t a z o l g => Sys2Proof.Machine.execSSld t a z o l g s
  | .sSst t a o z g => Sys2Proof.Machine.execSSst t a o z g s
  | .sSatom t a s0 o k g => Sys2Proof.Machine.execSSatom t a s0 o k g s
  | .sB d g => Sys2Proof.Machine.execSB d g s
  | .sCall s0 d g => Sys2Proof.Machine.execSCall s0 d g s
  | .sCallu a s0 g => Sys2Proof.Machine.execSCallu a s0 g s
  | .sRet g => Sys2Proof.Machine.execSRet g s
  | .sJmpu a g => Sys2Proof.Machine.execSJmpu a g s
  | .sEnter n g => Sys2Proof.Machine.execSEnter n g s
  | .sLoop a e g => Sys2Proof.Machine.execSLoop a e g s
  | .sLbrk g => Sys2Proof.Machine.execSLbrk g s
  | .sNop g => Sys2Proof.Machine.execSNop g s
  | .sSleep n g => Sys2Proof.Machine.execSSleep n g s
  | .sBar b g => Sys2Proof.Machine.execSBar b g s
  | .sArv b g => Sys2Proof.Machine.execSArv b g s
  | .sAwt b g => Sys2Proof.Machine.execSAwt b g s
  | .sGbar g => Sys2Proof.Machine.execSGbar g s
  | .sFence s0 o g => Sys2Proof.Machine.execSFence s0 o g s
  | .sWaitv d a b w c g => Sys2Proof.Machine.execSWaitv d a b w c g s
  | .sCseal d g => Sys2Proof.Machine.execSCseal d g s
  | .sCwait n g => Sys2Proof.Machine.execSCwait n g s
  | .sCyield d g => Sys2Proof.Machine.execSCyield d g s
  | .sMwait l k g => Sys2Proof.Machine.execSMwait l k g s
  | .sRds d a v g => Sys2Proof.Machine.execSRds d a v g s
  | .sWrs a b g => Sys2Proof.Machine.execSWrs a b g s
  | .sSetfmt a g => Sys2Proof.Machine.execSSetfmt a g s
  | .sSetfmtImm d a b n g => Sys2Proof.Machine.execSSetfmtImm d a b n g s
  | .sWrexec a g => Sys2Proof.Machine.execSWrexec a g s
  | .sWrexecP n g => Sys2Proof.Machine.execSWrexecP n g s
  | .sLaunch d a g => Sys2Proof.Machine.execSLaunch d a g s
  | .sLwait g => Sys2Proof.Machine.execSLwait g s
  | .sLwaitGrid a g => Sys2Proof.Machine.execSLwaitGrid a g s
  | .sKemit g => Sys2Proof.Machine.execSKemit g s
  | .sKcancel g => Sys2Proof.Machine.execSKcancel g s
  | .sKrepeat g => Sys2Proof.Machine.execSKrepeat g s
  | .sKdone g => Sys2Proof.Machine.execSKdone g s
  | .sSys n g => Sys2Proof.Machine.execSSys n g s
  | .sHcall g => Sys2Proof.Machine.execSHcall g s
  | .sTret g => Sys2Proof.Machine.execSTret g s
  | .sTlbiVa a b g => Sys2Proof.Machine.execSTlbiVa a b g s
  | .sTlbiCtx b g => Sys2Proof.Machine.execSTlbiCtx b g s
  | .sTlbiGlob b g => Sys2Proof.Machine.execSTlbiGlob b g s
  | .sTlbiIpa a b g => Sys2Proof.Machine.execSTlbiIpa a b g s
  | .sTlbiS2 b g => Sys2Proof.Machine.execSTlbiS2 b g s
  | .sTlbiAll g => Sys2Proof.Machine.execSTlbiAll g s
  | .sKeyret a g => Sys2Proof.Machine.execSKeyret a g s
  | .sExit g => Sys2Proof.Machine.execSExit g s
  | .loadReturn r id => Sys2Proof.Machine.execLoadReturn r id s
  | .vr1Result r id => Sys2Proof.Machine.execVr1Result r id s
  | .stackRd x => Sys2Proof.Machine.execStackRd x s
  | .stackWr x => Sys2Proof.Machine.execStackWr x s
  | .stackWrm x => Sys2Proof.Machine.execStackWrm x s
  | .stackReadReply x => Sys2Proof.Machine.execStackReadReply x s
  | .stackWriteAck x => Sys2Proof.Machine.execStackWriteAck x s
  | .patrolScrub line => Sys2Proof.Machine.execPatrolScrub line s
  | .rowRepair die slice row => Sys2Proof.Machine.execRowRepair die slice row s
  | .lineRead p => Sys2Proof.Machine.execLineRead p s
  | .wordRead p => Sys2Proof.Machine.execWordRead p s
  | .prefL2 p => Sys2Proof.Machine.execPrefL2 p s
  | .forwardRead p => Sys2Proof.Machine.execForwardRead p s
  | .write p => Sys2Proof.Machine.execWrite p s
  | .maskedWrite p => Sys2Proof.Machine.execMaskedWrite p s
  | .writeback p => Sys2Proof.Machine.execWriteback p s
  | .atomic p => Sys2Proof.Machine.execAtomic p s
  | .discard p => Sys2Proof.Machine.execDiscard p s
  | .readData p => Sys2Proof.Machine.execReadData p s
  | .forwardData p => Sys2Proof.Machine.execForwardData p s
  | .grant p => Sys2Proof.Machine.execGrant p s
  | .atomicResult p => Sys2Proof.Machine.execAtomicResult p s
  | .partialData p => Sys2Proof.Machine.execPartialData p s
  | .writeAck p => Sys2Proof.Machine.execWriteAck p s
  | .cleanAck p => Sys2Proof.Machine.execCleanAck p s
  | .routeLost p => Sys2Proof.Machine.execRouteLost p s
  | .refused p => Sys2Proof.Machine.execRefused p s
  | .done p => Sys2Proof.Machine.execDone p s
  | .register p => Sys2Proof.Machine.execRegister p s
  | .revoke p => Sys2Proof.Machine.execRevoke p s
  | .partialReq p => Sys2Proof.Machine.execPartialReq p s
  | .copyRead p => Sys2Proof.Machine.execCopyRead p s
  | .copyWrite p => Sys2Proof.Machine.execCopyWrite p s
  | .copyMwrite p => Sys2Proof.Machine.execCopyMwrite p s
  | .slot p => Sys2Proof.Machine.execSlot p s
  | .credit p => Sys2Proof.Machine.execCredit p s
  | .statusRead p => Sys2Proof.Machine.execStatusRead p s
  | .statusData p => Sys2Proof.Machine.execStatusData p s
  | .record p => Sys2Proof.Machine.execRecord p s
  | .control p => Sys2Proof.Machine.execControl p s
  | .report p => Sys2Proof.Machine.execReport p s
  | .flitCrcFail link => Sys2Proof.Machine.execFlitCrcFail link s
  | .linkRetrain link => Sys2Proof.Machine.execLinkRetrain link s
  | .linkRetrainDone link badLanes => Sys2Proof.Machine.execLinkRetrainDone link badLanes s
  | .routingRewrite lost => Sys2Proof.Machine.execRoutingRewrite lost s
  | .routingResume => Sys2Proof.Machine.execRoutingResume s
  | .frameDrop f => Sys2Proof.Machine.execFrameDrop f s
  | .arp f => Sys2Proof.Machine.execArp f s
  | .neighborDiscovery f => Sys2Proof.Machine.execNeighborDiscovery f s
  | .nextHopExpiry port addr => Sys2Proof.Machine.execNextHopExpiry port addr s
  | .portLinkDown port up => Sys2Proof.Machine.execPortLinkDown port up s
  | .pathRebind port => Sys2Proof.Machine.execPathRebind port s
  | .portRetire port => Sys2Proof.Machine.execPortRetire port s
  | .thtWrite f => Sys2Proof.Machine.execThtWrite f s
  | .thtRead f => Sys2Proof.Machine.execThtRead f s
  | .thtReadResp f => Sys2Proof.Machine.execThtReadResp f s
  | .thtAtomic f => Sys2Proof.Machine.execThtAtomic f s
  | .thtAtomicResp f => Sys2Proof.Machine.execThtAtomicResp f s
  | .thtNotify f => Sys2Proof.Machine.execThtNotify f s
  | .thtMgmt f => Sys2Proof.Machine.execThtMgmt f s
  | .thtMgmtResp f => Sys2Proof.Machine.execThtMgmtResp f s
  | .thtAck f => Sys2Proof.Machine.execThtAck f s
  | .thtNak f => Sys2Proof.Machine.execThtNak f s
  | .thtAckTimer path => Sys2Proof.Machine.execThtAckTimer path s
  | .thtRetransmitTimeout path => Sys2Proof.Machine.execThtRetransmitTimeout path s
  | .thtRateIncrease path => Sys2Proof.Machine.execThtRateIncrease path s
  | .peritDataFrame f => Sys2Proof.Machine.execPeritDataFrame f s
  | .peritAckFrame f => Sys2Proof.Machine.execPeritAckFrame f s
  | .peritNakFrame f => Sys2Proof.Machine.execPeritNakFrame f s
  | .peritTimeout dev => Sys2Proof.Machine.execPeritTimeout dev s
  | .invRead m => Sys2Proof.Machine.execInvRead m s
  | .partSet m => Sys2Proof.Machine.execPartSet m s
  | .partStatus m => Sys2Proof.Machine.execPartStatus m s
  | .drain m => Sys2Proof.Machine.execDrain m s
  | .undrain m => Sys2Proof.Machine.execUndrain m s
  | .pathSet m => Sys2Proof.Machine.execPathSet m s
  | .windowSet m => Sys2Proof.Machine.execWindowSet m s
  | .handleExport m => Sys2Proof.Machine.execHandleExport m s
  | .handleRevoke m => Sys2Proof.Machine.execHandleRevoke m s
  | .keyGen m => Sys2Proof.Machine.execKeyGen m s
  | .keyZero m => Sys2Proof.Machine.execKeyZero m s
  | .fwStage m => Sys2Proof.Machine.execFwStage m s
  | .fwActivate m => Sys2Proof.Machine.execFwActivate m s
  | .attest m => Sys2Proof.Machine.execAttest m s
  | .powerCap m => Sys2Proof.Machine.execPowerCap m s
  | .portSet m => Sys2Proof.Machine.execPortSet m s
  | .peerSet m => Sys2Proof.Machine.execPeerSet m s
  | .path0Sync m => Sys2Proof.Machine.execPath0Sync m s
  | .inventorySnapshot => Sys2Proof.Machine.execInventorySnapshot s
  | .cinderDescriptorRead => Sys2Proof.Machine.execCinderDescriptorRead s
  | .powerMeasure watts => Sys2Proof.Machine.execPowerMeasure watts s
  | .clockStep => Sys2Proof.Machine.execClockStep s
  | .droopStretch die cluster => Sys2Proof.Machine.execDroopStretch die cluster s
  | .coreRetire die core => Sys2Proof.Machine.execCoreRetire die core s
  | .dieFence die => Sys2Proof.Machine.execDieFence die s
  | .checkpointRecovery => Sys2Proof.Machine.execCheckpointRecovery s
  | .hubFailure => Sys2Proof.Machine.execHubFailure s
  | .packageReset => Sys2Proof.Machine.execPackageReset s
  | .slotRead q => Sys2Proof.Machine.execSlotRead q s
  | .slotRereadTimer q => Sys2Proof.Machine.execSlotRereadTimer q s
  | .mirrorWrite q => Sys2Proof.Machine.execMirrorWrite q s
  | .launch q => Sys2Proof.Machine.execLaunch q s
  | .eventSignal q => Sys2Proof.Machine.execEventSignal q s
  | .eventWait q => Sys2Proof.Machine.execEventWait q s
  | .eventReread q => Sys2Proof.Machine.execEventReread q s
  | .copy q => Sys2Proof.Machine.execCopy q s
  | .fence q => Sys2Proof.Machine.execFence q s
  | .nop q => Sys2Proof.Machine.execNop q s
  | .kilnRunStart k => Sys2Proof.Machine.execKilnRunStart k s
  | .prologueBudgetExceeded k => Sys2Proof.Machine.execPrologueBudgetExceeded k s
  | .teamPlace die => Sys2Proof.Machine.execTeamPlace die s
  | .queueStarvation q => Sys2Proof.Machine.execQueueStarvation q s
  | .candidatePin die => Sys2Proof.Machine.execCandidatePin die s
  | .teamRetire die core slot => Sys2Proof.Machine.execTeamRetire die core slot s
  | .preemptTrigger die => Sys2Proof.Machine.execPreemptTrigger die s
  | .preemptSave die core slot => Sys2Proof.Machine.execPreemptSave die core slot s
  | .teamRestore die => Sys2Proof.Machine.execTeamRestore die s
  | .childSwapOut die => Sys2Proof.Machine.execChildSwapOut die s
  | .groupRaised r => Sys2Proof.Machine.execGroupRaised r s
  | .sleepExpiry r => Sys2Proof.Machine.execSleepExpiry r s
  | .waitvReread r => Sys2Proof.Machine.execWaitvReread r s
  | .mmaPassGrant die cluster => Sys2Proof.Machine.execMmaPassGrant die cluster s
  | .matrixJobFinish die cluster job => Sys2Proof.Machine.execMatrixJobFinish die cluster job s
  | .copyJobStart die cluster ch => Sys2Proof.Machine.execCopyJobStart die cluster ch s
  | .copyJobFinish die cluster ch => Sys2Proof.Machine.execCopyJobFinish die cluster ch s
  | .l1Eviction core tag => Sys2Proof.Machine.execL1Eviction core tag s
  | .cachePowerGate isL2 die unit => Sys2Proof.Machine.execCachePowerGate isL2 die unit s
  | .unassignedEncoding w => Sys2Proof.Machine.execUnassignedEncoding w s
  | .frontEndPowerGating => Sys2Proof.Machine.execFrontEndPowerGating s
  | .frontEndUngating => Sys2Proof.Machine.execFrontEndUngating s
  | .supplySagEnd die cluster => Sys2Proof.Machine.execSupplySagEnd die cluster s
  | .hubSlotRotation => Sys2Proof.Machine.execHubSlotRotation s
  | .peritAckTimer dev => Sys2Proof.Machine.execPeritAckTimer dev s

end Sys2Proof.Machine
end

