-- ==== Sys2Proof/Machine/Sched.lean ====
section
/-! DEFINITION. What happens next: which group may issue (R110–R112), how an issue proceeds from the fetch to the instruction's
meaning, how a packet in flight is delivered, and what follows when the environment's choices name nothing. -/

namespace Sys2Proof.Machine

/-! ### Readiness (R110) -/

/-- Has what the focused group waits for come? A wait that only another step ends is not listed: it stays. -/
def State.waitOver (s : State) : Bool :=
  let g := s.g
  match g.wait with
  | .none => true
  | .release => releaseReady g
  | .fence again => again
  | .mwait k all => toksDone g k all
  | .cwait n => unfinished g ≤ n
  | .cyield _ => unfinished g == 0
  | .lwait none => (s.children (some g.idx)).isEmpty
  | .lwait (some x) => !(s.children none).contains x
  | .chsend c => (match s.channel c with
    | some e => ((s.endpoint c).sent - (s.endpoint c).received).toNat < e.2.2.2 && (s.teamOfGrid e.2.1).isSome
    | none => true)
  | .chrecv c => (s.endpoint c).received != (s.endpoint c).sent
  | .mpost _ => !tableFull (s.cluster (s.clusterOf s.core)) && s.firstPoster
  | _ => false

/-- Has a group issued a release, a fence or a `tlbi` that goes on when what it waits for has been performed, after a sample too (R115)? -/
def atFence : Wait → Bool
  | .release => true
  | .fence _ => true
  | _ => false

/-- Does the waiting instruction go on when the wait ends, without being fetched and issued again (R118)? -/
def resumes : Wait → Bool
  | .lwait _ => true
  | .mwait _ _ => true
  | .cwait _ => true
  | .cyield _ => true
  | .chsend _ => true
  | .chrecv _ => true
  | w => atFence w

/-- R110, R132, R134, R89: may the focused group issue? -/
def State.canIssue (s : State) : Bool :=
  let g := s.g
  (if s.onKiln then g.count < 65536 else s.tm.released && (!s.tm.sampled || atFence g.wait) && !s.tm.aborted) &&
  !g.halted && !g.exited && g.pset.all (fun p => p.left > 0) && !(g.drain && !g.pset.isEmpty) && s.waitOver

/-- The focus with a group brought in, when it exists. -/
def State.focusAt (s : State) (f : Focus) : Option State :=
  if s.focus = f then (if f = .none then none else some s)
  else match f with
    | .none => none
    | .group r => s.unfocus.focusOn r
    | .kiln k => s.unfocus.focusKiln k

/-! ### Issue -/

/-- A scheduler's pipe on its core: the V pipe, or the S pipe for an instruction word of the S-set (R110, R249). -/
def pipeKey (sched : Nat) (word : BitVec 32) : Nat := sched * 2 + if word.getLsbD 31 then 1 else 0

/-- R111, R112: the scheduler remembers the group it issued last and when, per pipe; the group's starvation counter clears and it is no
longer raised. The word issued is kept for a wait (R118). A Kiln engine has no scheduler. -/
def State.noteIssue (s : State) (word : BitVec 32) : State :=
  if s.onKiln then { s with g := { s.g with waitI := word } }
  else
    let k := pipeKey s.g.sched word
    { s with
      g := { s.g with starve := 0, raised := none, issuedAt := some s.ck, waitI := word }
      cores := tmod s.cores s.core (Core.initial (s.core % 64)) (fun c =>
        { c with last := tins c.last k (s.tm.slot * 32 + s.g.idx), lastCk := tins c.lastCk k s.ck }) }

/-- An issue that met a busy resource has not taken place: the group and its scheduler stand as before it (R110). -/
def State.unissue (s0 s1 : State) : State :=
  { s1 with
    g := { s1.g with starve := s0.g.starve, raised := s0.g.raised, issuedAt := s0.g.issuedAt }
    cores := tmod s1.cores s0.core (Core.initial (s0.core % 64)) (fun c => { c with last := (s0.coreAt s0.core).last, lastCk := (s0.coreAt s0.core).lastCk }) }

/-- Did the instruction stop for a resource that was busy? -/
def busyWait (g : Group) : Bool := match g.wait with | .retry => true | .mpost _ => true | _ => false

/-- The outcome of an issue of the focused group, from the state before it. -/
def State.issued (s0 : State) : Host.Outcome State Fault Refusal → Host.Outcome State Fault Refusal
  | .next s1 => .next (if !s0.onKiln && s1.focus = s0.focus && busyWait s1.g then s0.unissue s1 else s1)
  | o => o

/-- The focused group's next word is fetched and, when it is good, decoded and executed (R110, R150, R223, R250, R259). -/
def State.fetchExec (s : State) : Host.Outcome State Fault Refusal :=
  match s.fetchAt s.g.pc.toNat with
  | (s1, .error f) => .next (s1.raise (fetchTrap f s.g.pc.toNat s.baseLanes s.baseLanes))
  | (s1, .ok w) =>
    if w.isPoison || !w.checks then .next (s1.raise (fetchResidue s.baseLanes s.baseLanes))
    else match decode w.data with
      | .ok i => s.issued (exec i (s1.noteIssue w.data))
      | .error _ => execUnassignedEncoding w.data (s1.noteIssue w.data)

/-- The focused group as it stands at its next instruction: a wait that is over has ended; one that stalls to post stays marked (R113). -/
def State.awake (s : State) : State :=
  { s with g := { s.g with
    wait := (match s.g.wait with | .mpost n => .mpost n | _ => .none)
    drain := false } }

/-- An instruction goes on, its wait being over: its word is the one that issued. -/
def State.goOn (s : State) : Host.Outcome State Fault Refusal :=
  match decode s.g.waitI with
  | .ok i => s.issued (exec i s)
  | .error _ => execUnassignedEncoding s.g.waitI s

/-- The focused group issues, or its waiting instruction goes on: a join is met before the fetch (R139, R142). -/
def State.issueHere (s : State) : Host.Outcome State Fault Refusal :=
  let s1 := s.awake
  if resumes s.g.wait then s1.goOn
  else match s1.preIssue with
    | some s2 => .next s2
    | none => s1.fetchExec

/-! ### The order of issue (R110, R111) -/

/-- The pipe of the focused group's next instruction; a fetch that fails traps on the V pipe. -/
def State.nextPipe (s : State) : Nat :=
  match s.fetchAt s.g.pc.toNat with
  | (_, .ok w) => pipeKey s.g.sched w.data
  | (_, .error _) => pipeKey s.g.sched 0

/-- A ready group as its scheduler sees it: its pipe, whether it meets a join or goes on from a wait and fetches nothing (no pipe then), and its place in the order:
raised groups by age, then the group issued on this pipe in the ck before, then placement order, group index and slot. -/
structure Ready where
  core : Nat
  pipe : Nat
  joins : Bool
  key  : List Nat
  f    : Focus
deriving DecidableEq, Repr

/-- Has a group issued in this ck? -/
def State.spent (s : State) (g : Group) : Bool := g.issuedAt == some s.ck

/-- The focused group, when it is ready. -/
def State.readyHere (s : State) (f : Focus) : Option Ready :=
  if !s.canIssue || s.onKiln then none
  else
    let a := s.awake
    let joins := resumes s.g.wait || a.preIssue.isSome
    let pipe := if joins then 0 else a.nextPipe
    let c := s.coreAt s.core
    let again := tfind c.last pipe == some (s.tm.slot * 32 + s.g.idx) && tfind c.lastCk pipe == some (s.ck - 1) && s.ck != 0
    some { core := s.core, pipe := pipe, joins := joins, f := f,
           key := (match s.g.raised with | some n => [0, n] | none => [1, 0]) ++ [if again then 0 else 1, s.tm.order, s.g.idx, s.tm.slot] }

/-- A group, when it is ready and has not issued in this ck. -/
def State.readyAt (s : State) (f : Focus) : Option Ready :=
  match s.focusAt f with
  | none => none
  | some s1 => if s1.spent s1.g then none else s1.readyHere f

/-- The resident teams by key, the focused one's current state among them. -/
def State.teamList (s : State) : List Team := s.teams.map (fun p => (s.teamAt p.1).getD p.2)

/-- The ready groups of a core that have not issued in this ck. -/
def State.readyOf (s : State) (core : Nat) : List Ready :=
  (s.teamList.filter (fun t => t.die * 64 + t.core == core)).flatMap (fun t =>
    t.groups.filterMap (fun p => s.readyAt (.group ⟨t.die, t.core, t.slot, p.1⟩)))

/-- R111: is a ready group its scheduler's choice for its pipe in this ck, the groups of a list aside, whose instruction is not fetched?
A group that meets a join or goes on from a wait issues nothing and needs no pipe. -/
def State.chosen (s : State) (rs : List Ready) (unfetched : List GroupRef) (r : Ready) : Bool :=
  r.joins ||
  (tfind (s.coreAt r.core).lastCk r.pipe != some s.ck &&
    rs.all (fun o => o.joins || o.pipe != r.pipe || o.f == r.f || unfetched.any (fun u => o.f == .group u) || !lexLt o.key r.key))

/-- R110, R111: may this group or Kiln engine issue now? -/
def State.mayIssue (s : State) (f : Focus) (unfetched : List GroupRef) : Bool :=
  match s.focusAt f with
  | none => false
  | some s1 =>
    if s1.onKiln then s1.canIssue
    else match s.readyAt f with
      | none => false
      | some r => s.chosen (s.readyOf r.core) unfetched r

/-- A group or Kiln engine issues, if it may. -/
def State.issue (s : State) (f : Focus) (unfetched : List GroupRef) : Host.Outcome State Fault Refusal :=
  match s.focusAt f with
  | none => .next s
  | some s1 => if s.mayIssue f unfetched then s1.issueHere else .next s

/-- The group that issues when nothing else is said: on the lowest core where a scheduler has a choice, its first; else a Kiln engine. -/
def State.nextIssue (s : State) : Option Focus :=
  let cores := sortNat (s.teams.map (fun p => p.1 / 32))
  match cores.findSome? (fun c =>
    let rs := s.readyOf c
    (rs.find? (s.chosen rs [])).map (·.f)) with
  | some f => some f
  | none => (s.kilns.find? (fun k => match s.focusAt (.kiln k.1) with | some s1 => s1.canIssue | none => false)).map (fun k => .kiln k.1)

/-- Is some group ready that only this ck holds back? -/
def State.ckBound (s : State) : Bool :=
  s.teamList.any (fun t => t.groups.any (fun p => match s.focusAt (.group ⟨t.die, t.core, t.slot, p.1⟩) with | some s1 => s1.canIssue | none => false))

/-! ### Delivery (R28) -/

/-- What a packet does where it arrives. -/
def State.receive (s : State) (p : Packet) : Host.Outcome State Fault Refusal :=
  match p.hdr.cls.toNat, p.hdr.mtype.toNat with
  | 0, 0 => execLineRead p s
  | 0, 1 => execWordRead p s
  | 0, 2 => execPrefL2 p s
  | 0, 3 => execForwardRead p s
  | 1, 0 => execWrite p s
  | 1, 1 => execMaskedWrite p s
  | 1, 2 => execWriteback p s
  | 1, 3 => execAtomic p s
  | 1, 4 => execDiscard p s
  | 2, 0 => execReadData p s
  | 2, 1 => execForwardData p s
  | 2, 2 => execGrant p s
  | 2, 3 => execAtomicResult p s
  | 2, 4 => execPartialData p s
  | 3, 0 => execWriteAck p s
  | 3, 1 => execCleanAck p s
  | 3, 2 => execRouteLost p s
  | 3, 3 => execRefused p s
  | 3, 4 => execDone p s
  | 4, 0 => execRegister p s
  | 4, 1 => execRevoke p s
  | 4, 2 => execPartialReq p s
  | 5, 0 => execCopyRead p s
  | 5, 1 => execCopyWrite p s
  | 5, 2 => execCopyMwrite p s
  | 5, 8 => execCopyRead p s
  | 5, 9 => execCopyWrite p s
  | 5, 10 => execCopyMwrite p s
  | 6, 0 => execSlot p s
  | 6, 1 => execCredit p s
  | 7, 0 => execStatusRead p s
  | 7, 1 => execStatusData p s
  | 7, 2 => execRecord p s
  | 7, 3 => execControl p s
  | 7, 4 => execReport p s
  | _, _ => .next (s.protoError p)

/-- R31: is no earlier packet of the same class, source and destination still in flight? -/
def inTurn (l : List Packet) (n : Nat) : Bool :=
  match l[n]? with
  | none => false
  | some p => !((l.take n).any (fun q => q.hdr.cls == p.hdr.cls && originOf q == originOf p && q.hdr.dst == p.hdr.dst))

/-- The state of an outcome, or the one before it. -/
def afterOr (s : State) : Host.Outcome State Fault Refusal → State
  | .next s1 => s1
  | _ => s

/-- The n-th packet in flight is delivered when R31 allows and nothing holds it up (R29, R32). One that cannot be taken yet stays where it is. -/
def State.deliver (s : State) (n : Nat) : State :=
  match s.flight[n]? with
  | none => s
  | some p =>
    if !inTurn s.flight n then s
    else if pktOk p && s.noRoute p && !s.twin.stopInject then s.answerLost n p
    else if s.heldUp p then s
    else
      let s0 : State := ({ s with flight := s.flight.eraseIdx n } : State).carried p
      let s1 := afterOr s0 (s0.unfocus.receive p)
      if s1.flight = s0.flight ++ [p] then s else s1

/-- The n-th step of the stack ports takes place. -/
def State.portStep (s : State) (n : Nat) : State :=
  match s.stackQ[n]? with
  | none => s
  | some i =>
    let s0 : State := { s with stackQ := s.stackQ.eraseIdx n }
    match i with
    | .stackRd x => afterOr s0 (execStackRd x s0.unfocus)
    | .stackWr x => afterOr s0 (execStackWr x s0.unfocus)
    | .stackWrm x => afterOr s0 (execStackWrm x s0.unfocus)
    | .stackReadReply x => afterOr s0 (execStackReadReply x s0.unfocus)
    | .stackWriteAck x => afterOr s0 (execStackWriteAck x s0.unfocus)
    | _ => s

/-! ### After a step that is no issue -/

/-- Groups stopped by a busy resource, or at a fence, look again. -/
def clearRetry (g : Group) : Group :=
  match g.wait with
  | .retry => { g with wait := .none }
  | .fence _ => { g with wait := .fence true }
  | _ => g

/-- Every group and Kiln engine that met a busy resource may issue again. -/
def State.clearRetries (s : State) : State :=
  { s with
    teams := s.teams.map (fun p => (p.1, { p.2 with groups := p.2.groups.map (fun q => (q.1, clearRetry q.2)) }))
    kilns := s.kilns.map (fun p => (p.1, { p.2 with g := clearRetry p.2.g })) }

/-- Commands, grids, drains, a snapshot and an activation that have come to their end are settled, and requests that wait at their homes looked at again; busy
resources may have been freed. -/
def State.settleAll (s : State) : State := s.unfocus.retryAll.settleCmds.settleGrids.settleDrain.settleSnap.settleFw.clearRetries

/-! ### Time -/

/-- Does time run for a team's waits? -/
def timed (t : Team) : Bool := !t.sampled && !t.aborted

/-- `ck` clocks pass for a group: its sleep and its timeout run down, and it starves while it is ready and not chosen (R112): the ck in
which it issued does not count. -/
def tickGroup (now ck : Nat) (ready : Bool) (g : Group) : Group :=
  let g1 := match g.wait with
    | .sleep r => { g with wait := .sleep (r - ck) }
    | .waitv (some r) => { g with wait := .waitv (some (r - ck)) }
    | _ => g
  if ready then { g1 with starve := g1.starve + (ck - if g.issuedAt = some now then 1 else 0) } else g1

/-- R110, R112: is a group ready for a pipe, its next instruction fetched? One that meets a join or goes on from a wait needs no pipe. -/
def State.wantsPipe (s : State) (unfetched : List GroupRef) (r : GroupRef) : Bool :=
  match s.focusAt (.group r) with
  | some x => x.canIssue && !unfetched.contains r && !resumes x.g.wait && x.awake.preIssue.isNone
  | none => false

/-- Time passes: `%gtime` and `%clock` advance, with the clock of each Kiln engine that runs a prologue (DESIGN CHOICE, log 32), and groups that
have been ready for 4,096 ck are raised, each from the ck in which its counter came there. -/
def State.tick (s : State) (ns ck : Nat) (unfetched : List GroupRef) : State :=
  let s0 := s.unfocus
  let s1 : State := { s0 with
    gtime := s0.gtime + ns
    ck := s0.ck + ck
    kilns := s0.kilns.map (fun p => (p.1, { p.2 with g := tickGroup s0.ck ck false p.2.g }))
    kilnCk := s0.kilns.foldl (fun t p => tmod t p.1 0 (· + ck)) s0.kilnCk
    teams := s0.teams.map (fun p => (p.1, if timed p.2 then { p.2 with groups := p.2.groups.map (fun q =>
      (q.1, tickGroup s0.ck ck (s0.wantsPipe unfetched ⟨p.2.die, p.2.core, p.2.slot, q.1⟩) q.2)) } else p.2)) }
  s1.teams.foldl (fun s p => p.2.groups.foldl (fun s q =>
    s.raiseGroup ⟨p.2.die, p.2.core, p.2.slot, q.1⟩ (s1.ck - (q.2.starve - 4096))) s) s1

/-! ### Internal steps -/

/-- The references of the groups of all resident teams. -/
def State.allGroups (s : State) : List (GroupRef × Group) :=
  s.teams.flatMap (fun p => p.2.groups.map (fun q => (⟨p.2.die, p.2.core, p.2.slot, q.1⟩, q.2)))

/-- Steps of the groups: results that have arrived, sleeps that end, words looked at again. -/
def State.groupSteps (s : State) : List (State → State) :=
  s.allGroups.flatMap (fun x =>
    (x.2.pset.filter Pend.complete).map (fun p => fun s =>
      if p.vr1 then afterOr s (execVr1Result x.1 p.id s) else afterOr s (execLoadReturn x.1 p.id s)) ++
    (match x.2.wait with
     | .sleep 0 => [fun s => afterOr s (execSleepExpiry x.1 s)]
     | .waitv _ => [fun s => afterOr s (execWaitvReread x.1 s)]
     | _ => []))

/-- Steps of the Kiln engines: results that have arrived, sleeps that end, and the end of a run's budget. -/
def State.kilnSteps (s : State) : List (State → State) :=
  s.kilns.flatMap (fun k =>
    (k.2.g.pset.filter Pend.complete).map (fun p => fun s => afterOr s (execLoadReturn ⟨kilnDie, k.1, 0, 0⟩ p.id s)) ++
    (if k.2.g.wait = .sleep 0 then [fun s => afterOr s (execSleepExpiry ⟨kilnDie, k.1, 0, 0⟩ s)] else []) ++
    [fun s => afterOr s (execPrologueBudgetExceeded k.1 s)])

/-- Steps of the clusters' engines. -/
def State.clusterSteps (s : State) : List (State → State) :=
  s.clusters.flatMap (fun c =>
    let d := c.1 / 16
    let k := c.1 % 16
    c.2.jobs.flatMap (fun j => [fun s => afterOr s (execCopyJobStart d k j.chan s), fun s => afterOr s (execCopyJobFinish d k j.chan s)]) ++
    [fun s => afterOr s (execMmaPassGrant d k s)] ++
    (c.2.mjobs.filter (·.granted)).map (fun j => fun s => afterOr s (execMatrixJobFinish d k j.seq s)))

/-- Steps of the front end, which none takes while it is gated. -/
def State.frontSteps (s : State) : List (State → State) :=
  if !s.fePowered || s.twin.recovering then []
  else s.queues.flatMap (fun e =>
    [fun s => afterOr s (execSlotRead e.1 s), fun s => afterOr s (execLaunch e.1 s), fun s => afterOr s (execEventSignal e.1 s),
     fun s => afterOr s (execEventWait e.1 s), fun s => afterOr s (execCopy e.1 s), fun s => afterOr s (execFence e.1 s),
     fun s => afterOr s (execNop e.1 s), fun s => afterOr s (execMirrorWrite e.1 s)]) ++
    [fun s => afterOr s (execKilnRunStart (((List.range (s.kilns.length + 1)).find? (fun k => (tfind s.kilns k).isNone)).getD 0) s)]

/-- Steps of the dispatchers: teams that leave, are saved, restored or placed, and what a long wait brings. -/
def State.placeSteps (s : State) : List (State → State) :=
  s.teams.flatMap (fun p => [fun s => afterOr s (execTeamRetire p.2.die p.2.core p.2.slot s),
    fun s => afterOr s (execPreemptSave p.2.die p.2.core p.2.slot s)]) ++
  (if s.grids.all (fun g => g.2.complete) then [] else
    (List.range 8).flatMap (fun d => [fun s => afterOr s (execTeamRestore d s), fun s => afterOr s (execTeamPlace d s)])) ++
  (if s.grids.all (fun g => g.2.complete || g.2.shares.all (fun sh => sh.unplaced.isEmpty && sh.saved.isEmpty)) then [] else
    s.queues.map (fun e => fun s => afterOr s (execQueueStarvation e.1 s)) ++
    (List.range 8).flatMap (fun d => [fun s => afterOr s (execCandidatePin d s), fun s => afterOr s (execPreemptTrigger d s),
      fun s => afterOr s (execChildSwapOut d s)])) ++
  s.twin.retireDue.map (fun c => fun s => afterOr s (execCoreRetire (c / 64) (c % 64) s)) ++
  -- R114: the pre-emption of a retired core's teams stays pending while an arena lacks room
  (s.teams.filter (fun p => !(s.coreAt (p.2.die * 64 + p.2.core)).enabled && !p.2.sampled && !p.2.aborted)).map (fun p =>
    fun s => afterOr s (execCoreRetire p.2.die p.2.core s))

/-- The first of some steps that changes the machine. -/
def State.firstChange (s : State) : List (State → State) → Option State
  | [] => none
  | f :: r => if f s = s then s.firstChange r else some (f s)

/-- R31, R28: everything that can go on by itself, in a fixed order. -/
def State.ownSteps (s : State) : List (State → State) :=
  (List.range s.flight.length).map (fun n => fun s => s.deliver n) ++ (List.range s.stackQ.length).map (fun n => fun s => s.portStep n) ++
  s.groupSteps ++ s.kilnSteps ++ s.clusterSteps ++ s.placeSteps ++ s.frontSteps

/-- Does a group wait for time to pass, or a grid for its teams to be placed? -/
def State.sleepers (s : State) : Bool :=
  s.grids.any (fun g => !g.2.complete && g.2.shares.any (fun sh => !sh.unplaced.isEmpty || !sh.saved.isEmpty)) ||
  (s.allGroups.map (·.2.wait) ++ s.kilns.map (·.2.g.wait)).any (fun w => match w with | .sleep _ => true | .waitv _ => true | _ => false)

/-- What happens when the environment chooses nothing and no group may issue: the first step that changes something; else time passes
for groups that wait for it; else the machine is idle. -/
def State.idle (s : State) : State :=
  let s0 := s.settleAll
  match s0.firstChange s0.ownSteps with
  | some s1 => s1.settleAll
  | none => if s0.sleepers then s0.tick 6 16 [] else s0

/-- What happens when the environment chooses nothing: the next group by R111 issues; else the machine goes on by itself. -/
def State.auto (s : State) : Host.Outcome State Fault Refusal :=
  match s.nextIssue with
  | some f => s.issue f []
  | none => .next (if s.ckBound then s.tick ((s.ck + 1) * 1000 / s.clockOf 0 - s.ck * 1000 / s.clockOf 0) 1 [] else s.idle)

/-! ### The environment's choices -/

/-- Does a constructor name something that occurs by itself or arrives at a port (R1)? An instruction of a program is issued; a mesh packet is
delivered from the mesh, a stack-port step is the port's, and a management request comes in a THT frame. -/
def occurs (i : Instr) : Bool :=
  match i with
  | .lineRead _ | .wordRead _ | .prefL2 _ | .forwardRead _ | .write _ | .maskedWrite _ | .writeback _ | .atomic _ | .discard _ | .readData _
  | .forwardData _ | .grant _ | .atomicResult _ | .partialData _ | .writeAck _ | .cleanAck _ | .routeLost _ | .refused _ | .done _
  | .register _ | .revoke _ | .partialReq _ | .copyRead _ | .copyWrite _ | .copyMwrite _ | .slot _ | .credit _ | .statusRead _
  | .statusData _ | .record _ | .control _ | .report _ | .stackRd _ | .stackWr _ | .stackWrm _ | .stackReadReply _ | .stackWriteAck _
  | .invRead _ | .partSet _ | .partStatus _ | .drain _ | .undrain _ | .pathSet _ | .windowSet _ | .handleExport _ | .handleRevoke _
  | .keyGen _ | .keyZero _ | .fwStage _ | .fwActivate _ | .attest _ | .powerCap _ | .portSet _ | .peerSet _ | .path0Sync _ => false
  | _ => i.wf && (encode i).isNone

/-- R222: the false rail of a lane predicate flips. -/
def flipRail (t : Team) (home n lane : Nat) : Team :=
  let k := (home * 8 + n) * 32 + lane
  { t with preds := tins t.preds k (tget t.preds k 1 ^^^ 1) }

/-- Stored bits of one word of a table flip under an unchanged nibble. -/
def flipIn (x : BitVec 32) (k : Nat) (ws : Table Word) : Table Word :=
  let w := tget ws k Word.zero
  tset ws k ⟨w.data ^^^ x, w.res⟩ Word.zero

/-- R125, R126: the place, in a team's order, of the granule that holds a word of a region, `size` words each. -/
def granuleAt (held : List Nat) (size word : Nat) : Option Nat :=
  if held.contains (word / size) then some (indexOf held (word / size)) else none

/-- R224: stored bits of word `word` of the pool flip, in what a team has there. The pool's granules of 4,096 words are, by the partition
word, registers, then scratchpad, then accumulator tiles (R125): a register granule of 256 words is word 32 × (i mod 8) + l of physical
register i of lane l, and a team's granules are its groups' in order. -/
def flipPool (t : Team) (word : Nat) (x : BitVec 32) : Team :=
  let pw := t.partWord.toNat
  let r := 4096 * pwReg pw
  let a := r + 4096 * pwScr pw
  if word < r then
    match granuleAt t.regGran 256 word with
    | some k => { t with vregs := flipIn x (physKey (k / t.regs8) (k % t.regs8 * 8 + word % 256 / 32) (word % 32)) t.vregs }
    | none => t
  else if word < a then
    match granuleAt t.scrGran 1024 (word - r) with
    | some k => { t with scratch := flipIn x (k * 1024 + (word - r) % 1024) t.scratch }
    | none => t
  else
    match granuleAt t.accGran 4096 (word - a) with
    | some k => { t with tiles := flipIn x (k * 4096 + (word - a) % 4096) t.tiles }
    | none => t

/-- One choice of the environment. -/
def State.turn (s : State) : Turn → Host.Outcome State Fault Refusal
  | .issue f us => s.issue f us
  | .deliver n => .next (s.deliver n).settleAll
  | .occur i =>
    if !occurs i then .next s
    else match exec i s.unfocus with
      | .next s1 => .next s1.settleAll
      | o => o
  | .tick ns ck us => .next (s.tick ns ck us).settleAll
  | .glitch m => .next { s with glitch := m }
  | .redFaults n => .next { s with redFaults := n }
  | .corrupt line syms => .next { s with syms := tset s.syms line (sortNat (tget s.syms line [] ++ syms.filter (· < 160))) [] }
  | .pinFail chan pin => .next { s with pins := if pin < 64 then tset s.pins chan (insertNat pin (tget s.pins chan [])) [] else s.pins }
  | .railFlip r lane n => .next (s.unfocus.modTeam (grpKey r) (fun t => flipRail t r.grp n lane))
  | .poolFlip core word x =>
    let s1 := s.unfocus
    .next { s1 with teams := s1.teams.map (fun p => if p.2.die * 64 + p.2.core = core then (p.1, flipPool p.2 word x) else p) }
  | .dropTlb isDie unit => .next { s with tlbs := tdel s.tlbs (if isDie then 512 + unit else unit) }
  | .dropL2 tag => .next (s.unfocus.dropL2 tag).settleAll
  | .portMode port fec pfc => .next (s.modPort port (fun x => { x with
      fec := fec % 2
      pfc := if isHostPort port then 0 else pfc }))
  | .fecErrors port n => .next (s.modPort port (fun x => { x with fecUncorr := x.fecUncorr + n }))

/-! ### A program placed from outside (`withFetchWord`) -/

/-- The group that runs a placed program: die 0, core 0, resident slot 0, group 0. -/
def homeRef : GroupRef := ⟨0, 0, 0, 0⟩
/-- Where its code lies in memory: the first line of the second 32 MiB of die 0. -/
def homePa : Nat := 2 ^ 25
/-- Its address space: the address of a translation context, taken as already cached. -/
def homeAsid : Addr := 0x4000000
/-- That context: stage 1 alone, trap vectors at 8 MiB, the copy aperture above every program address. -/
def homeCtx : Ctx := ⟨0x4002000, 0, 0x800000, 0, 0x10000000000000, true⟩
/-- The translation of its first 8 MiB, taken as already cached: user pages, every permission, key 0. -/
def homeTlb : TlbEntry :=
  { ctx := homeAsid, s2root := 0, va := 0, size := 23, pa := homePa, key := 0, perm1 := 15, perm2 := 15, comm := 0, cache := 0, glob := false,
    leaf1 := none, leaf2 := none, ipa := homePa, size2 := 0 }
/-- The translation of its next 8 MiB, which hold the trap vectors and the spill region: supervisor pages. -/
def homeTlbS : TlbEntry :=
  { homeTlb with
    va := 1
    pa := homePa + 2 ^ 23
    perm1 := 7
    ipa := homePa + 2 ^ 23 }
/-- Partition 0 with every die, key and queue, ACTIVE. -/
def homeEntry : BitVec 64 := BitVec.ofNat 64 (1 + 8192 * 2 ^ 6 + 1024 * 2 ^ 43 + 2 ^ 54 + 255 * 2 ^ 56)
/-- The partition word of its core: 64 register granules and 8 scratchpad granules. -/
def homePw : BitVec 32 := BitVec.ofNat 32 (64 + 8 * 2 ^ 9)
/-- Its group: 32 lanes, window frame 8, mode U. -/
def homeGroup : Group :=
  { Group.initial with
    exec := 0xffffffff
    bind := 0xffffffff
    frame := 8
    spill := 0x901000
    priv := { Priv.initial with ktab := 0x800000 } }
/-- Its team: one group of class W in group mode, 8 registers, 16 KiB of spill. -/
def homeTeam : Team :=
  { Team.initial with
    grid := 1
    ngrp := 1
    regs8 := 1
    mode := 2
    scratchN := 1
    partWord := homePw
    asid := homeAsid
    spillBase := 0x900000
    spillKib := 16
    teamX := 32
    groups := [(0, homeGroup)]
    regGran := [0]
    scrGran := [0] }
/-- Its grid: one team. -/
def homeGrid : Grid :=
  { num := 1, part := 0, queue := 0, cmd := 0, asid := homeAsid, packet := List.replicate 32 Word.zero, parent := none, depth := 0,
    shares := [⟨0, 1, [], [], 0, false, false, false, 0⟩], total := 1, done := 0, reports := [], complete := false, aborted := false, grade := 0,
    winWrite := false, released := true, claim := false, gArrived := [], gPhase := false, chans := [], startNo := 0 }

/-- A program's word stored at its first address, with its residue, under key 0. -/
def State.storeCode (s : State) (w : BitVec 32) : State :=
  let l := lineOf homePa
  let gen := (tfind s.keys 0).getD s.nextGen
  let s1 : State := { s.setRaw l 0 (Word.ofData w) with
    keys := tins s.keys 0 gen
    nextGen := if (tfind s.keys 0).isSome then s.nextGen else s.nextGen + 1
    lineKeys := tins s.lineKeys l ⟨0, gen⟩ }
  { s1 with icache := tins s1.icache (icKey 0 (tagOf 0 l)) ((List.range 32).map (s1.rawWord l)) }

/-- One team resident on core 0 of die 0, in focus, its context and translation cached. -/
def State.placeHome (s : State) : State :=
  let s0 := s.unfocus
  { s0 with
    parts := if peValid (s0.part 0).entry then s0.parts else tmod s0.parts 0 Part.initial (fun p => { p with entry := homeEntry })
    ctxs := tins s0.ctxs homeAsid.toNat homeCtx
    tlbs := tins (tins s0.tlbs 0 (tlbInsert 128 homeTlb (tlbInsert 128 homeTlbS (tget s0.tlbs 0 [])))) 512
      (tlbInsert 8192 homeTlb (tlbInsert 8192 homeTlbS (tget s0.tlbs 512 [])))
    cores := tins s0.cores 0 { Core.initial 0 with
      word := homePw
      last := [(0, 0), (1, 0)]
      lastCk := [] }
    grids := tins s0.grids 1 homeGrid
    nextGrid := max s0.nextGrid 2
    teams := tins s0.teams 0 homeTeam
    tm := homeTeam
    g := homeGroup
    focus := .group homeRef
    turns := [] }

/-- The state whose very next step issues the word at the home group's pc: nothing else is chosen before it, the other groups of its core
counting as not yet fetched. -/
def State.ensureNext (s : State) : State :=
  if s.nextIssue = some (.group homeRef) then s
  else { s with turns := [.issue (.group homeRef) ((s.allGroups.map (·.1)).filter (· != homeRef))] }

end Sys2Proof.Machine
end

