-- ==== Sys2Proof/Machine/Step.lean ====
section
/-! DEFINITION. One step of the machine: the environment's next choice, or what the machine does by itself; and the placement of a
word where the next step fetches it. -/

namespace Sys2Proof.Machine

/-- One step. -/
def step (s : State) : Host.Outcome State Fault Refusal :=
  match s.turns with
  | [] => s.auto
  | t :: r => { s with turns := r }.turn t

/-- The state with an instruction placed where the next step fetches it: a program reaches this machine through memory, a queue and a
launch; this stands for that load. -/
def State.withFetchWord (s : State) (nbits w : Nat) : State :=
  ((s.placeHome).storeCode (BitVec.ofNat 32 (w % 2 ^ nbits))).ensureNext

end Sys2Proof.Machine
end

