-- ==== Sys2Proof/Laws/PerInstr.lean ====
section
/-! SUPPORT. One lemma per constructor of `Instr`: a well-formed instruction that has a word decodes from that word to itself. -/

namespace Sys2Proof.Laws

/-- The decoder reads back every instruction the encoder writes. -/
def RoundTrip.Statement (i : Instr) : Prop := i.wf = true → ∀ w, encode i = some w → decode w = .ok i

/-- A field of a word whose number is known. -/
theorem fld_of {w : BitVec 32} {lo n : Nat} {v : BitVec n} (h : w.toNat / 2 ^ lo % 2 ^ n = v.toNat) : fld w lo n = v := by
  apply BitVec.eq_of_toNat_eq
  rw [fld, BitVec.toNat_ofNat, h]

/-- The decoder on a word given by its number: its opcode arm decides. -/
theorem decode_of {i : Instr} {x : BitVec 32} (hx : encode i = some x) (N : Nat) (hN : N < 4294967296)
    (he : encode i = some (BitVec.ofNat 32 N)) (op : Nat) (h0 : N ≠ 0) (hop : N / 2 ^ 25 % 2 ^ 7 = op)
    (h : ∀ w : BitVec 32, w.toNat = N → decodeOp w op = .ok i) : decode x = .ok i := by
  rw [he, Option.some.injEq] at hx
  have ht : x.toNat = N := by rw [← hx, BitVec.toNat_ofNat]; omega
  have hz : x ≠ 0 := fun e => h0 (by rw [← ht, e]; rfl)
  have hb : bits x 25 7 = op := by rw [bits, ht, hop]
  rw [decode, if_neg hz, hb, h x ht]

/-! The decoder by opcode. -/

theorem decodeOp_0 (w : BitVec 32) : decodeOp w 0 =
    if bits w 3 4 = 8 then .ok (.vAddx (fld w 19 6) (fld w 13 6) (fld w 7 6) (fld w 0 3)) else
    if bits w 3 4 = 9 then .ok (.vSubx (fld w 19 6) (fld w 13 6) (fld w 7 6) (fld w 0 3)) else
    if bits w 3 4 = 14 then .ok (.vMad (fld w 19 6) (fld w 13 6) (fld w 7 6) (fld w 0 3)) else
    if bits w 4 3 = 5 then .ok (.vMul (fld w 19 6) (fld w 13 6) (fld w 7 6) (fld w 3 1) (fld w 0 3)) else
    if bits w 4 3 = 6 then .ok (.vMulh (fld w 19 6) (fld w 13 6) (fld w 7 6) (fld w 3 1) (fld w 0 3)) else
    if bits w 5 2 = 0 then .ok (.vAdd (fld w 19 6) (fld w 13 6) (fld w 7 6) (fld w 3 2) (fld w 0 3)) else
    if bits w 5 2 = 1 then .ok (.vSub (fld w 19 6) (fld w 13 6) (fld w 7 6) (fld w 3 2) (fld w 0 3)) else
    .error (.unassignedSub 0) := rfl

theorem decodeOp_1 (w : BitVec 32) : decodeOp w 1 =
    if bits w 3 10 = 4 then .ok (.vAbs (fld w 19 6) (fld w 13 6) (fld w 0 3)) else
    if bits w 3 10 = 5 then .ok (.vNegI32 (fld w 19 6) (fld w 13 6) (fld w 0 3)) else
    if bits w 3 10 = 6 then .ok (.vNegI64 (fld w 19 6) (fld w 13 6) (fld w 0 3)) else
    if bits w 3 10 = 11 then .ok (.vMovB32 (fld w 19 6) (fld w 13 6) (fld w 0 3)) else
    if bits w 3 10 = 12 then .ok (.vMovB64 (fld w 19 6) (fld w 13 6) (fld w 0 3)) else
    if bits w 3 4 = 7 then .ok (.vBfxN32 (fld w 19 6) (fld w 13 6) (fld w 7 6) (fld w 0 3)) else
    if bits w 3 4 = 8 then .ok (.vBfxI32 (fld w 19 6) (fld w 13 6) (fld w 7 6) (fld w 0 3)) else
    if bits w 3 4 = 9 then .ok (.vBfi (fld w 19 6) (fld w 13 6) (fld w 7 6) (fld w 0 3)) else
    if bits w 3 4 = 10 then .ok (.vBpick (fld w 19 6) (fld w 13 6) (fld w 7 6) (fld w 0 3)) else
    if bits w 4 3 = 0 then .ok (.vMadw (fld w 19 6) (fld w 13 6) (fld w 7 6) (fld w 3 1) (fld w 0 3)) else
    if bits w 4 3 = 1 then .ok (.vSad (fld w 19 6) (fld w 13 6) (fld w 7 6) (fld w 3 1) (fld w 0 3)) else
    .error (.unassignedSub 1) := rfl

theorem decodeOp_2 (w : BitVec 32) : decodeOp w 2 =
    if bits w 4 1 = 0 ∧ bits w 6 1 = 0 then .ok (.vMin (fld w 19 6) (fld w 13 6) (fld w 7 6) (fld w 5 1) (fld w 3 1) (fld w 0 3)) else
    if bits w 4 1 = 1 ∧ bits w 6 1 = 0 then .ok (.vMax (fld w 19 6) (fld w 13 6) (fld w 7 6) (fld w 5 1) (fld w 3 1) (fld w 0 3)) else
    .error (.unassignedSub 2) := rfl

theorem decodeOp_3 (w : BitVec 32) : decodeOp w 3 =
    if bits w 3 10 = 9 then .ok (.vClz (fld w 19 6) (fld w 13 6) (fld w 0 3)) else
    if bits w 3 10 = 10 then .ok (.vPopc (fld w 19 6) (fld w 13 6) (fld w 0 3)) else
    if bits w 3 10 = 11 then .ok (.vBrev (fld w 19 6) (fld w 13 6) (fld w 0 3)) else
    if bits w 3 4 = 0 then .ok (.vAnd (fld w 19 6) (fld w 13 6) (fld w 7 6) (fld w 0 3)) else
    if bits w 3 4 = 1 then .ok (.vOr (fld w 19 6) (fld w 13 6) (fld w 7 6) (fld w 0 3)) else
    if bits w 3 4 = 2 then .ok (.vXor (fld w 19 6) (fld w 13 6) (fld w 7 6) (fld w 0 3)) else
    if bits w 3 4 = 3 then .ok (.vAndn (fld w 19 6) (fld w 13 6) (fld w 7 6) (fld w 0 3)) else
    if bits w 3 4 = 4 then .ok (.vShl (fld w 19 6) (fld w 13 6) (fld w 7 6) (fld w 0 3)) else
    if bits w 3 4 = 5 then .ok (.vShr (fld w 19 6) (fld w 13 6) (fld w 7 6) (fld w 0 3)) else
    if bits w 3 4 = 6 then .ok (.vSar (fld w 19 6) (fld w 13 6) (fld w 7 6) (fld w 0 3)) else
    if bits w 3 4 = 7 then .ok (.vRot (fld w 19 6) (fld w 13 6) (fld w 7 6) (fld w 0 3)) else
    if bits w 3 4 = 8 then .ok (.vShf (fld w 19 6) (fld w 13 6) (fld w 7 6) (fld w 0 3)) else
    .error (.unassignedSub 3) := rfl

theorem decodeOp_4 (w : BitVec 32) : decodeOp w 4 =
    .ok (.vSel (fld w 19 6) (fld w 13 6) (fld w 7 6) (fld w 6 1) (fld w 3 3) (fld w 0 3)) := rfl

theorem decodeOp_5 (w : BitVec 32) : decodeOp w 5 =
    if bits w 22 3 = 0 then .ok (.vCmp (fld w 19 3) (fld w 13 6) (fld w 7 6) (fld w 6 1) (fld w 3 3) (fld w 0 3)) else
    .error (.unassignedSub 5) := rfl

theorem decodeOp_6 (w : BitVec 32) : decodeOp w 6 =
    if bits w 10 3 = 0 ∧ bits w 16 3 = 0 ∧ bits w 22 3 = 0 then .ok (.vPset (fld w 19 3) (fld w 13 3) (fld w 7 3) (fld w 3 4) (fld w 0 3)) else
    .error (.unassignedSub 6) := rfl

theorem decodeOp_7 (w : BitVec 32) : decodeOp w 7 =
    .ok (.vAddi (fld w 19 6) (fld w 13 6) (fld w 3 10) (fld w 0 3)) := rfl

theorem decodeOp_8 (w : BitVec 32) : decodeOp w 8 =
    .ok (.vAndi (fld w 19 6) (fld w 13 6) (fld w 3 10) (fld w 0 3)) := rfl

theorem decodeOp_9 (w : BitVec 32) : decodeOp w 9 =
    .ok (.vOri (fld w 19 6) (fld w 13 6) (fld w 3 10) (fld w 0 3)) := rfl

theorem decodeOp_10 (w : BitVec 32) : decodeOp w 10 =
    .ok (.vXori (fld w 19 6) (fld w 13 6) (fld w 3 10) (fld w 0 3)) := rfl

theorem decodeOp_11 (w : BitVec 32) : decodeOp w 11 =
    if bits w 8 5 = 0 then .ok (.vShli (fld w 19 6) (fld w 13 6) (fld w 3 5) (fld w 0 3)) else
    if bits w 8 5 = 1 then .ok (.vShri (fld w 19 6) (fld w 13 6) (fld w 3 5) (fld w 0 3)) else
    .error (.unassignedSub 11) := rfl

theorem decodeOp_12 (w : BitVec 32) : decodeOp w 12 =
    if bits w 22 3 = 0 then .ok (.vCmpi (fld w 19 3) (fld w 13 6) (fld w 10 3) (fld w 3 7) (fld w 0 3)) else
    .error (.unassignedSub 12) := rfl

theorem decodeOp_13 (w : BitVec 32) : decodeOp w 13 =
    .ok (.vMovi (fld w 19 6) (fld w 3 16) (fld w 0 3)) := rfl

theorem decodeOp_14 (w : BitVec 32) : decodeOp w 14 =
    .ok (.vMovl (fld w 19 6) (fld w 3 16) (fld w 0 3)) := rfl

theorem decodeOp_15 (w : BitVec 32) : decodeOp w 15 =
    .ok (.vMovh (fld w 19 6) (fld w 3 16) (fld w 0 3)) := rfl

theorem decodeOp_16 (w : BitVec 32) : decodeOp w 16 =
    if bits w 5 1 = 0 then .ok (.vFadd (fld w 19 6) (fld w 13 6) (fld w 7 6) (fld w 6 1) (fld w 3 2) (fld w 0 3)) else
    if bits w 5 1 = 1 then .ok (.vFsub (fld w 19 6) (fld w 13 6) (fld w 7 6) (fld w 6 1) (fld w 3 2) (fld w 0 3)) else
    .error (.unassignedSub 16) := rfl

theorem decodeOp_17 (w : BitVec 32) : decodeOp w 17 =
    if bits w 5 1 = 0 then .ok (.vFmul (fld w 19 6) (fld w 13 6) (fld w 7 6) (fld w 6 1) (fld w 3 2) (fld w 0 3)) else
    .error (.unassignedSub 17) := rfl

theorem decodeOp_18 (w : BitVec 32) : decodeOp w 18 =
    if bits w 5 1 = 0 then .ok (.vFma (fld w 19 6) (fld w 13 6) (fld w 7 6) (fld w 6 1) (fld w 3 2) (fld w 0 3)) else
    .error (.unassignedSub 18) := rfl

theorem decodeOp_19 (w : BitVec 32) : decodeOp w 19 =
    if bits w 5 8 = 2 then .ok (.vFneg (fld w 19 6) (fld w 13 6) (fld w 3 2) (fld w 0 3)) else
    if bits w 5 8 = 3 then .ok (.vFabs (fld w 19 6) (fld w 13 6) (fld w 3 2) (fld w 0 3)) else
    if bits w 5 2 = 0 then .ok (.vFmin (fld w 19 6) (fld w 13 6) (fld w 7 6) (fld w 3 2) (fld w 0 3)) else
    if bits w 5 2 = 1 then .ok (.vFmax (fld w 19 6) (fld w 13 6) (fld w 7 6) (fld w 3 2) (fld w 0 3)) else
    .error (.unassignedSub 19) := rfl

theorem decodeOp_20 (w : BitVec 32) : decodeOp w 20 =
    if bits w 4 9 = 7 then .ok (.vFclass (fld w 19 6) (fld w 13 6) (fld w 3 1) (fld w 0 3)) else
    if bits w 22 3 = 0 then .ok (.vFcmp (fld w 19 3) (fld w 13 6) (fld w 7 6) (fld w 4 3) (fld w 3 1) (fld w 0 3)) else
    .error (.unassignedSub 20) := rfl

theorem decodeOp_21 (w : BitVec 32) : decodeOp w 21 =
    if bits w 3 4 = 0 then .ok (.vFrcp (fld w 19 6) (fld w 13 6) (fld w 11 2) (fld w 7 4) (fld w 0 3)) else
    if bits w 3 4 = 1 then .ok (.vFrsq (fld w 19 6) (fld w 13 6) (fld w 11 2) (fld w 7 4) (fld w 0 3)) else
    if bits w 3 4 = 2 then .ok (.vFsqrt (fld w 19 6) (fld w 13 6) (fld w 11 2) (fld w 7 4) (fld w 0 3)) else
    if bits w 3 4 = 3 then .ok (.vFex2 (fld w 19 6) (fld w 13 6) (fld w 11 2) (fld w 7 4) (fld w 0 3)) else
    if bits w 3 4 = 4 then .ok (.vFlg2 (fld w 19 6) (fld w 13 6) (fld w 11 2) (fld w 7 4) (fld w 0 3)) else
    if bits w 3 4 = 5 then .ok (.vFsin (fld w 19 6) (fld w 13 6) (fld w 11 2) (fld w 7 4) (fld w 0 3)) else
    if bits w 3 4 = 6 then .ok (.vFcos (fld w 19 6) (fld w 13 6) (fld w 11 2) (fld w 7 4) (fld w 0 3)) else
    .error (.unassignedSub 21) := rfl

theorem decodeOp_22 (w : BitVec 32) : decodeOp w 22 =
    if bits w 5 2 = 2 ∧ bits w 9 4 = 0 then .ok (.vFrnd (fld w 19 6) (fld w 13 6) (fld w 7 2) (fld w 3 2) (fld w 0 3)) else
    if bits w 5 2 = 0 then .ok (.vFdiv (fld w 19 6) (fld w 13 6) (fld w 7 6) (fld w 3 2) (fld w 0 3)) else
    if bits w 5 2 = 1 then .ok (.vFscale (fld w 19 6) (fld w 13 6) (fld w 7 6) (fld w 3 2) (fld w 0 3)) else
    .error (.unassignedSub 22) := rfl

theorem decodeOp_24 (w : BitVec 32) : decodeOp w 24 =
    if bits w 11 1 = 0 then .ok (.vCvt (fld w 19 6) (fld w 13 6) (fld w 12 1) (fld w 7 4) (fld w 3 4) (fld w 0 3)) else
    .error (.unassignedSub 24) := rfl

theorem decodeOp_25 (w : BitVec 32) : decodeOp w 25 =
    if bits w 6 1 = 0 then .ok (.vCvtnPk (fld w 19 6) (fld w 13 6) (fld w 7 6) (fld w 3 3) (fld w 0 3)) else
    if bits w 6 1 = 1 then .ok (.vCvtnUnpk (fld w 19 6) (fld w 13 6) (fld w 7 6) (fld w 3 3) (fld w 0 3)) else
    .error (.unassignedSub 25) := rfl

theorem decodeOp_26 (w : BitVec 32) : decodeOp w 26 =
    if bits w 8 5 = 0 then .ok (.vCvtw (fld w 19 6) (fld w 13 6) (fld w 7 1) (fld w 6 1) (fld w 5 1) (fld w 3 2) (fld w 0 3)) else
    .error (.unassignedSub 26) := rfl

theorem decodeOp_28 (w : BitVec 32) : decodeOp w 28 =
    if bits w 5 2 = 0 then .ok (.vLxch (fld w 19 6) (fld w 13 6) (fld w 7 6) (fld w 3 2) (fld w 0 3)) else
    .error (.unassignedSub 28) := rfl

theorem decodeOp_29 (w : BitVec 32) : decodeOp w 29 =
    if bits w 6 7 = 0 ∧ bits w 16 3 = 0 then .ok (.vPoll (fld w 19 6) (fld w 13 3) (fld w 3 3) (fld w 0 3)) else
    .error (.unassignedSub 29) := rfl

theorem decodeOp_30 (w : BitVec 32) : decodeOp w 30 =
    if bits w 7 6 = 0 then .ok (.vLfold (fld w 19 6) (fld w 13 6) (fld w 3 4) (fld w 0 3)) else
    .error (.unassignedSub 30) := rfl

theorem decodeOp_32 (w : BitVec 32) : decodeOp w 32 =
    .ok (.vLd (fld w 25 3) (fld w 19 6) (fld w 13 6) (fld w 7 6) (fld w 3 4) (fld w 0 3)) := rfl

theorem decodeOp_33 (w : BitVec 32) : decodeOp w 33 =
    .ok (.vLd (fld w 25 3) (fld w 19 6) (fld w 13 6) (fld w 7 6) (fld w 3 4) (fld w 0 3)) := rfl

theorem decodeOp_34 (w : BitVec 32) : decodeOp w 34 =
    .ok (.vLd (fld w 25 3) (fld w 19 6) (fld w 13 6) (fld w 7 6) (fld w 3 4) (fld w 0 3)) := rfl

theorem decodeOp_35 (w : BitVec 32) : decodeOp w 35 =
    .ok (.vLd (fld w 25 3) (fld w 19 6) (fld w 13 6) (fld w 7 6) (fld w 3 4) (fld w 0 3)) := rfl

theorem decodeOp_36 (w : BitVec 32) : decodeOp w 36 =
    .ok (.vLd (fld w 25 3) (fld w 19 6) (fld w 13 6) (fld w 7 6) (fld w 3 4) (fld w 0 3)) := rfl

theorem decodeOp_37 (w : BitVec 32) : decodeOp w 37 =
    if bits w 3 4 = 3 then .ok (.vCpy (fld w 19 6) (fld w 13 6) (fld w 7 6) (fld w 0 3)) else
    if bits w 6 1 = 0 then .ok (.vSt (fld w 19 6) (fld w 13 6) (fld w 7 6) (fld w 3 3) (fld w 0 3)) else
    .error (.unassignedSub 37) := rfl

theorem decodeOp_38 (w : BitVec 32) : decodeOp w 38 =
    .ok (.vAtom (fld w 19 6) (fld w 13 6) (fld w 10 3) (fld w 7 3) (fld w 3 4) (fld w 0 3)) := rfl

theorem decodeOp_39 (w : BitVec 32) : decodeOp w 39 =
    .ok (.vRed (fld w 19 6) (fld w 13 6) (fld w 10 3) (fld w 7 3) (fld w 3 4) (fld w 0 3)) := rfl

theorem decodeOp_40 (w : BitVec 32) : decodeOp w 40 =
    if bits w 3 4 = 0 ∧ bits w 19 6 = 0 then .ok (.vPrefL1 (fld w 13 6) (fld w 7 6) (fld w 0 3)) else
    if bits w 3 4 = 0 ∧ bits w 19 6 = 1 then .ok (.vPrefL2 (fld w 13 6) (fld w 7 6) (fld w 0 3)) else
    if bits w 3 4 = 0 ∧ bits w 19 6 = 2 then .ok (.vDisc (fld w 13 6) (fld w 7 6) (fld w 0 3)) else
    .error (.unassignedSub 40) := rfl

theorem decodeOp_41 (w : BitVec 32) : decodeOp w 41 =
    .ok (.vLds (fld w 19 6) (fld w 13 6) (fld w 11 2) (fld w 7 4) (fld w 3 4) (fld w 0 3)) := rfl

theorem decodeOp_42 (w : BitVec 32) : decodeOp w 42 =
    .ok (.vLdcl (fld w 19 6) (fld w 13 6) (fld w 11 2) (fld w 7 4) (fld w 3 4) (fld w 0 3)) := rfl

theorem decodeOp_43 (w : BitVec 32) : decodeOp w 43 =
    if bits w 6 1 = 0 then .ok (.vSts (fld w 19 6) (fld w 13 6) (fld w 7 6) (fld w 3 3) (fld w 0 3)) else
    if bits w 6 1 = 1 then .ok (.vStcl (fld w 19 6) (fld w 13 6) (fld w 7 6) (fld w 3 3) (fld w 0 3)) else
    .error (.unassignedSub 43) := rfl

theorem decodeOp_44 (w : BitVec 32) : decodeOp w 44 =
    .ok (.vBd (fld w 22 3) (fld w 11 11) (fld w 0 11)) := rfl

theorem decodeOp_45 (w : BitVec 32) : decodeOp w 45 =
    .ok (.vBu (fld w 22 3) (fld w 0 22)) := rfl

theorem decodeOp_46 (w : BitVec 32) : decodeOp w 46 =
    .ok (.vJmpi (fld w 19 6) (fld w 11 8) (fld w 0 11)) := rfl

theorem decodeOp_47 (w : BitVec 32) : decodeOp w 47 =
    if bits w 6 5 = 0 then .ok (.vCalli (fld w 19 6) (fld w 11 8) (fld w 0 6)) else
    .error (.unassignedSub 47) := rfl

theorem decodeOp_48 (w : BitVec 32) : decodeOp w 48 =
    if bits w 0 11 = 0 ∧ bits w 19 6 = 0 then .ok (.vPad (fld w 11 8)) else
    .error (.unassignedSub 48) := rfl

theorem decodeOp_49 (w : BitVec 32) : decodeOp w 49 =
    if bits w 3 22 = 0 then .ok (.vExit (fld w 0 3)) else
    .error (.unassignedSub 49) := rfl

theorem decodeOp_52 (w : BitVec 32) : decodeOp w 52 =
    .ok (.vMma (fld w 19 6) (fld w 13 6) (fld w 5 8) (fld w 4 1) (fld w 0 4)) := rfl

theorem decodeOp_53 (w : BitVec 32) : decodeOp w 53 =
    if bits w 4 1 = 0 ∧ bits w 13 12 = 0 then .ok (.vMzero (fld w 5 8) (fld w 0 4)) else
    .error (.unassignedSub 53) := rfl

theorem decodeOp_54 (w : BitVec 32) : decodeOp w 54 =
    if bits w 19 6 = 0 then .ok (.vMld (fld w 13 6) (fld w 5 8) (fld w 4 1) (fld w 0 4)) else
    .error (.unassignedSub 54) := rfl

theorem decodeOp_55 (w : BitVec 32) : decodeOp w 55 =
    if bits w 19 6 = 0 then .ok (.vMst (fld w 13 6) (fld w 5 8) (fld w 4 1) (fld w 0 4)) else
    .error (.unassignedSub 55) := rfl

theorem decodeOp_56 (w : BitVec 32) : decodeOp w 56 =
    .ok (.vMdrain (fld w 19 6) (fld w 13 6) (fld w 5 8) (fld w 4 1) (fld w 0 4)) := rfl

theorem decodeOp_57 (w : BitVec 32) : decodeOp w 57 =
    if bits w 3 4 = 0 then .ok (.vTcheck (fld w 19 6) (fld w 13 6) (fld w 7 6) (fld w 0 3)) else
    .error (.unassignedSub 57) := rfl

theorem decodeOp_58 (w : BitVec 32) : decodeOp w 58 =
    if bits w 3 4 = 0 ∧ bits w 19 6 = 0 then .ok (.vChsend (fld w 13 6) (fld w 7 6) (fld w 0 3)) else
    .error (.unassignedSub 58) := rfl

theorem decodeOp_59 (w : BitVec 32) : decodeOp w 59 =
    if bits w 3 4 = 0 ∧ bits w 13 6 = 0 then .ok (.vChrecv (fld w 19 6) (fld w 7 6) (fld w 0 3)) else
    .error (.unassignedSub 59) := rfl

theorem decodeOp_60 (w : BitVec 32) : decodeOp w 60 =
    if bits w 3 4 = 0 ∧ bits w 19 6 = 0 then .ok (.vRchk (fld w 13 6) (fld w 7 6) (fld w 0 3)) else
    .error (.unassignedSub 60) := rfl

theorem decodeOp_61 (w : BitVec 32) : decodeOp w 61 =
    if bits w 4 15 = 0 then .ok (.vRpois (fld w 19 6) (fld w 3 1) (fld w 0 3)) else
    .error (.unassignedSub 61) := rfl

theorem decodeOp_62 (w : BitVec 32) : decodeOp w 62 =
    if bits w 4 9 = 0 ∧ bits w 22 3 = 0 then .ok (.vRtst (fld w 19 3) (fld w 13 6) (fld w 3 1) (fld w 0 3)) else
    if bits w 4 9 = 1 then .ok (.vRgen (fld w 19 6) (fld w 13 6) (fld w 3 1) (fld w 0 3)) else
    .error (.unassignedSub 62) := rfl

theorem decodeOp_64 (w : BitVec 32) : decodeOp w 64 =
    if bits w 4 3 = 0 then .ok (.sAdd (fld w 19 6) (fld w 13 6) (fld w 7 6) (fld w 3 1) (fld w 0 3)) else
    if bits w 4 3 = 2 then .ok (.sSub (fld w 19 6) (fld w 13 6) (fld w 7 6) (fld w 3 1) (fld w 0 3)) else
    if bits w 4 3 = 5 then .ok (.sMul (fld w 19 6) (fld w 13 6) (fld w 7 6) (fld w 3 1) (fld w 0 3)) else
    if bits w 4 3 = 6 then .ok (.sMulh (fld w 19 6) (fld w 13 6) (fld w 7 6) (fld w 3 1) (fld w 0 3)) else
    .error (.unassignedSub 64) := rfl

theorem decodeOp_65 (w : BitVec 32) : decodeOp w 65 =
    if bits w 3 4 = 0 then .ok (.sAnd (fld w 19 6) (fld w 13 6) (fld w 7 6) (fld w 0 3)) else
    if bits w 3 4 = 1 then .ok (.sOr (fld w 19 6) (fld w 13 6) (fld w 7 6) (fld w 0 3)) else
    if bits w 3 4 = 2 then .ok (.sXor (fld w 19 6) (fld w 13 6) (fld w 7 6) (fld w 0 3)) else
    if bits w 3 4 = 3 then .ok (.sAndn (fld w 19 6) (fld w 13 6) (fld w 7 6) (fld w 0 3)) else
    if bits w 3 4 = 4 then .ok (.sShl (fld w 19 6) (fld w 13 6) (fld w 7 6) (fld w 0 3)) else
    if bits w 3 4 = 5 then .ok (.sShr (fld w 19 6) (fld w 13 6) (fld w 7 6) (fld w 0 3)) else
    if bits w 3 4 = 6 then .ok (.sSar (fld w 19 6) (fld w 13 6) (fld w 7 6) (fld w 0 3)) else
    .error (.unassignedSub 65) := rfl

theorem decodeOp_66 (w : BitVec 32) : decodeOp w 66 =
    if bits w 4 1 = 0 ∧ bits w 6 1 = 0 then .ok (.sMin (fld w 19 6) (fld w 13 6) (fld w 7 6) (fld w 5 1) (fld w 3 1) (fld w 0 3)) else
    if bits w 4 1 = 1 ∧ bits w 6 1 = 0 then .ok (.sMax (fld w 19 6) (fld w 13 6) (fld w 7 6) (fld w 5 1) (fld w 3 1) (fld w 0 3)) else
    .error (.unassignedSub 66) := rfl

theorem decodeOp_67 (w : BitVec 32) : decodeOp w 67 =
    if bits w 22 3 = 0 then .ok (.sCmp (fld w 19 3) (fld w 13 6) (fld w 7 6) (fld w 6 1) (fld w 3 3) (fld w 0 3)) else
    .error (.unassignedSub 67) := rfl

theorem decodeOp_68 (w : BitVec 32) : decodeOp w 68 =
    if bits w 3 3 = 7 ∧ bits w 7 6 = 0 then .ok (.sMov (fld w 19 6) (fld w 13 6) (fld w 6 1) (fld w 0 3)) else
    .ok (.sSel (fld w 19 6) (fld w 13 6) (fld w 7 6) (fld w 6 1) (fld w 3 3) (fld w 0 3)) := rfl

theorem decodeOp_69 (w : BitVec 32) : decodeOp w 69 =
    if bits w 10 3 = 0 ∧ bits w 16 3 = 0 ∧ bits w 22 3 = 0 then .ok (.sQset (fld w 19 3) (fld w 13 3) (fld w 7 3) (fld w 3 4) (fld w 0 3)) else
    .error (.unassignedSub 69) := rfl

theorem decodeOp_70 (w : BitVec 32) : decodeOp w 70 =
    .ok (.sAddi (fld w 19 6) (fld w 13 6) (fld w 3 10) (fld w 0 3)) := rfl

theorem decodeOp_71 (w : BitVec 32) : decodeOp w 71 =
    .ok (.sAndi (fld w 19 6) (fld w 13 6) (fld w 3 10) (fld w 0 3)) := rfl

theorem decodeOp_72 (w : BitVec 32) : decodeOp w 72 =
    .ok (.sOri (fld w 19 6) (fld w 13 6) (fld w 3 10) (fld w 0 3)) := rfl

theorem decodeOp_73 (w : BitVec 32) : decodeOp w 73 =
    .ok (.sXori (fld w 19 6) (fld w 13 6) (fld w 3 10) (fld w 0 3)) := rfl

theorem decodeOp_74 (w : BitVec 32) : decodeOp w 74 =
    if bits w 8 5 = 0 then .ok (.sShli (fld w 19 6) (fld w 13 6) (fld w 3 5) (fld w 0 3)) else
    if bits w 8 5 = 1 then .ok (.sShri (fld w 19 6) (fld w 13 6) (fld w 3 5) (fld w 0 3)) else
    .error (.unassignedSub 74) := rfl

theorem decodeOp_75 (w : BitVec 32) : decodeOp w 75 =
    if bits w 22 3 = 0 then .ok (.sCmpi (fld w 19 3) (fld w 13 6) (fld w 10 3) (fld w 3 7) (fld w 0 3)) else
    .error (.unassignedSub 75) := rfl

theorem decodeOp_76 (w : BitVec 32) : decodeOp w 76 =
    .ok (.sMovi (fld w 19 6) (fld w 3 16) (fld w 0 3)) := rfl

theorem decodeOp_77 (w : BitVec 32) : decodeOp w 77 =
    .ok (.sMovl (fld w 19 6) (fld w 3 16) (fld w 0 3)) := rfl

theorem decodeOp_78 (w : BitVec 32) : decodeOp w 78 =
    .ok (.sMovh (fld w 19 6) (fld w 3 16) (fld w 0 3)) := rfl

theorem decodeOp_80 (w : BitVec 32) : decodeOp w 80 =
    .ok (.sSld (fld w 19 6) (fld w 13 6) (fld w 11 2) (fld w 7 4) (fld w 3 4) (fld w 0 3)) := rfl

theorem decodeOp_81 (w : BitVec 32) : decodeOp w 81 =
    if bits w 6 1 = 0 then .ok (.sSst (fld w 19 6) (fld w 13 6) (fld w 7 6) (fld w 3 3) (fld w 0 3)) else
    .error (.unassignedSub 81) := rfl

theorem decodeOp_82 (w : BitVec 32) : decodeOp w 82 =
    .ok (.sSatom (fld w 19 6) (fld w 13 6) (fld w 10 3) (fld w 7 3) (fld w 3 4) (fld w 0 3)) := rfl

theorem decodeOp_88 (w : BitVec 32) : decodeOp w 88 =
    .ok (.sB (fld w 3 22) (fld w 0 3)) := rfl

theorem decodeOp_89 (w : BitVec 32) : decodeOp w 89 =
    .ok (.sCall (fld w 19 6) (fld w 3 16) (fld w 0 3)) := rfl

theorem decodeOp_90 (w : BitVec 32) : decodeOp w 90 =
    if bits w 3 4 = 0 ∧ bits w 19 6 = 0 then .ok (.sCallu (fld w 13 6) (fld w 7 6) (fld w 0 3)) else
    .error (.unassignedSub 90) := rfl

theorem decodeOp_91 (w : BitVec 32) : decodeOp w 91 =
    if bits w 3 22 = 0 then .ok (.sRet (fld w 0 3)) else
    .error (.unassignedSub 91) := rfl

theorem decodeOp_92 (w : BitVec 32) : decodeOp w 92 =
    if bits w 3 10 = 0 ∧ bits w 19 6 = 0 then .ok (.sJmpu (fld w 13 6) (fld w 0 3)) else
    .error (.unassignedSub 92) := rfl

theorem decodeOp_93 (w : BitVec 32) : decodeOp w 93 =
    if bits w 13 12 = 0 then .ok (.sEnter (fld w 3 10) (fld w 0 3)) else
    .error (.unassignedSub 93) := rfl

theorem decodeOp_94 (w : BitVec 32) : decodeOp w 94 =
    if bits w 19 6 = 0 then .ok (.sLoop (fld w 13 6) (fld w 3 10) (fld w 0 3)) else
    .error (.unassignedSub 94) := rfl

theorem decodeOp_95 (w : BitVec 32) : decodeOp w 95 =
    if bits w 3 22 = 0 then .ok (.sLbrk (fld w 0 3)) else
    .error (.unassignedSub 95) := rfl

theorem decodeOp_96 (w : BitVec 32) : decodeOp w 96 =
    if bits w 3 22 = 0 then .ok (.sNop (fld w 0 3)) else
    .error (.unassignedSub 96) := rfl

theorem decodeOp_97 (w : BitVec 32) : decodeOp w 97 =
    if bits w 13 12 = 0 then .ok (.sSleep (fld w 3 10) (fld w 0 3)) else
    .error (.unassignedSub 97) := rfl

theorem decodeOp_100 (w : BitVec 32) : decodeOp w 100 =
    if bits w 3 4 = 0 ∧ bits w 11 14 = 0 then .ok (.sBar (fld w 7 4) (fld w 0 3)) else
    if bits w 3 4 = 1 ∧ bits w 11 14 = 0 then .ok (.sArv (fld w 7 4) (fld w 0 3)) else
    if bits w 3 4 = 2 ∧ bits w 11 14 = 0 then .ok (.sAwt (fld w 7 4) (fld w 0 3)) else
    .error (.unassignedSub 100) := rfl

theorem decodeOp_101 (w : BitVec 32) : decodeOp w 101 =
    if bits w 3 22 = 0 then .ok (.sGbar (fld w 0 3)) else
    .error (.unassignedSub 101) := rfl

theorem decodeOp_102 (w : BitVec 32) : decodeOp w 102 =
    if bits w 6 1 = 0 ∧ bits w 10 15 = 0 then .ok (.sFence (fld w 7 3) (fld w 3 3) (fld w 0 3)) else
    .error (.unassignedSub 102) := rfl

theorem decodeOp_103 (w : BitVec 32) : decodeOp w 103 =
    .ok (.sWaitv (fld w 19 6) (fld w 13 6) (fld w 7 6) (fld w 6 1) (fld w 3 3) (fld w 0 3)) := rfl

theorem decodeOp_104 (w : BitVec 32) : decodeOp w 104 =
    if bits w 3 16 = 0 then .ok (.sCseal (fld w 19 6) (fld w 0 3)) else
    .error (.unassignedSub 104) := rfl

theorem decodeOp_105 (w : BitVec 32) : decodeOp w 105 =
    if bits w 13 12 = 0 then .ok (.sCwait (fld w 3 10) (fld w 0 3)) else
    .error (.unassignedSub 105) := rfl

theorem decodeOp_106 (w : BitVec 32) : decodeOp w 106 =
    .ok (.sCyield (fld w 3 22) (fld w 0 3)) := rfl

theorem decodeOp_107 (w : BitVec 32) : decodeOp w 107 =
    if bits w 8 17 = 0 then .ok (.sMwait (fld w 7 1) (fld w 3 4) (fld w 0 3)) else
    .error (.unassignedSub 107) := rfl

theorem decodeOp_108 (w : BitVec 32) : decodeOp w 108 =
    if bits w 4 9 = 0 then .ok (.sRds (fld w 19 6) (fld w 13 6) (fld w 3 1) (fld w 0 3)) else
    .error (.unassignedSub 108) := rfl

theorem decodeOp_109 (w : BitVec 32) : decodeOp w 109 =
    if bits w 3 4 = 0 ∧ bits w 19 6 = 0 then .ok (.sWrs (fld w 13 6) (fld w 7 6) (fld w 0 3)) else
    .error (.unassignedSub 109) := rfl

theorem decodeOp_110 (w : BitVec 32) : decodeOp w 110 =
    if bits w 3 10 = 0 ∧ bits w 19 6 = 0 then .ok (.sSetfmt (fld w 13 6) (fld w 0 3)) else
    if bits w 3 2 = 0 ∧ bits w 6 1 = 1 then .ok (.sSetfmtImm (fld w 19 6) (fld w 13 6) (fld w 7 6) (fld w 5 1) (fld w 0 3)) else
    .error (.unassignedSub 110) := rfl

theorem decodeOp_111 (w : BitVec 32) : decodeOp w 111 =
    if bits w 3 4 = 1 ∧ bits w 10 15 = 0 then .ok (.sWrexecP (fld w 7 3) (fld w 0 3)) else
    if bits w 3 10 = 0 ∧ bits w 19 6 = 0 then .ok (.sWrexec (fld w 13 6) (fld w 0 3)) else
    .error (.unassignedSub 111) := rfl

theorem decodeOp_112 (w : BitVec 32) : decodeOp w 112 =
    if bits w 3 10 = 0 then .ok (.sLaunch (fld w 19 6) (fld w 13 6) (fld w 0 3)) else
    .error (.unassignedSub 112) := rfl

theorem decodeOp_113 (w : BitVec 32) : decodeOp w 113 =
    if bits w 3 22 = 0 then .ok (.sLwait (fld w 0 3)) else
    if bits w 3 10 = 1 ∧ bits w 19 6 = 0 then .ok (.sLwaitGrid (fld w 13 6) (fld w 0 3)) else
    .error (.unassignedSub 113) := rfl

theorem decodeOp_114 (w : BitVec 32) : decodeOp w 114 =
    if bits w 3 22 = 0 then .ok (.sKemit (fld w 0 3)) else
    .error (.unassignedSub 114) := rfl

theorem decodeOp_115 (w : BitVec 32) : decodeOp w 115 =
    if bits w 3 22 = 0 then .ok (.sKcancel (fld w 0 3)) else
    .error (.unassignedSub 115) := rfl

theorem decodeOp_116 (w : BitVec 32) : decodeOp w 116 =
    if bits w 3 22 = 0 then .ok (.sKrepeat (fld w 0 3)) else
    .error (.unassignedSub 116) := rfl

theorem decodeOp_117 (w : BitVec 32) : decodeOp w 117 =
    if bits w 3 22 = 0 then .ok (.sKdone (fld w 0 3)) else
    .error (.unassignedSub 117) := rfl

theorem decodeOp_120 (w : BitVec 32) : decodeOp w 120 =
    if bits w 3 10 = 0 ∧ bits w 19 6 = 0 then .ok (.sSys (fld w 13 6) (fld w 0 3)) else
    .error (.unassignedSub 120) := rfl

theorem decodeOp_121 (w : BitVec 32) : decodeOp w 121 =
    if bits w 3 22 = 0 then .ok (.sHcall (fld w 0 3)) else
    .error (.unassignedSub 121) := rfl

theorem decodeOp_122 (w : BitVec 32) : decodeOp w 122 =
    if bits w 3 22 = 0 then .ok (.sTret (fld w 0 3)) else
    .error (.unassignedSub 122) := rfl

theorem decodeOp_123 (w : BitVec 32) : decodeOp w 123 =
    if bits w 3 22 = 10 then .ok (.sTlbiAll (fld w 0 3)) else
    if bits w 3 4 = 1 ∧ bits w 13 12 = 0 then .ok (.sTlbiCtx (fld w 7 6) (fld w 0 3)) else
    if bits w 3 4 = 2 ∧ bits w 13 12 = 0 then .ok (.sTlbiGlob (fld w 7 6) (fld w 0 3)) else
    if bits w 3 4 = 9 ∧ bits w 13 12 = 0 then .ok (.sTlbiS2 (fld w 7 6) (fld w 0 3)) else
    if bits w 3 4 = 0 ∧ bits w 19 6 = 0 then .ok (.sTlbiVa (fld w 13 6) (fld w 7 6) (fld w 0 3)) else
    if bits w 3 4 = 8 ∧ bits w 19 6 = 0 then .ok (.sTlbiIpa (fld w 13 6) (fld w 7 6) (fld w 0 3)) else
    .error (.unassignedSub 123) := rfl

theorem decodeOp_124 (w : BitVec 32) : decodeOp w 124 =
    if bits w 3 10 = 0 ∧ bits w 19 6 = 0 then .ok (.sKeyret (fld w 13 6) (fld w 0 3)) else
    .error (.unassignedSub 124) := rfl

theorem decodeOp_125 (w : BitVec 32) : decodeOp w 125 =
    if bits w 3 22 = 0 then .ok (.sExit (fld w 0 3)) else
    .error (.unassignedSub 125) := rfl

theorem RoundTrip.vAdd (d : BitVec 6) (a : BitVec 6) (b : BitVec 6) (t : BitVec 2) (p : BitVec 3) :
    RoundTrip.Statement (.vAdd d a b t p) := by
  intro hwf x hx
  have hd := d.isLt
  have ha := a.isLt
  have hb := b.isLt
  have ht := t.isLt
  have hp := p.isLt
  have hwf : ¬ (d.toNat = 0 ∧ a.toNat = 0 ∧ b.toNat = 0 ∧ t.toNat = 0 ∧ p.toNat = 0) := fun e => by
    simp [Instr.wf, BitVec.eq_of_toNat_eq (y := 0#6) e.1, BitVec.eq_of_toNat_eq (y := 0#6) e.2.1, BitVec.eq_of_toNat_eq (y := 0#6) e.2.2.1,
      BitVec.eq_of_toNat_eq (y := 0#2) e.2.2.2.1, BitVec.eq_of_toNat_eq (y := 0#3) e.2.2.2.2] at hwf
  refine decode_of hx (0 + d.toNat * 524288 + a.toNat * 8192 + b.toNat * 128 + t.toNat * 8 + p.toNat)
    (by omega) rfl 0 (by omega) (by omega) ?_
  intro wd hw
  have c0 : ¬ (bits wd 3 4 = 8) := by simp only [bits, hw]; omega
  have c1 : ¬ (bits wd 3 4 = 9) := by simp only [bits, hw]; omega
  have c2 : ¬ (bits wd 3 4 = 14) := by simp only [bits, hw]; omega
  have c3 : ¬ (bits wd 4 3 = 5) := by simp only [bits, hw]; omega
  have c4 : ¬ (bits wd 4 3 = 6) := by simp only [bits, hw]; omega
  have c5 : bits wd 5 2 = 0 := by simp only [bits, hw]; omega
  have fd : fld wd 19 6 = d := fld_of (by rw [hw]; omega)
  have fa : fld wd 13 6 = a := fld_of (by rw [hw]; omega)
  have fb : fld wd 7 6 = b := fld_of (by rw [hw]; omega)
  have ft : fld wd 3 2 = t := fld_of (by rw [hw]; omega)
  have fp : fld wd 0 3 = p := fld_of (by rw [hw]; omega)
  rw [decodeOp_0, if_neg c0, if_neg c1, if_neg c2, if_neg c3, if_neg c4, if_pos c5, fd, fa, fb, ft, fp]

theorem RoundTrip.vSub (d : BitVec 6) (a : BitVec 6) (b : BitVec 6) (t : BitVec 2) (p : BitVec 3) :
    RoundTrip.Statement (.vSub d a b t p) := by
  intro _ x hx
  have hd := d.isLt
  have ha := a.isLt
  have hb := b.isLt
  have ht := t.isLt
  have hp := p.isLt
  refine decode_of hx (32 + d.toNat * 524288 + a.toNat * 8192 + b.toNat * 128 + t.toNat * 8 + p.toNat)
    (by omega) rfl 0 (by omega) (by omega) ?_
  intro wd hw
  have c0 : ¬ (bits wd 3 4 = 8) := by simp only [bits, hw]; omega
  have c1 : ¬ (bits wd 3 4 = 9) := by simp only [bits, hw]; omega
  have c2 : ¬ (bits wd 3 4 = 14) := by simp only [bits, hw]; omega
  have c3 : ¬ (bits wd 4 3 = 5) := by simp only [bits, hw]; omega
  have c4 : ¬ (bits wd 4 3 = 6) := by simp only [bits, hw]; omega
  have c5 : ¬ (bits wd 5 2 = 0) := by simp only [bits, hw]; omega
  have c6 : bits wd 5 2 = 1 := by simp only [bits, hw]; omega
  have fd : fld wd 19 6 = d := fld_of (by rw [hw]; omega)
  have fa : fld wd 13 6 = a := fld_of (by rw [hw]; omega)
  have fb : fld wd 7 6 = b := fld_of (by rw [hw]; omega)
  have ft : fld wd 3 2 = t := fld_of (by rw [hw]; omega)
  have fp : fld wd 0 3 = p := fld_of (by rw [hw]; omega)
  rw [decodeOp_0, if_neg c0, if_neg c1, if_neg c2, if_neg c3, if_neg c4, if_neg c5, if_pos c6, fd, fa, fb, ft, fp]

theorem RoundTrip.vAddx (d : BitVec 6) (a : BitVec 6) (b : BitVec 6) (p : BitVec 3) :
    RoundTrip.Statement (.vAddx d a b p) := by
  intro _ x hx
  have hd := d.isLt
  have ha := a.isLt
  have hb := b.isLt
  have hp := p.isLt
  refine decode_of hx (64 + d.toNat * 524288 + a.toNat * 8192 + b.toNat * 128 + p.toNat)
    (by omega) rfl 0 (by omega) (by omega) ?_
  intro wd hw
  have c0 : bits wd 3 4 = 8 := by simp only [bits, hw]; omega
  have fd : fld wd 19 6 = d := fld_of (by rw [hw]; omega)
  have fa : fld wd 13 6 = a := fld_of (by rw [hw]; omega)
  have fb : fld wd 7 6 = b := fld_of (by rw [hw]; omega)
  have fp : fld wd 0 3 = p := fld_of (by rw [hw]; omega)
  rw [decodeOp_0, if_pos c0, fd, fa, fb, fp]

theorem RoundTrip.vSubx (d : BitVec 6) (a : BitVec 6) (b : BitVec 6) (p : BitVec 3) :
    RoundTrip.Statement (.vSubx d a b p) := by
  intro _ x hx
  have hd := d.isLt
  have ha := a.isLt
  have hb := b.isLt
  have hp := p.isLt
  refine decode_of hx (72 + d.toNat * 524288 + a.toNat * 8192 + b.toNat * 128 + p.toNat)
    (by omega) rfl 0 (by omega) (by omega) ?_
  intro wd hw
  have c0 : ¬ (bits wd 3 4 = 8) := by simp only [bits, hw]; omega
  have c1 : bits wd 3 4 = 9 := by simp only [bits, hw]; omega
  have fd : fld wd 19 6 = d := fld_of (by rw [hw]; omega)
  have fa : fld wd 13 6 = a := fld_of (by rw [hw]; omega)
  have fb : fld wd 7 6 = b := fld_of (by rw [hw]; omega)
  have fp : fld wd 0 3 = p := fld_of (by rw [hw]; omega)
  rw [decodeOp_0, if_neg c0, if_pos c1, fd, fa, fb, fp]

theorem RoundTrip.vMul (d : BitVec 6) (a : BitVec 6) (b : BitVec 6) (t : BitVec 1) (p : BitVec 3) :
    RoundTrip.Statement (.vMul d a b t p) := by
  intro _ x hx
  have hd := d.isLt
  have ha := a.isLt
  have hb := b.isLt
  have ht := t.isLt
  have hp := p.isLt
  refine decode_of hx (80 + d.toNat * 524288 + a.toNat * 8192 + b.toNat * 128 + t.toNat * 8 + p.toNat)
    (by omega) rfl 0 (by omega) (by omega) ?_
  intro wd hw
  have c0 : ¬ (bits wd 3 4 = 8) := by simp only [bits, hw]; omega
  have c1 : ¬ (bits wd 3 4 = 9) := by simp only [bits, hw]; omega
  have c2 : ¬ (bits wd 3 4 = 14) := by simp only [bits, hw]; omega
  have c3 : bits wd 4 3 = 5 := by simp only [bits, hw]; omega
  have fd : fld wd 19 6 = d := fld_of (by rw [hw]; omega)
  have fa : fld wd 13 6 = a := fld_of (by rw [hw]; omega)
  have fb : fld wd 7 6 = b := fld_of (by rw [hw]; omega)
  have ft : fld wd 3 1 = t := fld_of (by rw [hw]; omega)
  have fp : fld wd 0 3 = p := fld_of (by rw [hw]; omega)
  rw [decodeOp_0, if_neg c0, if_neg c1, if_neg c2, if_pos c3, fd, fa, fb, ft, fp]

theorem RoundTrip.vMulh (d : BitVec 6) (a : BitVec 6) (b : BitVec 6) (s : BitVec 1) (p : BitVec 3) :
    RoundTrip.Statement (.vMulh d a b s p) := by
  intro _ x hx
  have hd := d.isLt
  have ha := a.isLt
  have hb := b.isLt
  have hs := s.isLt
  have hp := p.isLt
  refine decode_of hx (96 + d.toNat * 524288 + a.toNat * 8192 + b.toNat * 128 + s.toNat * 8 + p.toNat)
    (by omega) rfl 0 (by omega) (by omega) ?_
  intro wd hw
  have c0 : ¬ (bits wd 3 4 = 8) := by simp only [bits, hw]; omega
  have c1 : ¬ (bits wd 3 4 = 9) := by simp only [bits, hw]; omega
  have c2 : ¬ (bits wd 3 4 = 14) := by simp only [bits, hw]; omega
  have c3 : ¬ (bits wd 4 3 = 5) := by simp only [bits, hw]; omega
  have c4 : bits wd 4 3 = 6 := by simp only [bits, hw]; omega
  have fd : fld wd 19 6 = d := fld_of (by rw [hw]; omega)
  have fa : fld wd 13 6 = a := fld_of (by rw [hw]; omega)
  have fb : fld wd 7 6 = b := fld_of (by rw [hw]; omega)
  have fs : fld wd 3 1 = s := fld_of (by rw [hw]; omega)
  have fp : fld wd 0 3 = p := fld_of (by rw [hw]; omega)
  rw [decodeOp_0, if_neg c0, if_neg c1, if_neg c2, if_neg c3, if_pos c4, fd, fa, fb, fs, fp]

theorem RoundTrip.vMad (d : BitVec 6) (a : BitVec 6) (b : BitVec 6) (p : BitVec 3) :
    RoundTrip.Statement (.vMad d a b p) := by
  intro _ x hx
  have hd := d.isLt
  have ha := a.isLt
  have hb := b.isLt
  have hp := p.isLt
  refine decode_of hx (112 + d.toNat * 524288 + a.toNat * 8192 + b.toNat * 128 + p.toNat)
    (by omega) rfl 0 (by omega) (by omega) ?_
  intro wd hw
  have c0 : ¬ (bits wd 3 4 = 8) := by simp only [bits, hw]; omega
  have c1 : ¬ (bits wd 3 4 = 9) := by simp only [bits, hw]; omega
  have c2 : bits wd 3 4 = 14 := by simp only [bits, hw]; omega
  have fd : fld wd 19 6 = d := fld_of (by rw [hw]; omega)
  have fa : fld wd 13 6 = a := fld_of (by rw [hw]; omega)
  have fb : fld wd 7 6 = b := fld_of (by rw [hw]; omega)
  have fp : fld wd 0 3 = p := fld_of (by rw [hw]; omega)
  rw [decodeOp_0, if_neg c0, if_neg c1, if_pos c2, fd, fa, fb, fp]

theorem RoundTrip.vMadw (d : BitVec 6) (a : BitVec 6) (b : BitVec 6) (s : BitVec 1) (p : BitVec 3) :
    RoundTrip.Statement (.vMadw d a b s p) := by
  intro _ x hx
  have hd := d.isLt
  have ha := a.isLt
  have hb := b.isLt
  have hs := s.isLt
  have hp := p.isLt
  refine decode_of hx (33554432 + d.toNat * 524288 + a.toNat * 8192 + b.toNat * 128 + s.toNat * 8 + p.toNat)
    (by omega) rfl 1 (by omega) (by omega) ?_
  intro wd hw
  have c0 : ¬ (bits wd 3 10 = 4) := by simp only [bits, hw]; omega
  have c1 : ¬ (bits wd 3 10 = 5) := by simp only [bits, hw]; omega
  have c2 : ¬ (bits wd 3 10 = 6) := by simp only [bits, hw]; omega
  have c3 : ¬ (bits wd 3 10 = 11) := by simp only [bits, hw]; omega
  have c4 : ¬ (bits wd 3 10 = 12) := by simp only [bits, hw]; omega
  have c5 : ¬ (bits wd 3 4 = 7) := by simp only [bits, hw]; omega
  have c6 : ¬ (bits wd 3 4 = 8) := by simp only [bits, hw]; omega
  have c7 : ¬ (bits wd 3 4 = 9) := by simp only [bits, hw]; omega
  have c8 : ¬ (bits wd 3 4 = 10) := by simp only [bits, hw]; omega
  have c9 : bits wd 4 3 = 0 := by simp only [bits, hw]; omega
  have fd : fld wd 19 6 = d := fld_of (by rw [hw]; omega)
  have fa : fld wd 13 6 = a := fld_of (by rw [hw]; omega)
  have fb : fld wd 7 6 = b := fld_of (by rw [hw]; omega)
  have fs : fld wd 3 1 = s := fld_of (by rw [hw]; omega)
  have fp : fld wd 0 3 = p := fld_of (by rw [hw]; omega)
  rw [decodeOp_1, if_neg c0, if_neg c1, if_neg c2, if_neg c3, if_neg c4, if_neg c5, if_neg c6, if_neg c7, if_neg c8, if_pos c9, fd, fa, fb, fs, fp]

theorem RoundTrip.vSad (d : BitVec 6) (a : BitVec 6) (b : BitVec 6) (s : BitVec 1) (p : BitVec 3) :
    RoundTrip.Statement (.vSad d a b s p) := by
  intro _ x hx
  have hd := d.isLt
  have ha := a.isLt
  have hb := b.isLt
  have hs := s.isLt
  have hp := p.isLt
  refine decode_of hx (33554448 + d.toNat * 524288 + a.toNat * 8192 + b.toNat * 128 + s.toNat * 8 + p.toNat)
    (by omega) rfl 1 (by omega) (by omega) ?_
  intro wd hw
  have c0 : ¬ (bits wd 3 10 = 4) := by simp only [bits, hw]; omega
  have c1 : ¬ (bits wd 3 10 = 5) := by simp only [bits, hw]; omega
  have c2 : ¬ (bits wd 3 10 = 6) := by simp only [bits, hw]; omega
  have c3 : ¬ (bits wd 3 10 = 11) := by simp only [bits, hw]; omega
  have c4 : ¬ (bits wd 3 10 = 12) := by simp only [bits, hw]; omega
  have c5 : ¬ (bits wd 3 4 = 7) := by simp only [bits, hw]; omega
  have c6 : ¬ (bits wd 3 4 = 8) := by simp only [bits, hw]; omega
  have c7 : ¬ (bits wd 3 4 = 9) := by simp only [bits, hw]; omega
  have c8 : ¬ (bits wd 3 4 = 10) := by simp only [bits, hw]; omega
  have c9 : ¬ (bits wd 4 3 = 0) := by simp only [bits, hw]; omega
  have c10 : bits wd 4 3 = 1 := by simp only [bits, hw]; omega
  have fd : fld wd 19 6 = d := fld_of (by rw [hw]; omega)
  have fa : fld wd 13 6 = a := fld_of (by rw [hw]; omega)
  have fb : fld wd 7 6 = b := fld_of (by rw [hw]; omega)
  have fs : fld wd 3 1 = s := fld_of (by rw [hw]; omega)
  have fp : fld wd 0 3 = p := fld_of (by rw [hw]; omega)
  rw [decodeOp_1, if_neg c0, if_neg c1, if_neg c2, if_neg c3, if_neg c4, if_neg c5, if_neg c6, if_neg c7, if_neg c8, if_neg c9, if_pos c10, fd, fa, fb, fs, fp]

theorem RoundTrip.vAbs (d : BitVec 6) (a : BitVec 6) (p : BitVec 3) :
    RoundTrip.Statement (.vAbs d a p) := by
  intro _ x hx
  have hd := d.isLt
  have ha := a.isLt
  have hp := p.isLt
  refine decode_of hx (33554464 + d.toNat * 524288 + a.toNat * 8192 + p.toNat)
    (by omega) rfl 1 (by omega) (by omega) ?_
  intro wd hw
  have c0 : bits wd 3 10 = 4 := by simp only [bits, hw]; omega
  have fd : fld wd 19 6 = d := fld_of (by rw [hw]; omega)
  have fa : fld wd 13 6 = a := fld_of (by rw [hw]; omega)
  have fp : fld wd 0 3 = p := fld_of (by rw [hw]; omega)
  rw [decodeOp_1, if_pos c0, fd, fa, fp]

theorem RoundTrip.vNegI32 (d : BitVec 6) (a : BitVec 6) (p : BitVec 3) :
    RoundTrip.Statement (.vNegI32 d a p) := by
  intro _ x hx
  have hd := d.isLt
  have ha := a.isLt
  have hp := p.isLt
  refine decode_of hx (33554472 + d.toNat * 524288 + a.toNat * 8192 + p.toNat)
    (by omega) rfl 1 (by omega) (by omega) ?_
  intro wd hw
  have c0 : ¬ (bits wd 3 10 = 4) := by simp only [bits, hw]; omega
  have c1 : bits wd 3 10 = 5 := by simp only [bits, hw]; omega
  have fd : fld wd 19 6 = d := fld_of (by rw [hw]; omega)
  have fa : fld wd 13 6 = a := fld_of (by rw [hw]; omega)
  have fp : fld wd 0 3 = p := fld_of (by rw [hw]; omega)
  rw [decodeOp_1, if_neg c0, if_pos c1, fd, fa, fp]

theorem RoundTrip.vNegI64 (d : BitVec 6) (a : BitVec 6) (p : BitVec 3) :
    RoundTrip.Statement (.vNegI64 d a p) := by
  intro _ x hx
  have hd := d.isLt
  have ha := a.isLt
  have hp := p.isLt
  refine decode_of hx (33554480 + d.toNat * 524288 + a.toNat * 8192 + p.toNat)
    (by omega) rfl 1 (by omega) (by omega) ?_
  intro wd hw
  have c0 : ¬ (bits wd 3 10 = 4) := by simp only [bits, hw]; omega
  have c1 : ¬ (bits wd 3 10 = 5) := by simp only [bits, hw]; omega
  have c2 : bits wd 3 10 = 6 := by simp only [bits, hw]; omega
  have fd : fld wd 19 6 = d := fld_of (by rw [hw]; omega)
  have fa : fld wd 13 6 = a := fld_of (by rw [hw]; omega)
  have fp : fld wd 0 3 = p := fld_of (by rw [hw]; omega)
  rw [decodeOp_1, if_neg c0, if_neg c1, if_pos c2, fd, fa, fp]

theorem RoundTrip.vBfxN32 (d : BitVec 6) (a : BitVec 6) (b : BitVec 6) (p : BitVec 3) :
    RoundTrip.Statement (.vBfxN32 d a b p) := by
  intro _ x hx
  have hd := d.isLt
  have ha := a.isLt
  have hb := b.isLt
  have hp := p.isLt
  refine decode_of hx (33554488 + d.toNat * 524288 + a.toNat * 8192 + b.toNat * 128 + p.toNat)
    (by omega) rfl 1 (by omega) (by omega) ?_
  intro wd hw
  have c0 : ¬ (bits wd 3 10 = 4) := by simp only [bits, hw]; omega
  have c1 : ¬ (bits wd 3 10 = 5) := by simp only [bits, hw]; omega
  have c2 : ¬ (bits wd 3 10 = 6) := by simp only [bits, hw]; omega
  have c3 : ¬ (bits wd 3 10 = 11) := by simp only [bits, hw]; omega
  have c4 : ¬ (bits wd 3 10 = 12) := by simp only [bits, hw]; omega
  have c5 : bits wd 3 4 = 7 := by simp only [bits, hw]; omega
  have fd : fld wd 19 6 = d := fld_of (by rw [hw]; omega)
  have fa : fld wd 13 6 = a := fld_of (by rw [hw]; omega)
  have fb : fld wd 7 6 = b := fld_of (by rw [hw]; omega)
  have fp : fld wd 0 3 = p := fld_of (by rw [hw]; omega)
  rw [decodeOp_1, if_neg c0, if_neg c1, if_neg c2, if_neg c3, if_neg c4, if_pos c5, fd, fa, fb, fp]

theorem RoundTrip.vBfxI32 (d : BitVec 6) (a : BitVec 6) (b : BitVec 6) (p : BitVec 3) :
    RoundTrip.Statement (.vBfxI32 d a b p) := by
  intro _ x hx
  have hd := d.isLt
  have ha := a.isLt
  have hb := b.isLt
  have hp := p.isLt
  refine decode_of hx (33554496 + d.toNat * 524288 + a.toNat * 8192 + b.toNat * 128 + p.toNat)
    (by omega) rfl 1 (by omega) (by omega) ?_
  intro wd hw
  have c0 : ¬ (bits wd 3 10 = 4) := by simp only [bits, hw]; omega
  have c1 : ¬ (bits wd 3 10 = 5) := by simp only [bits, hw]; omega
  have c2 : ¬ (bits wd 3 10 = 6) := by simp only [bits, hw]; omega
  have c3 : ¬ (bits wd 3 10 = 11) := by simp only [bits, hw]; omega
  have c4 : ¬ (bits wd 3 10 = 12) := by simp only [bits, hw]; omega
  have c5 : ¬ (bits wd 3 4 = 7) := by simp only [bits, hw]; omega
  have c6 : bits wd 3 4 = 8 := by simp only [bits, hw]; omega
  have fd : fld wd 19 6 = d := fld_of (by rw [hw]; omega)
  have fa : fld wd 13 6 = a := fld_of (by rw [hw]; omega)
  have fb : fld wd 7 6 = b := fld_of (by rw [hw]; omega)
  have fp : fld wd 0 3 = p := fld_of (by rw [hw]; omega)
  rw [decodeOp_1, if_neg c0, if_neg c1, if_neg c2, if_neg c3, if_neg c4, if_neg c5, if_pos c6, fd, fa, fb, fp]

theorem RoundTrip.vBfi (d : BitVec 6) (a : BitVec 6) (b : BitVec 6) (p : BitVec 3) :
    RoundTrip.Statement (.vBfi d a b p) := by
  intro _ x hx
  have hd := d.isLt
  have ha := a.isLt
  have hb := b.isLt
  have hp := p.isLt
  refine decode_of hx (33554504 + d.toNat * 524288 + a.toNat * 8192 + b.toNat * 128 + p.toNat)
    (by omega) rfl 1 (by omega) (by omega) ?_
  intro wd hw
  have c0 : ¬ (bits wd 3 10 = 4) := by simp only [bits, hw]; omega
  have c1 : ¬ (bits wd 3 10 = 5) := by simp only [bits, hw]; omega
  have c2 : ¬ (bits wd 3 10 = 6) := by simp only [bits, hw]; omega
  have c3 : ¬ (bits wd 3 10 = 11) := by simp only [bits, hw]; omega
  have c4 : ¬ (bits wd 3 10 = 12) := by simp only [bits, hw]; omega
  have c5 : ¬ (bits wd 3 4 = 7) := by simp only [bits, hw]; omega
  have c6 : ¬ (bits wd 3 4 = 8) := by simp only [bits, hw]; omega
  have c7 : bits wd 3 4 = 9 := by simp only [bits, hw]; omega
  have fd : fld wd 19 6 = d := fld_of (by rw [hw]; omega)
  have fa : fld wd 13 6 = a := fld_of (by rw [hw]; omega)
  have fb : fld wd 7 6 = b := fld_of (by rw [hw]; omega)
  have fp : fld wd 0 3 = p := fld_of (by rw [hw]; omega)
  rw [decodeOp_1, if_neg c0, if_neg c1, if_neg c2, if_neg c3, if_neg c4, if_neg c5, if_neg c6, if_pos c7, fd, fa, fb, fp]

theorem RoundTrip.vBpick (d : BitVec 6) (a : BitVec 6) (b : BitVec 6) (p : BitVec 3) :
    RoundTrip.Statement (.vBpick d a b p) := by
  intro _ x hx
  have hd := d.isLt
  have ha := a.isLt
  have hb := b.isLt
  have hp := p.isLt
  refine decode_of hx (33554512 + d.toNat * 524288 + a.toNat * 8192 + b.toNat * 128 + p.toNat)
    (by omega) rfl 1 (by omega) (by omega) ?_
  intro wd hw
  have c0 : ¬ (bits wd 3 10 = 4) := by simp only [bits, hw]; omega
  have c1 : ¬ (bits wd 3 10 = 5) := by simp only [bits, hw]; omega
  have c2 : ¬ (bits wd 3 10 = 6) := by simp only [bits, hw]; omega
  have c3 : ¬ (bits wd 3 10 = 11) := by simp only [bits, hw]; omega
  have c4 : ¬ (bits wd 3 10 = 12) := by simp only [bits, hw]; omega
  have c5 : ¬ (bits wd 3 4 = 7) := by simp only [bits, hw]; omega
  have c6 : ¬ (bits wd 3 4 = 8) := by simp only [bits, hw]; omega
  have c7 : ¬ (bits wd 3 4 = 9) := by simp only [bits, hw]; omega
  have c8 : bits wd 3 4 = 10 := by simp only [bits, hw]; omega
  have fd : fld wd 19 6 = d := fld_of (by rw [hw]; omega)
  have fa : fld wd 13 6 = a := fld_of (by rw [hw]; omega)
  have fb : fld wd 7 6 = b := fld_of (by rw [hw]; omega)
  have fp : fld wd 0 3 = p := fld_of (by rw [hw]; omega)
  rw [decodeOp_1, if_neg c0, if_neg c1, if_neg c2, if_neg c3, if_neg c4, if_neg c5, if_neg c6, if_neg c7, if_pos c8, fd, fa, fb, fp]

theorem RoundTrip.vMovB32 (d : BitVec 6) (a : BitVec 6) (p : BitVec 3) :
    RoundTrip.Statement (.vMovB32 d a p) := by
  intro _ x hx
  have hd := d.isLt
  have ha := a.isLt
  have hp := p.isLt
  refine decode_of hx (33554520 + d.toNat * 524288 + a.toNat * 8192 + p.toNat)
    (by omega) rfl 1 (by omega) (by omega) ?_
  intro wd hw
  have c0 : ¬ (bits wd 3 10 = 4) := by simp only [bits, hw]; omega
  have c1 : ¬ (bits wd 3 10 = 5) := by simp only [bits, hw]; omega
  have c2 : ¬ (bits wd 3 10 = 6) := by simp only [bits, hw]; omega
  have c3 : bits wd 3 10 = 11 := by simp only [bits, hw]; omega
  have fd : fld wd 19 6 = d := fld_of (by rw [hw]; omega)
  have fa : fld wd 13 6 = a := fld_of (by rw [hw]; omega)
  have fp : fld wd 0 3 = p := fld_of (by rw [hw]; omega)
  rw [decodeOp_1, if_neg c0, if_neg c1, if_neg c2, if_pos c3, fd, fa, fp]

theorem RoundTrip.vMovB64 (d : BitVec 6) (a : BitVec 6) (p : BitVec 3) :
    RoundTrip.Statement (.vMovB64 d a p) := by
  intro _ x hx
  have hd := d.isLt
  have ha := a.isLt
  have hp := p.isLt
  refine decode_of hx (33554528 + d.toNat * 524288 + a.toNat * 8192 + p.toNat)
    (by omega) rfl 1 (by omega) (by omega) ?_
  intro wd hw
  have c0 : ¬ (bits wd 3 10 = 4) := by simp only [bits, hw]; omega
  have c1 : ¬ (bits wd 3 10 = 5) := by simp only [bits, hw]; omega
  have c2 : ¬ (bits wd 3 10 = 6) := by simp only [bits, hw]; omega
  have c3 : ¬ (bits wd 3 10 = 11) := by simp only [bits, hw]; omega
  have c4 : bits wd 3 10 = 12 := by simp only [bits, hw]; omega
  have fd : fld wd 19 6 = d := fld_of (by rw [hw]; omega)
  have fa : fld wd 13 6 = a := fld_of (by rw [hw]; omega)
  have fp : fld wd 0 3 = p := fld_of (by rw [hw]; omega)
  rw [decodeOp_1, if_neg c0, if_neg c1, if_neg c2, if_neg c3, if_pos c4, fd, fa, fp]

theorem RoundTrip.vMin (d : BitVec 6) (a : BitVec 6) (b : BitVec 6) (w : BitVec 1) (s : BitVec 1) (p : BitVec 3) :
    RoundTrip.Statement (.vMin d a b w s p) := by
  intro _ x hx
  have hd := d.isLt
  have ha := a.isLt
  have hb := b.isLt
  have hw := w.isLt
  have hs := s.isLt
  have hp := p.isLt
  refine decode_of hx (67108864 + d.toNat * 524288 + a.toNat * 8192 + b.toNat * 128 + w.toNat * 32 + s.toNat * 8 + p.toNat)
    (by omega) rfl 2 (by omega) (by omega) ?_
  intro wd hw
  have c0 : bits wd 4 1 = 0 ∧ bits wd 6 1 = 0 := by simp only [bits, hw]; omega
  have fd : fld wd 19 6 = d := fld_of (by rw [hw]; omega)
  have fa : fld wd 13 6 = a := fld_of (by rw [hw]; omega)
  have fb : fld wd 7 6 = b := fld_of (by rw [hw]; omega)
  have fw : fld wd 5 1 = w := fld_of (by rw [hw]; omega)
  have fs : fld wd 3 1 = s := fld_of (by rw [hw]; omega)
  have fp : fld wd 0 3 = p := fld_of (by rw [hw]; omega)
  rw [decodeOp_2, if_pos c0, fd, fa, fb, fw, fs, fp]

theorem RoundTrip.vMax (d : BitVec 6) (a : BitVec 6) (b : BitVec 6) (w : BitVec 1) (s : BitVec 1) (p : BitVec 3) :
    RoundTrip.Statement (.vMax d a b w s p) := by
  intro _ x hx
  have hd := d.isLt
  have ha := a.isLt
  have hb := b.isLt
  have hw := w.isLt
  have hs := s.isLt
  have hp := p.isLt
  refine decode_of hx (67108880 + d.toNat * 524288 + a.toNat * 8192 + b.toNat * 128 + w.toNat * 32 + s.toNat * 8 + p.toNat)
    (by omega) rfl 2 (by omega) (by omega) ?_
  intro wd hw
  have c0 : ¬ (bits wd 4 1 = 0 ∧ bits wd 6 1 = 0) := by simp only [bits, hw]; omega
  have c1 : bits wd 4 1 = 1 ∧ bits wd 6 1 = 0 := by simp only [bits, hw]; omega
  have fd : fld wd 19 6 = d := fld_of (by rw [hw]; omega)
  have fa : fld wd 13 6 = a := fld_of (by rw [hw]; omega)
  have fb : fld wd 7 6 = b := fld_of (by rw [hw]; omega)
  have fw : fld wd 5 1 = w := fld_of (by rw [hw]; omega)
  have fs : fld wd 3 1 = s := fld_of (by rw [hw]; omega)
  have fp : fld wd 0 3 = p := fld_of (by rw [hw]; omega)
  rw [decodeOp_2, if_neg c0, if_pos c1, fd, fa, fb, fw, fs, fp]

theorem RoundTrip.vAnd (d : BitVec 6) (a : BitVec 6) (b : BitVec 6) (p : BitVec 3) :
    RoundTrip.Statement (.vAnd d a b p) := by
  intro _ x hx
  have hd := d.isLt
  have ha := a.isLt
  have hb := b.isLt
  have hp := p.isLt
  refine decode_of hx (100663296 + d.toNat * 524288 + a.toNat * 8192 + b.toNat * 128 + p.toNat)
    (by omega) rfl 3 (by omega) (by omega) ?_
  intro wd hw
  have c0 : ¬ (bits wd 3 10 = 9) := by simp only [bits, hw]; omega
  have c1 : ¬ (bits wd 3 10 = 10) := by simp only [bits, hw]; omega
  have c2 : ¬ (bits wd 3 10 = 11) := by simp only [bits, hw]; omega
  have c3 : bits wd 3 4 = 0 := by simp only [bits, hw]; omega
  have fd : fld wd 19 6 = d := fld_of (by rw [hw]; omega)
  have fa : fld wd 13 6 = a := fld_of (by rw [hw]; omega)
  have fb : fld wd 7 6 = b := fld_of (by rw [hw]; omega)
  have fp : fld wd 0 3 = p := fld_of (by rw [hw]; omega)
  rw [decodeOp_3, if_neg c0, if_neg c1, if_neg c2, if_pos c3, fd, fa, fb, fp]

theorem RoundTrip.vOr (d : BitVec 6) (a : BitVec 6) (b : BitVec 6) (p : BitVec 3) :
    RoundTrip.Statement (.vOr d a b p) := by
  intro _ x hx
  have hd := d.isLt
  have ha := a.isLt
  have hb := b.isLt
  have hp := p.isLt
  refine decode_of hx (100663304 + d.toNat * 524288 + a.toNat * 8192 + b.toNat * 128 + p.toNat)
    (by omega) rfl 3 (by omega) (by omega) ?_
  intro wd hw
  have c0 : ¬ (bits wd 3 10 = 9) := by simp only [bits, hw]; omega
  have c1 : ¬ (bits wd 3 10 = 10) := by simp only [bits, hw]; omega
  have c2 : ¬ (bits wd 3 10 = 11) := by simp only [bits, hw]; omega
  have c3 : ¬ (bits wd 3 4 = 0) := by simp only [bits, hw]; omega
  have c4 : bits wd 3 4 = 1 := by simp only [bits, hw]; omega
  have fd : fld wd 19 6 = d := fld_of (by rw [hw]; omega)
  have fa : fld wd 13 6 = a := fld_of (by rw [hw]; omega)
  have fb : fld wd 7 6 = b := fld_of (by rw [hw]; omega)
  have fp : fld wd 0 3 = p := fld_of (by rw [hw]; omega)
  rw [decodeOp_3, if_neg c0, if_neg c1, if_neg c2, if_neg c3, if_pos c4, fd, fa, fb, fp]

theorem RoundTrip.vXor (d : BitVec 6) (a : BitVec 6) (b : BitVec 6) (p : BitVec 3) :
    RoundTrip.Statement (.vXor d a b p) := by
  intro _ x hx
  have hd := d.isLt
  have ha := a.isLt
  have hb := b.isLt
  have hp := p.isLt
  refine decode_of hx (100663312 + d.toNat * 524288 + a.toNat * 8192 + b.toNat * 128 + p.toNat)
    (by omega) rfl 3 (by omega) (by omega) ?_
  intro wd hw
  have c0 : ¬ (bits wd 3 10 = 9) := by simp only [bits, hw]; omega
  have c1 : ¬ (bits wd 3 10 = 10) := by simp only [bits, hw]; omega
  have c2 : ¬ (bits wd 3 10 = 11) := by simp only [bits, hw]; omega
  have c3 : ¬ (bits wd 3 4 = 0) := by simp only [bits, hw]; omega
  have c4 : ¬ (bits wd 3 4 = 1) := by simp only [bits, hw]; omega
  have c5 : bits wd 3 4 = 2 := by simp only [bits, hw]; omega
  have fd : fld wd 19 6 = d := fld_of (by rw [hw]; omega)
  have fa : fld wd 13 6 = a := fld_of (by rw [hw]; omega)
  have fb : fld wd 7 6 = b := fld_of (by rw [hw]; omega)
  have fp : fld wd 0 3 = p := fld_of (by rw [hw]; omega)
  rw [decodeOp_3, if_neg c0, if_neg c1, if_neg c2, if_neg c3, if_neg c4, if_pos c5, fd, fa, fb, fp]

theorem RoundTrip.vAndn (d : BitVec 6) (a : BitVec 6) (b : BitVec 6) (p : BitVec 3) :
    RoundTrip.Statement (.vAndn d a b p) := by
  intro _ x hx
  have hd := d.isLt
  have ha := a.isLt
  have hb := b.isLt
  have hp := p.isLt
  refine decode_of hx (100663320 + d.toNat * 524288 + a.toNat * 8192 + b.toNat * 128 + p.toNat)
    (by omega) rfl 3 (by omega) (by omega) ?_
  intro wd hw
  have c0 : ¬ (bits wd 3 10 = 9) := by simp only [bits, hw]; omega
  have c1 : ¬ (bits wd 3 10 = 10) := by simp only [bits, hw]; omega
  have c2 : ¬ (bits wd 3 10 = 11) := by simp only [bits, hw]; omega
  have c3 : ¬ (bits wd 3 4 = 0) := by simp only [bits, hw]; omega
  have c4 : ¬ (bits wd 3 4 = 1) := by simp only [bits, hw]; omega
  have c5 : ¬ (bits wd 3 4 = 2) := by simp only [bits, hw]; omega
  have c6 : bits wd 3 4 = 3 := by simp only [bits, hw]; omega
  have fd : fld wd 19 6 = d := fld_of (by rw [hw]; omega)
  have fa : fld wd 13 6 = a := fld_of (by rw [hw]; omega)
  have fb : fld wd 7 6 = b := fld_of (by rw [hw]; omega)
  have fp : fld wd 0 3 = p := fld_of (by rw [hw]; omega)
  rw [decodeOp_3, if_neg c0, if_neg c1, if_neg c2, if_neg c3, if_neg c4, if_neg c5, if_pos c6, fd, fa, fb, fp]

theorem RoundTrip.vShl (d : BitVec 6) (a : BitVec 6) (b : BitVec 6) (p : BitVec 3) :
    RoundTrip.Statement (.vShl d a b p) := by
  intro _ x hx
  have hd := d.isLt
  have ha := a.isLt
  have hb := b.isLt
  have hp := p.isLt
  refine decode_of hx (100663328 + d.toNat * 524288 + a.toNat * 8192 + b.toNat * 128 + p.toNat)
    (by omega) rfl 3 (by omega) (by omega) ?_
  intro wd hw
  have c0 : ¬ (bits wd 3 10 = 9) := by simp only [bits, hw]; omega
  have c1 : ¬ (bits wd 3 10 = 10) := by simp only [bits, hw]; omega
  have c2 : ¬ (bits wd 3 10 = 11) := by simp only [bits, hw]; omega
  have c3 : ¬ (bits wd 3 4 = 0) := by simp only [bits, hw]; omega
  have c4 : ¬ (bits wd 3 4 = 1) := by simp only [bits, hw]; omega
  have c5 : ¬ (bits wd 3 4 = 2) := by simp only [bits, hw]; omega
  have c6 : ¬ (bits wd 3 4 = 3) := by simp only [bits, hw]; omega
  have c7 : bits wd 3 4 = 4 := by simp only [bits, hw]; omega
  have fd : fld wd 19 6 = d := fld_of (by rw [hw]; omega)
  have fa : fld wd 13 6 = a := fld_of (by rw [hw]; omega)
  have fb : fld wd 7 6 = b := fld_of (by rw [hw]; omega)
  have fp : fld wd 0 3 = p := fld_of (by rw [hw]; omega)
  rw [decodeOp_3, if_neg c0, if_neg c1, if_neg c2, if_neg c3, if_neg c4, if_neg c5, if_neg c6, if_pos c7, fd, fa, fb, fp]

theorem RoundTrip.vShr (d : BitVec 6) (a : BitVec 6) (b : BitVec 6) (p : BitVec 3) :
    RoundTrip.Statement (.vShr d a b p) := by
  intro _ x hx
  have hd := d.isLt
  have ha := a.isLt
  have hb := b.isLt
  have hp := p.isLt
  refine decode_of hx (100663336 + d.toNat * 524288 + a.toNat * 8192 + b.toNat * 128 + p.toNat)
    (by omega) rfl 3 (by omega) (by omega) ?_
  intro wd hw
  have c0 : ¬ (bits wd 3 10 = 9) := by simp only [bits, hw]; omega
  have c1 : ¬ (bits wd 3 10 = 10) := by simp only [bits, hw]; omega
  have c2 : ¬ (bits wd 3 10 = 11) := by simp only [bits, hw]; omega
  have c3 : ¬ (bits wd 3 4 = 0) := by simp only [bits, hw]; omega
  have c4 : ¬ (bits wd 3 4 = 1) := by simp only [bits, hw]; omega
  have c5 : ¬ (bits wd 3 4 = 2) := by simp only [bits, hw]; omega
  have c6 : ¬ (bits wd 3 4 = 3) := by simp only [bits, hw]; omega
  have c7 : ¬ (bits wd 3 4 = 4) := by simp only [bits, hw]; omega
  have c8 : bits wd 3 4 = 5 := by simp only [bits, hw]; omega
  have fd : fld wd 19 6 = d := fld_of (by rw [hw]; omega)
  have fa : fld wd 13 6 = a := fld_of (by rw [hw]; omega)
  have fb : fld wd 7 6 = b := fld_of (by rw [hw]; omega)
  have fp : fld wd 0 3 = p := fld_of (by rw [hw]; omega)
  rw [decodeOp_3, if_neg c0, if_neg c1, if_neg c2, if_neg c3, if_neg c4, if_neg c5, if_neg c6, if_neg c7, if_pos c8, fd, fa, fb, fp]

theorem RoundTrip.vSar (d : BitVec 6) (a : BitVec 6) (b : BitVec 6) (p : BitVec 3) :
    RoundTrip.Statement (.vSar d a b p) := by
  intro _ x hx
  have hd := d.isLt
  have ha := a.isLt
  have hb := b.isLt
  have hp := p.isLt
  refine decode_of hx (100663344 + d.toNat * 524288 + a.toNat * 8192 + b.toNat * 128 + p.toNat)
    (by omega) rfl 3 (by omega) (by omega) ?_
  intro wd hw
  have c0 : ¬ (bits wd 3 10 = 9) := by simp only [bits, hw]; omega
  have c1 : ¬ (bits wd 3 10 = 10) := by simp only [bits, hw]; omega
  have c2 : ¬ (bits wd 3 10 = 11) := by simp only [bits, hw]; omega
  have c3 : ¬ (bits wd 3 4 = 0) := by simp only [bits, hw]; omega
  have c4 : ¬ (bits wd 3 4 = 1) := by simp only [bits, hw]; omega
  have c5 : ¬ (bits wd 3 4 = 2) := by simp only [bits, hw]; omega
  have c6 : ¬ (bits wd 3 4 = 3) := by simp only [bits, hw]; omega
  have c7 : ¬ (bits wd 3 4 = 4) := by simp only [bits, hw]; omega
  have c8 : ¬ (bits wd 3 4 = 5) := by simp only [bits, hw]; omega
  have c9 : bits wd 3 4 = 6 := by simp only [bits, hw]; omega
  have fd : fld wd 19 6 = d := fld_of (by rw [hw]; omega)
  have fa : fld wd 13 6 = a := fld_of (by rw [hw]; omega)
  have fb : fld wd 7 6 = b := fld_of (by rw [hw]; omega)
  have fp : fld wd 0 3 = p := fld_of (by rw [hw]; omega)
  rw [decodeOp_3, if_neg c0, if_neg c1, if_neg c2, if_neg c3, if_neg c4, if_neg c5, if_neg c6, if_neg c7, if_neg c8, if_pos c9, fd, fa, fb, fp]

theorem RoundTrip.vRot (d : BitVec 6) (a : BitVec 6) (b : BitVec 6) (p : BitVec 3) :
    RoundTrip.Statement (.vRot d a b p) := by
  intro _ x hx
  have hd := d.isLt
  have ha := a.isLt
  have hb := b.isLt
  have hp := p.isLt
  refine decode_of hx (100663352 + d.toNat * 524288 + a.toNat * 8192 + b.toNat * 128 + p.toNat)
    (by omega) rfl 3 (by omega) (by omega) ?_
  intro wd hw
  have c0 : ¬ (bits wd 3 10 = 9) := by simp only [bits, hw]; omega
  have c1 : ¬ (bits wd 3 10 = 10) := by simp only [bits, hw]; omega
  have c2 : ¬ (bits wd 3 10 = 11) := by simp only [bits, hw]; omega
  have c3 : ¬ (bits wd 3 4 = 0) := by simp only [bits, hw]; omega
  have c4 : ¬ (bits wd 3 4 = 1) := by simp only [bits, hw]; omega
  have c5 : ¬ (bits wd 3 4 = 2) := by simp only [bits, hw]; omega
  have c6 : ¬ (bits wd 3 4 = 3) := by simp only [bits, hw]; omega
  have c7 : ¬ (bits wd 3 4 = 4) := by simp only [bits, hw]; omega
  have c8 : ¬ (bits wd 3 4 = 5) := by simp only [bits, hw]; omega
  have c9 : ¬ (bits wd 3 4 = 6) := by simp only [bits, hw]; omega
  have c10 : bits wd 3 4 = 7 := by simp only [bits, hw]; omega
  have fd : fld wd 19 6 = d := fld_of (by rw [hw]; omega)
  have fa : fld wd 13 6 = a := fld_of (by rw [hw]; omega)
  have fb : fld wd 7 6 = b := fld_of (by rw [hw]; omega)
  have fp : fld wd 0 3 = p := fld_of (by rw [hw]; omega)
  rw [decodeOp_3, if_neg c0, if_neg c1, if_neg c2, if_neg c3, if_neg c4, if_neg c5, if_neg c6, if_neg c7, if_neg c8, if_neg c9, if_pos c10, fd, fa, fb, fp]

theorem RoundTrip.vShf (d : BitVec 6) (a : BitVec 6) (b : BitVec 6) (p : BitVec 3) :
    RoundTrip.Statement (.vShf d a b p) := by
  intro _ x hx
  have hd := d.isLt
  have ha := a.isLt
  have hb := b.isLt
  have hp := p.isLt
  refine decode_of hx (100663360 + d.toNat * 524288 + a.toNat * 8192 + b.toNat * 128 + p.toNat)
    (by omega) rfl 3 (by omega) (by omega) ?_
  intro wd hw
  have c0 : ¬ (bits wd 3 10 = 9) := by simp only [bits, hw]; omega
  have c1 : ¬ (bits wd 3 10 = 10) := by simp only [bits, hw]; omega
  have c2 : ¬ (bits wd 3 10 = 11) := by simp only [bits, hw]; omega
  have c3 : ¬ (bits wd 3 4 = 0) := by simp only [bits, hw]; omega
  have c4 : ¬ (bits wd 3 4 = 1) := by simp only [bits, hw]; omega
  have c5 : ¬ (bits wd 3 4 = 2) := by simp only [bits, hw]; omega
  have c6 : ¬ (bits wd 3 4 = 3) := by simp only [bits, hw]; omega
  have c7 : ¬ (bits wd 3 4 = 4) := by simp only [bits, hw]; omega
  have c8 : ¬ (bits wd 3 4 = 5) := by simp only [bits, hw]; omega
  have c9 : ¬ (bits wd 3 4 = 6) := by simp only [bits, hw]; omega
  have c10 : ¬ (bits wd 3 4 = 7) := by simp only [bits, hw]; omega
  have c11 : bits wd 3 4 = 8 := by simp only [bits, hw]; omega
  have fd : fld wd 19 6 = d := fld_of (by rw [hw]; omega)
  have fa : fld wd 13 6 = a := fld_of (by rw [hw]; omega)
  have fb : fld wd 7 6 = b := fld_of (by rw [hw]; omega)
  have fp : fld wd 0 3 = p := fld_of (by rw [hw]; omega)
  rw [decodeOp_3, if_neg c0, if_neg c1, if_neg c2, if_neg c3, if_neg c4, if_neg c5, if_neg c6, if_neg c7, if_neg c8, if_neg c9, if_neg c10, if_pos c11, fd, fa, fb, fp]

theorem RoundTrip.vClz (d : BitVec 6) (a : BitVec 6) (p : BitVec 3) :
    RoundTrip.Statement (.vClz d a p) := by
  intro _ x hx
  have hd := d.isLt
  have ha := a.isLt
  have hp := p.isLt
  refine decode_of hx (100663368 + d.toNat * 524288 + a.toNat * 8192 + p.toNat)
    (by omega) rfl 3 (by omega) (by omega) ?_
  intro wd hw
  have c0 : bits wd 3 10 = 9 := by simp only [bits, hw]; omega
  have fd : fld wd 19 6 = d := fld_of (by rw [hw]; omega)
  have fa : fld wd 13 6 = a := fld_of (by rw [hw]; omega)
  have fp : fld wd 0 3 = p := fld_of (by rw [hw]; omega)
  rw [decodeOp_3, if_pos c0, fd, fa, fp]

theorem RoundTrip.vPopc (d : BitVec 6) (a : BitVec 6) (p : BitVec 3) :
    RoundTrip.Statement (.vPopc d a p) := by
  intro _ x hx
  have hd := d.isLt
  have ha := a.isLt
  have hp := p.isLt
  refine decode_of hx (100663376 + d.toNat * 524288 + a.toNat * 8192 + p.toNat)
    (by omega) rfl 3 (by omega) (by omega) ?_
  intro wd hw
  have c0 : ¬ (bits wd 3 10 = 9) := by simp only [bits, hw]; omega
  have c1 : bits wd 3 10 = 10 := by simp only [bits, hw]; omega
  have fd : fld wd 19 6 = d := fld_of (by rw [hw]; omega)
  have fa : fld wd 13 6 = a := fld_of (by rw [hw]; omega)
  have fp : fld wd 0 3 = p := fld_of (by rw [hw]; omega)
  rw [decodeOp_3, if_neg c0, if_pos c1, fd, fa, fp]

theorem RoundTrip.vBrev (d : BitVec 6) (a : BitVec 6) (p : BitVec 3) :
    RoundTrip.Statement (.vBrev d a p) := by
  intro _ x hx
  have hd := d.isLt
  have ha := a.isLt
  have hp := p.isLt
  refine decode_of hx (100663384 + d.toNat * 524288 + a.toNat * 8192 + p.toNat)
    (by omega) rfl 3 (by omega) (by omega) ?_
  intro wd hw
  have c0 : ¬ (bits wd 3 10 = 9) := by simp only [bits, hw]; omega
  have c1 : ¬ (bits wd 3 10 = 10) := by simp only [bits, hw]; omega
  have c2 : bits wd 3 10 = 11 := by simp only [bits, hw]; omega
  have fd : fld wd 19 6 = d := fld_of (by rw [hw]; omega)
  have fa : fld wd 13 6 = a := fld_of (by rw [hw]; omega)
  have fp : fld wd 0 3 = p := fld_of (by rw [hw]; omega)
  rw [decodeOp_3, if_neg c0, if_neg c1, if_pos c2, fd, fa, fp]

theorem RoundTrip.vSel (d : BitVec 6) (a : BitVec 6) (b : BitVec 6) (w : BitVec 1) (n : BitVec 3) (p : BitVec 3) :
    RoundTrip.Statement (.vSel d a b w n p) := by
  intro _ x hx
  have hd := d.isLt
  have ha := a.isLt
  have hb := b.isLt
  have hw := w.isLt
  have hn := n.isLt
  have hp := p.isLt
  refine decode_of hx (134217728 + d.toNat * 524288 + a.toNat * 8192 + b.toNat * 128 + w.toNat * 64 + n.toNat * 8 + p.toNat)
    (by omega) rfl 4 (by omega) (by omega) ?_
  intro wd hw
  have fd : fld wd 19 6 = d := fld_of (by rw [hw]; omega)
  have fa : fld wd 13 6 = a := fld_of (by rw [hw]; omega)
  have fb : fld wd 7 6 = b := fld_of (by rw [hw]; omega)
  have fw : fld wd 6 1 = w := fld_of (by rw [hw]; omega)
  have fn : fld wd 3 3 = n := fld_of (by rw [hw]; omega)
  have fp : fld wd 0 3 = p := fld_of (by rw [hw]; omega)
  rw [decodeOp_4, fd, fa, fb, fw, fn, fp]

theorem RoundTrip.vCmp (d : BitVec 3) (a : BitVec 6) (b : BitVec 6) (w : BitVec 1) (c : BitVec 3) (p : BitVec 3) :
    RoundTrip.Statement (.vCmp d a b w c p) := by
  intro _ x hx
  have hd := d.isLt
  have ha := a.isLt
  have hb := b.isLt
  have hw := w.isLt
  have hc := c.isLt
  have hp := p.isLt
  refine decode_of hx (167772160 + d.toNat * 524288 + a.toNat * 8192 + b.toNat * 128 + w.toNat * 64 + c.toNat * 8 + p.toNat)
    (by omega) rfl 5 (by omega) (by omega) ?_
  intro wd hw
  have c0 : bits wd 22 3 = 0 := by simp only [bits, hw]; omega
  have fd : fld wd 19 3 = d := fld_of (by rw [hw]; omega)
  have fa : fld wd 13 6 = a := fld_of (by rw [hw]; omega)
  have fb : fld wd 7 6 = b := fld_of (by rw [hw]; omega)
  have fw : fld wd 6 1 = w := fld_of (by rw [hw]; omega)
  have fc : fld wd 3 3 = c := fld_of (by rw [hw]; omega)
  have fp : fld wd 0 3 = p := fld_of (by rw [hw]; omega)
  rw [decodeOp_5, if_pos c0, fd, fa, fb, fw, fc, fp]

theorem RoundTrip.vPset (d : BitVec 3) (a : BitVec 3) (b : BitVec 3) (t : BitVec 4) (p : BitVec 3) :
    RoundTrip.Statement (.vPset d a b t p) := by
  intro _ x hx
  have hd := d.isLt
  have ha := a.isLt
  have hb := b.isLt
  have ht := t.isLt
  have hp := p.isLt
  refine decode_of hx (201326592 + d.toNat * 524288 + a.toNat * 8192 + b.toNat * 128 + t.toNat * 8 + p.toNat)
    (by omega) rfl 6 (by omega) (by omega) ?_
  intro wd hw
  have c0 : bits wd 10 3 = 0 ∧ bits wd 16 3 = 0 ∧ bits wd 22 3 = 0 := by simp only [bits, hw]; omega
  have fd : fld wd 19 3 = d := fld_of (by rw [hw]; omega)
  have fa : fld wd 13 3 = a := fld_of (by rw [hw]; omega)
  have fb : fld wd 7 3 = b := fld_of (by rw [hw]; omega)
  have ft : fld wd 3 4 = t := fld_of (by rw [hw]; omega)
  have fp : fld wd 0 3 = p := fld_of (by rw [hw]; omega)
  rw [decodeOp_6, if_pos c0, fd, fa, fb, ft, fp]

theorem RoundTrip.vAddi (d : BitVec 6) (a : BitVec 6) (i : BitVec 10) (p : BitVec 3) :
    RoundTrip.Statement (.vAddi d a i p) := by
  intro _ x hx
  have hd := d.isLt
  have ha := a.isLt
  have hi := i.isLt
  have hp := p.isLt
  refine decode_of hx (234881024 + d.toNat * 524288 + a.toNat * 8192 + i.toNat * 8 + p.toNat)
    (by omega) rfl 7 (by omega) (by omega) ?_
  intro wd hw
  have fd : fld wd 19 6 = d := fld_of (by rw [hw]; omega)
  have fa : fld wd 13 6 = a := fld_of (by rw [hw]; omega)
  have fi : fld wd 3 10 = i := fld_of (by rw [hw]; omega)
  have fp : fld wd 0 3 = p := fld_of (by rw [hw]; omega)
  rw [decodeOp_7, fd, fa, fi, fp]

theorem RoundTrip.vAndi (d : BitVec 6) (a : BitVec 6) (i : BitVec 10) (p : BitVec 3) :
    RoundTrip.Statement (.vAndi d a i p) := by
  intro _ x hx
  have hd := d.isLt
  have ha := a.isLt
  have hi := i.isLt
  have hp := p.isLt
  refine decode_of hx (268435456 + d.toNat * 524288 + a.toNat * 8192 + i.toNat * 8 + p.toNat)
    (by omega) rfl 8 (by omega) (by omega) ?_
  intro wd hw
  have fd : fld wd 19 6 = d := fld_of (by rw [hw]; omega)
  have fa : fld wd 13 6 = a := fld_of (by rw [hw]; omega)
  have fi : fld wd 3 10 = i := fld_of (by rw [hw]; omega)
  have fp : fld wd 0 3 = p := fld_of (by rw [hw]; omega)
  rw [decodeOp_8, fd, fa, fi, fp]

theorem RoundTrip.vOri (d : BitVec 6) (a : BitVec 6) (i : BitVec 10) (p : BitVec 3) :
    RoundTrip.Statement (.vOri d a i p) := by
  intro _ x hx
  have hd := d.isLt
  have ha := a.isLt
  have hi := i.isLt
  have hp := p.isLt
  refine decode_of hx (301989888 + d.toNat * 524288 + a.toNat * 8192 + i.toNat * 8 + p.toNat)
    (by omega) rfl 9 (by omega) (by omega) ?_
  intro wd hw
  have fd : fld wd 19 6 = d := fld_of (by rw [hw]; omega)
  have fa : fld wd 13 6 = a := fld_of (by rw [hw]; omega)
  have fi : fld wd 3 10 = i := fld_of (by rw [hw]; omega)
  have fp : fld wd 0 3 = p := fld_of (by rw [hw]; omega)
  rw [decodeOp_9, fd, fa, fi, fp]

theorem RoundTrip.vXori (d : BitVec 6) (a : BitVec 6) (i : BitVec 10) (p : BitVec 3) :
    RoundTrip.Statement (.vXori d a i p) := by
  intro _ x hx
  have hd := d.isLt
  have ha := a.isLt
  have hi := i.isLt
  have hp := p.isLt
  refine decode_of hx (335544320 + d.toNat * 524288 + a.toNat * 8192 + i.toNat * 8 + p.toNat)
    (by omega) rfl 10 (by omega) (by omega) ?_
  intro wd hw
  have fd : fld wd 19 6 = d := fld_of (by rw [hw]; omega)
  have fa : fld wd 13 6 = a := fld_of (by rw [hw]; omega)
  have fi : fld wd 3 10 = i := fld_of (by rw [hw]; omega)
  have fp : fld wd 0 3 = p := fld_of (by rw [hw]; omega)
  rw [decodeOp_10, fd, fa, fi, fp]

theorem RoundTrip.vShli (d : BitVec 6) (a : BitVec 6) (k : BitVec 5) (p : BitVec 3) :
    RoundTrip.Statement (.vShli d a k p) := by
  intro _ x hx
  have hd := d.isLt
  have ha := a.isLt
  have hk := k.isLt
  have hp := p.isLt
  refine decode_of hx (369098752 + d.toNat * 524288 + a.toNat * 8192 + k.toNat * 8 + p.toNat)
    (by omega) rfl 11 (by omega) (by omega) ?_
  intro wd hw
  have c0 : bits wd 8 5 = 0 := by simp only [bits, hw]; omega
  have fd : fld wd 19 6 = d := fld_of (by rw [hw]; omega)
  have fa : fld wd 13 6 = a := fld_of (by rw [hw]; omega)
  have fk : fld wd 3 5 = k := fld_of (by rw [hw]; omega)
  have fp : fld wd 0 3 = p := fld_of (by rw [hw]; omega)
  rw [decodeOp_11, if_pos c0, fd, fa, fk, fp]

theorem RoundTrip.vShri (d : BitVec 6) (a : BitVec 6) (k : BitVec 5) (p : BitVec 3) :
    RoundTrip.Statement (.vShri d a k p) := by
  intro _ x hx
  have hd := d.isLt
  have ha := a.isLt
  have hk := k.isLt
  have hp := p.isLt
  refine decode_of hx (369099008 + d.toNat * 524288 + a.toNat * 8192 + k.toNat * 8 + p.toNat)
    (by omega) rfl 11 (by omega) (by omega) ?_
  intro wd hw
  have c0 : ¬ (bits wd 8 5 = 0) := by simp only [bits, hw]; omega
  have c1 : bits wd 8 5 = 1 := by simp only [bits, hw]; omega
  have fd : fld wd 19 6 = d := fld_of (by rw [hw]; omega)
  have fa : fld wd 13 6 = a := fld_of (by rw [hw]; omega)
  have fk : fld wd 3 5 = k := fld_of (by rw [hw]; omega)
  have fp : fld wd 0 3 = p := fld_of (by rw [hw]; omega)
  rw [decodeOp_11, if_neg c0, if_pos c1, fd, fa, fk, fp]

theorem RoundTrip.vCmpi (d : BitVec 3) (a : BitVec 6) (c : BitVec 3) (i : BitVec 7) (p : BitVec 3) :
    RoundTrip.Statement (.vCmpi d a c i p) := by
  intro _ x hx
  have hd := d.isLt
  have ha := a.isLt
  have hc := c.isLt
  have hi := i.isLt
  have hp := p.isLt
  refine decode_of hx (402653184 + d.toNat * 524288 + a.toNat * 8192 + c.toNat * 1024 + i.toNat * 8 + p.toNat)
    (by omega) rfl 12 (by omega) (by omega) ?_
  intro wd hw
  have c0 : bits wd 22 3 = 0 := by simp only [bits, hw]; omega
  have fd : fld wd 19 3 = d := fld_of (by rw [hw]; omega)
  have fa : fld wd 13 6 = a := fld_of (by rw [hw]; omega)
  have fc : fld wd 10 3 = c := fld_of (by rw [hw]; omega)
  have fi : fld wd 3 7 = i := fld_of (by rw [hw]; omega)
  have fp : fld wd 0 3 = p := fld_of (by rw [hw]; omega)
  rw [decodeOp_12, if_pos c0, fd, fa, fc, fi, fp]

theorem RoundTrip.vMovi (d : BitVec 6) (i : BitVec 16) (p : BitVec 3) :
    RoundTrip.Statement (.vMovi d i p) := by
  intro _ x hx
  have hd := d.isLt
  have hi := i.isLt
  have hp := p.isLt
  refine decode_of hx (436207616 + d.toNat * 524288 + i.toNat * 8 + p.toNat)
    (by omega) rfl 13 (by omega) (by omega) ?_
  intro wd hw
  have fd : fld wd 19 6 = d := fld_of (by rw [hw]; omega)
  have fi : fld wd 3 16 = i := fld_of (by rw [hw]; omega)
  have fp : fld wd 0 3 = p := fld_of (by rw [hw]; omega)
  rw [decodeOp_13, fd, fi, fp]

theorem RoundTrip.vMovl (d : BitVec 6) (i : BitVec 16) (p : BitVec 3) :
    RoundTrip.Statement (.vMovl d i p) := by
  intro _ x hx
  have hd := d.isLt
  have hi := i.isLt
  have hp := p.isLt
  refine decode_of hx (469762048 + d.toNat * 524288 + i.toNat * 8 + p.toNat)
    (by omega) rfl 14 (by omega) (by omega) ?_
  intro wd hw
  have fd : fld wd 19 6 = d := fld_of (by rw [hw]; omega)
  have fi : fld wd 3 16 = i := fld_of (by rw [hw]; omega)
  have fp : fld wd 0 3 = p := fld_of (by rw [hw]; omega)
  rw [decodeOp_14, fd, fi, fp]

theorem RoundTrip.vMovh (d : BitVec 6) (i : BitVec 16) (p : BitVec 3) :
    RoundTrip.Statement (.vMovh d i p) := by
  intro _ x hx
  have hd := d.isLt
  have hi := i.isLt
  have hp := p.isLt
  refine decode_of hx (503316480 + d.toNat * 524288 + i.toNat * 8 + p.toNat)
    (by omega) rfl 15 (by omega) (by omega) ?_
  intro wd hw
  have fd : fld wd 19 6 = d := fld_of (by rw [hw]; omega)
  have fi : fld wd 3 16 = i := fld_of (by rw [hw]; omega)
  have fp : fld wd 0 3 = p := fld_of (by rw [hw]; omega)
  rw [decodeOp_15, fd, fi, fp]

theorem RoundTrip.vFadd (d : BitVec 6) (a : BitVec 6) (b : BitVec 6) (r : BitVec 1) (t : BitVec 2) (p : BitVec 3) :
    RoundTrip.Statement (.vFadd d a b r t p) := by
  intro _ x hx
  have hd := d.isLt
  have ha := a.isLt
  have hb := b.isLt
  have hr := r.isLt
  have ht := t.isLt
  have hp := p.isLt
  refine decode_of hx (536870912 + d.toNat * 524288 + a.toNat * 8192 + b.toNat * 128 + r.toNat * 64 + t.toNat * 8 + p.toNat)
    (by omega) rfl 16 (by omega) (by omega) ?_
  intro wd hw
  have c0 : bits wd 5 1 = 0 := by simp only [bits, hw]; omega
  have fd : fld wd 19 6 = d := fld_of (by rw [hw]; omega)
  have fa : fld wd 13 6 = a := fld_of (by rw [hw]; omega)
  have fb : fld wd 7 6 = b := fld_of (by rw [hw]; omega)
  have fr : fld wd 6 1 = r := fld_of (by rw [hw]; omega)
  have ft : fld wd 3 2 = t := fld_of (by rw [hw]; omega)
  have fp : fld wd 0 3 = p := fld_of (by rw [hw]; omega)
  rw [decodeOp_16, if_pos c0, fd, fa, fb, fr, ft, fp]

theorem RoundTrip.vFsub (d : BitVec 6) (a : BitVec 6) (b : BitVec 6) (r : BitVec 1) (t : BitVec 2) (p : BitVec 3) :
    RoundTrip.Statement (.vFsub d a b r t p) := by
  intro _ x hx
  have hd := d.isLt
  have ha := a.isLt
  have hb := b.isLt
  have hr := r.isLt
  have ht := t.isLt
  have hp := p.isLt
  refine decode_of hx (536870944 + d.toNat * 524288 + a.toNat * 8192 + b.toNat * 128 + r.toNat * 64 + t.toNat * 8 + p.toNat)
    (by omega) rfl 16 (by omega) (by omega) ?_
  intro wd hw
  have c0 : ¬ (bits wd 5 1 = 0) := by simp only [bits, hw]; omega
  have c1 : bits wd 5 1 = 1 := by simp only [bits, hw]; omega
  have fd : fld wd 19 6 = d := fld_of (by rw [hw]; omega)
  have fa : fld wd 13 6 = a := fld_of (by rw [hw]; omega)
  have fb : fld wd 7 6 = b := fld_of (by rw [hw]; omega)
  have fr : fld wd 6 1 = r := fld_of (by rw [hw]; omega)
  have ft : fld wd 3 2 = t := fld_of (by rw [hw]; omega)
  have fp : fld wd 0 3 = p := fld_of (by rw [hw]; omega)
  rw [decodeOp_16, if_neg c0, if_pos c1, fd, fa, fb, fr, ft, fp]

theorem RoundTrip.vFmul (d : BitVec 6) (a : BitVec 6) (b : BitVec 6) (r : BitVec 1) (t : BitVec 2) (p : BitVec 3) :
    RoundTrip.Statement (.vFmul d a b r t p) := by
  intro _ x hx
  have hd := d.isLt
  have ha := a.isLt
  have hb := b.isLt
  have hr := r.isLt
  have ht := t.isLt
  have hp := p.isLt
  refine decode_of hx (570425344 + d.toNat * 524288 + a.toNat * 8192 + b.toNat * 128 + r.toNat * 64 + t.toNat * 8 + p.toNat)
    (by omega) rfl 17 (by omega) (by omega) ?_
  intro wd hw
  have c0 : bits wd 5 1 = 0 := by simp only [bits, hw]; omega
  have fd : fld wd 19 6 = d := fld_of (by rw [hw]; omega)
  have fa : fld wd 13 6 = a := fld_of (by rw [hw]; omega)
  have fb : fld wd 7 6 = b := fld_of (by rw [hw]; omega)
  have fr : fld wd 6 1 = r := fld_of (by rw [hw]; omega)
  have ft : fld wd 3 2 = t := fld_of (by rw [hw]; omega)
  have fp : fld wd 0 3 = p := fld_of (by rw [hw]; omega)
  rw [decodeOp_17, if_pos c0, fd, fa, fb, fr, ft, fp]

theorem RoundTrip.vFma (d : BitVec 6) (a : BitVec 6) (b : BitVec 6) (r : BitVec 1) (t : BitVec 2) (p : BitVec 3) :
    RoundTrip.Statement (.vFma d a b r t p) := by
  intro _ x hx
  have hd := d.isLt
  have ha := a.isLt
  have hb := b.isLt
  have hr := r.isLt
  have ht := t.isLt
  have hp := p.isLt
  refine decode_of hx (603979776 + d.toNat * 524288 + a.toNat * 8192 + b.toNat * 128 + r.toNat * 64 + t.toNat * 8 + p.toNat)
    (by omega) rfl 18 (by omega) (by omega) ?_
  intro wd hw
  have c0 : bits wd 5 1 = 0 := by simp only [bits, hw]; omega
  have fd : fld wd 19 6 = d := fld_of (by rw [hw]; omega)
  have fa : fld wd 13 6 = a := fld_of (by rw [hw]; omega)
  have fb : fld wd 7 6 = b := fld_of (by rw [hw]; omega)
  have fr : fld wd 6 1 = r := fld_of (by rw [hw]; omega)
  have ft : fld wd 3 2 = t := fld_of (by rw [hw]; omega)
  have fp : fld wd 0 3 = p := fld_of (by rw [hw]; omega)
  rw [decodeOp_18, if_pos c0, fd, fa, fb, fr, ft, fp]

theorem RoundTrip.vFmin (d : BitVec 6) (a : BitVec 6) (b : BitVec 6) (t : BitVec 2) (p : BitVec 3) :
    RoundTrip.Statement (.vFmin d a b t p) := by
  intro _ x hx
  have hd := d.isLt
  have ha := a.isLt
  have hb := b.isLt
  have ht := t.isLt
  have hp := p.isLt
  refine decode_of hx (637534208 + d.toNat * 524288 + a.toNat * 8192 + b.toNat * 128 + t.toNat * 8 + p.toNat)
    (by omega) rfl 19 (by omega) (by omega) ?_
  intro wd hw
  have c0 : ¬ (bits wd 5 8 = 2) := by simp only [bits, hw]; omega
  have c1 : ¬ (bits wd 5 8 = 3) := by simp only [bits, hw]; omega
  have c2 : bits wd 5 2 = 0 := by simp only [bits, hw]; omega
  have fd : fld wd 19 6 = d := fld_of (by rw [hw]; omega)
  have fa : fld wd 13 6 = a := fld_of (by rw [hw]; omega)
  have fb : fld wd 7 6 = b := fld_of (by rw [hw]; omega)
  have ft : fld wd 3 2 = t := fld_of (by rw [hw]; omega)
  have fp : fld wd 0 3 = p := fld_of (by rw [hw]; omega)
  rw [decodeOp_19, if_neg c0, if_neg c1, if_pos c2, fd, fa, fb, ft, fp]

theorem RoundTrip.vFmax (d : BitVec 6) (a : BitVec 6) (b : BitVec 6) (t : BitVec 2) (p : BitVec 3) :
    RoundTrip.Statement (.vFmax d a b t p) := by
  intro _ x hx
  have hd := d.isLt
  have ha := a.isLt
  have hb := b.isLt
  have ht := t.isLt
  have hp := p.isLt
  refine decode_of hx (637534240 + d.toNat * 524288 + a.toNat * 8192 + b.toNat * 128 + t.toNat * 8 + p.toNat)
    (by omega) rfl 19 (by omega) (by omega) ?_
  intro wd hw
  have c0 : ¬ (bits wd 5 8 = 2) := by simp only [bits, hw]; omega
  have c1 : ¬ (bits wd 5 8 = 3) := by simp only [bits, hw]; omega
  have c2 : ¬ (bits wd 5 2 = 0) := by simp only [bits, hw]; omega
  have c3 : bits wd 5 2 = 1 := by simp only [bits, hw]; omega
  have fd : fld wd 19 6 = d := fld_of (by rw [hw]; omega)
  have fa : fld wd 13 6 = a := fld_of (by rw [hw]; omega)
  have fb : fld wd 7 6 = b := fld_of (by rw [hw]; omega)
  have ft : fld wd 3 2 = t := fld_of (by rw [hw]; omega)
  have fp : fld wd 0 3 = p := fld_of (by rw [hw]; omega)
  rw [decodeOp_19, if_neg c0, if_neg c1, if_neg c2, if_pos c3, fd, fa, fb, ft, fp]

theorem RoundTrip.vFneg (d : BitVec 6) (a : BitVec 6) (t : BitVec 2) (p : BitVec 3) :
    RoundTrip.Statement (.vFneg d a t p) := by
  intro _ x hx
  have hd := d.isLt
  have ha := a.isLt
  have ht := t.isLt
  have hp := p.isLt
  refine decode_of hx (637534272 + d.toNat * 524288 + a.toNat * 8192 + t.toNat * 8 + p.toNat)
    (by omega) rfl 19 (by omega) (by omega) ?_
  intro wd hw
  have c0 : bits wd 5 8 = 2 := by simp only [bits, hw]; omega
  have fd : fld wd 19 6 = d := fld_of (by rw [hw]; omega)
  have fa : fld wd 13 6 = a := fld_of (by rw [hw]; omega)
  have ft : fld wd 3 2 = t := fld_of (by rw [hw]; omega)
  have fp : fld wd 0 3 = p := fld_of (by rw [hw]; omega)
  rw [decodeOp_19, if_pos c0, fd, fa, ft, fp]

theorem RoundTrip.vFabs (d : BitVec 6) (a : BitVec 6) (t : BitVec 2) (p : BitVec 3) :
    RoundTrip.Statement (.vFabs d a t p) := by
  intro _ x hx
  have hd := d.isLt
  have ha := a.isLt
  have ht := t.isLt
  have hp := p.isLt
  refine decode_of hx (637534304 + d.toNat * 524288 + a.toNat * 8192 + t.toNat * 8 + p.toNat)
    (by omega) rfl 19 (by omega) (by omega) ?_
  intro wd hw
  have c0 : ¬ (bits wd 5 8 = 2) := by simp only [bits, hw]; omega
  have c1 : bits wd 5 8 = 3 := by simp only [bits, hw]; omega
  have fd : fld wd 19 6 = d := fld_of (by rw [hw]; omega)
  have fa : fld wd 13 6 = a := fld_of (by rw [hw]; omega)
  have ft : fld wd 3 2 = t := fld_of (by rw [hw]; omega)
  have fp : fld wd 0 3 = p := fld_of (by rw [hw]; omega)
  rw [decodeOp_19, if_neg c0, if_pos c1, fd, fa, ft, fp]

theorem RoundTrip.vFcmp (d : BitVec 3) (a : BitVec 6) (b : BitVec 6) (c : BitVec 3) (t : BitVec 1) (p : BitVec 3) :
    RoundTrip.Statement (.vFcmp d a b c t p) := by
  intro hwf x hx
  have hd := d.isLt
  have ha := a.isLt
  have hb := b.isLt
  have hc := c.isLt
  have ht := t.isLt
  have hp := p.isLt
  have hwf : ¬ (c.toNat = 7 ∧ b.toNat = 0) := fun e => by
    simp [Instr.wf, BitVec.eq_of_toNat_eq (y := 7#3) e.1, BitVec.eq_of_toNat_eq (y := 0#6) e.2] at hwf
  refine decode_of hx (671088640 + d.toNat * 524288 + a.toNat * 8192 + b.toNat * 128 + c.toNat * 16 + t.toNat * 8 + p.toNat)
    (by omega) rfl 20 (by omega) (by omega) ?_
  intro wd hw
  have c0 : ¬ (bits wd 4 9 = 7) := by simp only [bits, hw]; omega
  have c1 : bits wd 22 3 = 0 := by simp only [bits, hw]; omega
  have fd : fld wd 19 3 = d := fld_of (by rw [hw]; omega)
  have fa : fld wd 13 6 = a := fld_of (by rw [hw]; omega)
  have fb : fld wd 7 6 = b := fld_of (by rw [hw]; omega)
  have fc : fld wd 4 3 = c := fld_of (by rw [hw]; omega)
  have ft : fld wd 3 1 = t := fld_of (by rw [hw]; omega)
  have fp : fld wd 0 3 = p := fld_of (by rw [hw]; omega)
  rw [decodeOp_20, if_neg c0, if_pos c1, fd, fa, fb, fc, ft, fp]

theorem RoundTrip.vFclass (d : BitVec 6) (a : BitVec 6) (t : BitVec 1) (p : BitVec 3) :
    RoundTrip.Statement (.vFclass d a t p) := by
  intro _ x hx
  have hd := d.isLt
  have ha := a.isLt
  have ht := t.isLt
  have hp := p.isLt
  refine decode_of hx (671088752 + d.toNat * 524288 + a.toNat * 8192 + t.toNat * 8 + p.toNat)
    (by omega) rfl 20 (by omega) (by omega) ?_
  intro wd hw
  have c0 : bits wd 4 9 = 7 := by simp only [bits, hw]; omega
  have fd : fld wd 19 6 = d := fld_of (by rw [hw]; omega)
  have fa : fld wd 13 6 = a := fld_of (by rw [hw]; omega)
  have ft : fld wd 3 1 = t := fld_of (by rw [hw]; omega)
  have fp : fld wd 0 3 = p := fld_of (by rw [hw]; omega)
  rw [decodeOp_20, if_pos c0, fd, fa, ft, fp]

theorem RoundTrip.vFrcp (d : BitVec 6) (a : BitVec 6) (t : BitVec 2) (l : BitVec 4) (p : BitVec 3) :
    RoundTrip.Statement (.vFrcp d a t l p) := by
  intro _ x hx
  have hd := d.isLt
  have ha := a.isLt
  have ht := t.isLt
  have hl := l.isLt
  have hp := p.isLt
  refine decode_of hx (704643072 + d.toNat * 524288 + a.toNat * 8192 + t.toNat * 2048 + l.toNat * 128 + p.toNat)
    (by omega) rfl 21 (by omega) (by omega) ?_
  intro wd hw
  have c0 : bits wd 3 4 = 0 := by simp only [bits, hw]; omega
  have fd : fld wd 19 6 = d := fld_of (by rw [hw]; omega)
  have fa : fld wd 13 6 = a := fld_of (by rw [hw]; omega)
  have ft : fld wd 11 2 = t := fld_of (by rw [hw]; omega)
  have fl : fld wd 7 4 = l := fld_of (by rw [hw]; omega)
  have fp : fld wd 0 3 = p := fld_of (by rw [hw]; omega)
  rw [decodeOp_21, if_pos c0, fd, fa, ft, fl, fp]

theorem RoundTrip.vFrsq (d : BitVec 6) (a : BitVec 6) (t : BitVec 2) (l : BitVec 4) (p : BitVec 3) :
    RoundTrip.Statement (.vFrsq d a t l p) := by
  intro _ x hx
  have hd := d.isLt
  have ha := a.isLt
  have ht := t.isLt
  have hl := l.isLt
  have hp := p.isLt
  refine decode_of hx (704643080 + d.toNat * 524288 + a.toNat * 8192 + t.toNat * 2048 + l.toNat * 128 + p.toNat)
    (by omega) rfl 21 (by omega) (by omega) ?_
  intro wd hw
  have c0 : ¬ (bits wd 3 4 = 0) := by simp only [bits, hw]; omega
  have c1 : bits wd 3 4 = 1 := by simp only [bits, hw]; omega
  have fd : fld wd 19 6 = d := fld_of (by rw [hw]; omega)
  have fa : fld wd 13 6 = a := fld_of (by rw [hw]; omega)
  have ft : fld wd 11 2 = t := fld_of (by rw [hw]; omega)
  have fl : fld wd 7 4 = l := fld_of (by rw [hw]; omega)
  have fp : fld wd 0 3 = p := fld_of (by rw [hw]; omega)
  rw [decodeOp_21, if_neg c0, if_pos c1, fd, fa, ft, fl, fp]

theorem RoundTrip.vFsqrt (d : BitVec 6) (a : BitVec 6) (t : BitVec 2) (l : BitVec 4) (p : BitVec 3) :
    RoundTrip.Statement (.vFsqrt d a t l p) := by
  intro _ x hx
  have hd := d.isLt
  have ha := a.isLt
  have ht := t.isLt
  have hl := l.isLt
  have hp := p.isLt
  refine decode_of hx (704643088 + d.toNat * 524288 + a.toNat * 8192 + t.toNat * 2048 + l.toNat * 128 + p.toNat)
    (by omega) rfl 21 (by omega) (by omega) ?_
  intro wd hw
  have c0 : ¬ (bits wd 3 4 = 0) := by simp only [bits, hw]; omega
  have c1 : ¬ (bits wd 3 4 = 1) := by simp only [bits, hw]; omega
  have c2 : bits wd 3 4 = 2 := by simp only [bits, hw]; omega
  have fd : fld wd 19 6 = d := fld_of (by rw [hw]; omega)
  have fa : fld wd 13 6 = a := fld_of (by rw [hw]; omega)
  have ft : fld wd 11 2 = t := fld_of (by rw [hw]; omega)
  have fl : fld wd 7 4 = l := fld_of (by rw [hw]; omega)
  have fp : fld wd 0 3 = p := fld_of (by rw [hw]; omega)
  rw [decodeOp_21, if_neg c0, if_neg c1, if_pos c2, fd, fa, ft, fl, fp]

theorem RoundTrip.vFex2 (d : BitVec 6) (a : BitVec 6) (t : BitVec 2) (l : BitVec 4) (p : BitVec 3) :
    RoundTrip.Statement (.vFex2 d a t l p) := by
  intro _ x hx
  have hd := d.isLt
  have ha := a.isLt
  have ht := t.isLt
  have hl := l.isLt
  have hp := p.isLt
  refine decode_of hx (704643096 + d.toNat * 524288 + a.toNat * 8192 + t.toNat * 2048 + l.toNat * 128 + p.toNat)
    (by omega) rfl 21 (by omega) (by omega) ?_
  intro wd hw
  have c0 : ¬ (bits wd 3 4 = 0) := by simp only [bits, hw]; omega
  have c1 : ¬ (bits wd 3 4 = 1) := by simp only [bits, hw]; omega
  have c2 : ¬ (bits wd 3 4 = 2) := by simp only [bits, hw]; omega
  have c3 : bits wd 3 4 = 3 := by simp only [bits, hw]; omega
  have fd : fld wd 19 6 = d := fld_of (by rw [hw]; omega)
  have fa : fld wd 13 6 = a := fld_of (by rw [hw]; omega)
  have ft : fld wd 11 2 = t := fld_of (by rw [hw]; omega)
  have fl : fld wd 7 4 = l := fld_of (by rw [hw]; omega)
  have fp : fld wd 0 3 = p := fld_of (by rw [hw]; omega)
  rw [decodeOp_21, if_neg c0, if_neg c1, if_neg c2, if_pos c3, fd, fa, ft, fl, fp]

theorem RoundTrip.vFlg2 (d : BitVec 6) (a : BitVec 6) (t : BitVec 2) (l : BitVec 4) (p : BitVec 3) :
    RoundTrip.Statement (.vFlg2 d a t l p) := by
  intro _ x hx
  have hd := d.isLt
  have ha := a.isLt
  have ht := t.isLt
  have hl := l.isLt
  have hp := p.isLt
  refine decode_of hx (704643104 + d.toNat * 524288 + a.toNat * 8192 + t.toNat * 2048 + l.toNat * 128 + p.toNat)
    (by omega) rfl 21 (by omega) (by omega) ?_
  intro wd hw
  have c0 : ¬ (bits wd 3 4 = 0) := by simp only [bits, hw]; omega
  have c1 : ¬ (bits wd 3 4 = 1) := by simp only [bits, hw]; omega
  have c2 : ¬ (bits wd 3 4 = 2) := by simp only [bits, hw]; omega
  have c3 : ¬ (bits wd 3 4 = 3) := by simp only [bits, hw]; omega
  have c4 : bits wd 3 4 = 4 := by simp only [bits, hw]; omega
  have fd : fld wd 19 6 = d := fld_of (by rw [hw]; omega)
  have fa : fld wd 13 6 = a := fld_of (by rw [hw]; omega)
  have ft : fld wd 11 2 = t := fld_of (by rw [hw]; omega)
  have fl : fld wd 7 4 = l := fld_of (by rw [hw]; omega)
  have fp : fld wd 0 3 = p := fld_of (by rw [hw]; omega)
  rw [decodeOp_21, if_neg c0, if_neg c1, if_neg c2, if_neg c3, if_pos c4, fd, fa, ft, fl, fp]

theorem RoundTrip.vFsin (d : BitVec 6) (a : BitVec 6) (t : BitVec 2) (l : BitVec 4) (p : BitVec 3) :
    RoundTrip.Statement (.vFsin d a t l p) := by
  intro _ x hx
  have hd := d.isLt
  have ha := a.isLt
  have ht := t.isLt
  have hl := l.isLt
  have hp := p.isLt
  refine decode_of hx (704643112 + d.toNat * 524288 + a.toNat * 8192 + t.toNat * 2048 + l.toNat * 128 + p.toNat)
    (by omega) rfl 21 (by omega) (by omega) ?_
  intro wd hw
  have c0 : ¬ (bits wd 3 4 = 0) := by simp only [bits, hw]; omega
  have c1 : ¬ (bits wd 3 4 = 1) := by simp only [bits, hw]; omega
  have c2 : ¬ (bits wd 3 4 = 2) := by simp only [bits, hw]; omega
  have c3 : ¬ (bits wd 3 4 = 3) := by simp only [bits, hw]; omega
  have c4 : ¬ (bits wd 3 4 = 4) := by simp only [bits, hw]; omega
  have c5 : bits wd 3 4 = 5 := by simp only [bits, hw]; omega
  have fd : fld wd 19 6 = d := fld_of (by rw [hw]; omega)
  have fa : fld wd 13 6 = a := fld_of (by rw [hw]; omega)
  have ft : fld wd 11 2 = t := fld_of (by rw [hw]; omega)
  have fl : fld wd 7 4 = l := fld_of (by rw [hw]; omega)
  have fp : fld wd 0 3 = p := fld_of (by rw [hw]; omega)
  rw [decodeOp_21, if_neg c0, if_neg c1, if_neg c2, if_neg c3, if_neg c4, if_pos c5, fd, fa, ft, fl, fp]

theorem RoundTrip.vFcos (d : BitVec 6) (a : BitVec 6) (t : BitVec 2) (l : BitVec 4) (p : BitVec 3) :
    RoundTrip.Statement (.vFcos d a t l p) := by
  intro _ x hx
  have hd := d.isLt
  have ha := a.isLt
  have ht := t.isLt
  have hl := l.isLt
  have hp := p.isLt
  refine decode_of hx (704643120 + d.toNat * 524288 + a.toNat * 8192 + t.toNat * 2048 + l.toNat * 128 + p.toNat)
    (by omega) rfl 21 (by omega) (by omega) ?_
  intro wd hw
  have c0 : ¬ (bits wd 3 4 = 0) := by simp only [bits, hw]; omega
  have c1 : ¬ (bits wd 3 4 = 1) := by simp only [bits, hw]; omega
  have c2 : ¬ (bits wd 3 4 = 2) := by simp only [bits, hw]; omega
  have c3 : ¬ (bits wd 3 4 = 3) := by simp only [bits, hw]; omega
  have c4 : ¬ (bits wd 3 4 = 4) := by simp only [bits, hw]; omega
  have c5 : ¬ (bits wd 3 4 = 5) := by simp only [bits, hw]; omega
  have c6 : bits wd 3 4 = 6 := by simp only [bits, hw]; omega
  have fd : fld wd 19 6 = d := fld_of (by rw [hw]; omega)
  have fa : fld wd 13 6 = a := fld_of (by rw [hw]; omega)
  have ft : fld wd 11 2 = t := fld_of (by rw [hw]; omega)
  have fl : fld wd 7 4 = l := fld_of (by rw [hw]; omega)
  have fp : fld wd 0 3 = p := fld_of (by rw [hw]; omega)
  rw [decodeOp_21, if_neg c0, if_neg c1, if_neg c2, if_neg c3, if_neg c4, if_neg c5, if_pos c6, fd, fa, ft, fl, fp]

theorem RoundTrip.vFdiv (d : BitVec 6) (a : BitVec 6) (b : BitVec 6) (t : BitVec 2) (p : BitVec 3) :
    RoundTrip.Statement (.vFdiv d a b t p) := by
  intro _ x hx
  have hd := d.isLt
  have ha := a.isLt
  have hb := b.isLt
  have ht := t.isLt
  have hp := p.isLt
  refine decode_of hx (738197504 + d.toNat * 524288 + a.toNat * 8192 + b.toNat * 128 + t.toNat * 8 + p.toNat)
    (by omega) rfl 22 (by omega) (by omega) ?_
  intro wd hw
  have c0 : ¬ (bits wd 5 2 = 2 ∧ bits wd 9 4 = 0) := by simp only [bits, hw]; omega
  have c1 : bits wd 5 2 = 0 := by simp only [bits, hw]; omega
  have fd : fld wd 19 6 = d := fld_of (by rw [hw]; omega)
  have fa : fld wd 13 6 = a := fld_of (by rw [hw]; omega)
  have fb : fld wd 7 6 = b := fld_of (by rw [hw]; omega)
  have ft : fld wd 3 2 = t := fld_of (by rw [hw]; omega)
  have fp : fld wd 0 3 = p := fld_of (by rw [hw]; omega)
  rw [decodeOp_22, if_neg c0, if_pos c1, fd, fa, fb, ft, fp]

theorem RoundTrip.vFscale (d : BitVec 6) (a : BitVec 6) (b : BitVec 6) (t : BitVec 2) (p : BitVec 3) :
    RoundTrip.Statement (.vFscale d a b t p) := by
  intro _ x hx
  have hd := d.isLt
  have ha := a.isLt
  have hb := b.isLt
  have ht := t.isLt
  have hp := p.isLt
  refine decode_of hx (738197536 + d.toNat * 524288 + a.toNat * 8192 + b.toNat * 128 + t.toNat * 8 + p.toNat)
    (by omega) rfl 22 (by omega) (by omega) ?_
  intro wd hw
  have c0 : ¬ (bits wd 5 2 = 2 ∧ bits wd 9 4 = 0) := by simp only [bits, hw]; omega
  have c1 : ¬ (bits wd 5 2 = 0) := by simp only [bits, hw]; omega
  have c2 : bits wd 5 2 = 1 := by simp only [bits, hw]; omega
  have fd : fld wd 19 6 = d := fld_of (by rw [hw]; omega)
  have fa : fld wd 13 6 = a := fld_of (by rw [hw]; omega)
  have fb : fld wd 7 6 = b := fld_of (by rw [hw]; omega)
  have ft : fld wd 3 2 = t := fld_of (by rw [hw]; omega)
  have fp : fld wd 0 3 = p := fld_of (by rw [hw]; omega)
  rw [decodeOp_22, if_neg c0, if_neg c1, if_pos c2, fd, fa, fb, ft, fp]

theorem RoundTrip.vFrnd (d : BitVec 6) (a : BitVec 6) (m : BitVec 2) (t : BitVec 2) (p : BitVec 3) :
    RoundTrip.Statement (.vFrnd d a m t p) := by
  intro _ x hx
  have hd := d.isLt
  have ha := a.isLt
  have hm := m.isLt
  have ht := t.isLt
  have hp := p.isLt
  refine decode_of hx (738197568 + d.toNat * 524288 + a.toNat * 8192 + m.toNat * 128 + t.toNat * 8 + p.toNat)
    (by omega) rfl 22 (by omega) (by omega) ?_
  intro wd hw
  have c0 : bits wd 5 2 = 2 ∧ bits wd 9 4 = 0 := by simp only [bits, hw]; omega
  have fd : fld wd 19 6 = d := fld_of (by rw [hw]; omega)
  have fa : fld wd 13 6 = a := fld_of (by rw [hw]; omega)
  have fm : fld wd 7 2 = m := fld_of (by rw [hw]; omega)
  have ft : fld wd 3 2 = t := fld_of (by rw [hw]; omega)
  have fp : fld wd 0 3 = p := fld_of (by rw [hw]; omega)
  rw [decodeOp_22, if_pos c0, fd, fa, fm, ft, fp]

theorem RoundTrip.vCvt (d : BitVec 6) (a : BitVec 6) (r : BitVec 1) (s : BitVec 4) (t : BitVec 4) (p : BitVec 3) :
    RoundTrip.Statement (.vCvt d a r s t p) := by
  intro _ x hx
  have hd := d.isLt
  have ha := a.isLt
  have hr := r.isLt
  have hs := s.isLt
  have ht := t.isLt
  have hp := p.isLt
  refine decode_of hx (805306368 + d.toNat * 524288 + a.toNat * 8192 + r.toNat * 4096 + s.toNat * 128 + t.toNat * 8 + p.toNat)
    (by omega) rfl 24 (by omega) (by omega) ?_
  intro wd hw
  have c0 : bits wd 11 1 = 0 := by simp only [bits, hw]; omega
  have fd : fld wd 19 6 = d := fld_of (by rw [hw]; omega)
  have fa : fld wd 13 6 = a := fld_of (by rw [hw]; omega)
  have fr : fld wd 12 1 = r := fld_of (by rw [hw]; omega)
  have fs : fld wd 7 4 = s := fld_of (by rw [hw]; omega)
  have ft : fld wd 3 4 = t := fld_of (by rw [hw]; omega)
  have fp : fld wd 0 3 = p := fld_of (by rw [hw]; omega)
  rw [decodeOp_24, if_pos c0, fd, fa, fr, fs, ft, fp]

theorem RoundTrip.vCvtnPk (d : BitVec 6) (a : BitVec 6) (b : BitVec 6) (k : BitVec 3) (p : BitVec 3) :
    RoundTrip.Statement (.vCvtnPk d a b k p) := by
  intro _ x hx
  have hd := d.isLt
  have ha := a.isLt
  have hb := b.isLt
  have hk := k.isLt
  have hp := p.isLt
  refine decode_of hx (838860800 + d.toNat * 524288 + a.toNat * 8192 + b.toNat * 128 + k.toNat * 8 + p.toNat)
    (by omega) rfl 25 (by omega) (by omega) ?_
  intro wd hw
  have c0 : bits wd 6 1 = 0 := by simp only [bits, hw]; omega
  have fd : fld wd 19 6 = d := fld_of (by rw [hw]; omega)
  have fa : fld wd 13 6 = a := fld_of (by rw [hw]; omega)
  have fb : fld wd 7 6 = b := fld_of (by rw [hw]; omega)
  have fk : fld wd 3 3 = k := fld_of (by rw [hw]; omega)
  have fp : fld wd 0 3 = p := fld_of (by rw [hw]; omega)
  rw [decodeOp_25, if_pos c0, fd, fa, fb, fk, fp]

theorem RoundTrip.vCvtnUnpk (d : BitVec 6) (a : BitVec 6) (b : BitVec 6) (k : BitVec 3) (p : BitVec 3) :
    RoundTrip.Statement (.vCvtnUnpk d a b k p) := by
  intro _ x hx
  have hd := d.isLt
  have ha := a.isLt
  have hb := b.isLt
  have hk := k.isLt
  have hp := p.isLt
  refine decode_of hx (838860864 + d.toNat * 524288 + a.toNat * 8192 + b.toNat * 128 + k.toNat * 8 + p.toNat)
    (by omega) rfl 25 (by omega) (by omega) ?_
  intro wd hw
  have c0 : ¬ (bits wd 6 1 = 0) := by simp only [bits, hw]; omega
  have c1 : bits wd 6 1 = 1 := by simp only [bits, hw]; omega
  have fd : fld wd 19 6 = d := fld_of (by rw [hw]; omega)
  have fa : fld wd 13 6 = a := fld_of (by rw [hw]; omega)
  have fb : fld wd 7 6 = b := fld_of (by rw [hw]; omega)
  have fk : fld wd 3 3 = k := fld_of (by rw [hw]; omega)
  have fp : fld wd 0 3 = p := fld_of (by rw [hw]; omega)
  rw [decodeOp_25, if_neg c0, if_pos c1, fd, fa, fb, fk, fp]

theorem RoundTrip.vCvtw (d : BitVec 6) (a : BitVec 6) (w : BitVec 1) (n : BitVec 1) (s : BitVec 1) (k : BitVec 2) (p : BitVec 3) :
    RoundTrip.Statement (.vCvtw d a w n s k p) := by
  intro _ x hx
  have hd := d.isLt
  have ha := a.isLt
  have hw := w.isLt
  have hn := n.isLt
  have hs := s.isLt
  have hk := k.isLt
  have hp := p.isLt
  refine decode_of hx (872415232 + d.toNat * 524288 + a.toNat * 8192 + w.toNat * 128 + n.toNat * 64 + s.toNat * 32 + k.toNat * 8 + p.toNat)
    (by omega) rfl 26 (by omega) (by omega) ?_
  intro wd hw
  have c0 : bits wd 8 5 = 0 := by simp only [bits, hw]; omega
  have fd : fld wd 19 6 = d := fld_of (by rw [hw]; omega)
  have fa : fld wd 13 6 = a := fld_of (by rw [hw]; omega)
  have fw : fld wd 7 1 = w := fld_of (by rw [hw]; omega)
  have fn : fld wd 6 1 = n := fld_of (by rw [hw]; omega)
  have fs : fld wd 5 1 = s := fld_of (by rw [hw]; omega)
  have fk : fld wd 3 2 = k := fld_of (by rw [hw]; omega)
  have fp : fld wd 0 3 = p := fld_of (by rw [hw]; omega)
  rw [decodeOp_26, if_pos c0, fd, fa, fw, fn, fs, fk, fp]

theorem RoundTrip.vLxch (d : BitVec 6) (a : BitVec 6) (b : BitVec 6) (m : BitVec 2) (p : BitVec 3) :
    RoundTrip.Statement (.vLxch d a b m p) := by
  intro _ x hx
  have hd := d.isLt
  have ha := a.isLt
  have hb := b.isLt
  have hm := m.isLt
  have hp := p.isLt
  refine decode_of hx (939524096 + d.toNat * 524288 + a.toNat * 8192 + b.toNat * 128 + m.toNat * 8 + p.toNat)
    (by omega) rfl 28 (by omega) (by omega) ?_
  intro wd hw
  have c0 : bits wd 5 2 = 0 := by simp only [bits, hw]; omega
  have fd : fld wd 19 6 = d := fld_of (by rw [hw]; omega)
  have fa : fld wd 13 6 = a := fld_of (by rw [hw]; omega)
  have fb : fld wd 7 6 = b := fld_of (by rw [hw]; omega)
  have fm : fld wd 3 2 = m := fld_of (by rw [hw]; omega)
  have fp : fld wd 0 3 = p := fld_of (by rw [hw]; omega)
  rw [decodeOp_28, if_pos c0, fd, fa, fb, fm, fp]

theorem RoundTrip.vPoll (d : BitVec 6) (a : BitVec 3) (m : BitVec 3) (p : BitVec 3) :
    RoundTrip.Statement (.vPoll d a m p) := by
  intro _ x hx
  have hd := d.isLt
  have ha := a.isLt
  have hm := m.isLt
  have hp := p.isLt
  refine decode_of hx (973078528 + d.toNat * 524288 + a.toNat * 8192 + m.toNat * 8 + p.toNat)
    (by omega) rfl 29 (by omega) (by omega) ?_
  intro wd hw
  have c0 : bits wd 6 7 = 0 ∧ bits wd 16 3 = 0 := by simp only [bits, hw]; omega
  have fd : fld wd 19 6 = d := fld_of (by rw [hw]; omega)
  have fa : fld wd 13 3 = a := fld_of (by rw [hw]; omega)
  have fm : fld wd 3 3 = m := fld_of (by rw [hw]; omega)
  have fp : fld wd 0 3 = p := fld_of (by rw [hw]; omega)
  rw [decodeOp_29, if_pos c0, fd, fa, fm, fp]

theorem RoundTrip.vLfold (d : BitVec 6) (a : BitVec 6) (f : BitVec 4) (p : BitVec 3) :
    RoundTrip.Statement (.vLfold d a f p) := by
  intro _ x hx
  have hd := d.isLt
  have ha := a.isLt
  have hf := f.isLt
  have hp := p.isLt
  refine decode_of hx (1006632960 + d.toNat * 524288 + a.toNat * 8192 + f.toNat * 8 + p.toNat)
    (by omega) rfl 30 (by omega) (by omega) ?_
  intro wd hw
  have c0 : bits wd 7 6 = 0 := by simp only [bits, hw]; omega
  have fd : fld wd 19 6 = d := fld_of (by rw [hw]; omega)
  have fa : fld wd 13 6 = a := fld_of (by rw [hw]; omega)
  have ff : fld wd 3 4 = f := fld_of (by rw [hw]; omega)
  have fp : fld wd 0 3 = p := fld_of (by rw [hw]; omega)
  rw [decodeOp_30, if_pos c0, fd, fa, ff, fp]

theorem RoundTrip.vLd (s : BitVec 3) (t : BitVec 6) (a : BitVec 6) (b : BitVec 6) (l : BitVec 4) (p : BitVec 3) :
    RoundTrip.Statement (.vLd s t a b l p) := by
  intro hwf x hx
  have hs := s.isLt
  have ht := t.isLt
  have ha := a.isLt
  have hb := b.isLt
  have hl := l.isLt
  have hp := p.isLt
  simp only [Instr.wf, decide_eq_true_eq] at hwf
  have hc : s.toNat = 0 ∨ s.toNat = 1 ∨ s.toNat = 2 ∨ s.toNat = 3 ∨ s.toNat = 4 := by omega
  refine decode_of hx (1073741824 + s.toNat * 33554432 + t.toNat * 524288 + a.toNat * 8192 + b.toNat * 128 + l.toNat * 8 + p.toNat)
    (by omega) rfl (32 + s.toNat) (by omega) (by omega) ?_
  intro wd hw
  have fs : fld wd 25 3 = s := fld_of (by rw [hw]; omega)
  have ft : fld wd 19 6 = t := fld_of (by rw [hw]; omega)
  have fa : fld wd 13 6 = a := fld_of (by rw [hw]; omega)
  have fb : fld wd 7 6 = b := fld_of (by rw [hw]; omega)
  have fl : fld wd 3 4 = l := fld_of (by rw [hw]; omega)
  have fp : fld wd 0 3 = p := fld_of (by rw [hw]; omega)
  obtain e | e | e | e | e := hc <;> rw [e] <;>
    (first | rw [decodeOp_32] | rw [decodeOp_33] | rw [decodeOp_34] | rw [decodeOp_35] | rw [decodeOp_36]) <;>
    rw [fs, ft, fa, fb, fl, fp]

theorem RoundTrip.vSt (t : BitVec 6) (a : BitVec 6) (b : BitVec 6) (z : BitVec 3) (p : BitVec 3) :
    RoundTrip.Statement (.vSt t a b z p) := by
  intro hwf x hx
  have ht := t.isLt
  have ha := a.isLt
  have hb := b.isLt
  have hz := z.isLt
  have hp := p.isLt
  have hwf : z.toNat ≠ 3 := fun e => by simp [Instr.wf, BitVec.eq_of_toNat_eq (y := 3#3) e] at hwf
  refine decode_of hx (1241513984 + t.toNat * 524288 + a.toNat * 8192 + b.toNat * 128 + z.toNat * 8 + p.toNat)
    (by omega) rfl 37 (by omega) (by omega) ?_
  intro wd hw
  have c0 : ¬ (bits wd 3 4 = 3) := by simp only [bits, hw]; omega
  have c1 : bits wd 6 1 = 0 := by simp only [bits, hw]; omega
  have ft : fld wd 19 6 = t := fld_of (by rw [hw]; omega)
  have fa : fld wd 13 6 = a := fld_of (by rw [hw]; omega)
  have fb : fld wd 7 6 = b := fld_of (by rw [hw]; omega)
  have fz : fld wd 3 3 = z := fld_of (by rw [hw]; omega)
  have fp : fld wd 0 3 = p := fld_of (by rw [hw]; omega)
  rw [decodeOp_37, if_neg c0, if_pos c1, ft, fa, fb, fz, fp]

theorem RoundTrip.vCpy (t : BitVec 6) (a : BitVec 6) (b : BitVec 6) (p : BitVec 3) :
    RoundTrip.Statement (.vCpy t a b p) := by
  intro _ x hx
  have ht := t.isLt
  have ha := a.isLt
  have hb := b.isLt
  have hp := p.isLt
  refine decode_of hx (1241514008 + t.toNat * 524288 + a.toNat * 8192 + b.toNat * 128 + p.toNat)
    (by omega) rfl 37 (by omega) (by omega) ?_
  intro wd hw
  have c0 : bits wd 3 4 = 3 := by simp only [bits, hw]; omega
  have ft : fld wd 19 6 = t := fld_of (by rw [hw]; omega)
  have fa : fld wd 13 6 = a := fld_of (by rw [hw]; omega)
  have fb : fld wd 7 6 = b := fld_of (by rw [hw]; omega)
  have fp : fld wd 0 3 = p := fld_of (by rw [hw]; omega)
  rw [decodeOp_37, if_pos c0, ft, fa, fb, fp]

theorem RoundTrip.vAtom (t : BitVec 6) (a : BitVec 6) (s : BitVec 3) (o : BitVec 3) (k : BitVec 4) (p : BitVec 3) :
    RoundTrip.Statement (.vAtom t a s o k p) := by
  intro _ x hx
  have ht := t.isLt
  have ha := a.isLt
  have hs := s.isLt
  have ho := o.isLt
  have hk := k.isLt
  have hp := p.isLt
  refine decode_of hx (1275068416 + t.toNat * 524288 + a.toNat * 8192 + s.toNat * 1024 + o.toNat * 128 + k.toNat * 8 + p.toNat)
    (by omega) rfl 38 (by omega) (by omega) ?_
  intro wd hw
  have ft : fld wd 19 6 = t := fld_of (by rw [hw]; omega)
  have fa : fld wd 13 6 = a := fld_of (by rw [hw]; omega)
  have fs : fld wd 10 3 = s := fld_of (by rw [hw]; omega)
  have fo : fld wd 7 3 = o := fld_of (by rw [hw]; omega)
  have fk : fld wd 3 4 = k := fld_of (by rw [hw]; omega)
  have fp : fld wd 0 3 = p := fld_of (by rw [hw]; omega)
  rw [decodeOp_38, ft, fa, fs, fo, fk, fp]

theorem RoundTrip.vRed (t : BitVec 6) (a : BitVec 6) (s : BitVec 3) (o : BitVec 3) (k : BitVec 4) (p : BitVec 3) :
    RoundTrip.Statement (.vRed t a s o k p) := by
  intro _ x hx
  have ht := t.isLt
  have ha := a.isLt
  have hs := s.isLt
  have ho := o.isLt
  have hk := k.isLt
  have hp := p.isLt
  refine decode_of hx (1308622848 + t.toNat * 524288 + a.toNat * 8192 + s.toNat * 1024 + o.toNat * 128 + k.toNat * 8 + p.toNat)
    (by omega) rfl 39 (by omega) (by omega) ?_
  intro wd hw
  have ft : fld wd 19 6 = t := fld_of (by rw [hw]; omega)
  have fa : fld wd 13 6 = a := fld_of (by rw [hw]; omega)
  have fs : fld wd 10 3 = s := fld_of (by rw [hw]; omega)
  have fo : fld wd 7 3 = o := fld_of (by rw [hw]; omega)
  have fk : fld wd 3 4 = k := fld_of (by rw [hw]; omega)
  have fp : fld wd 0 3 = p := fld_of (by rw [hw]; omega)
  rw [decodeOp_39, ft, fa, fs, fo, fk, fp]

theorem RoundTrip.vPrefL1 (a : BitVec 6) (b : BitVec 6) (p : BitVec 3) :
    RoundTrip.Statement (.vPrefL1 a b p) := by
  intro _ x hx
  have ha := a.isLt
  have hb := b.isLt
  have hp := p.isLt
  refine decode_of hx (1342177280 + a.toNat * 8192 + b.toNat * 128 + p.toNat)
    (by omega) rfl 40 (by omega) (by omega) ?_
  intro wd hw
  have c0 : bits wd 3 4 = 0 ∧ bits wd 19 6 = 0 := by simp only [bits, hw]; omega
  have fa : fld wd 13 6 = a := fld_of (by rw [hw]; omega)
  have fb : fld wd 7 6 = b := fld_of (by rw [hw]; omega)
  have fp : fld wd 0 3 = p := fld_of (by rw [hw]; omega)
  rw [decodeOp_40, if_pos c0, fa, fb, fp]

theorem RoundTrip.vPrefL2 (a : BitVec 6) (b : BitVec 6) (p : BitVec 3) :
    RoundTrip.Statement (.vPrefL2 a b p) := by
  intro _ x hx
  have ha := a.isLt
  have hb := b.isLt
  have hp := p.isLt
  refine decode_of hx (1342701568 + a.toNat * 8192 + b.toNat * 128 + p.toNat)
    (by omega) rfl 40 (by omega) (by omega) ?_
  intro wd hw
  have c0 : ¬ (bits wd 3 4 = 0 ∧ bits wd 19 6 = 0) := by simp only [bits, hw]; omega
  have c1 : bits wd 3 4 = 0 ∧ bits wd 19 6 = 1 := by simp only [bits, hw]; omega
  have fa : fld wd 13 6 = a := fld_of (by rw [hw]; omega)
  have fb : fld wd 7 6 = b := fld_of (by rw [hw]; omega)
  have fp : fld wd 0 3 = p := fld_of (by rw [hw]; omega)
  rw [decodeOp_40, if_neg c0, if_pos c1, fa, fb, fp]

theorem RoundTrip.vDisc (a : BitVec 6) (b : BitVec 6) (p : BitVec 3) :
    RoundTrip.Statement (.vDisc a b p) := by
  intro _ x hx
  have ha := a.isLt
  have hb := b.isLt
  have hp := p.isLt
  refine decode_of hx (1343225856 + a.toNat * 8192 + b.toNat * 128 + p.toNat)
    (by omega) rfl 40 (by omega) (by omega) ?_
  intro wd hw
  have c0 : ¬ (bits wd 3 4 = 0 ∧ bits wd 19 6 = 0) := by simp only [bits, hw]; omega
  have c1 : ¬ (bits wd 3 4 = 0 ∧ bits wd 19 6 = 1) := by simp only [bits, hw]; omega
  have c2 : bits wd 3 4 = 0 ∧ bits wd 19 6 = 2 := by simp only [bits, hw]; omega
  have fa : fld wd 13 6 = a := fld_of (by rw [hw]; omega)
  have fb : fld wd 7 6 = b := fld_of (by rw [hw]; omega)
  have fp : fld wd 0 3 = p := fld_of (by rw [hw]; omega)
  rw [decodeOp_40, if_neg c0, if_neg c1, if_pos c2, fa, fb, fp]

theorem RoundTrip.vLds (t : BitVec 6) (a : BitVec 6) (z : BitVec 2) (o : BitVec 4) (l : BitVec 4) (p : BitVec 3) :
    RoundTrip.Statement (.vLds t a z o l p) := by
  intro _ x hx
  have ht := t.isLt
  have ha := a.isLt
  have hz := z.isLt
  have ho := o.isLt
  have hl := l.isLt
  have hp := p.isLt
  refine decode_of hx (1375731712 + t.toNat * 524288 + a.toNat * 8192 + z.toNat * 2048 + o.toNat * 128 + l.toNat * 8 + p.toNat)
    (by omega) rfl 41 (by omega) (by omega) ?_
  intro wd hw
  have ft : fld wd 19 6 = t := fld_of (by rw [hw]; omega)
  have fa : fld wd 13 6 = a := fld_of (by rw [hw]; omega)
  have fz : fld wd 11 2 = z := fld_of (by rw [hw]; omega)
  have fo : fld wd 7 4 = o := fld_of (by rw [hw]; omega)
  have fl : fld wd 3 4 = l := fld_of (by rw [hw]; omega)
  have fp : fld wd 0 3 = p := fld_of (by rw [hw]; omega)
  rw [decodeOp_41, ft, fa, fz, fo, fl, fp]

theorem RoundTrip.vLdcl (t : BitVec 6) (a : BitVec 6) (z : BitVec 2) (o : BitVec 4) (l : BitVec 4) (p : BitVec 3) :
    RoundTrip.Statement (.vLdcl t a z o l p) := by
  intro _ x hx
  have ht := t.isLt
  have ha := a.isLt
  have hz := z.isLt
  have ho := o.isLt
  have hl := l.isLt
  have hp := p.isLt
  refine decode_of hx (1409286144 + t.toNat * 524288 + a.toNat * 8192 + z.toNat * 2048 + o.toNat * 128 + l.toNat * 8 + p.toNat)
    (by omega) rfl 42 (by omega) (by omega) ?_
  intro wd hw
  have ft : fld wd 19 6 = t := fld_of (by rw [hw]; omega)
  have fa : fld wd 13 6 = a := fld_of (by rw [hw]; omega)
  have fz : fld wd 11 2 = z := fld_of (by rw [hw]; omega)
  have fo : fld wd 7 4 = o := fld_of (by rw [hw]; omega)
  have fl : fld wd 3 4 = l := fld_of (by rw [hw]; omega)
  have fp : fld wd 0 3 = p := fld_of (by rw [hw]; omega)
  rw [decodeOp_42, ft, fa, fz, fo, fl, fp]

theorem RoundTrip.vSts (t : BitVec 6) (a : BitVec 6) (o : BitVec 6) (z : BitVec 3) (p : BitVec 3) :
    RoundTrip.Statement (.vSts t a o z p) := by
  intro _ x hx
  have ht := t.isLt
  have ha := a.isLt
  have ho := o.isLt
  have hz := z.isLt
  have hp := p.isLt
  refine decode_of hx (1442840576 + t.toNat * 524288 + a.toNat * 8192 + o.toNat * 128 + z.toNat * 8 + p.toNat)
    (by omega) rfl 43 (by omega) (by omega) ?_
  intro wd hw
  have c0 : bits wd 6 1 = 0 := by simp only [bits, hw]; omega
  have ft : fld wd 19 6 = t := fld_of (by rw [hw]; omega)
  have fa : fld wd 13 6 = a := fld_of (by rw [hw]; omega)
  have fo : fld wd 7 6 = o := fld_of (by rw [hw]; omega)
  have fz : fld wd 3 3 = z := fld_of (by rw [hw]; omega)
  have fp : fld wd 0 3 = p := fld_of (by rw [hw]; omega)
  rw [decodeOp_43, if_pos c0, ft, fa, fo, fz, fp]

theorem RoundTrip.vStcl (t : BitVec 6) (a : BitVec 6) (o : BitVec 6) (z : BitVec 3) (p : BitVec 3) :
    RoundTrip.Statement (.vStcl t a o z p) := by
  intro _ x hx
  have ht := t.isLt
  have ha := a.isLt
  have ho := o.isLt
  have hz := z.isLt
  have hp := p.isLt
  refine decode_of hx (1442840640 + t.toNat * 524288 + a.toNat * 8192 + o.toNat * 128 + z.toNat * 8 + p.toNat)
    (by omega) rfl 43 (by omega) (by omega) ?_
  intro wd hw
  have c0 : ¬ (bits wd 6 1 = 0) := by simp only [bits, hw]; omega
  have c1 : bits wd 6 1 = 1 := by simp only [bits, hw]; omega
  have ft : fld wd 19 6 = t := fld_of (by rw [hw]; omega)
  have fa : fld wd 13 6 = a := fld_of (by rw [hw]; omega)
  have fo : fld wd 7 6 = o := fld_of (by rw [hw]; omega)
  have fz : fld wd 3 3 = z := fld_of (by rw [hw]; omega)
  have fp : fld wd 0 3 = p := fld_of (by rw [hw]; omega)
  rw [decodeOp_43, if_neg c0, if_pos c1, ft, fa, fo, fz, fp]

theorem RoundTrip.vBd (c : BitVec 3) (t : BitVec 11) (j : BitVec 11) :
    RoundTrip.Statement (.vBd c t j) := by
  intro _ x hx
  have hc := c.isLt
  have ht := t.isLt
  have hj := j.isLt
  refine decode_of hx (1476395008 + c.toNat * 4194304 + t.toNat * 2048 + j.toNat)
    (by omega) rfl 44 (by omega) (by omega) ?_
  intro wd hw
  have fc : fld wd 22 3 = c := fld_of (by rw [hw]; omega)
  have ft : fld wd 11 11 = t := fld_of (by rw [hw]; omega)
  have fj : fld wd 0 11 = j := fld_of (by rw [hw]; omega)
  rw [decodeOp_44, fc, ft, fj]

theorem RoundTrip.vBu (c : BitVec 3) (d : BitVec 22) :
    RoundTrip.Statement (.vBu c d) := by
  intro _ x hx
  have hc := c.isLt
  have hd := d.isLt
  refine decode_of hx (1509949440 + c.toNat * 4194304 + d.toNat)
    (by omega) rfl 45 (by omega) (by omega) ?_
  intro wd hw
  have fc : fld wd 22 3 = c := fld_of (by rw [hw]; omega)
  have fd : fld wd 0 22 = d := fld_of (by rw [hw]; omega)
  rw [decodeOp_45, fc, fd]

theorem RoundTrip.vJmpi (a : BitVec 6) (t : BitVec 8) (j : BitVec 11) :
    RoundTrip.Statement (.vJmpi a t j) := by
  intro _ x hx
  have ha := a.isLt
  have ht := t.isLt
  have hj := j.isLt
  refine decode_of hx (1543503872 + a.toNat * 524288 + t.toNat * 2048 + j.toNat)
    (by omega) rfl 46 (by omega) (by omega) ?_
  intro wd hw
  have fa : fld wd 19 6 = a := fld_of (by rw [hw]; omega)
  have ft : fld wd 11 8 = t := fld_of (by rw [hw]; omega)
  have fj : fld wd 0 11 = j := fld_of (by rw [hw]; omega)
  rw [decodeOp_46, fa, ft, fj]

theorem RoundTrip.vCalli (a : BitVec 6) (t : BitVec 8) (s : BitVec 6) :
    RoundTrip.Statement (.vCalli a t s) := by
  intro _ x hx
  have ha := a.isLt
  have ht := t.isLt
  have hs := s.isLt
  refine decode_of hx (1577058304 + a.toNat * 524288 + t.toNat * 2048 + s.toNat)
    (by omega) rfl 47 (by omega) (by omega) ?_
  intro wd hw
  have c0 : bits wd 6 5 = 0 := by simp only [bits, hw]; omega
  have fa : fld wd 19 6 = a := fld_of (by rw [hw]; omega)
  have ft : fld wd 11 8 = t := fld_of (by rw [hw]; omega)
  have fs : fld wd 0 6 = s := fld_of (by rw [hw]; omega)
  rw [decodeOp_47, if_pos c0, fa, ft, fs]

theorem RoundTrip.vPad (t : BitVec 8) :
    RoundTrip.Statement (.vPad t) := by
  intro _ x hx
  have ht := t.isLt
  refine decode_of hx (1610612736 + t.toNat * 2048)
    (by omega) rfl 48 (by omega) (by omega) ?_
  intro wd hw
  have c0 : bits wd 0 11 = 0 ∧ bits wd 19 6 = 0 := by simp only [bits, hw]; omega
  have ft : fld wd 11 8 = t := fld_of (by rw [hw]; omega)
  rw [decodeOp_48, if_pos c0, ft]

theorem RoundTrip.vExit (p : BitVec 3) :
    RoundTrip.Statement (.vExit p) := by
  intro _ x hx
  have hp := p.isLt
  refine decode_of hx (1644167168 + p.toNat)
    (by omega) rfl 49 (by omega) (by omega) ?_
  intro wd hw
  have c0 : bits wd 3 22 = 0 := by simp only [bits, hw]; omega
  have fp : fld wd 0 3 = p := fld_of (by rw [hw]; omega)
  rw [decodeOp_49, if_pos c0, fp]

theorem RoundTrip.vMma (a : BitVec 6) (b : BitVec 6) (c : BitVec 8) (r : BitVec 1) (k : BitVec 4) :
    RoundTrip.Statement (.vMma a b c r k) := by
  intro _ x hx
  have ha := a.isLt
  have hb := b.isLt
  have hc := c.isLt
  have hr := r.isLt
  have hk := k.isLt
  refine decode_of hx (1744830464 + a.toNat * 524288 + b.toNat * 8192 + c.toNat * 32 + r.toNat * 16 + k.toNat)
    (by omega) rfl 52 (by omega) (by omega) ?_
  intro wd hw
  have fa : fld wd 19 6 = a := fld_of (by rw [hw]; omega)
  have fb : fld wd 13 6 = b := fld_of (by rw [hw]; omega)
  have fc : fld wd 5 8 = c := fld_of (by rw [hw]; omega)
  have fr : fld wd 4 1 = r := fld_of (by rw [hw]; omega)
  have fk : fld wd 0 4 = k := fld_of (by rw [hw]; omega)
  rw [decodeOp_52, fa, fb, fc, fr, fk]

theorem RoundTrip.vMzero (c : BitVec 8) (k : BitVec 4) :
    RoundTrip.Statement (.vMzero c k) := by
  intro _ x hx
  have hc := c.isLt
  have hk := k.isLt
  refine decode_of hx (1778384896 + c.toNat * 32 + k.toNat)
    (by omega) rfl 53 (by omega) (by omega) ?_
  intro wd hw
  have c0 : bits wd 4 1 = 0 ∧ bits wd 13 12 = 0 := by simp only [bits, hw]; omega
  have fc : fld wd 5 8 = c := fld_of (by rw [hw]; omega)
  have fk : fld wd 0 4 = k := fld_of (by rw [hw]; omega)
  rw [decodeOp_53, if_pos c0, fc, fk]

theorem RoundTrip.vMld (b : BitVec 6) (c : BitVec 8) (r : BitVec 1) (k : BitVec 4) :
    RoundTrip.Statement (.vMld b c r k) := by
  intro _ x hx
  have hb := b.isLt
  have hc := c.isLt
  have hr := r.isLt
  have hk := k.isLt
  refine decode_of hx (1811939328 + b.toNat * 8192 + c.toNat * 32 + r.toNat * 16 + k.toNat)
    (by omega) rfl 54 (by omega) (by omega) ?_
  intro wd hw
  have c0 : bits wd 19 6 = 0 := by simp only [bits, hw]; omega
  have fb : fld wd 13 6 = b := fld_of (by rw [hw]; omega)
  have fc : fld wd 5 8 = c := fld_of (by rw [hw]; omega)
  have fr : fld wd 4 1 = r := fld_of (by rw [hw]; omega)
  have fk : fld wd 0 4 = k := fld_of (by rw [hw]; omega)
  rw [decodeOp_54, if_pos c0, fb, fc, fr, fk]

theorem RoundTrip.vMst (b : BitVec 6) (c : BitVec 8) (r : BitVec 1) (k : BitVec 4) :
    RoundTrip.Statement (.vMst b c r k) := by
  intro _ x hx
  have hb := b.isLt
  have hc := c.isLt
  have hr := r.isLt
  have hk := k.isLt
  refine decode_of hx (1845493760 + b.toNat * 8192 + c.toNat * 32 + r.toNat * 16 + k.toNat)
    (by omega) rfl 55 (by omega) (by omega) ?_
  intro wd hw
  have c0 : bits wd 19 6 = 0 := by simp only [bits, hw]; omega
  have fb : fld wd 13 6 = b := fld_of (by rw [hw]; omega)
  have fc : fld wd 5 8 = c := fld_of (by rw [hw]; omega)
  have fr : fld wd 4 1 = r := fld_of (by rw [hw]; omega)
  have fk : fld wd 0 4 = k := fld_of (by rw [hw]; omega)
  rw [decodeOp_55, if_pos c0, fb, fc, fr, fk]

theorem RoundTrip.vMdrain (a : BitVec 6) (b : BitVec 6) (c : BitVec 8) (z : BitVec 1) (k : BitVec 4) :
    RoundTrip.Statement (.vMdrain a b c z k) := by
  intro _ x hx
  have ha := a.isLt
  have hb := b.isLt
  have hc := c.isLt
  have hz := z.isLt
  have hk := k.isLt
  refine decode_of hx (1879048192 + a.toNat * 524288 + b.toNat * 8192 + c.toNat * 32 + z.toNat * 16 + k.toNat)
    (by omega) rfl 56 (by omega) (by omega) ?_
  intro wd hw
  have fa : fld wd 19 6 = a := fld_of (by rw [hw]; omega)
  have fb : fld wd 13 6 = b := fld_of (by rw [hw]; omega)
  have fc : fld wd 5 8 = c := fld_of (by rw [hw]; omega)
  have fz : fld wd 4 1 = z := fld_of (by rw [hw]; omega)
  have fk : fld wd 0 4 = k := fld_of (by rw [hw]; omega)
  rw [decodeOp_56, fa, fb, fc, fz, fk]

theorem RoundTrip.vTcheck (t : BitVec 6) (a : BitVec 6) (b : BitVec 6) (p : BitVec 3) :
    RoundTrip.Statement (.vTcheck t a b p) := by
  intro _ x hx
  have ht := t.isLt
  have ha := a.isLt
  have hb := b.isLt
  have hp := p.isLt
  refine decode_of hx (1912602624 + t.toNat * 524288 + a.toNat * 8192 + b.toNat * 128 + p.toNat)
    (by omega) rfl 57 (by omega) (by omega) ?_
  intro wd hw
  have c0 : bits wd 3 4 = 0 := by simp only [bits, hw]; omega
  have ft : fld wd 19 6 = t := fld_of (by rw [hw]; omega)
  have fa : fld wd 13 6 = a := fld_of (by rw [hw]; omega)
  have fb : fld wd 7 6 = b := fld_of (by rw [hw]; omega)
  have fp : fld wd 0 3 = p := fld_of (by rw [hw]; omega)
  rw [decodeOp_57, if_pos c0, ft, fa, fb, fp]

theorem RoundTrip.vChsend (a : BitVec 6) (c : BitVec 6) (p : BitVec 3) :
    RoundTrip.Statement (.vChsend a c p) := by
  intro _ x hx
  have ha := a.isLt
  have hc := c.isLt
  have hp := p.isLt
  refine decode_of hx (1946157056 + a.toNat * 8192 + c.toNat * 128 + p.toNat)
    (by omega) rfl 58 (by omega) (by omega) ?_
  intro wd hw
  have c0 : bits wd 3 4 = 0 ∧ bits wd 19 6 = 0 := by simp only [bits, hw]; omega
  have fa : fld wd 13 6 = a := fld_of (by rw [hw]; omega)
  have fc : fld wd 7 6 = c := fld_of (by rw [hw]; omega)
  have fp : fld wd 0 3 = p := fld_of (by rw [hw]; omega)
  rw [decodeOp_58, if_pos c0, fa, fc, fp]

theorem RoundTrip.vChrecv (d : BitVec 6) (c : BitVec 6) (p : BitVec 3) :
    RoundTrip.Statement (.vChrecv d c p) := by
  intro _ x hx
  have hd := d.isLt
  have hc := c.isLt
  have hp := p.isLt
  refine decode_of hx (1979711488 + d.toNat * 524288 + c.toNat * 128 + p.toNat)
    (by omega) rfl 59 (by omega) (by omega) ?_
  intro wd hw
  have c0 : bits wd 3 4 = 0 ∧ bits wd 13 6 = 0 := by simp only [bits, hw]; omega
  have fd : fld wd 19 6 = d := fld_of (by rw [hw]; omega)
  have fc : fld wd 7 6 = c := fld_of (by rw [hw]; omega)
  have fp : fld wd 0 3 = p := fld_of (by rw [hw]; omega)
  rw [decodeOp_59, if_pos c0, fd, fc, fp]

theorem RoundTrip.vRchk (a : BitVec 6) (n : BitVec 6) (p : BitVec 3) :
    RoundTrip.Statement (.vRchk a n p) := by
  intro _ x hx
  have ha := a.isLt
  have hn := n.isLt
  have hp := p.isLt
  refine decode_of hx (2013265920 + a.toNat * 8192 + n.toNat * 128 + p.toNat)
    (by omega) rfl 60 (by omega) (by omega) ?_
  intro wd hw
  have c0 : bits wd 3 4 = 0 ∧ bits wd 19 6 = 0 := by simp only [bits, hw]; omega
  have fa : fld wd 13 6 = a := fld_of (by rw [hw]; omega)
  have fn : fld wd 7 6 = n := fld_of (by rw [hw]; omega)
  have fp : fld wd 0 3 = p := fld_of (by rw [hw]; omega)
  rw [decodeOp_60, if_pos c0, fa, fn, fp]

theorem RoundTrip.vRpois (d : BitVec 6) (w : BitVec 1) (p : BitVec 3) :
    RoundTrip.Statement (.vRpois d w p) := by
  intro _ x hx
  have hd := d.isLt
  have hw := w.isLt
  have hp := p.isLt
  refine decode_of hx (2046820352 + d.toNat * 524288 + w.toNat * 8 + p.toNat)
    (by omega) rfl 61 (by omega) (by omega) ?_
  intro wd hw
  have c0 : bits wd 4 15 = 0 := by simp only [bits, hw]; omega
  have fd : fld wd 19 6 = d := fld_of (by rw [hw]; omega)
  have fw : fld wd 3 1 = w := fld_of (by rw [hw]; omega)
  have fp : fld wd 0 3 = p := fld_of (by rw [hw]; omega)
  rw [decodeOp_61, if_pos c0, fd, fw, fp]

theorem RoundTrip.vRtst (d : BitVec 3) (a : BitVec 6) (w : BitVec 1) (p : BitVec 3) :
    RoundTrip.Statement (.vRtst d a w p) := by
  intro _ x hx
  have hd := d.isLt
  have ha := a.isLt
  have hw := w.isLt
  have hp := p.isLt
  refine decode_of hx (2080374784 + d.toNat * 524288 + a.toNat * 8192 + w.toNat * 8 + p.toNat)
    (by omega) rfl 62 (by omega) (by omega) ?_
  intro wd hw
  have c0 : bits wd 4 9 = 0 ∧ bits wd 22 3 = 0 := by simp only [bits, hw]; omega
  have fd : fld wd 19 3 = d := fld_of (by rw [hw]; omega)
  have fa : fld wd 13 6 = a := fld_of (by rw [hw]; omega)
  have fw : fld wd 3 1 = w := fld_of (by rw [hw]; omega)
  have fp : fld wd 0 3 = p := fld_of (by rw [hw]; omega)
  rw [decodeOp_62, if_pos c0, fd, fa, fw, fp]

theorem RoundTrip.vRgen (d : BitVec 6) (a : BitVec 6) (w : BitVec 1) (p : BitVec 3) :
    RoundTrip.Statement (.vRgen d a w p) := by
  intro _ x hx
  have hd := d.isLt
  have ha := a.isLt
  have hw := w.isLt
  have hp := p.isLt
  refine decode_of hx (2080374800 + d.toNat * 524288 + a.toNat * 8192 + w.toNat * 8 + p.toNat)
    (by omega) rfl 62 (by omega) (by omega) ?_
  intro wd hw
  have c0 : ¬ (bits wd 4 9 = 0 ∧ bits wd 22 3 = 0) := by simp only [bits, hw]; omega
  have c1 : bits wd 4 9 = 1 := by simp only [bits, hw]; omega
  have fd : fld wd 19 6 = d := fld_of (by rw [hw]; omega)
  have fa : fld wd 13 6 = a := fld_of (by rw [hw]; omega)
  have fw : fld wd 3 1 = w := fld_of (by rw [hw]; omega)
  have fp : fld wd 0 3 = p := fld_of (by rw [hw]; omega)
  rw [decodeOp_62, if_neg c0, if_pos c1, fd, fa, fw, fp]

theorem RoundTrip.sAdd (d : BitVec 6) (a : BitVec 6) (b : BitVec 6) (t : BitVec 1) (g : BitVec 3) :
    RoundTrip.Statement (.sAdd d a b t g) := by
  intro _ x hx
  have hd := d.isLt
  have ha := a.isLt
  have hb := b.isLt
  have ht := t.isLt
  have hg := g.isLt
  refine decode_of hx (2147483648 + d.toNat * 524288 + a.toNat * 8192 + b.toNat * 128 + t.toNat * 8 + g.toNat)
    (by omega) rfl 64 (by omega) (by omega) ?_
  intro wd hw
  have c0 : bits wd 4 3 = 0 := by simp only [bits, hw]; omega
  have fd : fld wd 19 6 = d := fld_of (by rw [hw]; omega)
  have fa : fld wd 13 6 = a := fld_of (by rw [hw]; omega)
  have fb : fld wd 7 6 = b := fld_of (by rw [hw]; omega)
  have ft : fld wd 3 1 = t := fld_of (by rw [hw]; omega)
  have fg : fld wd 0 3 = g := fld_of (by rw [hw]; omega)
  rw [decodeOp_64, if_pos c0, fd, fa, fb, ft, fg]

theorem RoundTrip.sSub (d : BitVec 6) (a : BitVec 6) (b : BitVec 6) (t : BitVec 1) (g : BitVec 3) :
    RoundTrip.Statement (.sSub d a b t g) := by
  intro _ x hx
  have hd := d.isLt
  have ha := a.isLt
  have hb := b.isLt
  have ht := t.isLt
  have hg := g.isLt
  refine decode_of hx (2147483680 + d.toNat * 524288 + a.toNat * 8192 + b.toNat * 128 + t.toNat * 8 + g.toNat)
    (by omega) rfl 64 (by omega) (by omega) ?_
  intro wd hw
  have c0 : ¬ (bits wd 4 3 = 0) := by simp only [bits, hw]; omega
  have c1 : bits wd 4 3 = 2 := by simp only [bits, hw]; omega
  have fd : fld wd 19 6 = d := fld_of (by rw [hw]; omega)
  have fa : fld wd 13 6 = a := fld_of (by rw [hw]; omega)
  have fb : fld wd 7 6 = b := fld_of (by rw [hw]; omega)
  have ft : fld wd 3 1 = t := fld_of (by rw [hw]; omega)
  have fg : fld wd 0 3 = g := fld_of (by rw [hw]; omega)
  rw [decodeOp_64, if_neg c0, if_pos c1, fd, fa, fb, ft, fg]

theorem RoundTrip.sMul (d : BitVec 6) (a : BitVec 6) (b : BitVec 6) (t : BitVec 1) (g : BitVec 3) :
    RoundTrip.Statement (.sMul d a b t g) := by
  intro _ x hx
  have hd := d.isLt
  have ha := a.isLt
  have hb := b.isLt
  have ht := t.isLt
  have hg := g.isLt
  refine decode_of hx (2147483728 + d.toNat * 524288 + a.toNat * 8192 + b.toNat * 128 + t.toNat * 8 + g.toNat)
    (by omega) rfl 64 (by omega) (by omega) ?_
  intro wd hw
  have c0 : ¬ (bits wd 4 3 = 0) := by simp only [bits, hw]; omega
  have c1 : ¬ (bits wd 4 3 = 2) := by simp only [bits, hw]; omega
  have c2 : bits wd 4 3 = 5 := by simp only [bits, hw]; omega
  have fd : fld wd 19 6 = d := fld_of (by rw [hw]; omega)
  have fa : fld wd 13 6 = a := fld_of (by rw [hw]; omega)
  have fb : fld wd 7 6 = b := fld_of (by rw [hw]; omega)
  have ft : fld wd 3 1 = t := fld_of (by rw [hw]; omega)
  have fg : fld wd 0 3 = g := fld_of (by rw [hw]; omega)
  rw [decodeOp_64, if_neg c0, if_neg c1, if_pos c2, fd, fa, fb, ft, fg]

theorem RoundTrip.sMulh (d : BitVec 6) (a : BitVec 6) (b : BitVec 6) (s : BitVec 1) (g : BitVec 3) :
    RoundTrip.Statement (.sMulh d a b s g) := by
  intro _ x hx
  have hd := d.isLt
  have ha := a.isLt
  have hb := b.isLt
  have hs := s.isLt
  have hg := g.isLt
  refine decode_of hx (2147483744 + d.toNat * 524288 + a.toNat * 8192 + b.toNat * 128 + s.toNat * 8 + g.toNat)
    (by omega) rfl 64 (by omega) (by omega) ?_
  intro wd hw
  have c0 : ¬ (bits wd 4 3 = 0) := by simp only [bits, hw]; omega
  have c1 : ¬ (bits wd 4 3 = 2) := by simp only [bits, hw]; omega
  have c2 : ¬ (bits wd 4 3 = 5) := by simp only [bits, hw]; omega
  have c3 : bits wd 4 3 = 6 := by simp only [bits, hw]; omega
  have fd : fld wd 19 6 = d := fld_of (by rw [hw]; omega)
  have fa : fld wd 13 6 = a := fld_of (by rw [hw]; omega)
  have fb : fld wd 7 6 = b := fld_of (by rw [hw]; omega)
  have fs : fld wd 3 1 = s := fld_of (by rw [hw]; omega)
  have fg : fld wd 0 3 = g := fld_of (by rw [hw]; omega)
  rw [decodeOp_64, if_neg c0, if_neg c1, if_neg c2, if_pos c3, fd, fa, fb, fs, fg]

theorem RoundTrip.sAnd (d : BitVec 6) (a : BitVec 6) (b : BitVec 6) (g : BitVec 3) :
    RoundTrip.Statement (.sAnd d a b g) := by
  intro _ x hx
  have hd := d.isLt
  have ha := a.isLt
  have hb := b.isLt
  have hg := g.isLt
  refine decode_of hx (2181038080 + d.toNat * 524288 + a.toNat * 8192 + b.toNat * 128 + g.toNat)
    (by omega) rfl 65 (by omega) (by omega) ?_
  intro wd hw
  have c0 : bits wd 3 4 = 0 := by simp only [bits, hw]; omega
  have fd : fld wd 19 6 = d := fld_of (by rw [hw]; omega)
  have fa : fld wd 13 6 = a := fld_of (by rw [hw]; omega)
  have fb : fld wd 7 6 = b := fld_of (by rw [hw]; omega)
  have fg : fld wd 0 3 = g := fld_of (by rw [hw]; omega)
  rw [decodeOp_65, if_pos c0, fd, fa, fb, fg]

theorem RoundTrip.sOr (d : BitVec 6) (a : BitVec 6) (b : BitVec 6) (g : BitVec 3) :
    RoundTrip.Statement (.sOr d a b g) := by
  intro _ x hx
  have hd := d.isLt
  have ha := a.isLt
  have hb := b.isLt
  have hg := g.isLt
  refine decode_of hx (2181038088 + d.toNat * 524288 + a.toNat * 8192 + b.toNat * 128 + g.toNat)
    (by omega) rfl 65 (by omega) (by omega) ?_
  intro wd hw
  have c0 : ¬ (bits wd 3 4 = 0) := by simp only [bits, hw]; omega
  have c1 : bits wd 3 4 = 1 := by simp only [bits, hw]; omega
  have fd : fld wd 19 6 = d := fld_of (by rw [hw]; omega)
  have fa : fld wd 13 6 = a := fld_of (by rw [hw]; omega)
  have fb : fld wd 7 6 = b := fld_of (by rw [hw]; omega)
  have fg : fld wd 0 3 = g := fld_of (by rw [hw]; omega)
  rw [decodeOp_65, if_neg c0, if_pos c1, fd, fa, fb, fg]

theorem RoundTrip.sXor (d : BitVec 6) (a : BitVec 6) (b : BitVec 6) (g : BitVec 3) :
    RoundTrip.Statement (.sXor d a b g) := by
  intro _ x hx
  have hd := d.isLt
  have ha := a.isLt
  have hb := b.isLt
  have hg := g.isLt
  refine decode_of hx (2181038096 + d.toNat * 524288 + a.toNat * 8192 + b.toNat * 128 + g.toNat)
    (by omega) rfl 65 (by omega) (by omega) ?_
  intro wd hw
  have c0 : ¬ (bits wd 3 4 = 0) := by simp only [bits, hw]; omega
  have c1 : ¬ (bits wd 3 4 = 1) := by simp only [bits, hw]; omega
  have c2 : bits wd 3 4 = 2 := by simp only [bits, hw]; omega
  have fd : fld wd 19 6 = d := fld_of (by rw [hw]; omega)
  have fa : fld wd 13 6 = a := fld_of (by rw [hw]; omega)
  have fb : fld wd 7 6 = b := fld_of (by rw [hw]; omega)
  have fg : fld wd 0 3 = g := fld_of (by rw [hw]; omega)
  rw [decodeOp_65, if_neg c0, if_neg c1, if_pos c2, fd, fa, fb, fg]

theorem RoundTrip.sAndn (d : BitVec 6) (a : BitVec 6) (b : BitVec 6) (g : BitVec 3) :
    RoundTrip.Statement (.sAndn d a b g) := by
  intro _ x hx
  have hd := d.isLt
  have ha := a.isLt
  have hb := b.isLt
  have hg := g.isLt
  refine decode_of hx (2181038104 + d.toNat * 524288 + a.toNat * 8192 + b.toNat * 128 + g.toNat)
    (by omega) rfl 65 (by omega) (by omega) ?_
  intro wd hw
  have c0 : ¬ (bits wd 3 4 = 0) := by simp only [bits, hw]; omega
  have c1 : ¬ (bits wd 3 4 = 1) := by simp only [bits, hw]; omega
  have c2 : ¬ (bits wd 3 4 = 2) := by simp only [bits, hw]; omega
  have c3 : bits wd 3 4 = 3 := by simp only [bits, hw]; omega
  have fd : fld wd 19 6 = d := fld_of (by rw [hw]; omega)
  have fa : fld wd 13 6 = a := fld_of (by rw [hw]; omega)
  have fb : fld wd 7 6 = b := fld_of (by rw [hw]; omega)
  have fg : fld wd 0 3 = g := fld_of (by rw [hw]; omega)
  rw [decodeOp_65, if_neg c0, if_neg c1, if_neg c2, if_pos c3, fd, fa, fb, fg]

theorem RoundTrip.sShl (d : BitVec 6) (a : BitVec 6) (b : BitVec 6) (g : BitVec 3) :
    RoundTrip.Statement (.sShl d a b g) := by
  intro _ x hx
  have hd := d.isLt
  have ha := a.isLt
  have hb := b.isLt
  have hg := g.isLt
  refine decode_of hx (2181038112 + d.toNat * 524288 + a.toNat * 8192 + b.toNat * 128 + g.toNat)
    (by omega) rfl 65 (by omega) (by omega) ?_
  intro wd hw
  have c0 : ¬ (bits wd 3 4 = 0) := by simp only [bits, hw]; omega
  have c1 : ¬ (bits wd 3 4 = 1) := by simp only [bits, hw]; omega
  have c2 : ¬ (bits wd 3 4 = 2) := by simp only [bits, hw]; omega
  have c3 : ¬ (bits wd 3 4 = 3) := by simp only [bits, hw]; omega
  have c4 : bits wd 3 4 = 4 := by simp only [bits, hw]; omega
  have fd : fld wd 19 6 = d := fld_of (by rw [hw]; omega)
  have fa : fld wd 13 6 = a := fld_of (by rw [hw]; omega)
  have fb : fld wd 7 6 = b := fld_of (by rw [hw]; omega)
  have fg : fld wd 0 3 = g := fld_of (by rw [hw]; omega)
  rw [decodeOp_65, if_neg c0, if_neg c1, if_neg c2, if_neg c3, if_pos c4, fd, fa, fb, fg]

theorem RoundTrip.sShr (d : BitVec 6) (a : BitVec 6) (b : BitVec 6) (g : BitVec 3) :
    RoundTrip.Statement (.sShr d a b g) := by
  intro _ x hx
  have hd := d.isLt
  have ha := a.isLt
  have hb := b.isLt
  have hg := g.isLt
  refine decode_of hx (2181038120 + d.toNat * 524288 + a.toNat * 8192 + b.toNat * 128 + g.toNat)
    (by omega) rfl 65 (by omega) (by omega) ?_
  intro wd hw
  have c0 : ¬ (bits wd 3 4 = 0) := by simp only [bits, hw]; omega
  have c1 : ¬ (bits wd 3 4 = 1) := by simp only [bits, hw]; omega
  have c2 : ¬ (bits wd 3 4 = 2) := by simp only [bits, hw]; omega
  have c3 : ¬ (bits wd 3 4 = 3) := by simp only [bits, hw]; omega
  have c4 : ¬ (bits wd 3 4 = 4) := by simp only [bits, hw]; omega
  have c5 : bits wd 3 4 = 5 := by simp only [bits, hw]; omega
  have fd : fld wd 19 6 = d := fld_of (by rw [hw]; omega)
  have fa : fld wd 13 6 = a := fld_of (by rw [hw]; omega)
  have fb : fld wd 7 6 = b := fld_of (by rw [hw]; omega)
  have fg : fld wd 0 3 = g := fld_of (by rw [hw]; omega)
  rw [decodeOp_65, if_neg c0, if_neg c1, if_neg c2, if_neg c3, if_neg c4, if_pos c5, fd, fa, fb, fg]

theorem RoundTrip.sSar (d : BitVec 6) (a : BitVec 6) (b : BitVec 6) (g : BitVec 3) :
    RoundTrip.Statement (.sSar d a b g) := by
  intro _ x hx
  have hd := d.isLt
  have ha := a.isLt
  have hb := b.isLt
  have hg := g.isLt
  refine decode_of hx (2181038128 + d.toNat * 524288 + a.toNat * 8192 + b.toNat * 128 + g.toNat)
    (by omega) rfl 65 (by omega) (by omega) ?_
  intro wd hw
  have c0 : ¬ (bits wd 3 4 = 0) := by simp only [bits, hw]; omega
  have c1 : ¬ (bits wd 3 4 = 1) := by simp only [bits, hw]; omega
  have c2 : ¬ (bits wd 3 4 = 2) := by simp only [bits, hw]; omega
  have c3 : ¬ (bits wd 3 4 = 3) := by simp only [bits, hw]; omega
  have c4 : ¬ (bits wd 3 4 = 4) := by simp only [bits, hw]; omega
  have c5 : ¬ (bits wd 3 4 = 5) := by simp only [bits, hw]; omega
  have c6 : bits wd 3 4 = 6 := by simp only [bits, hw]; omega
  have fd : fld wd 19 6 = d := fld_of (by rw [hw]; omega)
  have fa : fld wd 13 6 = a := fld_of (by rw [hw]; omega)
  have fb : fld wd 7 6 = b := fld_of (by rw [hw]; omega)
  have fg : fld wd 0 3 = g := fld_of (by rw [hw]; omega)
  rw [decodeOp_65, if_neg c0, if_neg c1, if_neg c2, if_neg c3, if_neg c4, if_neg c5, if_pos c6, fd, fa, fb, fg]

theorem RoundTrip.sMin (d : BitVec 6) (a : BitVec 6) (b : BitVec 6) (w : BitVec 1) (s : BitVec 1) (g : BitVec 3) :
    RoundTrip.Statement (.sMin d a b w s g) := by
  intro _ x hx
  have hd := d.isLt
  have ha := a.isLt
  have hb := b.isLt
  have hw := w.isLt
  have hs := s.isLt
  have hg := g.isLt
  refine decode_of hx (2214592512 + d.toNat * 524288 + a.toNat * 8192 + b.toNat * 128 + w.toNat * 32 + s.toNat * 8 + g.toNat)
    (by omega) rfl 66 (by omega) (by omega) ?_
  intro wd hw
  have c0 : bits wd 4 1 = 0 ∧ bits wd 6 1 = 0 := by simp only [bits, hw]; omega
  have fd : fld wd 19 6 = d := fld_of (by rw [hw]; omega)
  have fa : fld wd 13 6 = a := fld_of (by rw [hw]; omega)
  have fb : fld wd 7 6 = b := fld_of (by rw [hw]; omega)
  have fw : fld wd 5 1 = w := fld_of (by rw [hw]; omega)
  have fs : fld wd 3 1 = s := fld_of (by rw [hw]; omega)
  have fg : fld wd 0 3 = g := fld_of (by rw [hw]; omega)
  rw [decodeOp_66, if_pos c0, fd, fa, fb, fw, fs, fg]

theorem RoundTrip.sMax (d : BitVec 6) (a : BitVec 6) (b : BitVec 6) (w : BitVec 1) (s : BitVec 1) (g : BitVec 3) :
    RoundTrip.Statement (.sMax d a b w s g) := by
  intro _ x hx
  have hd := d.isLt
  have ha := a.isLt
  have hb := b.isLt
  have hw := w.isLt
  have hs := s.isLt
  have hg := g.isLt
  refine decode_of hx (2214592528 + d.toNat * 524288 + a.toNat * 8192 + b.toNat * 128 + w.toNat * 32 + s.toNat * 8 + g.toNat)
    (by omega) rfl 66 (by omega) (by omega) ?_
  intro wd hw
  have c0 : ¬ (bits wd 4 1 = 0 ∧ bits wd 6 1 = 0) := by simp only [bits, hw]; omega
  have c1 : bits wd 4 1 = 1 ∧ bits wd 6 1 = 0 := by simp only [bits, hw]; omega
  have fd : fld wd 19 6 = d := fld_of (by rw [hw]; omega)
  have fa : fld wd 13 6 = a := fld_of (by rw [hw]; omega)
  have fb : fld wd 7 6 = b := fld_of (by rw [hw]; omega)
  have fw : fld wd 5 1 = w := fld_of (by rw [hw]; omega)
  have fs : fld wd 3 1 = s := fld_of (by rw [hw]; omega)
  have fg : fld wd 0 3 = g := fld_of (by rw [hw]; omega)
  rw [decodeOp_66, if_neg c0, if_pos c1, fd, fa, fb, fw, fs, fg]

theorem RoundTrip.sCmp (d : BitVec 3) (a : BitVec 6) (b : BitVec 6) (w : BitVec 1) (c : BitVec 3) (g : BitVec 3) :
    RoundTrip.Statement (.sCmp d a b w c g) := by
  intro _ x hx
  have hd := d.isLt
  have ha := a.isLt
  have hb := b.isLt
  have hw := w.isLt
  have hc := c.isLt
  have hg := g.isLt
  refine decode_of hx (2248146944 + d.toNat * 524288 + a.toNat * 8192 + b.toNat * 128 + w.toNat * 64 + c.toNat * 8 + g.toNat)
    (by omega) rfl 67 (by omega) (by omega) ?_
  intro wd hw
  have c0 : bits wd 22 3 = 0 := by simp only [bits, hw]; omega
  have fd : fld wd 19 3 = d := fld_of (by rw [hw]; omega)
  have fa : fld wd 13 6 = a := fld_of (by rw [hw]; omega)
  have fb : fld wd 7 6 = b := fld_of (by rw [hw]; omega)
  have fw : fld wd 6 1 = w := fld_of (by rw [hw]; omega)
  have fc : fld wd 3 3 = c := fld_of (by rw [hw]; omega)
  have fg : fld wd 0 3 = g := fld_of (by rw [hw]; omega)
  rw [decodeOp_67, if_pos c0, fd, fa, fb, fw, fc, fg]

theorem RoundTrip.sSel (d : BitVec 6) (a : BitVec 6) (b : BitVec 6) (w : BitVec 1) (n : BitVec 3) (g : BitVec 3) :
    RoundTrip.Statement (.sSel d a b w n g) := by
  intro hwf x hx
  have hd := d.isLt
  have ha := a.isLt
  have hb := b.isLt
  have hw := w.isLt
  have hn := n.isLt
  have hg := g.isLt
  have hwf : ¬ (n.toNat = 7 ∧ b.toNat = 0) := fun e => by
    simp [Instr.wf, BitVec.eq_of_toNat_eq (y := 7#3) e.1, BitVec.eq_of_toNat_eq (y := 0#6) e.2] at hwf
  refine decode_of hx (2281701376 + d.toNat * 524288 + a.toNat * 8192 + b.toNat * 128 + w.toNat * 64 + n.toNat * 8 + g.toNat)
    (by omega) rfl 68 (by omega) (by omega) ?_
  intro wd hw
  have c0 : ¬ (bits wd 3 3 = 7 ∧ bits wd 7 6 = 0) := by simp only [bits, hw]; omega
  have fd : fld wd 19 6 = d := fld_of (by rw [hw]; omega)
  have fa : fld wd 13 6 = a := fld_of (by rw [hw]; omega)
  have fb : fld wd 7 6 = b := fld_of (by rw [hw]; omega)
  have fw : fld wd 6 1 = w := fld_of (by rw [hw]; omega)
  have fn : fld wd 3 3 = n := fld_of (by rw [hw]; omega)
  have fg : fld wd 0 3 = g := fld_of (by rw [hw]; omega)
  rw [decodeOp_68, if_neg c0, fd, fa, fb, fw, fn, fg]

theorem RoundTrip.sMov (d : BitVec 6) (a : BitVec 6) (w : BitVec 1) (g : BitVec 3) :
    RoundTrip.Statement (.sMov d a w g) := by
  intro _ x hx
  have hd := d.isLt
  have ha := a.isLt
  have hw := w.isLt
  have hg := g.isLt
  refine decode_of hx (2281701432 + d.toNat * 524288 + a.toNat * 8192 + w.toNat * 64 + g.toNat)
    (by omega) rfl 68 (by omega) (by omega) ?_
  intro wd hw
  have c0 : bits wd 3 3 = 7 ∧ bits wd 7 6 = 0 := by simp only [bits, hw]; omega
  have fd : fld wd 19 6 = d := fld_of (by rw [hw]; omega)
  have fa : fld wd 13 6 = a := fld_of (by rw [hw]; omega)
  have fw : fld wd 6 1 = w := fld_of (by rw [hw]; omega)
  have fg : fld wd 0 3 = g := fld_of (by rw [hw]; omega)
  rw [decodeOp_68, if_pos c0, fd, fa, fw, fg]

theorem RoundTrip.sQset (d : BitVec 3) (a : BitVec 3) (b : BitVec 3) (t : BitVec 4) (g : BitVec 3) :
    RoundTrip.Statement (.sQset d a b t g) := by
  intro _ x hx
  have hd := d.isLt
  have ha := a.isLt
  have hb := b.isLt
  have ht := t.isLt
  have hg := g.isLt
  refine decode_of hx (2315255808 + d.toNat * 524288 + a.toNat * 8192 + b.toNat * 128 + t.toNat * 8 + g.toNat)
    (by omega) rfl 69 (by omega) (by omega) ?_
  intro wd hw
  have c0 : bits wd 10 3 = 0 ∧ bits wd 16 3 = 0 ∧ bits wd 22 3 = 0 := by simp only [bits, hw]; omega
  have fd : fld wd 19 3 = d := fld_of (by rw [hw]; omega)
  have fa : fld wd 13 3 = a := fld_of (by rw [hw]; omega)
  have fb : fld wd 7 3 = b := fld_of (by rw [hw]; omega)
  have ft : fld wd 3 4 = t := fld_of (by rw [hw]; omega)
  have fg : fld wd 0 3 = g := fld_of (by rw [hw]; omega)
  rw [decodeOp_69, if_pos c0, fd, fa, fb, ft, fg]

theorem RoundTrip.sAddi (d : BitVec 6) (a : BitVec 6) (i : BitVec 10) (g : BitVec 3) :
    RoundTrip.Statement (.sAddi d a i g) := by
  intro _ x hx
  have hd := d.isLt
  have ha := a.isLt
  have hi := i.isLt
  have hg := g.isLt
  refine decode_of hx (2348810240 + d.toNat * 524288 + a.toNat * 8192 + i.toNat * 8 + g.toNat)
    (by omega) rfl 70 (by omega) (by omega) ?_
  intro wd hw
  have fd : fld wd 19 6 = d := fld_of (by rw [hw]; omega)
  have fa : fld wd 13 6 = a := fld_of (by rw [hw]; omega)
  have fi : fld wd 3 10 = i := fld_of (by rw [hw]; omega)
  have fg : fld wd 0 3 = g := fld_of (by rw [hw]; omega)
  rw [decodeOp_70, fd, fa, fi, fg]

theorem RoundTrip.sAndi (d : BitVec 6) (a : BitVec 6) (i : BitVec 10) (g : BitVec 3) :
    RoundTrip.Statement (.sAndi d a i g) := by
  intro _ x hx
  have hd := d.isLt
  have ha := a.isLt
  have hi := i.isLt
  have hg := g.isLt
  refine decode_of hx (2382364672 + d.toNat * 524288 + a.toNat * 8192 + i.toNat * 8 + g.toNat)
    (by omega) rfl 71 (by omega) (by omega) ?_
  intro wd hw
  have fd : fld wd 19 6 = d := fld_of (by rw [hw]; omega)
  have fa : fld wd 13 6 = a := fld_of (by rw [hw]; omega)
  have fi : fld wd 3 10 = i := fld_of (by rw [hw]; omega)
  have fg : fld wd 0 3 = g := fld_of (by rw [hw]; omega)
  rw [decodeOp_71, fd, fa, fi, fg]

theorem RoundTrip.sOri (d : BitVec 6) (a : BitVec 6) (i : BitVec 10) (g : BitVec 3) :
    RoundTrip.Statement (.sOri d a i g) := by
  intro _ x hx
  have hd := d.isLt
  have ha := a.isLt
  have hi := i.isLt
  have hg := g.isLt
  refine decode_of hx (2415919104 + d.toNat * 524288 + a.toNat * 8192 + i.toNat * 8 + g.toNat)
    (by omega) rfl 72 (by omega) (by omega) ?_
  intro wd hw
  have fd : fld wd 19 6 = d := fld_of (by rw [hw]; omega)
  have fa : fld wd 13 6 = a := fld_of (by rw [hw]; omega)
  have fi : fld wd 3 10 = i := fld_of (by rw [hw]; omega)
  have fg : fld wd 0 3 = g := fld_of (by rw [hw]; omega)
  rw [decodeOp_72, fd, fa, fi, fg]

theorem RoundTrip.sXori (d : BitVec 6) (a : BitVec 6) (i : BitVec 10) (g : BitVec 3) :
    RoundTrip.Statement (.sXori d a i g) := by
  intro _ x hx
  have hd := d.isLt
  have ha := a.isLt
  have hi := i.isLt
  have hg := g.isLt
  refine decode_of hx (2449473536 + d.toNat * 524288 + a.toNat * 8192 + i.toNat * 8 + g.toNat)
    (by omega) rfl 73 (by omega) (by omega) ?_
  intro wd hw
  have fd : fld wd 19 6 = d := fld_of (by rw [hw]; omega)
  have fa : fld wd 13 6 = a := fld_of (by rw [hw]; omega)
  have fi : fld wd 3 10 = i := fld_of (by rw [hw]; omega)
  have fg : fld wd 0 3 = g := fld_of (by rw [hw]; omega)
  rw [decodeOp_73, fd, fa, fi, fg]

theorem RoundTrip.sShli (d : BitVec 6) (a : BitVec 6) (k : BitVec 5) (g : BitVec 3) :
    RoundTrip.Statement (.sShli d a k g) := by
  intro _ x hx
  have hd := d.isLt
  have ha := a.isLt
  have hk := k.isLt
  have hg := g.isLt
  refine decode_of hx (2483027968 + d.toNat * 524288 + a.toNat * 8192 + k.toNat * 8 + g.toNat)
    (by omega) rfl 74 (by omega) (by omega) ?_
  intro wd hw
  have c0 : bits wd 8 5 = 0 := by simp only [bits, hw]; omega
  have fd : fld wd 19 6 = d := fld_of (by rw [hw]; omega)
  have fa : fld wd 13 6 = a := fld_of (by rw [hw]; omega)
  have fk : fld wd 3 5 = k := fld_of (by rw [hw]; omega)
  have fg : fld wd 0 3 = g := fld_of (by rw [hw]; omega)
  rw [decodeOp_74, if_pos c0, fd, fa, fk, fg]

theorem RoundTrip.sShri (d : BitVec 6) (a : BitVec 6) (k : BitVec 5) (g : BitVec 3) :
    RoundTrip.Statement (.sShri d a k g) := by
  intro _ x hx
  have hd := d.isLt
  have ha := a.isLt
  have hk := k.isLt
  have hg := g.isLt
  refine decode_of hx (2483028224 + d.toNat * 524288 + a.toNat * 8192 + k.toNat * 8 + g.toNat)
    (by omega) rfl 74 (by omega) (by omega) ?_
  intro wd hw
  have c0 : ¬ (bits wd 8 5 = 0) := by simp only [bits, hw]; omega
  have c1 : bits wd 8 5 = 1 := by simp only [bits, hw]; omega
  have fd : fld wd 19 6 = d := fld_of (by rw [hw]; omega)
  have fa : fld wd 13 6 = a := fld_of (by rw [hw]; omega)
  have fk : fld wd 3 5 = k := fld_of (by rw [hw]; omega)
  have fg : fld wd 0 3 = g := fld_of (by rw [hw]; omega)
  rw [decodeOp_74, if_neg c0, if_pos c1, fd, fa, fk, fg]

theorem RoundTrip.sCmpi (d : BitVec 3) (a : BitVec 6) (c : BitVec 3) (i : BitVec 7) (g : BitVec 3) :
    RoundTrip.Statement (.sCmpi d a c i g) := by
  intro _ x hx
  have hd := d.isLt
  have ha := a.isLt
  have hc := c.isLt
  have hi := i.isLt
  have hg := g.isLt
  refine decode_of hx (2516582400 + d.toNat * 524288 + a.toNat * 8192 + c.toNat * 1024 + i.toNat * 8 + g.toNat)
    (by omega) rfl 75 (by omega) (by omega) ?_
  intro wd hw
  have c0 : bits wd 22 3 = 0 := by simp only [bits, hw]; omega
  have fd : fld wd 19 3 = d := fld_of (by rw [hw]; omega)
  have fa : fld wd 13 6 = a := fld_of (by rw [hw]; omega)
  have fc : fld wd 10 3 = c := fld_of (by rw [hw]; omega)
  have fi : fld wd 3 7 = i := fld_of (by rw [hw]; omega)
  have fg : fld wd 0 3 = g := fld_of (by rw [hw]; omega)
  rw [decodeOp_75, if_pos c0, fd, fa, fc, fi, fg]

theorem RoundTrip.sMovi (d : BitVec 6) (i : BitVec 16) (g : BitVec 3) :
    RoundTrip.Statement (.sMovi d i g) := by
  intro _ x hx
  have hd := d.isLt
  have hi := i.isLt
  have hg := g.isLt
  refine decode_of hx (2550136832 + d.toNat * 524288 + i.toNat * 8 + g.toNat)
    (by omega) rfl 76 (by omega) (by omega) ?_
  intro wd hw
  have fd : fld wd 19 6 = d := fld_of (by rw [hw]; omega)
  have fi : fld wd 3 16 = i := fld_of (by rw [hw]; omega)
  have fg : fld wd 0 3 = g := fld_of (by rw [hw]; omega)
  rw [decodeOp_76, fd, fi, fg]

theorem RoundTrip.sMovl (d : BitVec 6) (i : BitVec 16) (g : BitVec 3) :
    RoundTrip.Statement (.sMovl d i g) := by
  intro _ x hx
  have hd := d.isLt
  have hi := i.isLt
  have hg := g.isLt
  refine decode_of hx (2583691264 + d.toNat * 524288 + i.toNat * 8 + g.toNat)
    (by omega) rfl 77 (by omega) (by omega) ?_
  intro wd hw
  have fd : fld wd 19 6 = d := fld_of (by rw [hw]; omega)
  have fi : fld wd 3 16 = i := fld_of (by rw [hw]; omega)
  have fg : fld wd 0 3 = g := fld_of (by rw [hw]; omega)
  rw [decodeOp_77, fd, fi, fg]

theorem RoundTrip.sMovh (d : BitVec 6) (i : BitVec 16) (g : BitVec 3) :
    RoundTrip.Statement (.sMovh d i g) := by
  intro _ x hx
  have hd := d.isLt
  have hi := i.isLt
  have hg := g.isLt
  refine decode_of hx (2617245696 + d.toNat * 524288 + i.toNat * 8 + g.toNat)
    (by omega) rfl 78 (by omega) (by omega) ?_
  intro wd hw
  have fd : fld wd 19 6 = d := fld_of (by rw [hw]; omega)
  have fi : fld wd 3 16 = i := fld_of (by rw [hw]; omega)
  have fg : fld wd 0 3 = g := fld_of (by rw [hw]; omega)
  rw [decodeOp_78, fd, fi, fg]

theorem RoundTrip.sSld (t : BitVec 6) (a : BitVec 6) (z : BitVec 2) (o : BitVec 4) (l : BitVec 4) (g : BitVec 3) :
    RoundTrip.Statement (.sSld t a z o l g) := by
  intro _ x hx
  have ht := t.isLt
  have ha := a.isLt
  have hz := z.isLt
  have ho := o.isLt
  have hl := l.isLt
  have hg := g.isLt
  refine decode_of hx (2684354560 + t.toNat * 524288 + a.toNat * 8192 + z.toNat * 2048 + o.toNat * 128 + l.toNat * 8 + g.toNat)
    (by omega) rfl 80 (by omega) (by omega) ?_
  intro wd hw
  have ft : fld wd 19 6 = t := fld_of (by rw [hw]; omega)
  have fa : fld wd 13 6 = a := fld_of (by rw [hw]; omega)
  have fz : fld wd 11 2 = z := fld_of (by rw [hw]; omega)
  have fo : fld wd 7 4 = o := fld_of (by rw [hw]; omega)
  have fl : fld wd 3 4 = l := fld_of (by rw [hw]; omega)
  have fg : fld wd 0 3 = g := fld_of (by rw [hw]; omega)
  rw [decodeOp_80, ft, fa, fz, fo, fl, fg]

theorem RoundTrip.sSst (t : BitVec 6) (a : BitVec 6) (o : BitVec 6) (z : BitVec 3) (g : BitVec 3) :
    RoundTrip.Statement (.sSst t a o z g) := by
  intro _ x hx
  have ht := t.isLt
  have ha := a.isLt
  have ho := o.isLt
  have hz := z.isLt
  have hg := g.isLt
  refine decode_of hx (2717908992 + t.toNat * 524288 + a.toNat * 8192 + o.toNat * 128 + z.toNat * 8 + g.toNat)
    (by omega) rfl 81 (by omega) (by omega) ?_
  intro wd hw
  have c0 : bits wd 6 1 = 0 := by simp only [bits, hw]; omega
  have ft : fld wd 19 6 = t := fld_of (by rw [hw]; omega)
  have fa : fld wd 13 6 = a := fld_of (by rw [hw]; omega)
  have fo : fld wd 7 6 = o := fld_of (by rw [hw]; omega)
  have fz : fld wd 3 3 = z := fld_of (by rw [hw]; omega)
  have fg : fld wd 0 3 = g := fld_of (by rw [hw]; omega)
  rw [decodeOp_81, if_pos c0, ft, fa, fo, fz, fg]

theorem RoundTrip.sSatom (t : BitVec 6) (a : BitVec 6) (s : BitVec 3) (o : BitVec 3) (k : BitVec 4) (g : BitVec 3) :
    RoundTrip.Statement (.sSatom t a s o k g) := by
  intro _ x hx
  have ht := t.isLt
  have ha := a.isLt
  have hs := s.isLt
  have ho := o.isLt
  have hk := k.isLt
  have hg := g.isLt
  refine decode_of hx (2751463424 + t.toNat * 524288 + a.toNat * 8192 + s.toNat * 1024 + o.toNat * 128 + k.toNat * 8 + g.toNat)
    (by omega) rfl 82 (by omega) (by omega) ?_
  intro wd hw
  have ft : fld wd 19 6 = t := fld_of (by rw [hw]; omega)
  have fa : fld wd 13 6 = a := fld_of (by rw [hw]; omega)
  have fs : fld wd 10 3 = s := fld_of (by rw [hw]; omega)
  have fo : fld wd 7 3 = o := fld_of (by rw [hw]; omega)
  have fk : fld wd 3 4 = k := fld_of (by rw [hw]; omega)
  have fg : fld wd 0 3 = g := fld_of (by rw [hw]; omega)
  rw [decodeOp_82, ft, fa, fs, fo, fk, fg]

theorem RoundTrip.sB (d : BitVec 22) (g : BitVec 3) :
    RoundTrip.Statement (.sB d g) := by
  intro _ x hx
  have hd := d.isLt
  have hg := g.isLt
  refine decode_of hx (2952790016 + d.toNat * 8 + g.toNat)
    (by omega) rfl 88 (by omega) (by omega) ?_
  intro wd hw
  have fd : fld wd 3 22 = d := fld_of (by rw [hw]; omega)
  have fg : fld wd 0 3 = g := fld_of (by rw [hw]; omega)
  rw [decodeOp_88, fd, fg]

theorem RoundTrip.sCall (s : BitVec 6) (d : BitVec 16) (g : BitVec 3) :
    RoundTrip.Statement (.sCall s d g) := by
  intro _ x hx
  have hs := s.isLt
  have hd := d.isLt
  have hg := g.isLt
  refine decode_of hx (2986344448 + s.toNat * 524288 + d.toNat * 8 + g.toNat)
    (by omega) rfl 89 (by omega) (by omega) ?_
  intro wd hw
  have fs : fld wd 19 6 = s := fld_of (by rw [hw]; omega)
  have fd : fld wd 3 16 = d := fld_of (by rw [hw]; omega)
  have fg : fld wd 0 3 = g := fld_of (by rw [hw]; omega)
  rw [decodeOp_89, fs, fd, fg]

theorem RoundTrip.sCallu (a : BitVec 6) (s : BitVec 6) (g : BitVec 3) :
    RoundTrip.Statement (.sCallu a s g) := by
  intro _ x hx
  have ha := a.isLt
  have hs := s.isLt
  have hg := g.isLt
  refine decode_of hx (3019898880 + a.toNat * 8192 + s.toNat * 128 + g.toNat)
    (by omega) rfl 90 (by omega) (by omega) ?_
  intro wd hw
  have c0 : bits wd 3 4 = 0 ∧ bits wd 19 6 = 0 := by simp only [bits, hw]; omega
  have fa : fld wd 13 6 = a := fld_of (by rw [hw]; omega)
  have fs : fld wd 7 6 = s := fld_of (by rw [hw]; omega)
  have fg : fld wd 0 3 = g := fld_of (by rw [hw]; omega)
  rw [decodeOp_90, if_pos c0, fa, fs, fg]

theorem RoundTrip.sRet (g : BitVec 3) :
    RoundTrip.Statement (.sRet g) := by
  intro _ x hx
  have hg := g.isLt
  refine decode_of hx (3053453312 + g.toNat)
    (by omega) rfl 91 (by omega) (by omega) ?_
  intro wd hw
  have c0 : bits wd 3 22 = 0 := by simp only [bits, hw]; omega
  have fg : fld wd 0 3 = g := fld_of (by rw [hw]; omega)
  rw [decodeOp_91, if_pos c0, fg]

theorem RoundTrip.sJmpu (a : BitVec 6) (g : BitVec 3) :
    RoundTrip.Statement (.sJmpu a g) := by
  intro _ x hx
  have ha := a.isLt
  have hg := g.isLt
  refine decode_of hx (3087007744 + a.toNat * 8192 + g.toNat)
    (by omega) rfl 92 (by omega) (by omega) ?_
  intro wd hw
  have c0 : bits wd 3 10 = 0 ∧ bits wd 19 6 = 0 := by simp only [bits, hw]; omega
  have fa : fld wd 13 6 = a := fld_of (by rw [hw]; omega)
  have fg : fld wd 0 3 = g := fld_of (by rw [hw]; omega)
  rw [decodeOp_92, if_pos c0, fa, fg]

theorem RoundTrip.sEnter (n : BitVec 10) (g : BitVec 3) :
    RoundTrip.Statement (.sEnter n g) := by
  intro _ x hx
  have hn := n.isLt
  have hg := g.isLt
  refine decode_of hx (3120562176 + n.toNat * 8 + g.toNat)
    (by omega) rfl 93 (by omega) (by omega) ?_
  intro wd hw
  have c0 : bits wd 13 12 = 0 := by simp only [bits, hw]; omega
  have fn : fld wd 3 10 = n := fld_of (by rw [hw]; omega)
  have fg : fld wd 0 3 = g := fld_of (by rw [hw]; omega)
  rw [decodeOp_93, if_pos c0, fn, fg]

theorem RoundTrip.sLoop (a : BitVec 6) (e : BitVec 10) (g : BitVec 3) :
    RoundTrip.Statement (.sLoop a e g) := by
  intro _ x hx
  have ha := a.isLt
  have he := e.isLt
  have hg := g.isLt
  refine decode_of hx (3154116608 + a.toNat * 8192 + e.toNat * 8 + g.toNat)
    (by omega) rfl 94 (by omega) (by omega) ?_
  intro wd hw
  have c0 : bits wd 19 6 = 0 := by simp only [bits, hw]; omega
  have fa : fld wd 13 6 = a := fld_of (by rw [hw]; omega)
  have fe : fld wd 3 10 = e := fld_of (by rw [hw]; omega)
  have fg : fld wd 0 3 = g := fld_of (by rw [hw]; omega)
  rw [decodeOp_94, if_pos c0, fa, fe, fg]

theorem RoundTrip.sLbrk (g : BitVec 3) :
    RoundTrip.Statement (.sLbrk g) := by
  intro _ x hx
  have hg := g.isLt
  refine decode_of hx (3187671040 + g.toNat)
    (by omega) rfl 95 (by omega) (by omega) ?_
  intro wd hw
  have c0 : bits wd 3 22 = 0 := by simp only [bits, hw]; omega
  have fg : fld wd 0 3 = g := fld_of (by rw [hw]; omega)
  rw [decodeOp_95, if_pos c0, fg]

theorem RoundTrip.sNop (g : BitVec 3) :
    RoundTrip.Statement (.sNop g) := by
  intro _ x hx
  have hg := g.isLt
  refine decode_of hx (3221225472 + g.toNat)
    (by omega) rfl 96 (by omega) (by omega) ?_
  intro wd hw
  have c0 : bits wd 3 22 = 0 := by simp only [bits, hw]; omega
  have fg : fld wd 0 3 = g := fld_of (by rw [hw]; omega)
  rw [decodeOp_96, if_pos c0, fg]

theorem RoundTrip.sSleep (n : BitVec 10) (g : BitVec 3) :
    RoundTrip.Statement (.sSleep n g) := by
  intro _ x hx
  have hn := n.isLt
  have hg := g.isLt
  refine decode_of hx (3254779904 + n.toNat * 8 + g.toNat)
    (by omega) rfl 97 (by omega) (by omega) ?_
  intro wd hw
  have c0 : bits wd 13 12 = 0 := by simp only [bits, hw]; omega
  have fn : fld wd 3 10 = n := fld_of (by rw [hw]; omega)
  have fg : fld wd 0 3 = g := fld_of (by rw [hw]; omega)
  rw [decodeOp_97, if_pos c0, fn, fg]

theorem RoundTrip.sBar (b : BitVec 4) (g : BitVec 3) :
    RoundTrip.Statement (.sBar b g) := by
  intro _ x hx
  have hb := b.isLt
  have hg := g.isLt
  refine decode_of hx (3355443200 + b.toNat * 128 + g.toNat)
    (by omega) rfl 100 (by omega) (by omega) ?_
  intro wd hw
  have c0 : bits wd 3 4 = 0 ∧ bits wd 11 14 = 0 := by simp only [bits, hw]; omega
  have fb : fld wd 7 4 = b := fld_of (by rw [hw]; omega)
  have fg : fld wd 0 3 = g := fld_of (by rw [hw]; omega)
  rw [decodeOp_100, if_pos c0, fb, fg]

theorem RoundTrip.sArv (b : BitVec 4) (g : BitVec 3) :
    RoundTrip.Statement (.sArv b g) := by
  intro _ x hx
  have hb := b.isLt
  have hg := g.isLt
  refine decode_of hx (3355443208 + b.toNat * 128 + g.toNat)
    (by omega) rfl 100 (by omega) (by omega) ?_
  intro wd hw
  have c0 : ¬ (bits wd 3 4 = 0 ∧ bits wd 11 14 = 0) := by simp only [bits, hw]; omega
  have c1 : bits wd 3 4 = 1 ∧ bits wd 11 14 = 0 := by simp only [bits, hw]; omega
  have fb : fld wd 7 4 = b := fld_of (by rw [hw]; omega)
  have fg : fld wd 0 3 = g := fld_of (by rw [hw]; omega)
  rw [decodeOp_100, if_neg c0, if_pos c1, fb, fg]

theorem RoundTrip.sAwt (b : BitVec 4) (g : BitVec 3) :
    RoundTrip.Statement (.sAwt b g) := by
  intro _ x hx
  have hb := b.isLt
  have hg := g.isLt
  refine decode_of hx (3355443216 + b.toNat * 128 + g.toNat)
    (by omega) rfl 100 (by omega) (by omega) ?_
  intro wd hw
  have c0 : ¬ (bits wd 3 4 = 0 ∧ bits wd 11 14 = 0) := by simp only [bits, hw]; omega
  have c1 : ¬ (bits wd 3 4 = 1 ∧ bits wd 11 14 = 0) := by simp only [bits, hw]; omega
  have c2 : bits wd 3 4 = 2 ∧ bits wd 11 14 = 0 := by simp only [bits, hw]; omega
  have fb : fld wd 7 4 = b := fld_of (by rw [hw]; omega)
  have fg : fld wd 0 3 = g := fld_of (by rw [hw]; omega)
  rw [decodeOp_100, if_neg c0, if_neg c1, if_pos c2, fb, fg]

theorem RoundTrip.sGbar (g : BitVec 3) :
    RoundTrip.Statement (.sGbar g) := by
  intro _ x hx
  have hg := g.isLt
  refine decode_of hx (3388997632 + g.toNat)
    (by omega) rfl 101 (by omega) (by omega) ?_
  intro wd hw
  have c0 : bits wd 3 22 = 0 := by simp only [bits, hw]; omega
  have fg : fld wd 0 3 = g := fld_of (by rw [hw]; omega)
  rw [decodeOp_101, if_pos c0, fg]

theorem RoundTrip.sFence (s : BitVec 3) (o : BitVec 3) (g : BitVec 3) :
    RoundTrip.Statement (.sFence s o g) := by
  intro _ x hx
  have hs := s.isLt
  have ho := o.isLt
  have hg := g.isLt
  refine decode_of hx (3422552064 + s.toNat * 128 + o.toNat * 8 + g.toNat)
    (by omega) rfl 102 (by omega) (by omega) ?_
  intro wd hw
  have c0 : bits wd 6 1 = 0 ∧ bits wd 10 15 = 0 := by simp only [bits, hw]; omega
  have fs : fld wd 7 3 = s := fld_of (by rw [hw]; omega)
  have fo : fld wd 3 3 = o := fld_of (by rw [hw]; omega)
  have fg : fld wd 0 3 = g := fld_of (by rw [hw]; omega)
  rw [decodeOp_102, if_pos c0, fs, fo, fg]

theorem RoundTrip.sWaitv (d : BitVec 6) (a : BitVec 6) (b : BitVec 6) (w : BitVec 1) (c : BitVec 3) (g : BitVec 3) :
    RoundTrip.Statement (.sWaitv d a b w c g) := by
  intro _ x hx
  have hd := d.isLt
  have ha := a.isLt
  have hb := b.isLt
  have hw := w.isLt
  have hc := c.isLt
  have hg := g.isLt
  refine decode_of hx (3456106496 + d.toNat * 524288 + a.toNat * 8192 + b.toNat * 128 + w.toNat * 64 + c.toNat * 8 + g.toNat)
    (by omega) rfl 103 (by omega) (by omega) ?_
  intro wd hw
  have fd : fld wd 19 6 = d := fld_of (by rw [hw]; omega)
  have fa : fld wd 13 6 = a := fld_of (by rw [hw]; omega)
  have fb : fld wd 7 6 = b := fld_of (by rw [hw]; omega)
  have fw : fld wd 6 1 = w := fld_of (by rw [hw]; omega)
  have fc : fld wd 3 3 = c := fld_of (by rw [hw]; omega)
  have fg : fld wd 0 3 = g := fld_of (by rw [hw]; omega)
  rw [decodeOp_103, fd, fa, fb, fw, fc, fg]

theorem RoundTrip.sCseal (d : BitVec 6) (g : BitVec 3) :
    RoundTrip.Statement (.sCseal d g) := by
  intro _ x hx
  have hd := d.isLt
  have hg := g.isLt
  refine decode_of hx (3489660928 + d.toNat * 524288 + g.toNat)
    (by omega) rfl 104 (by omega) (by omega) ?_
  intro wd hw
  have c0 : bits wd 3 16 = 0 := by simp only [bits, hw]; omega
  have fd : fld wd 19 6 = d := fld_of (by rw [hw]; omega)
  have fg : fld wd 0 3 = g := fld_of (by rw [hw]; omega)
  rw [decodeOp_104, if_pos c0, fd, fg]

theorem RoundTrip.sCwait (n : BitVec 10) (g : BitVec 3) :
    RoundTrip.Statement (.sCwait n g) := by
  intro _ x hx
  have hn := n.isLt
  have hg := g.isLt
  refine decode_of hx (3523215360 + n.toNat * 8 + g.toNat)
    (by omega) rfl 105 (by omega) (by omega) ?_
  intro wd hw
  have c0 : bits wd 13 12 = 0 := by simp only [bits, hw]; omega
  have fn : fld wd 3 10 = n := fld_of (by rw [hw]; omega)
  have fg : fld wd 0 3 = g := fld_of (by rw [hw]; omega)
  rw [decodeOp_105, if_pos c0, fn, fg]

theorem RoundTrip.sCyield (d : BitVec 22) (g : BitVec 3) :
    RoundTrip.Statement (.sCyield d g) := by
  intro _ x hx
  have hd := d.isLt
  have hg := g.isLt
  refine decode_of hx (3556769792 + d.toNat * 8 + g.toNat)
    (by omega) rfl 106 (by omega) (by omega) ?_
  intro wd hw
  have fd : fld wd 3 22 = d := fld_of (by rw [hw]; omega)
  have fg : fld wd 0 3 = g := fld_of (by rw [hw]; omega)
  rw [decodeOp_106, fd, fg]

theorem RoundTrip.sMwait (l : BitVec 1) (k : BitVec 4) (g : BitVec 3) :
    RoundTrip.Statement (.sMwait l k g) := by
  intro _ x hx
  have hl := l.isLt
  have hk := k.isLt
  have hg := g.isLt
  refine decode_of hx (3590324224 + l.toNat * 128 + k.toNat * 8 + g.toNat)
    (by omega) rfl 107 (by omega) (by omega) ?_
  intro wd hw
  have c0 : bits wd 8 17 = 0 := by simp only [bits, hw]; omega
  have fl : fld wd 7 1 = l := fld_of (by rw [hw]; omega)
  have fk : fld wd 3 4 = k := fld_of (by rw [hw]; omega)
  have fg : fld wd 0 3 = g := fld_of (by rw [hw]; omega)
  rw [decodeOp_107, if_pos c0, fl, fk, fg]

theorem RoundTrip.sRds (d : BitVec 6) (a : BitVec 6) (v : BitVec 1) (g : BitVec 3) :
    RoundTrip.Statement (.sRds d a v g) := by
  intro _ x hx
  have hd := d.isLt
  have ha := a.isLt
  have hv := v.isLt
  have hg := g.isLt
  refine decode_of hx (3623878656 + d.toNat * 524288 + a.toNat * 8192 + v.toNat * 8 + g.toNat)
    (by omega) rfl 108 (by omega) (by omega) ?_
  intro wd hw
  have c0 : bits wd 4 9 = 0 := by simp only [bits, hw]; omega
  have fd : fld wd 19 6 = d := fld_of (by rw [hw]; omega)
  have fa : fld wd 13 6 = a := fld_of (by rw [hw]; omega)
  have fv : fld wd 3 1 = v := fld_of (by rw [hw]; omega)
  have fg : fld wd 0 3 = g := fld_of (by rw [hw]; omega)
  rw [decodeOp_108, if_pos c0, fd, fa, fv, fg]

theorem RoundTrip.sWrs (a : BitVec 6) (b : BitVec 6) (g : BitVec 3) :
    RoundTrip.Statement (.sWrs a b g) := by
  intro _ x hx
  have ha := a.isLt
  have hb := b.isLt
  have hg := g.isLt
  refine decode_of hx (3657433088 + a.toNat * 8192 + b.toNat * 128 + g.toNat)
    (by omega) rfl 109 (by omega) (by omega) ?_
  intro wd hw
  have c0 : bits wd 3 4 = 0 ∧ bits wd 19 6 = 0 := by simp only [bits, hw]; omega
  have fa : fld wd 13 6 = a := fld_of (by rw [hw]; omega)
  have fb : fld wd 7 6 = b := fld_of (by rw [hw]; omega)
  have fg : fld wd 0 3 = g := fld_of (by rw [hw]; omega)
  rw [decodeOp_109, if_pos c0, fa, fb, fg]

theorem RoundTrip.sSetfmt (a : BitVec 6) (g : BitVec 3) :
    RoundTrip.Statement (.sSetfmt a g) := by
  intro _ x hx
  have ha := a.isLt
  have hg := g.isLt
  refine decode_of hx (3690987520 + a.toNat * 8192 + g.toNat)
    (by omega) rfl 110 (by omega) (by omega) ?_
  intro wd hw
  have c0 : bits wd 3 10 = 0 ∧ bits wd 19 6 = 0 := by simp only [bits, hw]; omega
  have fa : fld wd 13 6 = a := fld_of (by rw [hw]; omega)
  have fg : fld wd 0 3 = g := fld_of (by rw [hw]; omega)
  rw [decodeOp_110, if_pos c0, fa, fg]

theorem RoundTrip.sSetfmtImm (d : BitVec 6) (a : BitVec 6) (b : BitVec 6) (i : BitVec 1) (g : BitVec 3) :
    RoundTrip.Statement (.sSetfmtImm d a b i g) := by
  intro _ x hx
  have hd := d.isLt
  have ha := a.isLt
  have hb := b.isLt
  have hi := i.isLt
  have hg := g.isLt
  refine decode_of hx (3690987584 + d.toNat * 524288 + a.toNat * 8192 + b.toNat * 128 + i.toNat * 32 + g.toNat)
    (by omega) rfl 110 (by omega) (by omega) ?_
  intro wd hw
  have c0 : ¬ (bits wd 3 10 = 0 ∧ bits wd 19 6 = 0) := by simp only [bits, hw]; omega
  have c1 : bits wd 3 2 = 0 ∧ bits wd 6 1 = 1 := by simp only [bits, hw]; omega
  have fd : fld wd 19 6 = d := fld_of (by rw [hw]; omega)
  have fa : fld wd 13 6 = a := fld_of (by rw [hw]; omega)
  have fb : fld wd 7 6 = b := fld_of (by rw [hw]; omega)
  have fi : fld wd 5 1 = i := fld_of (by rw [hw]; omega)
  have fg : fld wd 0 3 = g := fld_of (by rw [hw]; omega)
  rw [decodeOp_110, if_neg c0, if_pos c1, fd, fa, fb, fi, fg]

theorem RoundTrip.sWrexec (a : BitVec 6) (g : BitVec 3) :
    RoundTrip.Statement (.sWrexec a g) := by
  intro _ x hx
  have ha := a.isLt
  have hg := g.isLt
  refine decode_of hx (3724541952 + a.toNat * 8192 + g.toNat)
    (by omega) rfl 111 (by omega) (by omega) ?_
  intro wd hw
  have c0 : ¬ (bits wd 3 4 = 1 ∧ bits wd 10 15 = 0) := by simp only [bits, hw]; omega
  have c1 : bits wd 3 10 = 0 ∧ bits wd 19 6 = 0 := by simp only [bits, hw]; omega
  have fa : fld wd 13 6 = a := fld_of (by rw [hw]; omega)
  have fg : fld wd 0 3 = g := fld_of (by rw [hw]; omega)
  rw [decodeOp_111, if_neg c0, if_pos c1, fa, fg]

theorem RoundTrip.sWrexecP (n : BitVec 3) (g : BitVec 3) :
    RoundTrip.Statement (.sWrexecP n g) := by
  intro _ x hx
  have hn := n.isLt
  have hg := g.isLt
  refine decode_of hx (3724541960 + n.toNat * 128 + g.toNat)
    (by omega) rfl 111 (by omega) (by omega) ?_
  intro wd hw
  have c0 : bits wd 3 4 = 1 ∧ bits wd 10 15 = 0 := by simp only [bits, hw]; omega
  have fn : fld wd 7 3 = n := fld_of (by rw [hw]; omega)
  have fg : fld wd 0 3 = g := fld_of (by rw [hw]; omega)
  rw [decodeOp_111, if_pos c0, fn, fg]

theorem RoundTrip.sLaunch (d : BitVec 6) (a : BitVec 6) (g : BitVec 3) :
    RoundTrip.Statement (.sLaunch d a g) := by
  intro _ x hx
  have hd := d.isLt
  have ha := a.isLt
  have hg := g.isLt
  refine decode_of hx (3758096384 + d.toNat * 524288 + a.toNat * 8192 + g.toNat)
    (by omega) rfl 112 (by omega) (by omega) ?_
  intro wd hw
  have c0 : bits wd 3 10 = 0 := by simp only [bits, hw]; omega
  have fd : fld wd 19 6 = d := fld_of (by rw [hw]; omega)
  have fa : fld wd 13 6 = a := fld_of (by rw [hw]; omega)
  have fg : fld wd 0 3 = g := fld_of (by rw [hw]; omega)
  rw [decodeOp_112, if_pos c0, fd, fa, fg]

theorem RoundTrip.sLwait (g : BitVec 3) :
    RoundTrip.Statement (.sLwait g) := by
  intro _ x hx
  have hg := g.isLt
  refine decode_of hx (3791650816 + g.toNat)
    (by omega) rfl 113 (by omega) (by omega) ?_
  intro wd hw
  have c0 : bits wd 3 22 = 0 := by simp only [bits, hw]; omega
  have fg : fld wd 0 3 = g := fld_of (by rw [hw]; omega)
  rw [decodeOp_113, if_pos c0, fg]

theorem RoundTrip.sLwaitGrid (a : BitVec 6) (g : BitVec 3) :
    RoundTrip.Statement (.sLwaitGrid a g) := by
  intro _ x hx
  have ha := a.isLt
  have hg := g.isLt
  refine decode_of hx (3791650824 + a.toNat * 8192 + g.toNat)
    (by omega) rfl 113 (by omega) (by omega) ?_
  intro wd hw
  have c0 : ¬ (bits wd 3 22 = 0) := by simp only [bits, hw]; omega
  have c1 : bits wd 3 10 = 1 ∧ bits wd 19 6 = 0 := by simp only [bits, hw]; omega
  have fa : fld wd 13 6 = a := fld_of (by rw [hw]; omega)
  have fg : fld wd 0 3 = g := fld_of (by rw [hw]; omega)
  rw [decodeOp_113, if_neg c0, if_pos c1, fa, fg]

theorem RoundTrip.sKemit (g : BitVec 3) :
    RoundTrip.Statement (.sKemit g) := by
  intro _ x hx
  have hg := g.isLt
  refine decode_of hx (3825205248 + g.toNat)
    (by omega) rfl 114 (by omega) (by omega) ?_
  intro wd hw
  have c0 : bits wd 3 22 = 0 := by simp only [bits, hw]; omega
  have fg : fld wd 0 3 = g := fld_of (by rw [hw]; omega)
  rw [decodeOp_114, if_pos c0, fg]

theorem RoundTrip.sKcancel (g : BitVec 3) :
    RoundTrip.Statement (.sKcancel g) := by
  intro _ x hx
  have hg := g.isLt
  refine decode_of hx (3858759680 + g.toNat)
    (by omega) rfl 115 (by omega) (by omega) ?_
  intro wd hw
  have c0 : bits wd 3 22 = 0 := by simp only [bits, hw]; omega
  have fg : fld wd 0 3 = g := fld_of (by rw [hw]; omega)
  rw [decodeOp_115, if_pos c0, fg]

theorem RoundTrip.sKrepeat (g : BitVec 3) :
    RoundTrip.Statement (.sKrepeat g) := by
  intro _ x hx
  have hg := g.isLt
  refine decode_of hx (3892314112 + g.toNat)
    (by omega) rfl 116 (by omega) (by omega) ?_
  intro wd hw
  have c0 : bits wd 3 22 = 0 := by simp only [bits, hw]; omega
  have fg : fld wd 0 3 = g := fld_of (by rw [hw]; omega)
  rw [decodeOp_116, if_pos c0, fg]

theorem RoundTrip.sKdone (g : BitVec 3) :
    RoundTrip.Statement (.sKdone g) := by
  intro _ x hx
  have hg := g.isLt
  refine decode_of hx (3925868544 + g.toNat)
    (by omega) rfl 117 (by omega) (by omega) ?_
  intro wd hw
  have c0 : bits wd 3 22 = 0 := by simp only [bits, hw]; omega
  have fg : fld wd 0 3 = g := fld_of (by rw [hw]; omega)
  rw [decodeOp_117, if_pos c0, fg]

theorem RoundTrip.sSys (n : BitVec 6) (g : BitVec 3) :
    RoundTrip.Statement (.sSys n g) := by
  intro _ x hx
  have hn := n.isLt
  have hg := g.isLt
  refine decode_of hx (4026531840 + n.toNat * 8192 + g.toNat)
    (by omega) rfl 120 (by omega) (by omega) ?_
  intro wd hw
  have c0 : bits wd 3 10 = 0 ∧ bits wd 19 6 = 0 := by simp only [bits, hw]; omega
  have fn : fld wd 13 6 = n := fld_of (by rw [hw]; omega)
  have fg : fld wd 0 3 = g := fld_of (by rw [hw]; omega)
  rw [decodeOp_120, if_pos c0, fn, fg]

theorem RoundTrip.sHcall (g : BitVec 3) :
    RoundTrip.Statement (.sHcall g) := by
  intro _ x hx
  have hg := g.isLt
  refine decode_of hx (4060086272 + g.toNat)
    (by omega) rfl 121 (by omega) (by omega) ?_
  intro wd hw
  have c0 : bits wd 3 22 = 0 := by simp only [bits, hw]; omega
  have fg : fld wd 0 3 = g := fld_of (by rw [hw]; omega)
  rw [decodeOp_121, if_pos c0, fg]

theorem RoundTrip.sTret (g : BitVec 3) :
    RoundTrip.Statement (.sTret g) := by
  intro _ x hx
  have hg := g.isLt
  refine decode_of hx (4093640704 + g.toNat)
    (by omega) rfl 122 (by omega) (by omega) ?_
  intro wd hw
  have c0 : bits wd 3 22 = 0 := by simp only [bits, hw]; omega
  have fg : fld wd 0 3 = g := fld_of (by rw [hw]; omega)
  rw [decodeOp_122, if_pos c0, fg]

theorem RoundTrip.sTlbiVa (a : BitVec 6) (b : BitVec 6) (g : BitVec 3) :
    RoundTrip.Statement (.sTlbiVa a b g) := by
  intro _ x hx
  have ha := a.isLt
  have hb := b.isLt
  have hg := g.isLt
  refine decode_of hx (4127195136 + a.toNat * 8192 + b.toNat * 128 + g.toNat)
    (by omega) rfl 123 (by omega) (by omega) ?_
  intro wd hw
  have c0 : ¬ (bits wd 3 22 = 10) := by simp only [bits, hw]; omega
  have c1 : ¬ (bits wd 3 4 = 1 ∧ bits wd 13 12 = 0) := by simp only [bits, hw]; omega
  have c2 : ¬ (bits wd 3 4 = 2 ∧ bits wd 13 12 = 0) := by simp only [bits, hw]; omega
  have c3 : ¬ (bits wd 3 4 = 9 ∧ bits wd 13 12 = 0) := by simp only [bits, hw]; omega
  have c4 : bits wd 3 4 = 0 ∧ bits wd 19 6 = 0 := by simp only [bits, hw]; omega
  have fa : fld wd 13 6 = a := fld_of (by rw [hw]; omega)
  have fb : fld wd 7 6 = b := fld_of (by rw [hw]; omega)
  have fg : fld wd 0 3 = g := fld_of (by rw [hw]; omega)
  rw [decodeOp_123, if_neg c0, if_neg c1, if_neg c2, if_neg c3, if_pos c4, fa, fb, fg]

theorem RoundTrip.sTlbiCtx (b : BitVec 6) (g : BitVec 3) :
    RoundTrip.Statement (.sTlbiCtx b g) := by
  intro _ x hx
  have hb := b.isLt
  have hg := g.isLt
  refine decode_of hx (4127195144 + b.toNat * 128 + g.toNat)
    (by omega) rfl 123 (by omega) (by omega) ?_
  intro wd hw
  have c0 : ¬ (bits wd 3 22 = 10) := by simp only [bits, hw]; omega
  have c1 : bits wd 3 4 = 1 ∧ bits wd 13 12 = 0 := by simp only [bits, hw]; omega
  have fb : fld wd 7 6 = b := fld_of (by rw [hw]; omega)
  have fg : fld wd 0 3 = g := fld_of (by rw [hw]; omega)
  rw [decodeOp_123, if_neg c0, if_pos c1, fb, fg]

theorem RoundTrip.sTlbiGlob (b : BitVec 6) (g : BitVec 3) :
    RoundTrip.Statement (.sTlbiGlob b g) := by
  intro _ x hx
  have hb := b.isLt
  have hg := g.isLt
  refine decode_of hx (4127195152 + b.toNat * 128 + g.toNat)
    (by omega) rfl 123 (by omega) (by omega) ?_
  intro wd hw
  have c0 : ¬ (bits wd 3 22 = 10) := by simp only [bits, hw]; omega
  have c1 : ¬ (bits wd 3 4 = 1 ∧ bits wd 13 12 = 0) := by simp only [bits, hw]; omega
  have c2 : bits wd 3 4 = 2 ∧ bits wd 13 12 = 0 := by simp only [bits, hw]; omega
  have fb : fld wd 7 6 = b := fld_of (by rw [hw]; omega)
  have fg : fld wd 0 3 = g := fld_of (by rw [hw]; omega)
  rw [decodeOp_123, if_neg c0, if_neg c1, if_pos c2, fb, fg]

theorem RoundTrip.sTlbiIpa (a : BitVec 6) (b : BitVec 6) (g : BitVec 3) :
    RoundTrip.Statement (.sTlbiIpa a b g) := by
  intro _ x hx
  have ha := a.isLt
  have hb := b.isLt
  have hg := g.isLt
  refine decode_of hx (4127195200 + a.toNat * 8192 + b.toNat * 128 + g.toNat)
    (by omega) rfl 123 (by omega) (by omega) ?_
  intro wd hw
  have c0 : ¬ (bits wd 3 22 = 10) := by simp only [bits, hw]; omega
  have c1 : ¬ (bits wd 3 4 = 1 ∧ bits wd 13 12 = 0) := by simp only [bits, hw]; omega
  have c2 : ¬ (bits wd 3 4 = 2 ∧ bits wd 13 12 = 0) := by simp only [bits, hw]; omega
  have c3 : ¬ (bits wd 3 4 = 9 ∧ bits wd 13 12 = 0) := by simp only [bits, hw]; omega
  have c4 : ¬ (bits wd 3 4 = 0 ∧ bits wd 19 6 = 0) := by simp only [bits, hw]; omega
  have c5 : bits wd 3 4 = 8 ∧ bits wd 19 6 = 0 := by simp only [bits, hw]; omega
  have fa : fld wd 13 6 = a := fld_of (by rw [hw]; omega)
  have fb : fld wd 7 6 = b := fld_of (by rw [hw]; omega)
  have fg : fld wd 0 3 = g := fld_of (by rw [hw]; omega)
  rw [decodeOp_123, if_neg c0, if_neg c1, if_neg c2, if_neg c3, if_neg c4, if_pos c5, fa, fb, fg]

theorem RoundTrip.sTlbiS2 (b : BitVec 6) (g : BitVec 3) :
    RoundTrip.Statement (.sTlbiS2 b g) := by
  intro _ x hx
  have hb := b.isLt
  have hg := g.isLt
  refine decode_of hx (4127195208 + b.toNat * 128 + g.toNat)
    (by omega) rfl 123 (by omega) (by omega) ?_
  intro wd hw
  have c0 : ¬ (bits wd 3 22 = 10) := by simp only [bits, hw]; omega
  have c1 : ¬ (bits wd 3 4 = 1 ∧ bits wd 13 12 = 0) := by simp only [bits, hw]; omega
  have c2 : ¬ (bits wd 3 4 = 2 ∧ bits wd 13 12 = 0) := by simp only [bits, hw]; omega
  have c3 : bits wd 3 4 = 9 ∧ bits wd 13 12 = 0 := by simp only [bits, hw]; omega
  have fb : fld wd 7 6 = b := fld_of (by rw [hw]; omega)
  have fg : fld wd 0 3 = g := fld_of (by rw [hw]; omega)
  rw [decodeOp_123, if_neg c0, if_neg c1, if_neg c2, if_pos c3, fb, fg]

theorem RoundTrip.sTlbiAll (g : BitVec 3) :
    RoundTrip.Statement (.sTlbiAll g) := by
  intro _ x hx
  have hg := g.isLt
  refine decode_of hx (4127195216 + g.toNat)
    (by omega) rfl 123 (by omega) (by omega) ?_
  intro wd hw
  have c0 : bits wd 3 22 = 10 := by simp only [bits, hw]; omega
  have fg : fld wd 0 3 = g := fld_of (by rw [hw]; omega)
  rw [decodeOp_123, if_pos c0, fg]

theorem RoundTrip.sKeyret (a : BitVec 6) (g : BitVec 3) :
    RoundTrip.Statement (.sKeyret a g) := by
  intro _ x hx
  have ha := a.isLt
  have hg := g.isLt
  refine decode_of hx (4160749568 + a.toNat * 8192 + g.toNat)
    (by omega) rfl 124 (by omega) (by omega) ?_
  intro wd hw
  have c0 : bits wd 3 10 = 0 ∧ bits wd 19 6 = 0 := by simp only [bits, hw]; omega
  have fa : fld wd 13 6 = a := fld_of (by rw [hw]; omega)
  have fg : fld wd 0 3 = g := fld_of (by rw [hw]; omega)
  rw [decodeOp_124, if_pos c0, fa, fg]

theorem RoundTrip.sExit (g : BitVec 3) :
    RoundTrip.Statement (.sExit g) := by
  intro _ x hx
  have hg := g.isLt
  refine decode_of hx (4194304000 + g.toNat)
    (by omega) rfl 125 (by omega) (by omega) ?_
  intro wd hw
  have c0 : bits wd 3 22 = 0 := by simp only [bits, hw]; omega
  have fg : fld wd 0 3 = g := fld_of (by rw [hw]; omega)
  rw [decodeOp_125, if_pos c0, fg]

theorem RoundTrip.loadReturn (r : GroupRef) (id : Nat) : RoundTrip.Statement (.loadReturn r id) :=
  fun _ _ h => nomatch h

theorem RoundTrip.vr1Result (r : GroupRef) (id : Nat) : RoundTrip.Statement (.vr1Result r id) :=
  fun _ _ h => nomatch h

theorem RoundTrip.stackRd (x : StackReq) : RoundTrip.Statement (.stackRd x) :=
  fun _ _ h => nomatch h

theorem RoundTrip.stackWr (x : StackReq) : RoundTrip.Statement (.stackWr x) :=
  fun _ _ h => nomatch h

theorem RoundTrip.stackWrm (x : StackReq) : RoundTrip.Statement (.stackWrm x) :=
  fun _ _ h => nomatch h

theorem RoundTrip.stackReadReply (x : StackReply) : RoundTrip.Statement (.stackReadReply x) :=
  fun _ _ h => nomatch h

theorem RoundTrip.stackWriteAck (x : StackReply) : RoundTrip.Statement (.stackWriteAck x) :=
  fun _ _ h => nomatch h

theorem RoundTrip.patrolScrub (line : Nat) : RoundTrip.Statement (.patrolScrub line) :=
  fun _ _ h => nomatch h

theorem RoundTrip.rowRepair (die : Nat) (slice : Nat) (row : Nat) : RoundTrip.Statement (.rowRepair die slice row) :=
  fun _ _ h => nomatch h

theorem RoundTrip.lineRead (p : Packet) : RoundTrip.Statement (.lineRead p) :=
  fun _ _ h => nomatch h

theorem RoundTrip.wordRead (p : Packet) : RoundTrip.Statement (.wordRead p) :=
  fun _ _ h => nomatch h

theorem RoundTrip.prefL2 (p : Packet) : RoundTrip.Statement (.prefL2 p) :=
  fun _ _ h => nomatch h

theorem RoundTrip.forwardRead (p : Packet) : RoundTrip.Statement (.forwardRead p) :=
  fun _ _ h => nomatch h

theorem RoundTrip.write (p : Packet) : RoundTrip.Statement (.write p) :=
  fun _ _ h => nomatch h

theorem RoundTrip.maskedWrite (p : Packet) : RoundTrip.Statement (.maskedWrite p) :=
  fun _ _ h => nomatch h

theorem RoundTrip.writeback (p : Packet) : RoundTrip.Statement (.writeback p) :=
  fun _ _ h => nomatch h

theorem RoundTrip.atomic (p : Packet) : RoundTrip.Statement (.atomic p) :=
  fun _ _ h => nomatch h

theorem RoundTrip.discard (p : Packet) : RoundTrip.Statement (.discard p) :=
  fun _ _ h => nomatch h

theorem RoundTrip.readData (p : Packet) : RoundTrip.Statement (.readData p) :=
  fun _ _ h => nomatch h

theorem RoundTrip.forwardData (p : Packet) : RoundTrip.Statement (.forwardData p) :=
  fun _ _ h => nomatch h

theorem RoundTrip.grant (p : Packet) : RoundTrip.Statement (.grant p) :=
  fun _ _ h => nomatch h

theorem RoundTrip.atomicResult (p : Packet) : RoundTrip.Statement (.atomicResult p) :=
  fun _ _ h => nomatch h

theorem RoundTrip.partialData (p : Packet) : RoundTrip.Statement (.partialData p) :=
  fun _ _ h => nomatch h

theorem RoundTrip.writeAck (p : Packet) : RoundTrip.Statement (.writeAck p) :=
  fun _ _ h => nomatch h

theorem RoundTrip.cleanAck (p : Packet) : RoundTrip.Statement (.cleanAck p) :=
  fun _ _ h => nomatch h

theorem RoundTrip.routeLost (p : Packet) : RoundTrip.Statement (.routeLost p) :=
  fun _ _ h => nomatch h

theorem RoundTrip.refused (p : Packet) : RoundTrip.Statement (.refused p) :=
  fun _ _ h => nomatch h

theorem RoundTrip.done (p : Packet) : RoundTrip.Statement (.done p) :=
  fun _ _ h => nomatch h

theorem RoundTrip.register (p : Packet) : RoundTrip.Statement (.register p) :=
  fun _ _ h => nomatch h

theorem RoundTrip.revoke (p : Packet) : RoundTrip.Statement (.revoke p) :=
  fun _ _ h => nomatch h

theorem RoundTrip.partialReq (p : Packet) : RoundTrip.Statement (.partialReq p) :=
  fun _ _ h => nomatch h

theorem RoundTrip.copyRead (p : Packet) : RoundTrip.Statement (.copyRead p) :=
  fun _ _ h => nomatch h

theorem RoundTrip.copyWrite (p : Packet) : RoundTrip.Statement (.copyWrite p) :=
  fun _ _ h => nomatch h

theorem RoundTrip.copyMwrite (p : Packet) : RoundTrip.Statement (.copyMwrite p) :=
  fun _ _ h => nomatch h

theorem RoundTrip.slot (p : Packet) : RoundTrip.Statement (.slot p) :=
  fun _ _ h => nomatch h

theorem RoundTrip.credit (p : Packet) : RoundTrip.Statement (.credit p) :=
  fun _ _ h => nomatch h

theorem RoundTrip.statusRead (p : Packet) : RoundTrip.Statement (.statusRead p) :=
  fun _ _ h => nomatch h

theorem RoundTrip.statusData (p : Packet) : RoundTrip.Statement (.statusData p) :=
  fun _ _ h => nomatch h

theorem RoundTrip.record (p : Packet) : RoundTrip.Statement (.record p) :=
  fun _ _ h => nomatch h

theorem RoundTrip.control (p : Packet) : RoundTrip.Statement (.control p) :=
  fun _ _ h => nomatch h

theorem RoundTrip.report (p : Packet) : RoundTrip.Statement (.report p) :=
  fun _ _ h => nomatch h

theorem RoundTrip.flitCrcFail (link : Nat) : RoundTrip.Statement (.flitCrcFail link) :=
  fun _ _ h => nomatch h

theorem RoundTrip.linkRetrain (link : Nat) : RoundTrip.Statement (.linkRetrain link) :=
  fun _ _ h => nomatch h

theorem RoundTrip.linkRetrainDone (link : Nat) (badLanes : Nat) : RoundTrip.Statement (.linkRetrainDone link badLanes) :=
  fun _ _ h => nomatch h

theorem RoundTrip.routingRewrite (lost : Lost) : RoundTrip.Statement (.routingRewrite lost) :=
  fun _ _ h => nomatch h

theorem RoundTrip.routingResume : RoundTrip.Statement .routingResume := fun _ _ h => nomatch h

theorem RoundTrip.frameDrop (f : EthFrame) : RoundTrip.Statement (.frameDrop f) :=
  fun _ _ h => nomatch h

theorem RoundTrip.arp (f : EthFrame) : RoundTrip.Statement (.arp f) :=
  fun _ _ h => nomatch h

theorem RoundTrip.neighborDiscovery (f : EthFrame) : RoundTrip.Statement (.neighborDiscovery f) :=
  fun _ _ h => nomatch h

theorem RoundTrip.nextHopExpiry (port : Nat) (addr : BitVec 128) : RoundTrip.Statement (.nextHopExpiry port addr) :=
  fun _ _ h => nomatch h

theorem RoundTrip.portLinkDown (port : Nat) (up : Bool) : RoundTrip.Statement (.portLinkDown port up) :=
  fun _ _ h => nomatch h

theorem RoundTrip.pathRebind (port : Nat) : RoundTrip.Statement (.pathRebind port) :=
  fun _ _ h => nomatch h

theorem RoundTrip.portRetire (port : Nat) : RoundTrip.Statement (.portRetire port) :=
  fun _ _ h => nomatch h

theorem RoundTrip.thtWrite (f : ThtPacket) : RoundTrip.Statement (.thtWrite f) :=
  fun _ _ h => nomatch h

theorem RoundTrip.thtRead (f : ThtPacket) : RoundTrip.Statement (.thtRead f) :=
  fun _ _ h => nomatch h

theorem RoundTrip.thtReadResp (f : ThtPacket) : RoundTrip.Statement (.thtReadResp f) :=
  fun _ _ h => nomatch h

theorem RoundTrip.thtAtomic (f : ThtPacket) : RoundTrip.Statement (.thtAtomic f) :=
  fun _ _ h => nomatch h

theorem RoundTrip.thtAtomicResp (f : ThtPacket) : RoundTrip.Statement (.thtAtomicResp f) :=
  fun _ _ h => nomatch h

theorem RoundTrip.thtNotify (f : ThtPacket) : RoundTrip.Statement (.thtNotify f) :=
  fun _ _ h => nomatch h

theorem RoundTrip.thtMgmt (f : ThtPacket) : RoundTrip.Statement (.thtMgmt f) :=
  fun _ _ h => nomatch h

theorem RoundTrip.thtMgmtResp (f : ThtPacket) : RoundTrip.Statement (.thtMgmtResp f) :=
  fun _ _ h => nomatch h

theorem RoundTrip.thtAck (f : ThtPacket) : RoundTrip.Statement (.thtAck f) :=
  fun _ _ h => nomatch h

theorem RoundTrip.thtNak (f : ThtPacket) : RoundTrip.Statement (.thtNak f) :=
  fun _ _ h => nomatch h

theorem RoundTrip.thtAckTimer (path : Nat) : RoundTrip.Statement (.thtAckTimer path) :=
  fun _ _ h => nomatch h

theorem RoundTrip.thtRetransmitTimeout (path : Nat) : RoundTrip.Statement (.thtRetransmitTimeout path) :=
  fun _ _ h => nomatch h

theorem RoundTrip.thtRateIncrease (path : Nat) : RoundTrip.Statement (.thtRateIncrease path) :=
  fun _ _ h => nomatch h

theorem RoundTrip.peritDataFrame (f : PeritFrame) : RoundTrip.Statement (.peritDataFrame f) :=
  fun _ _ h => nomatch h

theorem RoundTrip.peritAckFrame (f : PeritFrame) : RoundTrip.Statement (.peritAckFrame f) :=
  fun _ _ h => nomatch h

theorem RoundTrip.peritNakFrame (f : PeritFrame) : RoundTrip.Statement (.peritNakFrame f) :=
  fun _ _ h => nomatch h

theorem RoundTrip.peritTimeout (dev : BitVec 16) : RoundTrip.Statement (.peritTimeout dev) :=
  fun _ _ h => nomatch h

theorem RoundTrip.invRead (m : MgmtReq) : RoundTrip.Statement (.invRead m) :=
  fun _ _ h => nomatch h

theorem RoundTrip.partSet (m : MgmtReq) : RoundTrip.Statement (.partSet m) :=
  fun _ _ h => nomatch h

theorem RoundTrip.partStatus (m : MgmtReq) : RoundTrip.Statement (.partStatus m) :=
  fun _ _ h => nomatch h

theorem RoundTrip.drain (m : MgmtReq) : RoundTrip.Statement (.drain m) :=
  fun _ _ h => nomatch h

theorem RoundTrip.undrain (m : MgmtReq) : RoundTrip.Statement (.undrain m) :=
  fun _ _ h => nomatch h

theorem RoundTrip.pathSet (m : MgmtReq) : RoundTrip.Statement (.pathSet m) :=
  fun _ _ h => nomatch h

theorem RoundTrip.windowSet (m : MgmtReq) : RoundTrip.Statement (.windowSet m) :=
  fun _ _ h => nomatch h

theorem RoundTrip.handleExport (m : MgmtReq) : RoundTrip.Statement (.handleExport m) :=
  fun _ _ h => nomatch h

theorem RoundTrip.handleRevoke (m : MgmtReq) : RoundTrip.Statement (.handleRevoke m) :=
  fun _ _ h => nomatch h

theorem RoundTrip.keyGen (m : MgmtReq) : RoundTrip.Statement (.keyGen m) :=
  fun _ _ h => nomatch h

theorem RoundTrip.keyZero (m : MgmtReq) : RoundTrip.Statement (.keyZero m) :=
  fun _ _ h => nomatch h

theorem RoundTrip.fwStage (m : MgmtReq) : RoundTrip.Statement (.fwStage m) :=
  fun _ _ h => nomatch h

theorem RoundTrip.fwActivate (m : MgmtReq) : RoundTrip.Statement (.fwActivate m) :=
  fun _ _ h => nomatch h

theorem RoundTrip.attest (m : MgmtReq) : RoundTrip.Statement (.attest m) :=
  fun _ _ h => nomatch h

theorem RoundTrip.powerCap (m : MgmtReq) : RoundTrip.Statement (.powerCap m) :=
  fun _ _ h => nomatch h

theorem RoundTrip.portSet (m : MgmtReq) : RoundTrip.Statement (.portSet m) :=
  fun _ _ h => nomatch h

theorem RoundTrip.peerSet (m : MgmtReq) : RoundTrip.Statement (.peerSet m) :=
  fun _ _ h => nomatch h

theorem RoundTrip.path0Sync (m : MgmtReq) : RoundTrip.Statement (.path0Sync m) :=
  fun _ _ h => nomatch h

theorem RoundTrip.inventorySnapshot : RoundTrip.Statement .inventorySnapshot := fun _ _ h => nomatch h

theorem RoundTrip.cinderDescriptorRead : RoundTrip.Statement .cinderDescriptorRead := fun _ _ h => nomatch h

theorem RoundTrip.powerMeasure (watts : Nat × List Nat) : RoundTrip.Statement (.powerMeasure watts) :=
  fun _ _ h => nomatch h

theorem RoundTrip.clockStep : RoundTrip.Statement .clockStep := fun _ _ h => nomatch h

theorem RoundTrip.droopStretch (die : Nat) (cluster : Nat) : RoundTrip.Statement (.droopStretch die cluster) :=
  fun _ _ h => nomatch h

theorem RoundTrip.coreRetire (die : Nat) (core : Nat) : RoundTrip.Statement (.coreRetire die core) :=
  fun _ _ h => nomatch h

theorem RoundTrip.dieFence (die : Nat) : RoundTrip.Statement (.dieFence die) :=
  fun _ _ h => nomatch h

theorem RoundTrip.checkpointRecovery : RoundTrip.Statement .checkpointRecovery := fun _ _ h => nomatch h

theorem RoundTrip.hubFailure : RoundTrip.Statement .hubFailure := fun _ _ h => nomatch h

theorem RoundTrip.packageReset : RoundTrip.Statement .packageReset := fun _ _ h => nomatch h

theorem RoundTrip.slotRead (q : Nat) : RoundTrip.Statement (.slotRead q) :=
  fun _ _ h => nomatch h

theorem RoundTrip.slotRereadTimer (q : Nat) : RoundTrip.Statement (.slotRereadTimer q) :=
  fun _ _ h => nomatch h

theorem RoundTrip.mirrorWrite (q : Nat) : RoundTrip.Statement (.mirrorWrite q) :=
  fun _ _ h => nomatch h

theorem RoundTrip.launch (q : Nat) : RoundTrip.Statement (.launch q) :=
  fun _ _ h => nomatch h

theorem RoundTrip.eventSignal (q : Nat) : RoundTrip.Statement (.eventSignal q) :=
  fun _ _ h => nomatch h

theorem RoundTrip.eventWait (q : Nat) : RoundTrip.Statement (.eventWait q) :=
  fun _ _ h => nomatch h

theorem RoundTrip.eventReread (q : Nat) : RoundTrip.Statement (.eventReread q) :=
  fun _ _ h => nomatch h

theorem RoundTrip.copy (q : Nat) : RoundTrip.Statement (.copy q) :=
  fun _ _ h => nomatch h

theorem RoundTrip.fence (q : Nat) : RoundTrip.Statement (.fence q) :=
  fun _ _ h => nomatch h

theorem RoundTrip.nop (q : Nat) : RoundTrip.Statement (.nop q) :=
  fun _ _ h => nomatch h

theorem RoundTrip.kilnRunStart (k : Nat) : RoundTrip.Statement (.kilnRunStart k) :=
  fun _ _ h => nomatch h

theorem RoundTrip.prologueBudgetExceeded (k : Nat) : RoundTrip.Statement (.prologueBudgetExceeded k) :=
  fun _ _ h => nomatch h

theorem RoundTrip.teamPlace (die : Nat) : RoundTrip.Statement (.teamPlace die) :=
  fun _ _ h => nomatch h

theorem RoundTrip.queueStarvation (q : Nat) : RoundTrip.Statement (.queueStarvation q) :=
  fun _ _ h => nomatch h

theorem RoundTrip.candidatePin (die : Nat) : RoundTrip.Statement (.candidatePin die) :=
  fun _ _ h => nomatch h

theorem RoundTrip.teamRetire (die : Nat) (core : Nat) (slot : Nat) : RoundTrip.Statement (.teamRetire die core slot) :=
  fun _ _ h => nomatch h

theorem RoundTrip.preemptTrigger (die : Nat) : RoundTrip.Statement (.preemptTrigger die) :=
  fun _ _ h => nomatch h

theorem RoundTrip.preemptSave (die : Nat) (core : Nat) (slot : Nat) : RoundTrip.Statement (.preemptSave die core slot) :=
  fun _ _ h => nomatch h

theorem RoundTrip.teamRestore (die : Nat) : RoundTrip.Statement (.teamRestore die) :=
  fun _ _ h => nomatch h

theorem RoundTrip.childSwapOut (die : Nat) : RoundTrip.Statement (.childSwapOut die) :=
  fun _ _ h => nomatch h

theorem RoundTrip.groupRaised (r : GroupRef) : RoundTrip.Statement (.groupRaised r) :=
  fun _ _ h => nomatch h

theorem RoundTrip.sleepExpiry (r : GroupRef) : RoundTrip.Statement (.sleepExpiry r) :=
  fun _ _ h => nomatch h

theorem RoundTrip.waitvReread (r : GroupRef) : RoundTrip.Statement (.waitvReread r) :=
  fun _ _ h => nomatch h

theorem RoundTrip.mmaPassGrant (die : Nat) (cluster : Nat) : RoundTrip.Statement (.mmaPassGrant die cluster) :=
  fun _ _ h => nomatch h

theorem RoundTrip.matrixJobFinish (die : Nat) (cluster : Nat) (job : Nat) : RoundTrip.Statement (.matrixJobFinish die cluster job) :=
  fun _ _ h => nomatch h

theorem RoundTrip.copyJobStart (die : Nat) (cluster : Nat) (ch : Nat) : RoundTrip.Statement (.copyJobStart die cluster ch) :=
  fun _ _ h => nomatch h

theorem RoundTrip.copyJobFinish (die : Nat) (cluster : Nat) (ch : Nat) : RoundTrip.Statement (.copyJobFinish die cluster ch) :=
  fun _ _ h => nomatch h

theorem RoundTrip.l1Eviction (core : Nat) (tag : Nat) : RoundTrip.Statement (.l1Eviction core tag) :=
  fun _ _ h => nomatch h

theorem RoundTrip.cachePowerGate (isL2 : Bool) (die : Nat) (unit : Nat) : RoundTrip.Statement (.cachePowerGate isL2 die unit) :=
  fun _ _ h => nomatch h

theorem RoundTrip.unassignedEncoding (w : BitVec 32) : RoundTrip.Statement (.unassignedEncoding w) :=
  fun _ _ h => nomatch h

theorem RoundTrip.frontEndPowerGating : RoundTrip.Statement .frontEndPowerGating := fun _ _ h => nomatch h

theorem RoundTrip.frontEndUngating : RoundTrip.Statement .frontEndUngating := fun _ _ h => nomatch h

theorem RoundTrip.supplySagEnd (die : Nat) (cluster : Nat) : RoundTrip.Statement (.supplySagEnd die cluster) :=
  fun _ _ h => nomatch h

theorem RoundTrip.hubSlotRotation : RoundTrip.Statement .hubSlotRotation := fun _ _ h => nomatch h

theorem RoundTrip.peritAckTimer (dev : BitVec 16) : RoundTrip.Statement (.peritAckTimer dev) :=
  fun _ _ h => nomatch h

end Sys2Proof.Laws
end

