-- ==== Sys2Proof/Safety.lean ====
section
/-! DEFINITION. The terms in which claims are stated: when an instruction executes normally, where its results go, what a
stored state must look like. Nothing of the machine depends on this file. -/

namespace Sys2Proof.Machine

/-! ### Lane instructions -/

/-- Is lane l one of the active lanes under guard p (R7, R251)? -/
def State.active (s : State) (p : BitVec 3) (l : Nat) : Prop := l ∈ lanesOf (s.act p.toNat).lanes

/-- A lane instruction naming these registers meets no check at issue (R133, R158, R222, R255, R259) and no datapath fault. -/
structure State.FitV (s : State) (p : BitVec 3) (ns : Names) : Prop where
  core    : s.onKiln = false
  named   : s.namesOk ns = true
  ready   : s.namesPending ns = false
  guarded : (s.act p.toNat).faulty = 0
  sound   : s.glitch = 0

/-- The words of the run of `k` registers from `v`n in lane l. -/
def State.vRun (s : State) (n k l : Nat) : List Word := (List.range k).map (fun i => s.v (n + i) l)

/-- Every word of these runs passes its residue check in every active lane (R224); a poisoned word passes. -/
def State.ReadsV (s : State) (p : BitVec 3) (runs : List (Nat × Nat)) : Prop :=
  ∀ l, s.active p l → ∀ r ∈ runs, ∀ w ∈ s.vRun r.1 r.2 l, w.checks = true

/-- The two words of a 64-bit value, low word first (R4). -/
def halves (x : BitVec 64) : List (BitVec 32) := [x.extractLsb' 0 32, x.extractLsb' 32 32]

/-- The 64-bit value of a register pair in lane l. -/
def State.v64 (s : State) (n l : Nat) : BitVec 64 := (s.v (n + 1) l).data ++ (s.v n l).data

/-- R269: the words an arithmetic instruction writes to `k` registers: all poison when a source is poison, else the results. -/
def arithOf (k : Nat) (sources : List Word) (results : List (BitVec 32)) : List Word :=
  if sources.any Word.isPoison then List.replicate k Word.poison else results.map Word.ofData

/-- R221: the words of one value as a copy or a choice writes them: poison whole when a word is poison. -/
def copyOf (ws : List Word) : List Word := if ws.any Word.isPoison then List.replicate ws.length Word.poison else ws

/-- Write words to the run from `v`d of every active lane. -/
def State.putV (s : State) (p : BitVec 3) (d : Nat) (val : Nat → List Word) : State :=
  (lanesOf (s.act p.toNat).lanes).foldl (fun t l => (val l).zipIdx.foldl (fun t w => t.setV (d + w.2) l w.1) t) s

/-- Write predicate `p`d of every active lane. -/
def State.putP (s : State) (p : BitVec 3) (d : Nat) (val : Nat → Bool) : State :=
  (lanesOf (s.act p.toNat).lanes).foldl (fun t l => t.setP d l (val l)) s

/-- `f` on the two halves of a pair of words (R271). -/
def on16 (f : BitVec 16 → BitVec 16 → BitVec 16) (x y : BitVec 32) : BitVec 32 :=
  f (x.extractLsb' 16 16) (y.extractLsb' 16 16) ++ f (x.extractLsb' 0 16) (y.extractLsb' 0 16)

/-- `f` on the four bytes of a pair of words (R271). -/
def on8 (f : BitVec 8 → BitVec 8 → BitVec 8) (x y : BitVec 32) : BitVec 32 :=
  f (x.extractLsb' 24 8) (y.extractLsb' 24 8) ++ f (x.extractLsb' 16 8) (y.extractLsb' 16 8) ++
  f (x.extractLsb' 8 8) (y.extractLsb' 8 8) ++ f (x.extractLsb' 0 8) (y.extractLsb' 0 8)

/-- R271: the sum by type code: 0 one word, 1 a register pair, 2 two halves, 3 four bytes. -/
def addResult (t : BitVec 2) (x y : BitVec 32) (X Y : BitVec 64) : List (BitVec 32) :=
  if t = 0 then [x + y] else if t = 1 then halves (X + Y) else if t = 2 then [on16 (· + ·) x y] else [on8 (· + ·) x y]

/-- R271: the difference by type code. -/
def subResult (t : BitVec 2) (x y : BitVec 32) (X Y : BitVec 64) : List (BitVec 32) :=
  if t = 0 then [x - y] else if t = 1 then halves (X - Y) else if t = 2 then [on16 (· - ·) x y] else [on8 (· - ·) x y]

/-- Registers of an operand of type code t: two for the 64-bit type, else one (R271). -/
def widthOf {w : Nat} (t : BitVec w) : Nat := if t.toNat = 1 then 2 else 1

/-- R275: the words `min` or `max` chooses between two operands with these values: the other operand where one is poisoned,
poison where both are, va on equality. -/
def chosenOf (isMax : Bool) (xs ys : List Word) (x y : Int) : List Word :=
  if xs.any Word.isPoison && ys.any Word.isPoison then List.replicate xs.length Word.poison
  else if xs.any Word.isPoison then ys
  else if ys.any Word.isPoison then xs
  else if (if isMax then y ≤ x else x ≤ y) then xs else ys

/-- The value of a one-word or two-word operand, signed or unsigned (R275, R283). -/
def valueOf (wide signed : Bool) (lo hi : BitVec 32) : Int :=
  if wide then (if signed then (hi ++ lo).toInt else (hi ++ lo).toNat) else (if signed then lo.toInt else lo.toNat)

/-- R283: the compare conditions on the operands' values. -/
def condHolds (c : BitVec 3) (wide : Bool) (xlo xhi ylo yhi : BitVec 32) : Bool :=
  let x := valueOf wide true xlo xhi
  let y := valueOf wide true ylo yhi
  let ux := valueOf wide false xlo xhi
  let uy := valueOf wide false ylo yhi
  if c = 0 then decide (x = y) else if c = 1 then decide (x ≠ y) else if c = 2 then decide (x < y) else if c = 3 then decide (y ≤ x)
  else if c = 4 then decide (ux < uy) else if c = 5 then decide (uy ≤ ux) else if c = 6 then decide (x ≤ y) else decide (y < x)

/-- No word of these runs is poison in an active lane. -/
def State.CleanV (s : State) (p : BitVec 3) (runs : List (Nat × Nat)) : Prop :=
  ∀ l, s.active p l → ∀ r ∈ runs, ∀ w ∈ s.vRun r.1 r.2 l, w.isPoison = false

/-- The data bits of a run. -/
def State.dataV (s : State) (n k l : Nat) : List (BitVec 32) := (s.vRun n k l).map (·.data)

/-! ### Uniform instructions -/

/-- A uniform instruction naming these registers meets no check at issue and its guard is true (R133, R251, R255, R259), and no
datapath fault. -/
structure State.FitS (s : State) (g : BitVec 3) (ns : Names) : Prop where
  named   : s.namesOk ns = true
  ready   : s.namesPending ns = false
  guarded : s.q g.toNat = some true
  sound   : s.glitch = 0

/-- The words of the run of `k` registers from `s`n. -/
def State.sRun (s : State) (n k : Nat) : List Word := (List.range k).map (fun i => s.s (n + i))

/-- Every word of these runs passes its residue check (R224). -/
def State.ReadsS (s : State) (runs : List (Nat × Nat)) : Prop := ∀ r ∈ runs, ∀ w ∈ s.sRun r.1 r.2, w.checks = true

/-- The 64-bit value of a uniform pair. -/
def State.s64 (s : State) (n : Nat) : BitVec 64 := (s.s (n + 1)).data ++ (s.s n).data

/-- No word of these runs is poison. -/
def State.CleanS (s : State) (runs : List (Nat × Nat)) : Prop := ∀ r ∈ runs, ∀ w ∈ s.sRun r.1 r.2, w.isPoison = false

/-! ### Memory accesses -/

/-- The accesses of these lanes all pass their checks (R306–R309): the state after translation, and each lane's address and
target in ascending lane order. -/
def State.Passes (s : State) (addr : State → Nat → Except LaneFail Nat) (extra : LaneCheck) (n : Nat) (k : Kind)
    (aligned : Bool) (lanes : List Nat) (s1 : State) (good : List (Nat × Nat × Target)) : Prop :=
  s.locateAll addr extra n k aligned lanes = (s1, good.map (fun x => (x.1, Except.ok x.2)))

/-- No located lane starts a copy (R312). -/
def noStarts (good : List (Nat × Nat × Target)) : Prop := ∀ x ∈ good, ∀ ch, x.2.2 ≠ .aperture ch

/-! ### Matrix jobs -/

/-- R113: the job table of the group's cluster has room, and no other group is to post first. -/
def State.mayPost (s : State) : Bool := !tableFull (s.cluster (s.clusterOf s.core)) && s.firstPoster

/-- R328, R329: the job that an instruction posts joins its cluster's table, after every job its footprints meet or that names a tile of its; its
token is counted and the group goes on. -/
def State.posted (s : State) (instr : BitVec 32) (tok : Nat) (reads writes : List (Nat × Nat × Nat)) (ops : List Word)
    (pages : Table (Nat × Nat × Bool)) : State :=
  let k := s.clusterOf s.core
  let j : MatrixJob :=
    { seq := (s.cluster k).nextSeq
      grp := s.self
      instr := instr
      tok := tok
      mpri := s.tm.mode.toNat / 16 % 4
      posted := s.ck
      sched := s.g.sched
      after := edgesOf (s.cluster k) s.self reads (writes ++ reads.filter (fun r => r.1 = 2))
      reads := reads
      writes := writes
      granted := false
      done := false
      fmt := s.g.fmt
      ops := ops
      pages := pages }
  let s1 := s.modCluster k (fun x => { x with mjobs := x.mjobs ++ [j], nextSeq := x.nextSeq + 1 })
  ({ s1 with g := { s.g with toks := tmod s.g.toks tok 0 (· + 1) } } : State).advance

/-! ### Delivered traps -/

/-- R153–R155, R164: nothing keeps trap `t` from being delivered: the group is on a core below H mode with fewer than four
frames, a vector base, and room for a frame whose words translate to `xs`. -/
structure State.Delivers (s : State) (t : Trap) (s2 : State) (xs : List XOk) : Prop where
  core   : s.onKiln = false
  mode   : s.mode ≠ 2
  nested : s.g.priv.kdepth.toNat < 4
  based  : vecBase s.g.priv (trapToH t) ≠ 0
  spill  : s.g.spill ≠ 0
  room   : s.g.spill.toNat + 256 ≤ linkEnd s.tm s.g.idx
  frame  : (({ s with traps := if t.cause = cResidue then tmod s.traps s.tm.die 0 (· + 1) else s.traps } : State).gradeGrid
    s.tm.grid (causeGrade t.cause)).frameXls s.g.spill.toNat .store = (s2, some xs)

/-- The state a delivered trap leads to (R156, R157, R167): its frame stored, its record written, its handler entered. -/
def State.delivered (s : State) (t : Trap) (s2 : State) (xs : List XOk) : State :=
  let ret := if t.retAt then s.g.pc else s.g.pc + 4
  let cw := causeWord t s.mode (isRepeat s.g t)
  ((s2.coreStores s.core xs (frameWords s t)).record (trapRec s t ret cw 8)).enterTrap t ret cw

/-! ### Commands of the front end -/

/-- Command `c` is the next of queue q to start, of operation `op`, for partition p; its slot and event address pass
(R83, R84, R86, R87). -/
structure State.Starts (s : State) (q op p : Nat) (c : Cmd) (s1 : State) : Prop where
  next   : (s.queue q).startable = some c
  part   : s.partOfQueue q = some p
  kind   : slOp c.num = op
  fields : slotFieldsOk c.num = true
  event  : (if op = 2 ∨ op = 3 ∨ (op ≠ 1 ∧ slEvEn c.num = true) then
      s.eventAddrOk p c.asid (slEvVa c.num) (if op = 3 then .load else .store) else (s, true)) = (s1, true)

/-- The slot at the head of queue q may be read, and its good words `ws` carry the head's stamp (R80). -/
structure State.SlotGood (s : State) (q p : Nat) (s1 : State) (ws : List Word) : Prop where
  part  : s.partOfQueue q = some p
  up    : s.twin.activating = none
  ready : (s.queue q).readable = true
  turn  : s.nextServed = some q
  read  : s.frontRead p (qdAsid (s.queue q).desc) (qdRing (s.queue q).desc + 128 * ((s.queue q).head.toNat % qdCap (s.queue q).desc)) 32 =
    (s1, some ws)
  good  : allGood ws = true
  stamp : (nth ws 0).data = (s.queue q).head

/-! ### The home of a line -/

/-- A request meets an idle home: well formed, not streaming, behind no other, its line in the slice under a valid key with no words
owned, no partials and no stack request under way. `s1` is the state with the line's stack writes settled. -/
structure State.HomeFree (s : State) (p : Packet) (s1 : State) : Prop where
  sound   : pktOk p = true
  alone   : s.homeQ.any (fun q => pktTag q == pktTag p) = false
  settled : s.settle (tagLine (pktTag p)) = s1
  cached  : (tfind s1.l2 (pktTag p)).isSome = true
  free    : (s1.ownLine (pktTag p)).owners = [] ∧ (s1.ownLine (pktTag p)).holders = [] ∧ (s1.ownLine (pktTag p)).asked = []
  quiet   : s1.stackTags.any (fun e => e.2 / 2 == pktTag p) = false
  keyed   : (tfind s1.keys (tagKey (pktTag p))).isSome = true
  plain   : s1.streams p = false
  fresh   : s1.performed1 p = false

/-- The request a reply answers is outstanding at its destination. -/
def State.Awaited (s : State) (p : Packet) (t : Txn) : Prop := pktOk p = true ∧ s.txnFor p = some t

/-! ### Packets and frames at the ports -/

/-- A THT packet of operation `op` on path 0 or on an open path is taken and well formed (R41, R42). -/
structure State.ThtHere (s : State) (f : ThtPacket) (op : Nat) : Prop where
  taken : s.thtWhy f = none
  alive : s.twin.failed = false
  kind  : thOp f.hdr = op
  opened : if thPath f.hdr = 0 then pcState s.path0.ctx ≠ 2 else pcState (s.path (thPath f.hdr)).ctx = 1
  form  : thtFormatOk (s.thtMtu f) f = true

/-- A THT packet is taken: on path 0 its source is where answers go (R43), and a congestion mark sets the pending echo (R47). -/
def State.thtTaken (s : State) (f : ThtPacket) : State :=
  let s0 : State := if thPath f.hdr = 0 then { s with src0 := some ⟨f.port, f.srcIp, f.srcUdp, f.tag⟩ } else s
  if f.ce then s0.modTht (thPath f.hdr) (fun x => { x with echo := true }) else s0

/-- R42: a request that has been served, with NAK code `nak` or 0: its PSN is consumed, a response having acknowledged it or not, its refusal sent,
and an ACK when one is due. -/
def State.thtServed (s : State) (f : ThtPacket) (nak : Nat) (resp : Bool) : State :=
  let n := thPath f.hdr
  let v := s.modTht n (fun x => { x with
    psnIn := thPsn f.hdr + 1
    unacked := if resp then 0 else x.unacked + 1 })
  let w := if nak = 0 then v else v.thtReply f 10 nak (thPsn f.hdr) 0 []
  if thAckReq f.hdr = true ∨ 16 ≤ (w.tht n).unacked ∨ (n = 0 ∧ (w.tht n).echo = true) then w.thtAckNow f else w

/-- A management request that R63 admits: the device up, no activation before it, the sender entitled, the reserved field zero.
`s` has nothing in focus. -/
structure State.MgmtOk (s : State) (m : MgmtReq) (own : Bool) : Prop where
  up    : s.twin.failed = false
  idle  : s.twin.recovering = false
  free  : m.path ≠ 0 ∨ s.twin.activating = none
  right : m.path = 0 ∨ (own = true ∧ m.part.toNat = pcPart (s.path m.path).ctx)
  zero  : m.rsv = 0

end Sys2Proof.Machine
end

