-- ==== Sys2Proof/Certificates/Slice0/Obligations.lean ====
section
/-! DEFINITION. The statements about the machine, for the provers. -/

open Sys2Proof Sys2Proof.Machine

/-- R226, R269, R271, R272, R280, R223: An add or sub whose operands are readable completes: every active lane's destination takes the sum or difference of its type (one word, a 64-bit pair, two halves, four bytes), addi the sum with the sign-extended immediate, neg the negation of a word or of a pair, abs the two's-complement absolute value of its source word (the most negative word gives itself), sad the old destination plus the larger of its two source words minus the smaller, compared signed or unsigned by the instruction; a lane with a poisoned source takes poison; nothing else changes but what completion does to the group. -/
def Obligations.LaneAddSub : Prop :=
  ∀ (s : State) (d a b : BitVec 6) (p : BitVec 3),
    (∀ t : BitVec 2, s.FitV p (names3 d.toNat a.toNat b.toNat (widthOf t)) →
      s.ReadsV p [(a.toNat, widthOf t), (b.toNat, widthOf t)] →
      exec (.vAdd d a b t p) s = .next (s.putV p d.toNat (fun l =>
        arithOf (widthOf t) (s.vRun a.toNat (widthOf t) l ++ s.vRun b.toNat (widthOf t) l)
          (addResult t (s.v a.toNat l).data (s.v b.toNat l).data (s.v64 a.toNat l) (s.v64 b.toNat l)))).advance ∧
      exec (.vSub d a b t p) s = .next (s.putV p d.toNat (fun l =>
        arithOf (widthOf t) (s.vRun a.toNat (widthOf t) l ++ s.vRun b.toNat (widthOf t) l)
          (subResult t (s.v a.toNat l).data (s.v b.toNat l).data (s.v64 a.toNat l) (s.v64 b.toNat l)))).advance) ∧
    (s.FitV p (names2 d.toNat a.toNat 1) → s.ReadsV p [(a.toNat, 1)] →
      (∀ i : BitVec 10, exec (.vAddi d a i p) s = .next (s.putV p d.toNat (fun l =>
        arithOf 1 (s.vRun a.toNat 1 l) [(s.v a.toNat l).data + i.signExtend 32])).advance) ∧
      exec (.vNegI32 d a p) s = .next (s.putV p d.toNat (fun l =>
        arithOf 1 (s.vRun a.toNat 1 l) [- (s.v a.toNat l).data])).advance) ∧
    (s.FitV p (names2 d.toNat a.toNat 2) → s.ReadsV p [(a.toNat, 2)] →
      exec (.vNegI64 d a p) s = .next (s.putV p d.toNat (fun l =>
        arithOf 2 (s.vRun a.toNat 2 l) (halves (- s.v64 a.toNat l)))).advance) ∧
    (s.FitV p (names2 d.toNat a.toNat 1) → s.ReadsV p [(a.toNat, 1)] →
      exec (.vAbs d a p) s = .next (s.putV p d.toNat (fun l => arithOf 1 (s.vRun a.toNat 1 l)
        [if (s.v a.toNat l).data.toInt < 0 then - (s.v a.toNat l).data else (s.v a.toNat l).data])).advance) ∧
    (s.FitV p (names3 d.toNat a.toNat b.toNat 1) → s.ReadsV p [(a.toNat, 1), (b.toNat, 1), (d.toNat, 1)] →
      ∀ sg : BitVec 1, exec (.vSad d a b sg p) s = .next (s.putV p d.toNat (fun l =>
        let x := (s.v a.toNat l).data
        let y := (s.v b.toNat l).data
        let less := if sg = 1 then decide (x.toInt < y.toInt) else decide (x.toNat < y.toNat)
        arithOf 1 (s.vRun a.toNat 1 l ++ s.vRun b.toNat 1 l ++ s.vRun d.toNat 1 l)
          [(if less then y - x else x - y) + (s.v d.toNat l).data])).advance)

/-- R227, R269, R271, R274: mul writes the low 32 or 64 bits of the product, mulh the high 32 bits of the signed or unsigned product, mad the low 32 bits of the product plus the old destination, madw the 64-bit signed or unsigned product plus the (sign- or zero-extended) old low destination word into the destination pair; a lane with a poisoned source takes poison. -/
def Obligations.LaneMultiply : Prop :=
  ∀ (s : State) (d a b : BitVec 6) (p : BitVec 3),
    (∀ t : BitVec 1, s.FitV p (names3 d.toNat a.toNat b.toNat (widthOf t)) →
      s.ReadsV p [(a.toNat, widthOf t), (b.toNat, widthOf t)] →
      exec (.vMul d a b t p) s = .next (s.putV p d.toNat (fun l =>
        arithOf (widthOf t) (s.vRun a.toNat (widthOf t) l ++ s.vRun b.toNat (widthOf t) l)
          (if t = 1 then halves (s.v64 a.toNat l * s.v64 b.toNat l) else [(s.v a.toNat l).data * (s.v b.toNat l).data]))).advance) ∧
    (s.FitV p (names3 d.toNat a.toNat b.toNat 1) → s.ReadsV p [(a.toNat, 1), (b.toNat, 1)] → ∀ sg : BitVec 1,
      exec (.vMulh d a b sg p) s = .next (s.putV p d.toNat (fun l =>
        let x := (s.v a.toNat l).data
        let y := (s.v b.toNat l).data
        arithOf 1 (s.vRun a.toNat 1 l ++ s.vRun b.toNat 1 l)
          [if sg = 1 then BitVec.ofInt 32 (x.toInt * y.toInt / 2 ^ 32) else BitVec.ofNat 32 (x.toNat * y.toNat / 2 ^ 32)])).advance) ∧
    (s.FitV p (names3 d.toNat a.toNat b.toNat 1) → s.ReadsV p [(a.toNat, 1), (b.toNat, 1), (d.toNat, 1)] →
      exec (.vMad d a b p) s = .next (s.putV p d.toNat (fun l =>
        arithOf 1 (s.vRun a.toNat 1 l ++ s.vRun b.toNat 1 l ++ s.vRun d.toNat 1 l)
          [(s.v a.toNat l).data * (s.v b.toNat l).data + (s.v d.toNat l).data])).advance) ∧
    (s.FitV p ⟨[(d.toNat, 2), (a.toNat, 1), (b.toNat, 1)], []⟩ → s.ReadsV p [(a.toNat, 1), (b.toNat, 1), (d.toNat, 1)] →
      ∀ sg : BitVec 1, exec (.vMadw d a b sg p) s = .next (s.putV p d.toNat (fun l =>
        let x := (s.v a.toNat l).data
        let y := (s.v b.toNat l).data
        let c := (s.v d.toNat l).data
        arithOf 2 (s.vRun a.toNat 1 l ++ s.vRun b.toNat 1 l ++ s.vRun d.toNat 1 l)
          (halves (if sg = 1 then BitVec.ofInt 64 (x.toInt * y.toInt + c.toInt) else BitVec.ofNat 64 (x.toNat * y.toNat + c.toNat))))).advance)

/-- R226, R273: addx writes va + vb + p6 and subx va − vb − p6 in every active lane, and p6 takes the carry or borrow out of bit 31; a lane whose sources are not poison, pass their checks and whose p6 pair is healthy completes so. -/
def Obligations.LaneCarryChain : Prop :=
  ∀ (s : State) (d a b : BitVec 6) (p : BitVec 3) (c : Nat → Bool),
    s.FitV p (names3 d.toNat a.toNat b.toNat 1) → s.ReadsV p [(a.toNat, 1), (b.toNat, 1)] →
    (∀ l, s.active p l → (s.v a.toNat l).isPoison = false ∧ (s.v b.toNat l).isPoison = false ∧ s.p 6 l = some (c l)) →
    exec (.vAddx d a b p) s = .next ((lanesOf (s.act p.toNat).lanes).foldl (fun t l =>
      let x := (s.v a.toNat l).data
      let y := (s.v b.toNat l).data
      (t.setV d.toNat l (Word.ofData (BitVec.ofNat 32 (x.toNat + y.toNat + (c l).toNat)))).setP 6 l
        (decide (2 ^ 32 ≤ x.toNat + y.toNat + (c l).toNat))) s).advance ∧
    exec (.vSubx d a b p) s = .next ((lanesOf (s.act p.toNat).lanes).foldl (fun t l =>
      let x := (s.v a.toNat l).data
      let y := (s.v b.toNat l).data
      (t.setV d.toNat l (Word.ofData (x - y - BitVec.ofNat 32 (c l).toNat))).setP 6 l
        (decide (x.toNat < y.toNat + (c l).toNat))) s).advance

/-- R228, R269, R276, R280, R281, R223: The logic forms write the bitwise result of two words (andn with the second complemented), the immediate forms with the sign-extended immediate; movi writes the sign-extended immediate, movl and movh replace the low or high half of the old word; a lane with a poisoned source takes poison. -/
def Obligations.LaneLogic : Prop :=
  ∀ (s : State) (d a b : BitVec 6) (p : BitVec 3),
    (s.FitV p (names3 d.toNat a.toNat b.toNat 1) → s.ReadsV p [(a.toNat, 1), (b.toNat, 1)] →
      let put := fun (f : BitVec 32 → BitVec 32 → BitVec 32) => s.putV p d.toNat (fun l =>
        arithOf 1 (s.vRun a.toNat 1 l ++ s.vRun b.toNat 1 l) [f (s.v a.toNat l).data (s.v b.toNat l).data])
      exec (.vAnd d a b p) s = .next (put (fun x y => x &&& y)).advance ∧
      exec (.vOr d a b p) s = .next (put (fun x y => x ||| y)).advance ∧
      exec (.vXor d a b p) s = .next (put (fun x y => x ^^^ y)).advance ∧
      exec (.vAndn d a b p) s = .next (put (fun x y => x &&& ~~~ y)).advance) ∧
    (s.FitV p (names2 d.toNat a.toNat 1) → s.ReadsV p [(a.toNat, 1)] → ∀ i : BitVec 10,
      let put := fun (f : BitVec 32 → BitVec 32) => s.putV p d.toNat (fun l =>
        arithOf 1 (s.vRun a.toNat 1 l) [f (s.v a.toNat l).data])
      exec (.vAndi d a i p) s = .next (put (fun x => x &&& i.signExtend 32)).advance ∧
      exec (.vOri d a i p) s = .next (put (fun x => x ||| i.signExtend 32)).advance ∧
      exec (.vXori d a i p) s = .next (put (fun x => x ^^^ i.signExtend 32)).advance) ∧
    (s.FitV p ⟨[(d.toNat, 1)], []⟩ → ∀ i : BitVec 16,
      exec (.vMovi d i p) s = .next (s.putV p d.toNat (fun _ => [Word.ofData (i.signExtend 32)])).advance ∧
      (s.ReadsV p [(d.toNat, 1)] →
        exec (.vMovl d i p) s = .next (s.putV p d.toNat (fun l =>
          arithOf 1 (s.vRun d.toNat 1 l) [(s.v d.toNat l).data.extractLsb' 16 16 ++ i])).advance ∧
        exec (.vMovh d i p) s = .next (s.putV p d.toNat (fun l =>
          arithOf 1 (s.vRun d.toNat 1 l) [i ++ (s.v d.toNat l).data.extractLsb' 0 16])).advance))

/-- R229, R269, R276, R280: The shift count is the low five bits of the second source (or the immediate): shl, shr and sar shift the word, rot rotates it left, shf takes the high word of the pair va:old vd shifted left; clz counts leading zeros (32 for zero), popc the set bits, brev reverses the bits; a lane with a poisoned source takes poison. -/
def Obligations.LaneShiftsAndCounts : Prop :=
  ∀ (s : State) (d a b : BitVec 6) (p : BitVec 3),
    (s.FitV p (names3 d.toNat a.toNat b.toNat 1) → s.ReadsV p [(a.toNat, 1), (b.toNat, 1)] →
      let put := fun (f : BitVec 32 → Nat → BitVec 32) => s.putV p d.toNat (fun l =>
        arithOf 1 (s.vRun a.toNat 1 l ++ s.vRun b.toNat 1 l) [f (s.v a.toNat l).data ((s.v b.toNat l).data.toNat % 32)])
      exec (.vShl d a b p) s = .next (put (fun x k => x <<< k)).advance ∧
      exec (.vShr d a b p) s = .next (put (fun x k => x >>> k)).advance ∧
      exec (.vSar d a b p) s = .next (put (fun x k => x.sshiftRight k)).advance ∧
      exec (.vRot d a b p) s = .next (put (fun x k => x.rotateLeft k)).advance ∧
      (s.ReadsV p [(d.toNat, 1)] → exec (.vShf d a b p) s = .next (s.putV p d.toNat (fun l =>
        arithOf 1 (s.vRun a.toNat 1 l ++ s.vRun b.toNat 1 l ++ s.vRun d.toNat 1 l)
          [(((s.v a.toNat l).data ++ (s.v d.toNat l).data) <<< ((s.v b.toNat l).data.toNat % 32)).extractLsb' 32 32])).advance)) ∧
    (s.FitV p (names2 d.toNat a.toNat 1) → s.ReadsV p [(a.toNat, 1)] →
      let put := fun (f : BitVec 32 → BitVec 32) => s.putV p d.toNat (fun l =>
        arithOf 1 (s.vRun a.toNat 1 l) [f (s.v a.toNat l).data])
      (∀ k : BitVec 5, exec (.vShli d a k p) s = .next (put (fun x => x <<< k.toNat)).advance ∧
        exec (.vShri d a k p) s = .next (put (fun x => x >>> k.toNat)).advance) ∧
      exec (.vClz d a p) s = .next (put (fun x => BitVec.ofNat 32 (32 - (if x = 0 then 0 else Nat.log2 x.toNat + 1)))).advance ∧
      exec (.vPopc d a p) s = .next (put (fun x => BitVec.ofNat 32 ((List.range 32).filter (fun i => x.getLsbD i)).length)).advance ∧
      exec (.vBrev d a p) s = .next (put (fun x => x.reverse)).advance)

/-- R269, R277, R278, R230: With pos = vb[4:0] and len = vb[13:8], a length above 32 taken as 32 and the field cut at bit 31, bfx.n32 writes the field of va zero-extended and bfx.i32 sign-extended (zero for an empty field), bfi inserts the low bits of va into the old destination; bpick writes four bytes, each chosen by a byte of the old destination from the eight bytes of va and vb, or its sign fill, or 0x00, or 0xff; a lane with a poisoned source takes poison. -/
def Obligations.LaneBitFields : Prop :=
  ∀ (s : State) (d a b : BitVec 6) (p : BitVec 3),
    let pos := fun l => (s.v b.toNat l).data.toNat % 32
    let len := fun l => min (min ((s.v b.toNat l).data.toNat / 256 % 64) 32) (32 - pos l)
    (s.FitV p ⟨[(d.toNat, 1), (a.toNat, 1), (b.toNat, 1)], []⟩ → s.ReadsV p [(a.toNat, 1), (b.toNat, 1)] →
      exec (.vBfxN32 d a b p) s = .next (s.putV p d.toNat (fun l => arithOf 1 (s.vRun a.toNat 1 l ++ s.vRun b.toNat 1 l)
        [BitVec.ofNat 32 ((s.v a.toNat l).data.toNat / 2 ^ pos l % 2 ^ len l)])).advance ∧
      exec (.vBfxI32 d a b p) s = .next (s.putV p d.toNat (fun l => arithOf 1 (s.vRun a.toNat 1 l ++ s.vRun b.toNat 1 l)
        [if len l = 0 then 0 else ((s.v a.toNat l).data <<< (32 - pos l - len l)).sshiftRight (32 - len l)])).advance) ∧
    (s.FitV p ⟨[(d.toNat, 1), (a.toNat, 1), (b.toNat, 1), (d.toNat, 1)], []⟩ →
      s.ReadsV p [(a.toNat, 1), (b.toNat, 1), (d.toNat, 1)] →
      let put := fun (f : Nat → BitVec 32) => s.putV p d.toNat (fun l =>
        arithOf 1 (s.vRun a.toNat 1 l ++ s.vRun b.toNat 1 l ++ s.vRun d.toNat 1 l) [f l])
      exec (.vBfi d a b p) s = .next (put (fun l => BitVec.ofFnLE (fun i : Fin 32 =>
        if pos l ≤ i.val ∧ i.val < pos l + len l then (s.v a.toNat l).data.getLsbD (i.val - pos l)
        else (s.v d.toNat l).data.getLsbD i.val))).advance ∧
      exec (.vBpick d a b p) s = .next (put (fun l =>
        let pool := (s.v b.toNat l).data ++ (s.v a.toNat l).data
        let pick := fun (k : Nat) =>
          let sel := (s.v d.toNat l).data.toNat / 256 ^ k % 256
          let byte := pool.extractLsb' (8 * (sel % 8)) 8
          if sel / 8 % 4 = 0 then byte else if sel / 8 % 4 = 1 then (if byte.toNat ≥ 128 then 255#8 else 0#8)
          else if sel / 8 % 4 = 2 then 0#8 else 255#8
        pick 3 ++ pick 2 ++ pick 1 ++ pick 0)).advance)

/-- R221, R230, R275, R282: sel writes va where its selecting predicate is true and vb where it is false; min and max choose by value (signed or unsigned, one or two words, va on equality), a poisoned operand never against a clean one, and two poisoned operands give poison; a chosen poison is written and is no use, and a chosen pair with a poisoned word is poison whole. -/
def Obligations.LaneSelectMinMax : Prop :=
  ∀ (s : State) (d a b : BitVec 6) (p : BitVec 3),
    (∀ w : BitVec 1, s.FitV p (names3 d.toNat a.toNat b.toNat (widthOf w)) →
      s.ReadsV p [(a.toNat, widthOf w), (b.toNat, widthOf w)] →
      (∀ (n : BitVec 3) (c : Nat → Bool), (∀ l, s.active p l → s.p n.toNat l = some (c l)) →
        exec (.vSel d a b w n p) s = .next (s.putV p d.toNat (fun l =>
          copyOf (if c l then s.vRun a.toNat (widthOf w) l else s.vRun b.toNat (widthOf w) l))).advance) ∧
      (∀ u : BitVec 1,
        let val := fun n l => valueOf (w = 1) (u = 0) (s.v n l).data (s.v (n + 1) l).data
        exec (.vMin d a b w u p) s = .next (s.putV p d.toNat (fun l =>
          chosenOf false (s.vRun a.toNat (widthOf w) l) (s.vRun b.toNat (widthOf w) l) (val a.toNat l) (val b.toNat l))).advance ∧
        exec (.vMax d a b w u p) s = .next (s.putV p d.toNat (fun l =>
          chosenOf true (s.vRun a.toNat (widthOf w) l) (s.vRun b.toNat (widthOf w) l) (val a.toNat l) (val b.toNat l))).advance))

/-- R268, R283, R284, R285, R286, R297, R340: A compare of unpoisoned operands writes its condition to the predicate (never p7): cmp and cmpi the eight integer conditions on one or two words, fcmp its conditions on binary32 (with ftz) or binary64, pset the truth-table entry of two healthy predicates, rtst whether a word of its run is poison. -/
def Obligations.LaneComparesAndPredicates : Prop :=
  ∀ (s : State) (d : BitVec 3) (a b : BitVec 6) (p : BitVec 3), d ≠ 7 →
    (∀ w : BitVec 1, s.FitV p ⟨[(a.toNat, widthOf w), (b.toNat, widthOf w)], []⟩ →
      s.ReadsV p [(a.toNat, widthOf w), (b.toNat, widthOf w)] → s.CleanV p [(a.toNat, widthOf w), (b.toNat, widthOf w)] →
      ∀ c : BitVec 3, exec (.vCmp d a b w c p) s = .next (s.putP p d.toNat (fun l =>
        condHolds c (w = 1) (s.v a.toNat l).data (s.v (a.toNat + 1) l).data (s.v b.toNat l).data (s.v (b.toNat + 1) l).data)).advance ∧
      (c ≠ 7 → exec (.vFcmp d a b c w p) s = .next (s.putP p d.toNat (fun l =>
        if w = 1 then cmpF f64 false c.toNat (s.v64 a.toNat l).toNat (s.v64 b.toNat l).toNat
        else cmpF f32 (fmtFtz s.g.fmt) c.toNat (s.v a.toNat l).data.toNat (s.v b.toNat l).data.toNat)).advance)) ∧
    (s.FitV p ⟨[(a.toNat, 1)], []⟩ → s.ReadsV p [(a.toNat, 1)] → s.CleanV p [(a.toNat, 1)] →
      ∀ (c : BitVec 3) (i : BitVec 7), exec (.vCmpi d a c i p) s = .next (s.putP p d.toNat (fun l =>
        condHolds c false (s.v a.toNat l).data 0 (i.signExtend 32) 0)).advance) ∧
    (s.FitV p ⟨[], []⟩ → ∀ (x y : BitVec 3) (t : BitVec 4) (u v : Nat → Bool),
      (∀ l, s.active p l → s.p x.toNat l = some (u l) ∧ s.p y.toNat l = some (v l)) →
      exec (.vPset d x y t p) s = .next (s.putP p d.toNat (fun l => t.getLsbD (2 * (u l).toNat + (v l).toNat))).advance) ∧
    (∀ w : BitVec 1, s.FitV p ⟨[(a.toNat, w.toNat + 1)], []⟩ → s.ReadsV p [(a.toNat, w.toNat + 1)] →
      exec (.vRtst d a w p) s = .next (s.putP p d.toNat (fun l => (s.vRun a.toNat (w.toNat + 1) l).any Word.isPoison)).advance)

/-- R247, R287, R288, R289, R290: lxch writes to each active lane the word of the slot its mode and vb[4:0] name, leaves the lane's destination where that slot is inactive or does not exist, and writes poison where vb is poison; poll writes to every active lane the mask or the count of the active lanes whose predicate is true, or to a predicate whether all, some, or all-or-none are; lfold writes to every active lane the fold of the active lanes' words over the 32-slot tree. -/
def Obligations.LaneExchange : Prop :=
  ∀ (s : State) (d a b : BitVec 6) (p : BitVec 3),
    (s.FitV p (names3 d.toNat a.toNat b.toNat 1) → s.ReadsV p [(a.toNat, 1), (b.toNat, 1)] →
      ∀ m : BitVec 2, exec (.vLxch d a b m p) s = .next (s.putV p d.toNat (fun l =>
        let k := (s.v b.toNat l).data.toNat % 32
        let slot : Option Nat := if m = 0 then some k else if m = 1 then (if l < k then none else some (l - k))
          else if m = 2 then some ((l + k) % 32) else some (l ^^^ k)
        if (s.v b.toNat l).isPoison then [Word.poison]
        else match slot with
          | none => []
          | some t => if (lanesOf (s.act p.toNat).lanes).contains t then [s.v a.toNat t] else [])).advance) ∧
    (∀ (x m : BitVec 3) (c : Nat → Bool), (∀ l, s.active p l → s.p x.toNat l = some (c l)) →
      let ls := lanesOf (s.act p.toNat).lanes
      let n := (ls.filter c).length
      (m.toNat < 2 → s.FitV p ⟨[(d.toNat, 1)], []⟩ →
        exec (.vPoll d x m p) s = .next (s.putV p d.toNat (fun _ =>
          [Word.ofData (if m = 0 then maskOf (ls.filter c) else BitVec.ofNat 32 n)])).advance) ∧
      (2 ≤ m.toNat → m.toNat ≤ 4 → d.toNat < 7 → s.FitV p ⟨[], []⟩ →
        exec (.vPoll d x m p) s = .next (s.putP p d.toNat (fun _ =>
          if m = 2 then n == ls.length else if m = 3 then n != 0 else (n == ls.length || n == 0))).advance)) ∧
    (s.FitV p (names2 d.toNat a.toNat 1) → s.ReadsV p [(a.toNat, 1)] → ∀ f : BitVec 4, f.toNat ≤ 10 →
      exec (.vLfold d a f p) s = .next (s.putV p d.toNat (fun _ =>
        [(foldTree (foldStep f.toNat s.g.fmt) 5 ((List.range 32).map (fun l =>
          if (lanesOf (s.act p.toNat).lanes).contains l then some (s.v a.toNat l) else none))).getD Word.zero])).advance)

/-- R234, R235, R269, R291, R293, R295, R296, R298, R299: fadd, fsub, fmul, fma, fmin, fmax, fdiv, fscale, frnd and fclass complete and write, in every active lane, the words of the operation of their type (binary32, binary64, packed binary16, packed bfloat16) in the rounding mode of FMT (toward zero under .rz), with the residue of the word; fneg and fabs change sign bits alone; a lane with a poisoned source takes poison. -/
def Obligations.LaneFloat : Prop :=
  ∀ (s : State) (d a b : BitVec 6) (p : BitVec 3),
    (∀ t : BitVec 2, let k := widthOf t
      s.FitV p (names3 d.toNat a.toNat b.toNat k) → s.ReadsV p [(a.toNat, k), (b.toNat, k)] →
      let put := fun (f : FpFmt → Bool → Bool → Nat → Nat → Nat) => s.putV p d.toNat (fun l =>
        arithOf k (s.vRun a.toNat k l ++ s.vRun b.toNat k l)
          ((byType t.toNat s.g.fmt f (s.vRun a.toNat k l ++ s.vRun b.toNat k l)).map (·.1)))
      (∀ r : BitVec 1, let m := if r = 1 then 1 else fmtRnd s.g.fmt
        exec (.vFadd d a b r t p) s = .next (put (fun f sat ftz => addF f m sat ftz)).advance ∧
        exec (.vFsub d a b r t p) s = .next (put (fun f sat ftz => subF f m sat ftz)).advance ∧
        exec (.vFmul d a b r t p) s = .next (put (fun f sat ftz => mulF f m sat ftz)).advance ∧
        (s.ReadsV p [(d.toNat, k)] → exec (.vFma d a b r t p) s = .next (s.putV p d.toNat (fun l =>
          arithOf k (s.vRun a.toNat k l ++ s.vRun b.toNat k l ++ s.vRun d.toNat k l)
            ((fmaWords t.toNat s.g.fmt m (s.vRun a.toNat k l ++ s.vRun b.toNat k l ++ s.vRun d.toNat k l)).map (·.1)))).advance)) ∧
      exec (.vFmin d a b t p) s = .next (put (fun f _ ftz => minmaxF f ftz false)).advance ∧
      exec (.vFmax d a b t p) s = .next (put (fun f _ ftz => minmaxF f ftz true)).advance ∧
      (t.toNat < 2 → exec (.vFdiv d a b t p) s = .next (put (fun f sat ftz => divF f (fmtRnd s.g.fmt) sat ftz)).advance)) ∧
    (∀ t : BitVec 2, t.toNat < 2 → s.FitV p ⟨[(d.toNat, widthOf t), (a.toNat, widthOf t), (b.toNat, 1)], []⟩ →
      s.ReadsV p [(a.toNat, widthOf t), (b.toNat, 1)] →
      exec (.vFscale d a b t p) s = .next (s.putV p d.toNat (fun l =>
        arithOf (widthOf t) (s.vRun a.toNat (widthOf t) l ++ s.vRun b.toNat 1 l)
          (if t = 1 then halves (BitVec.ofNat 64 (scaleF f64 (fmtRnd s.g.fmt) false (s.v64 a.toNat l).toNat (s.v b.toNat l).data.toInt))
           else [BitVec.ofNat 32 (scaleF f32 (fmtRnd s.g.fmt) (fmtFtz s.g.fmt) (s.v a.toNat l).data.toNat (s.v b.toNat l).data.toInt)]))).advance) ∧
    (∀ t : BitVec 2, s.FitV p (names2 d.toNat a.toNat (widthOf t)) → s.ReadsV p [(a.toNat, widthOf t)] →
      (∀ m : BitVec 2, exec (.vFrnd d a m t p) s = .next (s.putV p d.toNat (fun l =>
        arithOf (widthOf t) (s.vRun a.toNat (widthOf t) l)
          ((byType t.toNat s.g.fmt (fun f _ ftz x _ => rndF f m.toNat ftz x)
            (s.vRun a.toNat (widthOf t) l ++ s.vRun a.toNat (widthOf t) l)).map (·.1)))).advance) ∧
      let sign := fun (neg : Bool) => s.putV p d.toNat (fun l =>
        let top := fun (i : Nat) (x : BitVec 32) => if i = 31 || (i = 15 && 2 ≤ t.toNat) then (neg && !x.getLsbD i) else x.getLsbD i
        let w := fun (x : BitVec 32) => BitVec.ofFnLE (fun i : Fin 32 => top i.val x)
        arithOf (widthOf t) (s.vRun a.toNat (widthOf t) l)
          (if t = 1 then [(s.v a.toNat l).data, w (s.v (a.toNat + 1) l).data] else [w (s.v a.toNat l).data]))
      exec (.vFneg d a t p) s = .next (sign true).advance ∧ exec (.vFabs d a t p) s = .next (sign false).advance) ∧
    (∀ t : BitVec 1, s.FitV p ⟨[(d.toNat, 1), (a.toNat, widthOf t)], []⟩ → s.ReadsV p [(a.toNat, widthOf t)] →
      exec (.vFclass d a t p) s = .next (s.putV p d.toNat (fun l => arithOf 1 (s.vRun a.toNat (widthOf t) l)
        [BitVec.ofNat 32 (2 ^ (if t = 1 then classF f64 (s.v64 a.toNat l).toNat else classF f32 (s.v a.toNat l).data.toNat))])).advance)

/-- R241, R244, R269, R302, R303, R304, R305: A legal conversion completes: cvt writes the words of the destination type, cvtn.pk replaces element k of the old word by the converted product of its two binary32 sources, cvtn.unpk writes element k times the scale, cvtw moves a byte or half into a word or, clamped, a word into a byte or half of the old word, leaving the other fields; the residue written is that of the word; a lane with a poisoned source takes poison. -/
def Obligations.LaneConvert : Prop :=
  ∀ (s : State) (d a b : BitVec 6) (p : BitVec 3),
    (∀ (r : BitVec 1) (st dt : BitVec 4), cvtLegal dt.toNat st.toNat = true →
      let kd := cvtDRegs dt.toNat st.toNat
      let ka := cvtSRegs dt.toNat st.toNat
      s.FitV p ⟨[(d.toNat, kd), (a.toNat, ka)], []⟩ → s.ReadsV p [(a.toNat, ka)] →
      exec (.vCvt d a r st dt p) s = .next (s.putV p d.toNat (fun l => arithOf kd (s.vRun a.toNat ka l)
        ((cvtWords dt.toNat st.toNat (if r = 1 then 1 else fmtRnd s.g.fmt) s.g.fmt (s.vRun a.toNat ka l)).map (·.1)))).advance) ∧
    (s.FitV p (names3 d.toNat a.toNat b.toNat 1) → s.ReadsV p [(a.toNat, 1), (b.toNat, 1)] → ∀ (k : BitVec 3) (e : Elem),
      (cvtnLegal (field s.g.fmt.toNat 8 4) k.toNat = true → elemOf (field s.g.fmt.toNat 8 4) = some e → s.ReadsV p [(d.toNat, 1)] →
        exec (.vCvtnPk d a b k p) s = .next (s.putV p d.toNat (fun l =>
          let v := mulV (unpackF f32 (fmtFtz s.g.fmt) (s.v a.toNat l).data.toNat) (unpackF f32 (fmtFtz s.g.fmt) (s.v b.toNat l).data.toNat)
          let x := (convElem e (fmtRnd s.g.fmt) (fmtSat s.g.fmt) v).bits
          arithOf 1 (s.vRun a.toNat 1 l ++ s.vRun b.toNat 1 l ++ s.vRun d.toNat 1 l)
            [BitVec.ofFnLE (fun i : Fin 32 => if i.val / elemBits e = k.toNat then x.testBit (i.val % elemBits e)
              else (s.v d.toNat l).data.getLsbD i.val)])).advance) ∧
      (cvtnLegal (field s.g.fmt.toNat 0 4) k.toNat = true → elemOf (field s.g.fmt.toNat 0 4) = some e →
        exec (.vCvtnUnpk d a b k p) s = .next (s.putV p d.toNat (fun l =>
          arithOf 1 (s.vRun a.toNat 1 l ++ s.vRun b.toNat 1 l)
            [BitVec.ofNat 32 (packV f32 (fmtRnd s.g.fmt) false (fmtFtz s.g.fmt)
              (mulV (decodeElem e (fieldOf (elemBits e) k.toNat (s.v a.toNat l).data))
                (unpackF f32 (fmtFtz s.g.fmt) (s.v b.toNat l).data.toNat)))])).advance)) ∧
    (s.FitV p (names2 d.toNat a.toNat 1) → s.ReadsV p [(a.toNat, 1)] → ∀ (w sg : BitVec 1) (k : BitVec 2), (w = 1 → k.toNat < 2) →
      let n := if w = 1 then 16 else 8
      exec (.vCvtw d a w 0 sg k p) s = .next (s.putV p d.toNat (fun l => arithOf 1 (s.vRun a.toNat 1 l)
        [let x := (s.v a.toNat l).data.extractLsb' (n * k.toNat) n
         if sg = 1 then x.signExtend 32 else x.zeroExtend 32])).advance ∧
      (s.ReadsV p [(d.toNat, 1)] → exec (.vCvtw d a w 1 sg k p) s = .next (s.putV p d.toNat (fun l =>
        let v := (s.v a.toNat l).data
        let x : Int := if sg = 1 then max (-(2 ^ (n - 1))) (min (2 ^ (n - 1) - 1) v.toInt) else min (v.toNat : Int) (2 ^ n - 1)
        arithOf 1 (s.vRun a.toNat 1 l ++ s.vRun d.toNat 1 l)
          [BitVec.ofFnLE (fun i : Fin 32 => if i.val / n = k.toNat then (BitVec.ofInt n x).getLsbD (i.val % n)
            else (s.v d.toNat l).data.getLsbD i.val)])).advance))

/-- R132, R133, R294, R300: With room in the pending set and la not zero, each special function completes: its destination enters the pending set with the result words of every active lane (poison for a poisoned source), its own address and lookahead, and the pc goes on; the destination register itself keeps its old words until the result arrives. -/
def Obligations.LaneSpecialFunctions : Prop :=
  ∀ (s : State) (d a : BitVec 6) (t : BitVec 2) (la : BitVec 4) (p : BitVec 3), let k := widthOf t
    s.FitV p (names2 d.toNat a.toNat k) → s.ReadsV p [(a.toNat, k)] → psetSize s.g + k ≤ 8 → la ≠ 0 →
    let opened := fun (fn : Nat) => ({ s with g := { s.g with
      nextId := s.g.nextId + 1
      drain := false
      pset := s.g.pset ++ [⟨s.g.nextId, .lane d.toNat k, la.toNat + 1, la.toNat, s.g.pc, true,
        (lanesOf (s.act p.toNat).lanes).map (fun l => ⟨l, 0, 4 * k,
          (if (s.vRun a.toNat k l).any Word.isPoison then List.replicate k Word.poison
            else specialWords fn t.toNat s.g.fmt (s.vRun a.toNat k l)).map (fun w => ⟨0, 0, some w⟩)⟩), s.g.wb, false⟩] } } : State)
    exec (.vFrcp d a t la p) s = .next (opened 0).advance ∧
    exec (.vFrsq d a t la p) s = .next (opened 1).advance ∧
    exec (.vFsqrt d a t la p) s = .next (opened 2).advance ∧
    (t ≠ 1 → exec (.vFex2 d a t la p) s = .next (opened 3).advance ∧
      exec (.vFlg2 d a t la p) s = .next (opened 4).advance ∧
      exec (.vFsin d a t la p) s = .next (opened 5).advance ∧
      exec (.vFcos d a t la p) s = .next (opened 6).advance)

/-- R224, R340: rchk of a run whose words pass changes nothing but what completion does; rpois writes poison to one or two registers of every active lane; rgen, in S or H mode, writes the source's data bits with a fresh residue (of a poisoned word the data bits are a free value, and the free-value counter advances by the model's own bookkeeping). -/
def Obligations.LaneResidueInstructions : Prop :=
  ∀ (s : State) (d a : BitVec 6) (p : BitVec 3),
    (∀ n : BitVec 6, s.FitV p ⟨[(a.toNat, n.toNat + 1)], []⟩ → s.ReadsV p [(a.toNat, n.toNat + 1)] →
      exec (.vRchk a n p) s = .next s.advance) ∧
    (∀ w : BitVec 1, s.FitV p ⟨[(d.toNat, w.toNat + 1)], []⟩ →
      exec (.vRpois d w p) s = .next (s.putV p d.toNat (fun _ => List.replicate (w.toNat + 1) Word.poison)).advance) ∧
    (∀ w : BitVec 1, s.mode ≠ 0 → s.FitV p ⟨[(d.toNat, w.toNat + 1), (a.toNat, w.toNat + 1)], []⟩ →
      s.CleanV p [(a.toNat, w.toNat + 1)] →
      exec (.vRgen d a w p) s = .next (({ s with freeNo := s.freeNo + 64 } : State).putV p d.toNat (fun l =>
        (s.dataV a.toNat (w.toNat + 1) l).map Word.ofData)).advance)

/-- R223, R226, R227, R228, R229, R341, R342, R343: Under a true guard and with readable operands each uniform arithmetic instruction completes and writes the results of the lane instruction of the same name to the uniform registers, poison where a source is poison; movi writes the sign-extended immediate, movl and movh replace a half of the old word. -/
def Obligations.UniformArithmetic : Prop :=
  ∀ (s : State) (d a b : BitVec 6) (g : BitVec 3),
    (∀ t : BitVec 1, let k := t.toNat + 1
      s.FitS g (unames3 d.toNat a.toNat b.toNat k) → s.ReadsS [(a.toNat, k), (b.toNat, k)] →
      let put := fun (f : BitVec 32 → BitVec 32 → BitVec 32) (h : BitVec 64 → BitVec 64 → BitVec 64) => s.setSs d.toNat
        (arithOf k (s.sRun a.toNat k ++ s.sRun b.toNat k)
          (if t = 1 then halves (h (s.s64 a.toNat) (s.s64 b.toNat)) else [f (s.s a.toNat).data (s.s b.toNat).data]))
      exec (.sAdd d a b t g) s = .next (put (· + ·) (· + ·)).advance ∧
      exec (.sSub d a b t g) s = .next (put (· - ·) (· - ·)).advance ∧
      exec (.sMul d a b t g) s = .next (put (· * ·) (· * ·)).advance) ∧
    (s.FitS g (unames3 d.toNat a.toNat b.toNat 1) → s.ReadsS [(a.toNat, 1), (b.toNat, 1)] →
      let put := fun (f : BitVec 32 → BitVec 32 → BitVec 32) => s.setSs d.toNat
        (arithOf 1 (s.sRun a.toNat 1 ++ s.sRun b.toNat 1) [f (s.s a.toNat).data (s.s b.toNat).data])
      (∀ sg : BitVec 1, exec (.sMulh d a b sg g) s = .next (put (fun x y =>
        if sg = 1 then BitVec.ofInt 32 (x.toInt * y.toInt / 2 ^ 32) else BitVec.ofNat 32 (x.toNat * y.toNat / 2 ^ 32))).advance) ∧
      exec (.sAnd d a b g) s = .next (put (fun x y => x &&& y)).advance ∧
      exec (.sOr d a b g) s = .next (put (fun x y => x ||| y)).advance ∧
      exec (.sXor d a b g) s = .next (put (fun x y => x ^^^ y)).advance ∧
      exec (.sAndn d a b g) s = .next (put (fun x y => x &&& ~~~ y)).advance ∧
      exec (.sShl d a b g) s = .next (put (fun x y => x <<< (y.toNat % 32))).advance ∧
      exec (.sShr d a b g) s = .next (put (fun x y => x >>> (y.toNat % 32))).advance ∧
      exec (.sSar d a b g) s = .next (put (fun x y => x.sshiftRight (y.toNat % 32))).advance) ∧
    (s.FitS g (unames2 d.toNat a.toNat 1) → s.ReadsS [(a.toNat, 1)] →
      let put := fun (f : BitVec 32 → BitVec 32) => s.setSs d.toNat (arithOf 1 (s.sRun a.toNat 1) [f (s.s a.toNat).data])
      (∀ i : BitVec 10, exec (.sAddi d a i g) s = .next (put (fun x => x + i.signExtend 32)).advance ∧
        exec (.sAndi d a i g) s = .next (put (fun x => x &&& i.signExtend 32)).advance ∧
        exec (.sOri d a i g) s = .next (put (fun x => x ||| i.signExtend 32)).advance ∧
        exec (.sXori d a i g) s = .next (put (fun x => x ^^^ i.signExtend 32)).advance) ∧
      (∀ k : BitVec 5, exec (.sShli d a k g) s = .next (put (fun x => x <<< k.toNat)).advance ∧
        exec (.sShri d a k g) s = .next (put (fun x => x >>> k.toNat)).advance)) ∧
    (s.FitS g ⟨[], [(d.toNat, 1)]⟩ → ∀ i : BitVec 16,
      exec (.sMovi d i g) s = .next (s.setSs d.toNat [Word.ofData (i.signExtend 32)]).advance ∧
      (s.ReadsS [(d.toNat, 1)] →
        exec (.sMovl d i g) s = .next (s.setSs d.toNat (arithOf 1 (s.sRun d.toNat 1) [(s.s d.toNat).data.extractLsb' 16 16 ++ i])).advance ∧
        exec (.sMovh d i g) s = .next (s.setSs d.toNat (arithOf 1 (s.sRun d.toNat 1) [i ++ (s.s d.toNat).data.extractLsb' 0 16])).advance))

/-- R221, R275, R279, R282, R283, R284, R285, R286, R341, R342, R343: Under a true guard, mov copies words with their residues (a pair with a poisoned word as poison), sel chooses by a healthy uniform predicate other than q7 (selector 7 with a third operand is ILLEGAL_INSN whatever the guard), min and max choose by value and never a poisoned operand against a clean one, cmp and cmpi of unpoisoned operands write their condition and qset its truth-table entry to a uniform predicate other than q7. -/
def Obligations.UniformChoiceAndPredicates : Prop :=
  ∀ (s : State) (d a b : BitVec 6) (g : BitVec 3),
    (∀ w : BitVec 1, let k := w.toNat + 1
      (s.FitS g (unames2 d.toNat a.toNat k) → s.ReadsS [(a.toNat, k)] →
        exec (.sMov d a w g) s = .next (s.setSs d.toNat (copyOf (s.sRun a.toNat k))).advance) ∧
      (s.FitS g (unames3 d.toNat a.toNat b.toNat k) → s.ReadsS [(a.toNat, k), (b.toNat, k)] →
        (∀ (n : BitVec 3) (c : Bool), n ≠ 7 → s.q n.toNat = some c →
          exec (.sSel d a b w n g) s = .next (s.setSs d.toNat (copyOf (if c then s.sRun a.toNat k else s.sRun b.toNat k))).advance) ∧
        (∀ u : BitVec 1, let val := fun n => valueOf (w = 1) (u = 0) (s.s n).data (s.s (n + 1)).data
          exec (.sMin d a b w u g) s = .next (s.setSs d.toNat
            (chosenOf false (s.sRun a.toNat k) (s.sRun b.toNat k) (val a.toNat) (val b.toNat))).advance ∧
          exec (.sMax d a b w u g) s = .next (s.setSs d.toNat
            (chosenOf true (s.sRun a.toNat k) (s.sRun b.toNat k) (val a.toNat) (val b.toNat))).advance)) ∧
      exec (.sSel d a b w 7 g) s = .next (s.illegal s.g.exec) ∧
      (∀ (q c : BitVec 3), q ≠ 7 → s.FitS g ⟨[], [(a.toNat, k), (b.toNat, k)]⟩ → s.ReadsS [(a.toNat, k), (b.toNat, k)] →
        s.CleanS [(a.toNat, k), (b.toNat, k)] →
        exec (.sCmp q a b w c g) s = .next (s.setQ q.toNat
          (condHolds c (w = 1) (s.s a.toNat).data (s.s (a.toNat + 1)).data (s.s b.toNat).data (s.s (b.toNat + 1)).data)).advance)) ∧
    (∀ (q c : BitVec 3) (i : BitVec 7), q ≠ 7 → s.FitS g ⟨[], [(a.toNat, 1)]⟩ → s.ReadsS [(a.toNat, 1)] → s.CleanS [(a.toNat, 1)] →
      exec (.sCmpi q a c i g) s = .next (s.setQ q.toNat (condHolds c false (s.s a.toNat).data 0 (i.signExtend 32) 0)).advance) ∧
    (∀ (q x y : BitVec 3) (t : BitVec 4) (u v : Bool), q ≠ 7 → s.FitS g ⟨[], []⟩ → s.q x.toNat = some u → s.q y.toNat = some v →
      exec (.sQset q x y t g) s = .next (s.setQ q.toNat (t.getLsbD (2 * u.toNat + v.toNat))).advance)

/-- R122, R123, R130, R144, R149, R151, R256, R341, R344, R345, R346, R347: rds of an assigned register that the mode may read writes its value (one or two words) to uniform registers, or with v = 1 each lane's value to every lane of EXEC, or of the replay mask when there is one; wrs writes the writable registers: %spill with bits 3:0 cleared, %jcb with bits 5:0, %ktab and %htab with bits 11:0 cleared, %kpc and %hpc whole, of %kcause and %hcause only the scratch bits 31:29, each that register alone; setfmt writes FMT from a register below 2^19 or from its 19-bit immediate; wrexec narrows EXEC to the register's bits within BIND or to the lanes whose predicate is true. -/
def Obligations.SpecialRegisters : Prop :=
  (∀ (s : State) (d a b : BitVec 6) (g : BitVec 3), s.onKiln = false →
    (specAssigned a.toNat = true → s.specDenied a.toNat = false → let k := if specWide a.toNat then 2 else 1
      (specPerLane a.toNat = false → s.FitS g ⟨[], [(d.toNat, k)]⟩ →
        exec (.sRds d a 0 g) s = .next (s.setSs d.toNat (wordsOf k (s.special a.toNat 0))).advance) ∧
      (s.FitS g ⟨[(d.toNat, k)], []⟩ →
        exec (.sRds d a 1 g) s = .next ((lanesOf s.baseLanes).foldl (fun t l =>
          (wordsOf k (s.special a.toNat l)).zipIdx.foldl (fun t w => t.setV (d.toNat + w.2) l w.1) t) s).advance)) ∧
    (specWritable a.toNat = true → s.writeDenied a.toNat = false → let k := if specWide a.toNat then 2 else 1
      s.FitS g ⟨[], [(b.toNat, k)]⟩ → s.ReadsS [(b.toNat, k)] → s.CleanS [(b.toNat, k)] →
      exec (.sWrs a b g) s = .next (s.setSpecial a.toNat
        (if k = 2 then s.s64 b.toNat else (s.s b.toNat).data.zeroExtend 64)).advance) ∧
    (s.FitS g ⟨[], [(a.toNat, 1)]⟩ → s.ReadsS [(a.toNat, 1)] → s.CleanS [(a.toNat, 1)] →
      ((s.s a.toNat).data.toNat < 2 ^ 19 →
        exec (.sSetfmt a g) s = .next ({ s with g := { s.g with fmt := (s.s a.toNat).data } } : State).advance) ∧
      exec (.sWrexec a g) s = .next ({ s with g := { s.g with exec := (s.s a.toNat).data &&& s.g.bind } } : State).advance) ∧
    (s.FitS g ⟨[], []⟩ →
      (∀ i : BitVec 1, exec (.sSetfmtImm d a b i g) s =
        .next ({ s with g := { s.g with fmt := (i ++ d ++ a ++ b).zeroExtend 32 } } : State).advance) ∧
      (∀ (n : BitVec 3) (c : Nat → Bool), (∀ l, l ∈ lanesOf s.g.exec → s.p n.toNat l = some (c l)) →
        exec (.sWrexecP n g) s =
          .next ({ s with g := { s.g with exec := maskOf ((lanesOf s.g.exec).filter c) } } : State).advance))) ∧
  (∀ (s : State) (x : BitVec 64),
    s.setSpecial 0x08 x = { s with g := { s.g with spill := x &&& ~~~ 0xf#64 } } ∧
    s.setSpecial 0x09 x = { s with g := { s.g with jcb := x &&& ~~~ 0x3f#64 } } ∧
    s.setSpecial 0x12 x = { s with g := { s.g with priv := { s.g.priv with kpc := x } } } ∧
    s.setSpecial 0x16 x = { s with g := { s.g with priv := { s.g.priv with ktab := x &&& ~~~ 0xfff#64 } } } ∧
    s.setSpecial 0x18 x = { s with g := { s.g with priv := { s.g.priv with hpc := x } } } ∧
    s.setSpecial 0x1b x = { s with g := { s.g with priv := { s.g.priv with htab := x &&& ~~~ 0xfff#64 } } } ∧
    (∃ c, s.setSpecial 0x13 x = { s with g := { s.g with priv := { s.g.priv with kcause := c } } } ∧
      c.extractLsb' 29 3 = x.extractLsb' 29 3 ∧ c.extractLsb' 0 29 = s.g.priv.kcause.extractLsb' 0 29) ∧
    (∃ c, s.setSpecial 0x19 x = { s with g := { s.g with priv := { s.g.priv with hcause := c } } } ∧
      c.extractLsb' 29 3 = x.extractLsb' 29 3 ∧ c.extractLsb' 0 29 = s.g.priv.hcause.extractLsb' 0 29))

/-- R127, R128, R129, R134, R145, R348, R349, R350, R351, R355, R356, R358: Under a true guard: b and jmpu transfer to an aligned target and pop the loop entries it leaves; call and callu push a link, slide the window and transfer without popping loops; ret, of a group in either mode whose link returns to no window below that of the team stack's innermost entry, pops the link and restores window and loop depth; enter sets F and the window's top; loop opens an entry (or skips the body on a zero count); lbrk drops the innermost entry; nop only completes and sleep holds for 16 × n ck. The moves of ret and enter wait for the results pending in the registers they spill. A transfer holds the next issue until the pending set is empty. -/
def Obligations.UniformControlFlow : Prop :=
  ∀ (s : State) (g : BitVec 3),
    (s.FitS g ⟨[], []⟩ →
      (∀ d : BitVec 22, let t := s.g.pc + 4 * d.signExtend 64
        t.toNat % 4 = 0 → exec (.sB d g) s = .next (s.transfer t (popLoops t s.g.loops))) ∧
      exec (.sNop g) s = .next s.advance ∧
      (∀ n : BitVec 10, exec (.sSleep n g) s = .next (if n = 0 then s.advance else s.hold (.sleep (16 * n.toNat)))) ∧
      exec (.sLbrk g) s = .next ({ s with g := { s.g with loops := s.g.loops.tail, pc := s.g.pc + 4 } } : State).finish ∧
      (s.onKiln = false →
        (∀ (sl : BitVec 6) (d : BitVec 16) (s1 : State), let t := s.g.pc + 4 * d.signExtend 64
          sl.toNat < s.g.frame → t.toNat % 4 = 0 → s.pushLink (s.g.pc + 4) sl.toNat = some s1 →
          exec (.sCall sl d g) s = .next (s1.transfer t s1.g.loops)) ∧
        (∀ (n : BitVec 10) (s1 : State), 1 ≤ n.toNat → n.toNat ≤ 64 → s.setWindow s.g.wb.toNat n.toNat = some s1 →
          exec (.sEnter n g) s = .next (if s.spillsPending (s.g.wb.toNat + n.toNat) then s.hold .retry else s1.advance)) ∧
        (∀ (s1 s2 : State) (ws : List Word),
          s.g.spill.toNat ≠ linkBase s.tm s.g.idx → (s.g.priv.kdepth = 0 ∨ s.g.spill.toNat ≠ frameEnd s.tm s.g) →
          s.areaRead (s.g.spill - 16).toNat 4 = (s1, some ws) → (∀ w ∈ ws, w.checks = true ∧ w.isPoison = false) →
          ofWords ws % 4 = 0 → s1.belowTop (field (ofWords ws) 64 16) = false →
          s1.spillsPending (field (ofWords ws) 64 16 + field (ofWords ws) 80 7) = false →
          ({ s1 with g := { s1.g with spill := s.g.spill - 16 } } : State).setWindow (field (ofWords ws) 64 16) (field (ofWords ws) 80 7) = some s2 →
          exec (.sRet g) s = .next (s2.transfer (BitVec.ofNat 64 (ofWords ws))
            (s2.g.loops.drop (s2.g.loops.length - field (ofWords ws) 87 3)))))) ∧
    (∀ a : BitVec 6, s.FitS g ⟨[], [(a.toNat, 2)]⟩ → s.ReadsS [(a.toNat, 2)] → s.CleanS [(a.toNat, 2)] → (s.s64 a.toNat).toNat % 4 = 0 →
      exec (.sJmpu a g) s = .next (s.transfer (s.s64 a.toNat) (popLoops (s.s64 a.toNat) s.g.loops)) ∧
      (∀ (sl : BitVec 6) (s1 : State), s.onKiln = false → sl.toNat < s.g.frame → s.pushLink (s.g.pc + 4) sl.toNat = some s1 →
        exec (.sCallu a sl g) s = .next (s1.transfer (s.s64 a.toNat) s1.g.loops))) ∧
    (∀ (a : BitVec 6) (e : BitVec 10), e ≠ 0 → s.FitS g ⟨[], [(a.toNat, 1)]⟩ → s.ReadsS [(a.toNat, 1)] → s.CleanS [(a.toNat, 1)] →
      let stop := s.g.pc + 4 * e.zeroExtend 64
      ((s.s a.toNat).data = 0 → exec (.sLoop a e g) s = .next (s.transfer (stop + 4) (popLoops (stop + 4) s.g.loops))) ∧
      ((s.s a.toNat).data ≠ 0 → s.g.loops.length < 4 → exec (.sLoop a e g) s = .next ({ s with g := { s.g with
        loops := ⟨s.g.pc + 4, stop, (s.s a.toNat).data.zeroExtend 64⟩ :: s.g.loops
        pc := s.g.pc + 4 } } : State).finish))

/-- R124, R137, R138, R139, R141, R142, R146, R147, R352, R353, R354, R357: bu goes on when no lane's predicate is true and transfers when every lane's is; bd in group mode does the same and, when the lanes differ, pushes a sub-entry whose pending lanes are those not taken and runs the taken ones at the target; in compact mode it waits at the meeting, groups that wait at another bd trapping. jmpi and calli take the lanes of the lowest target, whose word is a pad with their tag, there (calli pushing a link): in group mode targets that differ push or renew an indirect sub-entry with the other lanes pending, in compact mode they trap; with EXEC zero both go to their join. pad only completes. exit removes its lanes: a group that keeps a bound lane goes on, one that keeps none inside a path goes on to its join or stop, and one outside every path has exited; either way the team's paths and barriers settle. -/
def Obligations.LaneControlFlow : Prop :=
  ∀ (s : State), s.onKiln = false →
    (∀ (c : BitVec 3), (s.predLanes c.toNat).faulty = 0 → let yes := (s.predLanes c.toNat).lanes
      (∀ d : BitVec 22, let tgt := s.g.pc + 4 * d.signExtend 64
        (yes = 0 → exec (.vBu c d) s = .next s.advance) ∧
        (yes ≠ 0 → yes = s.baseLanes → exec (.vBu c d) s = .next (s.transfer tgt (popLoops tgt s.g.loops)))) ∧
      (∀ t j : BitVec 11, t ≠ 0 → 0 < j.toInt → s.tm.compact = false →
        let tgt := s.g.pc + 4 * t.signExtend 64
        (yes = 0 → exec (.vBd c t j) s = .next s.advance) ∧
        (yes ≠ 0 → yes = s.baseLanes → exec (.vBd c t j) s = .next (s.transfer tgt (popLoops tgt s.g.loops))) ∧
        (yes ≠ 0 → yes ≠ s.baseLanes → ∀ s1 : State,
          s.pushSub (s.newSub (s.g.pc + 4 * j.signExtend 64) (s.g.pc + 4) (s.g.exec &&& ~~~ yes) false) = some s1 →
          exec (.vBd c t j) s = .next (({ s1 with g := { s1.g with exec := yes } } : State).transfer tgt (popLoops tgt s.g.loops)))) ∧
      (∀ t j : BitVec 11, t ≠ 0 → 0 < j.toInt → s.tm.compact = true →
        let waiting := (levelGroups s.mergedTeam).filter (fun q => atMeet q.2 && q.1 != s.g.idx)
        ((∃ q ∈ waiting, q.2.pc ≠ s.g.pc) → exec (.vBd c t j) s = .next (s.convTrap (waiting.map (·.1) ++ [s.g.idx]) 1)) ∧
        ((∀ q ∈ waiting, q.2.pc = s.g.pc ∧ q.2.fmt = s.g.fmt ∧ q.2.wb = s.g.wb ∧ q.2.frame = s.g.frame ∧ q.2.loops = s.g.loops) →
          s.g.exec = s.g.bind → s.settled = true →
          exec (.vBd c t j) s =
            .next (({ s with g := { s.g with waitI := (encode (.vBd c t j)).getD 0 } } : State).hold .meet).settleTeam))) ∧
    (∀ e : Sub, s.g.subs.length < subHw s.tm → s.pushSub e = some { s with g := { s.g with subs := e :: s.g.subs } }) ∧
    (∀ (a : BitVec 6) (tag : BitVec 8) (tgt : Nat) (s1 : State) (w : Word),
      s.namesOk ⟨[(a.toNat, 2)], []⟩ = true → s.namesPending ⟨[(a.toNat, 2)], []⟩ = false →
      (s.g.exec = 0 →
        (∀ j : BitVec 11, 0 < j.toInt → exec (.vJmpi a tag j) s = .next (s.transfer (s.g.pc + 4 * j.signExtend 64)
          (popLoops (s.g.pc + 4 * j.signExtend 64) s.g.loops))) ∧
        (∀ sl : BitVec 6, sl.toNat < s.g.frame →
          exec (.vCalli a tag sl) s = .next (s.transfer (s.g.pc + 4) (popLoops (s.g.pc + 4) s.g.loops)))) ∧
      (∀ f : Nat → Nat, s.g.exec ≠ 0 → (∀ l ∈ lanesOf s.baseLanes, s.laneTarget a.toNat l = .ok (f l)) →
        (∃ l ∈ lanesOf s.baseLanes, f l = tgt) → (∀ l ∈ lanesOf s.baseLanes, tgt ≤ f l) →
        let lt := maskOf ((lanesOf s.baseLanes).filter (fun l => f l == tgt))
        let many := (lanesOf s.baseLanes).any (fun l => f l != tgt)
        let t := BitVec.ofNat 64 tgt
        let go := fun (u : State) (loops : List Loop) =>
          ({ u with g := { u.g with exec := lt ||| (s.g.exec &&& ~~~ s.baseLanes) } } : State).transfer t loops
        (s.tm.compact = true → many = true →
          (∀ j : BitVec 11, 0 < j.toInt → exec (.vJmpi a tag j) s = .next (s.raiseAll cConverge 8 s.baseLanes)) ∧
          (∀ sl : BitVec 6, sl.toNat < s.g.frame → exec (.vCalli a tag sl) s = .next (s.raiseAll cConverge 8 s.baseLanes))) ∧
        ((s.tm.compact = false ∨ many = false) → s.fetchAt tgt = (s1, .ok w) →
          w.checks = true → w.isPoison = false → decode w.data = .ok (.vPad tag) → ∀ s2 : State,
          (∀ j : BitVec 11, 0 < j.toInt → s1.indirectPush lt many (s.g.pc + 4 * j.signExtend 64) none = some s2 →
            exec (.vJmpi a tag j) s = .next (go s2 (popLoops t s.g.loops))) ∧
          (∀ sl : BitVec 6, sl.toNat < s.g.frame → s1.indirectPush lt many (s.g.pc + 4) (some sl.toNat) = some s2 →
            exec (.vCalli a tag sl) s = .next (go s2 s.g.loops))))) ∧
    (∀ (lt : BitVec 32) (many : Bool) (join : Addr),
      (∀ k : Nat, s.indirectPush lt many join (some k) = (s.indirectPush lt many join none).bind (·.pushLink (s.g.pc + 4) k)) ∧
      (s.tm.compact = true → s.indirectPush lt many join none = some s) ∧
      (s.tm.compact = false →
        (∀ (e : Sub) (r : List Sub), s.g.subs = e :: r → e.indirect = true → e.pendPc = s.g.pc → s.g.exec &&& ~~~ e.pend = 0 →
          s.indirectPush lt many join none = s.setSub { e with pend := s.baseLanes &&& ~~~ lt }) ∧
        ((∀ (e : Sub) (r : List Sub), s.g.subs = e :: r → e.indirect = false ∨ e.pendPc ≠ s.g.pc ∨ s.g.exec &&& ~~~ e.pend ≠ 0) →
          s.indirectPush lt many join none =
            if many then s.pushSub (s.newSub join s.g.pc (s.baseLanes &&& ~~~ lt) true) else some s))) ∧
    (∀ tag : BitVec 8, exec (.vPad tag) s = .next s.advance) ∧
    (∀ p : BitVec 3, (s.act p.toNat).faulty = 0 → let m := (s.act p.toNat).lanes
      (s.g.bind &&& ~~~ m ≠ 0 → exec (.vExit p) s =
        .next ({ s with g := { s.g with exec := s.g.exec &&& ~~~ m, bind := s.g.bind &&& ~~~ m } } : State).advance) ∧
      (s.g.bind &&& ~~~ m = 0 → (if s.tm.compact then s.tm.stack = [] else s.g.subs = []) → exec (.vExit p) s =
        .next ({ s with g := { s.g with exec := s.g.exec &&& ~~~ m, bind := 0, exited := true, latch := none, pend := 0, wait := .none, pc := s.g.pc + 4, step := false } } : State).settleTeam) ∧
      (s.g.bind &&& ~~~ m = 0 → (if s.tm.compact then s.tm.stack ≠ [] else s.g.subs ≠ []) → exec (.vExit p) s =
        .next ({ s with g := { s.g with exec := s.g.exec &&& ~~~ m, bind := 0, latch := none, step := false, sbase := [] } } : State).advance.settleTeam)) ∧
    (∀ g : BitVec 3, s.FitS g ⟨[], []⟩ →
      ((if s.tm.compact then s.tm.stack = [] else s.g.subs = []) → exec (.sExit g) s =
        .next ({ s with g := { s.g with exec := 0, bind := 0, exited := true, latch := none, pend := 0, wait := .none, pc := s.g.pc + 4, step := false } } : State).settleTeam) ∧
      ((if s.tm.compact then s.tm.stack ≠ [] else s.g.subs ≠ []) → exec (.sExit g) s =
        .next ({ s with g := { s.g with exec := 0, bind := 0, latch := none, step := false, sbase := [] } } : State).advance.settleTeam))

/-- R132, R135, R306, R308, R309, R310, R320: When every active lane's address passes its checks, the words not held in L1 are asked for at their homes, the destination enters the pending set for l + 1 instructions and the group goes on (or waits at the instruction when l is 0); no register is written at issue. A load with no active lane only completes. -/
def Obligations.GlobalLoads : Prop :=
  ∀ (s s1 s2 : State) (good : List (Nat × Nat × Target)) (ns : List PendLane),
    (∀ (z : BitVec 3) (t a b : BitVec 6) (la : BitVec 4) (p : BitVec 3), z.toNat ≤ 4 → let n := 2 ^ z.toNat
      s.FitV p ((addrNames a.toNat b.toNat).add ⟨[(t.toNat, regsOf n)], []⟩) → psetSize s.g + regsOf n ≤ 8 →
      s.Passes (fun s l => s.vAddr a.toNat b.toNat l) noExtra n .load false (lanesOf (s.act p.toNat).lanes) s1 good →
      s1.startLoads n good = some (s2, ns) →
      (ns = [] → exec (.vLd z t a b la p) s = .next ({ s2 with glitch := 0 } : State).advance) ∧
      (ns ≠ [] → exec (.vLd z t a b la p) s =
        .next (({ s2 with glitch := 0 } : State).openWindow (.lane t.toNat (regsOf n)) la.toNat false ns))) ∧
    (∀ (t a : BitVec 6) (z : BitVec 2) (o la : BitVec 4) (g : BitVec 3) (x : Nat) (tg : Target), z.toNat < 3 → let n := 4 * 2 ^ z.toNat
      s.FitS g ⟨[], [(a.toNat, 2), (t.toNat, n / 4)]⟩ → psetSize s.g + n / 4 ≤ 8 → ns ≠ [] → (s.onKiln = true → releaseReady s.g = true) →
      s.Passes (fun s _ => s.uAddr a.toNat (o.toNat * n)) noExtra n .load true [uniLane] s1 [(uniLane, x, tg)] →
      s1.startLoads n [(uniLane, x, tg)] = some (s2, ns) →
      exec (.sSld t a z o la g) s =
        .next (({ s2 with glitch := 0 } : State).openWindow (.uniform t.toNat (n / 4)) la.toNat false ns))

/-- R183, R184, R185, R203, R306, R308, R309, R311, R312, R320: When every active lane's address and data pass and none starts a copy, the lanes' bytes are stored in ascending lane order, new L1 words are registered and writes to homes sent, and the instruction completes. cpy is st.b64; with every lane's store aimed at the copy aperture of the address space it admits one job a lane, while the team's unstarted jobs stay below 64 and no earlier write of the group is outstanding. -/
def Obligations.GlobalStores : Prop :=
  ∀ (s s1 s2 : State) (good : List (Nat × Nat × Target)) (acc : StoreAcc),
    (∀ (t a b : BitVec 6) (z p : BitVec 3), z.toNat ≤ 4 → let n := 2 ^ z.toNat
      s.FitV p ((addrNames a.toNat b.toNat).add ⟨[(t.toNat, regsOf n)], []⟩) →
      s.Passes (fun s l => s.vAddr a.toNat b.toNat l) (vStoreBad t.toNat (regsOf n)) n .store false
        (lanesOf (s.act p.toNat).lanes) s1 good →
      (noStarts good →
        storeLanes (State.vDataWords t.toNat (regsOf n)) n (StoreAcc.start s1 good) good = some acc → (s1.giveUp acc).2 = false →
        acc.finish = some s2 →
        exec (.vSt t a b z p) s = .next ({ s2 with glitch := 0 } : State).advance ∧
        (z = 3 → exec (.vCpy t a b p) s = .next ({ s2 with glitch := 0 } : State).advance)) ∧
      (z = 3 → (∀ x ∈ good, ∃ ch, x.2.2 = .aperture ch) → s1.g.outst = 0 →
        (({ s1 with glitch := 0 } : State).startCopies (State.vDataWords t.toNat 2) good) = (s2, []) →
        exec (.vSt t a b z p) s = .next s2.advance ∧ exec (.vCpy t a b p) s = .next s2.advance)) ∧
    (∀ (t a o : BitVec 6) (z g : BitVec 3), z.toNat ≤ 4 → let n := 2 ^ z.toNat
      s.FitS g ⟨[], [(a.toNat, 2), (t.toNat, regsOf n)]⟩ →
      (s.onKiln = true → releaseReady s.g = true) →
      s.Passes (fun s _ => s.uAddr a.toNat (o.toNat * n)) (uStoreBad t.toNat (regsOf n)) n
        .store true [uniLane] s1 good → noStarts good →
      storeLanes (State.uData t.toNat (regsOf n)) n (StoreAcc.start s1 good) good = some acc → (s1.giveUp acc).2 = false →
      acc.finish = some s2 →
      exec (.sSst t a o z g) s = .next ({ s2 with glitch := 0 } : State).advance)

/-- R203, R314, R315, R316, R317, R318, R319, R320: With legal codes, no release to wait for, every active lane's address and operands passing and no earlier write of the group to their words under way, an atomic sends one operation a lane and holds the group until its old values come (with no active lane it only completes), a reduction sends its operations and completes; satom does the same for the group, and under a false guard only completes; a prefetch asks for the lines it can and completes whatever its addresses; a discard of memory lines sends one DISCARD a line and completes. -/
def Obligations.AtomicsPrefetchDiscard : Prop :=
  ∀ (s s1 s2 : State) (good : List (Nat × Nat × Target)),
    (∀ (t a : BitVec 6) (sc o : BitVec 3) (k : BitVec 4) (p : BitVec 3), let n := aopBytes k.toNat
      s.FitV p ⟨[(a.toNat, 2), (t.toNat, aopRegs k.toNat)], []⟩ → (ordRel o.toNat = true → releaseReady s.g = true) →
      (aopLegal false sc.toNat o.toNat k.toNat = true → (s.act p.toNat).lanes = 0 →
        exec (.vAtom t a sc o k p) s = .next ({ s with freeNo := s.freeNo + 32 } : State).advance) ∧
      (let passes := fun red => s.Passes (fun s l => s.vAddr a.toNat 63 l)
          (bothChecks (fun s l => s.vAtomBad t.toNat (aopRegs k.toNat) l) (windowForm k.toNat red)) n .atomic true
          (lanesOf (s.act p.toNat).lanes) s1 good;
        (∀ q ∈ piecesIn good, s1.ownWritten q.tag q.idx = false) →
        (aopLegal true sc.toNat o.toNat k.toNat = true → passes true →
          ({ s1 with freeNo := s1.freeNo + 32 } : State).atomLanes k.toNat true s1.g.nextId (State.vDataWords t.toNat (aopRegs k.toNat))
            (good.foldr (insertFree s1.freeNo) []) = some s2 →
          exec (.vRed t a sc o k p) s = .next ({ s2 with glitch := 0 } : State).advance) ∧
        (aopLegal false sc.toNat o.toNat k.toNat = true → passes false → (∀ x ∈ good, ∃ ps, x.2.2 = .memory ps) →
          let pend := s1.addPend (.lane t.toNat (aopOld k.toNat)) (good.map (fun x => ⟨x.1, 0, n, []⟩)) false
          ({ pend with freeNo := pend.freeNo + 32 } : State).atomLanes k.toNat false s1.g.nextId
            (State.vDataWords t.toNat (aopRegs k.toNat)) (good.foldr (insertFree s1.freeNo) []) = some s2 →
          s2.g.pset.any (fun e => e.id == s1.g.nextId) = true →
            exec (.vAtom t a sc o k p) s =
              .next (({ s2 with glitch := 0, g := { s2.g with waitI := (encode (.vAtom t a sc o k p)).getD 0, due := none } } : State).hold (.atom s1.g.nextId))))) ∧
    (∀ (t a : BitVec 6) (sc o : BitVec 3) (k : BitVec 4) (g : BitVec 3), aopLegal false sc.toNat o.toNat k.toNat = true →
      let ns : Names := ⟨[], [(a.toNat, 2), (t.toNat, aopRegs k.toNat)]⟩
      (s.namesOk ns = true → s.namesPending ns = false → s.q g.toNat = some false → exec (.sSatom t a sc o k g) s = .next s.advance) ∧
      (∀ (x : Nat) (ps : List Piece), s.FitS g ns → (s.onKiln = true ∨ ordRel o.toNat = true → releaseReady s.g = true) →
        s.Passes (fun s _ => s.uAddr a.toNat 0) (bothChecks (fun s _ => s.uUseBad t.toNat (aopRegs k.toNat)) (windowForm k.toNat false))
          (aopBytes k.toNat) .atomic true [uniLane] s1 [(uniLane, x, .memory ps)] →
        (∀ q ∈ ps, s1.ownWritten q.tag q.idx = false) →
        let pend := s1.addPend (.uniform t.toNat (aopOld k.toNat)) [⟨uniLane, 0, aopBytes k.toNat, []⟩] false
        ({ pend with freeNo := pend.freeNo + 32 } : State).atomLanes k.toNat false s1.g.nextId
          (State.uData t.toNat (aopRegs k.toNat)) [(uniLane, x, .memory ps)] = some s2 →
        s2.g.pset.any (fun e => e.id == s1.g.nextId) = true →
          exec (.sSatom t a sc o k g) s =
            .next (({ s2 with glitch := 0, g := { s2.g with waitI := (encode (.sSatom t a sc o k g)).getD 0, due := none } } : State).hold (.atom s1.g.nextId)))) ∧
    (∀ (a b : BitVec 6) (p : BitVec 3), s.FitV p (addrNames a.toNat b.toNat) →
      (∃ t u : State, exec (.vPrefL1 a b p) s = .next t.advance ∧ exec (.vPrefL2 a b p) s = .next u.advance ∧
        t.g.sregs = s.g.sregs ∧ u.g.sregs = s.g.sregs ∧ t.tm.vregs = s.tm.vregs ∧ u.tm.vregs = s.tm.vregs ∧
        t.g.pset = s.g.pset ∧ u.g.pset = s.g.pset ∧ t.g.pc = s.g.pc ∧ u.g.pc = s.g.pc) ∧
      (s.Passes (fun s l => s.vAddr a.toNat b.toNat l) discForm 1 .store false (lanesOf (s.act p.toNat).lanes) s1 good →
        s1.sendDiscs (linesOf good) = some s2 →
        exec (.vDisc a b p) s = .next ({ s2 with glitch := 0 } : State).advance))

/-- R132, R135, R183, R224, R313: When every active lane's offset is aligned and inside its team's scratchpad (its own, or for the cluster forms that of the resident team it names), a load captures the words at issue and opens its window; a store writes the named bytes of each lane's words in ascending lane order and completes, changing no other scratchpad word. -/
def Obligations.Scratchpad : Prop :=
  ∀ (s : State) (at_ : Nat → ScrAt),
    (∀ (t a : BitVec 6) (z : BitVec 2) (o la : BitVec 4) (p : BitVec 3), z.toNat < 3 → let n := 4 * 2 ^ z.toNat
      s.FitV p ⟨[(a.toNat, 1), (t.toNat, n / 4)], []⟩ → psetSize s.g + n / 4 ≤ 8 → (s.act p.toNat).lanes ≠ 0 →
      let go : State := s.openWindow (.lane t.toNat (n / 4)) la.toNat false ((lanesOf (s.act p.toNat).lanes).map (fun l =>
        ⟨l, 0, n, (List.range (n / 4)).map (fun i => ⟨0, 0, some (s.scrWord (at_ l).1 ((at_ l).2 / 4 + i))⟩)⟩))
      ((∀ l, s.active p l → s.scrAddr false false a.toNat o.toNat n l = .ok (at_ l)) → exec (.vLds t a z o la p) s = .next go) ∧
      ((∀ l, s.active p l → s.scrAddr true false a.toNat o.toNat n l = .ok (at_ l)) → exec (.vLdcl t a z o la p) s = .next go)) ∧
    (∀ (t a o : BitVec 6) (z p : BitVec 3), z.toNat ≤ 4 → let n := 2 ^ z.toNat
      s.FitV p ⟨[(a.toNat, 1), (t.toNat, regsOf n)], []⟩ → s.ReadsV p [(t.toNat, regsOf n)] →
      (∀ l, s.active p l → s.scrHeld (at_ l).1 (at_ l).2 n = false) →
      let put := (lanesOf (s.act p.toNat).lanes).foldl (fun u l => (List.range (regsOf n)).foldl (fun u i =>
        let m := byteMask (at_ l).2 n (((at_ l).2 / 4 + i) * 4)
        u.scrWrite (at_ l).1 ((at_ l).2 / 4 + i) m (pieceData (s.vRun t.toNat (regsOf n) l) ((at_ l).2 % 4) i m)) u) s
      ((∀ l, s.active p l → s.scrAddr false true a.toNat o.toNat n l = .ok (at_ l)) → exec (.vSts t a o z p) s = .next put.advance) ∧
      ((∀ l, s.active p l → s.scrAddr true true a.toNat o.toNat n l = .ok (at_ l)) → exec (.vStcl t a o z p) s = .next put.advance))

/-- R327, R328, R331, R332, R334, R335, R337, R338: With all lanes bound and enabled (mma, mdrain) or some lane enabled (mzero, mld, mst), an owned tile, operands that pass and regions inside the scratchpad or translated, and room in its cluster's job table with no other group first to post, the instruction posts one job with its word, format, operands and regions, counts its token and completes; tcheck whose lanes all pass completes; mwait completes with an acquire once the awaited tokens have no job left, else holds the group. -/
def Obligations.MatrixInstructions : Prop :=
  ∀ (s s1 : State) (c : BitVec 8) (k : BitVec 4), s.onKiln = false → c.toNat < s.tm.accN →
    (s.g.exec ≠ 0 → s.mayPost = true → exec (.vMzero c k) s = .next (s.posted ((encode (.vMzero c k)).getD 0) k.toNat [] [tileFp c.toNat] [] [])) ∧
    (∀ (b : BitVec 6) (pages : Table (Nat × Nat × Bool)), s.g.exec ≠ 0 →
      (s.namesOk ⟨[], [(b.toNat, 1)]⟩ = true → s.namesPending ⟨[], [(b.toNat, 1)]⟩ = false →
        s.ReadsS [(b.toNat, 1)] → s.CleanS [(b.toNat, 1)] →
        let off := (s.s b.toNat).data.toNat
        off % 128 = 0 → off + 16384 ≤ 4096 * s.tm.scratchN → s.mayPost = true →
        exec (.vMld b c 1 k) s = .next (s.posted ((encode (.vMld b c 1 k)).getD 0) k.toNat [(1, off, 16384)] [tileFp c.toNat] (s.sRun b.toNat 1) []) ∧
        exec (.vMst b c 1 k) s = .next (s.posted ((encode (.vMst b c 1 k)).getD 0) k.toNat [tileFp c.toNat] [(1, off, 16384)] (s.sRun b.toNat 1) [])) ∧
      (s.namesOk ⟨[], [(b.toNat, 2)]⟩ = true → s.namesPending ⟨[], [(b.toNat, 2)]⟩ = false →
        s.ReadsS [(b.toNat, 2)] → s.CleanS [(b.toNat, 2)] → releaseReady s1.g = true → s1.mayPost = true →
        let base := (s.s64 b.toNat).toNat
        (s.jobRegion .load base 16384 128 [] = (s1, .ok pages) → exec (.vMld b c 0 k) s =
          .next (s1.posted ((encode (.vMld b c 0 k)).getD 0) k.toNat [(0, base, 16384)] [tileFp c.toNat] (s.sRun b.toNat 2) pages)) ∧
        (s.jobRegion .store base 16384 128 [] = (s1, .ok pages) → exec (.vMst b c 0 k) s =
          .next (s1.posted ((encode (.vMst b c 0 k)).getD 0) k.toNat [tileFp c.toNat] [(0, base, 16384)] (s.sRun b.toNat 2) pages)))) ∧
    (∀ (a b : BitVec 6) (r : BitVec 1), s.g.bind = 0xffffffff → s.g.exec = 0xffffffff → s.g.latch = none →
      pairOk (fmA s.g.fmt) (fmB s.g.fmt) = true → isBlock (fmA s.g.fmt) = false → isBlock (fmB s.g.fmt) = false →
      s.namesOk ⟨[(a.toNat, 16)], [(b.toNat, 1)]⟩ = true → s.namesPending ⟨[(a.toNat, 16)], [(b.toNat, 1)]⟩ = false →
      s.ReadsS [(b.toNat, 1)] → s.CleanS [(b.toNat, 1)] → s.rowsBad a.toNat 16 = 0 →
      let off := (s.s b.toNat).data.toNat
      off % 128 = 0 → off + 8192 ≤ 4096 * s.tm.scratchN → s.mayPost = true →
      let t := s.posted ((encode (.vMma a b c r k)).getD 0) k.toNat [(1, off, 8192), tileFp c.toNat] [tileFp c.toNat]
        ((s.rowsOf a.toNat 16).flatten ++ List.replicate 32 Word.zero ++ s.sRun b.toNat 1) []
      s.g.step = false →
      exec (.vMma a b c r k) s = .next ({ t with g := { t.g with latch := if r = 1 then some ⟨0, s.rowsOf a.toNat 16, []⟩ else none } } : State)) ∧
    (∀ (a b : BitVec 6) (z : BitVec 1) (pages : Table (Nat × Nat × Bool)), s.g.bind = 0xffffffff → s.g.exec = 0xffffffff →
      pairOk (fmA s.g.fmt) (fmB s.g.fmt) = true → let o := fmO s.g.fmt
      let sb := scaleBytes o (fmBlk s.g.fmt)
      let rs := drainRuns b.toNat sb
      o ≠ 15 → ¬ (3 ≤ o ∧ o ≤ 6) → b.toNat ≤ 58 → a.toNat < s.g.frame → s.namesPending ⟨[], rs⟩ = false →
      s.ReadsS rs → s.CleanS rs → releaseReady s1.g = true → s1.mayPost = true →
      let ws := drainOps sb (rs.flatMap (fun r => s.sRun r.1 r.2))
      let e := (dat64 ws 0).toNat
      let x := (dat64 ws 2).toNat
      let t := (dat64 ws 4).toNat
      s.jobRegions .store [(e, 32 * rowBytes o, 128), (x, sb, 64), (t, 16, 16)] [] = (s1, .ok pages) →
      exec (.vMdrain a b c z k) s = .next (s1.posted ((encode (.vMdrain a b c z k)).getD 0) k.toNat [tileFp c.toNat]
        ([(0, e, 32 * rowBytes o), (0, x, sb), (0, t, 16)] ++ if z = 1 then [tileFp c.toNat] else [])
        (List.replicate 32 Word.zero ++ ws) pages)) ∧
    (∀ (t a b : BitVec 6) (p : BitVec 3), s.FitV p ((addrNames a.toNat b.toNat).add ⟨[(t.toNat, 4)], []⟩) → s.g.outst = 0 →
      s.checkLanes t.toNat a.toNat b.toNat (lanesOf (s.act p.toNat).lanes) =
        (s1, .done ((lanesOf (s.act p.toNat).lanes).map (fun l => (l, .ok true)))) →
      exec (.vTcheck t a b p) s = .next ({ s1 with glitch := 0, g := { s1.g with checked := [] } } : State).advance) ∧
    (∀ (l : BitVec 1) (g : BitVec 3), s.FitS g ⟨[], []⟩ → exec (.sMwait l k g) s =
      .next (if toksDone s.g k.toNat (l == 1) then (s.acquire 4).advance else s.hold (.mwait k.toNat (l == 1))))

/-- R199, R200, R206, R322, R323, R324, R325, R326: A chsend of the producer with room in the ring, good words and nothing to release sends one SLOT of the active lanes' words (zero elsewhere), counts it and completes; a chrecv of the consumer with a slot present writes its words to the active lanes, acquires, returns a credit and completes; cseal writes the sealed count; cwait with at most n unfinished jobs, and cyield with none, and no fault to report, acquire and complete, cyield at its target. -/
def Obligations.ChannelsAndCopies : Prop :=
  ∀ (s s1 : State) (e : Nat × Nat × Nat × Nat) (t : Team), s.onKiln = false →
    (∀ (a c : BitVec 6) (p : BitVec 3), let ch := c.toNat
      s.FitV p ⟨[(a.toNat, 1)], []⟩ → (s.act p.toNat).lanes ≠ 0 → s.channel ch = some e → e.1 = s.tm.t →
      s.ReadsV p [(a.toNat, 1)] → s.CleanV p [(a.toNat, 1)] → let ep := s.endpoint ch
      (ep.sent - ep.received).toNat < e.2.2.2 → releaseReady s.g = true → s.teamOfGrid e.2.1 = some t →
      s.ask (.slot s.self ch) s.node 6 (fun id => mkPacket 6 0 s.node t.die id (slotWord t ch (ep.sent.toNat % 64)) 0 (t.core / 32 == 1)
        0xffffffff (windowFlits 0xffffffff ((List.range 32).map (fun l => if bit (s.act p.toNat).lanes l then s.v a.toNat l else Word.zero)))) = some s1 →
      exec (.vChsend a c p) s = .next (s1.setEndpoint ch { ep with sent := ep.sent + 1 }).oweWrite.advance) ∧
    (∀ (d c : BitVec 6) (p : BitVec 3), let ch := c.toNat
      s.FitV p ⟨[(d.toNat, 1)], []⟩ → (s.act p.toNat).lanes ≠ 0 → s.channel ch = some e → e.2.1 = s.tm.t → let ep := s.endpoint ch
      let w := fun l => s.scrWord (grpKey s.self) ((e.2.2.1 + 128 * (ep.received.toNat % e.2.2.2)) / 4 + l)
      ep.received ≠ ep.sent → (∀ l, s.active p l → (w l).checks = true) →
      let s2 := ((s.putV p d.toNat (fun l => [w l])).setEndpoint ch { ep with received := ep.received + 1 }).acquire 4
      s2.teamOfGrid e.1 = some t →
      exec (.vChrecv d c p) s = .next (s2.send (mkPacket 6 1 s2.node t.die 0 (slotWord t ch (ep.received + 1).toNat) 0 (t.core / 32 == 1) 0 [])).advance) ∧
    (∀ (d : BitVec 6) (g : BitVec 3), s.FitS g ⟨[], [(d.toNat, 1)]⟩ → let s2 : State := { s with g := sealBatch s.g }
      exec (.sCseal d g) s = .next (s2.setS d.toNat (Word.ofData s2.g.sealed)).advance) ∧
    (∀ g : BitVec 3, s.FitS g ⟨[], []⟩ → reportable s.g = none →
      (∀ n : BitVec 10, unfinished s.g ≤ n.toNat → exec (.sCwait n g) s = .next (s.acquire 4).advance) ∧
      (∀ d : BitVec 22, let dest := s.g.pc + 4 * d.signExtend 64
        unfinished s.g = 0 → dest.toNat % 4 = 0 → exec (.sCyield d g) s = .next ((s.acquire 4).transfer dest (popLoops dest (s.acquire 4).g.loops))))

/-- R148, R186, R204, R206, R361, R362, R365, R367, R368, R369, R370: Outside a pending path with nothing left to release, bar arrives and stalls, arv arrives, arms and goes on, awt of a group whose arrived phase has turned disarms and goes on (else it stalls), gbar of a class-C team stalls; a fence with nothing to wait for acquires where its order says and completes; waitv puts its group's own stores under way to the words first, reads them at their home and completes with an acquire when the condition holds, else waits with its timeout, the first time that of its register, later what is left of it; with none left it raises STARVATION. -/
def Obligations.BarriersFencesWaits : Prop :=
  ∀ (s : State) (g : BitVec 3), s.onKiln = false →
    (s.FitS g ⟨[], []⟩ → s.pathPending = false →
      (∀ b : BitVec 4,
        (releaseReady s.g = true → exec (.sBar b g) s = .next ((s.arriveBar b.toNat).hold (.bar b.toNat)).settleTeam) ∧
        (releaseReady s.g = true → bit (s.bar b.toNat).armed s.g.idx = false → exec (.sArv b g) s =
          .next (((s.arriveBar b.toNat).modBar b.toNat (fun x => { x with armed := x.armed ||| slotBit s.g.idx })).advance).settleTeam) ∧
        (bit (s.bar b.toNat).armed s.g.idx = true → exec (.sAwt b g) s = .next (if bit (s.bar b.toNat).arrived s.g.idx
          then (s.hold (.awt b.toNat)).settleTeam
          else (s.modBar b.toNat (fun x => { x with armed := x.armed &&& ~~~ slotBit s.g.idx })).advance))) ∧
      (releaseReady s.g = true → field s.tm.mode.toNat 0 2 = 0 → exec (.sGbar g) s = .next (s.hold .gbar).settleTeam)) ∧
    (∀ sc o : BitVec 3, s.FitS g ⟨[], []⟩ → sc.toNat ≤ 5 → 1 ≤ o.toNat → o.toNat ≤ 4 → (o ≠ 1 → releaseReady s.g = true) →
      (o ≠ 2 → s.g.pset = []) → exec (.sFence sc o g) s = .next (if o = 2 then s else s.acquireWide sc.toNat).advance) ∧
    (∀ (d a b : BitVec 6) (w : BitVec 1) (c : BitVec 3) (va : Nat) (p : Piece) (ps : List Piece) (s1 s2 : State) (ws : List Word),
      let k := w.toNat + 1
      s.FitS g ⟨[], [(d.toNat, 1), (a.toNat, 2), (b.toNat, k)]⟩ → s.pathPending = false → s.uAddr a.toNat 0 = .ok va →
      s.locate va (4 * k) .load true = (s1, .ok (.memory (p :: ps))) → va % (4 * k) = 0 →
      s1.ReadsS [(d.toNat, 1), (b.toNat, k)] → s1.CleanS [(d.toNat, 1), (b.toNat, k)] → s.g.wait ≠ .waitv (some 0) →
      ((List.range k).foldl (fun u i => u.ownFirst { p.x with pa := p.x.pa + 4 * i })
        ({ s1 with g := { s1.g with waitI := (encode (.sWaitv d a b w c g)).getD 0 } } : State)).homeWords p.x k = (s2, ws) →
      (∀ x ∈ ws, x.checks = true ∧ x.isPoison = false) → s2.glitch = 0 →
      exec (.sWaitv d a b w c g) s = .next (
        if condHolds c (w = 1) (dat ws 0) (dat ws 1) (s1.s b.toNat).data (s1.s (b.toNat + 1)).data then (s2.acquire 4).advance
        else s2.hold (.waitv (match s.g.wait with
          | .waitv r => r
          | _ => if (s1.s d.toNat).data = 0 then none else some (s1.s d.toNat).data.toNat)))) ∧
    (∀ (d a b : BitVec 6) (w : BitVec 1) (c : BitVec 3), s.FitS g ⟨[], [(d.toNat, 1), (a.toNat, 2), (b.toNat, w.toNat + 1)]⟩ →
      s.pathPending = false → s.g.wait = .waitv (some 0) → exec (.sWaitv d a b w c g) s = .next (s.raiseAll cStarve 0 s.g.exec))

/-- R153, R154, R155, R156, R157, R160, R161, R162, R371: sys of group code with a lane enabled and hcall of S mode take their traps, the return address being that of the instruction that would follow; tret of S or H mode reads back the topmost frame and restores pc, EXEC and BIND (within the bound lanes), FMT (reserved bits of it and of the cause word as zero), loops (log 26), window, mode, the outer saved registers, the replay mask and the step request, and pops the frame. The masks of FMT and of the cause word and the two low bits of a loop's start, all read back as zero, are the model's reading (log 26). -/
def Obligations.SystemCalls : Prop :=
  ∀ (s s2 : State) (g : BitVec 3) (xs : List XOk), s.onKiln = false → s.FitS g ⟨[], []⟩ →
    let after : State := { s with g := { s.g with pc := (loopNext s.g.pc s.g.loops).1 - 4, loops := (loopNext s.g.pc s.g.loops).2 } }
    (∀ n : BitVec 6, n.toNat < s.g.frame → s.g.exec ≠ 0 → let t := { Trap.plain cSys n.toNat s.g.exec s.g.exec with retAt := false }
      after.Delivers t s2 xs → exec (.sSys n g) s = .next (after.delivered t s2 xs)) ∧
    (s.mode ≠ 0 → let t := { Trap.plain cHcall 0 s.g.exec s.g.exec with retAt := false }
      after.Delivers t s2 xs → exec (.sHcall g) s = .next (after.delivered t s2 xs)) ∧
    (∀ (s1 s3 : State) (ws : List Word), s.mode ≠ 0 → s.g.priv.kdepth ≠ 0 →
      let f := linkBase s.tm s.g.idx + s.g.priv.kframe.toNat
      s.g.spill.toNat = f + 256 → s.frameXls f .load = (s1, some xs) → s1.coreWords s1.core xs = (s2, ws) →
      (∀ w ∈ ws, w.checks = true ∧ w.isPoison = false) → (dat ws 11).toNat = s2.stackDepth →
      let c := if s.mode = 2 then s.g.priv.hcause else s.g.priv.kcause
      let ret := if s.mode = 2 then s.g.priv.hpc else s.g.priv.kpc
      c.getLsbD 31 = false → ret.toNat % 4 = 0 →
      s2.spillsPending (field (dat ws 10).toNat 0 16 + field (dat ws 10).toNat 16 8) = false →
      s2.setWindow (field (dat ws 10).toNat 0 16) (field (dat ws 10).toNat 16 8) = some s3 → s3.g.priv = s.g.priv →
      s.g.step = false → s3.g.step = false →
      ∃ t, exec (.sTret g) s = .next t ∧ t.g.pc = ret ∧ t.g.bind = dat ws 7 &&& s3.g.bind ∧ t.g.exec = dat ws 6 &&& t.g.bind ∧
        t.g.fmt = dat ws 9 &&& 0x7ffff ∧ t.g.loops = loopsOf ws (field (dat ws 10).toNat 24 8) ∧ t.g.spill = s3.g.spill - 256 ∧
        t.g.priv.kframe = dat64 ws 4 ∧ t.g.priv.kdepth = s.g.priv.kdepth - 1 ∧
        t.g.priv.mode.toNat = (if s.mode = 2 then field c.toNat 8 2 else min (field c.toNat 8 2) 1) ∧
        (s.mode ≠ 2 → t.g.priv.kpc = dat64 ws 0 ∧ t.g.priv.kcause = dat ws 2 &&& 0xe0ff7fff ∧ t.g.priv.kmask = dat ws 3) ∧
        (s.mode = 2 → t.g.priv.kpc = s.g.priv.kpc ∧ t.g.priv.kcause = s.g.priv.kcause ∧ t.g.priv.kmask = s.g.priv.kmask) ∧
        t.g.pend = (if c.getLsbD 10 then dat ws 8 &&& t.g.bind else 0) ∧ t.g.step = c.getLsbD 30)

/-- R163, R190, R259, R372, R373, R374: In a mode that may run it, with nothing to release and no access of the partition under way, each tlbi removes from every TLB of the partition exactly the entries its predicate covers (.ipa those whose stage-2 leaf maps the guest page; .ctx, .s2 and .all also the cached contexts), and completes; keyret of H mode on a key of the partition retires it, acquires at .sys and completes; in U mode each of them, and tret and hcall, raises PRIV_INSN whatever its guard. -/
def Obligations.InvalidationAndKeys : Prop :=
  ∀ (s : State) (a b : BitVec 6) (g : BitVec 3), s.onKiln = false →
    (releaseReady s.g = true →
      let gone := fun (entry : TlbEntry → Bool) (ctx : Nat → Ctx → Bool) => ({ s with
        tlbs := s.tlbs.map (fun t => if s.partTlb t.1 then (t.1, t.2.filter (fun e => !entry e)) else t)
        ctxs := s.ctxs.filter (fun c => !ctx c.1 c.2) } : State)
      let fit1 := s.FitS g ⟨[], [(b.toNat, 2)]⟩ ∧ s.ReadsS [(b.toNat, 2)] ∧ s.CleanS [(b.toNat, 2)]
      let fit2 := s.FitS g ⟨[], [(a.toNat, 2), (b.toNat, 2)]⟩ ∧ s.ReadsS [(a.toNat, 2), (b.toNat, 2)] ∧ s.CleanS [(a.toNat, 2), (b.toNat, 2)]
      let va := s.s64 a.toNat
      let x := s.s64 b.toNat
      let no := fun (_ : Nat) (_ : Ctx) => false
      let byVa := gone (fun e => tlbMaps e va && (if e.glob then e.s2root == s.rootOfCtx x else e.ctx == x)) no
      let byCtx := gone (fun e => !e.glob && e.ctx == x) (fun n _ => n == x.toNat)
      let byGlob := gone (fun e => e.glob && e.s2root == s.rootOfCtx x) no
      let byIpa := gone (fun e => e.s2root == x && e.leaf2.isSome && e.ipa / 2 ^ e.size2 == va.toNat / 2 ^ e.size2) no
      let byS2 := gone (fun e => e.s2root == x) (fun _ c => c.s2 == x)
      let all := gone (fun _ => true) (fun n _ => s.usablePa s.tm.part n)
      (s.mode ≠ 0 → fit2 → byVa.accessesOut = false → exec (.sTlbiVa a b g) s = .next byVa.advance) ∧
      (s.mode ≠ 0 → fit1 → byCtx.accessesOut = false → exec (.sTlbiCtx b g) s = .next byCtx.advance) ∧
      (s.mode ≠ 0 → fit1 → byGlob.accessesOut = false → exec (.sTlbiGlob b g) s = .next byGlob.advance) ∧
      (s.mode = 2 → fit2 → byIpa.accessesOut = false → exec (.sTlbiIpa a b g) s = .next byIpa.advance) ∧
      (s.mode = 2 → fit1 → byS2.accessesOut = false → exec (.sTlbiS2 b g) s = .next byS2.advance) ∧
      (s.mode = 2 → s.FitS g ⟨[], []⟩ → all.accessesOut = false → exec (.sTlbiAll g) s = .next all.advance) ∧
      (s.mode = 2 → s.FitS g ⟨[], [(a.toNat, 1)]⟩ → s.ReadsS [(a.toNat, 1)] → s.CleanS [(a.toNat, 1)] →
        let k := (s.s a.toNat).data.toNat
        k < Config.keySlots → s.keyInPart s.tm.part k = true → exec (.sKeyret a g) s = .next ((s.retireKey k).acquire 5).advance)) ∧
    (s.mode = 0 → let no := Host.Outcome.next (s.raiseAll cPriv 0 s.g.exec)
      s.onKiln = false →
      (s.namesOk ⟨[], [(a.toNat, 2), (b.toNat, 2)]⟩ = true → exec (.sTlbiVa a b g) s = no ∧ exec (.sTlbiIpa a b g) s = no) ∧
      (s.namesOk ⟨[], [(b.toNat, 2)]⟩ = true → exec (.sTlbiCtx b g) s = no ∧ exec (.sTlbiGlob b g) s = no ∧ exec (.sTlbiS2 b g) s = no) ∧
      exec (.sTlbiAll g) s = no ∧ exec (.sTret g) s = no ∧ exec (.sHcall g) s = no ∧
      (s.namesOk ⟨[], [(a.toNat, 1)]⟩ = true → exec (.sKeyret a g) s = no))

/-- R85, R86, R88, R89, R93, R375, R376, R377, R378: A group's launch reads its aligned packet, from memory or through a window, writes the child's number or a refusal with bit 63 set to a pair and completes; lwait goes on with an acquire once no child is left and holds otherwise; on a Kiln engine each k-instruction (an emission with the prologue's stores performed) ends the run and its command as its rule says; a LAUNCH command that passes its checks starts its grid, or waits for an engine when it has a prologue; the lowest free engine takes the first waiting command with its registers set; a run of 65,536 instructions ends its command with code 0x0a. Which waiting command is first among the queues and the event that ends a run's budget are the model's reading (log 17), as are kemit's wait for the prologue's writes (log 31) and the run's first pc, the prologue's address with its two low bits zero (log 26). -/
def Obligations.LaunchesAndKilnRuns : Prop :=
  ∀ (s : State) (g : BitVec 3),
    (s.onKiln = false →
      (∀ (d a : BitVec 6) (va : Nat) (s1 s2 s3 : State) (x : Piece) (xs : List Piece) (ws : List Word) (r : BitVec 64), d.toNat ≤ 62 → a.toNat ≤ 62 →
        s.FitS g ⟨[], [(d.toNat, 2), (a.toNat, 2)]⟩ → s.uAddr a.toNat 0 = .ok va →
        s.locate va 128 .load true = (s1, .ok (.memory (x :: xs))) →
        releaseReady s1.g = true → s1.readAt x.x 32 = (s2, ws) → s2.launchChild ws = (s3, r) →
        exec (.sLaunch d a g) s = .next (s3.setSs d.toNat ((halves r).map Word.ofData)).advance) ∧
      (∀ (d a : BitVec 6) (va pa : Nat) (s1 s3 : State) (ws : List Word) (r : BitVec 64), d.toNat ≤ 62 → a.toNat ≤ 62 →
        s.FitS g ⟨[], [(d.toNat, 2), (a.toNat, 2)]⟩ → s.uAddr a.toNat 0 = .ok va → s.locate va 128 .load true = (s1, .ok (.window pa)) →
        releaseReady s1.g = true → s1.cameThrough (va / 4) 32 = some ws →
        ({ s1 with g := { s1.g with checked := [] } } : State).launchChild ws = (s3, r) →
        exec (.sLaunch d a g) s = .next (s3.setSs d.toNat ((halves r).map Word.ofData)).advance) ∧
      (s.FitS g ⟨[], []⟩ → exec (.sLwait g) s =
        .next (if (s.children (some s.g.idx)).isEmpty then (s.acquire 4).advance else s.hold (.lwait none))) ∧
      (∀ a : BitVec 6, s.FitS g ⟨[], [(a.toNat, 2)]⟩ → s.ReadsS [(a.toNat, 2)] → s.CleanS [(a.toNat, 2)] →
        let n := (s.s64 a.toNat).toNat
        exec (.sLwaitGrid a g) s = .next (if (s.children none).contains n then s.hold (.lwait (some n)) else (s.acquire 4).advance))) ∧
    (∀ (i : Nat) (e : Kiln) (c : Cmd), s.focus = .kiln i → s.FitS g ⟨[], []⟩ → tfind s.kilns i = some e →
      (s.queue e.queue).cmds.find? (fun x => x.uid == e.cmd) = some c → let u : State := { s with kilns := tdel s.kilns i }
      (releaseReady s.g = true → exec (.sKemit g) s = .next (u.emitGrid e c false) ∧ exec (.sKrepeat g) s = .next (u.emitGrid e c true)) ∧
      exec (.sKcancel g) s = .next (u.modCmd e.queue c.uid (fun c =>
        { c with inKiln := false, started := true, complete := true, rerun := false, code := 0x0b })) ∧
      exec (.sKdone g) s = .next (u.modCmd e.queue c.uid (fun c =>
        { c with inKiln := false, started := true, complete := true, rerun := false }))) ∧
    (∀ (q p : Nat) (c : Cmd) (s1 s2 : State) (k : Nat), s.unfocus.Starts q 1 p c s.unfocus → s.unfocus.launchCode p c.num (slPro c.num) = 0 →
      (if slEvEn c.num = true then s.unfocus.eventAddrOk p c.asid (slEvVa c.num) .store else (s.unfocus, true)) = (s1, true) →
      (slPro c.num = true → exec (.launch q) s = .next (s1.modCmd q c.uid (fun c => { c with waitKiln := true, signal := slEvEn c.num }))) ∧
      (slPro c.num = false → s1.tryLaunch p q c.uid c.asid c.slot none 0 false = (s2, .ok k) →
        exec (.launch q) s = .next (s2.modCmd q c.uid (fun x =>
          { x with started := true, complete := true, grids := x.grids ++ [k], signal := slEvEn c.num })))) ∧
    (∀ (k q p : Nat) (c : Cmd) (r : List (Nat × Cmd)), k < 16 → tfind s.unfocus.kilns k = none →
      (∀ j < k, (tfind s.unfocus.kilns j).isSome = true) → s.unfocus.kilnWaiters = (q, c) :: r → s.unfocus.partOfQueue q = some p →
      let run : Group := { Group.initial with pc := BitVec.ofNat 64 (pkPrologue c.num / 4 * 4), sregs := kilnRegs q c }
      let ent : Kiln := { queue := q, cmd := c.uid, part := p, asid := c.asid, g := run }
      exec (.kilnRunStart k) s = .next (({ s.unfocus with kilns := tins s.unfocus.kilns k ent } : State).modCmd q c.uid
          (fun c => { c with waitKiln := false, inKiln := true }))) ∧
    (∀ (k : Nat) (e : Kiln), tfind s.unfocus.kilns k = some e → 65536 ≤ e.g.count → exec (.prologueBudgetExceeded k) s =
      .next (({ s.unfocus with kilns := tdel s.unfocus.kilns k } : State).modCmd e.queue e.cmd (fun c =>
        { c with inKiln := false, started := true, complete := true, rerun := false, code := 0x0a })).settleCmds)

/-- R132, R135, R224, R294, R310: When the pending entry of the running group is complete, no trap waits for it and every word of every lane passes its check, its arrival writes the assembled words to each lane's registers (or the uniform ones) as they were named at issue, and removes the entry; a group that waited at the load completes it. The words of a tcheck are kept for it, checked or not. -/
def Obligations.LoadArrival : Prop :=
  ∀ (s : State) (r : GroupRef) (id : Nat) (vr1 : Bool) (e : Pend), s.focus = .group r →
    s.g.pset.find? (fun p => p.id == id && p.vr1 == vr1 && p.complete) = some e → s.g.due = none →
    let s0 : State := { s with g := { s.g with pset := s.g.pset.filter (fun p => p.id != id) } }
    let t := e.lanes.foldl (fun u l => u.putResult e l.lane ((assembled l).map (fun w => w.getD Word.poison))) s0
    ((∀ k, e.dest ≠ .check k) → (∀ l ∈ e.lanes, ∀ w ∈ assembled l, w.isSome = true) →
      let out := Host.Outcome.next (if s.g.wait = .load id then t.advance else t)
      (vr1 = false → exec (.loadReturn r id) s = out) ∧ (vr1 = true → exec (.vr1Result r id) s = out)) ∧
    (∀ k, e.dest = .check k → vr1 = false → exec (.loadReturn r id) s =
      .next (s0.putResult e uniLane (e.lanes.flatMap (fun l => l.words.map (fun n => n.got.getD Word.poison)))))

/-- R14, R16, R17, R18, R20, R22, R24, R25, R69: A request whose tag no unanswered request has used takes effect on its base die and its reply sets out under that tag; one whose tag is in use is discarded, its channel fenced. A reply frees its tag; a read reply puts the line (poison where marked) into a slice that lacks it and may keep it, unless the read was rejected; waiting requests go on. Write acknowledgements that waited for the base die leave with its reply. A scrub, behind the requests that have arrived, clears and counts a codeword of at most eight bad symbols; one of more it counts and leaves when the decoder finds it uncorrectable, and counts as corrected when the decoder miscorrects, which of the two being a free choice (log 23). A row repair of a row that calls for it takes one spare row and clears the errors the decoder takes away; the thirty-third spare row of a channel sets its SERVICE-REQUESTED bit. -/
def Obligations.StackPorts : Prop :=
  ∀ s : State,
    (∀ x : StackReq, let chan := x.die * 64 + x.slice
      let key := portKey chan (reqTag x.hdr)
      let all := fun t : State => exec (.stackRd x) s = .next t ∧ exec (.stackWr x) s = .next t ∧ exec (.stackWrm x) s = .next t
      let u := s.stackServe x
      (s.portSeen.contains key = false → all { u.1 with portSeen := insertNat key u.1.portSeen, stackQ := u.1.stackQ ++ [replyEvent u.2] }) ∧
      (s.portSeen.contains key = true → ∃ t, all t ∧ t.fenced.contains chan = true ∧ t.mem = s.mem ∧ t.stackQ = s.stackQ ∧ t.portSeen = s.portSeen)) ∧
    (∀ (x : StackReply) (v : Nat), let key := portKey (x.die * 64 + x.slice) (replyTag x.hdr)
      let s1 := (s.portAcks.filter (fun e => e.1 == key)).foldl (fun (u : State) e => u.send e.2)
        { s with stackTags := tdel s.stackTags key, portSeen := s.portSeen.filter (· != key), portAcks := s.portAcks.filter (fun e => e.1 != key) }
      tfind s.stackTags key = some v → exec (.stackWriteAck x) s = .next s1.retryAll ∧
      (v % 2 = 0 → exec (.stackReadReply x) s = .next s1.retryAll) ∧
      (v % 2 = 1 → tfind s1.l2 (v / 2) = none → s1.keeps (v / 2) = true → replyStatus x.hdr ≠ 3 →
        exec (.stackReadReply x) s = .next (s1.l2Put (v / 2) (replyWords x) false).retryAll)) ∧
    (∀ line : Nat, let s1 := s.settle line
      let n := (s1.badSyms line).length
      let st := stackOf (chanOf line)
      (n ≤ 8 → ∃ t, exec (.patrolScrub line) s = .next t ∧ tget t.syms line [] = [] ∧ tget t.symFixed st 0 = tget s1.symFixed st 0 + n ∧
        t.mem = s1.mem ∧ t.l2 = s1.l2 ∧ t.teams = s1.teams) ∧
      (8 < n → Config.miscorrected line (s1.badSyms line) = none → ∃ t, exec (.patrolScrub line) s = .next t ∧ t.syms = s1.syms ∧
        tget t.uncorr st 0 = tget s1.uncorr st 0 + 1 ∧ t.mem = s1.mem) ∧
      (∀ r, 8 < n → Config.miscorrected line (s1.badSyms line) = some r → ∃ t, exec (.patrolScrub line) s = .next t ∧ tget t.syms line [] = [] ∧
        tget t.symFixed st 0 = tget s1.symFixed st 0 + (1 + r.1 % 8) ∧ t.uncorr = s1.uncorr)) ∧
    (∀ die slice row : Nat, let chan := die * 64 + slice
      let used := tget s.spareRows chan 0
      (used < 64 → s.rowDue chan row = true → ∃ t, exec (.rowRepair die slice row) s = .next t ∧ tget t.spareRows chan 0 = used + 1 ∧
        ((∀ e ∈ s.syms, chanOf e.1 = chan → Config.rowOfLine e.1 = row → (s.decoded e.1).wrong = none) → t.mem = s.mem) ∧
        (32 ≤ used → t.twin.sr.getLsbD 1 = true) ∧
        (∀ e ∈ t.syms, chanOf e.1 = chan → Config.rowOfLine e.1 = row → (s.decoded e.1).status = 2) ∧
        (∀ e ∈ s.syms, chanOf e.1 ≠ chan ∨ Config.rowOfLine e.1 ≠ row ∨ (s.decoded e.1).status = 2 → e ∈ t.syms)) ∧
      (s.rowDue chan row = false → exec (.rowRepair die slice row) s = .next s))

/-- R28, R183, R184, R185, R216, R315, R316, R383: At a home that holds the line with no word owned, of a request under a valid key that does not stream: a read answers READ_DATA with the named words; a write replaces the named words (a masked one merges bytes, but for the words it covers whole) and answers WRITE_ACK; an atomic replaces its words by the new value and answers the old one, a reduction answers WRITE_ACK; a discard leaves zeros; a registration makes the sender's core owner of the words it still awaits and answers GRANT. A COPY_* request with the nt bit does the same to a line that the slice holds. -/
def Obligations.HomeRequests : Prop :=
  ∀ (s s1 : State) (p : Packet), s.HomeFree p s1 → let tag := pktTag p
    let m := p.hdr.aux
    let line := s1.homeLine tag
    let isMsg := fun (c t : Nat) => p.hdr.cls.toNat = c ∧ p.hdr.mtype.toNat = t
    let reads := Host.Outcome.next (s1.answerHome p 2 0 m (windowFlits m line))
    let put := fun (ws : List Word) => Host.Outcome.next ((s1.homePut tag m ws).answerHome p 3 0 m [])
    let whole := put ((List.range 32).map (fun i => (pktWords p false).getD i Word.zero))
    let merged := put ((List.range 32).map (fun i =>
      if bit (s1.wholeOf p) i then (pktWords p true).getD i Word.zero
      else mergeWord (BitVec.ofNat 4 (maskOfFlit (p.flits.getD 0 []) / 16 ^ i)) (line.getD i Word.poison) ((pktWords p true).getD i Word.zero)))
    (m ≠ 0 → isMsg 0 0 → exec (.lineRead p) s = reads) ∧ (m ≠ 0 → isMsg 0 1 → exec (.wordRead p) s = reads) ∧
    (m ≠ 0 → isMsg 5 0 ∨ isMsg 5 8 → exec (.copyRead p) s = reads) ∧ (isMsg 0 2 → exec (.prefL2 p) s = .next (s1.answerHome p 3 4 0 [])) ∧
    (m ≠ 0 → isMsg 1 0 → exec (.write p) s = whole) ∧ (m ≠ 0 → isMsg 5 1 ∨ isMsg 5 9 → exec (.copyWrite p) s = whole) ∧
    (m ≠ 0 → isMsg 1 1 → exec (.maskedWrite p) s = merged) ∧ (m ≠ 0 → isMsg 5 2 ∨ isMsg 5 10 → exec (.copyMwrite p) s = merged) ∧
    (isMsg 1 3 → s1.redFaults = 0 → let f := p.flits.getD 0 []
      let op := (nth f 4).data.toNat
      let r := aopStep (op % 16) ((lanesOf m).map (fun i => line.getD i Word.poison)) (f.take 4)
      let u := s1.homePut tag m ((List.range 32).map (fun i => nth r.2 (indexOf (lanesOf m) i)))
      exec (.atomic p) s = .next (if op / 16 % 2 = 1 then u.answerHome p 3 0 m []
        else u.answerHome p 2 3 m [(List.range 8).map (fun i => if i < 2 then nth r.1 i else Word.zero)])) ∧
    (isMsg 1 4 → s1.lineLost (tagLine tag) = false → ∃ t, exec (.discard p) s = .next t ∧ t.homeLine tag = List.replicate 32 Word.zero ∧
      (∀ k, k ≠ tag → tfind t.l2 k = tfind s1.l2 k) ∧ t.mem = s1.mem ∧ t.l1 = s1.l1) ∧
    (∀ (t : Txn) (c : Nat), isMsg 4 0 → s1.sourceTxn p = some t → s1.senderCore p = some c →
      (s1.registryOf (chanOf (tagLine tag))).length < 4096 → let n := m &&& t.pkt.hdr.aux
      ∃ u : State, exec (.register p) s = .next (u.send (mkPacket 2 2 p.hdr.dst.toNat p.hdr.src.toNat p.hdr.txn.toNat
          (coreField (tagLine tag) (c % 64)) (tagKey tag) (c % 64 / 32 == 1) n [])) ∧
        (∀ i < 32, bit n i = true → tfind (u.ownLine tag).owners i = some c) ∧ { u with own := s1.own, ownNo := s1.ownNo } = s1)

/-- R28, R185, R187, R189: An owner answers a forwarded read with its words straight to the requester; a revocation of words it owns unchanged drops them and acknowledges clean; a holder of partials sends them and holds them no more; a write-back of words its sender owns, and that no other access has taken meanwhile, is stored at the home, ends their ownership and is acknowledged; a clean acknowledgement ends the ownership of its words; the last partial asked for is added, in ascending order of core, into the line. -/
def Obligations.CoreMessages : Prop :=
  ∀ (s : State) (p : Packet), pktOk p = true → let tag := pktTag p
    let m := p.hdr.aux
    let mine := fun i => tfind s.l1 (l1Key (addressee p) tag i)
    (∀ w : Nat → Word, m ≠ 0 → (∀ i < 32, bit m i = true → ∃ d, mine i = some ⟨.owned d, w i⟩) → exec (.forwardRead p) s =
      .next (s.send (mkPacket 2 1 p.hdr.dst.toNat p.hdr.src.toNat p.hdr.txn.toNat (tagLine tag * 32) (tagKey tag) false m
        (flitsAt m ((lanesOf m).map (fun i => (i, w i))))))) ∧
    (m ≠ 0 → (∀ i < 32, bit m i = true → ∃ w, mine i = some ⟨.owned false, w⟩) → exec (.revoke p) s =
      .next ((({ s with l1 := (lanesOf m).foldl (fun t i => tdel t (l1Key (addressee p) tag i)) s.l1 } : State).staleFills (addressee p) tag).send
        (mkPacket 3 1 p.hdr.dst.toNat p.hdr.src.toNat p.hdr.txn.toNat (tagLine tag * 32) (tagKey tag) false m []))) ∧
    (∀ ws : List (Nat × Word), s.partialsOf tag (addressee p) = ws →
      exec (.partialReq p) s = .next ((s.dropPartials tag (addressee p)).send (mkPacket 2 4 p.hdr.dst.toNat p.hdr.src.toNat
        p.hdr.txn.toNat (tagLine tag * 32) (tagKey tag) false (maskOf (ws.map (·.1))) (flitsAt (maskOf (ws.map (·.1))) ws)))) ∧
    (∀ (c : Nat) (t : Txn), s.senderCore p = some c → s.sourceTxn p = some t → m &&& ~~~ t.pkt.hdr.aux = 0 →
      (∀ i < 32, bit m i = true → (i, c) ∈ (s.ownLine tag).owners) →
      exec (.writeback p) s = .next (((((((s.settle (tagLine tag)).finishFill tag).homePut tag m (pktWords p false)).released tag m).answerHome p 3 0 m [])).retryAll)) ∧
    (∀ t : Txn, s.Awaited p t → t.agent = .home → t.pkt.hdr.cls = 4 → exec (.cleanAck p) s = .next (s.released tag m).retryAll) ∧
    (∀ t : Txn, s.Awaited p t → t.agent = .home → let u := (s.dropTxn t).modOwn tag (fun o =>
        { o with partials := o.partials ++ [(addressee t.pkt, partialWords t p)] })
      let o := u.ownLine tag
      (o.partials.length < o.asked.length → exec (.partialData p) s = .next u) ∧
      (o.asked.length ≤ o.partials.length → exec (.partialData p) s = .next ((((sortNat (o.partials.map (·.1))).foldl (fun v c =>
        (o.partials.filter (fun e => e.1 == c)).foldl (fun v e => v.addWords tag (tget v.commKinds tag 0) e.2) v)
          (u.settle (tagLine tag))).modOwn tag (fun o => { o with asked := [], partials := [] })).retryLine tag true).retryAll))

/-- R28, R32, R58, R152, R183, R184, R185, R186, R315: Words of a read fill the asking load's pending entry, enter its core's L1 where they may be installed, and close the request when none is left; a grant performs the stores of its words and closes the request; an atomic's old value reaches its lane, or its failure when the answer names no word; an acknowledgement closes its request and counts a group's write as performed; a request whose route was lost is sent once more, and one already retried or to a lost die fails; a refused access fails, a write being recorded with grade 3, its cause word and the handle it named. -/
def Obligations.Replies : Prop :=
  ∀ (s : State) (p : Packet) (t : Txn), s.Awaited p t →
    (∀ (r : GroupRef) (id : Nat) (inst : Bool), t.agent = .load r id inst →
      let ws := (lanesOf (p.hdr.aux &&& t.pkt.hdr.aux)).map (fun i => (i, windowWord p.flits i))
      let out := Host.Outcome.next (((s.fill r id (txnTag t) ws).partTxn t (maskOf (ws.map (·.1)))).fillL1 inst (r.die * 64 + r.core) (txnTag t) ws)
      exec (.readData p) s = out ∧ exec (.forwardData p) s = out) ∧
    (∀ c : Nat, t.agent = .reg c → let m := p.hdr.aux &&& t.pkt.hdr.aux
      (∀ i < 32, bit m i = true → ∃ ws b w, tfind s.l1 (l1Key c (pktTag p) i) = some ⟨.pending ws false b, w⟩) →
      exec (.grant p) s = .next ((s.granted c (pktTag p) m).dropTxn t).retryAll) ∧
    (∀ (r : GroupRef) (id lane : Nat), t.agent = .atom r id lane → exec (.atomicResult p) s =
      .next (if p.hdr.aux = 0 ∧ t.pkt.hdr.aux ≠ 0 then (s.dropTxn t).atomFailed r id lane
        else (s.dropTxn t).atomDone r id lane ((p.flits.getD 0 []).take (max 1 (lanesOf t.pkt.hdr.aux).length)))) ∧
    (∀ r : GroupRef, t.agent = .store r → exec (.writeAck p) s = .next ((s.dropTxn t).writeDone r).retryAll) ∧
    (∀ (r : GroupRef) (ch : Nat), t.agent = .slot r ch → let u := (s.dropTxn t).writeDone r
      exec (.done p) s = .next (State.sendControls u.controls u)) ∧
    (t.retried = false → s.twin.lostDies.contains t.pkt.hdr.dst.toNat = false → exec (.routeLost p) s = .next (({ s with
      txns := s.txns.map (fun x => if t.same x then { x with retried := true } else x) } : State).send t.pkt)) ∧
    (t.retried = true ∨ s.twin.lostDies.contains t.pkt.hdr.dst.toNat = true → exec (.routeLost p) s = .next (s.failTxn t)) ∧
    (∀ (r : GroupRef) (id : Nat) (inst : Bool), t.agent = .load r id inst → exec (.refused p) s = .next ((s.fill r id (txnTag t)
      ((lanesOf t.pkt.hdr.aux).map (fun i => (i, Word.poison)))).dropTxn t)) ∧
    (∀ (r : GroupRef) (tm : Team), t.agent = .store r → r.die ≠ kilnDie → s.teamAt (grpKey r) = some tm → exec (.refused p) s =
      .next (((s.gradeGrid tm.grid 3).record { Rec.event 0 (r.die * 64 + r.core) cPerm 3 t.handle.toNat with
        grid := tm.grid
        teamT := tm.t
        group := r.grp
        mode := groupMode tm r.grp
        cause := refusedCause (groupMode tm r.grp) }).failTxn t))

/-- R28, R64, R92, R107, R167, R200, R224, R366: A slot in its turn, with no job holding the ring, is checked word by word, written to the consumer's scratchpad, counted and answered; a credit moves the producer's received count forward; a read of status register 0 is answered with the die's sixteen status words (the model's choice, log entry 30), of another with a free word, and the answer reaches the snapshot that asked; a record goes to the logs of its source; a release message releases the grid's teams of its die; a completion report is counted once per die. The words of CONTROL and REPORT, and a record's address of 256 or more, which names a partition, are laid out as log 20 says. -/
def Obligations.HubMessages : Prop :=
  ∀ (s : State) (p : Packet), pktOk p = true →
    (∀ (t : Team) (e : Nat × Nat × Nat × Nat), let key := slotTeam p
      let c := field p.hdr.paWord.toNat 5 6
      s.teamAt key = some t → (tfind s.grids t.grid).bind (fun g => g.chans[c]?) = some e → let ep := tget t.chans c ⟨0, 0⟩
      field p.hdr.paWord.toNat 16 6 = ep.sent.toNat % 64 → let off := e.2.2.1 + 128 * (ep.sent.toNat % max 1 e.2.2.2)
      s.scrHeld key off 128 = false → exec (.slot p) s = .next ((((List.range 32).foldl (fun u i =>
        u.scrWrite key (off / 4 + i) 15 (ingress (windowWord p.flits i))) s).modTeam key (fun t =>
          { t with chans := tins t.chans c { ep with sent := ep.sent + 1 } })).answerHome p 3 4 0 [])) ∧
    (∀ t : Team, s.focus = .none → tfind s.teams (slotTeam p) = some t → let c := field p.hdr.paWord.toNat 5 6
      let n : BitVec 32 := BitVec.ofNat 32 (field p.hdr.paWord.toNat 16 32)
      let ep := tget t.chans c ⟨0, 0⟩
      (n - ep.received).toNat ≤ (ep.sent - ep.received).toNat → ∃ u t1, exec (.credit p) s = .next u ∧ tfind u.teams (slotTeam p) = some t1 ∧
        tfind t1.chans c = some { ep with received := n } ∧ (∀ k, k ≠ slotTeam p → tfind u.teams k = tfind s.teams k)) ∧
    (let answer := fun (u : State) (fs : List (List Word)) => Host.Outcome.next (u.send (mkPacket 7 1 p.hdr.dst.toNat p.hdr.src.toNat
       p.hdr.txn.toNat p.hdr.paWord.toNat 0 false 0 fs))
     (p.hdr.paWord.toNat % 65536 = 0 → exec (.statusRead p) s =
       answer s [(s.statusWords p.hdr.dst.toNat).take 8, (s.statusWords p.hdr.dst.toNat).drop 8]) ∧
     (p.hdr.paWord.toNat % 65536 ≠ 0 → exec (.statusRead p) s =
       answer { s with freeNo := s.freeNo + 1 } [Word.ofData (Config.freeData s.freeNo) :: List.replicate 7 Word.zero])) ∧
    (∀ (t : Txn) (d : Nat), s.Awaited p t → t.agent = .status d →
      exec (.statusData p) s = .next ((s.dropTxn t).statusCame d (some (p.flits.flatMap (fun f => f))))) ∧
    (let ws := p.flits.flatMap (fun f => f)
     let w3 := (nth ws 3).data.toNat
     (256 ≤ p.hdr.paWord.toNat → exec (.record p) s = .next (s.appendRec (p.hdr.paWord.toNat % 8) (field w3 24 3) ws)) ∧
     (∀ (q : Nat), p.hdr.paWord.toNat < 256 → field w3 12 4 = 0 → s.ownerOf (field w3 0 12 / 64 % 8) = some q →
       exec (.record p) s = .next (s.appendRec q (field w3 24 3) ws)) ∧
     ((nth ws 0).data = 1 → let g := ofWords ((ws.drop 1).take 2)
       exec (.control p) s = .next (({ s.unfocus with teams := s.unfocus.teams.map (fun t =>
         if t.2.grid = g ∧ t.2.die = p.hdr.dst.toNat then (t.1, { t.2 with released := true }) else t) } : State).send
           (mkPacket 3 4 p.hdr.dst.toNat p.hdr.src.toNat p.hdr.txn.toNat p.hdr.paWord.toNat 0 false 0 []))) ∧
     (∀ e : Grid, let g := ofWords ((ws.drop 1).take 2)
       let die := (nth ws 3).data.toNat
       (nth ws 0).data = 0 → tfind s.unfocus.grids g = some e →
       (e.reports.contains die = true → exec (.report p) s = .next s.unfocus) ∧
       (e.reports.contains die = false → exec (.report p) s = .next ((s.unfocus.modGrid g (fun y =>
         { y with reports := y.reports ++ [die], done := y.done + ofWords ((ws.drop 4).take 2) })).checkGrid g 17))))

/-- R29, R30, R31, R32, R73: A failed flit is counted, discarded and named by a negative acknowledgement, its number being the one the receiver awaits, and the sixteenth in a row retrains the link; a retraining with at most two failed lanes in all brings the link back on spares and records it, with more it goes down; a rewrite for a lost die fences its links, stops injection and ends every packet to that die; a resume answers every request the mesh still holds, loads tables whose every hop is to a neighbour over a link in use, measures them into m6 (as one next-hop byte for each node and destination, log 20), and lets injection go on with what waited at the nodes. -/
def Obligations.MeshLinks : Prop :=
  ∀ (s : State) (l : Nat),
    (∃ t, exec (.flitCrcFail l) s = .next t ∧ (t.link l).crcErrs = (s.link l).crcErrs + 1 ∧ (t.link l).replays = (s.link l).replays + 1 ∧
      ((s.link l).fails < 15 → (t.link l).nak = some (s.link l).rx ∧ (t.link l).rx = (s.link l).rx ∧ (t.link l).fails = (s.link l).fails + 1) ∧
      (15 ≤ (s.link l).fails → (s.link l).state = 0 → (t.link l).state = 1 ∧ (t.link l).fails = 0) ∧ (∀ k, k ≠ l → t.link k = s.link k)) ∧
    ((s.link l).state = 0 → ∃ t, exec (.linkRetrain l) s = .next t ∧ (t.link l).state = 1 ∧ ∀ k, k ≠ l → t.link k = s.link k) ∧
    (∀ bad : Nat, (s.link l).state = 1 → ∃ t, exec (.linkRetrainDone l bad) s = .next t ∧
      (t.link l).state = (if (s.link l).lanesUsed + bad ≤ 2 then 0 else 2) ∧ (t.link l).lanesUsed = min 2 ((s.link l).lanesUsed + bad) ∧
      (t.link l).fails = 0 ∧ ∀ k, k ≠ l → t.link k = s.link k) ∧
    (∀ d : Nat, ∃ t, exec (.routingRewrite (.die d)) s = .next t ∧ t.twin.stopInject = true ∧
      (∀ k < 14, (linkEnds.getD k (9, 9)).1 = d ∨ (linkEnds.getD k (9, 9)).2 = d → (t.link k).state = 3) ∧
      (∀ p ∈ t.flight, p.hdr.dst.toNat ≠ d)) ∧
    (∃ t, exec (.routingRewrite (.link l)) s = .next t ∧ t.twin.stopInject = true ∧ (t.link l).state = 3 ∧ ∀ k, k ≠ l → t.link k = s.link k) ∧
    (∃ t rest, exec .routingResume s = .next t ∧ t.twin.stopInject = false ∧
      (∀ n < 9, ∀ x < 9, ∀ m, t.nextHop n x = some m → (t.hops1 n).any (fun h => h.1 == m) = true) ∧
      tget t.twin.meas 6 [] = tget s.twin.meas 6 [] ++ [s.newRoutes.map (fun e => BitVec.ofNat 8 e.2)] ∧
      t.flight = rest ++ s.outbox ∧ t.outbox = [] ∧ (∀ p ∈ rest, originOf p ≠ p.hdr.dst.toNat → isRequest p = false))

/-- R34, R35, R36, R37, R44, R69: A frame with a reason to be dropped is dropped and counted under it; an ARP request for the port's IPv4 address and a solicitation of its IPv6 address are answered; an ARP reply and an advertisement record their next hop, and the packets that waited for it leave; an expired hop is forgotten; a port's link goes down or up; the paths of a port that has been down for 50 µs move to the other host port; a host port that has been down for 60 s or had eight failovers in 24 h is retired, which sets its SERVICE-REQUESTED bit. One failover is counted for each time the paths of a port move (log 21). -/
def Obligations.EthernetPorts : Prop :=
  ∀ s : State,
    (∀ f : EthFrame, let b := f.payload
      let r := s.portRec f.port
      (∀ why : DropReason, s.dropWhy f = some why → exec (.frameDrop f) s = .next (s.countDrop f.port why)) ∧
      (f.port < 2 → s.frameTaken f = true → f.etype = 0x0806 →
        (netAt b 6 2 = 1 → netAt b 24 4 = prIp4 r → exec (.arp f) s =
          .next ({ s with sent := s.sent ++ [.arpReply f.port (BitVec.ofNat 48 (netAt b 8 6)) (BitVec.ofNat 32 (netAt b 14 4))] } : State)) ∧
        (netAt b 6 2 = 2 → exec (.arp f) s = .next (s.resolved f.port (mapped4 (netAt b 14 4)) (BitVec.ofNat 48 (netAt b 8 6))))) ∧
      (f.port < 2 → s.frameTaken f = true → f.etype = 0x86dd → netAt b 6 1 = 58 → let target := ipOf ((b.drop 48).take 16)
        (netAt b 40 1 = 135 → target = prIp6 r → exec (.neighborDiscovery f) s =
          .next ({ s with sent := s.sent ++ [.ndAdvert f.port f.srcMac (ipOf ((b.drop 8).take 16))] } : State)) ∧
        (netAt b 40 1 = 136 → exec (.neighborDiscovery f) s = .next (s.resolved f.port target (advertMac f))))) ∧
    (∀ (port : Nat) (addr : BitVec 128), ∃ t, exec (.nextHopExpiry port addr) s = .next t ∧
      (∀ h ∈ t.hops, ¬ (h.port = port ∧ h.addr = addr)) ∧ (∀ h ∈ s.hops, ¬ (h.port = port ∧ h.addr = addr) → h ∈ t.hops) ∧ t.sent = s.sent) ∧
    (∀ (port : Nat) (up : Bool), ∃ t, exec (.portLinkDown port up) s = .next t ∧ (t.port port).up = up ∧
      ((s.port port).up = true → up = false → (t.port port).downAt = s.gtime) ∧ ∀ k, k ≠ port → t.port k = s.port k) ∧
    (∀ port : Nat, port < 2 → (s.port port).up = false → (s.port port).downAt + 50000 ≤ s.gtime →
      (s.port (1 - port)).up = true → (s.port (1 - port)).retired = false → let mine := s.boundTo port
      let u := mine.foldl (fun v p => let w := v.modPath p (fun x => { x with ctx := pcWithPort x.ctx (1 - port) }); w.resend p (w.path p).buf) s
      let w := if mine.isEmpty then u else u.modPort port (fun x => { x with failTimes := u.gtime :: x.failTimes })
      exec (.pathRebind port) s = .next (if 8 ≤ w.failovers port then w.retirePort port else w)) ∧
    (∀ port : Nat, (s.portSpent port = true → ∃ t, exec (.portRetire port) s = .next t ∧ (t.port port).retired = true ∧
        (port < 2 → t.twin.sr.getLsbD 3 = true)) ∧
      (s.portSpent port = false → exec (.portRetire port) s = .next s))

/-- R40, R41, R42, R43, R45, R46, R47, R48, R49, R50, R62, R72: A packet taken, which sets the pending echo when it carries a congestion mark and on path 0 names the address that answers go to, is served when it is the expected WRITE, READ, ATOMIC, NOTIFY or MGMT: its PSN is consumed, a refusal is sent, and an acknowledgement when one is due (an activation that waits is answered later; a NOTIFY that finds the wake buffer full is refused and its PSN kept). Path 0 serves MGMT alone, PATH0_SYNC at any PSN, and refuses other requests. On other paths a response completes the request it echoes and acknowledges earlier writes, an ACK acknowledges up to its PSN, a NAK SEQ_ERR goes back to its PSN and other NAKs end the request they name, an echo cutting the rate first; path 0 takes no answer. That a NAK ends the request it names and that a READ or an ATOMIC is kept until its own response are the model's reading (logs 11, 12), as is path 0's DSCP (log 28). The ACK timer sends the due acknowledgement or echo, a retransmission timeout goes back to the oldest request, and a quiet period raises the rate. -/
def Obligations.ThtPackets : Prop :=
  ∀ (s : State) (f : ThtPacket), let here := s.unfocus.ThtHere f
    let n := thPath f.hdr
    let s0 := s.unfocus.thtTaken f
    let fresh := fun (v : State) => v.modTht n (fun x => { x with nakSent := false })
    let next := thPsn f.hdr = (s0.tht n).psnIn
    (∀ (u : State) (k : Nat), n ≠ 0 → next → k ≠ 2 →
      (here 1 → (fresh s0).hostWrite n (thAddr f.hdr).toNat f.payload = ⟨u, k, false⟩ → exec (.thtWrite f) s = .next (u.thtServed f k false)) ∧
      (∀ b : Bool, here 2 → (fresh s0).hostRead f = ⟨u, k, b⟩ → exec (.thtRead f) s = .next (u.thtServed f k b)) ∧
      (∀ b : Bool, here 4 → (fresh s0).hostAtomic f = ⟨u, k, b⟩ → exec (.thtAtomic f) s = .next (u.thtServed f k b)) ∧
      (here 6 → (fresh s0).hostNotify f = ⟨u, k, false⟩ → exec (.thtNotify f) s = .next (u.thtServed f k false))) ∧
    (∀ u : State, n ≠ 0 → next → here 6 → (fresh s0).hostNotify f = ⟨u, 2, false⟩ →
      exec (.thtNotify f) s = .next (u.thtReply f 10 2 (thPsn f.hdr) 0 [])) ∧
    (n = 0 → next → let no := Host.Outcome.next ((fresh s0).thtServed f 4 false)
      (here 1 → exec (.thtWrite f) s = no) ∧ (here 2 → exec (.thtRead f) s = no) ∧ (here 4 → exec (.thtAtomic f) s = no) ∧
      (here 6 → exec (.thtNotify f) s = no)) ∧
    (here 7 → let s1 : State := if n = 0 ∧ (mgmtOf f).mop = 0x12 then { s0 with path0 := { s0.path0 with psnIn := thPsn f.hdr } } else s0
      thPsn f.hdr = (s1.tht n).psnIn → let u := (fresh s1).manage (mgmtOf f)
      exec (.thtMgmt f) s = .next (u.thtServed f 0 (n != 0 || u.twin.activating.isNone))) ∧
    (n = 0 → (here 3 → exec (.thtReadResp f) s = .next s0) ∧ (here 5 → exec (.thtAtomicResp f) s = .next s0) ∧
      (here 8 → exec (.thtMgmtResp f) s = .next s0) ∧ (here 9 → exec (.thtAck f) s = .next s0) ∧ (here 10 → exec (.thtNak f) s = .next s0)) ∧
    (n ≠ 0 → let s1 := if thCeEcho f.hdr then s0.modPath n (rateCut s0.gtime) else s0
      (∀ q : SentReq, (s0.path n).buf.find? (fun q => q.psn == thPsn f.hdr) = some q →
        let out := Host.Outcome.next ((s0.ackUpTo n (thPsn f.hdr)).endReq n (thPsn f.hdr) (some (ingressWords f.payload)))
        (here 3 → q.op = 2 → f.payload.length = field (thImm q.hdr).toNat 0 13 → exec (.thtReadResp f) s = out) ∧
        (here 5 → q.op = 4 → exec (.thtAtomicResp f) s = out)) ∧
      (here 8 → exec (.thtMgmtResp f) s = .next (s0.ackUpTo n (thPsn f.hdr))) ∧
      (here 9 → exec (.thtAck f) s = .next (s1.ackUpTo n (thPsn f.hdr))) ∧
      (here 10 → thCode f.hdr = 1 → exec (.thtNak f) s = .next (s1.goBack n (thPsn f.hdr))) ∧
      (here 10 → 3 ≤ thCode f.hdr → thCode f.hdr ≤ 6 → exec (.thtNak f) s = .next (s1.endReq n (thPsn f.hdr) none))) ∧
    (∀ p : Nat, s.twin.failed = false → p = 0 ∨ pcState (s.path p).ctx = 1 → 0 < (s.tht p).unacked ∨ (s.tht p).echo = true →
      exec (.thtAckTimer p) s = .next (s.ackPath p)) ∧
    (∀ (p : Nat) (q : SentReq) (r : List SentReq), (s.path p).buf = q :: r → pcState (s.path p).ctx = 1 →
      exec (.thtRetransmitTimeout p) s = .next (s.unfocus.goBack p q.psn)) ∧
    (∀ p : Nat, ∃ t, exec (.thtRateIncrease p) s = .next t ∧ (t.path p).alpha = (s.path p).alpha * 15 / 16 ∧
      (t.path p).rate = (if (s.path p).rate < 800000000 then min 800000000 ((s.path p).rate + 5000000) else (s.path p).rate))

/-- R42, R55, R56, R57, R58: A sound data frame at a fabric port in sequence has its packets served, is counted and, at sixteen unacknowledged, acknowledged; an acknowledgement frees the frames it covers; a NAK sends them again from its sequence number; a timeout sends again from the oldest; the acknowledgement timer acknowledges accepted frames. A request that its handle does not admit is refused and counted; one of a revoked handle is not admitted. That an acknowledgement covers its own number, that a NAK carries the expected number and that a frame belongs to its last packet are the model's reading (log 12). -/
def Obligations.PeritFrames : Prop :=
  ∀ (s : State) (f : PeritFrame), let src := phSrc f.hdr
    let s1 := s.unfocus.peritAcked src (phAseq f.hdr)
    (peritOk f = true → 2 ≤ f.port → f.port < 10 →
      (∀ u : State, phKind f.hdr = 0 → phSeq f.hdr = (s1.peer src).seqIn → s1.peritPackets src f = some u →
        let own := s1.frameOwner src (phHandle f.hdr) (f.packets.any isPeerRequest)
        let v := u.modPeer src (fun x => { x with
          seqIn := x.seqIn + 1
          nakSent := false
          lastPort := f.port
          lastPart := own
          unacked := x.unacked + 1 })
        exec (.peritDataFrame f) s = .next (if 16 ≤ (v.peer src).unacked then v.peritAck src own f.port else v)) ∧
      (phKind f.hdr = 1 → exec (.peritAckFrame f) s = .next s1 ∧ (∀ b ∈ (s1.peer src).buf, psnLe b.1 (phAseq f.hdr) = false)) ∧
      (phKind f.hdr = 2 → exec (.peritNakFrame f) s = .next (s1.peritResend src (phSeq f.hdr)))) ∧
    (∀ (dev : BitVec 16) (b : BitVec 24 × Nat × PeritFrame) (r : List (BitVec 24 × Nat × PeritFrame)), (s.peer dev).buf = b :: r →
      exec (.peritTimeout dev) s = .next (s.unfocus.peritResend dev b.1)) ∧
    (∀ dev : BitVec 16, 0 < (s.peer dev).unacked → exec (.peritAckTimer dev) s =
      .next (s.peritAck dev (s.peer dev).lastPart (s.peer dev).lastPort)) ∧
    (∀ (h : Handle) (dev : BitVec 16) (p : Packet), s.handles.find? (fun x => x.id == h.id) = some h →
      (h.live = false → handleAdmits h dev p = false) ∧
      (handleAdmits h dev p = false → s.servePeer dev h.id p =
        (s.modPart h.part (fun x => { x with refusals := x.refusals + 1 }), peerReply p 3 3 p.hdr.aux [])))

/-- R43, R44, R52, R54, R57, R60, R62, R63, R65, R66, R67, R72: For each of the eighteen operations: a request that R63 admits (partition operations also on the partition's own paths, the others on path 0 alone) whose arguments its row accepts has exactly the row's effect and is answered OK with the value and body of the row. FW_ACTIVATE, whose signature and digest checks no statement can settle, is answered SIG_FAIL when one fails, and starts the image at once or when the prologues in flight have finished when they pass; a request of path 0 that finds it waiting is kept until then. The layout of an image, its digest at byte 8, its signature at 72 and its firmware at 1,352, is the model's (log 20), as is an entry with valid 0 becoming UNCONFIGURED and giving up its dies then (log 29). -/
def Obligations.ManagementRequests : Prop :=
  ∀ (s : State) (m : MgmtReq), let s0 := s.unfocus
    let ok : BitVec 16 → State → Reply → Host.Outcome State Fault Refusal := fun k u r => Host.Outcome.next (u.respond { m with mop := k } r)
    let n := m.arg.toNat
    let b := m.body
    (s0.MgmtOk m false →
      (m.arg = 0 → b = [] → let inv := s0.twin.invBuf.getD s0.twin.invActive []
        exec (.invRead m) s = ok 1 s0 ⟨0, 0, inv ++ List.replicate (4080 - inv.length) 0⟩ ∧
        exec (.path0Sync m) s = ok 18 { s0 with path0 := { s0.path0 with psnIn := m.psn + 1 } } ⟨0, (m.psn + 1).toNat, []⟩) ∧
      (∀ p < 8, m.part.toNat = p → m.arg = 0 → b.length = 8 → let e : BitVec 64 := BitVec.ofNat 64 (ofBytes b)
        let old := (s0.part p).entry
        (∀ q < 8, q ≠ p → let o := (s0.part q).entry
          peValid o = true → peDies o &&& peDies e = 0 ∧ overlaps (peQBase o) (peQCount o) (peQBase e) (peQCount e) = false ∧
          overlaps (peKBase o) (peKCount o) (peKBase e) (peKCount e) = false) →
        peQBase e + peQCount e ≤ 1024 → peKBase e + peKCount e ≤ 8192 → (peValid e = true → peDies e ≠ 0) → peState old ≠ 1 → peState old ≠ 2 →
        let moved := (List.range 8).filter (fun d => (peOwned e).testBit d != (peOwned old).testBit d)
        let u := moved.foldl State.flushDie s0
        let kept := fun (k : Nat) => (peValid e && peKBase e ≤ k && k < peKBase e + peKCount e) ||
          (List.range 8).any (fun q => q != p && peValid (s0.part q).entry && s0.keyInPart q k)
        let range := fun (o : BitVec 64) (q : Nat) => peQBase o ≤ q && q < peQBase o + peQCount o
        let v : State := { u.modPart p (fun x => { x with
            entry := BitVec.ofNat 64 (e.toNat / 64 * 64 + if peValid e then 1 else 0)
            maxGrade := 0
            refused := 0 }) with
          keys := u.keys.filter (fun x => moved.isEmpty || !(peValid old && peKBase old ≤ x.1 && x.1 < peKBase old + peKCount old) || kept x.1)
          queues := u.queues.map (fun x => if range old x.1 || range e x.1 then (x.1, { x.2 with
            enabled := false
            halted := false }) else x)
          twin := { u.twin with
            meas := tmod u.twin.meas 5 [] (fun l => l ++ [b])
            worst := max s0.twin.worst s0.health } }
        exec (.partSet m) s = ok 2 (if peValid e then v.readCinder p else v) stOk) ∧
      (n ≠ 0 → n < 4096 → b.length = 40 → pcOk (pcOf b) = true → let vlan : BitVec 16 := BitVec.ofNat 16 (ofBytes ((b.drop 38).take 2))
        (pcState (pcOf b) = 1 → pcState (s0.path n).ctx ≠ 1 → exec (.pathSet m) s = ok 6 { s0 with paths := tins s0.paths n { PathSt.initial with
          ctx := pcOf b
          psnIn := BitVec.ofNat 24 (ofBytes ((b.drop 32).take 3))
          psnOut := BitVec.ofNat 24 (ofBytes ((b.drop 35).take 3))
          vlan := vlan } } stOk) ∧
        (pcState (pcOf b) = 0 → (s0.path n).buf = [] → exec (.pathSet m) s = ok 6 (s0.modPath n (fun x => { x with
          ctx := pcOf b
          vlan := vlan })) stOk)) ∧
      (b ≠ [] → n + b.length ≤ 2 ^ 26 → exec (.fwStage m) s = ok 12 { s0 with twin := { s0.twin with
        staging := b.zipIdx.foldl (fun t x => tins t (n + x.2) x.1) s0.twin.staging } } stOk) ∧
      (m.arg = 0 → b = [] → 1352 < s0.stagedLen → let digest : BitVec 512 := BitVec.ofNat 512 (ofBytes (s0.staged 8 64))
        let good := Config.falconVerify digest (s0.staged 72 1280) = true ∧ Config.shake256 s0.stagedImage = digest ∧
          s0.twin.fuse.toNat ≤ (BitVec.ofNat 32 (ofBytes (s0.staged 4 4)) : BitVec 32).toNat
        let u : State := { s0 with
          gated := true
          twin := { s0.twin with activating := some { m with mop := 13 } } }
        (good → s0.kilns = [] → exec (.fwActivate m) s = ok 13 u.fwStart stOk) ∧ (good → s0.kilns ≠ [] → exec (.fwActivate m) s = .next u) ∧
        (¬ good → exec (.fwActivate m) s = ok 13 s0 stSigFail)) ∧
      (b = [] → 2000 ≤ n → n ≤ 7500 → exec (.powerCap m) s = ok 15 { s0 with twin := { s0.twin with capW := n } } stOk) ∧
      (n < 2 → let t := s0.respond { m with mop := 16 } ⟨0, 0, s0.portRec n⟩
        (b = [] → exec (.portSet m) s = .next t) ∧
        (∀ r, newPortRec m = some r → exec (.portSet m) s = .next { t with portRecs := tins t.portRecs n r }))) ∧
    (∀ p < 8, m.part.toNat = p → s0.MgmtOk m true →
      (m.arg = 0 → b = [] → exec (.partStatus m) s = ok 3 s0 ⟨0, 0, s0.partRecord p⟩ ∧
        (peState (s0.part p).entry = 1 → exec (.drain m) s = ok 4 (s0.setPartState p 2).settleDrain stOk) ∧
        (peState (s0.part p).entry = 2 ∨ peState (s0.part p).entry = 3 → exec (.undrain m) s = ok 5 ((s0.setPartState p 1).modPart p (fun x => { x with
          refused := 0
          maxGrade := 0 })) stOk)) ∧
      (n < 64 → b.length = 32 → winFits (s0.part p).windows n (winOf b) = true →
        exec (.windowSet m) s = ok 7 (s0.modPart p (fun x => { x with windows := tins x.windows n (winOf b) })) stOk) ∧
      (m.arg = 0 → b.length = 22 → let base := ofBytes (b.take 8)
        let size := ofBytes ((b.drop 8).take 8) * 8192
        let key := ofBytes ((b.drop 16).take 2)
        base % 8192 = 0 → s0.rangeInPart p base size = true → s0.keyInPart p key = true →
        let h : Handle := {
          id := BitVec.ofNat 32 s0.nextHandle
          base := base
          size := size
          key := key
          perms := BitVec.ofNat 3 (ofBytes ((b.drop 18).take 1))
          dev := BitVec.ofNat 16 (ofBytes ((b.drop 19).take 2))
          impPart := ofBytes ((b.drop 21).take 1)
          part := p
          live := true }
        exec (.handleExport m) s = ok 8 { s0 with handles := s0.handles ++ [h], nextHandle := s0.nextHandle + 1 } ⟨0, h.id.toNat, []⟩) ∧
      (b = [] → s0.handles.any (fun h => h.id.toNat == n && h.part == p && h.live) = true →
        let hs := s0.handles.map (fun h => if h.id.toNat == n && h.part == p && h.live then { h with live := false } else h)
        exec (.handleRevoke m) s = ok 9 { s0 with handles := hs } stOk) ∧
      (b = [] → s0.keyInPart p n = true →
        (tfind s0.keys n = none → let u := s0.endKey n
          exec (.keyGen m) s = ok 10 { u with keys := tins u.keys n u.nextGen, nextGen := u.nextGen + 1 } stOk) ∧
        exec (.keyZero m) s = ok 11 (s0.retireKey n) stOk ∧ tfind (s0.retireKey n).keys n = none) ∧
      (m.arg = 0 → b.length = 32 → let sums := (List.range 8).flatMap (fun k => bytesOf 64 (s0.measured k).toNat)
        let quoteOf := b ++ bytesOf 8 Config.devId.toNat ++ bytesOf 8 (s0.entryNow p) ++ bytesOf 8 s0.twin.gen ++ sums ++ Config.identityKey
        exec (.attest m) s = ok 14 s0 ⟨0, 0, quoteOf ++ bytesOf 1280 (Config.falconSign (Config.shake256 quoteOf)).toNat⟩) ∧
      (n < 256 → b.length = 80 → b.getD 2 0 &&& 0xfe = 0 → ofBytes ((b.drop 3).take 5) = 0 → ofBytes ((b.drop 72).take 8) = 0 →
        (peerValid b = true → ∀ e ∈ (s0.part p).peers, e.1 ≠ n → peerValid e.2 = true → peerDevOf e.2 ≠ peerDevOf b) →
        exec (.peerSet m) s = ok 17 (s0.modPart p (fun x => { x with peers := tins x.peers n b })) stOk)) ∧
    (m.path = 0 → s0.twin.failed = false → s0.twin.recovering = false → s0.twin.activating ≠ none →
      let waits : BitVec 16 → Host.Outcome State Fault Refusal := fun k => Host.Outcome.next { s0 with twin := { s0.twin with
        mgmtWait := s0.twin.mgmtWait ++ [{ m with mop := k }] } }
      exec (.invRead m) s = waits 1 ∧ exec (.partSet m) s = waits 2 ∧ exec (.partStatus m) s = waits 3 ∧ exec (.drain m) s = waits 4 ∧
      exec (.undrain m) s = waits 5 ∧ exec (.pathSet m) s = waits 6 ∧ exec (.windowSet m) s = waits 7 ∧ exec (.handleExport m) s = waits 8 ∧
      exec (.handleRevoke m) s = waits 9 ∧ exec (.keyGen m) s = waits 10 ∧ exec (.keyZero m) s = waits 11 ∧ exec (.fwStage m) s = waits 12 ∧
      exec (.fwActivate m) s = waits 13 ∧ exec (.attest m) s = waits 14 ∧ exec (.powerCap m) s = waits 15 ∧ exec (.portSet m) s = waits 16 ∧
      exec (.peerSet m) s = waits 17 ∧ exec (.path0Sync m) s = waits 18)

/-- R49, R50, R61, R63, R64, R71, R72, R74, R166, R169: A snapshot asks the dies that are up and powered for their status words; with none to ask, or when the last has answered, it fills the inactive buffer under the next generation and makes it active; descriptor reads serve every valid partition; a measurement joins the last hundred; each die's clock steps 100 MHz within 1,500 to 2,700 by the power that governs it against its cap; a sag stretches a cluster until it ends; gating closes the aperture, and ungating applies the buffered notifications unless a recovery or an activation keeps it closed; a recovery begins, then ends with its record (event codes of R169) and opens an aperture that nothing else closes; a hub failure is recorded; a package reset leaves exactly the reset state but for the fuse, the firmware that runs with its version and image, what has left the device, and the environment's turns and free values (log 24). Which power governs a die's clock is the model's reading (log 29). -/
def Obligations.HubHousekeeping : Prop :=
  ∀ s : State,
    (s.twin.snap = none → let mark := fun (u : State) => ({ u with twin := { u.twin with snap := some ⟨s.gtime, s.askedDies, []⟩ } } : State)
      (s.askedDies = [] → exec .inventorySnapshot s = .next (mark s).settleSnap) ∧
      (∀ s1 : State, s.askedDies ≠ [] → s.askStatus s.askedDies = some s1 → exec .inventorySnapshot s = .next (mark s1))) ∧
    (∀ x : Snap, s.twin.snap = some x → x.awaited = [] → let t := s.settleSnap
      t.twin.gen = s.twin.gen + 1 ∧ t.twin.snap = none ∧ t.twin.invActive = 1 - s.twin.invActive % 2 ∧
      t.twin.invBuf.getD t.twin.invActive [] = s.inventory x (s.twin.gen + 1) ∧
      t.twin.invBuf.getD (1 - t.twin.invActive) [] = s.twin.invBuf.getD (1 - t.twin.invActive) []) ∧
    exec .cinderDescriptorRead s = .next (s.validParts.foldl State.readCinder s) ∧
    (∀ w : Nat × List Nat, ∃ t, exec (.powerMeasure w) s = .next t ∧ t.twin.power = (w :: s.twin.power).take 100) ∧
    (∃ t, exec .clockStep s = .next t ∧ ∀ d < 8, let c := s.clockOf d
      let power := (s.powerFor d).1
      let cap := (s.powerFor d).2
      (1500 ≤ c → c ≤ 2700 → 1500 ≤ t.clockOf d ∧ t.clockOf d ≤ 2700) ∧
      (cap < power → t.clockOf d = max 1500 (c - 100)) ∧ (power ≤ cap → power * 100 < cap * 97 → t.clockOf d = min 2700 (c + 100)) ∧
      (power ≤ cap → cap * 97 ≤ power * 100 → t.clockOf d = c)) ∧
    (∀ die c : Nat, let k := die * 16 + c
      ((s.cluster k).stretched = false → ∃ t, exec (.droopStretch die c) s = .next t ∧ (t.cluster k).stretched = true ∧
        tget t.stretches die 0 = tget s.stretches die 0 + 1) ∧
      (∃ t, exec (.supplySagEnd die c) s = .next t ∧ (t.cluster k).stretched = false ∧ t.stretches = s.stretches)) ∧
    (∃ t, exec .hubSlotRotation s = .next t ∧ t.twin.rotation = (s.twin.rotation + 1) % 8) ∧
    (∃ t, exec .frontEndPowerGating s = .next t ∧ t.gated = true ∧ t.fePowered = false ∧ t.wake = s.wake) ∧
    (s.twin.recovering = false → s.twin.activating = none → exec .frontEndUngating s = .next (s.wake.foldl (fun u w => u.notify w.1 w.2)
      { s.unfocus with fePowered := true, gated := false, wake := [] })) ∧
    (s.twin.recovering = true ∨ s.twin.activating ≠ none → exec .frontEndUngating s = .next { s.unfocus with fePowered := true }) ∧
    (s.twin.recovering = false → ∃ t, exec .checkpointRecovery s = .next t ∧ t.twin.recovering = true ∧ t.gated = true ∧ t.fePowered = s.fePowered) ∧
    (s.twin.recovering = true → let u : State := { s.unfocus with twin := { s.twin with recovering := false } }
      (s.fePowered = false ∨ s.twin.activating ≠ none → exec .checkpointRecovery s = .next (u.record (Rec.event 5 0 0x49 0 0))) ∧
      (s.fePowered = true → s.twin.activating = none → exec .checkpointRecovery s = .next ((s.wake.foldl (fun (v : State) w => v.notify w.1 w.2)
        { u with gated := false, wake := [] }).record (Rec.event 5 0 0x49 0 0)))) ∧
    (exec .hubFailure s = .next (({ s with twin := { s.twin with failed := true } } : State).record (Rec.event 5 0 0x4a 4 0))) ∧
    exec .packageReset s = .next { State.reset with
      twin := { State.reset.twin with
        fuse := s.twin.fuse
        fwVersion := s.twin.fwVersion
        bootImage := s.runningImage }
      sent := s.sent
      freeNo := s.freeNo
      turns := s.turns }

/-- R70, R71, R92, R114, R171: Retiring a core not retired before disables it, records it (grade G1 while a free spare remains for it beside the cores that wait for one, else G2), samples each team of it, with the whole grid of a C team, for whose record the arenas have room, and lets a spare take its number once no team is on it; a second report samples what it can again; fencing a die that is up marks it lost, sets its SERVICE-REQUESTED bit, ends its teams and stops the waiting groups of the grids with a part on it, after which grids settle and waiting requests go on. -/
def Obligations.LostUnits : Prop :=
  ∀ (s : State) (d c : Nat), let s0 := s.unfocus
    (let id := d * 64 + c
     let b := (s0.coreAt id).built
     s0.twin.retired.contains (d * 68 + b) = false →
     let s1 := ({ s0 with
         cores := tmod s0.cores id (Core.initial c) (fun x => { x with enabled := false })
         twin := { s0.twin with
           retired := insertNat (d * 68 + b) s0.twin.retired
           retireDue := s0.twin.retireDue.filter (· != id) } } : State).record
             (Rec.event 0 id 0x42 (if s0.awaitSpare d < (s0.freeSpares d).length then 1 else 2) 0)
     let mine := s1.teams.filter (fun p => p.2.die == d && p.2.core == c && !p.2.ended && !p.2.aborted && !p.2.sampled)
     ((∀ p ∈ s0.teams, ¬ (p.2.die = d ∧ p.2.core = c)) → exec (.coreRetire d c) s = .next ((s1.settleSpare d c).coreThreshold d)) ∧
     exec (.coreRetire d c) s = .next (((mine.foldl (fun u p => (u.sampleAll (u.wholeTeam p)).getD u) s1).settleSpare d c).coreThreshold d)) ∧
    (s0.twin.retired.contains (d * 68 + (s0.coreAt (d * 64 + c)).built) = true →
     let s1 : State := { s0 with twin := { s0.twin with retireDue := s0.twin.retireDue.filter (· != d * 64 + c) } }
     let mine := s1.teams.filter (fun p => p.2.die == d && p.2.core == c && !p.2.ended && !p.2.aborted && !p.2.sampled)
     exec (.coreRetire d c) s = .next (((mine.foldl (fun u p => (u.sampleAll (u.wholeTeam p)).getD u) s1).settleSpare d c).coreThreshold d)) ∧
    (s.twin.lostDies.contains d = false → let gs := s0.gridsOnDie d
      let lost := (s0.teams.filter (fun p => gs.contains p.2.grid && p.2.die != d)).foldl (fun v p => v.loseWaiters d p.1 p.2) s0
      let gone := (gs.foldl (fun v g => v.abortTree g 2) lost).dropDie d
      let u := ({ gone with twin := { gone.twin with lostDies := insertNat d gone.twin.lostDies, sr := gone.twin.sr ||| 16 } } : State).record
        { Rec.event 5 0 0x47 2 0 with part := s0.ownerOf d }
      exec (.dieFence d) s = .next u.settleGrids.retryAll ∧
      u.twin.lostDies.contains d = true ∧ u.twin.sr.getLsbD 4 = true ∧ ∀ p ∈ u.teams, p.2.die ≠ d)

/-- R80, R82, R83, R84, R86, R87: A readable slot whose stamp is the head is consumed; a due mirror is written; a NOP that starts is complete; a FENCE that starts is complete and its event signalled; a signal adds to its counter and waits look again; an EVENT_WAIT that looks completes when its counter has reached the value and otherwise waits on; a COPY that starts becomes a job of channel 15 of the cluster its queue number names. -/
def Obligations.QueueCommands : Prop :=
  ∀ (s : State) (q p : Nat), let s0 := s.unfocus
    (∀ (s1 : State) (ws : List Word),
      (s0.SlotGood q p s1 ws → exec (.slotRead q) s = .next (s1.consume p q ws)) ∧
      ((s0.modQueue q (fun x => { x with slotWait := false })).SlotGood q p s1 ws → exec (.slotRereadTimer q) s = .next (s1.consume p q ws))) ∧
    ((s0.queue q).mirrorDue = true → exec (.mirrorWrite q) s = .next (s0.mirrorNow q)) ∧
    (∀ (c : Cmd) (s1 : State),
      (s0.Starts q 6 p c s1 → exec (.nop q) s = .next ((s1.dropCmd q c.uid).dropBadOps q 4)) ∧
      (s0.Starts q 5 p c s1 → exec (.fence q) s = .next (s1.modCmd q c.uid (fun c =>
        { c with started := true, complete := true, signal := slEvEn c.num })).settleCmds) ∧
      (s0.Starts q 3 p c s1 → exec (.eventWait q) s = .next ((s1.modCmd q c.uid (fun c => { c with started := true })).evalWait p q
        { c with started := true })) ∧
      (∀ s2 : State, s0.Starts q 2 p c s1 → (s0.queue q).cmds.find? (fun c => c.started && slOp c.num == 2) = none →
        s1.signalEvent p c.asid (slEvVa c.num) (slEvInc c.num) (.event q c.uid) = (s2, .made) →
        exec (.eventSignal q) s = .next (((s2.dropCmd q c.uid).dropBadOps q 4).rereadWaits p)) ∧
      (s0.Starts q 4 p c s1 → ∃ u k j, exec (.copy q) s = .next u ∧ k % 16 = q % 16 ∧ (u.cluster k).jobs = (s1.cluster k).jobs ++ [j] ∧
        j.queue = some (q, c.uid) ∧ j.chan = 15 ∧ j.card = (c.slot.drop 2).take 16 ∧ j.data = BitVec.ofNat 64 (byteField c.num 72 8) ∧
        j.part = p ∧ j.started = false)) ∧
    (∀ (c : Cmd) (s1 s2 : State) (x : XOk) (ws : List Word), (s0.queue q).cmds.find? (fun c => c.started && slOp c.num == 3) = some c →
      s0.partOfQueue q = some p → c.seen = none → c.asked = false →
      s0.translate none p c.asid (slEvVa c.num) .load 0 = (s1, .ok x) → regionOf x.pa ≠ .window →
      s1.readAt x 2 = (s2, ws) → allGood ws = true →
      exec (.eventReread q) s = .next (if byteField c.num 8 8 ≤ ofWords ws then (s2.dropCmd q c.uid).dropBadOps q 4
        else s2.modCmd q c.uid (fun c => { c with asked := false, seen := none })))

/-- R93, R96, R99, R101, R102, R103, R104, R106, R109, R114, R115, R120: The claims of a die having been tested, the first eligible candidate of class P or W that fits is placed anew or restored on the chosen core (whose partition word is set when it was idle); a C grid whose claims are met is placed whole; a queue with unplaced teams not placed for the interval is marked starving; the head of the order that was passed over for 100 µs is pinned beside whatever else is pinned; a quiet ended team leaves its core; a trigger samples just enough victims for the claim or pin that has waited 50 µs when the arenas hold them; a sampled quiet team is saved in its kept place and leaves its core, one of a C grid once every team of its grid is; the first parked team whose records have room is sampled and marked swapped for a child that cannot be placed. Which victims are taken, and where a record is kept, is the model's choice where R114, R115 and R109 leave it open (log 22). -/
def Obligations.Placement : Prop :=
  ∀ (s : State) (die : Nat), let s0 := s.unfocus
    (s.twin.activating = none → let s1 := s0.tellClaims die
      ∀ (c : Cand) (r : List Cand), s1.eligible die = c :: r →
      (∀ (core : Nat) (fresh : Bool), c.isC = false → s1.findCore die (ofWords c.grid.packet) = some (core, fresh) →
        let s2 := if fresh then s1.setWord (die * 64 + core) (pkPartWord (ofWords c.grid.packet)) else s1
        (c.saved = false → exec (.teamPlace die) s = .next ((s2.placeNew c.grid die core c.t).notePlaced die c c)) ∧
        (∀ x : SavedRec, c.saved = true → s2.recOf die c.grid.num c.t = some x →
          exec (.teamRestore die) s = .next (((s2.restoreAt x core (s2.freeSlot die core)).served c.grid.queue false).notePlaced die c c))) ∧
      (c.isC = true → s1.claimsMet c = true →
        let u := (s1.claimHeads c.grid).foldl (fun (v : State) h => v.notePlaced h.1 h.2 c) (s1.placeClaim c.grid)
        (c.saved = false → exec (.teamPlace die) s = .next u) ∧ (c.saved = true → exec (.teamRestore die) s = .next u))) ∧
    (∀ q : Nat, s.hasUnplaced q = true → (s.queue q).waitFrom + 100000 ≤ s.gtime → exec (.queueStarvation q) s = .next (s.modQueue q (fun x =>
      { x with starving := true, waitFrom := s.gtime }))) ∧
    (∀ (c : Cand) (r : List Cand) (since : Nat), s.ordered die = c :: r → (tget s.disps die Disp.initial).passed = some (c.grid.num, since) →
      since + 100000 ≤ s.gtime → s.pinnedOn die c.grid.num = false →
      ∃ t, exec (.candidatePin die) s = .next t ∧ tfind (tget t.disps die Disp.initial).pinned c.grid.num = some s.gtime ∧
        (∀ g, g ≠ c.grid.num → t.pinnedOn die g = s.pinnedOn die g) ∧ t.teams = s.teams ∧ t.grids = s.grids) ∧
    (∀ (core slot : Nat) (t : Team), let key := teamKey die core slot
      tfind s0.teams key = some t → t.aborted = false → s0.teamQuiet key t = true →
      (t.ended = true → s0.teamCopies key t = [] → ∃ u : State, exec (.teamRetire die core slot) s = .next ((u.checkTurn t.grid).settleSpare die core) ∧
        tfind u.teams key = none ∧ (∀ k, k ≠ key → tfind u.teams k = tfind s0.teams k)) ∧
      (∀ base : Nat, t.sampled = true → t.ended = false →
        (t.mode.toNat % 4 = 0 → s0.gridQuiet t.grid = true ∧ ∀ p ∈ s0.teams, p.2.grid = t.grid → p.2.ended = false →
          p.2.sampled = true ∧ s0.teamQuiet p.1 p.2 = true) → s0.recordPlace key t = some base →
        let u := s0.saveTeam key t base (if (tget s0.disps die Disp.initial).swapped.contains (core, slot) then s0.awaited t else [])
        exec (.preemptSave die core slot) s = .next (({ u with disps := tmod u.disps die Disp.initial (fun d =>
          { d with swapped := d.swapped.filter (· != (core, slot)) }) } : State).settleSpare die core) ∧ tfind u.teams key = none)) ∧
    (∀ (c : Cand) (r : List Cand) (ks : List Nat) (u : State), let free := s0.without s0.leaving
      (s0.ordered die).filter (s0.holdsBack die) = c :: r → free.reserveFor die c = none → s0.waitsFrom die c + 50000 ≤ s0.gtime →
      free.enough die c [] (s0.victims die (s0.gridPrio c.grid)) = some ks → s0.sampleAll ks = some u →
      exec (.preemptTrigger die) s = .next u) ∧
    (∀ (c : Cand) (v : Nat × Team) (l r : List (Nat × Team)) (u : State), s0.swapCand die = some c → s0.swapVictims die c = l ++ v :: r →
      (∀ x ∈ l, s0.sampleAll (s0.wholeTeam x) = none) → s0.sampleAll (s0.wholeTeam v) = some u →
      exec (.childSwapOut die) s = .next ((s0.wholeTeam v).foldl State.markSwapped u))

/-- R112, R113, R193, R196, R198, R329, R358, R370: A group at 4,096 starved issues is raised; a sleep with nothing left completes; a waiting waitv is executed again and answers what that execution answers; the engine carries out and marks the granted job; a finished matrix job leaves the table and its token's count falls by one; the next startable copy job of a channel starts; one that ran without fault leaves the table and counts in its batch. That a job does its memory work in one step is the model's choice (log 14). -/
def Obligations.TimersAndEngines : Prop :=
  ∀ (s : State),
    (∀ r : GroupRef, s.focus = .group r → r.die < 8 →
      (4096 ≤ s.g.starve → s.g.raised = none → exec (.groupRaised r) s = .next { s with g := { s.g with raised := some s.ck } }) ∧
      (s.g.wait = .sleep 0 → exec (.sleepExpiry r) s = .next ({ s with g := { s.g with wait := .none } } : State).advance) ∧
      (∀ (d a b : BitVec 6) (w : BitVec 1) (c g : BitVec 3) (rem : Option Nat), s.g.wait = .waitv rem →
        decode s.g.waitI = .ok (.sWaitv d a b w c g) →
        ∃ t, exec (.waitvReread r) s = .next t ∧ exec (.sWaitv d a b w c g) s = .next t)) ∧
    (∀ die c : Nat, let k := die * 16 + c
      let s0 := s.unfocus
      (∀ j : MatrixJob, s0.nextGrant (s0.cluster k) = some j → exec (.mmaPassGrant die c) s = .next ((s0.runJob j).modCluster k (fun x =>
        { x with mjobs := x.mjobs.map (fun y => if y.seq = j.seq then { y with granted := true } else y) }))) ∧
      (∀ (n : Nat) (j : MatrixJob), (s0.cluster k).mjobs.find? (fun j => j.seq == n && j.granted) = some j →
        exec (.matrixJobFinish die c n) s = .next ((s0.modCluster k (fun x => { x with mjobs := x.mjobs.filter (fun y => y.seq != n) })).modGroup
          j.grp (fun g => { g with toks := tmod g.toks j.tok 0 (· - 1) }))) ∧
      (∀ (ch : Nat) (j : CopyJob), (s0.cluster k).jobs.find? (fun j => j.chan == ch && mayStart (s0.cluster k) j && !s0.jobStopped (s0.cluster k) j) = some j →
        exec (.copyJobStart die c ch) s = .next (s0.modCluster k (fun x =>
          { x with jobs := x.jobs.map (fun y => if y.seq = j.seq then { y with started := true } else y) }))) ∧
      (∀ (ch off : Nat) (j : CopyJob) (r : GroupRef) (s1 : State), (s0.cluster k).jobs.find? (fun j => j.chan == ch && j.started) = some j →
        s0.runCopy j = (s1, 0, off) → j.owner = some r → exec (.copyJobFinish die c ch) s =
          .next ((s1.modCluster k (fun x => { x with jobs := x.jobs.filter (fun y => y.seq != j.seq) })).modGroup r (jobDone j.batch 0 ch))))

/-- R187, R189, R191, R250, R251, R259: A line with no store under way leaves the L1, its partials flushed and its owned words written back first; gating a core's L1 empties it, gating a slice gives up its lines one by one; a word that no row encodes takes the ILLEGAL_INSN trap for its active lanes, those its guard leaves where its operation has one; on a Kiln engine a V-set one ends the command. Which lanes those are, all of EXEC for an S-set word and for an operation with no format, is the model's reading (log 13). -/
def Obligations.CachesAndUnassignedWords : Prop :=
  ∀ s : State,
    (∀ core tag : Nat, let ws := (List.range 32).filterMap (fun i => (tfind s.l1 (l1Key core tag i)).map (fun w => (i, w)))
      let owned := ws.filter (fun w => isOwned (some w.2))
      let s1 := if (s.partialsOf tag core).isEmpty then s else s.addPartials tag core (tget s.commKinds tag 0)
      let gone := fun u : State => Host.Outcome.next (({ u with l1 := u.l1.filter (fun e => e.1 / 32 != tag * 512 + core) } : State).staleFills core tag)
      s.merges.any (fun m => m.core == core && m.tag == tag) = false → (∀ w ∈ ws, isPending (some w.2) = false) →
      (owned = [] → exec (.l1Eviction core tag) s = gone s1) ∧
      (∀ u : State, owned ≠ [] → s1.sendBack core tag (owned.map (fun w => (w.1, w.2.w))) = some u → exec (.l1Eviction core tag) s = gone u)) ∧
    (∀ die unit : Nat, exec (.cachePowerGate false die unit) s = .next (s.flushCore (die * 64 + unit)) ∧
      (∀ e ∈ (s.flushCore (die * 64 + unit)).l1, e.1 / 32 % 512 ≠ die * 64 + unit) ∧
      exec (.cachePowerGate true die unit) s = .next ((s.l2Of (die * 64 + unit)).foldl (fun u e => u.l2Drop e.1) s)) ∧
    (∀ (w : BitVec 32) (s2 : State) (xs : List XOk),
      (w.getLsbD 31 = true → let t := Trap.plain cIllegal 0 s.g.exec s.g.exec
        s.Delivers t s2 xs → exec (.unassignedEncoding w) s = .next (s.delivered t s2 xs)) ∧
      (w.getLsbD 31 = false → s.onKiln = true → exec (.unassignedEncoding w) s = .next (s.kilnStop 0x09 false)) ∧
      (w.getLsbD 31 = false → let ls := if guardedOp (field w.toNat 25 6) then (s.act (field w.toNat 0 3)).lanes else s.baseLanes
        let t := Trap.plain cIllegal 0 ls ls
        s.Delivers t s2 xs → exec (.unassignedEncoding w) s = .next (s.delivered t s2 xs)))

/-- R279: In every active lane mov.b32 writes the source word, and mov.b64 both source words, data and residue, as they stood before the instruction, also where the pairs overlap; a source with a poisoned word is copied as poison (R221) and the instruction completes. -/
def Obligations.LaneMoves : Prop :=
  ∀ (s : State) (d a : BitVec 6) (p : BitVec 3),
    (s.FitV p (names2 d.toNat a.toNat 1) → s.ReadsV p [(a.toNat, 1)] →
      exec (.vMovB32 d a p) s = .next (s.putV p d.toNat (fun l => copyOf (s.vRun a.toNat 1 l))).advance) ∧
    (s.FitV p (names2 d.toNat a.toNat 2) → s.ReadsV p [(a.toNat, 2)] →
      exec (.vMovB64 d a p) s = .next (s.putV p d.toNat (fun l => copyOf (s.vRun a.toNat 2 l))).advance) ∧
    (∀ ws : List Word, (ws.any Word.isPoison = false → copyOf ws = ws) ∧ (ws.any Word.isPoison = true → ∀ w ∈ copyOf ws, w = Word.poison))

/-- R229: For every word and every k below 32 the residue of the word shifted left, shifted right, shifted right with sign and rotated left by k is the prediction of the rule; rotating right by k is rotating left by 32 − k; 8 is the inverse of 2 modulo 15; the sign fill is 2^32 − 2^(32−k), its residue the added term, and it occupies bits that the logical result leaves clear. -/
def Obligations.ShiftResidues : Prop :=
  ∀ (a : BitVec 32) (k : Nat), k < 32 → let ra : Int := (resOf a).toNat
    let res : BitVec 32 → Int := fun x => (resOf x).toNat
    let outL := a.toNat / 2 ^ (32 - k)
    let outR := a.toNat % 2 ^ k
    let fill : BitVec 32 := BitVec.ofNat 32 (2 ^ 32 - 2 ^ (32 - k))
    res (a <<< k) = (ra * 2 ^ (k % 4) - outL % 15) % 15 ∧
    res (a >>> k) = ((ra - outR % 15) * 8 ^ (k % 4)) % 15 ∧
    res (a.sshiftRight k) = (((ra - outR % 15) * 8 ^ (k % 4)) + if a.msb then 1 - 2 ^ ((4 - k % 4) % 4) else 0) % 15 ∧
    res (a.rotateLeft k) = (ra * 2 ^ (k % 4)) % 15 ∧
    a.rotateRight k = a.rotateLeft ((32 - k) % 32) ∧
    (8 * 2) % 15 = 1 ∧
    (k ≠ 0 → (a >>> k) &&& fill = 0 ∧ res fill = (1 - 2 ^ ((4 - k % 4) % 4)) % 15 ∧
      (a.msb = true → a.sshiftRight k = (a >>> k) + fill))

/-- R154: A delivered trap goes on at %ktab, or for H at %htab, plus 64 times its cause code, whenever that base, as an instruction address, is a multiple of 4; with a base of 0 a trap that would else be delivered is recorded and the grid's whole tree is aborted. -/
def Obligations.TrapVectors : Prop :=
  ∀ (s s2 : State) (t : Trap) (xs : List XOk),
    (s.Delivers t s2 xs → s.raise t = s.delivered t s2 xs ∧
      ∀ u : State, (if trapToH t then u.g.priv.htab else u.g.priv.ktab).toNat % 4 = 0 → (u.enterTrap t (if t.retAt then s.g.pc else s.g.pc + 4) (causeWord t s.mode (isRepeat s.g t))).g.pc =
        (if trapToH t then u.g.priv.htab else u.g.priv.ktab) + BitVec.ofNat 64 (64 * t.cause)) ∧
    (s.onKiln = false → s.mode ≠ 2 → s.g.priv.kdepth.toNat < 4 → (if trapToH t then s.g.priv.htab else s.g.priv.ktab) = 0 →
      s.raise t = ((({ s with traps := if t.cause = cResidue then tmod s.traps s.tm.die 0 (· + 1) else s.traps } : State).gradeGrid s.tm.grid
        (causeGrade t.cause)).record (trapRec s t (if t.retAt then s.g.pc else s.g.pc + 4) (causeWord t s.mode (isRepeat s.g t)) 0x20)).abortTree s.tm.grid (causeGrade t.cause))

/-- R152, R153, R156, R157: Entry saves the return address, cause word and trapping lanes in the target mode's registers, raises the nesting depth and the mode, advances the spill pointer by a frame of 64 words, enables exactly the trapping lanes, clears the replay mask and the loops, and leaves BIND, the window, F, FMT, the uniform registers, the predicates and the team as they were; the handler's pc is the vector base, its two low bits taken as zero (log 26), plus 64 times the cause. The cause word holds its fields, its reserved and request bits zero, and the frame's words, each with its residue, hold what the layout gives. -/
def Obligations.TrapEntry : Prop :=
  ∀ (s : State) (t : Trap) (ret : Addr) (cw : BitVec 32), let u := s.enterTrap t ret cw
    let h := trapToH t
    u.g.spill = s.g.spill + 256 ∧ u.g.priv.kframe = s.g.spill - BitVec.ofNat 64 (linkBase s.tm s.g.idx) ∧
    u.g.priv.kdepth = s.g.priv.kdepth + 1 ∧ u.g.priv.mode = (if h then 2 else 1) ∧ u.g.exec = t.k ∧ u.g.pend = 0 ∧ u.g.loops = [] ∧
    (h = false → u.g.priv.kpc = ret ∧ u.g.priv.kcause = cw ∧ u.g.priv.kmask = t.k ∧ u.g.priv.hpc = s.g.priv.hpc ∧
      u.g.priv.hcause = s.g.priv.hcause ∧ u.g.priv.hmask = s.g.priv.hmask) ∧
    (h = true → u.g.priv.hpc = ret ∧ u.g.priv.hcause = cw ∧ u.g.priv.hmask = t.k ∧ u.g.priv.kpc = s.g.priv.kpc ∧
      u.g.priv.kcause = s.g.priv.kcause ∧ u.g.priv.kmask = s.g.priv.kmask) ∧
    u.g.bind = s.g.bind ∧ u.g.wb = s.g.wb ∧ u.g.frame = s.g.frame ∧ u.g.fmt = s.g.fmt ∧ u.g.sregs = s.g.sregs ∧ u.g.upreds = s.g.upreds ∧
    u.g.subs = s.g.subs ∧ u.tm = s.tm ∧ u.mem = s.mem ∧ (frameWords s t).length = 64 ∧ (u.g.drain = !s.g.pset.isEmpty) ∧
    (h = true ↔ t.cause = cHcall ∨ ((t.cause = cXlate ∨ t.cause = cPerm) ∧ t.stage2 = true)) ∧
    u.g.pc = vecBase s.g.priv h + BitVec.ofNat 64 (64 * t.cause) ∧ (vecBase s.g.priv h).toNat % 4 = 0 ∧
    (∀ (mode : Nat) (rpt : Bool), let c := causeWord t mode rpt
      c.extractLsb' 0 8 = BitVec.ofNat 8 t.cause ∧ c.extractLsb' 8 2 = BitVec.ofNat 2 mode ∧ c.getLsbD 10 = t.retAt ∧
      c.getLsbD 11 = t.stage2 ∧ c.getLsbD 12 = t.write ∧ c.getLsbD 13 = t.fetch ∧ c.getLsbD 14 = rpt ∧ c.getLsbD 15 = false ∧
      c.extractLsb' 16 8 = BitVec.ofNat 8 t.info ∧ c.extractLsb' 24 8 = 0) ∧
    (let w := frameWords s t
     (∀ x ∈ w, x.res = resOf x.data) ∧
     dat64 w 0 = (if h then 0 else s.g.priv.kpc) ∧ dat w 2 = (if h then 0 else s.g.priv.kcause) ∧ dat w 3 = (if h then 0 else s.g.priv.kmask) ∧
     dat64 w 4 = s.g.priv.kframe ∧ dat w 6 = s.g.exec ∧ dat w 7 = s.g.bind ∧ dat w 8 = (if t.retAt then t.p else 0) ∧ dat w 9 = s.g.fmt ∧
     field (dat w 10).toNat 0 16 = s.g.wb.toNat ∧ field (dat w 10).toNat 16 8 = s.g.frame % 256 ∧
     field (dat w 10).toNat 24 8 = s.g.loops.length % 256 ∧ dat w 11 = BitVec.ofNat 32 s.stackDepth ∧
     dat64 w 12 = BitVec.ofNat 64 t.fva ∧ dat64 w 14 = (if h then 2 else 1) ∧
     (∀ i < 4, match s.g.loops[i]? with
       | some l => dat64 w (16 + 6 * i) = l.start ∧ dat64 w (18 + 6 * i) = l.stop ∧ dat64 w (20 + 6 * i) = l.count
       | none => dat64 w (16 + 6 * i) = 0 ∧ dat64 w (18 + 6 * i) = 0 ∧ dat64 w (20 + 6 * i) = 0) ∧
     (∀ i, 40 ≤ i → i < 64 → dat w i = 0))

/-- R89, R153, R155, R163, R164, R168: A trap raised in H mode, with four frames held, or with no room for its frame halts the group, after its record, and aborts the grid's tree; a halted group can never issue again; on a Kiln engine a trap ends the run's command with code 0x08 after its record. -/
def Obligations.UndeliverableTraps : Prop :=
  ∀ (s : State) (t : Trap), let ret := if t.retAt then s.g.pc else s.g.pc + 4
    let cw := causeWord t s.mode (isRepeat s.g t)
    let s1 := ({ s with traps := if t.cause = cResidue then tmod s.traps s.tm.die 0 (· + 1) else s.traps } : State).gradeGrid s.tm.grid (causeGrade t.cause)
    (s.onKiln = false →
      (s.mode = 2 ∨ 4 ≤ s.g.priv.kdepth.toNat ∨
        (vecBase s.g.priv (trapToH t) ≠ 0 ∧ (s.g.spill = 0 ∨ linkEnd s.tm s.g.idx < s.g.spill.toNat + 256)) →
        s.raise t = (s1.record (trapRec s t ret cw 0x30)).halt (causeGrade t.cause) ∧ (s.raise t).g.halted = true ∧ (s.raise t).canIssue = false)) ∧
    (s.onKiln = true → s.raise t = (s.record (trapRec s t ret cw 0)).kilnStop 0x08 false)

/-- R89, R127, R133, R158, R163, R251, R255, R259: For add of either half: a register at or above F (or past s63) raises ILLEGAL_INSN, then a register in the pending set raises LOOKAHEAD, of the lanes it would run in, taken once no result is pending; a uniform add under a false guard only completes, under a faulty guard pair it raises RESIDUE_CHECK with detail 4; a V-set add on a Kiln engine ends the command with code 0x09. -/
def Obligations.IssueChecks : Prop :=
  ∀ (s : State) (d a b : BitVec 6),
    (∀ p : BitVec 3, let ns := names3 d.toNat a.toNat b.toNat 1
      let ls := (s.act p.toNat).lanes
      (s.onKiln = true → exec (.vAdd d a b 0 p) s = .next (s.kilnStop 0x09 false)) ∧
      (s.onKiln = false → s.namesOk ns = false → exec (.vAdd d a b 0 p) s = .next (s.raise (Trap.plain cIllegal 0 ls ls))) ∧
      (s.onKiln = false → s.namesOk ns = true → s.namesPending ns = true → exec (.vAdd d a b 0 p) s = .next (s.defer (Trap.plain cLookahead 0 ls ls)))) ∧
    (∀ g : BitVec 3, let ns := unames3 d.toNat a.toNat b.toNat 1
      let e := s.g.exec
      (s.namesOk ns = true → s.namesPending ns = true → exec (.sAdd d a b 0 g) s = .next (s.defer (Trap.plain cLookahead 0 e e))) ∧
      (s.namesOk ns = true → s.namesPending ns = false → s.q g.toNat = some false → exec (.sAdd d a b 0 g) s = .next s.advance) ∧
      (s.namesOk ns = true → s.namesPending ns = false → s.q g.toNat = none →
        exec (.sAdd d a b 0 g) s = .next (s.raise (Trap.plain cResidue 4 e e))) ∧
      (∀ c : BitVec 6, c = 63 → s.q g.toNat = some true → exec (.sAdd c a b 1 g) s = .next (s.raise (Trap.plain cIllegal 0 e e)))) ∧
    (s.namesOk (names3 d.toNat a.toNat b.toNat 1) = true ↔
      d.toNat < s.g.frame ∧ a.toNat < s.g.frame ∧ b.toNat < s.g.frame) ∧
    (∀ t : Trap, s.g.due = some t → s.takeDue = if s.g.pset.isEmpty then
      ({ s with g := { s.g with due := none, wait := .none } } : State).raise t else s)

/-- R158, R165, R224, R225, R269: For add.n32, sub.n32, and, or and xor: when some active lane's source word fails its residue check, the lanes that pass are written, the failing lanes keep their destinations, and RESIDUE_CHECK is raised with K and P the failing lanes and the detail of the lowest failing lane's first failing operand. -/
def Obligations.FailingLanes : Prop :=
  ∀ (s : State) (d a b : BitVec 6) (p : BitVec 3) (l0 : Nat), s.FitV p (names3 d.toNat a.toNat b.toNat 1) →
    let ls := lanesOf (s.act p.toNat).lanes
    let bad := ls.filter (fun l => !(s.v a.toNat l).checks || !(s.v b.toNat l).checks)
    bad.head? = some l0 →
    let out : (BitVec 32 → BitVec 32 → BitVec 32) → Host.Outcome State Fault Refusal := fun f =>
      .next (((ls.filter (fun l => !bad.contains l)).foldl (fun t l => t.setV d.toNat l
        (if (s.v a.toNat l).isPoison || (s.v b.toNat l).isPoison then Word.poison else Word.ofData (f (s.v a.toNat l).data (s.v b.toNat l).data))) s).raise
        (Trap.plain cResidue (if (s.v a.toNat l0).checks then 2 else 1) (maskOf bad) (maskOf bad)))
    exec (.vAdd d a b 0 p) s = out (· + ·) ∧ exec (.vSub d a b 0 p) s = out (· - ·) ∧ exec (.vAnd d a b p) s = out (· &&& ·) ∧
    exec (.vOr d a b p) s = out (· ||| ·) ∧ exec (.vXor d a b p) s = out (· ^^^ ·)

/-- R3, R122, R127, R145, R159, R222, R267: The states that the register instructions complete in: a write of k lane registers changes exactly them in exactly the active lanes; a predicate write changes that predicate in those lanes, and p7 stays true; a uniform write changes exactly its registers, a uniform predicate write its predicate; nothing else of the group changes but pc, loops, pending windows, replay mask, waits and issue counters, and nothing else of the machine changes, memory included. -/
def Obligations.RegisterFrame : Prop :=
  ∀ (s : State) (p : BitVec 3), s.g.step = false →
    let kept := fun t : State => ({ t.g with
        pc := s.g.pc
        loops := s.g.loops
        pend := s.g.pend
        lastRc := s.g.lastRc
        pset := s.g.pset
        starve := s.g.starve
        raised := s.g.raised
        wait := s.g.wait
        count := s.g.count } : Group)
    let ls := lanesOf (s.act p.toNat).lanes
    (∀ (d k : Nat) (val : Nat → List Word), s.g.frame ≤ s.ringSize → s.ringSize ≤ 256 → d + k ≤ s.g.frame → (∀ l, (val l).length = k) →
      let t := (s.putV p d val).advance
      (∀ n < s.g.frame, ∀ l < 32, (l ∈ ls → d ≤ n → n < d + k → t.v n l = (val l).getD (n - d) Word.zero) ∧
        (¬ (l ∈ ls ∧ d ≤ n ∧ n < d + k) → t.v n l = s.v n l)) ∧
      kept t = s.g ∧ { t.tm with vregs := s.tm.vregs } = s.tm ∧ { t with g := s.g, tm := s.tm } = s) ∧
    (∀ (d : Nat) (val : Nat → Bool), d < 7 → let t := (s.putP p d val).advance
      (∀ n < 8, ∀ l < 32, (l ∈ ls → n = d → t.p n l = some (val l)) ∧ (¬ (l ∈ ls ∧ n = d) → t.p n l = s.p n l)) ∧ (∀ l, t.p 7 l = some true) ∧
      kept t = s.g ∧ { t.tm with preds := s.tm.preds } = s.tm ∧ { t with g := s.g, tm := s.tm } = s) ∧
    (∀ (d : Nat) (ws : List Word), let t := (s.setSs d ws).advance
      (∀ n, (d ≤ n → n < d + ws.length → t.s n = ws.getD (n - d) Word.zero) ∧ (¬ (d ≤ n ∧ n < d + ws.length) → t.s n = s.s n)) ∧
      { kept t with sregs := s.g.sregs } = s.g ∧ { t with g := s.g } = s) ∧
    (∀ (d : Nat) (c : Bool), d < 7 → let t := (s.setQ d c).advance
      t.q d = some c ∧ t.q 7 = some true ∧ (∀ n, n ≠ d → t.q n = s.q n) ∧ { kept t with upreds := s.g.upreds } = s.g ∧ { t with g := s.g } = s)

/-- R13, R16, R18, R19, R20, R21, R22, R23: A masked write of a line under a valid key, on a channel whose failed pins carry at most eight symbols, makes the masked words read, under that key, as the words written (poison where the nibble is poison or does not match) and the others as they read before; every other line reads as before under every key; a write under an invalid key changes nothing; memory keeps its canonical form. -/
def Obligations.BaseDieMemory : Prop :=
  ∀ (s : State) (key line : Nat) (mask : BitVec 32) (ws : List Word),
    let t := (s.baseWrite key line mask ws).st
    (tfind s.keys key ≠ none → (sortNat ((tget s.pins (chanOf line) []).flatMap pinSymbols)).length ≤ 8 →
      (t.baseRead key line).words = (List.range 32).map (fun i =>
        if bit mask i then ingress (ws.getD i Word.zero) else (s.baseRead key line).words.getD i Word.poison)) ∧
    (∀ k l, l ≠ line → t.baseRead k l = s.baseRead k l) ∧
    (tfind s.keys key = none → t = s) ∧
    (memWf s.mem = true → memWf t.mem = true) ∧
    (∀ a, a / 128 ≠ line → t.byte a = s.byte a) ∧
    { t with mem := s.mem, nibs := s.nibs, syms := s.syms, lineKeys := s.lineKeys } = s

/-- R110, R111, R223, R250: When the environment's next choice, or in its absence the order of issue, names a group that may issue, goes on from no wait and meets no join, and the word at its pc is fetched good and decodes to i, the step is exec of i on the state after the fetch, with the wait and drain marks cleared and the issue noted; where i then stops for a busy resource the issue is as if it had not been, and otherwise the outcome stands. An event chosen by the environment runs as exec of it with nothing in focus, after which due completions settle. The environment's choices and the order in their absence are the model's (log 4), and so is the retry of an issue that finds a resource busy (log 8). -/
def Obligations.StepRunsDecoded : Prop :=
  ∀ (s : State) (i : Instr) (r : List Turn) (t : State),
    (∀ (f : Focus) (us : List GroupRef) (s1 s2 : State) (w : Word), let v : State := { s with turns := r }
      s.turns = .issue f us :: r ∨ (s.turns = [] ∧ r = [] ∧ us = [] ∧ s.nextIssue = some f) → v.focusAt f = some s1 → v.mayIssue f us = true →
      resumes s1.g.wait = false → s1.awake.preIssue = none → s1.awake.fetchAt s1.g.pc.toNat = (s2, .ok w) → w.isPoison = false → w.checks = true →
      decode w.data = .ok i → step s = s1.awake.issued (exec i (s2.noteIssue w.data))) ∧
    (∀ u : State, busyWait t.g = false → u.issued (.next t) = .next t) ∧
    (s.turns = .occur i :: r → occurs i = true → exec i ({ s with turns := r } : State).unfocus = .next t → step s = .next t.settleAll)

/-- R250, R251, R252, R254, R257, R258: For every instruction of the V-set and the S-set, with every operand at every value that its fields allow, the decoder reads from its encoded word that same instruction. -/
def Obligations.EncodedWordsRoundTrip : Prop :=
  ∀ i : Instr, Sys2Proof.Laws.RoundTrip.Statement i

/-- R250, R251, R252, R254, R256, R259: Every word that the decoder accepts is the encoding of the instruction it gives, which is well formed, so no two words decode to one instruction and no bit of an accepted word is ignored; words with a reserved code or a reserved bit set are refused. -/
def Obligations.DecodedWordsAreCanonical : Prop :=
  (∀ (w : BitVec 32) (i : Instr), decode w = .ok i → i.wf = true ∧ encode i = some w) ∧
  (∀ (w x : BitVec 32) (i : Instr), decode w = .ok i → decode x = .ok i → w = x)

/-- R250, R254, R270: Twelve words written field by field, most significant field first, from the format tables decode to their instructions: add.n32, addi, fadd.f32, ld, st, bd and mma of the V-set, add.n32, b, bar, rds and tret of the S-set; the word of zeros is no instruction, nor is tret with a reserved bit set. -/
def Obligations.DecodedExamples : Prop :=
  decode (0#1 ++ 0x00#6 ++ 1#6 ++ 2#6 ++ 3#6 ++ 0#4 ++ 7#3) = .ok (.vAdd 1 2 3 0 7) ∧
  decode (0#1 ++ 0x07#6 ++ 4#6 ++ 5#6 ++ 0x3ff#10 ++ 0#3) = .ok (.vAddi 4 5 0x3ff 0) ∧
  decode (0#1 ++ 0x10#6 ++ 6#6 ++ 7#6 ++ 8#6 ++ 1#1 ++ 0#3 ++ 1#3) = .ok (.vFadd 6 7 8 1 0 1) ∧
  decode (0#1 ++ 0x22#6 ++ 9#6 ++ 10#6 ++ 12#6 ++ 5#4 ++ 7#3) = .ok (.vLd 2 9 10 12 5 7) ∧
  decode (0#1 ++ 0x25#6 ++ 9#6 ++ 10#6 ++ 12#6 ++ 0#1 ++ 2#3 ++ 7#3) = .ok (.vSt 9 10 12 2 7) ∧
  decode (0#1 ++ 0x2c#6 ++ 3#3 ++ 0x7fe#11 ++ 0x010#11) = .ok (.vBd 3 0x7fe 0x010) ∧
  decode (0#1 ++ 0x34#6 ++ 20#6 ++ 24#6 ++ 200#8 ++ 1#1 ++ 9#4) = .ok (.vMma 20 24 200 1 9) ∧
  decode (1#1 ++ 0x00#6 ++ 1#6 ++ 2#6 ++ 3#6 ++ 0#4 ++ 7#3) = .ok (.sAdd 1 2 3 0 7) ∧
  decode (1#1 ++ 0x18#6 ++ 0x3ffffe#22 ++ 2#3) = .ok (.sB 0x3ffffe 2) ∧
  decode (1#1 ++ 0x24#6 ++ 0#14 ++ 11#4 ++ 0#4 ++ 7#3) = .ok (.sBar 11 7) ∧
  decode (1#1 ++ 0x2c#6 ++ 14#6 ++ 0x08#6 ++ 0#9 ++ 0#1 ++ 7#3) = .ok (.sRds 14 0x08 0 7) ∧
  decode (1#1 ++ 0x3a#6 ++ 0#22 ++ 7#3) = .ok (.sTret 7) ∧
  (∃ e, decode 0#32 = .error e) ∧ (∃ e, decode (1#1 ++ 0x3a#6 ++ 1#22 ++ 7#3) = .error e)

/-- R127, R148, R150, R151, R160, R256, R259, R346, R355, R361, R366, R367: Under a true guard, on a core: with a path pending bar, arv, awt and gbar trap; with accesses to release bar, an arv not yet armed, a class-C gbar and a releasing fence wait for them, and an acquiring fence waits for pending results; arv armed already, awt not armed and gbar of a team of another class trap; a fence of a reserved scope or order, a slide or a group code at or above F, an enter of 0 or more than 64, a loop of length 0, a k-instruction, a special register that is unassigned or may not be written and an FMT of 2^19 or more are illegal; a special register the mode may not touch raises PRIV_INSN; sys with no lane enabled only completes; tret with no frame held is illegal, and with the spill pointer not at the end of its frame, like a call or an enter whose window cannot move, raises WINDOW_SPILL; a fifth loop raises LOOP_STACK. -/
def Obligations.WaitsAndTraps : Prop :=
  ∀ (s : State) (g : BitVec 3), s.onKiln = false → let e := s.g.exec
    let illegal := Host.Outcome.next (s.raiseAll cIllegal 0 e)
    let traps := fun (c n : Nat) => Host.Outcome.next (s.raiseAll c n e)
    (s.FitS g ⟨[], []⟩ →
      (s.pathPending = true → exec (.sGbar g) s = traps cConverge 9 ∧ ∀ b : BitVec 4, exec (.sBar b g) s = traps cConverge 9 ∧
        exec (.sArv b g) s = traps cConverge 9 ∧ exec (.sAwt b g) s = traps cConverge 9) ∧
      (s.pathPending = false →
        (field s.tm.mode.toNat 0 2 ≠ 0 → exec (.sGbar g) s = traps cConverge 9) ∧
        (∀ b : BitVec 4, (bit (s.bar b.toNat).armed s.g.idx = true → exec (.sArv b g) s = traps cConverge 9) ∧
          (bit (s.bar b.toNat).armed s.g.idx = false → exec (.sAwt b g) s = traps cConverge 9)) ∧
        (releaseReady s.g = false →
          (field s.tm.mode.toNat 0 2 = 0 → exec (.sGbar g) s = .next (s.hold .release)) ∧
          (∀ b : BitVec 4, exec (.sBar b g) s = .next (s.hold .release) ∧
            (bit (s.bar b.toNat).armed s.g.idx = false → exec (.sArv b g) s = .next (s.hold .release))))) ∧
      (∀ sc o : BitVec 3, (5 < sc.toNat ∨ o = 0 ∨ 4 < o.toNat → exec (.sFence sc o g) s = illegal) ∧
        (sc.toNat ≤ 5 → 2 ≤ o.toNat → o.toNat ≤ 4 → releaseReady s.g = false → exec (.sFence sc o g) s = .next (s.hold .release)) ∧
        (sc.toNat ≤ 5 → s.g.pset ≠ [] → exec (.sFence sc 1 g) s = .next (s.hold (.fence false)))) ∧
      (∀ n : BitVec 6, (s.g.frame ≤ n.toNat → exec (.sSys n g) s = illegal) ∧ (n.toNat < s.g.frame → e = 0 → exec (.sSys n g) s = .next s.advance)) ∧
      (s.mode ≠ 0 → (s.g.priv.kdepth = 0 → exec (.sTret g) s = illegal) ∧
        (s.g.priv.kdepth ≠ 0 → s.g.spill.toNat ≠ linkBase s.tm s.g.idx + s.g.priv.kframe.toNat + 256 → exec (.sTret g) s = traps cWindow 0)) ∧
      (∀ n : BitVec 10, (n = 0 ∨ 64 < n.toNat → exec (.sEnter n g) s = illegal) ∧
        (n ≠ 0 → n.toNat ≤ 64 → s.setWindow s.g.wb.toNat n.toNat = none → exec (.sEnter n g) s = traps cWindow 0)) ∧
      (∀ (sl : BitVec 6) (d : BitVec 16), (s.g.frame ≤ sl.toNat → exec (.sCall sl d g) s = illegal) ∧
        (sl.toNat < s.g.frame → (s.g.pc + 4 * d.signExtend 64).toNat % 4 = 0 → s.pushLink (s.g.pc + 4) sl.toNat = none →
          exec (.sCall sl d g) s = traps cWindow 0)) ∧
      exec (.sKemit g) s = illegal ∧ exec (.sKrepeat g) s = illegal ∧ exec (.sKcancel g) s = illegal ∧ exec (.sKdone g) s = illegal) ∧
    (∀ a : BitVec 6, s.FitS g ⟨[], [(a.toNat, 1)]⟩ → s.ReadsS [(a.toNat, 1)] → s.CleanS [(a.toNat, 1)] →
      exec (.sLoop a 0 g) s = illegal ∧
      (∀ n : BitVec 10, n ≠ 0 → (s.s a.toNat).data ≠ 0 → 4 ≤ s.g.loops.length → exec (.sLoop a n g) s = traps cLoop 0) ∧
      (2 ^ 19 ≤ (s.s a.toNat).data.toNat → exec (.sSetfmt a g) s = illegal)) ∧
    (∀ (d a b : BitVec 6) (v : BitVec 1), (specAssigned a.toNat = false → exec (.sRds d a v g) s = illegal) ∧
      (specWritable a.toNat = false → exec (.sWrs a b g) s = illegal) ∧
      (let k := if specWide a.toNat then 2 else 1
       (specAssigned a.toNat = true → specPerLane a.toNat = false → s.specDenied a.toNat = true → s.namesOk ⟨[], [(d.toNat, k)]⟩ = true →
         exec (.sRds d a 0 g) s = traps cPriv 0) ∧
       (specAssigned a.toNat = true → s.specDenied a.toNat = true → s.namesOk ⟨[(d.toNat, k)], []⟩ = true →
         exec (.sRds d a 1 g) s = traps cPriv 0) ∧
       (specWritable a.toNat = true → s.writeDenied a.toNat = true → s.namesOk ⟨[], [(b.toNat, k)]⟩ = true →
         exec (.sWrs a b g) s = traps cPriv 0)))

/-- R3, R32, R38, R43, R52, R59, R70, R74, R103, R122, R123, R149: After reset every partition entry, window and path is zero, both sequence numbers of path 0 are 0, each core is enabled with its own built index, the cap is 7,500 W and the clock 2,700 MHz, nothing is lost and no spare threshold is crossed; memory has its canonical form and lists nothing (that an unwritten byte reads 0 is the model's choice, log entry 1). A launched group begins in U mode with EXEC and BIND its bound lanes, FMT and window base 0, F min(64, 8 × regs8), its arguments in s0 and s1, every other uniform register zero and every uniform predicate false. -/
def Obligations.ResetAndLaunchValues : Prop :=
  let z := State.reset
  (∀ p, (z.part p).entry = 0 ∧ (z.part p).windows = []) ∧ (∀ p, (z.path p).ctx = 0) ∧ z.path0.psnIn = 0 ∧ z.path0.psnOut = 0 ∧
  (∀ d < 8, ∀ c < 64, (z.coreAt (d * 64 + c)).enabled = true ∧ (z.coreAt (d * 64 + c)).built = c) ∧
  z.twin.capW = 7500 ∧ (∀ d, z.clockOf d = 2700) ∧ z.twin.sr = 0 ∧ z.twin.lostDies = [] ∧ memWf z.mem = true ∧ z.mem = [] ∧
  (∀ (t : Team) (n i k : Nat) (c : Ctx), let g := newGroup t n i k c
    let s : State := { State.reset with g := g, tm := t }
    g.bind = launchBind (pkLanes n) i ∧ g.exec = g.bind ∧ g.fmt = 0 ∧ g.wb = 0 ∧ g.frame = min 64 (8 * pkRegs8 n) ∧ s.mode = 0 ∧
    s.s 0 = Word.ofData (BitVec.ofNat 32 (pkArgs n)) ∧ s.s 1 = Word.ofData (BitVec.ofNat 32 (pkArgs n / 2 ^ 32)) ∧
    (∀ r, 2 ≤ r → s.s r = Word.zero) ∧ (∀ q < 7, s.q q = some false) ∧ g.loops = [] ∧ g.subs = [] ∧ g.pset = [])
end

