-- ==== Sys2Proof/Laws/Lane.lean ====
section
/-! SUPPORT. What the shared operations of lane and uniform instructions do when nothing fails. -/

namespace Sys2Proof.Laws

open Sys2Proof.Machine

theorem bit_zero (l : Nat) : bit 0 l = false := by simp [bit]

theorem or_zero32 (m : BitVec 32) : m ||| 0 = m := by simp

theorem failsOf_ok (rs : List (Nat × LaneRes)) (h : ∀ r ∈ rs, ∃ o, r.2 = .ok o) : failsOf rs = [] := by
  unfold failsOf
  rw [List.filterMap_eq_nil_iff]
  intro r hr
  obtain ⟨o, ho⟩ := h r hr
  rw [ho]

theorem laneOp_ok (s : State) (p : BitVec 3) (legal : Bool) (ns : Names) (f : State → Nat → LaneRes) (out : Nat → LaneOut)
    (hl : legal = true) (hfit : s.FitV p ns) (hf : ∀ l, s.active p l → f s l = .ok (out l)) :
    s.laneOp p legal ns f = ((lanesOf (s.act p.toNat).lanes).foldl (fun t l => t.commitLane l (out l)) s).advance := by
  obtain ⟨h1, h2, h3, h4, h5⟩ := hfit
  have hg : ({ s with glitch := 0 } : State) = s := by rw [← h5]
  have hr : s.laneResults (s.act p.toNat) (f s) = (lanesOf (s.act p.toNat).lanes).map (fun l => (l, .ok (out l))) := by
    unfold State.laneResults
    rw [h4, or_zero32]
    apply List.map_congr_left
    intro l hl
    rw [bit_zero]
    simp only [Bool.false_eq_true, if_false, State.struck, h5, bit_zero, Bool.false_and, hf l hl]
  unfold State.laneOp State.vGuarded
  simp only [h1, h2, h3, hl, Bool.not_true, Bool.or_self, Bool.false_eq_true, if_false]
  unfold State.settleLanes
  rw [hg, hr, failsOf_ok _ (by simp)]
  simp only [trapOf, firstFail, minBy, State.commitLanes, List.foldl_map]

theorem srcWords_ok (s : State) (l : Nat) (ss : List Src) (h : ∀ x ∈ ss, (s.v x.n l).checks = true) :
    s.srcWords l ss = .ok (ss.map (fun x => s.v x.n l)) := by
  induction ss with
  | nil => rfl
  | cons x r ih =>
    simp only [State.srcWords, h x (by simp), if_true, ih (fun y hy => h y (by simp [hy])), List.map_cons]

theorem ofData_of_checks {w : Word} (h : w.checks = true) (hp : w.isPoison = false) : w = Word.ofData w.data := by
  obtain ⟨d, r⟩ := w
  simp only [Word.checks, Word.isPoison, Bool.or_eq_true, beq_iff_eq, beq_eq_false_iff_ne, ne_eq] at h hp
  rcases h with h | h
  · exact absurd h hp
  · simp only [Word.ofData, h]

theorem zip_dests {α : Type} (d k : Nat) (ws : List α) (h : ws.length = k) :
    (dests d k).zip ws = ws.zipIdx.map (fun w => (d + w.2, w.1)) := by
  subst h
  unfold dests
  apply List.ext_getElem
  · simp
  · intro i h1 h2; simp

theorem dests_replicate (d k : Nat) (w : Word) : (dests d k).map (fun x => (x, w)) = (List.replicate k w).zipIdx.map (fun w => (d + w.2, w.1)) := by
  unfold dests
  apply List.ext_getElem
  · simp
  · intro i h1 h2; simp

/-- The writes of an arithmetic instruction over the active lanes. -/
theorem putV_commit (s : State) (p : BitVec 3) (d : Nat) (val : Nat → List Word) :
    (lanesOf (s.act p.toNat).lanes).foldl (fun t l => t.commitLane l ⟨(val l).zipIdx.map (fun w => (d + w.2, w.1)), []⟩) s = s.putV p d val := by
  unfold State.putV State.commitLane
  simp only [List.foldl_map, List.foldl_nil]

theorem laneArith_ok (s : State) (ss : List Src) (d k l : Nat) (f : List Word → List (BitVec 32 × BitVec 4)) (g : List (BitVec 32) → List (BitVec 32))
    (h : ∀ x ∈ ss, (s.v x.n l).checks = true) (hk : ∀ xs, xs.length = ss.length → (g xs).length = k)
    (hf : ∀ xs : List (BitVec 32), xs.length = ss.length → f (xs.map Word.ofData) = (g xs).map gen) :
    s.laneArith ss (dests d k) f l =
      .ok ⟨(arithOf k (ss.map (fun x => s.v x.n l)) (g (ss.map (fun x => (s.v x.n l).data)))).zipIdx.map (fun w => (d + w.2, w.1)), []⟩ := by
  unfold State.laneArith arithOf
  simp only [srcWords_ok s l ss h]
  by_cases hp : (ss.map (fun x => s.v x.n l)).any Word.isPoison = true
  · rw [if_pos hp, if_pos hp, dests_replicate]
  · rw [if_neg hp, if_neg hp]
    have e : ss.map (fun x => s.v x.n l) = (ss.map (fun x => (s.v x.n l).data)).map Word.ofData := by
      rw [List.map_map]
      apply List.map_congr_left
      intro x hx
      apply ofData_of_checks (h x hx)
      simp only [List.any_map, List.any_eq_true, Function.comp, not_exists, not_and, Bool.not_eq_true] at hp
      exact hp x hx
    have hc : ∀ ys : List (BitVec 32), checkedWords (ys.map gen) = .ok (ys.map Word.ofData) := by
      intro ys
      induction ys with
      | nil => rfl
      | cons y t ih => simp only [List.map_cons, gen, checkedWords, checkedWord, if_true] at ih ⊢; rw [ih]; rfl
    rw [e, hf _ (by simp), hc]
    simp only
    rw [zip_dests d k _ (by simp [hk])]

/-- R269: an arithmetic instruction over its active lanes. -/
theorem laneOp_arith (s : State) (p : BitVec 3) (ns : Names) (ss : List Src) (d k : Nat)
    (f : List Word → List (BitVec 32 × BitVec 4)) (g : List (BitVec 32) → List (BitVec 32))
    (hfit : s.FitV p ns) (h : ∀ l, s.active p l → ∀ x ∈ ss, (s.v x.n l).checks = true)
    (hk : ∀ xs, xs.length = ss.length → (g xs).length = k)
    (hf : ∀ xs : List (BitVec 32), xs.length = ss.length → f (xs.map Word.ofData) = (g xs).map gen) :
    s.laneOp p true ns (fun s => s.laneArith ss (dests d k) f) =
      (s.putV p d (fun l => arithOf k (ss.map (fun x => s.v x.n l)) (g (ss.map (fun x => (s.v x.n l).data))))).advance := by
  rw [laneOp_ok s p true ns _ (fun l => ⟨(arithOf k (ss.map (fun x => s.v x.n l)) (g (ss.map (fun x => (s.v x.n l).data)))).zipIdx.map (fun w => (d + w.2, w.1)), []⟩)
    rfl hfit (fun l hl => laneArith_ok s ss d k l f g (h l hl) hk hf), putV_commit]

/-! ### Uniform instructions -/

theorem sGuarded_ok (s : State) (g : BitVec 3) (legal : Bool) (ns : Names) (k : State → State) (hl : legal = true)
    (hfit : s.FitS g ns) : s.sGuarded g legal ns k = k s := by
  obtain ⟨h1, h2, h3, -⟩ := hfit
  unfold State.sGuarded
  simp only [hl, h1, h2, h3, Bool.not_true, Bool.or_self, Bool.false_eq_true, if_false]

theorem sPriv_ok (s : State) (g : BitVec 3) (legal allowed : Bool) (ns : Names) (k : State → State) (hl : legal = true)
    (ha : allowed = true) (hfit : s.FitS g ns) : s.sPriv g legal allowed ns k = k s := by
  simp only [State.sPriv, ha, Bool.not_true, Bool.and_false, Bool.false_eq_true, if_false, sGuarded_ok s g legal ns k hl hfit]

theorem sWords_ok (s : State) (ss : List Src) (h : ∀ x ∈ ss, (s.s x.n).checks = true) : s.sWords ss = .ok (ss.map (fun x => s.s x.n)) := by
  induction ss with
  | nil => rfl
  | cons x r ih =>
    simp only [State.sWords, h x (by simp), if_true, ih (fun y hy => h y (by simp [hy])), List.map_cons]

theorem setSs_dests (s : State) (d : Nat) (ws : List Word) :
    (ws.zipIdx.map (fun w => (d + w.2, w.1))).foldl (fun s d => s.setS d.1 d.2) s = s.setSs d ws := by
  unfold State.setSs; rw [List.foldl_map]

theorem sResult_ok (s : State) (d : Nat) (ws : List Word) (hg : s.glitch = 0) : s.sResult d ws = (s.setSs d ws).advance := by
  unfold State.sResult
  rw [if_neg (fun h => h.1 hg)]

theorem dests_headD (d k : Nat) (h : 0 < k) : (dests d k).headD 0 = d := by
  obtain ⟨n, rfl⟩ : ∃ n, k = n + 1 := ⟨k - 1, by omega⟩
  simp [dests, List.range_succ_eq_map]

/-- R341: a uniform arithmetic instruction. -/
theorem sArith_ok (s : State) (ss : List Src) (d k : Nat) (f : List Word → List (BitVec 32 × BitVec 4)) (g : List (BitVec 32) → List (BitVec 32))
    (hg : s.glitch = 0) (hd : 0 < k) (h : ∀ x ∈ ss, (s.s x.n).checks = true) (hk : ∀ xs, xs.length = ss.length → (g xs).length = k)
    (hf : ∀ xs : List (BitVec 32), xs.length = ss.length → f (xs.map Word.ofData) = (g xs).map gen) :
    s.sArith ss (dests d k) f =
      (s.setSs d (arithOf k (ss.map (fun x => s.s x.n)) (g (ss.map (fun x => (s.s x.n).data))))).advance := by
  unfold State.sArith arithOf
  simp only [sWords_ok s ss h]
  by_cases hp : (ss.map (fun x => s.s x.n)).any Word.isPoison = true
  · rw [if_pos hp, if_pos hp, sResult_ok _ _ _ hg, dests_headD d k hd]
    rw [dests, List.map_map, show ((fun _ => Word.poison) ∘ fun x => d + x) = (fun _ : Nat => Word.poison) from rfl, List.map_const', List.length_range]
  · rw [if_neg hp, if_neg hp]
    have e : ss.map (fun x => s.s x.n) = (ss.map (fun x => (s.s x.n).data)).map Word.ofData := by
      rw [List.map_map]
      apply List.map_congr_left
      intro x hx
      apply ofData_of_checks (h x hx)
      simp only [List.any_map, List.any_eq_true, Function.comp, not_exists, not_and, Bool.not_eq_true] at hp
      exact hp x hx
    have hc : ∀ ys : List (BitVec 32), checkedWords (ys.map gen) = .ok (ys.map Word.ofData) := by
      intro ys
      induction ys with
      | nil => rfl
      | cons y t ih => simp only [List.map_cons, gen, checkedWords, checkedWord, if_true] at ih ⊢; rw [ih]; rfl
    rw [e, hf _ (by simp), hc]
    simp only
    rw [sResult_ok _ _ _ hg, dests_headD d k hd]

/-! ### Operand lists -/

theorem reads_srcs (s : State) (p : BitVec 3) (runs : List (Nat × Nat)) (ss : List Src) (h : s.ReadsV p runs)
  (hs : ∀ x ∈ ss, ∃ r ∈ runs, ∃ i < r.2, x.n = r.1 + i) : ∀ l, s.active p l → ∀ x ∈ ss, (s.v x.n l).checks = true := by
  intro l hl x hx
  obtain ⟨r, hr, i, hi, e⟩ := hs x hx
  refine h l hl r hr _ ?_
  rw [e]; unfold State.vRun; simp only [List.mem_map, List.mem_range]; exact ⟨i, hi, rfl⟩

theorem list1 (xs : List (BitVec 32)) (h : xs.length = 1) : ∃ x, xs = [x] := by
  match xs, h with | [x], _ => exact ⟨x, rfl⟩
theorem list2 (xs : List (BitVec 32)) (h : xs.length = 2) : ∃ x y, xs = [x, y] := by
  match xs, h with | [x, y], _ => exact ⟨x, y, rfl⟩
theorem list3 (xs : List (BitVec 32)) (h : xs.length = 3) : ∃ x y z, xs = [x, y, z] := by
  match xs, h with | [x, y, z], _ => exact ⟨x, y, z, rfl⟩
theorem list4 (xs : List (BitVec 32)) (h : xs.length = 4) : ∃ x y z w, xs = [x, y, z, w] := by
  match xs, h with | [x, y, z, w], _ => exact ⟨x, y, z, w, rfl⟩

end Sys2Proof.Laws
end

