-- ==== Sys2Proof/Laws/State.lean ====
section
/-! SUPPORT. One lemma per field of the state and update: what each named update leaves, and what it writes. -/

namespace Sys2Proof.Machine

section
variable (s : State) (n l : Nat) (w : Word)
@[simp] theorem State.setV_g : (s.setV n l w).g = s.g := rfl
@[simp] theorem State.setV_tm : (s.setV n l w).tm = { s.tm with vregs := tset s.tm.vregs (s.vKey n l) w Word.zero } := rfl
@[simp] theorem State.setV_focus : (s.setV n l w).focus = s.focus := rfl
@[simp] theorem State.setV_teams : (s.setV n l w).teams = s.teams := rfl
@[simp] theorem State.setV_kilns : (s.setV n l w).kilns = s.kilns := rfl
@[simp] theorem State.setV_kilnCk : (s.setV n l w).kilnCk = s.kilnCk := rfl
@[simp] theorem State.setV_cores : (s.setV n l w).cores = s.cores := rfl
@[simp] theorem State.setV_clusters : (s.setV n l w).clusters = s.clusters := rfl
@[simp] theorem State.setV_disps : (s.setV n l w).disps = s.disps := rfl
@[simp] theorem State.setV_grids : (s.setV n l w).grids = s.grids := rfl
@[simp] theorem State.setV_nextGrid : (s.setV n l w).nextGrid = s.nextGrid := rfl
@[simp] theorem State.setV_savedRecs : (s.setV n l w).savedRecs = s.savedRecs := rfl
@[simp] theorem State.setV_queues : (s.setV n l w).queues = s.queues := rfl
@[simp] theorem State.setV_lastServed : (s.setV n l w).lastServed = s.lastServed := rfl
@[simp] theorem State.setV_parts : (s.setV n l w).parts = s.parts := rfl
@[simp] theorem State.setV_mem : (s.setV n l w).mem = s.mem := rfl
@[simp] theorem State.setV_nibs : (s.setV n l w).nibs = s.nibs := rfl
@[simp] theorem State.setV_lineKeys : (s.setV n l w).lineKeys = s.lineKeys := rfl
@[simp] theorem State.setV_syms : (s.setV n l w).syms = s.syms := rfl
@[simp] theorem State.setV_pins : (s.setV n l w).pins = s.pins := rfl
@[simp] theorem State.setV_keys : (s.setV n l w).keys = s.keys := rfl
@[simp] theorem State.setV_nextGen : (s.setV n l w).nextGen = s.nextGen := rfl
@[simp] theorem State.setV_keyStop : (s.setV n l w).keyStop = s.keyStop := rfl
@[simp] theorem State.setV_rowFixed : (s.setV n l w).rowFixed = s.rowFixed := rfl
@[simp] theorem State.setV_spareRows : (s.setV n l w).spareRows = s.spareRows := rfl
@[simp] theorem State.setV_l2 : (s.setV n l w).l2 = s.l2 := rfl
@[simp] theorem State.setV_own : (s.setV n l w).own = s.own := rfl
@[simp] theorem State.setV_ownNo : (s.setV n l w).ownNo = s.ownNo := rfl
@[simp] theorem State.setV_homeQ : (s.setV n l w).homeQ = s.homeQ := rfl
@[simp] theorem State.setV_stackTags : (s.setV n l w).stackTags = s.stackTags := rfl
@[simp] theorem State.setV_portSeen : (s.setV n l w).portSeen = s.portSeen := rfl
@[simp] theorem State.setV_stackQ : (s.setV n l w).stackQ = s.stackQ := rfl
@[simp] theorem State.setV_portAcks : (s.setV n l w).portAcks = s.portAcks := rfl
@[simp] theorem State.setV_fenced : (s.setV n l w).fenced = s.fenced := rfl
@[simp] theorem State.setV_l1 : (s.setV n l w).l1 = s.l1 := rfl
@[simp] theorem State.setV_partials : (s.setV n l w).partials = s.partials := rfl
@[simp] theorem State.setV_commKinds : (s.setV n l w).commKinds = s.commKinds := rfl
@[simp] theorem State.setV_merges : (s.setV n l w).merges = s.merges := rfl
@[simp] theorem State.setV_icache : (s.setV n l w).icache = s.icache := rfl
@[simp] theorem State.setV_tlbs : (s.setV n l w).tlbs = s.tlbs := rfl
@[simp] theorem State.setV_ctxs : (s.setV n l w).ctxs = s.ctxs := rfl
@[simp] theorem State.setV_txns : (s.setV n l w).txns = s.txns := rfl
@[simp] theorem State.setV_flight : (s.setV n l w).flight = s.flight := rfl
@[simp] theorem State.setV_controls : (s.setV n l w).controls = s.controls := rfl
@[simp] theorem State.setV_outbox : (s.setV n l w).outbox = s.outbox := rfl
@[simp] theorem State.setV_links : (s.setV n l w).links = s.links := rfl
@[simp] theorem State.setV_routes : (s.setV n l w).routes = s.routes := rfl
@[simp] theorem State.setV_ports : (s.setV n l w).ports = s.ports := rfl
@[simp] theorem State.setV_hops : (s.setV n l w).hops = s.hops := rfl
@[simp] theorem State.setV_unresolved : (s.setV n l w).unresolved = s.unresolved := rfl
@[simp] theorem State.setV_src0 : (s.setV n l w).src0 = s.src0 := rfl
@[simp] theorem State.setV_portRecs : (s.setV n l w).portRecs = s.portRecs := rfl
@[simp] theorem State.setV_paths : (s.setV n l w).paths = s.paths := rfl
@[simp] theorem State.setV_path0 : (s.setV n l w).path0 = s.path0 := rfl
@[simp] theorem State.setV_peersSt : (s.setV n l w).peersSt = s.peersSt := rfl
@[simp] theorem State.setV_handles : (s.setV n l w).handles = s.handles := rfl
@[simp] theorem State.setV_nextHandle : (s.setV n l w).nextHandle = s.nextHandle := rfl
@[simp] theorem State.setV_wake : (s.setV n l w).wake = s.wake := rfl
@[simp] theorem State.setV_gated : (s.setV n l w).gated = s.gated := rfl
@[simp] theorem State.setV_fePowered : (s.setV n l w).fePowered = s.fePowered := rfl
@[simp] theorem State.setV_twin : (s.setV n l w).twin = s.twin := rfl
@[simp] theorem State.setV_traps : (s.setV n l w).traps = s.traps := rfl
@[simp] theorem State.setV_stretches : (s.setV n l w).stretches = s.stretches := rfl
@[simp] theorem State.setV_seqs : (s.setV n l w).seqs = s.seqs := rfl
@[simp] theorem State.setV_symFixed : (s.setV n l w).symFixed = s.symFixed := rfl
@[simp] theorem State.setV_uncorr : (s.setV n l w).uncorr = s.uncorr := rfl
@[simp] theorem State.setV_lastPass : (s.setV n l w).lastPass = s.lastPass := rfl
@[simp] theorem State.setV_gtime : (s.setV n l w).gtime = s.gtime := rfl
@[simp] theorem State.setV_ck : (s.setV n l w).ck = s.ck := rfl
@[simp] theorem State.setV_sent : (s.setV n l w).sent = s.sent := rfl
@[simp] theorem State.setV_glitch : (s.setV n l w).glitch = s.glitch := rfl
@[simp] theorem State.setV_redFaults : (s.setV n l w).redFaults = s.redFaults := rfl
@[simp] theorem State.setV_freeNo : (s.setV n l w).freeNo = s.freeNo := rfl
@[simp] theorem State.setV_cmdNo : (s.setV n l w).cmdNo = s.cmdNo := rfl
@[simp] theorem State.setV_placeNo : (s.setV n l w).placeNo = s.placeNo := rfl
@[simp] theorem State.setV_fillNo : (s.setV n l w).fillNo = s.fillNo := rfl
@[simp] theorem State.setV_turns : (s.setV n l w).turns = s.turns := rfl
end

section
variable (s : State) (n l : Nat) (b : Bool)
@[simp] theorem State.setP_g : (s.setP n l b).g = s.g := rfl
@[simp] theorem State.setP_tm : (s.setP n l b).tm = { s.tm with preds := tset s.tm.preds (s.pKey n l) (railOf b) 1 } := rfl
@[simp] theorem State.setP_focus : (s.setP n l b).focus = s.focus := rfl
@[simp] theorem State.setP_teams : (s.setP n l b).teams = s.teams := rfl
@[simp] theorem State.setP_kilns : (s.setP n l b).kilns = s.kilns := rfl
@[simp] theorem State.setP_kilnCk : (s.setP n l b).kilnCk = s.kilnCk := rfl
@[simp] theorem State.setP_cores : (s.setP n l b).cores = s.cores := rfl
@[simp] theorem State.setP_clusters : (s.setP n l b).clusters = s.clusters := rfl
@[simp] theorem State.setP_disps : (s.setP n l b).disps = s.disps := rfl
@[simp] theorem State.setP_grids : (s.setP n l b).grids = s.grids := rfl
@[simp] theorem State.setP_nextGrid : (s.setP n l b).nextGrid = s.nextGrid := rfl
@[simp] theorem State.setP_savedRecs : (s.setP n l b).savedRecs = s.savedRecs := rfl
@[simp] theorem State.setP_queues : (s.setP n l b).queues = s.queues := rfl
@[simp] theorem State.setP_lastServed : (s.setP n l b).lastServed = s.lastServed := rfl
@[simp] theorem State.setP_parts : (s.setP n l b).parts = s.parts := rfl
@[simp] theorem State.setP_mem : (s.setP n l b).mem = s.mem := rfl
@[simp] theorem State.setP_nibs : (s.setP n l b).nibs = s.nibs := rfl
@[simp] theorem State.setP_lineKeys : (s.setP n l b).lineKeys = s.lineKeys := rfl
@[simp] theorem State.setP_syms : (s.setP n l b).syms = s.syms := rfl
@[simp] theorem State.setP_pins : (s.setP n l b).pins = s.pins := rfl
@[simp] theorem State.setP_keys : (s.setP n l b).keys = s.keys := rfl
@[simp] theorem State.setP_nextGen : (s.setP n l b).nextGen = s.nextGen := rfl
@[simp] theorem State.setP_keyStop : (s.setP n l b).keyStop = s.keyStop := rfl
@[simp] theorem State.setP_rowFixed : (s.setP n l b).rowFixed = s.rowFixed := rfl
@[simp] theorem State.setP_spareRows : (s.setP n l b).spareRows = s.spareRows := rfl
@[simp] theorem State.setP_l2 : (s.setP n l b).l2 = s.l2 := rfl
@[simp] theorem State.setP_own : (s.setP n l b).own = s.own := rfl
@[simp] theorem State.setP_ownNo : (s.setP n l b).ownNo = s.ownNo := rfl
@[simp] theorem State.setP_homeQ : (s.setP n l b).homeQ = s.homeQ := rfl
@[simp] theorem State.setP_stackTags : (s.setP n l b).stackTags = s.stackTags := rfl
@[simp] theorem State.setP_portSeen : (s.setP n l b).portSeen = s.portSeen := rfl
@[simp] theorem State.setP_stackQ : (s.setP n l b).stackQ = s.stackQ := rfl
@[simp] theorem State.setP_portAcks : (s.setP n l b).portAcks = s.portAcks := rfl
@[simp] theorem State.setP_fenced : (s.setP n l b).fenced = s.fenced := rfl
@[simp] theorem State.setP_l1 : (s.setP n l b).l1 = s.l1 := rfl
@[simp] theorem State.setP_partials : (s.setP n l b).partials = s.partials := rfl
@[simp] theorem State.setP_commKinds : (s.setP n l b).commKinds = s.commKinds := rfl
@[simp] theorem State.setP_merges : (s.setP n l b).merges = s.merges := rfl
@[simp] theorem State.setP_icache : (s.setP n l b).icache = s.icache := rfl
@[simp] theorem State.setP_tlbs : (s.setP n l b).tlbs = s.tlbs := rfl
@[simp] theorem State.setP_ctxs : (s.setP n l b).ctxs = s.ctxs := rfl
@[simp] theorem State.setP_txns : (s.setP n l b).txns = s.txns := rfl
@[simp] theorem State.setP_flight : (s.setP n l b).flight = s.flight := rfl
@[simp] theorem State.setP_controls : (s.setP n l b).controls = s.controls := rfl
@[simp] theorem State.setP_outbox : (s.setP n l b).outbox = s.outbox := rfl
@[simp] theorem State.setP_links : (s.setP n l b).links = s.links := rfl
@[simp] theorem State.setP_routes : (s.setP n l b).routes = s.routes := rfl
@[simp] theorem State.setP_ports : (s.setP n l b).ports = s.ports := rfl
@[simp] theorem State.setP_hops : (s.setP n l b).hops = s.hops := rfl
@[simp] theorem State.setP_unresolved : (s.setP n l b).unresolved = s.unresolved := rfl
@[simp] theorem State.setP_src0 : (s.setP n l b).src0 = s.src0 := rfl
@[simp] theorem State.setP_portRecs : (s.setP n l b).portRecs = s.portRecs := rfl
@[simp] theorem State.setP_paths : (s.setP n l b).paths = s.paths := rfl
@[simp] theorem State.setP_path0 : (s.setP n l b).path0 = s.path0 := rfl
@[simp] theorem State.setP_peersSt : (s.setP n l b).peersSt = s.peersSt := rfl
@[simp] theorem State.setP_handles : (s.setP n l b).handles = s.handles := rfl
@[simp] theorem State.setP_nextHandle : (s.setP n l b).nextHandle = s.nextHandle := rfl
@[simp] theorem State.setP_wake : (s.setP n l b).wake = s.wake := rfl
@[simp] theorem State.setP_gated : (s.setP n l b).gated = s.gated := rfl
@[simp] theorem State.setP_fePowered : (s.setP n l b).fePowered = s.fePowered := rfl
@[simp] theorem State.setP_twin : (s.setP n l b).twin = s.twin := rfl
@[simp] theorem State.setP_traps : (s.setP n l b).traps = s.traps := rfl
@[simp] theorem State.setP_stretches : (s.setP n l b).stretches = s.stretches := rfl
@[simp] theorem State.setP_seqs : (s.setP n l b).seqs = s.seqs := rfl
@[simp] theorem State.setP_symFixed : (s.setP n l b).symFixed = s.symFixed := rfl
@[simp] theorem State.setP_uncorr : (s.setP n l b).uncorr = s.uncorr := rfl
@[simp] theorem State.setP_lastPass : (s.setP n l b).lastPass = s.lastPass := rfl
@[simp] theorem State.setP_gtime : (s.setP n l b).gtime = s.gtime := rfl
@[simp] theorem State.setP_ck : (s.setP n l b).ck = s.ck := rfl
@[simp] theorem State.setP_sent : (s.setP n l b).sent = s.sent := rfl
@[simp] theorem State.setP_glitch : (s.setP n l b).glitch = s.glitch := rfl
@[simp] theorem State.setP_redFaults : (s.setP n l b).redFaults = s.redFaults := rfl
@[simp] theorem State.setP_freeNo : (s.setP n l b).freeNo = s.freeNo := rfl
@[simp] theorem State.setP_cmdNo : (s.setP n l b).cmdNo = s.cmdNo := rfl
@[simp] theorem State.setP_placeNo : (s.setP n l b).placeNo = s.placeNo := rfl
@[simp] theorem State.setP_fillNo : (s.setP n l b).fillNo = s.fillNo := rfl
@[simp] theorem State.setP_turns : (s.setP n l b).turns = s.turns := rfl
end

section
variable (s : State) (n : Nat) (w : Word)
@[simp] theorem State.setS_g : (s.setS n w).g = { s.g with sregs := tset s.g.sregs n w Word.zero } := rfl
@[simp] theorem State.setS_tm : (s.setS n w).tm = s.tm := rfl
@[simp] theorem State.setS_focus : (s.setS n w).focus = s.focus := rfl
@[simp] theorem State.setS_teams : (s.setS n w).teams = s.teams := rfl
@[simp] theorem State.setS_kilns : (s.setS n w).kilns = s.kilns := rfl
@[simp] theorem State.setS_kilnCk : (s.setS n w).kilnCk = s.kilnCk := rfl
@[simp] theorem State.setS_cores : (s.setS n w).cores = s.cores := rfl
@[simp] theorem State.setS_clusters : (s.setS n w).clusters = s.clusters := rfl
@[simp] theorem State.setS_disps : (s.setS n w).disps = s.disps := rfl
@[simp] theorem State.setS_grids : (s.setS n w).grids = s.grids := rfl
@[simp] theorem State.setS_nextGrid : (s.setS n w).nextGrid = s.nextGrid := rfl
@[simp] theorem State.setS_savedRecs : (s.setS n w).savedRecs = s.savedRecs := rfl
@[simp] theorem State.setS_queues : (s.setS n w).queues = s.queues := rfl
@[simp] theorem State.setS_lastServed : (s.setS n w).lastServed = s.lastServed := rfl
@[simp] theorem State.setS_parts : (s.setS n w).parts = s.parts := rfl
@[simp] theorem State.setS_mem : (s.setS n w).mem = s.mem := rfl
@[simp] theorem State.setS_nibs : (s.setS n w).nibs = s.nibs := rfl
@[simp] theorem State.setS_lineKeys : (s.setS n w).lineKeys = s.lineKeys := rfl
@[simp] theorem State.setS_syms : (s.setS n w).syms = s.syms := rfl
@[simp] theorem State.setS_pins : (s.setS n w).pins = s.pins := rfl
@[simp] theorem State.setS_keys : (s.setS n w).keys = s.keys := rfl
@[simp] theorem State.setS_nextGen : (s.setS n w).nextGen = s.nextGen := rfl
@[simp] theorem State.setS_keyStop : (s.setS n w).keyStop = s.keyStop := rfl
@[simp] theorem State.setS_rowFixed : (s.setS n w).rowFixed = s.rowFixed := rfl
@[simp] theorem State.setS_spareRows : (s.setS n w).spareRows = s.spareRows := rfl
@[simp] theorem State.setS_l2 : (s.setS n w).l2 = s.l2 := rfl
@[simp] theorem State.setS_own : (s.setS n w).own = s.own := rfl
@[simp] theorem State.setS_ownNo : (s.setS n w).ownNo = s.ownNo := rfl
@[simp] theorem State.setS_homeQ : (s.setS n w).homeQ = s.homeQ := rfl
@[simp] theorem State.setS_stackTags : (s.setS n w).stackTags = s.stackTags := rfl
@[simp] theorem State.setS_portSeen : (s.setS n w).portSeen = s.portSeen := rfl
@[simp] theorem State.setS_stackQ : (s.setS n w).stackQ = s.stackQ := rfl
@[simp] theorem State.setS_portAcks : (s.setS n w).portAcks = s.portAcks := rfl
@[simp] theorem State.setS_fenced : (s.setS n w).fenced = s.fenced := rfl
@[simp] theorem State.setS_l1 : (s.setS n w).l1 = s.l1 := rfl
@[simp] theorem State.setS_partials : (s.setS n w).partials = s.partials := rfl
@[simp] theorem State.setS_commKinds : (s.setS n w).commKinds = s.commKinds := rfl
@[simp] theorem State.setS_merges : (s.setS n w).merges = s.merges := rfl
@[simp] theorem State.setS_icache : (s.setS n w).icache = s.icache := rfl
@[simp] theorem State.setS_tlbs : (s.setS n w).tlbs = s.tlbs := rfl
@[simp] theorem State.setS_ctxs : (s.setS n w).ctxs = s.ctxs := rfl
@[simp] theorem State.setS_txns : (s.setS n w).txns = s.txns := rfl
@[simp] theorem State.setS_flight : (s.setS n w).flight = s.flight := rfl
@[simp] theorem State.setS_controls : (s.setS n w).controls = s.controls := rfl
@[simp] theorem State.setS_outbox : (s.setS n w).outbox = s.outbox := rfl
@[simp] theorem State.setS_links : (s.setS n w).links = s.links := rfl
@[simp] theorem State.setS_routes : (s.setS n w).routes = s.routes := rfl
@[simp] theorem State.setS_ports : (s.setS n w).ports = s.ports := rfl
@[simp] theorem State.setS_hops : (s.setS n w).hops = s.hops := rfl
@[simp] theorem State.setS_unresolved : (s.setS n w).unresolved = s.unresolved := rfl
@[simp] theorem State.setS_src0 : (s.setS n w).src0 = s.src0 := rfl
@[simp] theorem State.setS_portRecs : (s.setS n w).portRecs = s.portRecs := rfl
@[simp] theorem State.setS_paths : (s.setS n w).paths = s.paths := rfl
@[simp] theorem State.setS_path0 : (s.setS n w).path0 = s.path0 := rfl
@[simp] theorem State.setS_peersSt : (s.setS n w).peersSt = s.peersSt := rfl
@[simp] theorem State.setS_handles : (s.setS n w).handles = s.handles := rfl
@[simp] theorem State.setS_nextHandle : (s.setS n w).nextHandle = s.nextHandle := rfl
@[simp] theorem State.setS_wake : (s.setS n w).wake = s.wake := rfl
@[simp] theorem State.setS_gated : (s.setS n w).gated = s.gated := rfl
@[simp] theorem State.setS_fePowered : (s.setS n w).fePowered = s.fePowered := rfl
@[simp] theorem State.setS_twin : (s.setS n w).twin = s.twin := rfl
@[simp] theorem State.setS_traps : (s.setS n w).traps = s.traps := rfl
@[simp] theorem State.setS_stretches : (s.setS n w).stretches = s.stretches := rfl
@[simp] theorem State.setS_seqs : (s.setS n w).seqs = s.seqs := rfl
@[simp] theorem State.setS_symFixed : (s.setS n w).symFixed = s.symFixed := rfl
@[simp] theorem State.setS_uncorr : (s.setS n w).uncorr = s.uncorr := rfl
@[simp] theorem State.setS_lastPass : (s.setS n w).lastPass = s.lastPass := rfl
@[simp] theorem State.setS_gtime : (s.setS n w).gtime = s.gtime := rfl
@[simp] theorem State.setS_ck : (s.setS n w).ck = s.ck := rfl
@[simp] theorem State.setS_sent : (s.setS n w).sent = s.sent := rfl
@[simp] theorem State.setS_glitch : (s.setS n w).glitch = s.glitch := rfl
@[simp] theorem State.setS_redFaults : (s.setS n w).redFaults = s.redFaults := rfl
@[simp] theorem State.setS_freeNo : (s.setS n w).freeNo = s.freeNo := rfl
@[simp] theorem State.setS_cmdNo : (s.setS n w).cmdNo = s.cmdNo := rfl
@[simp] theorem State.setS_placeNo : (s.setS n w).placeNo = s.placeNo := rfl
@[simp] theorem State.setS_fillNo : (s.setS n w).fillNo = s.fillNo := rfl
@[simp] theorem State.setS_turns : (s.setS n w).turns = s.turns := rfl
end

section
variable (s : State) (n : Nat) (b : Bool)
@[simp] theorem State.setQ_g : (s.setQ n b).g = { s.g with upreds := tset s.g.upreds n (railOf b) 1 } := rfl
@[simp] theorem State.setQ_tm : (s.setQ n b).tm = s.tm := rfl
@[simp] theorem State.setQ_focus : (s.setQ n b).focus = s.focus := rfl
@[simp] theorem State.setQ_teams : (s.setQ n b).teams = s.teams := rfl
@[simp] theorem State.setQ_kilns : (s.setQ n b).kilns = s.kilns := rfl
@[simp] theorem State.setQ_kilnCk : (s.setQ n b).kilnCk = s.kilnCk := rfl
@[simp] theorem State.setQ_cores : (s.setQ n b).cores = s.cores := rfl
@[simp] theorem State.setQ_clusters : (s.setQ n b).clusters = s.clusters := rfl
@[simp] theorem State.setQ_disps : (s.setQ n b).disps = s.disps := rfl
@[simp] theorem State.setQ_grids : (s.setQ n b).grids = s.grids := rfl
@[simp] theorem State.setQ_nextGrid : (s.setQ n b).nextGrid = s.nextGrid := rfl
@[simp] theorem State.setQ_savedRecs : (s.setQ n b).savedRecs = s.savedRecs := rfl
@[simp] theorem State.setQ_queues : (s.setQ n b).queues = s.queues := rfl
@[simp] theorem State.setQ_lastServed : (s.setQ n b).lastServed = s.lastServed := rfl
@[simp] theorem State.setQ_parts : (s.setQ n b).parts = s.parts := rfl
@[simp] theorem State.setQ_mem : (s.setQ n b).mem = s.mem := rfl
@[simp] theorem State.setQ_nibs : (s.setQ n b).nibs = s.nibs := rfl
@[simp] theorem State.setQ_lineKeys : (s.setQ n b).lineKeys = s.lineKeys := rfl
@[simp] theorem State.setQ_syms : (s.setQ n b).syms = s.syms := rfl
@[simp] theorem State.setQ_pins : (s.setQ n b).pins = s.pins := rfl
@[simp] theorem State.setQ_keys : (s.setQ n b).keys = s.keys := rfl
@[simp] theorem State.setQ_nextGen : (s.setQ n b).nextGen = s.nextGen := rfl
@[simp] theorem State.setQ_keyStop : (s.setQ n b).keyStop = s.keyStop := rfl
@[simp] theorem State.setQ_rowFixed : (s.setQ n b).rowFixed = s.rowFixed := rfl
@[simp] theorem State.setQ_spareRows : (s.setQ n b).spareRows = s.spareRows := rfl
@[simp] theorem State.setQ_l2 : (s.setQ n b).l2 = s.l2 := rfl
@[simp] theorem State.setQ_own : (s.setQ n b).own = s.own := rfl
@[simp] theorem State.setQ_ownNo : (s.setQ n b).ownNo = s.ownNo := rfl
@[simp] theorem State.setQ_homeQ : (s.setQ n b).homeQ = s.homeQ := rfl
@[simp] theorem State.setQ_stackTags : (s.setQ n b).stackTags = s.stackTags := rfl
@[simp] theorem State.setQ_portSeen : (s.setQ n b).portSeen = s.portSeen := rfl
@[simp] theorem State.setQ_stackQ : (s.setQ n b).stackQ = s.stackQ := rfl
@[simp] theorem State.setQ_portAcks : (s.setQ n b).portAcks = s.portAcks := rfl
@[simp] theorem State.setQ_fenced : (s.setQ n b).fenced = s.fenced := rfl
@[simp] theorem State.setQ_l1 : (s.setQ n b).l1 = s.l1 := rfl
@[simp] theorem State.setQ_partials : (s.setQ n b).partials = s.partials := rfl
@[simp] theorem State.setQ_commKinds : (s.setQ n b).commKinds = s.commKinds := rfl
@[simp] theorem State.setQ_merges : (s.setQ n b).merges = s.merges := rfl
@[simp] theorem State.setQ_icache : (s.setQ n b).icache = s.icache := rfl
@[simp] theorem State.setQ_tlbs : (s.setQ n b).tlbs = s.tlbs := rfl
@[simp] theorem State.setQ_ctxs : (s.setQ n b).ctxs = s.ctxs := rfl
@[simp] theorem State.setQ_txns : (s.setQ n b).txns = s.txns := rfl
@[simp] theorem State.setQ_flight : (s.setQ n b).flight = s.flight := rfl
@[simp] theorem State.setQ_controls : (s.setQ n b).controls = s.controls := rfl
@[simp] theorem State.setQ_outbox : (s.setQ n b).outbox = s.outbox := rfl
@[simp] theorem State.setQ_links : (s.setQ n b).links = s.links := rfl
@[simp] theorem State.setQ_routes : (s.setQ n b).routes = s.routes := rfl
@[simp] theorem State.setQ_ports : (s.setQ n b).ports = s.ports := rfl
@[simp] theorem State.setQ_hops : (s.setQ n b).hops = s.hops := rfl
@[simp] theorem State.setQ_unresolved : (s.setQ n b).unresolved = s.unresolved := rfl
@[simp] theorem State.setQ_src0 : (s.setQ n b).src0 = s.src0 := rfl
@[simp] theorem State.setQ_portRecs : (s.setQ n b).portRecs = s.portRecs := rfl
@[simp] theorem State.setQ_paths : (s.setQ n b).paths = s.paths := rfl
@[simp] theorem State.setQ_path0 : (s.setQ n b).path0 = s.path0 := rfl
@[simp] theorem State.setQ_peersSt : (s.setQ n b).peersSt = s.peersSt := rfl
@[simp] theorem State.setQ_handles : (s.setQ n b).handles = s.handles := rfl
@[simp] theorem State.setQ_nextHandle : (s.setQ n b).nextHandle = s.nextHandle := rfl
@[simp] theorem State.setQ_wake : (s.setQ n b).wake = s.wake := rfl
@[simp] theorem State.setQ_gated : (s.setQ n b).gated = s.gated := rfl
@[simp] theorem State.setQ_fePowered : (s.setQ n b).fePowered = s.fePowered := rfl
@[simp] theorem State.setQ_twin : (s.setQ n b).twin = s.twin := rfl
@[simp] theorem State.setQ_traps : (s.setQ n b).traps = s.traps := rfl
@[simp] theorem State.setQ_stretches : (s.setQ n b).stretches = s.stretches := rfl
@[simp] theorem State.setQ_seqs : (s.setQ n b).seqs = s.seqs := rfl
@[simp] theorem State.setQ_symFixed : (s.setQ n b).symFixed = s.symFixed := rfl
@[simp] theorem State.setQ_uncorr : (s.setQ n b).uncorr = s.uncorr := rfl
@[simp] theorem State.setQ_lastPass : (s.setQ n b).lastPass = s.lastPass := rfl
@[simp] theorem State.setQ_gtime : (s.setQ n b).gtime = s.gtime := rfl
@[simp] theorem State.setQ_ck : (s.setQ n b).ck = s.ck := rfl
@[simp] theorem State.setQ_sent : (s.setQ n b).sent = s.sent := rfl
@[simp] theorem State.setQ_glitch : (s.setQ n b).glitch = s.glitch := rfl
@[simp] theorem State.setQ_redFaults : (s.setQ n b).redFaults = s.redFaults := rfl
@[simp] theorem State.setQ_freeNo : (s.setQ n b).freeNo = s.freeNo := rfl
@[simp] theorem State.setQ_cmdNo : (s.setQ n b).cmdNo = s.cmdNo := rfl
@[simp] theorem State.setQ_placeNo : (s.setQ n b).placeNo = s.placeNo := rfl
@[simp] theorem State.setQ_fillNo : (s.setQ n b).fillNo = s.fillNo := rfl
@[simp] theorem State.setQ_turns : (s.setQ n b).turns = s.turns := rfl
end

section
variable (s : State) (a : Nat) (b : Byte)
@[simp] theorem State.setByte_g : (s.setByte a b).g = s.g := rfl
@[simp] theorem State.setByte_tm : (s.setByte a b).tm = s.tm := rfl
@[simp] theorem State.setByte_focus : (s.setByte a b).focus = s.focus := rfl
@[simp] theorem State.setByte_teams : (s.setByte a b).teams = s.teams := rfl
@[simp] theorem State.setByte_kilns : (s.setByte a b).kilns = s.kilns := rfl
@[simp] theorem State.setByte_kilnCk : (s.setByte a b).kilnCk = s.kilnCk := rfl
@[simp] theorem State.setByte_cores : (s.setByte a b).cores = s.cores := rfl
@[simp] theorem State.setByte_clusters : (s.setByte a b).clusters = s.clusters := rfl
@[simp] theorem State.setByte_disps : (s.setByte a b).disps = s.disps := rfl
@[simp] theorem State.setByte_grids : (s.setByte a b).grids = s.grids := rfl
@[simp] theorem State.setByte_nextGrid : (s.setByte a b).nextGrid = s.nextGrid := rfl
@[simp] theorem State.setByte_savedRecs : (s.setByte a b).savedRecs = s.savedRecs := rfl
@[simp] theorem State.setByte_queues : (s.setByte a b).queues = s.queues := rfl
@[simp] theorem State.setByte_lastServed : (s.setByte a b).lastServed = s.lastServed := rfl
@[simp] theorem State.setByte_parts : (s.setByte a b).parts = s.parts := rfl
@[simp] theorem State.setByte_mem : (s.setByte a b).mem = tset s.mem a b 0 := rfl
@[simp] theorem State.setByte_nibs : (s.setByte a b).nibs = s.nibs := rfl
@[simp] theorem State.setByte_lineKeys : (s.setByte a b).lineKeys = s.lineKeys := rfl
@[simp] theorem State.setByte_syms : (s.setByte a b).syms = s.syms := rfl
@[simp] theorem State.setByte_pins : (s.setByte a b).pins = s.pins := rfl
@[simp] theorem State.setByte_keys : (s.setByte a b).keys = s.keys := rfl
@[simp] theorem State.setByte_nextGen : (s.setByte a b).nextGen = s.nextGen := rfl
@[simp] theorem State.setByte_keyStop : (s.setByte a b).keyStop = s.keyStop := rfl
@[simp] theorem State.setByte_rowFixed : (s.setByte a b).rowFixed = s.rowFixed := rfl
@[simp] theorem State.setByte_spareRows : (s.setByte a b).spareRows = s.spareRows := rfl
@[simp] theorem State.setByte_l2 : (s.setByte a b).l2 = s.l2 := rfl
@[simp] theorem State.setByte_own : (s.setByte a b).own = s.own := rfl
@[simp] theorem State.setByte_ownNo : (s.setByte a b).ownNo = s.ownNo := rfl
@[simp] theorem State.setByte_homeQ : (s.setByte a b).homeQ = s.homeQ := rfl
@[simp] theorem State.setByte_stackTags : (s.setByte a b).stackTags = s.stackTags := rfl
@[simp] theorem State.setByte_portSeen : (s.setByte a b).portSeen = s.portSeen := rfl
@[simp] theorem State.setByte_stackQ : (s.setByte a b).stackQ = s.stackQ := rfl
@[simp] theorem State.setByte_portAcks : (s.setByte a b).portAcks = s.portAcks := rfl
@[simp] theorem State.setByte_fenced : (s.setByte a b).fenced = s.fenced := rfl
@[simp] theorem State.setByte_l1 : (s.setByte a b).l1 = s.l1 := rfl
@[simp] theorem State.setByte_partials : (s.setByte a b).partials = s.partials := rfl
@[simp] theorem State.setByte_commKinds : (s.setByte a b).commKinds = s.commKinds := rfl
@[simp] theorem State.setByte_merges : (s.setByte a b).merges = s.merges := rfl
@[simp] theorem State.setByte_icache : (s.setByte a b).icache = s.icache := rfl
@[simp] theorem State.setByte_tlbs : (s.setByte a b).tlbs = s.tlbs := rfl
@[simp] theorem State.setByte_ctxs : (s.setByte a b).ctxs = s.ctxs := rfl
@[simp] theorem State.setByte_txns : (s.setByte a b).txns = s.txns := rfl
@[simp] theorem State.setByte_flight : (s.setByte a b).flight = s.flight := rfl
@[simp] theorem State.setByte_controls : (s.setByte a b).controls = s.controls := rfl
@[simp] theorem State.setByte_outbox : (s.setByte a b).outbox = s.outbox := rfl
@[simp] theorem State.setByte_links : (s.setByte a b).links = s.links := rfl
@[simp] theorem State.setByte_routes : (s.setByte a b).routes = s.routes := rfl
@[simp] theorem State.setByte_ports : (s.setByte a b).ports = s.ports := rfl
@[simp] theorem State.setByte_hops : (s.setByte a b).hops = s.hops := rfl
@[simp] theorem State.setByte_unresolved : (s.setByte a b).unresolved = s.unresolved := rfl
@[simp] theorem State.setByte_src0 : (s.setByte a b).src0 = s.src0 := rfl
@[simp] theorem State.setByte_portRecs : (s.setByte a b).portRecs = s.portRecs := rfl
@[simp] theorem State.setByte_paths : (s.setByte a b).paths = s.paths := rfl
@[simp] theorem State.setByte_path0 : (s.setByte a b).path0 = s.path0 := rfl
@[simp] theorem State.setByte_peersSt : (s.setByte a b).peersSt = s.peersSt := rfl
@[simp] theorem State.setByte_handles : (s.setByte a b).handles = s.handles := rfl
@[simp] theorem State.setByte_nextHandle : (s.setByte a b).nextHandle = s.nextHandle := rfl
@[simp] theorem State.setByte_wake : (s.setByte a b).wake = s.wake := rfl
@[simp] theorem State.setByte_gated : (s.setByte a b).gated = s.gated := rfl
@[simp] theorem State.setByte_fePowered : (s.setByte a b).fePowered = s.fePowered := rfl
@[simp] theorem State.setByte_twin : (s.setByte a b).twin = s.twin := rfl
@[simp] theorem State.setByte_traps : (s.setByte a b).traps = s.traps := rfl
@[simp] theorem State.setByte_stretches : (s.setByte a b).stretches = s.stretches := rfl
@[simp] theorem State.setByte_seqs : (s.setByte a b).seqs = s.seqs := rfl
@[simp] theorem State.setByte_symFixed : (s.setByte a b).symFixed = s.symFixed := rfl
@[simp] theorem State.setByte_uncorr : (s.setByte a b).uncorr = s.uncorr := rfl
@[simp] theorem State.setByte_lastPass : (s.setByte a b).lastPass = s.lastPass := rfl
@[simp] theorem State.setByte_gtime : (s.setByte a b).gtime = s.gtime := rfl
@[simp] theorem State.setByte_ck : (s.setByte a b).ck = s.ck := rfl
@[simp] theorem State.setByte_sent : (s.setByte a b).sent = s.sent := rfl
@[simp] theorem State.setByte_glitch : (s.setByte a b).glitch = s.glitch := rfl
@[simp] theorem State.setByte_redFaults : (s.setByte a b).redFaults = s.redFaults := rfl
@[simp] theorem State.setByte_freeNo : (s.setByte a b).freeNo = s.freeNo := rfl
@[simp] theorem State.setByte_cmdNo : (s.setByte a b).cmdNo = s.cmdNo := rfl
@[simp] theorem State.setByte_placeNo : (s.setByte a b).placeNo = s.placeNo := rfl
@[simp] theorem State.setByte_fillNo : (s.setByte a b).fillNo = s.fillNo := rfl
@[simp] theorem State.setByte_turns : (s.setByte a b).turns = s.turns := rfl
end

section
variable (s : State) (line i : Nat) (w : Word)
@[simp] theorem State.setRaw_g : (s.setRaw line i w).g = s.g := by simp only [State.setRaw, State.setByte_g]
@[simp] theorem State.setRaw_tm : (s.setRaw line i w).tm = s.tm := by simp only [State.setRaw, State.setByte_tm]
@[simp] theorem State.setRaw_focus : (s.setRaw line i w).focus = s.focus := by simp only [State.setRaw, State.setByte_focus]
@[simp] theorem State.setRaw_teams : (s.setRaw line i w).teams = s.teams := by simp only [State.setRaw, State.setByte_teams]
@[simp] theorem State.setRaw_kilns : (s.setRaw line i w).kilns = s.kilns := by simp only [State.setRaw, State.setByte_kilns]
@[simp] theorem State.setRaw_kilnCk : (s.setRaw line i w).kilnCk = s.kilnCk := by simp only [State.setRaw, State.setByte_kilnCk]
@[simp] theorem State.setRaw_cores : (s.setRaw line i w).cores = s.cores := by simp only [State.setRaw, State.setByte_cores]
@[simp] theorem State.setRaw_clusters : (s.setRaw line i w).clusters = s.clusters := by simp only [State.setRaw, State.setByte_clusters]
@[simp] theorem State.setRaw_disps : (s.setRaw line i w).disps = s.disps := by simp only [State.setRaw, State.setByte_disps]
@[simp] theorem State.setRaw_grids : (s.setRaw line i w).grids = s.grids := by simp only [State.setRaw, State.setByte_grids]
@[simp] theorem State.setRaw_nextGrid : (s.setRaw line i w).nextGrid = s.nextGrid := by simp only [State.setRaw, State.setByte_nextGrid]
@[simp] theorem State.setRaw_savedRecs : (s.setRaw line i w).savedRecs = s.savedRecs := by simp only [State.setRaw, State.setByte_savedRecs]
@[simp] theorem State.setRaw_queues : (s.setRaw line i w).queues = s.queues := by simp only [State.setRaw, State.setByte_queues]
@[simp] theorem State.setRaw_lastServed : (s.setRaw line i w).lastServed = s.lastServed := by simp only [State.setRaw, State.setByte_lastServed]
@[simp] theorem State.setRaw_parts : (s.setRaw line i w).parts = s.parts := by simp only [State.setRaw, State.setByte_parts]
@[simp] theorem State.setRaw_lineKeys : (s.setRaw line i w).lineKeys = s.lineKeys := by simp only [State.setRaw, State.setByte_lineKeys]
@[simp] theorem State.setRaw_syms : (s.setRaw line i w).syms = s.syms := by simp only [State.setRaw, State.setByte_syms]
@[simp] theorem State.setRaw_pins : (s.setRaw line i w).pins = s.pins := by simp only [State.setRaw, State.setByte_pins]
@[simp] theorem State.setRaw_keys : (s.setRaw line i w).keys = s.keys := by simp only [State.setRaw, State.setByte_keys]
@[simp] theorem State.setRaw_nextGen : (s.setRaw line i w).nextGen = s.nextGen := by simp only [State.setRaw, State.setByte_nextGen]
@[simp] theorem State.setRaw_keyStop : (s.setRaw line i w).keyStop = s.keyStop := by simp only [State.setRaw, State.setByte_keyStop]
@[simp] theorem State.setRaw_rowFixed : (s.setRaw line i w).rowFixed = s.rowFixed := by simp only [State.setRaw, State.setByte_rowFixed]
@[simp] theorem State.setRaw_spareRows : (s.setRaw line i w).spareRows = s.spareRows := by simp only [State.setRaw, State.setByte_spareRows]
@[simp] theorem State.setRaw_l2 : (s.setRaw line i w).l2 = s.l2 := by simp only [State.setRaw, State.setByte_l2]
@[simp] theorem State.setRaw_own : (s.setRaw line i w).own = s.own := by simp only [State.setRaw, State.setByte_own]
@[simp] theorem State.setRaw_ownNo : (s.setRaw line i w).ownNo = s.ownNo := by simp only [State.setRaw, State.setByte_ownNo]
@[simp] theorem State.setRaw_homeQ : (s.setRaw line i w).homeQ = s.homeQ := by simp only [State.setRaw, State.setByte_homeQ]
@[simp] theorem State.setRaw_stackTags : (s.setRaw line i w).stackTags = s.stackTags := by simp only [State.setRaw, State.setByte_stackTags]
@[simp] theorem State.setRaw_portSeen : (s.setRaw line i w).portSeen = s.portSeen := by simp only [State.setRaw, State.setByte_portSeen]
@[simp] theorem State.setRaw_stackQ : (s.setRaw line i w).stackQ = s.stackQ := by simp only [State.setRaw, State.setByte_stackQ]
@[simp] theorem State.setRaw_portAcks : (s.setRaw line i w).portAcks = s.portAcks := by simp only [State.setRaw, State.setByte_portAcks]
@[simp] theorem State.setRaw_fenced : (s.setRaw line i w).fenced = s.fenced := by simp only [State.setRaw, State.setByte_fenced]
@[simp] theorem State.setRaw_l1 : (s.setRaw line i w).l1 = s.l1 := by simp only [State.setRaw, State.setByte_l1]
@[simp] theorem State.setRaw_partials : (s.setRaw line i w).partials = s.partials := by simp only [State.setRaw, State.setByte_partials]
@[simp] theorem State.setRaw_commKinds : (s.setRaw line i w).commKinds = s.commKinds := by simp only [State.setRaw, State.setByte_commKinds]
@[simp] theorem State.setRaw_merges : (s.setRaw line i w).merges = s.merges := by simp only [State.setRaw, State.setByte_merges]
@[simp] theorem State.setRaw_icache : (s.setRaw line i w).icache = s.icache := by simp only [State.setRaw, State.setByte_icache]
@[simp] theorem State.setRaw_tlbs : (s.setRaw line i w).tlbs = s.tlbs := by simp only [State.setRaw, State.setByte_tlbs]
@[simp] theorem State.setRaw_ctxs : (s.setRaw line i w).ctxs = s.ctxs := by simp only [State.setRaw, State.setByte_ctxs]
@[simp] theorem State.setRaw_txns : (s.setRaw line i w).txns = s.txns := by simp only [State.setRaw, State.setByte_txns]
@[simp] theorem State.setRaw_flight : (s.setRaw line i w).flight = s.flight := by simp only [State.setRaw, State.setByte_flight]
@[simp] theorem State.setRaw_controls : (s.setRaw line i w).controls = s.controls := by simp only [State.setRaw, State.setByte_controls]
@[simp] theorem State.setRaw_outbox : (s.setRaw line i w).outbox = s.outbox := by simp only [State.setRaw, State.setByte_outbox]
@[simp] theorem State.setRaw_links : (s.setRaw line i w).links = s.links := by simp only [State.setRaw, State.setByte_links]
@[simp] theorem State.setRaw_routes : (s.setRaw line i w).routes = s.routes := by simp only [State.setRaw, State.setByte_routes]
@[simp] theorem State.setRaw_ports : (s.setRaw line i w).ports = s.ports := by simp only [State.setRaw, State.setByte_ports]
@[simp] theorem State.setRaw_hops : (s.setRaw line i w).hops = s.hops := by simp only [State.setRaw, State.setByte_hops]
@[simp] theorem State.setRaw_unresolved : (s.setRaw line i w).unresolved = s.unresolved := by simp only [State.setRaw, State.setByte_unresolved]
@[simp] theorem State.setRaw_src0 : (s.setRaw line i w).src0 = s.src0 := by simp only [State.setRaw, State.setByte_src0]
@[simp] theorem State.setRaw_portRecs : (s.setRaw line i w).portRecs = s.portRecs := by simp only [State.setRaw, State.setByte_portRecs]
@[simp] theorem State.setRaw_paths : (s.setRaw line i w).paths = s.paths := by simp only [State.setRaw, State.setByte_paths]
@[simp] theorem State.setRaw_path0 : (s.setRaw line i w).path0 = s.path0 := by simp only [State.setRaw, State.setByte_path0]
@[simp] theorem State.setRaw_peersSt : (s.setRaw line i w).peersSt = s.peersSt := by simp only [State.setRaw, State.setByte_peersSt]
@[simp] theorem State.setRaw_handles : (s.setRaw line i w).handles = s.handles := by simp only [State.setRaw, State.setByte_handles]
@[simp] theorem State.setRaw_nextHandle : (s.setRaw line i w).nextHandle = s.nextHandle := by simp only [State.setRaw, State.setByte_nextHandle]
@[simp] theorem State.setRaw_wake : (s.setRaw line i w).wake = s.wake := by simp only [State.setRaw, State.setByte_wake]
@[simp] theorem State.setRaw_gated : (s.setRaw line i w).gated = s.gated := by simp only [State.setRaw, State.setByte_gated]
@[simp] theorem State.setRaw_fePowered : (s.setRaw line i w).fePowered = s.fePowered := by simp only [State.setRaw, State.setByte_fePowered]
@[simp] theorem State.setRaw_twin : (s.setRaw line i w).twin = s.twin := by simp only [State.setRaw, State.setByte_twin]
@[simp] theorem State.setRaw_traps : (s.setRaw line i w).traps = s.traps := by simp only [State.setRaw, State.setByte_traps]
@[simp] theorem State.setRaw_stretches : (s.setRaw line i w).stretches = s.stretches := by simp only [State.setRaw, State.setByte_stretches]
@[simp] theorem State.setRaw_seqs : (s.setRaw line i w).seqs = s.seqs := by simp only [State.setRaw, State.setByte_seqs]
@[simp] theorem State.setRaw_symFixed : (s.setRaw line i w).symFixed = s.symFixed := by simp only [State.setRaw, State.setByte_symFixed]
@[simp] theorem State.setRaw_uncorr : (s.setRaw line i w).uncorr = s.uncorr := by simp only [State.setRaw, State.setByte_uncorr]
@[simp] theorem State.setRaw_lastPass : (s.setRaw line i w).lastPass = s.lastPass := by simp only [State.setRaw, State.setByte_lastPass]
@[simp] theorem State.setRaw_gtime : (s.setRaw line i w).gtime = s.gtime := by simp only [State.setRaw, State.setByte_gtime]
@[simp] theorem State.setRaw_ck : (s.setRaw line i w).ck = s.ck := by simp only [State.setRaw, State.setByte_ck]
@[simp] theorem State.setRaw_sent : (s.setRaw line i w).sent = s.sent := by simp only [State.setRaw, State.setByte_sent]
@[simp] theorem State.setRaw_glitch : (s.setRaw line i w).glitch = s.glitch := by simp only [State.setRaw, State.setByte_glitch]
@[simp] theorem State.setRaw_redFaults : (s.setRaw line i w).redFaults = s.redFaults := by simp only [State.setRaw, State.setByte_redFaults]
@[simp] theorem State.setRaw_freeNo : (s.setRaw line i w).freeNo = s.freeNo := by simp only [State.setRaw, State.setByte_freeNo]
@[simp] theorem State.setRaw_cmdNo : (s.setRaw line i w).cmdNo = s.cmdNo := by simp only [State.setRaw, State.setByte_cmdNo]
@[simp] theorem State.setRaw_placeNo : (s.setRaw line i w).placeNo = s.placeNo := by simp only [State.setRaw, State.setByte_placeNo]
@[simp] theorem State.setRaw_fillNo : (s.setRaw line i w).fillNo = s.fillNo := by simp only [State.setRaw, State.setByte_fillNo]
@[simp] theorem State.setRaw_turns : (s.setRaw line i w).turns = s.turns := by simp only [State.setRaw, State.setByte_turns]
end

section
variable (s : State) (p : Packet)
@[simp] theorem State.send_g : (s.send p).g = s.g := rfl
@[simp] theorem State.send_tm : (s.send p).tm = s.tm := rfl
@[simp] theorem State.send_focus : (s.send p).focus = s.focus := rfl
@[simp] theorem State.send_teams : (s.send p).teams = s.teams := rfl
@[simp] theorem State.send_kilns : (s.send p).kilns = s.kilns := rfl
@[simp] theorem State.send_kilnCk : (s.send p).kilnCk = s.kilnCk := rfl
@[simp] theorem State.send_cores : (s.send p).cores = s.cores := rfl
@[simp] theorem State.send_clusters : (s.send p).clusters = s.clusters := rfl
@[simp] theorem State.send_disps : (s.send p).disps = s.disps := rfl
@[simp] theorem State.send_grids : (s.send p).grids = s.grids := rfl
@[simp] theorem State.send_nextGrid : (s.send p).nextGrid = s.nextGrid := rfl
@[simp] theorem State.send_savedRecs : (s.send p).savedRecs = s.savedRecs := rfl
@[simp] theorem State.send_queues : (s.send p).queues = s.queues := rfl
@[simp] theorem State.send_lastServed : (s.send p).lastServed = s.lastServed := rfl
@[simp] theorem State.send_parts : (s.send p).parts = s.parts := rfl
@[simp] theorem State.send_mem : (s.send p).mem = s.mem := rfl
@[simp] theorem State.send_nibs : (s.send p).nibs = s.nibs := rfl
@[simp] theorem State.send_lineKeys : (s.send p).lineKeys = s.lineKeys := rfl
@[simp] theorem State.send_syms : (s.send p).syms = s.syms := rfl
@[simp] theorem State.send_pins : (s.send p).pins = s.pins := rfl
@[simp] theorem State.send_keys : (s.send p).keys = s.keys := rfl
@[simp] theorem State.send_nextGen : (s.send p).nextGen = s.nextGen := rfl
@[simp] theorem State.send_keyStop : (s.send p).keyStop = s.keyStop := rfl
@[simp] theorem State.send_rowFixed : (s.send p).rowFixed = s.rowFixed := rfl
@[simp] theorem State.send_spareRows : (s.send p).spareRows = s.spareRows := rfl
@[simp] theorem State.send_l2 : (s.send p).l2 = s.l2 := rfl
@[simp] theorem State.send_own : (s.send p).own = s.own := rfl
@[simp] theorem State.send_ownNo : (s.send p).ownNo = s.ownNo := rfl
@[simp] theorem State.send_homeQ : (s.send p).homeQ = s.homeQ := rfl
@[simp] theorem State.send_stackTags : (s.send p).stackTags = s.stackTags := rfl
@[simp] theorem State.send_portSeen : (s.send p).portSeen = s.portSeen := rfl
@[simp] theorem State.send_stackQ : (s.send p).stackQ = s.stackQ := rfl
@[simp] theorem State.send_portAcks : (s.send p).portAcks = s.portAcks := rfl
@[simp] theorem State.send_fenced : (s.send p).fenced = s.fenced := rfl
@[simp] theorem State.send_l1 : (s.send p).l1 = s.l1 := rfl
@[simp] theorem State.send_partials : (s.send p).partials = s.partials := rfl
@[simp] theorem State.send_commKinds : (s.send p).commKinds = s.commKinds := rfl
@[simp] theorem State.send_merges : (s.send p).merges = s.merges := rfl
@[simp] theorem State.send_icache : (s.send p).icache = s.icache := rfl
@[simp] theorem State.send_tlbs : (s.send p).tlbs = s.tlbs := rfl
@[simp] theorem State.send_ctxs : (s.send p).ctxs = s.ctxs := rfl
@[simp] theorem State.send_txns : (s.send p).txns = s.txns := rfl
@[simp] theorem State.send_flight : (s.send p).flight = if s.twin.stopInject then s.flight else s.flight ++ [p] := rfl
@[simp] theorem State.send_controls : (s.send p).controls = s.controls := rfl
@[simp] theorem State.send_outbox : (s.send p).outbox = if s.twin.stopInject then s.outbox ++ [p] else s.outbox := rfl
@[simp] theorem State.send_links : (s.send p).links = s.links := rfl
@[simp] theorem State.send_routes : (s.send p).routes = s.routes := rfl
@[simp] theorem State.send_ports : (s.send p).ports = s.ports := rfl
@[simp] theorem State.send_hops : (s.send p).hops = s.hops := rfl
@[simp] theorem State.send_unresolved : (s.send p).unresolved = s.unresolved := rfl
@[simp] theorem State.send_src0 : (s.send p).src0 = s.src0 := rfl
@[simp] theorem State.send_portRecs : (s.send p).portRecs = s.portRecs := rfl
@[simp] theorem State.send_paths : (s.send p).paths = s.paths := rfl
@[simp] theorem State.send_path0 : (s.send p).path0 = s.path0 := rfl
@[simp] theorem State.send_peersSt : (s.send p).peersSt = s.peersSt := rfl
@[simp] theorem State.send_handles : (s.send p).handles = s.handles := rfl
@[simp] theorem State.send_nextHandle : (s.send p).nextHandle = s.nextHandle := rfl
@[simp] theorem State.send_wake : (s.send p).wake = s.wake := rfl
@[simp] theorem State.send_gated : (s.send p).gated = s.gated := rfl
@[simp] theorem State.send_fePowered : (s.send p).fePowered = s.fePowered := rfl
@[simp] theorem State.send_twin : (s.send p).twin = s.twin := rfl
@[simp] theorem State.send_traps : (s.send p).traps = s.traps := rfl
@[simp] theorem State.send_stretches : (s.send p).stretches = s.stretches := rfl
@[simp] theorem State.send_seqs : (s.send p).seqs = s.seqs := rfl
@[simp] theorem State.send_symFixed : (s.send p).symFixed = s.symFixed := rfl
@[simp] theorem State.send_uncorr : (s.send p).uncorr = s.uncorr := rfl
@[simp] theorem State.send_lastPass : (s.send p).lastPass = s.lastPass := rfl
@[simp] theorem State.send_gtime : (s.send p).gtime = s.gtime := rfl
@[simp] theorem State.send_ck : (s.send p).ck = s.ck := rfl
@[simp] theorem State.send_sent : (s.send p).sent = s.sent := rfl
@[simp] theorem State.send_glitch : (s.send p).glitch = s.glitch := rfl
@[simp] theorem State.send_redFaults : (s.send p).redFaults = s.redFaults := rfl
@[simp] theorem State.send_freeNo : (s.send p).freeNo = s.freeNo := rfl
@[simp] theorem State.send_cmdNo : (s.send p).cmdNo = s.cmdNo := rfl
@[simp] theorem State.send_placeNo : (s.send p).placeNo = s.placeNo := rfl
@[simp] theorem State.send_fillNo : (s.send p).fillNo = s.fillNo := rfl
@[simp] theorem State.send_turns : (s.send p).turns = s.turns := rfl
end

section
variable (s : State) (w : Wait)
@[simp] theorem State.hold_g : (s.hold w).g = { s.g with wait := w } := rfl
@[simp] theorem State.hold_tm : (s.hold w).tm = s.tm := rfl
@[simp] theorem State.hold_focus : (s.hold w).focus = s.focus := rfl
@[simp] theorem State.hold_teams : (s.hold w).teams = s.teams := rfl
@[simp] theorem State.hold_kilns : (s.hold w).kilns = s.kilns := rfl
@[simp] theorem State.hold_kilnCk : (s.hold w).kilnCk = s.kilnCk := rfl
@[simp] theorem State.hold_cores : (s.hold w).cores = s.cores := rfl
@[simp] theorem State.hold_clusters : (s.hold w).clusters = s.clusters := rfl
@[simp] theorem State.hold_disps : (s.hold w).disps = s.disps := rfl
@[simp] theorem State.hold_grids : (s.hold w).grids = s.grids := rfl
@[simp] theorem State.hold_nextGrid : (s.hold w).nextGrid = s.nextGrid := rfl
@[simp] theorem State.hold_savedRecs : (s.hold w).savedRecs = s.savedRecs := rfl
@[simp] theorem State.hold_queues : (s.hold w).queues = s.queues := rfl
@[simp] theorem State.hold_lastServed : (s.hold w).lastServed = s.lastServed := rfl
@[simp] theorem State.hold_parts : (s.hold w).parts = s.parts := rfl
@[simp] theorem State.hold_mem : (s.hold w).mem = s.mem := rfl
@[simp] theorem State.hold_nibs : (s.hold w).nibs = s.nibs := rfl
@[simp] theorem State.hold_lineKeys : (s.hold w).lineKeys = s.lineKeys := rfl
@[simp] theorem State.hold_syms : (s.hold w).syms = s.syms := rfl
@[simp] theorem State.hold_pins : (s.hold w).pins = s.pins := rfl
@[simp] theorem State.hold_keys : (s.hold w).keys = s.keys := rfl
@[simp] theorem State.hold_nextGen : (s.hold w).nextGen = s.nextGen := rfl
@[simp] theorem State.hold_keyStop : (s.hold w).keyStop = s.keyStop := rfl
@[simp] theorem State.hold_rowFixed : (s.hold w).rowFixed = s.rowFixed := rfl
@[simp] theorem State.hold_spareRows : (s.hold w).spareRows = s.spareRows := rfl
@[simp] theorem State.hold_l2 : (s.hold w).l2 = s.l2 := rfl
@[simp] theorem State.hold_own : (s.hold w).own = s.own := rfl
@[simp] theorem State.hold_ownNo : (s.hold w).ownNo = s.ownNo := rfl
@[simp] theorem State.hold_homeQ : (s.hold w).homeQ = s.homeQ := rfl
@[simp] theorem State.hold_stackTags : (s.hold w).stackTags = s.stackTags := rfl
@[simp] theorem State.hold_portSeen : (s.hold w).portSeen = s.portSeen := rfl
@[simp] theorem State.hold_stackQ : (s.hold w).stackQ = s.stackQ := rfl
@[simp] theorem State.hold_portAcks : (s.hold w).portAcks = s.portAcks := rfl
@[simp] theorem State.hold_fenced : (s.hold w).fenced = s.fenced := rfl
@[simp] theorem State.hold_l1 : (s.hold w).l1 = s.l1 := rfl
@[simp] theorem State.hold_partials : (s.hold w).partials = s.partials := rfl
@[simp] theorem State.hold_commKinds : (s.hold w).commKinds = s.commKinds := rfl
@[simp] theorem State.hold_merges : (s.hold w).merges = s.merges := rfl
@[simp] theorem State.hold_icache : (s.hold w).icache = s.icache := rfl
@[simp] theorem State.hold_tlbs : (s.hold w).tlbs = s.tlbs := rfl
@[simp] theorem State.hold_ctxs : (s.hold w).ctxs = s.ctxs := rfl
@[simp] theorem State.hold_txns : (s.hold w).txns = s.txns := rfl
@[simp] theorem State.hold_flight : (s.hold w).flight = s.flight := rfl
@[simp] theorem State.hold_controls : (s.hold w).controls = s.controls := rfl
@[simp] theorem State.hold_outbox : (s.hold w).outbox = s.outbox := rfl
@[simp] theorem State.hold_links : (s.hold w).links = s.links := rfl
@[simp] theorem State.hold_routes : (s.hold w).routes = s.routes := rfl
@[simp] theorem State.hold_ports : (s.hold w).ports = s.ports := rfl
@[simp] theorem State.hold_hops : (s.hold w).hops = s.hops := rfl
@[simp] theorem State.hold_unresolved : (s.hold w).unresolved = s.unresolved := rfl
@[simp] theorem State.hold_src0 : (s.hold w).src0 = s.src0 := rfl
@[simp] theorem State.hold_portRecs : (s.hold w).portRecs = s.portRecs := rfl
@[simp] theorem State.hold_paths : (s.hold w).paths = s.paths := rfl
@[simp] theorem State.hold_path0 : (s.hold w).path0 = s.path0 := rfl
@[simp] theorem State.hold_peersSt : (s.hold w).peersSt = s.peersSt := rfl
@[simp] theorem State.hold_handles : (s.hold w).handles = s.handles := rfl
@[simp] theorem State.hold_nextHandle : (s.hold w).nextHandle = s.nextHandle := rfl
@[simp] theorem State.hold_wake : (s.hold w).wake = s.wake := rfl
@[simp] theorem State.hold_gated : (s.hold w).gated = s.gated := rfl
@[simp] theorem State.hold_fePowered : (s.hold w).fePowered = s.fePowered := rfl
@[simp] theorem State.hold_twin : (s.hold w).twin = s.twin := rfl
@[simp] theorem State.hold_traps : (s.hold w).traps = s.traps := rfl
@[simp] theorem State.hold_stretches : (s.hold w).stretches = s.stretches := rfl
@[simp] theorem State.hold_seqs : (s.hold w).seqs = s.seqs := rfl
@[simp] theorem State.hold_symFixed : (s.hold w).symFixed = s.symFixed := rfl
@[simp] theorem State.hold_uncorr : (s.hold w).uncorr = s.uncorr := rfl
@[simp] theorem State.hold_lastPass : (s.hold w).lastPass = s.lastPass := rfl
@[simp] theorem State.hold_gtime : (s.hold w).gtime = s.gtime := rfl
@[simp] theorem State.hold_ck : (s.hold w).ck = s.ck := rfl
@[simp] theorem State.hold_sent : (s.hold w).sent = s.sent := rfl
@[simp] theorem State.hold_glitch : (s.hold w).glitch = s.glitch := rfl
@[simp] theorem State.hold_redFaults : (s.hold w).redFaults = s.redFaults := rfl
@[simp] theorem State.hold_freeNo : (s.hold w).freeNo = s.freeNo := rfl
@[simp] theorem State.hold_cmdNo : (s.hold w).cmdNo = s.cmdNo := rfl
@[simp] theorem State.hold_placeNo : (s.hold w).placeNo = s.placeNo := rfl
@[simp] theorem State.hold_fillNo : (s.hold w).fillNo = s.fillNo := rfl
@[simp] theorem State.hold_turns : (s.hold w).turns = s.turns := rfl
end

section
variable (s : State) (r : Rec)
@[simp] theorem State.record_g : (s.record r).g = s.g := rfl
@[simp] theorem State.record_tm : (s.record r).tm = s.tm := rfl
@[simp] theorem State.record_focus : (s.record r).focus = s.focus := rfl
@[simp] theorem State.record_teams : (s.record r).teams = s.teams := rfl
@[simp] theorem State.record_kilns : (s.record r).kilns = s.kilns := rfl
@[simp] theorem State.record_kilnCk : (s.record r).kilnCk = s.kilnCk := rfl
@[simp] theorem State.record_cores : (s.record r).cores = s.cores := rfl
@[simp] theorem State.record_clusters : (s.record r).clusters = s.clusters := rfl
@[simp] theorem State.record_disps : (s.record r).disps = s.disps := rfl
@[simp] theorem State.record_grids : (s.record r).grids = s.grids := rfl
@[simp] theorem State.record_nextGrid : (s.record r).nextGrid = s.nextGrid := rfl
@[simp] theorem State.record_savedRecs : (s.record r).savedRecs = s.savedRecs := rfl
@[simp] theorem State.record_queues : (s.record r).queues = s.queues := rfl
@[simp] theorem State.record_lastServed : (s.record r).lastServed = s.lastServed := rfl
@[simp] theorem State.record_parts : (s.record r).parts = s.parts := rfl
@[simp] theorem State.record_mem : (s.record r).mem = s.mem := rfl
@[simp] theorem State.record_nibs : (s.record r).nibs = s.nibs := rfl
@[simp] theorem State.record_lineKeys : (s.record r).lineKeys = s.lineKeys := rfl
@[simp] theorem State.record_syms : (s.record r).syms = s.syms := rfl
@[simp] theorem State.record_pins : (s.record r).pins = s.pins := rfl
@[simp] theorem State.record_keys : (s.record r).keys = s.keys := rfl
@[simp] theorem State.record_nextGen : (s.record r).nextGen = s.nextGen := rfl
@[simp] theorem State.record_keyStop : (s.record r).keyStop = s.keyStop := rfl
@[simp] theorem State.record_rowFixed : (s.record r).rowFixed = s.rowFixed := rfl
@[simp] theorem State.record_spareRows : (s.record r).spareRows = s.spareRows := rfl
@[simp] theorem State.record_l2 : (s.record r).l2 = s.l2 := rfl
@[simp] theorem State.record_own : (s.record r).own = s.own := rfl
@[simp] theorem State.record_ownNo : (s.record r).ownNo = s.ownNo := rfl
@[simp] theorem State.record_homeQ : (s.record r).homeQ = s.homeQ := rfl
@[simp] theorem State.record_stackTags : (s.record r).stackTags = s.stackTags := rfl
@[simp] theorem State.record_portSeen : (s.record r).portSeen = s.portSeen := rfl
@[simp] theorem State.record_stackQ : (s.record r).stackQ = s.stackQ := rfl
@[simp] theorem State.record_portAcks : (s.record r).portAcks = s.portAcks := rfl
@[simp] theorem State.record_fenced : (s.record r).fenced = s.fenced := rfl
@[simp] theorem State.record_l1 : (s.record r).l1 = s.l1 := rfl
@[simp] theorem State.record_partials : (s.record r).partials = s.partials := rfl
@[simp] theorem State.record_commKinds : (s.record r).commKinds = s.commKinds := rfl
@[simp] theorem State.record_merges : (s.record r).merges = s.merges := rfl
@[simp] theorem State.record_icache : (s.record r).icache = s.icache := rfl
@[simp] theorem State.record_tlbs : (s.record r).tlbs = s.tlbs := rfl
@[simp] theorem State.record_ctxs : (s.record r).ctxs = s.ctxs := rfl
@[simp] theorem State.record_txns : (s.record r).txns = s.txns := rfl
@[simp] theorem State.record_controls : (s.record r).controls = s.controls := rfl
@[simp] theorem State.record_links : (s.record r).links = s.links := rfl
@[simp] theorem State.record_routes : (s.record r).routes = s.routes := rfl
@[simp] theorem State.record_ports : (s.record r).ports = s.ports := rfl
@[simp] theorem State.record_hops : (s.record r).hops = s.hops := rfl
@[simp] theorem State.record_unresolved : (s.record r).unresolved = s.unresolved := rfl
@[simp] theorem State.record_src0 : (s.record r).src0 = s.src0 := rfl
@[simp] theorem State.record_portRecs : (s.record r).portRecs = s.portRecs := rfl
@[simp] theorem State.record_paths : (s.record r).paths = s.paths := rfl
@[simp] theorem State.record_path0 : (s.record r).path0 = s.path0 := rfl
@[simp] theorem State.record_peersSt : (s.record r).peersSt = s.peersSt := rfl
@[simp] theorem State.record_handles : (s.record r).handles = s.handles := rfl
@[simp] theorem State.record_nextHandle : (s.record r).nextHandle = s.nextHandle := rfl
@[simp] theorem State.record_wake : (s.record r).wake = s.wake := rfl
@[simp] theorem State.record_gated : (s.record r).gated = s.gated := rfl
@[simp] theorem State.record_fePowered : (s.record r).fePowered = s.fePowered := rfl
@[simp] theorem State.record_twin : (s.record r).twin = s.twin := rfl
@[simp] theorem State.record_traps : (s.record r).traps = s.traps := rfl
@[simp] theorem State.record_stretches : (s.record r).stretches = s.stretches := rfl
@[simp] theorem State.record_symFixed : (s.record r).symFixed = s.symFixed := rfl
@[simp] theorem State.record_uncorr : (s.record r).uncorr = s.uncorr := rfl
@[simp] theorem State.record_lastPass : (s.record r).lastPass = s.lastPass := rfl
@[simp] theorem State.record_gtime : (s.record r).gtime = s.gtime := rfl
@[simp] theorem State.record_ck : (s.record r).ck = s.ck := rfl
@[simp] theorem State.record_sent : (s.record r).sent = s.sent := rfl
@[simp] theorem State.record_glitch : (s.record r).glitch = s.glitch := rfl
@[simp] theorem State.record_redFaults : (s.record r).redFaults = s.redFaults := rfl
@[simp] theorem State.record_freeNo : (s.record r).freeNo = s.freeNo := rfl
@[simp] theorem State.record_cmdNo : (s.record r).cmdNo = s.cmdNo := rfl
@[simp] theorem State.record_placeNo : (s.record r).placeNo = s.placeNo := rfl
@[simp] theorem State.record_fillNo : (s.record r).fillNo = s.fillNo := rfl
@[simp] theorem State.record_turns : (s.record r).turns = s.turns := rfl
end

section
variable (s : State) (n grade : Nat)
@[simp] theorem State.gradeGrid_g : (s.gradeGrid n grade).g = s.g := rfl
@[simp] theorem State.gradeGrid_tm : (s.gradeGrid n grade).tm = s.tm := rfl
@[simp] theorem State.gradeGrid_focus : (s.gradeGrid n grade).focus = s.focus := rfl
@[simp] theorem State.gradeGrid_teams : (s.gradeGrid n grade).teams = s.teams := rfl
@[simp] theorem State.gradeGrid_kilns : (s.gradeGrid n grade).kilns = s.kilns := rfl
@[simp] theorem State.gradeGrid_kilnCk : (s.gradeGrid n grade).kilnCk = s.kilnCk := rfl
@[simp] theorem State.gradeGrid_cores : (s.gradeGrid n grade).cores = s.cores := rfl
@[simp] theorem State.gradeGrid_clusters : (s.gradeGrid n grade).clusters = s.clusters := rfl
@[simp] theorem State.gradeGrid_disps : (s.gradeGrid n grade).disps = s.disps := rfl
@[simp] theorem State.gradeGrid_nextGrid : (s.gradeGrid n grade).nextGrid = s.nextGrid := rfl
@[simp] theorem State.gradeGrid_savedRecs : (s.gradeGrid n grade).savedRecs = s.savedRecs := rfl
@[simp] theorem State.gradeGrid_queues : (s.gradeGrid n grade).queues = s.queues := rfl
@[simp] theorem State.gradeGrid_lastServed : (s.gradeGrid n grade).lastServed = s.lastServed := rfl
@[simp] theorem State.gradeGrid_parts : (s.gradeGrid n grade).parts = s.parts := rfl
@[simp] theorem State.gradeGrid_mem : (s.gradeGrid n grade).mem = s.mem := rfl
@[simp] theorem State.gradeGrid_nibs : (s.gradeGrid n grade).nibs = s.nibs := rfl
@[simp] theorem State.gradeGrid_lineKeys : (s.gradeGrid n grade).lineKeys = s.lineKeys := rfl
@[simp] theorem State.gradeGrid_syms : (s.gradeGrid n grade).syms = s.syms := rfl
@[simp] theorem State.gradeGrid_pins : (s.gradeGrid n grade).pins = s.pins := rfl
@[simp] theorem State.gradeGrid_keys : (s.gradeGrid n grade).keys = s.keys := rfl
@[simp] theorem State.gradeGrid_nextGen : (s.gradeGrid n grade).nextGen = s.nextGen := rfl
@[simp] theorem State.gradeGrid_keyStop : (s.gradeGrid n grade).keyStop = s.keyStop := rfl
@[simp] theorem State.gradeGrid_rowFixed : (s.gradeGrid n grade).rowFixed = s.rowFixed := rfl
@[simp] theorem State.gradeGrid_spareRows : (s.gradeGrid n grade).spareRows = s.spareRows := rfl
@[simp] theorem State.gradeGrid_l2 : (s.gradeGrid n grade).l2 = s.l2 := rfl
@[simp] theorem State.gradeGrid_own : (s.gradeGrid n grade).own = s.own := rfl
@[simp] theorem State.gradeGrid_ownNo : (s.gradeGrid n grade).ownNo = s.ownNo := rfl
@[simp] theorem State.gradeGrid_homeQ : (s.gradeGrid n grade).homeQ = s.homeQ := rfl
@[simp] theorem State.gradeGrid_stackTags : (s.gradeGrid n grade).stackTags = s.stackTags := rfl
@[simp] theorem State.gradeGrid_portSeen : (s.gradeGrid n grade).portSeen = s.portSeen := rfl
@[simp] theorem State.gradeGrid_stackQ : (s.gradeGrid n grade).stackQ = s.stackQ := rfl
@[simp] theorem State.gradeGrid_portAcks : (s.gradeGrid n grade).portAcks = s.portAcks := rfl
@[simp] theorem State.gradeGrid_fenced : (s.gradeGrid n grade).fenced = s.fenced := rfl
@[simp] theorem State.gradeGrid_l1 : (s.gradeGrid n grade).l1 = s.l1 := rfl
@[simp] theorem State.gradeGrid_partials : (s.gradeGrid n grade).partials = s.partials := rfl
@[simp] theorem State.gradeGrid_commKinds : (s.gradeGrid n grade).commKinds = s.commKinds := rfl
@[simp] theorem State.gradeGrid_merges : (s.gradeGrid n grade).merges = s.merges := rfl
@[simp] theorem State.gradeGrid_icache : (s.gradeGrid n grade).icache = s.icache := rfl
@[simp] theorem State.gradeGrid_tlbs : (s.gradeGrid n grade).tlbs = s.tlbs := rfl
@[simp] theorem State.gradeGrid_ctxs : (s.gradeGrid n grade).ctxs = s.ctxs := rfl
@[simp] theorem State.gradeGrid_txns : (s.gradeGrid n grade).txns = s.txns := rfl
@[simp] theorem State.gradeGrid_flight : (s.gradeGrid n grade).flight = s.flight := rfl
@[simp] theorem State.gradeGrid_controls : (s.gradeGrid n grade).controls = s.controls := rfl
@[simp] theorem State.gradeGrid_outbox : (s.gradeGrid n grade).outbox = s.outbox := rfl
@[simp] theorem State.gradeGrid_links : (s.gradeGrid n grade).links = s.links := rfl
@[simp] theorem State.gradeGrid_routes : (s.gradeGrid n grade).routes = s.routes := rfl
@[simp] theorem State.gradeGrid_ports : (s.gradeGrid n grade).ports = s.ports := rfl
@[simp] theorem State.gradeGrid_hops : (s.gradeGrid n grade).hops = s.hops := rfl
@[simp] theorem State.gradeGrid_unresolved : (s.gradeGrid n grade).unresolved = s.unresolved := rfl
@[simp] theorem State.gradeGrid_src0 : (s.gradeGrid n grade).src0 = s.src0 := rfl
@[simp] theorem State.gradeGrid_portRecs : (s.gradeGrid n grade).portRecs = s.portRecs := rfl
@[simp] theorem State.gradeGrid_paths : (s.gradeGrid n grade).paths = s.paths := rfl
@[simp] theorem State.gradeGrid_path0 : (s.gradeGrid n grade).path0 = s.path0 := rfl
@[simp] theorem State.gradeGrid_peersSt : (s.gradeGrid n grade).peersSt = s.peersSt := rfl
@[simp] theorem State.gradeGrid_handles : (s.gradeGrid n grade).handles = s.handles := rfl
@[simp] theorem State.gradeGrid_nextHandle : (s.gradeGrid n grade).nextHandle = s.nextHandle := rfl
@[simp] theorem State.gradeGrid_wake : (s.gradeGrid n grade).wake = s.wake := rfl
@[simp] theorem State.gradeGrid_gated : (s.gradeGrid n grade).gated = s.gated := rfl
@[simp] theorem State.gradeGrid_fePowered : (s.gradeGrid n grade).fePowered = s.fePowered := rfl
@[simp] theorem State.gradeGrid_twin : (s.gradeGrid n grade).twin = s.twin := rfl
@[simp] theorem State.gradeGrid_traps : (s.gradeGrid n grade).traps = s.traps := rfl
@[simp] theorem State.gradeGrid_stretches : (s.gradeGrid n grade).stretches = s.stretches := rfl
@[simp] theorem State.gradeGrid_seqs : (s.gradeGrid n grade).seqs = s.seqs := rfl
@[simp] theorem State.gradeGrid_symFixed : (s.gradeGrid n grade).symFixed = s.symFixed := rfl
@[simp] theorem State.gradeGrid_uncorr : (s.gradeGrid n grade).uncorr = s.uncorr := rfl
@[simp] theorem State.gradeGrid_lastPass : (s.gradeGrid n grade).lastPass = s.lastPass := rfl
@[simp] theorem State.gradeGrid_gtime : (s.gradeGrid n grade).gtime = s.gtime := rfl
@[simp] theorem State.gradeGrid_ck : (s.gradeGrid n grade).ck = s.ck := rfl
@[simp] theorem State.gradeGrid_sent : (s.gradeGrid n grade).sent = s.sent := rfl
@[simp] theorem State.gradeGrid_glitch : (s.gradeGrid n grade).glitch = s.glitch := rfl
@[simp] theorem State.gradeGrid_redFaults : (s.gradeGrid n grade).redFaults = s.redFaults := rfl
@[simp] theorem State.gradeGrid_freeNo : (s.gradeGrid n grade).freeNo = s.freeNo := rfl
@[simp] theorem State.gradeGrid_cmdNo : (s.gradeGrid n grade).cmdNo = s.cmdNo := rfl
@[simp] theorem State.gradeGrid_placeNo : (s.gradeGrid n grade).placeNo = s.placeNo := rfl
@[simp] theorem State.gradeGrid_fillNo : (s.gradeGrid n grade).fillNo = s.fillNo := rfl
@[simp] theorem State.gradeGrid_turns : (s.gradeGrid n grade).turns = s.turns := rfl
end

section
variable (s : State) (p : Nat) (f : Part → Part)
@[simp] theorem State.modPart_g : (s.modPart p f).g = s.g := rfl
@[simp] theorem State.modPart_tm : (s.modPart p f).tm = s.tm := rfl
@[simp] theorem State.modPart_focus : (s.modPart p f).focus = s.focus := rfl
@[simp] theorem State.modPart_teams : (s.modPart p f).teams = s.teams := rfl
@[simp] theorem State.modPart_kilns : (s.modPart p f).kilns = s.kilns := rfl
@[simp] theorem State.modPart_kilnCk : (s.modPart p f).kilnCk = s.kilnCk := rfl
@[simp] theorem State.modPart_cores : (s.modPart p f).cores = s.cores := rfl
@[simp] theorem State.modPart_clusters : (s.modPart p f).clusters = s.clusters := rfl
@[simp] theorem State.modPart_disps : (s.modPart p f).disps = s.disps := rfl
@[simp] theorem State.modPart_grids : (s.modPart p f).grids = s.grids := rfl
@[simp] theorem State.modPart_nextGrid : (s.modPart p f).nextGrid = s.nextGrid := rfl
@[simp] theorem State.modPart_savedRecs : (s.modPart p f).savedRecs = s.savedRecs := rfl
@[simp] theorem State.modPart_queues : (s.modPart p f).queues = s.queues := rfl
@[simp] theorem State.modPart_lastServed : (s.modPart p f).lastServed = s.lastServed := rfl
@[simp] theorem State.modPart_parts : (s.modPart p f).parts = tmod s.parts p Part.initial f := rfl
@[simp] theorem State.modPart_mem : (s.modPart p f).mem = s.mem := rfl
@[simp] theorem State.modPart_nibs : (s.modPart p f).nibs = s.nibs := rfl
@[simp] theorem State.modPart_lineKeys : (s.modPart p f).lineKeys = s.lineKeys := rfl
@[simp] theorem State.modPart_syms : (s.modPart p f).syms = s.syms := rfl
@[simp] theorem State.modPart_pins : (s.modPart p f).pins = s.pins := rfl
@[simp] theorem State.modPart_keys : (s.modPart p f).keys = s.keys := rfl
@[simp] theorem State.modPart_nextGen : (s.modPart p f).nextGen = s.nextGen := rfl
@[simp] theorem State.modPart_keyStop : (s.modPart p f).keyStop = s.keyStop := rfl
@[simp] theorem State.modPart_rowFixed : (s.modPart p f).rowFixed = s.rowFixed := rfl
@[simp] theorem State.modPart_spareRows : (s.modPart p f).spareRows = s.spareRows := rfl
@[simp] theorem State.modPart_l2 : (s.modPart p f).l2 = s.l2 := rfl
@[simp] theorem State.modPart_own : (s.modPart p f).own = s.own := rfl
@[simp] theorem State.modPart_ownNo : (s.modPart p f).ownNo = s.ownNo := rfl
@[simp] theorem State.modPart_homeQ : (s.modPart p f).homeQ = s.homeQ := rfl
@[simp] theorem State.modPart_stackTags : (s.modPart p f).stackTags = s.stackTags := rfl
@[simp] theorem State.modPart_portSeen : (s.modPart p f).portSeen = s.portSeen := rfl
@[simp] theorem State.modPart_stackQ : (s.modPart p f).stackQ = s.stackQ := rfl
@[simp] theorem State.modPart_portAcks : (s.modPart p f).portAcks = s.portAcks := rfl
@[simp] theorem State.modPart_fenced : (s.modPart p f).fenced = s.fenced := rfl
@[simp] theorem State.modPart_l1 : (s.modPart p f).l1 = s.l1 := rfl
@[simp] theorem State.modPart_partials : (s.modPart p f).partials = s.partials := rfl
@[simp] theorem State.modPart_commKinds : (s.modPart p f).commKinds = s.commKinds := rfl
@[simp] theorem State.modPart_merges : (s.modPart p f).merges = s.merges := rfl
@[simp] theorem State.modPart_icache : (s.modPart p f).icache = s.icache := rfl
@[simp] theorem State.modPart_tlbs : (s.modPart p f).tlbs = s.tlbs := rfl
@[simp] theorem State.modPart_ctxs : (s.modPart p f).ctxs = s.ctxs := rfl
@[simp] theorem State.modPart_txns : (s.modPart p f).txns = s.txns := rfl
@[simp] theorem State.modPart_flight : (s.modPart p f).flight = s.flight := rfl
@[simp] theorem State.modPart_controls : (s.modPart p f).controls = s.controls := rfl
@[simp] theorem State.modPart_outbox : (s.modPart p f).outbox = s.outbox := rfl
@[simp] theorem State.modPart_links : (s.modPart p f).links = s.links := rfl
@[simp] theorem State.modPart_routes : (s.modPart p f).routes = s.routes := rfl
@[simp] theorem State.modPart_ports : (s.modPart p f).ports = s.ports := rfl
@[simp] theorem State.modPart_hops : (s.modPart p f).hops = s.hops := rfl
@[simp] theorem State.modPart_unresolved : (s.modPart p f).unresolved = s.unresolved := rfl
@[simp] theorem State.modPart_src0 : (s.modPart p f).src0 = s.src0 := rfl
@[simp] theorem State.modPart_portRecs : (s.modPart p f).portRecs = s.portRecs := rfl
@[simp] theorem State.modPart_paths : (s.modPart p f).paths = s.paths := rfl
@[simp] theorem State.modPart_path0 : (s.modPart p f).path0 = s.path0 := rfl
@[simp] theorem State.modPart_peersSt : (s.modPart p f).peersSt = s.peersSt := rfl
@[simp] theorem State.modPart_handles : (s.modPart p f).handles = s.handles := rfl
@[simp] theorem State.modPart_nextHandle : (s.modPart p f).nextHandle = s.nextHandle := rfl
@[simp] theorem State.modPart_wake : (s.modPart p f).wake = s.wake := rfl
@[simp] theorem State.modPart_gated : (s.modPart p f).gated = s.gated := rfl
@[simp] theorem State.modPart_fePowered : (s.modPart p f).fePowered = s.fePowered := rfl
@[simp] theorem State.modPart_twin : (s.modPart p f).twin = s.twin := rfl
@[simp] theorem State.modPart_traps : (s.modPart p f).traps = s.traps := rfl
@[simp] theorem State.modPart_stretches : (s.modPart p f).stretches = s.stretches := rfl
@[simp] theorem State.modPart_seqs : (s.modPart p f).seqs = s.seqs := rfl
@[simp] theorem State.modPart_symFixed : (s.modPart p f).symFixed = s.symFixed := rfl
@[simp] theorem State.modPart_uncorr : (s.modPart p f).uncorr = s.uncorr := rfl
@[simp] theorem State.modPart_lastPass : (s.modPart p f).lastPass = s.lastPass := rfl
@[simp] theorem State.modPart_gtime : (s.modPart p f).gtime = s.gtime := rfl
@[simp] theorem State.modPart_ck : (s.modPart p f).ck = s.ck := rfl
@[simp] theorem State.modPart_sent : (s.modPart p f).sent = s.sent := rfl
@[simp] theorem State.modPart_glitch : (s.modPart p f).glitch = s.glitch := rfl
@[simp] theorem State.modPart_redFaults : (s.modPart p f).redFaults = s.redFaults := rfl
@[simp] theorem State.modPart_freeNo : (s.modPart p f).freeNo = s.freeNo := rfl
@[simp] theorem State.modPart_cmdNo : (s.modPart p f).cmdNo = s.cmdNo := rfl
@[simp] theorem State.modPart_placeNo : (s.modPart p f).placeNo = s.placeNo := rfl
@[simp] theorem State.modPart_fillNo : (s.modPart p f).fillNo = s.fillNo := rfl
@[simp] theorem State.modPart_turns : (s.modPart p f).turns = s.turns := rfl
end

section
variable (s : State) (q : Nat) (f : Queue → Queue)
@[simp] theorem State.modQueue_g : (s.modQueue q f).g = s.g := rfl
@[simp] theorem State.modQueue_tm : (s.modQueue q f).tm = s.tm := rfl
@[simp] theorem State.modQueue_focus : (s.modQueue q f).focus = s.focus := rfl
@[simp] theorem State.modQueue_teams : (s.modQueue q f).teams = s.teams := rfl
@[simp] theorem State.modQueue_kilns : (s.modQueue q f).kilns = s.kilns := rfl
@[simp] theorem State.modQueue_kilnCk : (s.modQueue q f).kilnCk = s.kilnCk := rfl
@[simp] theorem State.modQueue_cores : (s.modQueue q f).cores = s.cores := rfl
@[simp] theorem State.modQueue_clusters : (s.modQueue q f).clusters = s.clusters := rfl
@[simp] theorem State.modQueue_disps : (s.modQueue q f).disps = s.disps := rfl
@[simp] theorem State.modQueue_grids : (s.modQueue q f).grids = s.grids := rfl
@[simp] theorem State.modQueue_nextGrid : (s.modQueue q f).nextGrid = s.nextGrid := rfl
@[simp] theorem State.modQueue_savedRecs : (s.modQueue q f).savedRecs = s.savedRecs := rfl
@[simp] theorem State.modQueue_queues : (s.modQueue q f).queues = tmod s.queues q Queue.initial f := rfl
@[simp] theorem State.modQueue_lastServed : (s.modQueue q f).lastServed = s.lastServed := rfl
@[simp] theorem State.modQueue_parts : (s.modQueue q f).parts = s.parts := rfl
@[simp] theorem State.modQueue_mem : (s.modQueue q f).mem = s.mem := rfl
@[simp] theorem State.modQueue_nibs : (s.modQueue q f).nibs = s.nibs := rfl
@[simp] theorem State.modQueue_lineKeys : (s.modQueue q f).lineKeys = s.lineKeys := rfl
@[simp] theorem State.modQueue_syms : (s.modQueue q f).syms = s.syms := rfl
@[simp] theorem State.modQueue_pins : (s.modQueue q f).pins = s.pins := rfl
@[simp] theorem State.modQueue_keys : (s.modQueue q f).keys = s.keys := rfl
@[simp] theorem State.modQueue_nextGen : (s.modQueue q f).nextGen = s.nextGen := rfl
@[simp] theorem State.modQueue_keyStop : (s.modQueue q f).keyStop = s.keyStop := rfl
@[simp] theorem State.modQueue_rowFixed : (s.modQueue q f).rowFixed = s.rowFixed := rfl
@[simp] theorem State.modQueue_spareRows : (s.modQueue q f).spareRows = s.spareRows := rfl
@[simp] theorem State.modQueue_l2 : (s.modQueue q f).l2 = s.l2 := rfl
@[simp] theorem State.modQueue_own : (s.modQueue q f).own = s.own := rfl
@[simp] theorem State.modQueue_ownNo : (s.modQueue q f).ownNo = s.ownNo := rfl
@[simp] theorem State.modQueue_homeQ : (s.modQueue q f).homeQ = s.homeQ := rfl
@[simp] theorem State.modQueue_stackTags : (s.modQueue q f).stackTags = s.stackTags := rfl
@[simp] theorem State.modQueue_portSeen : (s.modQueue q f).portSeen = s.portSeen := rfl
@[simp] theorem State.modQueue_stackQ : (s.modQueue q f).stackQ = s.stackQ := rfl
@[simp] theorem State.modQueue_portAcks : (s.modQueue q f).portAcks = s.portAcks := rfl
@[simp] theorem State.modQueue_fenced : (s.modQueue q f).fenced = s.fenced := rfl
@[simp] theorem State.modQueue_l1 : (s.modQueue q f).l1 = s.l1 := rfl
@[simp] theorem State.modQueue_partials : (s.modQueue q f).partials = s.partials := rfl
@[simp] theorem State.modQueue_commKinds : (s.modQueue q f).commKinds = s.commKinds := rfl
@[simp] theorem State.modQueue_merges : (s.modQueue q f).merges = s.merges := rfl
@[simp] theorem State.modQueue_icache : (s.modQueue q f).icache = s.icache := rfl
@[simp] theorem State.modQueue_tlbs : (s.modQueue q f).tlbs = s.tlbs := rfl
@[simp] theorem State.modQueue_ctxs : (s.modQueue q f).ctxs = s.ctxs := rfl
@[simp] theorem State.modQueue_txns : (s.modQueue q f).txns = s.txns := rfl
@[simp] theorem State.modQueue_flight : (s.modQueue q f).flight = s.flight := rfl
@[simp] theorem State.modQueue_controls : (s.modQueue q f).controls = s.controls := rfl
@[simp] theorem State.modQueue_outbox : (s.modQueue q f).outbox = s.outbox := rfl
@[simp] theorem State.modQueue_links : (s.modQueue q f).links = s.links := rfl
@[simp] theorem State.modQueue_routes : (s.modQueue q f).routes = s.routes := rfl
@[simp] theorem State.modQueue_ports : (s.modQueue q f).ports = s.ports := rfl
@[simp] theorem State.modQueue_hops : (s.modQueue q f).hops = s.hops := rfl
@[simp] theorem State.modQueue_unresolved : (s.modQueue q f).unresolved = s.unresolved := rfl
@[simp] theorem State.modQueue_src0 : (s.modQueue q f).src0 = s.src0 := rfl
@[simp] theorem State.modQueue_portRecs : (s.modQueue q f).portRecs = s.portRecs := rfl
@[simp] theorem State.modQueue_paths : (s.modQueue q f).paths = s.paths := rfl
@[simp] theorem State.modQueue_path0 : (s.modQueue q f).path0 = s.path0 := rfl
@[simp] theorem State.modQueue_peersSt : (s.modQueue q f).peersSt = s.peersSt := rfl
@[simp] theorem State.modQueue_handles : (s.modQueue q f).handles = s.handles := rfl
@[simp] theorem State.modQueue_nextHandle : (s.modQueue q f).nextHandle = s.nextHandle := rfl
@[simp] theorem State.modQueue_wake : (s.modQueue q f).wake = s.wake := rfl
@[simp] theorem State.modQueue_gated : (s.modQueue q f).gated = s.gated := rfl
@[simp] theorem State.modQueue_fePowered : (s.modQueue q f).fePowered = s.fePowered := rfl
@[simp] theorem State.modQueue_twin : (s.modQueue q f).twin = s.twin := rfl
@[simp] theorem State.modQueue_traps : (s.modQueue q f).traps = s.traps := rfl
@[simp] theorem State.modQueue_stretches : (s.modQueue q f).stretches = s.stretches := rfl
@[simp] theorem State.modQueue_seqs : (s.modQueue q f).seqs = s.seqs := rfl
@[simp] theorem State.modQueue_symFixed : (s.modQueue q f).symFixed = s.symFixed := rfl
@[simp] theorem State.modQueue_uncorr : (s.modQueue q f).uncorr = s.uncorr := rfl
@[simp] theorem State.modQueue_lastPass : (s.modQueue q f).lastPass = s.lastPass := rfl
@[simp] theorem State.modQueue_gtime : (s.modQueue q f).gtime = s.gtime := rfl
@[simp] theorem State.modQueue_ck : (s.modQueue q f).ck = s.ck := rfl
@[simp] theorem State.modQueue_sent : (s.modQueue q f).sent = s.sent := rfl
@[simp] theorem State.modQueue_glitch : (s.modQueue q f).glitch = s.glitch := rfl
@[simp] theorem State.modQueue_redFaults : (s.modQueue q f).redFaults = s.redFaults := rfl
@[simp] theorem State.modQueue_freeNo : (s.modQueue q f).freeNo = s.freeNo := rfl
@[simp] theorem State.modQueue_cmdNo : (s.modQueue q f).cmdNo = s.cmdNo := rfl
@[simp] theorem State.modQueue_placeNo : (s.modQueue q f).placeNo = s.placeNo := rfl
@[simp] theorem State.modQueue_fillNo : (s.modQueue q f).fillNo = s.fillNo := rfl
@[simp] theorem State.modQueue_turns : (s.modQueue q f).turns = s.turns := rfl
end

section
variable (s : State) (q i : Nat) (f : Cmd → Cmd)
@[simp] theorem State.modCmd_g : (s.modCmd q i f).g = s.g := rfl
@[simp] theorem State.modCmd_tm : (s.modCmd q i f).tm = s.tm := rfl
@[simp] theorem State.modCmd_focus : (s.modCmd q i f).focus = s.focus := rfl
@[simp] theorem State.modCmd_teams : (s.modCmd q i f).teams = s.teams := rfl
@[simp] theorem State.modCmd_kilns : (s.modCmd q i f).kilns = s.kilns := rfl
@[simp] theorem State.modCmd_kilnCk : (s.modCmd q i f).kilnCk = s.kilnCk := rfl
@[simp] theorem State.modCmd_cores : (s.modCmd q i f).cores = s.cores := rfl
@[simp] theorem State.modCmd_clusters : (s.modCmd q i f).clusters = s.clusters := rfl
@[simp] theorem State.modCmd_disps : (s.modCmd q i f).disps = s.disps := rfl
@[simp] theorem State.modCmd_grids : (s.modCmd q i f).grids = s.grids := rfl
@[simp] theorem State.modCmd_nextGrid : (s.modCmd q i f).nextGrid = s.nextGrid := rfl
@[simp] theorem State.modCmd_savedRecs : (s.modCmd q i f).savedRecs = s.savedRecs := rfl
@[simp] theorem State.modCmd_lastServed : (s.modCmd q i f).lastServed = s.lastServed := rfl
@[simp] theorem State.modCmd_parts : (s.modCmd q i f).parts = s.parts := rfl
@[simp] theorem State.modCmd_mem : (s.modCmd q i f).mem = s.mem := rfl
@[simp] theorem State.modCmd_nibs : (s.modCmd q i f).nibs = s.nibs := rfl
@[simp] theorem State.modCmd_lineKeys : (s.modCmd q i f).lineKeys = s.lineKeys := rfl
@[simp] theorem State.modCmd_syms : (s.modCmd q i f).syms = s.syms := rfl
@[simp] theorem State.modCmd_pins : (s.modCmd q i f).pins = s.pins := rfl
@[simp] theorem State.modCmd_keys : (s.modCmd q i f).keys = s.keys := rfl
@[simp] theorem State.modCmd_nextGen : (s.modCmd q i f).nextGen = s.nextGen := rfl
@[simp] theorem State.modCmd_keyStop : (s.modCmd q i f).keyStop = s.keyStop := rfl
@[simp] theorem State.modCmd_rowFixed : (s.modCmd q i f).rowFixed = s.rowFixed := rfl
@[simp] theorem State.modCmd_spareRows : (s.modCmd q i f).spareRows = s.spareRows := rfl
@[simp] theorem State.modCmd_l2 : (s.modCmd q i f).l2 = s.l2 := rfl
@[simp] theorem State.modCmd_own : (s.modCmd q i f).own = s.own := rfl
@[simp] theorem State.modCmd_ownNo : (s.modCmd q i f).ownNo = s.ownNo := rfl
@[simp] theorem State.modCmd_homeQ : (s.modCmd q i f).homeQ = s.homeQ := rfl
@[simp] theorem State.modCmd_stackTags : (s.modCmd q i f).stackTags = s.stackTags := rfl
@[simp] theorem State.modCmd_portSeen : (s.modCmd q i f).portSeen = s.portSeen := rfl
@[simp] theorem State.modCmd_stackQ : (s.modCmd q i f).stackQ = s.stackQ := rfl
@[simp] theorem State.modCmd_portAcks : (s.modCmd q i f).portAcks = s.portAcks := rfl
@[simp] theorem State.modCmd_fenced : (s.modCmd q i f).fenced = s.fenced := rfl
@[simp] theorem State.modCmd_l1 : (s.modCmd q i f).l1 = s.l1 := rfl
@[simp] theorem State.modCmd_partials : (s.modCmd q i f).partials = s.partials := rfl
@[simp] theorem State.modCmd_commKinds : (s.modCmd q i f).commKinds = s.commKinds := rfl
@[simp] theorem State.modCmd_merges : (s.modCmd q i f).merges = s.merges := rfl
@[simp] theorem State.modCmd_icache : (s.modCmd q i f).icache = s.icache := rfl
@[simp] theorem State.modCmd_tlbs : (s.modCmd q i f).tlbs = s.tlbs := rfl
@[simp] theorem State.modCmd_ctxs : (s.modCmd q i f).ctxs = s.ctxs := rfl
@[simp] theorem State.modCmd_txns : (s.modCmd q i f).txns = s.txns := rfl
@[simp] theorem State.modCmd_flight : (s.modCmd q i f).flight = s.flight := rfl
@[simp] theorem State.modCmd_controls : (s.modCmd q i f).controls = s.controls := rfl
@[simp] theorem State.modCmd_outbox : (s.modCmd q i f).outbox = s.outbox := rfl
@[simp] theorem State.modCmd_links : (s.modCmd q i f).links = s.links := rfl
@[simp] theorem State.modCmd_routes : (s.modCmd q i f).routes = s.routes := rfl
@[simp] theorem State.modCmd_ports : (s.modCmd q i f).ports = s.ports := rfl
@[simp] theorem State.modCmd_hops : (s.modCmd q i f).hops = s.hops := rfl
@[simp] theorem State.modCmd_unresolved : (s.modCmd q i f).unresolved = s.unresolved := rfl
@[simp] theorem State.modCmd_src0 : (s.modCmd q i f).src0 = s.src0 := rfl
@[simp] theorem State.modCmd_portRecs : (s.modCmd q i f).portRecs = s.portRecs := rfl
@[simp] theorem State.modCmd_paths : (s.modCmd q i f).paths = s.paths := rfl
@[simp] theorem State.modCmd_path0 : (s.modCmd q i f).path0 = s.path0 := rfl
@[simp] theorem State.modCmd_peersSt : (s.modCmd q i f).peersSt = s.peersSt := rfl
@[simp] theorem State.modCmd_handles : (s.modCmd q i f).handles = s.handles := rfl
@[simp] theorem State.modCmd_nextHandle : (s.modCmd q i f).nextHandle = s.nextHandle := rfl
@[simp] theorem State.modCmd_wake : (s.modCmd q i f).wake = s.wake := rfl
@[simp] theorem State.modCmd_gated : (s.modCmd q i f).gated = s.gated := rfl
@[simp] theorem State.modCmd_fePowered : (s.modCmd q i f).fePowered = s.fePowered := rfl
@[simp] theorem State.modCmd_twin : (s.modCmd q i f).twin = s.twin := rfl
@[simp] theorem State.modCmd_traps : (s.modCmd q i f).traps = s.traps := rfl
@[simp] theorem State.modCmd_stretches : (s.modCmd q i f).stretches = s.stretches := rfl
@[simp] theorem State.modCmd_seqs : (s.modCmd q i f).seqs = s.seqs := rfl
@[simp] theorem State.modCmd_symFixed : (s.modCmd q i f).symFixed = s.symFixed := rfl
@[simp] theorem State.modCmd_uncorr : (s.modCmd q i f).uncorr = s.uncorr := rfl
@[simp] theorem State.modCmd_lastPass : (s.modCmd q i f).lastPass = s.lastPass := rfl
@[simp] theorem State.modCmd_gtime : (s.modCmd q i f).gtime = s.gtime := rfl
@[simp] theorem State.modCmd_ck : (s.modCmd q i f).ck = s.ck := rfl
@[simp] theorem State.modCmd_sent : (s.modCmd q i f).sent = s.sent := rfl
@[simp] theorem State.modCmd_glitch : (s.modCmd q i f).glitch = s.glitch := rfl
@[simp] theorem State.modCmd_redFaults : (s.modCmd q i f).redFaults = s.redFaults := rfl
@[simp] theorem State.modCmd_freeNo : (s.modCmd q i f).freeNo = s.freeNo := rfl
@[simp] theorem State.modCmd_cmdNo : (s.modCmd q i f).cmdNo = s.cmdNo := rfl
@[simp] theorem State.modCmd_placeNo : (s.modCmd q i f).placeNo = s.placeNo := rfl
@[simp] theorem State.modCmd_fillNo : (s.modCmd q i f).fillNo = s.fillNo := rfl
@[simp] theorem State.modCmd_turns : (s.modCmd q i f).turns = s.turns := rfl
end

section
variable (s : State) (t : Trap) (ret : Addr) (cw : BitVec 32)
@[simp] theorem State.enterTrap_tm : (s.enterTrap t ret cw).tm = s.tm := rfl
@[simp] theorem State.enterTrap_focus : (s.enterTrap t ret cw).focus = s.focus := rfl
@[simp] theorem State.enterTrap_teams : (s.enterTrap t ret cw).teams = s.teams := rfl
@[simp] theorem State.enterTrap_kilns : (s.enterTrap t ret cw).kilns = s.kilns := rfl
@[simp] theorem State.enterTrap_kilnCk : (s.enterTrap t ret cw).kilnCk = s.kilnCk := rfl
@[simp] theorem State.enterTrap_cores : (s.enterTrap t ret cw).cores = s.cores := rfl
@[simp] theorem State.enterTrap_clusters : (s.enterTrap t ret cw).clusters = s.clusters := rfl
@[simp] theorem State.enterTrap_disps : (s.enterTrap t ret cw).disps = s.disps := rfl
@[simp] theorem State.enterTrap_grids : (s.enterTrap t ret cw).grids = s.grids := rfl
@[simp] theorem State.enterTrap_nextGrid : (s.enterTrap t ret cw).nextGrid = s.nextGrid := rfl
@[simp] theorem State.enterTrap_savedRecs : (s.enterTrap t ret cw).savedRecs = s.savedRecs := rfl
@[simp] theorem State.enterTrap_queues : (s.enterTrap t ret cw).queues = s.queues := rfl
@[simp] theorem State.enterTrap_lastServed : (s.enterTrap t ret cw).lastServed = s.lastServed := rfl
@[simp] theorem State.enterTrap_parts : (s.enterTrap t ret cw).parts = s.parts := rfl
@[simp] theorem State.enterTrap_mem : (s.enterTrap t ret cw).mem = s.mem := rfl
@[simp] theorem State.enterTrap_nibs : (s.enterTrap t ret cw).nibs = s.nibs := rfl
@[simp] theorem State.enterTrap_lineKeys : (s.enterTrap t ret cw).lineKeys = s.lineKeys := rfl
@[simp] theorem State.enterTrap_syms : (s.enterTrap t ret cw).syms = s.syms := rfl
@[simp] theorem State.enterTrap_pins : (s.enterTrap t ret cw).pins = s.pins := rfl
@[simp] theorem State.enterTrap_keys : (s.enterTrap t ret cw).keys = s.keys := rfl
@[simp] theorem State.enterTrap_nextGen : (s.enterTrap t ret cw).nextGen = s.nextGen := rfl
@[simp] theorem State.enterTrap_keyStop : (s.enterTrap t ret cw).keyStop = s.keyStop := rfl
@[simp] theorem State.enterTrap_rowFixed : (s.enterTrap t ret cw).rowFixed = s.rowFixed := rfl
@[simp] theorem State.enterTrap_spareRows : (s.enterTrap t ret cw).spareRows = s.spareRows := rfl
@[simp] theorem State.enterTrap_l2 : (s.enterTrap t ret cw).l2 = s.l2 := rfl
@[simp] theorem State.enterTrap_own : (s.enterTrap t ret cw).own = s.own := rfl
@[simp] theorem State.enterTrap_ownNo : (s.enterTrap t ret cw).ownNo = s.ownNo := rfl
@[simp] theorem State.enterTrap_homeQ : (s.enterTrap t ret cw).homeQ = s.homeQ := rfl
@[simp] theorem State.enterTrap_stackTags : (s.enterTrap t ret cw).stackTags = s.stackTags := rfl
@[simp] theorem State.enterTrap_portSeen : (s.enterTrap t ret cw).portSeen = s.portSeen := rfl
@[simp] theorem State.enterTrap_stackQ : (s.enterTrap t ret cw).stackQ = s.stackQ := rfl
@[simp] theorem State.enterTrap_portAcks : (s.enterTrap t ret cw).portAcks = s.portAcks := rfl
@[simp] theorem State.enterTrap_fenced : (s.enterTrap t ret cw).fenced = s.fenced := rfl
@[simp] theorem State.enterTrap_l1 : (s.enterTrap t ret cw).l1 = s.l1 := rfl
@[simp] theorem State.enterTrap_partials : (s.enterTrap t ret cw).partials = s.partials := rfl
@[simp] theorem State.enterTrap_commKinds : (s.enterTrap t ret cw).commKinds = s.commKinds := rfl
@[simp] theorem State.enterTrap_merges : (s.enterTrap t ret cw).merges = s.merges := rfl
@[simp] theorem State.enterTrap_icache : (s.enterTrap t ret cw).icache = s.icache := rfl
@[simp] theorem State.enterTrap_tlbs : (s.enterTrap t ret cw).tlbs = s.tlbs := rfl
@[simp] theorem State.enterTrap_ctxs : (s.enterTrap t ret cw).ctxs = s.ctxs := rfl
@[simp] theorem State.enterTrap_txns : (s.enterTrap t ret cw).txns = s.txns := rfl
@[simp] theorem State.enterTrap_flight : (s.enterTrap t ret cw).flight = s.flight := rfl
@[simp] theorem State.enterTrap_controls : (s.enterTrap t ret cw).controls = s.controls := rfl
@[simp] theorem State.enterTrap_outbox : (s.enterTrap t ret cw).outbox = s.outbox := rfl
@[simp] theorem State.enterTrap_links : (s.enterTrap t ret cw).links = s.links := rfl
@[simp] theorem State.enterTrap_routes : (s.enterTrap t ret cw).routes = s.routes := rfl
@[simp] theorem State.enterTrap_ports : (s.enterTrap t ret cw).ports = s.ports := rfl
@[simp] theorem State.enterTrap_hops : (s.enterTrap t ret cw).hops = s.hops := rfl
@[simp] theorem State.enterTrap_unresolved : (s.enterTrap t ret cw).unresolved = s.unresolved := rfl
@[simp] theorem State.enterTrap_src0 : (s.enterTrap t ret cw).src0 = s.src0 := rfl
@[simp] theorem State.enterTrap_portRecs : (s.enterTrap t ret cw).portRecs = s.portRecs := rfl
@[simp] theorem State.enterTrap_paths : (s.enterTrap t ret cw).paths = s.paths := rfl
@[simp] theorem State.enterTrap_path0 : (s.enterTrap t ret cw).path0 = s.path0 := rfl
@[simp] theorem State.enterTrap_peersSt : (s.enterTrap t ret cw).peersSt = s.peersSt := rfl
@[simp] theorem State.enterTrap_handles : (s.enterTrap t ret cw).handles = s.handles := rfl
@[simp] theorem State.enterTrap_nextHandle : (s.enterTrap t ret cw).nextHandle = s.nextHandle := rfl
@[simp] theorem State.enterTrap_wake : (s.enterTrap t ret cw).wake = s.wake := rfl
@[simp] theorem State.enterTrap_gated : (s.enterTrap t ret cw).gated = s.gated := rfl
@[simp] theorem State.enterTrap_fePowered : (s.enterTrap t ret cw).fePowered = s.fePowered := rfl
@[simp] theorem State.enterTrap_twin : (s.enterTrap t ret cw).twin = s.twin := rfl
@[simp] theorem State.enterTrap_traps : (s.enterTrap t ret cw).traps = s.traps := rfl
@[simp] theorem State.enterTrap_stretches : (s.enterTrap t ret cw).stretches = s.stretches := rfl
@[simp] theorem State.enterTrap_seqs : (s.enterTrap t ret cw).seqs = s.seqs := rfl
@[simp] theorem State.enterTrap_symFixed : (s.enterTrap t ret cw).symFixed = s.symFixed := rfl
@[simp] theorem State.enterTrap_uncorr : (s.enterTrap t ret cw).uncorr = s.uncorr := rfl
@[simp] theorem State.enterTrap_lastPass : (s.enterTrap t ret cw).lastPass = s.lastPass := rfl
@[simp] theorem State.enterTrap_gtime : (s.enterTrap t ret cw).gtime = s.gtime := rfl
@[simp] theorem State.enterTrap_ck : (s.enterTrap t ret cw).ck = s.ck := rfl
@[simp] theorem State.enterTrap_sent : (s.enterTrap t ret cw).sent = s.sent := rfl
@[simp] theorem State.enterTrap_glitch : (s.enterTrap t ret cw).glitch = s.glitch := rfl
@[simp] theorem State.enterTrap_redFaults : (s.enterTrap t ret cw).redFaults = s.redFaults := rfl
@[simp] theorem State.enterTrap_freeNo : (s.enterTrap t ret cw).freeNo = s.freeNo := rfl
@[simp] theorem State.enterTrap_cmdNo : (s.enterTrap t ret cw).cmdNo = s.cmdNo := rfl
@[simp] theorem State.enterTrap_placeNo : (s.enterTrap t ret cw).placeNo = s.placeNo := rfl
@[simp] theorem State.enterTrap_fillNo : (s.enterTrap t ret cw).fillNo = s.fillNo := rfl
@[simp] theorem State.enterTrap_turns : (s.enterTrap t ret cw).turns = s.turns := rfl
end

end Sys2Proof.Machine
end

