-- ==== Sys2Proof/Laws/Table.lean ====
section
/-! SUPPORT. Sparse tables: what a key reads as after each update, and that updates keep the canonical form. -/

namespace Sys2Proof.Machine

variable {α : Type}

@[simp] theorem tfind_nil (k : Nat) : tfind ([] : Table α) k = none := rfl

theorem tfind_tins (t : Table α) (k j : Nat) (v : α) : tfind (tins t k v) j = if k = j then some v else tfind t j := by
  induction t with
  | nil => rfl
  | cons p r ih =>
    obtain ⟨a, x⟩ := p
    unfold tins
    split
    · simp only [tfind]
    · split
      · next h =>
        subst h
        simp only [tfind]
        split <;> rfl
      · next h1 h2 =>
        simp only [tfind, ih]
        split
        · next h3 => rw [if_neg (fun h => h2 (h3.trans h.symm))]
        · rfl

@[simp] theorem tfind_tins_same (t : Table α) (k : Nat) (v : α) : tfind (tins t k v) k = some v := by simp [tfind_tins]

theorem tfind_tins_other {k j : Nat} (h : k ≠ j) (t : Table α) (v : α) : tfind (tins t k v) j = tfind t j := by
  simp [tfind_tins, h]

theorem tfind_tdel (t : Table α) (k j : Nat) : tfind (tdel t k) j = if k = j then none else tfind t j := by
  induction t with
  | nil => simp [tdel]
  | cons p r ih =>
    obtain ⟨a, x⟩ := p
    unfold tdel at ih ⊢
    simp only [List.filter_cons, bne_iff_ne, ne_eq, ite_not, tfind]
    split
    · next h =>
      subst h
      rw [ih]
      split <;> rfl
    · next h =>
      simp only [tfind, ih]
      split
      · next h3 => rw [if_neg (fun e => h (h3.trans e.symm))]
      · rfl

theorem tget_tset [DecidableEq α] (t : Table α) (k j : Nat) (v d : α) : tget (tset t k v d) j d = if k = j then v else tget t j d := by
  unfold tget tset
  split
  · next h => rw [tfind_tdel]; split <;> simp [h]
  · rw [tfind_tins]; split <;> rfl

theorem tget_tins (t : Table α) (k j : Nat) (v d : α) : tget (tins t k v) j d = if k = j then v else tget t j d := by
  unfold tget
  rw [tfind_tins]
  split <;> rfl

/-- Rising above a bound is rising above a smaller one. -/
theorem risingFrom_none {lo : Option Nat} {t : Table α} (h : risingFrom lo t = true) : risingFrom none t = true := by
  cases t with
  | nil => rfl
  | cons p r => simp only [risingFrom, Bool.and_eq_true] at h ⊢; exact ⟨trivial, h.2⟩

theorem risingFrom_le {b c : Nat} (hbc : b ≤ c) {t : Table α} (h : risingFrom (some c) t = true) : risingFrom (some b) t = true := by
  cases t with
  | nil => rfl
  | cons p r =>
    simp only [risingFrom, Bool.and_eq_true, decide_eq_true_eq] at h ⊢
    exact ⟨lt_of_le_of_lt hbc h.1, h.2⟩

theorem risingFrom_tins (t : Table α) (k : Nat) (v : α) : ∀ lo : Option Nat, risingFrom lo t = true →
    (∀ b, lo = some b → b < k) → risingFrom lo (tins t k v) = true := by
  induction t with
  | nil => intro lo _ hk; cases lo <;> simp [tins, risingFrom, hk]
  | cons p r ih =>
    obtain ⟨a, x⟩ := p
    intro lo h hk
    simp only [risingFrom, Bool.and_eq_true] at h
    unfold tins
    split
    · next h1 =>
      simp only [risingFrom, Bool.and_eq_true, decide_eq_true_eq]
      refine ⟨?_, h1, h.2⟩
      cases lo with
      | none => rfl
      | some b => simpa using hk b rfl
    · split
      · next h2 =>
        subst h2
        simp only [risingFrom, Bool.and_eq_true]
        exact h
      · next h1 h2 =>
        simp only [risingFrom, Bool.and_eq_true]
        exact ⟨h.1, ih (some a) h.2 (fun b hb => by cases hb; omega)⟩

theorem risingFrom_filter (f : Nat × α → Bool) (t : Table α) : ∀ lo : Option Nat, risingFrom lo t = true →
    risingFrom lo (t.filter f) = true := by
  induction t with
  | nil => intro lo _; rfl
  | cons p r ih =>
    obtain ⟨a, x⟩ := p
    intro lo h
    simp only [risingFrom, Bool.and_eq_true] at h
    rw [List.filter_cons]
    split
    · simp only [risingFrom, Bool.and_eq_true]
      exact ⟨h.1, ih (some a) h.2⟩
    · have h2 := ih (some a) h.2
      cases lo with
      | none => exact risingFrom_none h2
      | some b =>
        simp only [decide_eq_true_eq] at h
        exact risingFrom_le (le_of_lt h.1) h2

theorem mem_tins {t : Table α} {k : Nat} {v : α} {p : Nat × α} (h : p ∈ tins t k v) : p = (k, v) ∨ p ∈ t := by
  induction t with
  | nil => simpa [tins] using h
  | cons q r ih =>
    obtain ⟨a, x⟩ := q
    unfold tins at h
    split at h
    · simpa using h
    · split at h
      · rcases List.mem_cons.1 h with h | h
        · exact .inl h
        · exact .inr (List.mem_cons_of_mem _ h)
      · rcases List.mem_cons.1 h with h | h
        · exact .inr (h ▸ List.mem_cons_self)
        · exact (ih h).imp_right (List.mem_cons_of_mem _)

/-- Writing a key keeps the canonical form. -/
theorem twf_tset [DecidableEq α] {t : Table α} {d : α} (h : twf t d = true) (k : Nat) (v : α) : twf (tset t k v d) d = true := by
  unfold twf at h ⊢
  rw [Bool.and_eq_true, List.all_eq_true] at h ⊢
  unfold tset
  split
  · refine ⟨risingFrom_filter _ t none h.1, fun p hp => h.2 p ?_⟩
    exact (List.mem_filter.1 hp).1
  · next hv =>
    refine ⟨risingFrom_tins t k v none h.1 (by simp), fun p hp => ?_⟩
    rcases mem_tins hp with rfl | hp
    · simpa using hv
    · exact h.2 p hp

end Sys2Proof.Machine
end

