-- ==== Sys2Proof/Laws/Memory.lean ====
section
/-! SUPPORT. Memory: a byte reads as last written, every operation keeps the canonical form, and what each leaves alone. -/

namespace Sys2Proof.Machine

/-! ### One byte and one word -/

theorem byte_setByte (s : State) (a b : Nat) (x : Byte) : (s.setByte a x).byte b = if a = b then x else s.byte b := by
  simp only [State.byte, State.setByte_mem]
  exact tget_tset s.mem a b x 0

@[simp] theorem byte_setByte_same (s : State) (a : Nat) (x : Byte) : (s.setByte a x).byte a = x := by simp [byte_setByte]

theorem byte_setByte_other {a b : Nat} (h : a ≠ b) (s : State) (x : Byte) : (s.setByte a x).byte b = s.byte b := by
  simp [byte_setByte, h]

theorem memWf_setByte {s : State} (h : memWf s.mem = true) (a : Nat) (x : Byte) : memWf (s.setByte a x).mem = true :=
  twf_tset h a x

theorem setRaw_mem (s : State) (line i : Nat) (w : Word) :
    (s.setRaw line i w).mem = ((((s.setByte (line * 128 + 4 * i) ((bytesOfWord w.data).getD 0 0)).setByte (line * 128 + 4 * i + 1)
      ((bytesOfWord w.data).getD 1 0)).setByte (line * 128 + 4 * i + 2) ((bytesOfWord w.data).getD 2 0)).setByte
      (line * 128 + 4 * i + 3) ((bytesOfWord w.data).getD 3 0)).mem := by
  simp only [State.setRaw]

theorem memWf_setRaw {s : State} (h : memWf s.mem = true) (line i : Nat) (w : Word) : memWf (s.setRaw line i w).mem = true := by
  rw [setRaw_mem]
  exact memWf_setByte (memWf_setByte (memWf_setByte (memWf_setByte h _ _) _ _) _ _) _ _

/-- A byte outside the word written reads as before. -/
theorem byte_setRaw_other (s : State) (line i a : Nat) (w : Word) (h : a < line * 128 + 4 * i ∨ line * 128 + 4 * i + 4 ≤ a) :
    (s.setRaw line i w).byte a = s.byte a := by
  have e : (s.setRaw line i w).byte a = ((((s.setByte (line * 128 + 4 * i) ((bytesOfWord w.data).getD 0 0)).setByte
      (line * 128 + 4 * i + 1) ((bytesOfWord w.data).getD 1 0)).setByte (line * 128 + 4 * i + 2) ((bytesOfWord w.data).getD 2 0)).setByte
      (line * 128 + 4 * i + 3) ((bytesOfWord w.data).getD 3 0)).byte a := by
    simp only [State.byte, setRaw_mem]
  rw [e, byte_setByte_other (by omega), byte_setByte_other (by omega), byte_setByte_other (by omega), byte_setByte_other (by omega)]

/-! ### A line -/

/-- A fold of updates that each keep a property keeps it. -/
theorem foldl_keeps {α β : Type} (P : β → Prop) (f : β → α → β) (hf : ∀ b a, P b → P (f b a)) (l : List α) (b : β) (h : P b) :
    P (l.foldl f b) := by
  induction l generalizing b with
  | nil => exact h
  | cons x r ih => exact ih (f b x) (hf b x h)

theorem memWf_storeLine {s : State} (h : memWf s.mem = true) (key line : Nat) (ws : List Word) :
    memWf (s.storeLine key line ws).mem = true :=
  foldl_keeps (fun t : State => memWf t.mem = true) (fun s i => s.setRaw line i (ingress (ws.getD i Word.zero)))
    (fun _ i ht => memWf_setRaw ht line i _) (List.range 32) s h

theorem memWf_baseWrite {s : State} (h : memWf s.mem = true) (key line : Nat) (mask : BitVec 32) (ws : List Word) :
    memWf (s.baseWrite key line mask ws).st.mem = true := by
  unfold State.baseWrite
  split
  · exact h
  · split
    · exact h
    · split
      · exact memWf_storeLine h _ _ _
      · exact memWf_storeLine h _ _ _

@[simp] theorem bookDecode_mem (s : State) (line status nsym : Nat) : (s.bookDecode line status nsym).mem = s.mem := by
  unfold State.bookDecode
  split
  · rfl
  · split <;> rfl

theorem memWf_stackServe {s : State} (h : memWf s.mem = true) (x : StackReq) : memWf (s.stackServe x).1.mem = true := by
  unfold State.stackServe
  simp only []
  split
  · split <;> exact h
  · split
    · simpa using h
    · simpa using memWf_baseWrite h _ _ _ _

theorem memWf_portArrival {s : State} (h : memWf s.mem = true) (x : StackReq) : memWf (s.portArrival x).mem = true := by
  unfold State.portArrival
  simp only []
  split
  · exact h
  · exact memWf_stackServe h x

theorem memWf_arrive {s : State} (h : memWf s.mem = true) (i : Instr) :
    memWf (match portReq i with | some x => s.portArrival x | none => s).mem = true := by
  split
  · exact memWf_portArrival h _
  · exact h

theorem memWf_arriveSome {s : State} (h : memWf s.mem = true) (p : Instr → Bool) : memWf (s.arriveSome p).mem = true :=
  foldl_keeps (fun t : State => memWf t.mem = true) (fun s i => match portReq i with | some x => s.portArrival x | none => s)
    (fun _ i ht => memWf_arrive ht i) (s.stackQ.filter p) { s with stackQ := s.stackQ.filter (fun i => !p i) } h

theorem memWf_settle {s : State} (h : memWf s.mem = true) (line : Nat) : memWf (s.settle line).mem = true := memWf_arriveSome h _

@[simp] theorem freeTagOf_mem (s : State) (x : StackReply) : (s.freeTagOf x).mem = s.mem :=
  foldl_keeps (fun t : State => t.mem = s.mem) _ (fun t e ht => by rw [State.send_mem]; exact ht) _ _ rfl

theorem memWf_freeTagOf {s : State} (h : memWf s.mem = true) (x : StackReply) : memWf (s.freeTagOf x).mem = true := by
  rw [freeTagOf_mem]; exact h

theorem memWf_awaitTag {s : State} (h : memWf s.mem = true) (chan : Nat) : memWf (s.awaitTag chan).mem = true := by
  have h1 : ∀ (q : List Instr) (s1 : State), memWf s1.mem = true → memWf ({ s1 with stackQ := q } : State).mem = true := fun _ _ h => h
  unfold State.awaitTag
  split
  · exact h
  · simp only []
    split
    · exact memWf_arriveSome h _
    · split
      · exact memWf_freeTagOf (h1 _ _ (memWf_arriveSome h _)) _
      · exact memWf_arriveSome h _

theorem memWf_portNow {s : State} (h : memWf s.mem = true) (tag op : Nat) (mask : BitVec 32) (block : List Word) :
    memWf (s.portNow tag op mask block).1.mem = true := memWf_stackServe (memWf_awaitTag (memWf_settle h _) _) _

/-- A read of a line is a request `RD` and the words of its reply. -/
theorem portRead_eq (s : State) (tag : Nat) : ∃ r, r = s.portNow tag 1 0 [] ∧ s.portRead tag = (r.1, replyWords r.2) :=
  ⟨_, rfl, by unfold State.portRead; rfl⟩

theorem memWf_portRead {s : State} (h : memWf s.mem = true) (tag : Nat) : memWf (s.portRead tag).1.mem = true := by
  obtain ⟨r, hr, e⟩ := portRead_eq s tag
  have h1 := memWf_portNow h tag 1 0 []
  rw [← hr] at h1
  rw [e]
  exact h1

theorem memWf_portWrite {s : State} (h : memWf s.mem = true) (tag : Nat) (mask : BitVec 32) (ws : List Word) :
    memWf (s.portWrite tag mask ws).mem = true := by
  unfold State.portWrite
  split
  · exact h
  · exact memWf_portNow h _ _ _ _

/-! ### The home slice -/

theorem memWf_l2Drop {s : State} (h : memWf s.mem = true) (tag : Nat) : memWf (s.l2Drop tag).mem = true := by
  have h1 : ∀ l2 : Table L2Line, memWf ({ s with l2 := l2 } : State).mem = true := fun _ => h
  unfold State.l2Drop
  split
  · exact h
  · simp only []
    split
    · exact memWf_portWrite (h1 _) _ _ _
    · exact h1 _

theorem memWf_l2Room {s : State} (h : memWf s.mem = true) (tag : Nat) : memWf (s.l2Room tag).mem = true := by
  unfold State.l2Room
  simp only []
  split
  · exact h
  · split
    · refine memWf_l2Drop ?_ _
      exact h
    · exact h

theorem memWf_l2Put {s : State} (h : memWf s.mem = true) (tag : Nat) (ws : List Word) (dirty : Bool) :
    memWf (s.l2Put tag ws dirty).mem = true := memWf_l2Room h tag

theorem memWf_takeReply {s : State} (h : memWf s.mem = true) (x : StackReply) : memWf (s.takeReply x).mem = true := by
  unfold State.takeReply
  simp only []
  split
  · exact memWf_freeTagOf h x
  · split
    · exact memWf_l2Put (memWf_freeTagOf h x) _ _ _
    · exact memWf_freeTagOf h x

theorem memWf_finishFill {s : State} (h : memWf s.mem = true) (tag : Nat) : memWf (s.finishFill tag).mem = true := by
  unfold State.finishFill
  simp only []
  split
  · refine memWf_takeReply ?_ _
    exact memWf_settle h _
  · exact memWf_settle h _

theorem memWf_fetchLine {s : State} (h : memWf s.mem = true) (tag : Nat) : memWf (s.fetchLine tag).mem = true := by
  unfold State.fetchLine
  simp only []
  split
  · exact memWf_finishFill h _
  · exact memWf_l2Put (memWf_portRead (memWf_finishFill h _) _) _ _ _

theorem memWf_homePut {s : State} (h : memWf s.mem = true) (tag : Nat) (mask : BitVec 32) (ws : List Word) :
    memWf (s.homePut tag mask ws).mem = true := by
  unfold State.homePut
  split
  · exact h
  · simp only []
    split
    · exact memWf_finishFill h _
    · exact memWf_portWrite (memWf_finishFill h _) _ _ _

@[simp] theorem modGroup_mem (s : State) (r : GroupRef) (f : Group → Group) : (s.modGroup r f).mem = s.mem := by
  unfold State.modGroup
  split
  · split <;> rfl
  · split
    · rfl
    · split <;> rfl

@[simp] theorem performed_mem (s : State) (rs : List GroupRef) : (performed s rs).mem = s.mem :=
  foldl_keeps (fun t : State => t.mem = s.mem) _ (fun t r ht => by rw [modGroup_mem]; exact ht) rs s rfl

theorem memWf_performed {s : State} (h : memWf s.mem = true) (rs : List GroupRef) : memWf (performed s rs).mem = true := by
  rw [performed_mem]; exact h

@[simp] theorem performNow_mem (s : State) (tag core : Nat) : (s.performNow tag core).mem = s.mem := by
  unfold State.performNow
  refine foldl_keeps (fun t : State => t.mem = s.mem) _ (fun t i ht => ?_) _ _ rfl
  split
  · split
    · simpa [State.strike] using ht
    · exact ht
  · exact ht

theorem memWf_takeBack {s : State} (h : memWf s.mem = true) (tag idx core : Nat) : memWf (s.takeBack tag idx core).mem = true := by
  have h0 : memWf (match tfind s.l1 (l1Key core tag idx) with
    | some ⟨.pending _ _ _, _⟩ => s.performNow tag core | _ => s).mem = true := by
    split
    · rw [performNow_mem]; exact h
    · exact h
  unfold State.takeBack
  simp only []
  split
  · split
    · refine memWf_homePut ?_ _ _ _
      exact h0
    · exact h0
  · exact h0

@[simp] theorem voidTxn_mem (s : State) (t : Txn) : (s.voidTxn t).mem = s.mem := rfl
@[simp] theorem dropTxn_mem (s : State) (t : Txn) : (s.dropTxn t).mem = s.mem := rfl
@[simp] theorem modOwn_mem (s : State) (tag : Nat) (f : OwnLine → OwnLine) : (s.modOwn tag f).mem = s.mem := rfl

@[simp] theorem partTxn_mem (s : State) (t : Txn) (got : BitVec 32) : (s.partTxn t got).mem = s.mem := by
  unfold State.partTxn
  simp only []
  split <;> rfl

@[simp] theorem released_mem (s : State) (tag : Nat) (m : BitVec 32) : (s.released tag m).mem = s.mem :=
  foldl_keeps (fun t : State => t.mem = s.mem) _ (fun t x ht => by rw [partTxn_mem]; exact ht) _ _ rfl

theorem memWf_landBacks {s : State} (h : memWf s.mem = true) (tag : Nat) : memWf (s.landBacks tag).mem = true := by
  refine foldl_keeps (fun t : State => memWf t.mem = true) _ (fun t x ht => ?_) _ _ h
  simp only [State.landBack]
  split
  · exact ht
  · rw [released_mem]
    exact memWf_homePut (by rw [voidTxn_mem]; exact ht) _ _ _

theorem memWf_revokeNow {s : State} (h : memWf s.mem = true) (tag : Nat) (mask : BitVec 32) :
    memWf (s.revokeNow tag mask).mem = true := by
  unfold State.revokeNow
  simp only []
  split
  · exact memWf_landBacks h tag
  · next o _ =>
    rw [released_mem]
    exact foldl_keeps (fun t : State => memWf t.mem = true) (fun s (p : Nat × Nat) => s.takeBack tag p.1 p.2)
      (fun t p ht => memWf_takeBack ht tag p.1 p.2) (o.owners.filter (fun p => bit mask p.1)) _ (memWf_landBacks h tag)

theorem memWf_addWords {s : State} (h : memWf s.mem = true) (tag kind : Nat) (mine : List (Nat × Word)) :
    memWf (s.addWords tag kind mine).mem = true := by
  unfold State.addWords
  have h1 := memWf_revokeNow (memWf_fetchLine h tag) tag (maskOf (mine.map (·.1)))
  simp only []
  split
  · exact h1
  · exact memWf_homePut h1 _ _ _

theorem memWf_addPartials {s : State} (h : memWf s.mem = true) (tag core kind : Nat) : memWf (s.addPartials tag core kind).mem = true :=
  memWf_addWords (s := s.dropPartials tag core) h tag _ _

@[simp] theorem voidPartials_mem (s : State) (tag : Nat) : (s.voidPartials tag).mem = s.mem :=
  foldl_keeps (fun t : State => t.mem = s.mem) _ (fun t x ht => by rw [voidTxn_mem]; exact ht) _ _ rfl

theorem memWf_combine {s : State} (h : memWf s.mem = true) (tag : Nat) : memWf (s.combine tag).mem = true := by
  unfold State.combine
  simp only []
  split
  · exact h
  · refine foldl_keeps (fun t : State => memWf t.mem = true) _ (fun t c ht => ?_) _ _ (by rw [voidPartials_mem]; exact h)
    exact memWf_addPartials (foldl_keeps (fun t : State => memWf t.mem = true) _ (fun t e ht => memWf_addWords ht _ _ _) _ _ ht) _ _ _

theorem memWf_prepare {s : State} (h : memWf s.mem = true) (tag : Nat) : memWf (s.prepare tag).mem = true :=
  memWf_combine (memWf_fetchLine (memWf_landBacks h tag) tag) tag

theorem memWf_preparePass {s : State} (h : memWf s.mem = true) (tag : Nat) : memWf (s.preparePass tag).mem = true :=
  memWf_combine (memWf_finishFill (memWf_landBacks h tag) tag) tag

theorem memWf_readThrough {s : State} (h : memWf s.mem = true) (tag : Nat) : memWf (s.readThrough tag).mem = true := by
  unfold State.readThrough
  split
  · exact h
  · exact memWf_portRead h tag

theorem memWf_homeRead {s : State} (h : memWf s.mem = true) (tag : Nat) : memWf (s.homeRead tag).1.mem = true :=
  memWf_readThrough (memWf_prepare h tag) tag

/-- A property of both branches' states is one of the state chosen. -/
theorem pick_keeps {α : Type} (P : State → Prop) (c : Bool) (a b : State × α) (ha : P a.1) (hb : P b.1) : P (if c then a else b).1 := by
  cases c
  · exact hb
  · exact ha

/-- So of a state paired with something else. -/
theorem pair_keeps {α β : Type} (P : State → Prop) (x : State × α) (b : β) (h : P x.1) : P (x.1, b).1 := h

theorem memWf_homeReadAs {s : State} (h : memWf s.mem = true) (stream : Bool) (tag : Nat) : memWf (s.homeReadAs stream tag).1.mem = true := by
  unfold State.homeReadAs
  exact pick_keeps (fun t => memWf t.mem = true) _ _ _ (memWf_homeRead h tag)
    (pair_keeps (fun t => memWf t.mem = true) _ _ (memWf_portRead (memWf_preparePass h tag) tag))

theorem memWf_homeWrite {s : State} (h : memWf s.mem = true) (tag : Nat) (mask : BitVec 32) (ws : List Word) :
    memWf (s.homeWrite tag mask ws).mem = true :=
  memWf_homePut (memWf_revokeNow (memWf_prepare h tag) tag mask) tag mask ws

theorem memWf_readPa {s : State} (h : memWf s.mem = true) (key pa : Nat) : memWf (s.readPa key pa).1.mem = true :=
  memWf_readThrough (memWf_prepare h _) _

theorem memWf_readPaAs {s : State} (h : memWf s.mem = true) (stream : Bool) (key pa : Nat) :
    memWf (s.readPaAs stream key pa).1.mem = true := by
  unfold State.readPaAs
  exact pick_keeps (fun t => memWf t.mem = true) _ _ _ (memWf_readPa h key pa)
    (pair_keeps (fun t => memWf t.mem = true) _ _ (memWf_portRead (memWf_preparePass h _) _))

theorem memWf_readWords {s : State} (h : memWf s.mem = true) (key pa n : Nat) : memWf (s.readWords key pa n).1.mem = true := by
  induction n generalizing s pa with
  | zero => exact h
  | succ n ih => exact ih (memWf_readPa h key pa) (pa + 4)

theorem memWf_readWordsAs {s : State} (h : memWf s.mem = true) (stream : Bool) (key pa n : Nat) :
    memWf (s.readWordsAs stream key pa n).1.mem = true := by
  simp only [State.readWordsAs]
  exact foldl_keeps (fun r : State × List Word => memWf r.1.mem = true) (fun r i => ((r.1.homeReadAs stream (tagOf key (lineOf pa + i))).1,
    r.2 ++ (r.1.homeReadAs stream (tagOf key (lineOf pa + i))).2)) (fun r i ht => memWf_homeReadAs ht stream _) _ (s, []) h

theorem memWf_writeWords {s : State} (h : memWf s.mem = true) (key pa : Nat) (ws : List Word) :
    memWf (s.writeWords key pa ws).mem = true := by
  induction ws generalizing s pa with
  | nil => exact h
  | cons w r ih =>
    rw [State.writeWords]
    exact ih (memWf_homeWrite h _ _ _) (pa + 4)

theorem memWf_homeStores {s : State} (h : memWf s.mem = true) (tag idx : Nat) (b : Stores) : memWf (s.homeStores tag idx b).mem = true := by
  unfold State.homeStores
  split
  · exact memWf_homeWrite h _ _ _
  · exact memWf_homePut (memWf_revokeNow (memWf_prepare h tag) tag _) _ _ _

theorem memWf_homePiece {s : State} (h : memWf s.mem = true) (stream nt : Bool) (tag : Nat) (ws : List (Nat × Stores)) :
    memWf (s.homePiece stream nt tag ws).mem = true := by
  have h1 : memWf ((if stream || nt then s.preparePass tag else s.prepare tag).revokeNow tag (pieceMask ws)).mem = true := by
    refine memWf_revokeNow ?_ _ _
    split
    · exact memWf_preparePass h tag
    · exact memWf_prepare h tag
  have h2 : ∀ c : Bool, memWf (if c then ((((if stream || nt then s.preparePass tag else s.prepare tag).revokeNow tag (pieceMask ws))).portRead tag).1
      else (if stream || nt then s.preparePass tag else s.prepare tag).revokeNow tag (pieceMask ws)).mem = true := by
    intro c
    split
    · exact memWf_portRead h1 tag
    · exact h1
  unfold State.homePiece
  simp only []
  split
  · exact memWf_l2Drop (memWf_homePut (h2 _) _ _ _) _
  · exact memWf_homePut (h2 _) _ _ _

theorem memWf_writeRun {s : State} (h : memWf s.mem = true) (stream : Bool) (key pa : Nat) (ws : List (BitVec 4 × Word)) :
    memWf (s.writeRun stream key pa ws).mem = true :=
  foldl_keeps (fun t : State => memWf t.mem = true) _ (fun _ _ ht => memWf_homePiece ht _ _ _ _) _ _ h

/-! ### The core's own accesses -/

theorem memWf_commitWord {s : State} (h : memWf s.mem = true) (core tag idx : Nat) : memWf (s.commitWord core tag idx).mem = true := by
  unfold State.commitWord
  simp only []
  split
  · refine memWf_performed (memWf_homeStores ?_ _ _ _) _
    exact h
  · have h1 := memWf_takeBack h tag idx core
    split <;> exact h1
  · exact h
  · exact h

theorem memWf_commitMerges {s : State} (h : memWf s.mem = true) (core tag : Nat) : memWf (s.commitMerges core tag).mem = true :=
  foldl_keeps (fun t : State => memWf t.mem = true) _ (fun _ _ ht => memWf_performed (memWf_homeStores ht _ _ _) _) _ _ h

theorem dropPartials_mem (s : State) (tag core : Nat) : (s.dropPartials tag core).mem = s.mem := rfl

theorem dropOwned_mem (s : State) (tag : Nat) : (s.dropOwned tag).mem = s.mem := by
  have h0 : (((s.backsOf tag).foldl State.voidTxn s).voidPartials tag).mem = s.mem := by
    rw [voidPartials_mem]
    exact foldl_keeps (fun t : State => t.mem = s.mem) _ (fun t x ht => by rw [voidTxn_mem]; exact ht) _ _ rfl
  unfold State.dropOwned
  simp only [modOwn_mem]
  refine foldl_keeps (fun t : State => t.mem = s.mem) _ (fun t c ht => by rw [dropPartials_mem]; exact ht) _ _ ?_
  refine foldl_keeps (fun t : State => t.mem = s.mem) _ (fun t p ht => ?_) _ _ h0
  split
  · simpa [State.strike, State.staleFills] using ht
  · simpa [State.staleFills] using ht
  · exact ht

theorem memWf_discardNow {s : State} (h : memWf s.mem = true) (tag : Nat) : memWf (s.discardNow tag).mem = true := by
  have h1 : memWf ((s.finishFill tag).dropOwned tag).mem = true := by rw [dropOwned_mem]; exact memWf_finishFill h tag
  unfold State.discardNow
  simp only []
  split
  · exact memWf_l2Put h1 _ _ _
  · exact h1

@[simp] theorem redChecked_mem (s : State) (r : GroupRef) (line : Nat) (ws : List Word) : (s.redChecked r line ws).1.mem = s.mem := by
  unfold State.redChecked
  split
  · rfl
  · simp only [State.record_mem]

theorem memWf_landTxn {s : State} (h : memWf s.mem = true) (t : Txn) : memWf (s.landTxn t).mem = true := by
  have h0 : memWf (s.voidTxn t).mem = true := h
  have h1 := memWf_revokeNow (memWf_prepare h0 (pktTag t.pkt)) (pktTag t.pkt) t.pkt.hdr.aux
  unfold State.landTxn
  simp only []
  split
  · refine memWf_l2Drop ?_ _
    split
    · exact memWf_homePut h1 _ _ _
    · exact memWf_homePut h1 _ _ _
    · refine memWf_homePut ?_ _ _ _
      split
      · rw [redChecked_mem]; exact h1
      · exact h1
    · exact memWf_discardNow h0 _
    · exact h1
  · split
    · exact memWf_homePut h1 _ _ _
    · exact memWf_homePut h1 _ _ _
    · refine memWf_homePut ?_ _ _ _
      split
      · rw [redChecked_mem]; exact h1
      · exact h1
    · exact memWf_discardNow h0 _
    · exact h1

theorem memWf_landStores {s : State} (h : memWf s.mem = true) (core tag : Nat) : memWf (s.landStores core tag).mem = true :=
  foldl_keeps (fun t : State => memWf t.mem = true) _ (fun _ t ht => memWf_landTxn ht t) _ _ h

theorem memWf_coreReady {s : State} (h : memWf s.mem = true) (core : Nat) (x : XOk) : memWf (s.coreReady core x).mem = true := by
  unfold State.coreReady
  simp only []
  split
  · exact memWf_commitMerges (memWf_landStores h _ _) _ _
  · exact memWf_commitWord (memWf_commitMerges (memWf_landStores h _ _) _ _) _ _ _

theorem memWf_coreWord {s : State} (h : memWf s.mem = true) (core : Nat) (x : XOk) : memWf (s.coreWord core x).1.mem = true := by
  unfold State.coreWord
  simp only []
  split
  · exact memWf_coreReady h _ _
  · exact memWf_coreReady h _ _
  · exact memWf_readPaAs (memWf_coreReady h _ _) _ _ _

theorem memWf_loadsFirst {s : State} (h : memWf s.mem = true) (core : Nat) (x : XOk) : memWf (s.loadsFirst core x).mem = true := by
  unfold State.loadsFirst
  simp only []
  split
  · exact h
  · exact memWf_coreWord h core x

theorem memWf_coreStore {s : State} (h : memWf s.mem = true) (core : Nat) (x : XOk) (w : Word) :
    memWf (s.coreStore core x w).mem = true := by
  have h1 := memWf_coreReady (memWf_loadsFirst h core x) core x
  unfold State.coreStore
  simp only []
  split
  · exact h1
  · exact h1
  · refine memWf_writeRun ?_ _ _ _ _
    exact h1

theorem memWf_coreStores {s : State} (h : memWf s.mem = true) (core : Nat) (xs : List XOk) (ws : List Word) :
    memWf (s.coreStores core xs ws).mem = true := by
  induction xs generalizing s ws with
  | nil => exact h
  | cons x r ih =>
    cases ws with
    | nil => exact h
    | cons w ws => exact ih (memWf_coreStore h core x w) ws

/-- The machine starts with memory in its canonical form. -/
theorem memWf_reset : memWf State.reset.mem = true := rfl

end Sys2Proof.Machine
end

