-- ==== Sys2Proof/Laws/Residue.lean ====
section
/-! SUPPORT. Residue prediction is right: the residue each network predicts is the residue of the word the datapath computes. -/

namespace Sys2Proof.Laws

open Sys2Proof.Machine

theorem ri_resOf (x : BitVec 32) : ri (resOf x) = (x.toNat : Int) % 15 := by
  simp only [ri, resOf, BitVec.toNat_ofNat]; omega

theorem r15_eq {z : Int} {x : BitVec 32} (h : (z - x.toNat) % 15 = 0) : r15 z = resOf x := by
  unfold r15 resOf
  congr 1
  omega

theorem resOf_ne (x : BitVec 32) : resOf x ≠ 15#4 := by
  intro h
  have := congrArg BitVec.toNat h
  simp only [resOf, BitVec.toNat_ofNat] at this
  omega

theorem predAdd_eq (x y : BitVec 32) (ci : Nat) (h : ci < 2) :
    predAdd (resOf x) (resOf y) ci (carry32 x y ci) = resOf (x + y + BitVec.ofNat 32 ci) := by
  apply r15_eq
  have hx := x.isLt
  have hy := y.isLt
  simp only [ri_resOf, carry32, BitVec.toNat_add, BitVec.toNat_ofNat]
  split <;> omega

theorem predSub_eq (x y : BitVec 32) (bi : Nat) (h : bi < 2) :
    predSub (resOf x) (resOf y) bi (borrow32 x y bi) = resOf (x - y - BitVec.ofNat 32 bi) := by
  apply r15_eq
  have hx := x.isLt
  have hy := y.isLt
  simp only [ri_resOf, borrow32, BitVec.toNat_sub, BitVec.toNat_ofNat]
  split <;> omega

theorem predNeg_eq (x : BitVec 32) : predNeg (resOf x) (if x = 0 then 0 else 1) = resOf (0 - x) := by
  apply r15_eq
  have hx := x.isLt
  simp only [ri_resOf, BitVec.toNat_sub]
  split
  · next h => subst h; decide
  · next h =>
    have : x.toNat ≠ 0 := fun e => h (BitVec.eq_of_toNat_eq e)
    simp only [BitVec.ofNat_eq_ofNat, BitVec.toNat_ofNat]
    omega

theorem natBits (x y : Nat) : (x &&& y) + (x ||| y) = x + y ∧ (x ^^^ y) + 2 * (x &&& y) = x + y := by
  induction x using Nat.strongRecOn generalizing y with
  | _ x ih =>
    by_cases h0 : x = 0
    · subst h0; simp
    · have h := ih (x / 2) (by omega) (y / 2)
      have a1 := @Nat.and_div_two x y
      have o1 := @Nat.or_div_two x y
      have x1 := @Nat.xor_div_two x y
      have a2 : (x &&& y) % 2 = (x % 2) * (y % 2) := by
        have := Nat.and_mod_two_pow (a := x) (b := y) (n := 1)
        simp only [Nat.pow_one] at this
        rw [this]
        rcases Nat.mod_two_eq_zero_or_one x with e | e <;> rcases Nat.mod_two_eq_zero_or_one y with f | f <;> rw [e, f] <;> decide
      have o2 : (x ||| y) % 2 = x % 2 + y % 2 - (x % 2) * (y % 2) := by
        have := Nat.or_mod_two_pow (a := x) (b := y) (n := 1)
        simp only [Nat.pow_one] at this
        rw [this]
        rcases Nat.mod_two_eq_zero_or_one x with e | e <;> rcases Nat.mod_two_eq_zero_or_one y with f | f <;> rw [e, f] <;> decide
      have x2 : (x ^^^ y) % 2 = (x % 2 + y % 2) % 2 := by
        have := Nat.xor_mod_two_pow (a := x) (b := y) (n := 1)
        simp only [Nat.pow_one] at this
        rw [this]
        rcases Nat.mod_two_eq_zero_or_one x with e | e <;> rcases Nat.mod_two_eq_zero_or_one y with f | f <;> rw [e, f] <;> decide
      rcases Nat.mod_two_eq_zero_or_one x with e | e <;> rcases Nat.mod_two_eq_zero_or_one y with f | f <;>
        rw [e, f] at a2 o2 x2 <;> constructor <;> omega

theorem and_add_or (x y : BitVec 32) : (x &&& y).toNat + (x ||| y).toNat = x.toNat + y.toNat := by
  rw [BitVec.toNat_and, BitVec.toNat_or]; exact (natBits _ _).1

theorem xor_add_and (x y : BitVec 32) : (x ^^^ y).toNat + 2 * (x &&& y).toNat = x.toNat + y.toNat := by
  rw [BitVec.toNat_and, BitVec.toNat_xor]; exact (natBits _ _).2

theorem predAnd_eq (x y : BitVec 32) : predAnd (resOf x) (resOf y) (resOf (x ||| y)) = resOf (x &&& y) := by
  apply r15_eq; have := and_add_or x y; simp only [ri_resOf]; omega

theorem predOr_eq (x y : BitVec 32) : predOr (resOf x) (resOf y) (resOf (x &&& y)) = resOf (x ||| y) := by
  apply r15_eq; have := and_add_or x y; simp only [ri_resOf]; omega

theorem predXor_eq (x y : BitVec 32) : predXor (resOf x) (resOf y) (resOf (x &&& y)) = resOf (x ^^^ y) := by
  apply r15_eq; have := xor_add_and x y; simp only [ri_resOf]; omega

theorem predNot_eq (x : BitVec 32) : predNot (resOf x) = resOf (~~~ x) := by
  apply r15_eq; have := x.isLt; simp only [ri_resOf, BitVec.toNat_not]; omega

theorem predReplace_lo (x : BitVec 32) (i : BitVec 16) :
    predReplace (resOf x) (x.extractLsb' 0 16).toNat i.toNat = resOf (x.extractLsb' 16 16 ++ i) := by
  apply r15_eq
  have := x.isLt; have := i.isLt
  simp only [ri_resOf, BitVec.extractLsb'_toNat, BitVec.toNat_append, Nat.shiftRight_eq_div_pow]
  rw [← Nat.shiftLeft_add_eq_or_of_lt i.isLt, Nat.shiftLeft_eq]
  have e : x.toNat / 65536 % 65536 = x.toNat / 65536 := by omega
  simp only [Nat.pow_zero, Nat.div_one, Nat.reducePow, Nat.cast_add, Nat.cast_mul, Nat.cast_ofNat, e]
  omega

theorem predReplace_hi (x : BitVec 32) (i : BitVec 16) :
    predReplace (resOf x) (x.extractLsb' 16 16).toNat i.toNat = resOf (i ++ x.extractLsb' 0 16) := by
  apply r15_eq
  have := x.isLt; have := i.isLt
  simp only [ri_resOf, BitVec.toNat_append]
  rw [← Nat.shiftLeft_add_eq_or_of_lt (x.extractLsb' 0 16).isLt, Nat.shiftLeft_eq]
  have e : x.toNat / 65536 % 65536 = x.toNat / 65536 := by omega
  simp only [BitVec.extractLsb'_toNat, Nat.shiftRight_eq_div_pow, Nat.pow_zero, Nat.div_one, Nat.reducePow, Nat.cast_add, Nat.cast_mul, Nat.cast_ofNat, e]
  omega

theorem predShl_eq (x : BitVec 32) (k : Nat) (h : k < 32) : predShl (resOf x) k (outShl x k) = resOf (x <<< k) := by
  apply r15_eq
  have := x.isLt
  simp only [ri_resOf, outShl, BitVec.toNat_shiftLeft, Nat.shiftLeft_eq]
  interval_cases k <;> simp <;> omega

theorem predShr_eq (x : BitVec 32) (k : Nat) (h : k < 32) : predShr (resOf x) k (outShr x k) = resOf (x >>> k) := by
  apply r15_eq
  have := x.isLt
  simp only [ri_resOf, outShr, BitVec.toNat_ushiftRight, Nat.shiftRight_eq_div_pow]
  interval_cases k <;> simp <;> omega

theorem rot_toNat (x : BitVec 32) (k : Nat) (h : k < 32) :
    (x.rotateLeft k).toNat = 2 ^ k * (x.toNat % 2 ^ (32 - k)) + x.toNat / 2 ^ (32 - k) := by
  rw [BitVec.toNat_rotateLeft]
  simp only [Nat.mod_eq_of_lt h, Nat.shiftLeft_eq, Nat.shiftRight_eq_div_pow]
  have hk : (2 : Nat) ^ 32 = 2 ^ k * 2 ^ (32 - k) := by rw [← Nat.pow_add]; congr 1; omega
  have e : x.toNat * 2 ^ k % 2 ^ 32 = 2 ^ k * (x.toNat % 2 ^ (32 - k)) := by
    rw [hk, Nat.mul_comm x.toNat, Nat.mul_mod_mul_left]
  have hlt : x.toNat / 2 ^ (32 - k) < 2 ^ k := by
    rw [Nat.div_lt_iff_lt_mul (by positivity), ← hk]; exact x.isLt
  rw [e, Nat.two_pow_add_eq_or_of_lt hlt]

theorem predRot_eq (x : BitVec 32) (k : Nat) (h : k < 32) : predRot (resOf x) k = resOf (x.rotateLeft k) := by
  apply r15_eq
  have := x.isLt
  rw [rot_toNat x k h, ri_resOf]
  interval_cases k <;> simp <;> omega

theorem sar_toNat (x : BitVec 32) (k : Nat) (h : k < 32) :
    (x.sshiftRight k).toNat = x.toNat / 2 ^ k + (if isNeg x then 2 ^ 32 - 2 ^ (32 - k) else 0) := by
  have hm : isNeg x = x.msb := by rw [isNeg, BitVec.msb_eq_getLsbD_last]
  rw [hm, BitVec.toNat_sshiftRight]
  have := x.isLt
  cases hx : x.msb
  · simp [Nat.shiftRight_eq_div_pow]
  · have hge : 2 ^ 31 ≤ x.toNat := by
      have := BitVec.msb_eq_decide (x := x); rw [hx] at this; simpa using this.symm
    simp only [if_true, Nat.shiftRight_eq_div_pow]
    interval_cases k <;> omega

theorem predSar_eq (x : BitVec 32) (k : Nat) (h : k < 32) :
    predSar (resOf x) k (outShr x k) (isNeg x) = resOf (x.sshiftRight k) := by
  apply r15_eq
  have := x.isLt
  rw [sar_toNat x k h]
  simp only [ri_resOf, outShr]
  cases isNeg x <;> interval_cases k <;> simp <;> omega

theorem mod15_mul (a b : Nat) : ((a : Int) % 15) * ((b : Int) % 15) % 15 = ((a * b : Nat) : Int) % 15 := by
  rw [Nat.cast_mul, ← Int.mul_emod]

theorem mulLow_eq (x y c : BitVec 32) :
    mulLow (Word.ofData x) (Word.ofData y) c (resOf c) = (x * y + c, resOf (x * y + c)) := by
  unfold mulLow Word.ofData
  simp only [Prod.mk.injEq, true_and]
  apply r15_eq
  have hp := mod15_mul x.toNat y.toNat
  have hlt : x.toNat * y.toNat ≤ 4294967295 * 4294967295 := Nat.mul_le_mul (by have := x.isLt; omega) (by have := y.isLt; omega)
  have := c.isLt
  simp only [ri_resOf, hiProd, BitVec.toNat_add, BitVec.toNat_mul, BitVec.toNat_ofNat]
  generalize x.toNat * y.toNat = P at *
  generalize ((x.toNat : Int) % 15) * ((y.toNat : Int) % 15) = Q at *
  rw [Nat.mod_add_mod, Nat.mod_eq_of_lt (a := (P + c.toNat) / 2 ^ 32) (by omega)]
  generalize hT : P + c.toNat = T at *
  omega

theorem predHigh_eq (x y c : BitVec 32) :
    predHigh (resOf x) (resOf y) (resOf c) (resOf (x * y + c)) = resOf (hiProd x y c.toNat) := by
  apply r15_eq
  have hp := mod15_mul x.toNat y.toNat
  have hlt : x.toNat * y.toNat ≤ 4294967295 * 4294967295 := Nat.mul_le_mul (by have := x.isLt; omega) (by have := y.isLt; omega)
  have := c.isLt
  simp only [ri_resOf, hiProd, BitVec.toNat_add, BitVec.toNat_mul, BitVec.toNat_ofNat]
  generalize x.toNat * y.toNat = P at *
  generalize ((x.toNat : Int) % 15) * ((y.toNat : Int) % 15) = Q at *
  rw [Nat.mod_add_mod, Nat.mod_eq_of_lt (a := (P + c.toNat) / 2 ^ 32) (by omega)]
  generalize hT : P + c.toNat = T at *
  omega

theorem mulHighU_eq (x y c : BitVec 32) :
    mulHighU (Word.ofData x) (Word.ofData y) c (resOf c) = (hiProd x y c.toNat, resOf (hiProd x y c.toNat)) := by
  simp only [mulHighU, Word.ofData, predHigh_eq]

theorem toInt_eq (x : BitVec 32) : x.toInt = (x.toNat : Int) - (if isNeg x then 2 ^ 32 else 0) := by
  have hm : isNeg x = x.msb := by rw [isNeg, BitVec.msb_eq_getLsbD_last]
  rw [hm, BitVec.toInt_eq_msb_cond]
  cases x.msb <;> simp

theorem mulHighS_eq (x y c : BitVec 32) :
    mulHighS (Word.ofData x) (Word.ofData y) c (resOf c) =
      (BitVec.ofInt 32 ((x.toInt * y.toInt + c.toInt) / 2 ^ 32), resOf (BitVec.ofInt 32 ((x.toInt * y.toInt + c.toInt) / 2 ^ 32))) := by
  have hlt : x.toNat * y.toNat ≤ 4294967295 * 4294967295 := Nat.mul_le_mul (by have := x.isLt; omega) (by have := y.isLt; omega)
  have hx := x.isLt
  have hy := y.isLt
  have hc := c.isLt
  have hv : ((hiProd x y c.toNat).toNat : Int) - (if isNeg x then (y.toNat : Int) else 0) - (if isNeg y then (x.toNat : Int) else 0) +
      (if isNeg c then 2 ^ 32 - 1 else 0) =
      (x.toInt * y.toInt + c.toInt) / 2 ^ 32 + (if isNeg c then 2 ^ 32 else 0) + (if isNeg x && isNeg y then - 2 ^ 32 else 0) := by
    rw [toInt_eq x, toInt_eq y, toInt_eq c]
    simp only [hiProd, BitVec.toNat_ofNat]
    have e : ∀ p q : Int, ((x.toNat : Int) - p) * ((y.toNat : Int) - q) =
      ((x.toNat * y.toNat : Nat) : Int) - p * y.toNat - q * x.toNat + p * q := by intro p q; push_cast; ring
    rw [e]
    generalize x.toNat * y.toNat = P at *
    cases isNeg x <;> cases isNeg y <;> cases isNeg c <;> simp <;> omega
  have hw : BitVec.ofInt 32 ((x.toInt * y.toInt + c.toInt) / 2 ^ 32 + (if isNeg c then 2 ^ 32 else 0) + (if isNeg x && isNeg y then - 2 ^ 32 else 0))
      = BitVec.ofInt 32 ((x.toInt * y.toInt + c.toInt) / 2 ^ 32) := by
    apply BitVec.eq_of_toNat_eq
    simp only [BitVec.toNat_ofInt]
    cases isNeg x <;> cases isNeg y <;> cases isNeg c <;> simp
  show (BitVec.ofInt 32 (((hiProd x y c.toNat).toNat : Int) - (if isNeg x then (y.toNat : Int) else 0) - (if isNeg y then (x.toNat : Int) else 0) +
      (if isNeg c then 2 ^ 32 - 1 else 0)),
    predHighS (predHigh (resOf x) (resOf y) (resOf c) (resOf (x * y + c))) (resOf x) (resOf y) (isNeg x) (isNeg y)
      ((((BitVec.ofInt 32 (((hiProd x y c.toNat).toNat : Int) - (if isNeg x then (y.toNat : Int) else 0) - (if isNeg y then (x.toNat : Int) else 0) +
      (if isNeg c then 2 ^ 32 - 1 else 0))).toNat : Int) - (((hiProd x y c.toNat).toNat : Int) - (if isNeg x then (y.toNat : Int) else 0) - (if isNeg y then (x.toNat : Int) else 0) +
      (if isNeg c then 2 ^ 32 - 1 else 0))) / 2 ^ 32)) = _
  rw [hv, predHigh_eq, hw]
  simp only [Prod.mk.injEq, true_and, predHighS]
  apply r15_eq
  rw [← hv]
  have hd : ∃ q : Int, ((BitVec.ofInt 32 ((x.toInt * y.toInt + c.toInt) / 2 ^ 32)).toNat : Int) -
     (((hiProd x y c.toNat).toNat : Int) - (if isNeg x then (y.toNat : Int) else 0) - (if isNeg y then (x.toNat : Int) else 0) +
      (if isNeg c then 2 ^ 32 - 1 else 0)) = 2 ^ 32 * q := by
    rw [← hw, ← hv]
    simp only [BitVec.toNat_ofInt]
    refine ⟨-((((hiProd x y c.toNat).toNat : Int) - (if isNeg x then (y.toNat : Int) else 0) - (if isNeg y then (x.toNat : Int) else 0) +
      (if isNeg c then 2 ^ 32 - 1 else 0)) / 2 ^ 32), ?_⟩
    omega
  obtain ⟨q, hq⟩ := hd
  rw [hq, Int.mul_ediv_cancel_left _ (by norm_num)]
  simp only [ri_resOf]
  generalize (hiProd x y c.toNat).toNat = H at *
  generalize (BitVec.ofInt 32 ((x.toInt * y.toInt + c.toInt) / 2 ^ 32)).toNat = R at *
  clear hv hw hlt
  by_cases ax : isNeg x = true <;> by_cases ay : isNeg y = true <;> by_cases ac : isNeg c = true <;>
    simp only [ax, ay, ac, if_true, if_false, Bool.false_eq_true] at hq ⊢ <;> omega

theorem mul64_eq (al ah bl bh : BitVec 32) :
    mul64 [Word.ofData al, Word.ofData ah, Word.ofData bl, Word.ofData bh] =
      [gen (((ah ++ al) * (bh ++ bl)).extractLsb' 0 32), gen (((ah ++ al) * (bh ++ bl)).extractLsb' 32 32)] := by
  have h1 : al.toNat * bl.toNat ≤ 4294967295 * 4294967295 := Nat.mul_le_mul (by have := al.isLt; omega) (by have := bl.isLt; omega)
  have t : (((ah ++ al) * (bh ++ bl) : BitVec 64)).toNat =
      (al.toNat * bl.toNat + 4294967296 * (al.toNat * bh.toNat + ah.toNat * bl.toNat)) % 2 ^ 64 := by
    rw [BitVec.toNat_mul, BitVec.toNat_append, BitVec.toNat_append, ← Nat.shiftLeft_add_eq_or_of_lt al.isLt,
      ← Nat.shiftLeft_add_eq_or_of_lt bl.isLt, Nat.shiftLeft_eq, Nat.shiftLeft_eq]
    have e : (ah.toNat * 2 ^ 32 + al.toNat) * (bh.toNat * 2 ^ 32 + bl.toNat) =
      al.toNat * bl.toNat + 4294967296 * (al.toNat * bh.toNat + ah.toNat * bl.toNat) + 2 ^ 64 * (ah.toNat * bh.toNat) := by ring
    rw [e, Nat.add_mul_mod_self_left]
  have lo : ((ah ++ al) * (bh ++ bl)).extractLsb' 0 32 = al * bl := by
    apply BitVec.eq_of_toNat_eq
    rw [BitVec.extractLsb'_toNat, t, BitVec.toNat_mul, Nat.shiftRight_zero]; omega
  have e0 := predHigh_eq al bl 0
  rw [show (al * bl + 0) = al * bl by simp, show resOf 0 = 0 from rfl] at e0
  have e1 := congrArg Prod.snd (mulLow_eq al bh 0)
  have e2 := congrArg Prod.snd (mulLow_eq ah bl 0)
  simp only [mulLow, Word.ofData, show resOf 0 = 0 from rfl, show (al * bh + 0) = al * bh by simp,
    show (ah * bl + 0) = ah * bl by simp] at e1 e2
  have hi : ((ah ++ al) * (bh ++ bl)).extractLsb' 32 32 =
      BitVec.ofNat 32 ((hiProd al bl 0).toNat + (al * bh).toNat + (ah * bl).toNat) := by
    apply BitVec.eq_of_toNat_eq
    rw [BitVec.extractLsb'_toNat, t, BitVec.toNat_ofNat, Nat.shiftRight_eq_div_pow]
    simp only [hiProd, BitVec.toNat_mul, BitVec.toNat_ofNat]
    generalize al.toNat * bl.toNat = A at *
    generalize al.toNat * bh.toNat = B
    generalize ah.toNat * bl.toNat = C
    omega
  have l0 : mulLow (Word.ofData al) (Word.ofData bl) 0 0 = gen (al * bl) := by
    have := mulLow_eq al bl 0
    rw [show resOf 0 = 0 from rfl, show al * bl + 0 = al * bl by simp] at this
    exact this
  unfold mul64
  simp only [nth, List.getD_cons_zero, List.getD_cons_succ, l0, lo, hi]
  simp only [Word.ofData] at e0 e1 e2 ⊢
  congr 2
  unfold gen
  congr 1
  apply r15_eq
  have e0' : predHigh (resOf al) (resOf bl) 0 (resOf (al * bl)) = resOf (hiProd al bl 0) := e0
  have e1' : predLow (resOf al) (resOf bh) 0 (resOf (hiProd al bh 0)) = resOf (al * bh) := e1
  have e2' : predLow (resOf ah) (resOf bl) 0 (resOf (hiProd ah bl 0)) = resOf (ah * bl) := e2
  rw [e0', e1', e2']
  simp only [ri_resOf, BitVec.toNat_ofNat]
  omega

theorem checkedWords_ok (l : List (BitVec 32 × BitVec 4)) (h : ∀ q ∈ l, q.2 = resOf q.1) :
    checkedWords l = .ok (l.map (fun q => Word.ofData q.1)) := by
  induction l with
  | nil => rfl
  | cons q t ih =>
    obtain ⟨x, r⟩ := q
    have hr : r = resOf x := h (x, r) (by simp)
    subst hr
    simp only [checkedWords, checkedWord, if_true, ih (fun q hq => h q (by simp [hq])), List.map_cons, Word.ofData]

theorem gen_ok (x : BitVec 32) : (gen x).2 = resOf (gen x).1 := rfl

/-- The two halves of a 64-bit sum. -/
theorem add64_halves (al ah bl bh : BitVec 32) :
    ((ah ++ al) + (bh ++ bl)).extractLsb' 0 32 = al + bl ∧
    ((ah ++ al) + (bh ++ bl)).extractLsb' 32 32 = ah + bh + BitVec.ofNat 32 (carry32 al bl 0) := by
  have h1 := al.isLt; have h2 := ah.isLt; have h3 := bl.isLt; have h4 := bh.isLt
  have t : ((ah ++ al) + (bh ++ bl) : BitVec 64).toNat = (ah.toNat * 2 ^ 32 + al.toNat + (bh.toNat * 2 ^ 32 + bl.toNat)) % 2 ^ 64 := by
    rw [BitVec.toNat_add, BitVec.toNat_append, BitVec.toNat_append, ← Nat.shiftLeft_add_eq_or_of_lt al.isLt,
      ← Nat.shiftLeft_add_eq_or_of_lt bl.isLt, Nat.shiftLeft_eq, Nat.shiftLeft_eq]
  constructor <;> apply BitVec.eq_of_toNat_eq <;> rw [BitVec.extractLsb'_toNat, t, Nat.shiftRight_eq_div_pow]
  · simp only [BitVec.toNat_add]; omega
  · simp only [BitVec.toNat_add, carry32, BitVec.toNat_ofNat]; split <;> omega

/-- The two halves of a 64-bit difference. -/
theorem sub64_halves (al ah bl bh : BitVec 32) :
    ((ah ++ al) - (bh ++ bl)).extractLsb' 0 32 = al - bl ∧
    ((ah ++ al) - (bh ++ bl)).extractLsb' 32 32 = ah - bh - BitVec.ofNat 32 (borrow32 al bl 0) := by
  have h1 := al.isLt; have h2 := ah.isLt; have h3 := bl.isLt; have h4 := bh.isLt
  have t : ((ah ++ al) - (bh ++ bl) : BitVec 64).toNat =
      (2 ^ 64 - (bh.toNat * 2 ^ 32 + bl.toNat) + (ah.toNat * 2 ^ 32 + al.toNat)) % 2 ^ 64 := by
    rw [BitVec.toNat_sub, BitVec.toNat_append, BitVec.toNat_append, ← Nat.shiftLeft_add_eq_or_of_lt al.isLt,
      ← Nat.shiftLeft_add_eq_or_of_lt bl.isLt, Nat.shiftLeft_eq, Nat.shiftLeft_eq]
  constructor <;> apply BitVec.eq_of_toNat_eq <;> rw [BitVec.extractLsb'_toNat, t, Nat.shiftRight_eq_div_pow]
  · simp only [BitVec.toNat_sub]; omega
  · simp only [BitVec.toNat_sub, borrow32, BitVec.toNat_ofNat]; split <;> omega

theorem carry32_lt (x y : BitVec 32) (c : Nat) : carry32 x y c < 2 := by unfold carry32; split <;> omega
theorem borrow32_lt (x y : BitVec 32) (c : Nat) : borrow32 x y c < 2 := by unfold borrow32; split <;> omega

theorem addSub64_add (al ah bl bh : BitVec 32) :
    addSub64 false [Word.ofData al, Word.ofData ah, Word.ofData bl, Word.ofData bh] = gen64 ((ah ++ al) + (bh ++ bl)) := by
  obtain ⟨e, f⟩ := add64_halves al ah bl bh
  simp only [addSub64, gen64, e, f, gen, dat, rs, nth, List.getD_cons_zero, List.getD_cons_succ, Word.ofData,
    Bool.false_eq_true, if_false]
  have p := predAdd_eq al bl 0 (by omega)
  rw [show al + bl + BitVec.ofNat 32 0 = al + bl by simp] at p
  rw [p, predAdd_eq ah bh _ (carry32_lt _ _ _)]

theorem addSub64_sub (al ah bl bh : BitVec 32) :
    addSub64 true [Word.ofData al, Word.ofData ah, Word.ofData bl, Word.ofData bh] = gen64 ((ah ++ al) - (bh ++ bl)) := by
  obtain ⟨e, f⟩ := sub64_halves al ah bl bh
  simp only [addSub64, gen64, e, f, gen, dat, rs, nth, List.getD_cons_zero, List.getD_cons_succ, Word.ofData, if_true]
  have p := predSub_eq al bl 0 (by omega)
  rw [show al - bl - BitVec.ofNat 32 0 = al - bl by simp] at p
  rw [p, predSub_eq ah bh _ (borrow32_lt _ _ _)]

theorem addSub32_eq (sub : Bool) (x y : BitVec 32) :
    addSub32 sub [Word.ofData x, Word.ofData y] = [gen (if sub then x - y else x + y)] := by
  have p := predAdd_eq x y 0 (by omega)
  rw [show x + y + BitVec.ofNat 32 0 = x + y by simp] at p
  have q := predSub_eq x y 0 (by omega)
  rw [show x - y - BitVec.ofNat 32 0 = x - y by simp] at q
  cases sub <;> simp [addSub32, dat, rs, nth, Word.ofData, gen, p, q]

theorem absWord_eq (x : BitVec 32) : absWord (Word.ofData x) = gen (if isNeg x then 0 - x else x) := by
  unfold absWord gen Word.ofData
  by_cases h : isNeg x = true
  · simp only [h, if_true, Prod.mk.injEq, true_and]
    have hx : x ≠ 0 := fun e => by subst e; exact absurd h (by decide)
    have := predNeg_eq x
    rwa [if_neg hx] at this
  · simp only [h, if_false, Bool.false_eq_true]

theorem sadWord_eq (sgn : Bool) (a b c : BitVec 32) :
    sadWord sgn (Word.ofData a) (Word.ofData b) (Word.ofData c) =
      gen ((if (if sgn then a.slt b else a.ult b) then b - a else a - b) + c) := by
  have key : ∀ x y : BitVec 32, predAdd (predSub (resOf x) (resOf y) 0 (borrow32 x y 0)) (resOf c) 0 (carry32 (x - y) c 0) =
      resOf (x - y + c) := by
    intro x y
    have q := predSub_eq x y 0 (by omega)
    rw [show x - y - BitVec.ofNat 32 0 = x - y by simp] at q
    rw [q]
    have p := predAdd_eq (x - y) c 0 (by omega)
    rwa [show x - y + c + BitVec.ofNat 32 0 = x - y + c by simp] at p
  unfold sadWord gen
  cases h : (if sgn then a.slt b else a.ult b) <;> simp [Word.ofData, h, key]

theorem on16_toNat (f : BitVec 16 → BitVec 16 → BitVec 16) (x y : BitVec 32) :
    (on16 f x y).toNat = (f (x.extractLsb' 16 16) (y.extractLsb' 16 16)).toNat * 65536 +
      (f (x.extractLsb' 0 16) (y.extractLsb' 0 16)).toNat := by
  rw [on16, BitVec.toNat_append, ← Nat.shiftLeft_add_eq_or_of_lt (BitVec.isLt _), Nat.shiftLeft_eq]

theorem on8_toNat (f : BitVec 8 → BitVec 8 → BitVec 8) (x y : BitVec 32) :
    (on8 f x y).toNat = (((f (x.extractLsb' 24 8) (y.extractLsb' 24 8)).toNat * 256 + (f (x.extractLsb' 16 8) (y.extractLsb' 16 8)).toNat) * 256 +
      (f (x.extractLsb' 8 8) (y.extractLsb' 8 8)).toNat) * 256 + (f (x.extractLsb' 0 8) (y.extractLsb' 0 8)).toNat := by
  rw [on8, BitVec.toNat_append, ← Nat.shiftLeft_add_eq_or_of_lt (BitVec.isLt _), BitVec.toNat_append,
    ← Nat.shiftLeft_add_eq_or_of_lt (BitVec.isLt _), BitVec.toNat_append, ← Nat.shiftLeft_add_eq_or_of_lt (BitVec.isLt _)]
  simp only [Nat.shiftLeft_eq]

theorem fieldAdd (W a b : Nat) (ha : a < W) (hb : b < W) :
    ∃ r c, (a + b) % W = r ∧ (if a + b ≥ W then 1 else 0) = c ∧ r + c * W = a + b ∧ r < W ∧ c ≤ 1 := by
  by_cases h : a + b ≥ W
  · refine ⟨a + b - W, 1, ?_, if_pos h, by omega, by omega, le_refl _⟩
    rw [Nat.mod_eq_sub_mod h, Nat.mod_eq_of_lt (by omega)]
  · exact ⟨a + b, 0, Nat.mod_eq_of_lt (by omega), if_neg h, by omega, by omega, by omega⟩

theorem fieldSub (W a b : Nat) (ha : a < W) (hb : b < W) :
    ∃ r c, (a + W - b) % W = r ∧ (W - b + a) % W = r ∧ (if a < b then 1 else 0) = c ∧ r + b = a + c * W ∧ r < W ∧ c ≤ 1 := by
  have e : W - b + a = a + W - b := by omega
  by_cases h : a < b
  · refine ⟨a + W - b, 1, ?_, ?_, if_pos h, by omega, by omega, le_refl _⟩ <;> (try rw [e]) <;> rw [Nat.mod_eq_of_lt (by omega)]
  · refine ⟨a - b, 0, ?_, ?_, if_neg h, by omega, by omega, by omega⟩ <;> (try rw [e]) <;>
      rw [Nat.mod_eq_sub_mod (by omega), Nat.mod_eq_of_lt (by omega)] <;> omega

theorem sum16 (r0 r1 : Nat) (h0 : r0 < 65536) (h1 : r1 < 65536) : (r0 + r1 * 65536) % 4294967296 = r1 * 65536 + r0 := by omega

theorem sum8 (r0 r1 r2 r3 : Nat) (h0 : r0 < 256) (h1 : r1 < 256) (h2 : r2 < 256) (h3 : r3 < 256) :
    (r0 + r1 * 256 + r2 * 65536 + r3 * 16777216) % 4294967296 = ((r3 * 256 + r2) * 256 + r1) * 256 + r0 := by omega

theorem packed16 (sub : Bool) (x y : BitVec 32) :
    (packedAdd 16 2 sub x y).1 = on16 (fun a b => if sub then a - b else a + b) x y ∧
    (if sub then predSub (resOf x) (resOf y) 0 (packedAdd 16 2 sub x y).2 else predAdd (resOf x) (resOf y) 0 (packedAdd 16 2 sub x y).2) =
      resOf (packedAdd 16 2 sub x y).1 := by
  have hx := x.isLt
  have hy := y.isLt
  obtain ⟨a0, a1, hA, l0, l1, p0, p1⟩ : ∃ a0 a1 : Nat, x.toNat = a0 + 65536 * a1 ∧ a0 < 65536 ∧ a1 < 65536 ∧
      x.toNat % 65536 = a0 ∧ x.toNat / 65536 % 65536 = a1 :=
    ⟨x.toNat % 65536, x.toNat / 65536 % 65536, by omega, by omega, by omega, rfl, rfl⟩
  obtain ⟨b0, b1, hB, m0, m1, q0, q1⟩ : ∃ a0 a1 : Nat, y.toNat = a0 + 65536 * a1 ∧ a0 < 65536 ∧ a1 < 65536 ∧
      y.toNat % 65536 = a0 ∧ y.toNat / 65536 % 65536 = a1 :=
    ⟨y.toNat % 65536, y.toNat / 65536 % 65536, by omega, by omega, by omega, rfl, rfl⟩
  obtain ⟨r0, c0, f0, g0, s0, u0, v0⟩ := fieldAdd 65536 a0 b0 l0 m0
  obtain ⟨r1, c1, f1, g1, s1, u1, v1⟩ := fieldAdd 65536 a1 b1 l1 m1
  obtain ⟨d0, k0, j0, i0, h0, t0, w0, z0⟩ := fieldSub 65536 a0 b0 l0 m0
  obtain ⟨d1, k1, j1, i1, h1, t1, w1, z1⟩ := fieldSub 65536 a1 b1 l1 m1
  cases sub <;> simp only [packedAdd, fieldOf, List.range, List.range.loop, List.foldl_cons, List.foldl_nil, Bool.false_eq_true, if_false,
    if_true, Nat.mul_zero, Nat.mul_one, Nat.pow_zero, Nat.div_one, Nat.reducePow, Nat.zero_add, p0, p1, q0, q1, f0, f1, g0, g1, j0, j1, h0, h1]
  · constructor
    · apply BitVec.eq_of_toNat_eq
      rw [on16_toNat]
      simp only [BitVec.toNat_ofNat, BitVec.toNat_add, BitVec.extractLsb'_toNat, Nat.shiftRight_eq_div_pow, Nat.pow_zero, Nat.div_one,
        Nat.reducePow, p0, p1, q0, q1, f0, f1]
      exact sum16 r0 r1 u0 u1
    · apply r15_eq
      simp only [ri_resOf, BitVec.toNat_ofNat, hA, hB, Nat.reducePow, sum16 r0 r1 u0 u1]
      clear hx hy hA hB p0 p1 q0 q1 f0 f1 g0 g1 i0 i1 j0 j1 h0 h1 t0 t1 w0 w1 z0 z1 m0 m1 l0 l1 u0 u1
      omega
  · constructor
    · apply BitVec.eq_of_toNat_eq
      rw [on16_toNat]
      simp only [BitVec.toNat_ofNat, BitVec.toNat_sub, BitVec.extractLsb'_toNat, Nat.shiftRight_eq_div_pow, Nat.pow_zero, Nat.div_one,
        Nat.reducePow, p0, p1, q0, q1, i0, i1]
      exact sum16 d0 d1 w0 w1
    · apply r15_eq
      simp only [ri_resOf, BitVec.toNat_ofNat, hA, hB, Nat.reducePow, sum16 d0 d1 w0 w1]
      clear hx hy hA hB p0 p1 q0 q1 f0 f1 g0 g1 i0 i1 j0 j1 h0 h1 s0 s1 w0 w1 u0 u1 v0 v1 m0 m1 l0 l1
      omega

theorem packed8 (sub : Bool) (x y : BitVec 32) :
    (packedAdd 8 4 sub x y).1 = on8 (fun a b => if sub then a - b else a + b) x y ∧
    (if sub then predSub (resOf x) (resOf y) 0 (packedAdd 8 4 sub x y).2 else predAdd (resOf x) (resOf y) 0 (packedAdd 8 4 sub x y).2) =
      resOf (packedAdd 8 4 sub x y).1 := by
  have hx := x.isLt
  have hy := y.isLt
  obtain ⟨a0, a1, a2, a3, hA, l0, l1, l2, l3, p0, p1, p2, p3⟩ : ∃ a0 a1 a2 a3 : Nat, x.toNat = a0 + 256 * a1 + 65536 * a2 + 16777216 * a3 ∧
      a0 < 256 ∧ a1 < 256 ∧ a2 < 256 ∧ a3 < 256 ∧ x.toNat % 256 = a0 ∧ x.toNat / 256 % 256 = a1 ∧ x.toNat / 65536 % 256 = a2 ∧
      x.toNat / 16777216 % 256 = a3 :=
    ⟨x.toNat % 256, x.toNat / 256 % 256, x.toNat / 65536 % 256, x.toNat / 16777216 % 256, by omega, by omega, by omega, by omega, by omega, rfl, rfl, rfl, rfl⟩
  obtain ⟨b0, b1, b2, b3, hB, m0, m1, m2, m3, q0, q1, q2, q3⟩ : ∃ a0 a1 a2 a3 : Nat, y.toNat = a0 + 256 * a1 + 65536 * a2 + 16777216 * a3 ∧
      a0 < 256 ∧ a1 < 256 ∧ a2 < 256 ∧ a3 < 256 ∧ y.toNat % 256 = a0 ∧ y.toNat / 256 % 256 = a1 ∧ y.toNat / 65536 % 256 = a2 ∧
      y.toNat / 16777216 % 256 = a3 :=
    ⟨y.toNat % 256, y.toNat / 256 % 256, y.toNat / 65536 % 256, y.toNat / 16777216 % 256, by omega, by omega, by omega, by omega, by omega, rfl, rfl, rfl, rfl⟩
  clear hx hy
  obtain ⟨r0, c0, f0, g0, s0, u0, v0⟩ := fieldAdd 256 a0 b0 l0 m0
  obtain ⟨r1, c1, f1, g1, s1, u1, v1⟩ := fieldAdd 256 a1 b1 l1 m1
  obtain ⟨r2, c2, f2, g2, s2, u2, v2⟩ := fieldAdd 256 a2 b2 l2 m2
  obtain ⟨r3, c3, f3, g3, s3, u3, v3⟩ := fieldAdd 256 a3 b3 l3 m3
  obtain ⟨d0, k0, j0, i0, h0, t0, w0, z0⟩ := fieldSub 256 a0 b0 l0 m0
  obtain ⟨d1, k1, j1, i1, h1, t1, w1, z1⟩ := fieldSub 256 a1 b1 l1 m1
  obtain ⟨d2, k2, j2, i2, h2, t2, w2, z2⟩ := fieldSub 256 a2 b2 l2 m2
  obtain ⟨d3, k3, j3, i3, h3, t3, w3, z3⟩ := fieldSub 256 a3 b3 l3 m3
  cases sub <;> simp only [packedAdd, fieldOf, List.range, List.range.loop, List.foldl_cons, List.foldl_nil, Bool.false_eq_true, if_false,
    if_true, Nat.mul_zero, Nat.mul_one, Nat.pow_zero, Nat.div_one, Nat.reducePow, Nat.reduceMul, Nat.zero_add, p0, p1, p2, p3, q0, q1, q2, q3,
    f0, f1, f2, f3, g0, g1, g2, g3, j0, j1, j2, j3, h0, h1, h2, h3]
  · constructor
    · apply BitVec.eq_of_toNat_eq
      rw [on8_toNat]
      simp only [BitVec.toNat_ofNat, BitVec.toNat_add, BitVec.extractLsb'_toNat, Nat.shiftRight_eq_div_pow, Nat.pow_zero, Nat.div_one,
        Nat.reducePow, p0, p1, p2, p3, q0, q1, q2, q3, f0, f1, f2, f3]
      exact sum8 r0 r1 r2 r3 u0 u1 u2 u3
    · apply r15_eq
      simp only [ri_resOf, BitVec.toNat_ofNat, hA, hB, Nat.reducePow, sum8 r0 r1 r2 r3 u0 u1 u2 u3]
      clear hA hB p0 p1 p2 p3 q0 q1 q2 q3 f0 f1 f2 f3 g0 g1 g2 g3 i0 i1 i2 i3 j0 j1 j2 j3 h0 h1 h2 h3 t0 t1 t2 t3
      clear l0 l1 l2 l3 m0 m1 m2 m3 u0 u1 u2 u3 w0 w1 w2 w3 z0 z1 z2 z3 v0 v1 v2 v3
      omega
  · constructor
    · apply BitVec.eq_of_toNat_eq
      rw [on8_toNat]
      simp only [BitVec.toNat_ofNat, BitVec.toNat_sub, BitVec.extractLsb'_toNat, Nat.shiftRight_eq_div_pow, Nat.pow_zero, Nat.div_one,
        Nat.reducePow, p0, p1, p2, p3, q0, q1, q2, q3, i0, i1, i2, i3]
      exact sum8 d0 d1 d2 d3 w0 w1 w2 w3
    · apply r15_eq
      simp only [ri_resOf, BitVec.toNat_ofNat, hA, hB, Nat.reducePow, sum8 d0 d1 d2 d3 w0 w1 w2 w3]
      clear l0 l1 l2 l3 m0 m1 m2 m3 u0 u1 u2 u3 w0 w1 w2 w3 z0 z1 z2 z3 v0 v1 v2 v3
      clear hA hB p0 p1 p2 p3 q0 q1 q2 q3 f0 f1 f2 f3 g0 g1 g2 g3 i0 i1 i2 i3 j0 j1 j2 j3 h0 h1 h2 h3 s0 s1 s2 s3
      omega

end Sys2Proof.Laws
end

