-- ==== Sys2Proof/Tests/Slice0.lean ====
section
/-! SUPPORT. Tests: ill-formed terms that the well-formedness check refuses, words written out from the encoding tables, single
steps, and for each statement a state and operands that meet its hypotheses together (`test_<statement>_…`). -/

namespace Sys2Proof.Tests

open Sys2Proof Sys2Proof.Machine

set_option maxRecDepth 100000

/-! ### Helpers -/

/-- One group of 32 lanes on core 0 of die 0, in focus. -/
def home : State := State.reset.withFetchWord 32 0xc0000007
/-- Does the outcome go on to a state with this property? -/
def goes (o : Host.Outcome State Fault Refusal) (f : State → Bool) : Bool := match o with | .next s => f s | _ => false
/-- The state of an outcome. -/
def after (o : Host.Outcome State Fault Refusal) : State := match o with | .next s => s | _ => State.reset
def w32 (n : Nat) : Word := Word.ofData (BitVec.ofNat 32 n)

def fitsV (s : State) (p : BitVec 3) (ns : Names) : Bool :=
  !s.onKiln && s.namesOk ns && !s.namesPending ns && (s.act p.toNat).faulty == 0 && s.glitch == 0
theorem fitV {s : State} {p : BitVec 3} {ns : Names} (h : fitsV s p ns = true) : s.FitV p ns := by
  simp only [fitsV, Bool.and_eq_true, Bool.not_eq_true', beq_iff_eq] at h
  exact ⟨h.1.1.1.1, h.1.1.1.2, h.1.1.2, h.1.2, h.2⟩
def allV (f : Word → Bool) (s : State) (p : BitVec 3) (runs : List (Nat × Nat)) : Bool :=
  (lanesOf (s.act p.toNat).lanes).all (fun l => runs.all (fun r => (s.vRun r.1 r.2 l).all f))
theorem readsV {s : State} {p : BitVec 3} {runs : List (Nat × Nat)} (h : allV Word.checks s p runs = true) : s.ReadsV p runs := by
  intro l hl r hr w hw
  simp only [allV, List.all_eq_true] at h
  exact h l hl r hr w hw
theorem cleanV {s : State} {p : BitVec 3} {runs : List (Nat × Nat)} (h : allV (fun w => !w.isPoison) s p runs = true) : s.CleanV p runs := by
  intro l hl r hr w hw
  simp only [allV, List.all_eq_true, Bool.not_eq_true'] at h
  exact h l hl r hr w hw
def fitsS (s : State) (g : BitVec 3) (ns : Names) : Bool := s.namesOk ns && !s.namesPending ns && s.q g.toNat == some true && s.glitch == 0
theorem fitS {s : State} {g : BitVec 3} {ns : Names} (h : fitsS s g ns = true) : s.FitS g ns := by
  simp only [fitsS, Bool.and_eq_true, Bool.not_eq_true', beq_iff_eq] at h
  exact ⟨h.1.1.1, h.1.1.2, h.1.2, h.2⟩
def allS (f : Word → Bool) (s : State) (runs : List (Nat × Nat)) : Bool := runs.all (fun r => (s.sRun r.1 r.2).all f)
theorem readsS {s : State} {runs : List (Nat × Nat)} (h : allS Word.checks s runs = true) : s.ReadsS runs := by
  intro r hr w hw
  simp only [allS, List.all_eq_true] at h
  exact h r hr w hw
theorem cleanS {s : State} {runs : List (Nat × Nat)} (h : allS (fun w => !w.isPoison) s runs = true) : s.CleanS runs := by
  intro r hr w hw
  simp only [allS, List.all_eq_true, Bool.not_eq_true'] at h
  exact h r hr w hw
theorem pairIs {α β : Type} {x : α × Option β} (h : x.2.isSome = true) : ∃ a b, x = (a, some b) := by
  obtain ⟨a, b⟩ := x
  obtain ⟨c, rfl⟩ := Option.isSome_iff_exists.1 h
  exact ⟨a, c, rfl⟩

/-! ### Witnesses: lane arithmetic -/

theorem test_LaneAddSub_hyps :
    (home.FitV 7 (names3 7 0 3 1) ∧ home.ReadsV 7 [(0, 1), (3, 1)]) ∧ (home.FitV 7 (names3 6 0 4 2) ∧ home.ReadsV 7 [(0, 2), (4, 2)]) ∧
    (home.FitV 0 (names2 7 0 1) ∧ home.ReadsV 0 [(0, 1)]) ∧ (home.FitV 7 (names2 6 5 2) ∧ home.ReadsV 7 [(5, 2)]) ∧
    home.ReadsV 7 [(0, 1), (3, 1), (7, 1)] :=
  ⟨⟨fitV (by decide), readsV (by decide)⟩, ⟨fitV (by decide), readsV (by decide)⟩, ⟨fitV (by decide), readsV (by decide)⟩,
    ⟨fitV (by decide), readsV (by decide)⟩, readsV (by decide)⟩
theorem test_LaneMultiply_hyps : home.FitV 7 ⟨[(6, 2), (0, 1), (7, 1)], []⟩ ∧ home.ReadsV 7 [(0, 1), (7, 1), (6, 1)] ∧
    home.FitV 7 (names3 6 0 6 2) ∧ home.ReadsV 7 [(0, 2), (6, 2)] :=
  ⟨fitV (by decide), readsV (by decide), fitV (by decide), readsV (by decide)⟩
theorem test_LaneCarryChain_hyps : home.FitV 7 (names3 7 7 7 1) ∧ home.ReadsV 7 [(7, 1), (7, 1)] ∧
    ∀ l, home.active 7 l → (home.v 7 l).isPoison = false ∧ (home.v 7 l).isPoison = false ∧ home.p 6 l = some false :=
  ⟨fitV (by decide), readsV (by decide), by unfold State.active; decide⟩
theorem test_LaneLogic_hyps : home.FitV 7 (names3 7 0 1 1) ∧ home.ReadsV 7 [(0, 1), (1, 1)] ∧ home.FitV 7 ⟨[(7, 1)], []⟩ ∧
    home.ReadsV 7 [(7, 1)] := ⟨fitV (by decide), readsV (by decide), fitV (by decide), readsV (by decide)⟩
theorem test_LaneShiftsAndCounts_hyps : home.FitV 7 (names3 7 0 1 1) ∧ home.ReadsV 7 [(0, 1), (1, 1)] ∧ home.ReadsV 7 [(7, 1)] ∧
    home.FitV 7 (names2 7 7 1) := ⟨fitV (by decide), readsV (by decide), readsV (by decide), fitV (by decide)⟩
theorem test_LaneMoves_hyps : home.FitV 7 (names2 6 5 2) ∧ home.ReadsV 7 [(5, 2)] ∧
    (home.setV 7 31 Word.poison).FitV 7 (names2 0 7 1) ∧ (home.setV 7 31 Word.poison).ReadsV 7 [(7, 1)] :=
  ⟨fitV (by decide), readsV (by decide), fitV (by decide), readsV (by decide)⟩
theorem test_LaneBitFields_hyps : home.FitV 7 ⟨[(7, 1), (0, 1), (1, 1)], []⟩ ∧ home.ReadsV 7 [(0, 1), (1, 1), (7, 1)] ∧
    home.FitV 7 ⟨[(7, 1), (0, 1), (1, 1), (7, 1)], []⟩ := ⟨fitV (by decide), readsV (by decide), fitV (by decide)⟩
theorem test_LaneSelectMinMax_hyps : home.FitV 7 (names3 6 0 4 2) ∧ home.ReadsV 7 [(0, 2), (4, 2)] ∧
    ∀ l, home.active 7 l → home.p 6 l = some false := ⟨fitV (by decide), readsV (by decide), by unfold State.active; decide⟩
theorem test_LaneComparesAndPredicates_hyps : home.FitV 7 ⟨[(0, 2), (6, 2)], []⟩ ∧ home.ReadsV 7 [(0, 2), (6, 2)] ∧
    home.CleanV 7 [(0, 2), (6, 2)] ∧ home.FitV 7 ⟨[(7, 1)], []⟩ ∧ home.ReadsV 7 [(7, 1)] ∧ home.CleanV 7 [(7, 1)] ∧
    home.FitV 7 ⟨[], []⟩ ∧ ∀ l, home.active 7 l → home.p 6 l = some false ∧ home.p 7 l = some true :=
  ⟨fitV (by decide), readsV (by decide), cleanV (by decide), fitV (by decide), readsV (by decide), cleanV (by decide), fitV (by decide),
    by unfold State.active; decide⟩
theorem test_LaneExchange_hyps : home.FitV 7 (names3 7 0 1 1) ∧ home.ReadsV 7 [(0, 1), (1, 1)] ∧ home.FitV 7 ⟨[(7, 1)], []⟩ ∧
    home.FitV 7 ⟨[], []⟩ ∧ home.FitV 7 (names2 7 0 1) ∧ ∀ l, home.active 7 l → home.p 0 l = some false :=
  ⟨fitV (by decide), readsV (by decide), fitV (by decide), fitV (by decide), fitV (by decide), by unfold State.active; decide⟩
theorem test_LaneFloat_hyps : home.FitV 7 (names3 6 0 4 2) ∧ home.ReadsV 7 [(0, 2), (4, 2)] ∧ home.ReadsV 7 [(6, 2)] ∧
    home.FitV 7 ⟨[(6, 2), (0, 2), (7, 1)], []⟩ ∧ home.FitV 7 (names2 6 0 2) ∧ home.FitV 7 ⟨[(7, 1), (0, 2)], []⟩ :=
  ⟨fitV (by decide), readsV (by decide), readsV (by decide), fitV (by decide), fitV (by decide), fitV (by decide)⟩
/-- FMT codes of the narrow formats: destination 0 and source 0, and one above. -/
theorem test_LaneConvert_hyps : cvtLegal 1 0 = true ∧ home.FitV 7 ⟨[(6, cvtDRegs 1 0), (0, cvtSRegs 1 0)], []⟩ ∧
    home.ReadsV 7 [(0, cvtSRegs 1 0)] ∧ home.FitV 7 (names3 7 0 1 1) ∧ home.ReadsV 7 [(0, 1), (1, 1), (7, 1)] ∧
    (∃ f e, cvtnLegal (field f 8 4) 7 = true ∧ elemOf (field f 8 4) = some e) ∧
    (∃ f e, cvtnLegal (field f 0 4) 3 = true ∧ elemOf (field f 0 4) = some e) := by
  refine ⟨by decide, fitV (by decide), readsV (by decide), fitV (by decide), readsV (by decide), ⟨0x603, ?_⟩, ⟨0x603, ?_⟩⟩
  · exact ⟨_, by decide, rfl⟩
  · exact ⟨_, by decide, rfl⟩
theorem test_LaneSpecialFunctions_hyps : home.FitV 7 (names2 6 0 2) ∧ home.ReadsV 7 [(0, 2)] ∧ psetSize home.g + 2 ≤ 8 :=
  ⟨fitV (by decide), readsV (by decide), by decide⟩
/-- The test state in S mode. -/
def homeS : State := { home with g := { home.g with priv := { home.g.priv with mode := 1 } } }
theorem test_LaneResidueInstructions_hyps : home.FitV 7 ⟨[(0, 8)], []⟩ ∧ home.ReadsV 7 [(0, 8)] ∧ home.FitV 7 ⟨[(6, 2)], []⟩ ∧
    homeS.mode ≠ 0 ∧ homeS.FitV 7 ⟨[(6, 2), (0, 2)], []⟩ ∧ homeS.CleanV 7 [(0, 2)] :=
  ⟨fitV (by decide), readsV (by decide), fitV (by decide), by decide, fitV (by decide), cleanV (by decide)⟩
/-- A register word whose nibble is not its residue. -/
def badLane : State := home.setV 2 3 ⟨7, 0⟩
theorem test_FailingLanes_hyps : badLane.FitV 7 (names3 1 2 5 1) ∧
    ((lanesOf (badLane.act 7).lanes).filter (fun l => !(badLane.v 2 l).checks || !(badLane.v 5 l).checks)).head? = some 3 :=
  ⟨fitV (by decide), by decide⟩
theorem test_FailingLanes_run : goes (exec (.vAdd 1 2 5 0 7) badLane) (fun s =>
    s.g.pc == 0x800040 && s.g.exec == 8 && s.g.priv.kmask == 8 && s.mode == 1 && s.g.priv.kcause.extractLsb' 16 8 == 1) = true := by decide
theorem test_IssueChecks_hyps : home.onKiln = false ∧ home.namesOk (names3 8 0 0 1) = false ∧ home.namesOk (names3 7 0 0 1) = true ∧
    home.namesOk (unames3 62 0 62 2) = true ∧ home.q 6 = some false ∧ home.q 7 = some true ∧
    (let s : State := { home with g := { home.g with pset := [⟨0, .lane 7 1, 2, 1, 0, false, [], 0, false⟩, ⟨1, .uniform 0 2, 2, 1, 0, false, [], 0, false⟩], upreds := [(3, 0)] } }
     s.namesPending (names3 7 0 0 1) = true ∧ s.namesPending (unames3 5 1 6 1) = true ∧ s.namesPending (unames3 5 2 6 1) = false ∧ s.q 3 = none) := by
  decide
theorem test_IssueChecks_kiln : ({ home with focus := .kiln 0 } : State).onKiln = true := by decide
theorem test_RegisterFrame_hyps : home.g.step = false ∧ home.g.frame ≤ home.ringSize ∧ home.ringSize ≤ 256 ∧ 6 + 2 ≤ home.g.frame := by decide
theorem test_RegisterFrame_run : goes (exec (.vMovi 7 0xffff 7) home) (fun s => s.v 7 31 == w32 0xffffffff && s.v 6 31 == Word.zero && s.mem == home.mem) = true := by
  decide

/-! ### Witnesses: traps -/

/-- A trap of every lane of the test group is delivered. -/
theorem test_TrapVectors_hyps : ∃ s2 xs, home.Delivers (Trap.plain cIllegal 0 home.g.exec home.g.exec) s2 xs := by
  obtain ⟨s2, xs, h⟩ := pairIs (x := (({ home with traps := if cIllegal = cResidue then tmod home.traps home.tm.die 0 (· + 1) else home.traps } : State).gradeGrid
    home.tm.grid (causeGrade cIllegal)).frameXls home.g.spill.toNat .store) (by decide)
  exact ⟨s2, xs, by decide, by decide, by decide, by decide, by decide, by decide, h⟩
theorem test_TrapVectors_base : home.g.priv.ktab.toNat % 4 = 0 ∧ home.g.priv.htab.toNat % 4 = 0 ∧ (vecBase home.g.priv false).toNat % 4 = 0 := by decide
theorem test_TrapVectors_zero : let s : State := { home with g := { home.g with priv := { home.g.priv with ktab := 0 } } }
    s.onKiln = false ∧ s.mode ≠ 2 ∧ s.g.priv.kdepth.toNat < 4 ∧ s.g.priv.ktab = 0 := by decide
theorem test_UndeliverableTraps_hyps :
    (({ home with g := { home.g with priv := { home.g.priv with kdepth := 4 } } } : State).g.priv.kdepth.toNat ≥ 4) ∧
    ({ home with g := { home.g with priv := { home.g.priv with mode := 2 } } } : State).mode = 2 ∧
    (vecBase home.g.priv false ≠ 0 ∧ linkEnd home.tm home.g.idx < (BitVec.ofNat 64 (linkEnd home.tm 0 - 252)).toNat + 256) := by decide
theorem test_UndeliverableTraps_run : ((({ home with g := { home.g with priv := { home.g.priv with kdepth := 4 } } } : State).raise
    (Trap.plain cIllegal 0 1 1)).g.halted) = true := by decide

/-! ### Witnesses: uniform instructions -/

theorem test_UniformArithmetic_hyps : home.FitS 7 (unames3 62 0 62 2) ∧ home.ReadsS [(0, 2), (62, 2)] ∧
    home.FitS 7 (unames3 63 0 63 1) ∧ home.ReadsS [(0, 1), (63, 1)] ∧ home.FitS 7 (unames2 63 0 1) ∧ home.FitS 7 ⟨[], [(63, 1)]⟩ :=
  ⟨fitS (by decide), readsS (by decide), fitS (by decide), readsS (by decide), fitS (by decide), fitS (by decide)⟩
theorem test_UniformChoiceAndPredicates_hyps : home.FitS 7 (unames2 62 0 2) ∧ home.ReadsS [(0, 2)] ∧ home.FitS 7 (unames3 62 0 4 2) ∧
    home.ReadsS [(0, 2), (4, 2)] ∧ home.q 6 = some false ∧ home.FitS 7 ⟨[], [(0, 2), (62, 2)]⟩ ∧ home.CleanS [(0, 2), (62, 2)] ∧
    home.FitS 7 ⟨[], [(63, 1)]⟩ ∧ home.ReadsS [(63, 1)] ∧ home.CleanS [(63, 1)] ∧ home.FitS 7 ⟨[], []⟩ ∧ home.q 7 = some true :=
  ⟨fitS (by decide), readsS (by decide), fitS (by decide), readsS (by decide), by decide, fitS (by decide), cleanS (by decide),
    fitS (by decide), readsS (by decide), cleanS (by decide), fitS (by decide), by decide⟩
theorem test_SpecialRegisters_hyps : home.onKiln = false ∧ (specAssigned 0x0e = true ∧ home.specDenied 0x0e = false ∧ specPerLane 0x0e = false) ∧
    home.FitS 7 ⟨[], [(63, 1)]⟩ ∧ (specAssigned 2 = true ∧ home.specDenied 2 = false) ∧ home.FitS 7 ⟨[(7, 1)], []⟩ ∧
    (specWritable 0x09 = true ∧ home.writeDenied 0x09 = false) ∧ home.FitS 7 ⟨[], [(62, 2)]⟩ ∧ home.ReadsS [(62, 2)] ∧ home.CleanS [(62, 2)] ∧
    (specWritable 0x16 = true ∧ homeS.writeDenied 0x16 = false) ∧ home.ReadsS [(63, 1)] ∧ home.CleanS [(63, 1)] ∧
    (home.s 63).data.toNat < 2 ^ 19 ∧ home.FitS 7 ⟨[], []⟩ ∧ (∀ l, l ∈ lanesOf home.g.exec → home.p 5 l = some false) :=
  ⟨by decide, by decide, fitS (by decide), by decide, fitS (by decide), by decide, fitS (by decide), readsS (by decide), cleanS (by decide),
    by decide, readsS (by decide), cleanS (by decide), by decide, fitS (by decide), by decide⟩
/-- The test group after `call` with slide 7. -/
def called : State := after (exec (.sCall 7 3 7) home)
theorem test_UniformControlFlow_hyps : home.FitS 7 ⟨[], []⟩ ∧ home.onKiln = false ∧ (home.pushLink (home.g.pc + 4) 7).isSome = true ∧
    (home.setWindow home.g.wb.toNat 64).isSome = true ∧ (home.setWindow home.g.wb.toNat 8).isSome = true ∧
    home.FitS 7 ⟨[], [(62, 2)]⟩ ∧ home.ReadsS [(62, 2)] ∧ home.CleanS [(62, 2)] ∧ (home.s64 62).toNat % 4 = 0 ∧
    home.FitS 7 ⟨[], [(63, 1)]⟩ ∧ home.ReadsS [(63, 1)] ∧ home.CleanS [(63, 1)] ∧ (home.s 63).data = 0 ∧
    ((home.setS 63 (w32 1)).s 63).data ≠ 0 ∧ (home.setS 63 (w32 1)).g.loops.length < 4 :=
  ⟨fitS (by decide), by decide, by decide, by decide, by decide, fitS (by decide), readsS (by decide), cleanS (by decide), by decide,
    fitS (by decide), readsS (by decide), cleanS (by decide), by decide, by decide, by decide⟩
theorem test_UniformControlFlow_ret : called.g.pc = 12 ∧ goes (exec (.sRet 7) called) (fun s => s.g.pc == 4 && s.g.spill == home.g.spill && s.g.wb == 0) = true := by
  decide
theorem test_UniformControlFlow_retHyps : ∃ s1 s2 ws, called.g.spill.toNat ≠ linkBase called.tm called.g.idx ∧ called.g.priv.kdepth = 0 ∧
    called.areaRead (called.g.spill - 16).toNat 4 = (s1, some ws) ∧ (∀ w ∈ ws, w.checks = true ∧ w.isPoison = false) ∧ ofWords ws % 4 = 0 ∧
    s1.belowTop (field (ofWords ws) 64 16) = false ∧ s1.spillsPending (field (ofWords ws) 64 16 + field (ofWords ws) 80 7) = false ∧
    ({ s1 with g := { s1.g with spill := called.g.spill - 16 } } : State).setWindow (field (ofWords ws) 64 16) (field (ofWords ws) 80 7) = some s2 := by
  obtain ⟨s2, h2⟩ := Option.isSome_iff_exists.1 (show (({ (called.areaRead (called.g.spill - 16).toNat 4).1 with
    g := { (called.areaRead (called.g.spill - 16).toNat 4).1.g with spill := called.g.spill - 16 } } : State).setWindow
      (field (ofWords (((called.areaRead (called.g.spill - 16).toNat 4).2).getD [])) 64 16)
      (field (ofWords (((called.areaRead (called.g.spill - 16).toNat 4).2).getD [])) 80 7)).isSome = true by decide)
  have h : called.areaRead (called.g.spill - 16).toNat 4 = ((called.areaRead (called.g.spill - 16).toNat 4).1,
    some (((called.areaRead (called.g.spill - 16).toNat 4).2).getD [])) := by decide
  exact ⟨_, s2, _, by decide, by decide, h, by decide, by decide, by decide, by decide, h2⟩
/-- An entry of the team's stack, and one of the group's. -/
def topK : Top :=
  { joinPc := 400, pendPc := 80, fmt := 0, wb := 0, frame := 8, ldepth := 0, second := false, ngrp := 1, ncomp := 1, maskVa := 0x900000,
    taken := [1], bound := [0xffffffff] }
def subK : Sub := { joinPc := 400, pendPc := 80, pend := 1, arr := 0, fmt := 0, wb := 0, ldepth := 0, second := false, indirect := false }
/-- The test group in compact mode; a path is open in its team when `b`. -/
def homeK (b : Bool) : State := { home with tm := { home.tm with
  mode := 6
  stack := if b then [topK] else [] } }
/-- A link returns into the window of the stack's innermost entry, or below it. -/
theorem test_UniformControlFlow_retCompact : goes (exec (.sRet 7) (after (exec (.sCall 7 3 7) (homeK true)))) (fun s => s.g.pc == 4) = true ∧
    (homeK true).belowTop 0 = false ∧ ({ (homeK true) with tm := { (homeK true).tm with stack := [{ topK with wb := 7 }] } } : State).belowTop 0 = true := by decide
/-- A group whose predicate p0 is true in lane 0 alone, at a pad of tag 5. -/
def atPad : State := (State.reset.withFetchWord 32 0x60002800).setP 0 0 true
theorem test_LaneControlFlow_hyps : home.onKiln = false ∧ ((home.predLanes 7).faulty = 0 ∧ (home.predLanes 7).lanes = home.baseLanes) ∧
    ((home.predLanes 0).faulty = 0 ∧ (home.predLanes 0).lanes = 0) ∧ home.tm.compact = false ∧
    ((atPad.predLanes 0).lanes = 1 ∧ (atPad.predLanes 0).lanes ≠ atPad.baseLanes ∧ atPad.g.pend = 0 ∧ atPad.g.subs.length < subHw atPad.tm) ∧
    (home.g.bind &&& ~~~ (home.act 7).lanes = 0 ∧ home.g.subs = []) ∧ (atPad.g.bind &&& ~~~ (atPad.act 0).lanes ≠ 0 ∧ (atPad.act 0).faulty = 0) := by
  decide
/-- A second group of the team waits at another `bd`. -/
def homeK2 : State := { (homeK false) with tm := { (homeK false).tm with
  ngrp := 2
  groups := [(1, { homeGroup with
    idx := 1
    wait := .meet
    pc := 64 })] } }
theorem test_LaneControlFlow_compact : ((homeK false).tm.compact = true ∧ (levelGroups (homeK false).mergedTeam).filter (fun q => atMeet q.2 && q.1 != 0) = [] ∧
      (homeK false).g.exec = (homeK false).g.bind ∧ (homeK false).settled = true) ∧
    (∃ q ∈ (levelGroups homeK2.mergedTeam).filter (fun q => atMeet q.2 && q.1 != homeK2.g.idx), q.2.pc ≠ homeK2.g.pc) ∧
    (home.FitS 7 ⟨[], []⟩ ∧ ({ home with g := { home.g with subs := [subK] } } : State).g.subs ≠ []) ∧ ((homeK true).FitS 7 ⟨[], []⟩ ∧ (homeK true).tm.stack ≠ []) :=
  ⟨by decide, by decide, ⟨fitS (by decide), by decide⟩, fitS (by decide), by decide⟩
/-- Lane 3's target is not that of the other lanes. -/
def apart : State := atPad.setV 6 3 (w32 64)
theorem test_LaneControlFlow_apart : ∃ s1, (∀ l ∈ lanesOf apart.baseLanes, apart.laneTarget 6 l = .ok (if l = 3 then 64 else 0)) ∧
    apart.fetchAt 0 = (s1, .ok (w32 0x60002800)) ∧ decode 0x60002800 = .ok (.vPad 5) ∧
    (s1.indirectPush (maskOf ((lanesOf apart.baseLanes).filter (fun l => (if l = 3 then 64 else 0) == 0))) true 40 none).isSome = true ∧
    (s1.indirectPush (maskOf ((lanesOf apart.baseLanes).filter (fun l => (if l = 3 then 64 else 0) == 0))) true 4 (some 7)).isSome = true := by
  refine ⟨(apart.fetchAt 0).1, ?_, Prod.ext rfl (by rfl), by decide, by decide, by decide⟩
  intro l hl
  have h := (show ∀ l ∈ lanesOf apart.baseLanes, (match apart.laneTarget 6 l with | .ok a => a == (if l = 3 then 64 else 0) | .error _ => false) = true by decide) l hl
  revert h
  cases apart.laneTarget 6 l with
  | ok a => intro h; simp only [beq_iff_eq] at h; rw [h]
  | error e => intro h; cases h
theorem test_LaneControlFlow_run : goes (exec (.vJmpi 6 5 10) apart) (fun s => s.g.pc == 0 && s.g.subs.length == 1 && s.g.exec == 0xfffffff7) = true ∧
    goes (exec (.vJmpi 6 5 10) { apart with g := { apart.g with exec := 0 } }) (fun s => s.g.pc == 40 && s.g.subs == []) = true := by decide
theorem test_LaneControlFlow_jmpi : ∃ s1 w, atPad.namesOk ⟨[(6, 2)], []⟩ = true ∧ atPad.namesPending ⟨[(6, 2)], []⟩ = false ∧
    atPad.baseLanes ≠ 0 ∧ atPad.g.pend = 0 ∧ atPad.g.subs = [] ∧ (∀ l ∈ lanesOf atPad.baseLanes, atPad.laneTarget 6 l = .ok 0) ∧
    atPad.fetchAt 0 = (s1, .ok w) ∧ w.checks = true ∧ w.isPoison = false ∧ decode w.data = .ok (.vPad 5) ∧
    (s1.pushLink (atPad.g.pc + 4) 7).isSome = true := by
  refine ⟨(atPad.fetchAt 0).1, w32 0x60002800, by decide, by decide, by decide, by decide, by decide, ?_, ?_, by decide, by decide, by decide, by decide⟩
  · intro l hl
    have : ∀ l ∈ lanesOf atPad.baseLanes, (match atPad.laneTarget 6 l with | .ok a => a == 0 | .error _ => false) = true := by decide
    have h := this l hl
    revert h
    cases atPad.laneTarget 6 l with
    | ok a => intro h; simp only [beq_iff_eq] at h; rw [h]
    | error e => intro h; cases h
  · exact Prod.ext rfl (by rfl)

/-! ### Witnesses: memory accesses -/

theorem bindSome {α β : Type} {o : Option α} {f : α → Option β} (h : (o.bind f).isSome = true) :
    ∃ a, o = some a ∧ (f a).isSome = true := by
  cases o with
  | none => cases h
  | some a => exact ⟨a, rfl, h⟩
theorem guardSome {α : Type} {b : Bool} {o : Option α} (h : (if b then o else none).isSome = true) : b = true ∧ o.isSome = true := by
  cases b with
  | false => cases h
  | true => exact ⟨rfl, h⟩
def goodOf : List (Nat × Except LaneFail (Nat × Target)) → Option (List (Nat × Nat × Target))
  | [] => some []
  | (l, .ok t) :: r => (goodOf r).map ((l, t) :: ·)
  | (_, .error _) :: _ => none
theorem goodOf_spec {x : List (Nat × Except LaneFail (Nat × Target))} {g : List (Nat × Nat × Target)} (h : goodOf x = some g) :
    x = g.map (fun y => (y.1, Except.ok y.2)) := by
  induction x generalizing g with
  | nil => cases h; rfl
  | cons p r ih =>
    obtain ⟨l, e⟩ := p
    cases e with
    | error e => cases h
    | ok t =>
      obtain ⟨g', h1, h2⟩ := Option.map_eq_some_iff.1 h
      rw [← h2, ih h1]; rfl
/-- The good accesses of all lanes, when every lane passes. -/
def passing (x : State × List (Nat × Except LaneFail (Nat × Target))) : Option (State × List (Nat × Nat × Target)) :=
  (goodOf x.2).map (fun g => (x.1, g))
theorem passing_spec {x : State × List (Nat × Except LaneFail (Nat × Target))} {s1 : State} {g : List (Nat × Nat × Target)}
    (h : passing x = some (s1, g)) : x = (s1, g.map (fun y => (y.1, Except.ok y.2))) := by
  obtain ⟨a, h1, h2⟩ := Option.map_eq_some_iff.1 h
  cases h2
  exact Prod.ext rfl (goodOf_spec h1)
def plainTargets (g : List (Nat × Nat × Target)) : Bool := g.all (fun x => match x.2.2 with | .memory _ => true | _ => false)
theorem plainTargets_spec {g : List (Nat × Nat × Target)} (h : plainTargets g = true) : ∀ x ∈ g, ∃ ps, x.2.2 = .memory ps := by
  intro x hx
  have h1 := List.all_eq_true.1 h x hx
  revert h1
  cases x.2.2 <;> simp
theorem plainTargets_noStarts {g : List (Nat × Nat × Target)} (h : plainTargets g = true) : noStarts g := by
  intro x hx ch hc
  obtain ⟨ps, hp⟩ := plainTargets_spec h x hx
  rw [hp] at hc; cases hc

theorem test_GlobalLoads_hyps : ∃ s1 good s2 ns, home.FitV 7 ((addrNames 4 2).add ⟨[(0, 4)], []⟩) ∧ psetSize home.g + 4 ≤ 8 ∧
    home.Passes (fun s l => s.vAddr 4 2 l) noExtra 16 .load false (lanesOf (home.act 7).lanes) s1 good ∧
    s1.startLoads 16 good = some (s2, ns) ∧ ns ≠ [] := by
  obtain ⟨⟨s1, good⟩, h1, h⟩ := bindSome (show ((passing (home.locateAll (fun s l => s.vAddr 4 2 l) noExtra 16 .load false (lanesOf (home.act 7).lanes))).bind
    (fun x => (x.1.startLoads 16 x.2).bind (fun y => if !y.2.isEmpty then some y else none))).isSome = true by decide)
  obtain ⟨⟨s2, ns⟩, h2, h⟩ := bindSome h
  refine ⟨s1, good, s2, ns, fitV (by decide), by decide, passing_spec h1, h2, ?_⟩
  rintro rfl; simp at h
/-- No lane is enabled: nothing is asked for. -/
def home0 : State := { home with g := { home.g with exec := 0 } }
theorem test_GlobalLoads_none : home0.FitV 7 ((addrNames 4 63).add ⟨[(7, 1)], []⟩) ∧ psetSize home0.g + 1 ≤ 8 ∧
    home0.Passes (fun s l => s.vAddr 4 63 l) noExtra 1 .load false (lanesOf (home0.act 7).lanes) home0 [] ∧ home0.startLoads 1 [] = some (home0, []) :=
  ⟨fitV (by decide), by decide, by rfl, by rfl⟩
theorem singleton {α : Type} {l : List α} (h : l.length = 1) : ∃ a, l = [a] := by
  cases l with
  | nil => cases h
  | cons a r => cases r with
    | nil => exact ⟨a, rfl⟩
    | cons b r => cases h
theorem test_GlobalLoads_uniform : ∃ s1 l x tg s2 ns, home.FitS 7 ⟨[], [(62, 2), (0, 4)]⟩ ∧ psetSize home.g + 4 ≤ 8 ∧ x % 16 = 0 ∧ l = uniLane ∧
    home.Passes (fun s _ => s.uAddr 62 (15 * 16)) noExtra 16 .load false [uniLane] s1 [(l, x, tg)] ∧
    s1.startLoads 16 [(l, x, tg)] = some (s2, ns) ∧ ns ≠ [] ∧ (home.onKiln = true → releaseReady home.g = true) := by
  obtain ⟨⟨s1, good⟩, h1, h⟩ := bindSome (show ((passing (home.locateAll (fun s _ => s.uAddr 62 (15 * 16)) noExtra 16 .load false [uniLane])).bind
    (fun x => if x.2.length == 1 && x.2.all (fun y => y.1 == uniLane && y.2.1 % 16 == 0) then
      (x.1.startLoads 16 x.2).bind (fun y => if !y.2.isEmpty then some y else none) else none)).isSome = true by decide)
  obtain ⟨hg, h⟩ := guardSome h
  rw [Bool.and_eq_true, beq_iff_eq, List.all_eq_true] at hg
  obtain ⟨⟨l, x, tg⟩, rfl⟩ := singleton hg.1
  have hx := hg.2 _ (List.mem_singleton_self _)
  rw [Bool.and_eq_true, beq_iff_eq, beq_iff_eq] at hx
  obtain ⟨⟨s2, ns⟩, h2, h⟩ := bindSome h
  refine ⟨s1, l, x, tg, s2, ns, fitS (by decide), by decide, hx.2, hx.1, passing_spec h1, h2, ?_, by decide⟩
  rintro rfl; simp at h
theorem test_GlobalStores_hyps : ∃ s1 good acc s2, home.FitV 7 ((addrNames 4 63).add ⟨[(0, 4)], []⟩) ∧
    home.Passes (fun s l => s.vAddr 4 63 l) (vStoreBad 0 4) 16 .store false (lanesOf (home.act 7).lanes) s1 good ∧
    noStarts good ∧ storeLanes (State.vDataWords 0 4) 16 (StoreAcc.start s1 good) good = some acc ∧ (s1.giveUp acc).2 = false ∧ acc.finish = some s2 := by
  obtain ⟨⟨s1, good⟩, h1, h⟩ := bindSome (show ((passing (home.locateAll (fun s l => s.vAddr 4 63 l) (vStoreBad 0 4) 16 .store false (lanesOf (home.act 7).lanes))).bind
    (fun x => if plainTargets x.2 then (storeLanes (State.vDataWords 0 4) 16 (StoreAcc.start x.1 x.2) x.2).bind
      (fun acc => if !(x.1.giveUp acc).2 then acc.finish else none) else none)).isSome = true by decide)
  obtain ⟨hp, h⟩ := guardSome h
  obtain ⟨acc, h2, h⟩ := bindSome h
  obtain ⟨hg, h⟩ := guardSome h
  obtain ⟨s2, h3⟩ := Option.isSome_iff_exists.1 h
  exact ⟨s1, good, acc, s2, fitV (by decide), passing_spec h1, plainTargets_noStarts hp, h2, by simpa using hg, h3⟩
/-- The test group with lane 0 alone enabled, its address pair v5:v4 at a copy channel's cell of the aperture. -/
def homeAp : State := ({ home with g := { home.g with exec := 1 } } : State).setV 5 0 (w32 (2 ^ 20))
theorem test_GlobalStores_aperture : ∃ s1 good s2, homeAp.FitV 7 ((addrNames 4 63).add ⟨[(0, 2)], []⟩) ∧
    homeAp.Passes (fun s l => s.vAddr 4 63 l) (vStoreBad 0 2) 8 .store false (lanesOf (homeAp.act 7).lanes) s1 good ∧
    (∀ x ∈ good, ∃ ch, x.2.2 = .aperture ch) ∧ s1.g.outst = 0 ∧
    (({ s1 with glitch := 0 } : State).startCopies (State.vDataWords 0 2) good) = (s2, []) := by
  obtain ⟨⟨s1, good⟩, h1, h⟩ := bindSome (show ((passing (homeAp.locateAll (fun s l => s.vAddr 4 63 l) (vStoreBad 0 2) 8 .store false
      (lanesOf (homeAp.act 7).lanes))).bind
    (fun x => if x.2.all (fun y => match y.2.2 with | .aperture _ => true | _ => false) && x.1.g.outst == 0 &&
        (({ x.1 with glitch := 0 } : State).startCopies (State.vDataWords 0 2) x.2).2 == [] then some x else none)).isSome = true by decide)
  obtain ⟨hg, -⟩ := guardSome h
  simp only [Bool.and_eq_true, beq_iff_eq, List.all_eq_true] at hg
  refine ⟨s1, good, _, fitV (by decide), passing_spec h1, fun x hx => ?_, hg.1.2, Prod.ext rfl hg.2⟩
  have := hg.1.1 x hx
  revert this
  cases x.2.2 <;> simp
theorem test_GlobalStores_uniform : ∃ s1 good acc s2, home.FitS 7 ⟨[], [(62, 2), (0, 1)]⟩ ∧
    home.Passes (fun s _ => s.uAddr 62 63) (uStoreBad 0 1) 1 .store true [uniLane] s1 good ∧
    noStarts good ∧ storeLanes (State.uData 0 1) 1 (StoreAcc.start s1 good) good = some acc ∧ (s1.giveUp acc).2 = false ∧ acc.finish = some s2 := by
  obtain ⟨⟨s1, good⟩, h1, h⟩ := bindSome (show ((passing (home.locateAll (fun s _ => s.uAddr 62 63) (uStoreBad 0 1) 1 .store true [uniLane])).bind
    (fun x => if plainTargets x.2 then (storeLanes (State.uData 0 1) 1 (StoreAcc.start x.1 x.2) x.2).bind
      (fun acc => if !(x.1.giveUp acc).2 then acc.finish else none) else none)).isSome = true by decide)
  obtain ⟨hp, h⟩ := guardSome h
  obtain ⟨acc, h2, h⟩ := bindSome h
  obtain ⟨hg, h⟩ := guardSome h
  obtain ⟨s2, h3⟩ := Option.isSome_iff_exists.1 h
  exact ⟨s1, good, acc, s2, fitS (by decide), passing_spec h1, plainTargets_noStarts hp, h2, by simpa using hg, h3⟩
/-- The word at the home group's VA 128: its own core reads it as stored. -/
def x128 : XOk := { pa := 2 ^ 25 + 128, key := 0, comm := 0, cache := 0, user := true }
theorem test_store_then_ownWord : goes (exec (.vSt 0 4 63 2 7) ((home.setV 4 0 (w32 128)).setV 0 0 (w32 9))) (fun s =>
    (s.coreWord 0 x128).2 == w32 9) = true := by decide
/-- The test group with lane 0 alone enabled. -/
def home1 : State := { home with g := { home.g with exec := 1 } }
theorem unwritten {s : State} {good : List (Nat × Nat × Target)} (h : (piecesIn good).all (fun q => !s.ownWritten q.tag q.idx) = true) :
    ∀ q ∈ piecesIn good, s.ownWritten q.tag q.idx = false := by
  intro q hq
  have := List.all_eq_true.1 h q hq
  simpa using this
theorem test_AtomicsPrefetchDiscard_red : ∃ s1 good s2, aopLegal true 4 2 10 = true ∧
    home1.FitV 7 ⟨[(4, 2), (0, aopRegs 10)], []⟩ ∧ releaseReady home1.g = true ∧
    home1.Passes (fun s l => s.vAddr 4 63 l) (bothChecks (fun s l => s.vAtomBad 0 (aopRegs 10) l) (windowForm 10 true)) (aopBytes 10) .atomic true (lanesOf (home1.act 7).lanes) s1 good ∧
    (∀ x ∈ good, ∃ ps, x.2.2 = .memory ps) ∧ (∀ q ∈ piecesIn good, s1.ownWritten q.tag q.idx = false) ∧
    ({ s1 with freeNo := s1.freeNo + 32 } : State).atomLanes 10 true s1.g.nextId (State.vDataWords 0 (aopRegs 10))
      (good.foldr (insertFree s1.freeNo) []) = some s2 := by
  obtain ⟨⟨s1, good⟩, h1, h⟩ := bindSome (show ((passing (home1.locateAll (fun s l => s.vAddr 4 63 l) (bothChecks (fun s l => s.vAtomBad 0 (aopRegs 10) l) (windowForm 10 true))
    (aopBytes 10) .atomic true (lanesOf (home1.act 7).lanes))).bind (fun x => if plainTargets x.2 && (piecesIn x.2).all (fun q => !x.1.ownWritten q.tag q.idx) then
      ({ x.1 with freeNo := x.1.freeNo + 32 } : State).atomLanes 10 true x.1.g.nextId (State.vDataWords 0 (aopRegs 10))
        (x.2.foldr (insertFree x.1.freeNo) []) else none)).isSome = true by decide)
  obtain ⟨hp, h⟩ := guardSome h
  rw [Bool.and_eq_true] at hp
  obtain ⟨s2, h2⟩ := Option.isSome_iff_exists.1 h
  exact ⟨s1, good, s2, by decide, fitV (by decide), by decide, passing_spec h1, plainTargets_spec hp.1, unwritten hp.2, h2⟩
theorem test_AtomicsPrefetchDiscard_atom : ∃ s1 good s2, aopLegal false 5 4 14 = true ∧
    home1.FitV 7 ⟨[(4, 2), (0, aopRegs 14)], []⟩ ∧ releaseReady home1.g = true ∧
    home1.Passes (fun s l => s.vAddr 4 63 l) (bothChecks (fun s l => s.vAtomBad 0 (aopRegs 14) l) (windowForm 14 false)) (aopBytes 14) .atomic true (lanesOf (home1.act 7).lanes) s1 good ∧
    (∀ x ∈ good, ∃ ps, x.2.2 = .memory ps) ∧ (∀ q ∈ piecesIn good, s1.ownWritten q.tag q.idx = false) ∧
    (let pend := s1.addPend (.lane 0 (aopOld 14)) (good.map (fun x => ⟨x.1, 0, aopBytes 14, []⟩)) false
     ({ pend with freeNo := pend.freeNo + 32 } : State).atomLanes 14 false s1.g.nextId (State.vDataWords 0 (aopRegs 14))
       (good.foldr (insertFree s1.freeNo) []) = some s2) ∧ s2.g.pset.any (fun e => e.id == s1.g.nextId) = true := by
  obtain ⟨⟨s1, good⟩, h1, h⟩ := bindSome (show ((passing (home1.locateAll (fun s l => s.vAddr 4 63 l) (bothChecks (fun s l => s.vAtomBad 0 (aopRegs 14) l) (windowForm 14 false))
    (aopBytes 14) .atomic true (lanesOf (home1.act 7).lanes))).bind (fun x => if plainTargets x.2 && (piecesIn x.2).all (fun q => !x.1.ownWritten q.tag q.idx) then
      (let pend := x.1.addPend (.lane 0 (aopOld 14)) (x.2.map (fun y => ⟨y.1, 0, aopBytes 14, []⟩)) false
       ({ pend with freeNo := pend.freeNo + 32 } : State).atomLanes 14 false x.1.g.nextId (State.vDataWords 0 (aopRegs 14))
        (x.2.foldr (insertFree x.1.freeNo) [])).bind (fun s2 => if s2.g.pset.any (fun e => e.id == x.1.g.nextId) then some s2 else none)
      else none)).isSome = true by decide)
  obtain ⟨hp, h⟩ := guardSome h
  rw [Bool.and_eq_true] at hp
  obtain ⟨s2, h2, h⟩ := bindSome h
  obtain ⟨ha, -⟩ := guardSome h
  exact ⟨s1, good, s2, by decide, fitV (by decide), by decide, passing_spec h1, plainTargets_spec hp.1, unwritten hp.2, h2, ha⟩
/-- With no active lane an atomic only completes. -/
theorem test_AtomicsPrefetchDiscard_noLane : home0.FitV 7 ⟨[(4, 2), (0, aopRegs 14)], []⟩ ∧ aopLegal false 5 4 14 = true ∧ (home0.act 7).lanes = 0 ∧
    home0.g.pset.all (fun e => e.id != home0.g.nextId) = true ∧ releaseReady home0.g = true := ⟨fitV (by decide), by decide, by decide, by decide, by decide⟩
theorem test_AtomicsPrefetchDiscard_uniform : ∃ s1 l x ps s2, aopLegal false 0 0 0 = true ∧ home.FitS 7 ⟨[], [(62, 2), (0, aopRegs 0)]⟩ ∧
    (home.onKiln = true ∨ ordRel 0 = true → releaseReady home.g = true) ∧ l = uniLane ∧
    home.Passes (fun s _ => s.uAddr 62 0) (bothChecks (fun s _ => s.uUseBad 0 (aopRegs 0)) (windowForm 0 false)) (aopBytes 0) .atomic true [uniLane] s1 [(l, x, .memory ps)] ∧
    (∀ q ∈ ps, s1.ownWritten q.tag q.idx = false) ∧
    (let pend := s1.addPend (.uniform 0 (aopOld 0)) [⟨uniLane, 0, aopBytes 0, []⟩] false
     ({ pend with freeNo := pend.freeNo + 32 } : State).atomLanes 0 false s1.g.nextId (State.uData 0 (aopRegs 0)) [(l, x, .memory ps)] = some s2) ∧
    s2.g.pset.any (fun e => e.id == s1.g.nextId) = true := by
  obtain ⟨⟨s1, good⟩, h1, h⟩ := bindSome (show ((passing (home.locateAll (fun s _ => s.uAddr 62 0) (bothChecks (fun s _ => s.uUseBad 0 (aopRegs 0)) (windowForm 0 false)) (aopBytes 0)
    .atomic true [uniLane])).bind (fun x => if x.2.length == 1 && x.2.all (fun y => y.1 == uniLane) && plainTargets x.2 &&
        (piecesIn x.2).all (fun q => !x.1.ownWritten q.tag q.idx) then
      (let pend := x.1.addPend (.uniform 0 (aopOld 0)) [⟨uniLane, 0, aopBytes 0, []⟩] false
       ({ pend with freeNo := pend.freeNo + 32 } : State).atomLanes 0 false x.1.g.nextId (State.uData 0 (aopRegs 0)) x.2).bind
        (fun s2 => if s2.g.pset.any (fun e => e.id == x.1.g.nextId) then some s2 else none) else none)).isSome = true by decide)
  obtain ⟨hp, h⟩ := guardSome h
  simp only [Bool.and_eq_true, beq_iff_eq] at hp
  obtain ⟨⟨l, x, tg⟩, rfl⟩ := singleton hp.1.1.1
  obtain ⟨ps, hps⟩ := plainTargets_spec hp.1.2 _ (List.mem_singleton_self _)
  obtain rfl : tg = .memory ps := hps
  obtain ⟨s2, h2, h⟩ := bindSome h
  obtain ⟨ha, -⟩ := guardSome h
  have hl := List.all_eq_true.1 hp.1.1.2 _ (List.mem_singleton_self _)
  refine ⟨s1, l, x, ps, s2, by decide, fitS (by decide), by decide, by simpa using hl, passing_spec h1, fun q hq => ?_, h2, ha⟩
  exact unwritten hp.2 q (by simpa [piecesIn] using hq)
/-- Under a false guard `satom` only completes: q6 is false in the test group. -/
theorem test_AtomicsPrefetchDiscard_unguarded : home.namesOk ⟨[], [(62, 2), (0, aopRegs 0)]⟩ = true ∧
    home.namesPending ⟨[], [(62, 2), (0, aopRegs 0)]⟩ = false ∧ home.q (6#3).toNat = some false := by decide
theorem test_AtomicsPrefetchDiscard_pref : home.FitV 7 (addrNames 4 63) ∧ home.FitV 7 (addrNames 4 2) := ⟨fitV (by decide), fitV (by decide)⟩
theorem test_AtomicsPrefetchDiscard_disc : ∃ s1 good s2, home.FitV 7 (addrNames 0 63) ∧
    home.Passes (fun s l => s.vAddr 0 63 l) discForm 1 .store false (lanesOf (home.act 7).lanes) s1 good ∧
    (∀ x ∈ good, ∃ ps, x.2.2 = .memory ps) ∧ s1.sendDiscs (linesOf good) = some s2 := by
  obtain ⟨⟨s1, good⟩, h1, h⟩ := bindSome (show ((passing (home.locateAll (fun s l => s.vAddr 0 63 l) discForm 1 .store false (lanesOf (home.act 7).lanes))).bind
    (fun x => if plainTargets x.2 then x.1.sendDiscs (linesOf x.2) else none)).isSome = true by decide)
  obtain ⟨hp, h⟩ := guardSome h
  obtain ⟨s2, h2⟩ := Option.isSome_iff_exists.1 h
  exact ⟨s1, good, s2, fitV (by decide), passing_spec h1, plainTargets_spec hp, h2⟩
theorem test_Scratchpad_hyps : home.FitV 7 ⟨[(7, 1), (0, 4)], []⟩ ∧ psetSize home.g + 4 ≤ 8 ∧ (home.act 7).lanes ≠ 0 ∧
    home.ReadsV 7 [(0, 4)] ∧ (∀ l, home.active 7 l → ∃ x, home.scrAddr false false 7 15 16 l = .ok x) := by
  refine ⟨fitV (by decide), by decide, by decide, readsV (by decide), fun l hl => ?_⟩
  have h : ∀ l ∈ lanesOf (home.act 7).lanes, (match home.scrAddr false false 7 15 16 l with | .ok _ => true | .error _ => false) = true := by decide
  have h1 := h l hl
  revert h1
  cases home.scrAddr false false 7 15 16 l with
  | ok x => exact fun _ => ⟨x, rfl⟩
  | error e => intro h; cases h
theorem test_Scratchpad_run : goes (exec (.vSts 0 7 63 0 7) (home.setV 0 31 (w32 0x1ff))) (fun s => s.scrWord (grpKey s.self) 15 == w32 0xff000000 && s.g.pc == 4) = true := by
  decide
theorem test_Scratchpad_stores : (∀ l, home.active 7 l → home.scrAddr false true 7 15 16 l = .ok (0, 240)) ∧ home.scrHeld 0 240 16 = false :=
  ⟨by unfold State.active; decide, by decide⟩
/-- A cluster address names the team at this core and slot: address 0 is the test team's own. -/
theorem test_Scratchpad_cluster : (∀ l, home.active 7 l → home.scrAddr true false 7 15 16 l = .ok (0, 240)) ∧
    (∀ l, home.active 7 l → home.scrAddr true true 7 15 16 l = .ok (0, 240)) := by unfold State.active; decide

/-! ### Witnesses: matrix, channels, barriers, system -/

/-- The test group with four accumulator tiles and 16 lane registers; FMT names f16 inputs. -/
def homeM : State := { home with
  tm := { home.tm with accN := 4, regs8 := 2, scratchN := 4 }
  g := { home.g with frame := 16, fmt := 0x011 } }
theorem test_MatrixInstructions_hyps : homeM.onKiln = false ∧ (3#8).toNat < homeM.tm.accN ∧ homeM.g.exec ≠ 0 ∧ homeM.mayPost = true ∧
    (homeM.namesOk ⟨[], [(63, 1)]⟩ = true ∧ homeM.namesPending ⟨[], [(63, 1)]⟩ = false) ∧ homeM.ReadsS [(63, 1)] ∧ homeM.CleanS [(63, 1)] ∧
    ((homeM.s 63).data.toNat % 128 = 0 ∧ (homeM.s 63).data.toNat + 16384 ≤ 4096 * homeM.tm.scratchN) ∧
    (homeM.namesOk ⟨[], [(62, 2)]⟩ = true ∧ homeM.namesPending ⟨[], [(62, 2)]⟩ = false) ∧ homeM.ReadsS [(62, 2)] ∧ homeM.CleanS [(62, 2)] ∧
    (∃ s1 pages, s1.g.outst = 0 ∧ s1.mayPost = true ∧ homeM.jobRegion .load 0 16384 128 [] = (s1, .ok pages)) ∧
    (∃ s1 pages, s1.g.outst = 0 ∧ s1.mayPost = true ∧ homeM.jobRegion .store 0 16384 128 [] = (s1, .ok pages)) :=
  ⟨by decide, by decide, by decide, by decide, by decide, readsS (by decide), cleanS (by decide), by decide, by decide, readsS (by decide),
    cleanS (by decide), ⟨_, _, by decide, by decide, rfl⟩, ⟨_, _, by decide, by decide, rfl⟩⟩
theorem test_MatrixInstructions_mma : homeM.g.bind = 0xffffffff ∧ homeM.g.exec = 0xffffffff ∧ homeM.g.latch = none ∧
    pairOk (fmA homeM.g.fmt) (fmB homeM.g.fmt) = true ∧ isBlock (fmA homeM.g.fmt) = false ∧ isBlock (fmB homeM.g.fmt) = false ∧
    homeM.namesOk ⟨[(0, 16)], [(63, 1)]⟩ = true ∧ homeM.namesPending ⟨[(0, 16)], [(63, 1)]⟩ = false ∧ homeM.rowsBad 0 16 = 0 ∧
    (homeM.s 63).data.toNat + 8192 ≤ 4096 * homeM.tm.scratchN ∧ homeM.mayPost = true ∧
    homeM.g.step = false ∧ goes (exec (.vMma 0 63 3 1 9) homeM) (fun s => s.g.latch.isSome && (s.cluster (s.clusterOf s.core)).mjobs.length == 1) = true := by
  decide
theorem test_MatrixInstructions_mdrain : ∃ s1 pages, fmO homeM.g.fmt ≠ 15 ∧ ¬ (3 ≤ fmO homeM.g.fmt ∧ fmO homeM.g.fmt ≤ 6) ∧
    (58#6).toNat ≤ 58 ∧ (0#6).toNat < homeM.g.frame ∧ homeM.namesPending ⟨[], drainRuns 58 0⟩ = false ∧ homeM.ReadsS (drainRuns 58 0) ∧
    homeM.CleanS (drainRuns 58 0) ∧ s1.g.outst = 0 ∧ s1.mayPost = true ∧ scaleBytes (fmO homeM.g.fmt) (fmBlk homeM.g.fmt) = 0 ∧
    (let ws := drainOps 0 ((drainRuns 58 0).flatMap (fun r => homeM.sRun r.1 r.2))
     homeM.jobRegions .store [((dat64 ws 0).toNat, 32 * rowBytes (fmO homeM.g.fmt), 128), ((dat64 ws 2).toNat, scaleBytes (fmO homeM.g.fmt) (fmBlk homeM.g.fmt), 64),
      ((dat64 ws 4).toNat, 16, 16)] [] = (s1, .ok pages)) :=
  ⟨_, _, by decide, by decide, by decide, by decide, by decide, readsS (by decide), cleanS (by decide), by decide, by decide, by decide, rfl⟩
/-- With no lane enabled `tcheck` reads nothing. -/
theorem test_MatrixInstructions_tcheck : home0.FitV 7 ((addrNames 4 63).add ⟨[(0, 4)], []⟩) ∧ home0.g.outst = 0 ∧
    home0.checkLanes 0 4 63 (lanesOf (home0.act 7).lanes) = (home0, .done ((lanesOf (home0.act 7).lanes).map (fun l => (l, .ok true)))) ∧
    home.FitS 7 ⟨[], []⟩ := ⟨fitV (by decide), by decide, by rfl, fitS (by decide)⟩

/-- The test team with a channel of depth 4 from itself to itself, one window received less than sent. -/
def homeC (n : BitVec 32) : State :=
  ({ home with grids := tins home.grids 1 { homeGrid with chans := [(0, 0, 0, 4)] } } : State).setEndpoint 0 ⟨n, 0⟩
theorem test_ChannelsAndCopies_hyps : (homeC 3).FitV 7 ⟨[(7, 1)], []⟩ ∧ ((homeC 3).act 7).lanes ≠ 0 ∧ (homeC 3).channel 0 = some (0, 0, 0, 4) ∧
    (homeC 3).ReadsV 7 [(7, 1)] ∧ (homeC 3).CleanV 7 [(7, 1)] ∧ (((homeC 3).endpoint 0).sent - ((homeC 3).endpoint 0).received).toNat < 4 ∧
    releaseReady (homeC 3).g = true ∧ ((homeC 3).teamOfGrid 0).isSome = true ∧ ((homeC 3).endpoint 0).received ≠ ((homeC 3).endpoint 0).sent ∧
    (homeC 3).FitS 7 ⟨[], [(63, 1)]⟩ ∧ (homeC 3).FitS 7 ⟨[], []⟩ ∧ reportable (homeC 3).g = none ∧ unfinished (homeC 3).g = 0 :=
  ⟨fitV (by decide), by decide, by decide, readsV (by decide), cleanV (by decide), by decide, by decide, by decide, by decide,
    fitS (by decide), fitS (by decide), by decide, by decide⟩
theorem test_ChannelsAndCopies_chsend : ∃ u s1, (homeC 3).teamOfGrid 0 = some u ∧ (homeC 3).tm.t = 0 ∧
    (homeC 3).ask (.slot (homeC 3).self 0) (homeC 3).node 6 (fun id => mkPacket 6 0 (homeC 3).node u.die id (slotWord u 0 (((homeC 3).endpoint 0).sent.toNat % 64)) 0
      (u.core / 32 == 1) 0xffffffff (windowFlits 0xffffffff ((List.range 32).map (fun l => if bit ((homeC 3).act 7).lanes l then (homeC 3).v 7 l else Word.zero)))) = some s1 := by
  obtain ⟨u, h1, h⟩ := bindSome (show (((homeC 3).teamOfGrid 0).bind (fun u => ((homeC 3).ask (.slot (homeC 3).self 0) (homeC 3).node 6 (fun id =>
      mkPacket 6 0 (homeC 3).node u.die id (slotWord u 0 (((homeC 3).endpoint 0).sent.toNat % 64)) 0 (u.core / 32 == 1) 0xffffffff
        (windowFlits 0xffffffff ((List.range 32).map (fun l => if bit ((homeC 3).act 7).lanes l then (homeC 3).v 7 l else Word.zero))))))).isSome = true by decide)
  obtain ⟨s1, h2⟩ := Option.isSome_iff_exists.1 h
  exact ⟨u, s1, h1, by decide, h2⟩
theorem test_ChannelsAndCopies_chrecv : (∀ l, (homeC 3).active 7 l → ((homeC 3).scrWord (grpKey (homeC 3).self) ((0 + 128 * (0 % 4)) / 4 + l)).checks = true) ∧
    ∃ u, ((((homeC 3).putV 7 7 (fun l => [(homeC 3).scrWord (grpKey (homeC 3).self) ((0 + 128 * (0 % 4)) / 4 + l)])).setEndpoint 0 ⟨3, 1⟩).acquire 4).teamOfGrid 0 = some u :=
  ⟨by unfold State.active; decide, Option.isSome_iff_exists.1 (by decide)⟩
theorem test_ChannelsAndCopies_run : goes (exec (.vChsend 7 0 7) (homeC 3)) (fun s => (s.endpoint 0).sent == 4 && s.g.outst == 1 && s.g.pc == 4) = true ∧
    goes (exec (.vChsend 7 0 7) (homeC 4)) (fun s => s.g.wait == .chsend 0) = true ∧
    goes (exec (.vChrecv 7 0 7) (homeC 1)) (fun s => (s.endpoint 0).received == 1 && s.g.pc == 4) = true := by decide

/-- The test group at a barrier it has armed. -/
def homeB : State := after (exec (.sArv 15 7) home)
theorem test_BarriersFencesWaits_hyps : home.onKiln = false ∧ home.FitS 7 ⟨[], []⟩ ∧ home.pathPending = false ∧ releaseReady home.g = true ∧
    bit (home.bar 15).armed home.g.idx = false ∧ bit (homeB.bar 15).armed 0 = true ∧ home.g.pset = [] ∧
    field ({ home with tm := { home.tm with mode := 0 } } : State).tm.mode.toNat 0 2 = 0 :=
  ⟨by decide, fitS (by decide), by decide, by decide, by decide, by decide, by decide, by decide⟩
/-- What waitv of the home group reads at va 0 after its own stores under way. -/
def waitvReads (s : State) (p : Piece) : State × List Word :=
  ((List.range 2).foldl (fun (u : State) i => u.ownFirst { p.x with pa := p.x.pa + 4 * i })
    ({ s with g := { s.g with waitI := (encode (.sWaitv 0 62 4 1 0 7)).getD 0 } } : State)).homeWords p.x 2
theorem test_BarriersFencesWaits_waitv : home.FitS 7 ⟨[], [(0, 1), (62, 2), (4, 2)]⟩ ∧ home.uAddr 62 0 = .ok 0 ∧ home.g.wait ≠ .waitv (some 0) ∧
    (∃ s1 p ps s2 ws, home.locate 0 8 .load true = (s1, .ok (.memory (p :: ps))) ∧ s1.ReadsS [(0, 1), (4, 2)] ∧ s1.CleanS [(0, 1), (4, 2)] ∧
      waitvReads s1 p = (s2, ws) ∧ (∀ x ∈ ws, x.checks = true ∧ x.isPoison = false) ∧ s2.glitch = 0) :=
  ⟨fitS (by decide), rfl, by decide, ⟨_, _, _, _, _, rfl, readsS (by decide), cleanS (by decide), rfl, by decide, by decide⟩⟩
/-- The test group, its word different from what waitv compares it with; at its first look it waits, at its last it raises STARVATION. -/
def homeW (w : Wait) : State := ({ home with g := { home.g with wait := w } } : State).setS 4 (w32 1)
theorem test_BarriersFencesWaits_waitvRun : goes (exec (.sWaitv 0 62 4 1 0 7) (homeW .none)) (fun s => s.g.wait == .waitv none) = true ∧
    goes (exec (.sWaitv 0 62 4 1 0 7) (homeW (.waitv (some 9)))) (fun s => s.g.wait == .waitv (some 9)) = true ∧
    goes (exec (.sWaitv 0 62 4 1 0 7) (homeW (.waitv (some 0)))) (fun s => s.mode == 1) = true := by decide
theorem test_BarriersFencesWaits_waitvLast : (homeW (.waitv (some 0))).FitS 7 ⟨[], [(0, 1), (62, 2), (4, 2)]⟩ ∧
    (homeW (.waitv (some 0))).pathPending = false := ⟨fitS (by decide), by decide⟩
theorem test_SystemCalls_sys : ∃ s2 xs, home.FitS 7 ⟨[], []⟩ ∧ (7#6).toNat < home.g.frame ∧ home.g.exec ≠ 0 ∧
    (let after : State := { home with g := { home.g with pc := (loopNext home.g.pc home.g.loops).1 - 4, loops := (loopNext home.g.pc home.g.loops).2 } }
     after.Delivers { Trap.plain cSys 7 home.g.exec home.g.exec with retAt := false } s2 xs) := by
  obtain ⟨s2, xs, h⟩ := pairIs (x := (({ home with
    g := { home.g with pc := (loopNext home.g.pc home.g.loops).1 - 4, loops := (loopNext home.g.pc home.g.loops).2 }
    traps := if cSys = cResidue then tmod home.traps home.tm.die 0 (· + 1) else home.traps } : State).gradeGrid
    home.tm.grid (causeGrade cSys)).frameXls home.g.spill.toNat .store) (by decide)
  exact ⟨s2, xs, fitS (by decide), by decide, by decide, by decide, by decide, by decide, by decide, by decide, by decide, h⟩
/-- The test group in S mode with a hypervisor's vectors. -/
def homeV : State := { home with g := { home.g with priv := { home.g.priv with mode := 1, htab := 0x840000 } } }
theorem test_SystemCalls_hcall : ∃ s2 xs, homeV.onKiln = false ∧ homeV.FitS 7 ⟨[], []⟩ ∧ homeV.mode ≠ 0 ∧
    (let after : State := { homeV with g := { homeV.g with pc := (loopNext homeV.g.pc homeV.g.loops).1 - 4, loops := (loopNext homeV.g.pc homeV.g.loops).2 } }
     after.Delivers { Trap.plain cHcall 0 homeV.g.exec homeV.g.exec with retAt := false } s2 xs) := by
  obtain ⟨s2, xs, h⟩ := pairIs (x := (({ homeV with
    g := { homeV.g with pc := (loopNext homeV.g.pc homeV.g.loops).1 - 4, loops := (loopNext homeV.g.pc homeV.g.loops).2 }
    traps := if cHcall = cResidue then tmod homeV.traps homeV.tm.die 0 (· + 1) else homeV.traps } : State).gradeGrid
    homeV.tm.grid (causeGrade cHcall)).frameXls homeV.g.spill.toNat .store) (by decide)
  exact ⟨s2, xs, by decide, fitS (by decide), by decide, by decide, by decide, by decide, by decide, by decide, by decide, h⟩
theorem test_SystemCalls_run : goes (exec (.sSys 7 7) home) (fun s => s.g.pc == 0x800000 + 64 * 14 && s.g.priv.kpc == 4 && s.mode == 1 &&
    s.g.priv.kdepth == 1) = true := by decide
/-- The test group in S mode, one frame of zeros at its link base. -/
def homeT : State := { home with g := { home.g with
  spill := BitVec.ofNat 64 (linkBase home.tm 0 + 256)
  priv := { home.g.priv with mode := 1, kdepth := 1, kpc := 8 } } }
theorem test_SystemCalls_tret : ∃ s1 s2 s3 xs ws, homeT.onKiln = false ∧ homeT.FitS 7 ⟨[], []⟩ ∧ homeT.mode ≠ 0 ∧ homeT.g.priv.kdepth ≠ 0 ∧
    homeT.g.spill.toNat = linkBase homeT.tm homeT.g.idx + homeT.g.priv.kframe.toNat + 256 ∧
    homeT.frameXls (linkBase homeT.tm homeT.g.idx + homeT.g.priv.kframe.toNat) .load = (s1, some xs) ∧ s1.coreWords s1.core xs = (s2, ws) ∧
    (∀ w ∈ ws, w.checks = true ∧ w.isPoison = false) ∧ (dat ws 11).toNat = s2.stackDepth ∧ homeT.g.priv.kcause.getLsbD 31 = false ∧
    homeT.g.priv.kpc.toNat % 4 = 0 ∧ s2.spillsPending (field (dat ws 10).toNat 0 16 + field (dat ws 10).toNat 16 8) = false ∧ s2.setWindow (field (dat ws 10).toNat 0 16) (field (dat ws 10).toNat 16 8) = some s3 ∧
    s3.g.priv = homeT.g.priv ∧ homeT.g.step = false ∧ s3.g.step = false := by
  obtain ⟨⟨s1, xs⟩, h1, h⟩ := bindSome (o := (match homeT.frameXls (linkBase homeT.tm homeT.g.idx + homeT.g.priv.kframe.toNat) .load with
      | (s1, some xs) => some (s1, xs) | _ => none))
    (f := fun x => let y := x.1.coreWords x.1.core x.2
      if y.2.all (fun w => w.checks && !w.isPoison) && (dat y.2 11).toNat == y.1.stackDepth &&
        y.1.spillsPending (field (dat y.2 10).toNat 0 16 + field (dat y.2 10).toNat 16 8) == false then
        (y.1.setWindow (field (dat y.2 10).toNat 0 16) (field (dat y.2 10).toNat 16 8)).bind (fun s3 =>
          if s3.g.priv == homeT.g.priv && !s3.g.step then some s3 else none) else none) (by decide)
  obtain ⟨hb, h⟩ := guardSome h
  rw [Bool.and_eq_true, Bool.and_eq_true, beq_iff_eq, beq_iff_eq] at hb
  obtain ⟨s3, h3, h⟩ := bindSome h
  obtain ⟨hc, -⟩ := guardSome h
  rw [Bool.and_eq_true, beq_iff_eq, Bool.not_eq_true'] at hc
  refine ⟨s1, _, s3, xs, _, by decide, fitS (by decide), by decide, by decide, by decide, ?_, rfl, fun w hw => ?_, hb.1.2, by decide, by decide, hb.2, h3, hc.1, by decide, hc.2⟩
  · generalize homeT.frameXls (linkBase homeT.tm homeT.g.idx + homeT.g.priv.kframe.toNat) .load = r at h1 ⊢
    obtain ⟨a, b⟩ := r
    cases b with
    | none => cases h1
    | some b => cases h1; rfl
  · have := List.all_eq_true.1 hb.1.1 w hw
    simpa using this
/-- The test state in H mode. -/
def homeH : State := { home with g := { home.g with priv := { home.g.priv with mode := 2 } } }
theorem test_InvalidationAndKeys_hyps : releaseReady homeS.g = true ∧ homeS.mode ≠ 0 ∧ homeH.mode = 2 ∧ home.mode = 0 ∧
    homeH.FitS 7 ⟨[], [(0, 2), (62, 2)]⟩ ∧ homeH.ReadsS [(0, 2), (62, 2)] ∧ homeH.CleanS [(0, 2), (62, 2)] ∧
    homeH.FitS 7 ⟨[], []⟩ ∧ homeH.FitS 7 ⟨[], [(63, 1)]⟩ ∧ homeH.keyInPart homeH.tm.part (homeH.s 63).data.toNat = true ∧
    home.FitS 7 ⟨[], [(0, 2), (62, 2)]⟩ ∧ (∀ t c, ({ homeH with tlbs := t, ctxs := c } : State).accessesOut = false) ∧
    (∀ t c, ({ homeS with tlbs := t, ctxs := c } : State).accessesOut = false) ∧ home.onKiln = false ∧
    homeS.FitS 7 ⟨[], [(0, 2), (62, 2)]⟩ ∧ homeS.ReadsS [(0, 2), (62, 2)] ∧ homeS.CleanS [(0, 2), (62, 2)] :=
  ⟨by decide, by decide, by decide, by decide, fitS (by decide), readsS (by decide), cleanS (by decide), fitS (by decide), fitS (by decide),
    by decide, fitS (by decide), fun _ _ => by rfl, fun _ _ => by rfl, by decide, fitS (by decide), readsS (by decide), cleanS (by decide)⟩
theorem test_InvalidationAndKeys_run : goes (exec (.sTlbiAll 7) homeH) (fun s => (s.ctxs == []) && s.g.pc == 4) = true ∧
    goes (exec (.sTlbiAll 7) home) (fun s => s.mode == 1 && s.g.pc == 0x800000 + 64 * 6) = true := by decide
/-- The test group with accesses to release, a full loop stack, a path pending, or F at the largest window. -/
def owing : State := { home with g := { home.g with outst := 1 } }
def loaded0 : State := { home with g := { home.g with pset := [⟨5, .lane 7 1, 2, 0, 0, false, [⟨31, 0, 4, [⟨0, 0, none⟩]⟩], 0, false⟩] } }
def looping : State := { (home.setS 63 (w32 1)) with g := { (home.setS 63 (w32 1)).g with loops := List.replicate 4 ⟨8, 64, 2⟩ } }
def forked : State := { home with g := { home.g with
  exec := 1
  subs := [subK] } }
theorem test_WaitsAndTraps_hyps : home.onKiln = false ∧ (forked.FitS 7 ⟨[], []⟩ ∧ forked.pathPending = true) ∧
    (home.pathPending = false ∧ field home.tm.mode.toNat 0 2 ≠ 0 ∧ bit (homeB.bar 15).armed homeB.g.idx = true ∧ bit (home.bar 15).armed home.g.idx = false) ∧
    (owing.FitS 7 ⟨[], []⟩ ∧ owing.pathPending = false ∧ releaseReady owing.g = false) ∧
    (loaded0.g.pset ≠ [] ∧ loaded0.FitS 7 ⟨[], []⟩) ∧ home.g.frame ≤ (8#6).toNat ∧
    (home0.FitS 7 ⟨[], []⟩ ∧ home0.g.exec = 0) ∧ (homeS.mode ≠ 0 ∧ homeS.g.priv.kdepth = 0) ∧
    (homeT.g.priv.kdepth ≠ 0 ∧ ({ homeT with g := { homeT.g with spill := 0x901000 } } : State).g.spill.toNat ≠
      linkBase homeT.tm homeT.g.idx + homeT.g.priv.kframe.toNat + 256) ∧
    (looping.FitS 7 ⟨[], [(63, 1)]⟩ ∧ looping.ReadsS [(63, 1)] ∧ looping.CleanS [(63, 1)] ∧ (looping.s 63).data ≠ 0 ∧ 4 ≤ looping.g.loops.length) ∧
    2 ^ 19 ≤ ((home.setS 63 (w32 0x80000)).s 63).data.toNat ∧ (specAssigned 0x3f = false ∧ specWritable 0 = false) ∧
    (specAssigned 0x16 = true ∧ specPerLane 0x16 = false ∧ home.specDenied 0x16 = true ∧ specWritable 0x16 = true ∧ home.writeDenied 0x16 = true) :=
  ⟨by decide, ⟨fitS (by decide), by decide⟩, by decide, ⟨fitS (by decide), by decide, by decide⟩, ⟨by decide, fitS (by decide)⟩, by decide,
    ⟨fitS (by decide), by decide⟩, by decide, by decide, ⟨fitS (by decide), readsS (by decide), cleanS (by decide), by decide, by decide⟩, by decide, by decide, by decide⟩
/-- A group with no room left in its slice for a link or a spilled register. -/
def cramped : State := { home with tm := { home.tm with spillKib := 0 } }
theorem test_WaitsAndTraps_window : (cramped.pushLink (cramped.g.pc + 4) 7).isNone = true ∧
    ({ cramped with g := { cramped.g with wb := 8 } } : State).onKiln = false := by decide

/-! ### Witnesses: launches, Kiln runs, stack ports, mesh packets -/

/-- A launch packet: one team of 32 lanes of class W, 8 registers, 4 KiB of scratchpad. -/
def packet (op : Nat) : Nat :=
  op * 2 ^ 32 + 2 ^ (8 * 24) + 2 ^ (8 * 28) + 2 ^ (8 * 30) + 32 * 2 ^ (8 * 32) + 2 ^ (8 * 34) + 2 ^ (8 * 36) + 2 ^ (8 * 38) + 2 * 2 ^ (8 * 39) +
  (64 + 8 * 2 ^ 9) * 2 ^ (8 * 40) + 2 ^ (8 * 44)
/-- Nothing in focus; queue 0 of partition 0 holds one command with this slot. -/
def queued (n : Nat) (f : Cmd → Cmd) : State :=
  { home.unfocus with queues := [(0, { Queue.initial with
      enabled := true
      cmds := [f (Cmd.fresh 0 0 homeAsid (wordsOf 32 n))] })] }
/-- The state of a run of Kiln engine 0 for that command. -/
def onEngine (cnt : Nat) : State :=
  let s := queued (packet 1) (fun c => { c with inKiln := true })
  let s1 : State := { s with kilns := [(0, { queue := 0, cmd := 0, part := 0, asid := homeAsid, g := { Group.initial with count := cnt } })] }
  (s1.focusKiln 0).getD s1

theorem test_LaunchesAndKilnRuns_launch : ∃ s1 s2 s3 x xs ws r, home.FitS 7 ⟨[], [(62, 2), (0, 2)]⟩ ∧ home.uAddr 0 0 = .ok 0 ∧
    home.locate 0 128 .load true = (s1, .ok (.memory (x :: xs))) ∧
    releaseReady s1.g = true ∧ s1.readAt x.x 32 = (s2, ws) ∧ s2.launchChild ws = (s3, r) :=
  ⟨_, _, _, _, _, _, _, fitS (by decide), rfl, rfl, by decide, rfl, rfl⟩
/-- The test group with its first page in window space, the packet's words come through the window. -/
def homeWin : State := { home with
  tlbs := [(0, [{ homeTlb with pa := 2 ^ 51 }])]
  parts := [(0, { Part.initial with
    entry := homeEntry
    windows := [(0, BitVec.ofNat 256 (1 + 2 ^ 76 + 2 ^ 10 * 2 ^ 77))] })]
  g := { home.g with checked := (List.range 32).map (fun i => (i, w32 i)) } }
theorem test_LaunchesAndKilnRuns_window : ∃ s1 s3 pa ws r, homeWin.FitS 7 ⟨[], [(62, 2), (0, 2)]⟩ ∧ homeWin.uAddr 0 0 = .ok 0 ∧
    homeWin.locate 0 128 .load true = (s1, .ok (.window pa)) ∧ releaseReady s1.g = true ∧ s1.cameThrough (0 / 4) 32 = some ws ∧
    ({ s1 with g := { s1.g with checked := [] } } : State).launchChild ws = (s3, r) :=
  ⟨_, _, _, _, _, fitS (by decide), rfl, rfl, by decide, rfl, rfl⟩
theorem test_LaunchesAndKilnRuns_lwait : home.FitS 7 ⟨[], []⟩ ∧ home.FitS 7 ⟨[], [(62, 2)]⟩ ∧ home.ReadsS [(62, 2)] ∧ home.CleanS [(62, 2)] :=
  ⟨fitS (by decide), fitS (by decide), readsS (by decide), cleanS (by decide)⟩
theorem test_LaunchesAndKilnRuns_engine : (onEngine 3).focus = .kiln 0 ∧ (onEngine 3).FitS 7 ⟨[], []⟩ ∧ releaseReady (onEngine 3).g = true ∧
    ∃ e c, tfind (onEngine 3).kilns 0 = some e ∧ ((onEngine 3).queue e.queue).cmds.find? (fun x => x.uid == e.cmd) = some c :=
  ⟨rfl, fitS (by decide), by decide, _, _, rfl, rfl⟩
theorem test_LaunchesAndKilnRuns_command : ∃ c s2 k, (queued (packet 1) id).unfocus.Starts 0 1 0 c (queued (packet 1) id).unfocus ∧
    (queued (packet 1) id).unfocus.launchCode 0 c.num (slPro c.num) = 0 ∧ slPro c.num = false ∧ slEvEn c.num = false ∧
    (queued (packet 1) id).unfocus.tryLaunch 0 0 c.uid c.asid c.slot none 0 false = (s2, .ok k) :=
  ⟨Cmd.fresh 0 0 homeAsid (wordsOf 32 (packet 1)), _, _, ⟨by rfl, by decide, by decide, by decide, by rfl⟩, by decide, by decide, by decide, rfl⟩
/-- A launch that a prologue at address 64 precedes. -/
def proPacket : Nat := packet 1 + 2 ^ 41 + 64 * 2 ^ (8 * 80)
theorem test_LaunchesAndKilnRuns_prologue : (queued proPacket id).unfocus.Starts 0 1 0 (Cmd.fresh 0 0 homeAsid (wordsOf 32 proPacket)) (queued proPacket id).unfocus ∧
    (let c := Cmd.fresh 0 0 homeAsid (wordsOf 32 proPacket)
     slPro c.num = true ∧ slEvEn c.num = false ∧ (queued proPacket id).unfocus.launchCode 0 c.num (slPro c.num) = 0) :=
  ⟨⟨by rfl, by decide, by decide, by decide, by rfl⟩, by decide⟩
theorem test_LaunchesAndKilnRuns_start : ∃ c r, tfind (queued (packet 1) (fun c => { c with waitKiln := true })).unfocus.kilns 0 = none ∧
    (∀ j < 0, (tfind (queued (packet 1) (fun c => { c with waitKiln := true })).unfocus.kilns j).isSome = true) ∧
    (queued (packet 1) (fun c => { c with waitKiln := true })).unfocus.kilnWaiters = (0, c) :: r ∧
    (queued (packet 1) (fun c => { c with waitKiln := true })).unfocus.partOfQueue 0 = some 0 := ⟨_, _, rfl, by decide, rfl, by decide⟩
theorem test_LaunchesAndKilnRuns_budget : ∃ e, tfind (onEngine 65536).unfocus.kilns 0 = some e ∧ 65536 ≤ e.g.count := ⟨_, rfl, by decide⟩

/-- The test group waits for load 5, whose one lane has its word. -/
def loaded (d : Dest) (vr1 : Bool) : State := { home with g := { home.g with
  wait := .load 5
  pset := [⟨5, d, 0, 0, 0, vr1, [⟨31, 0, 4, [⟨0, 0, some (w32 9)⟩]⟩], 0, false⟩] } }
theorem test_LoadArrival_hyps : ∀ d ∈ [Dest.lane 7 1, .uniform 7 1, .check 0], ∀ b ∈ [false, true], (loaded d b).focus = .group homeRef ∧
    ((loaded d b).g.pset.find? (fun p => p.id == 5 && p.vr1 == b && p.complete)).isSome = true ∧ (loaded d b).g.due = none ∧
    (∀ e ∈ (loaded d b).g.pset, e.dest = d ∧ ∀ l ∈ e.lanes, ∀ w ∈ assembled l, w.isSome = true) := by decide
theorem test_LoadArrival_run : goes (exec (.loadReturn homeRef 5) (loaded (.lane 7 1) false)) (fun s => s.v 7 31 == w32 9 && s.g.pset.isEmpty && s.g.pc == 4) = true := by
  decide
/-- A read of line 0 under key 0 by tag 3 at channel 0, and the answer to it. -/
def stackReq : StackReq := ⟨0, 0, BitVec.ofNat 128 (3 * 16), []⟩
def stackReply : StackReply := ⟨0, 0, BitVec.ofNat 128 (3 * 16), List.replicate 32 (w32 7)⟩
theorem test_StackPorts_requests : home.portSeen.contains (portKey 0 (reqTag stackReq.hdr)) = false ∧
    ({ home with portSeen := [3] } : State).portSeen.contains (portKey 0 (reqTag stackReq.hdr)) = true := by decide
theorem test_StackPorts_replies : tfind ({ home with stackTags := [(3, 0)] } : State).stackTags (portKey 0 (replyTag stackReply.hdr)) = some 0 ∧
    tfind ({ home with stackTags := [(3, 1)] } : State).stackTags (portKey 0 (replyTag stackReply.hdr)) = some 1 ∧
    tfind home.l2 (1 / 2) = none ∧ home.keeps (1 / 2) = true ∧ replyStatus stackReply.hdr ≠ 3 := by decide
/-- Line 4 with eight bad symbols, line 6 with nine. -/
def worn : State := { home with syms := [(4, [0, 159, 3, 4, 5, 6, 7, 8]), (6, [0, 1, 2, 3, 4, 5, 6, 7, 8])] }
theorem test_StackPorts_scrub : ((worn.settle 4).badSyms 4).length = 8 ∧ 8 < ((worn.settle 6).badSyms 6).length := by decide
/-- Channel 3 with so many failed pins that no codeword of it can be decoded: every row calls for repair, whatever the firmware's threshold is. -/
def pinned : State := { home with
  pins := [(3, [0, 9, 18, 27, 36])]
  spareRows := [(3, 63)] }
theorem test_StackPorts_row : pinned.rowDue 3 5 = true ∧ tget pinned.spareRows (0 * 64 + 3) 0 < 64 := by
  refine ⟨?_, by decide⟩
  unfold State.rowDue
  rw [Bool.or_eq_true, Bool.or_eq_true]
  exact .inl (.inr (by decide))
theorem test_StackPorts_healthyRow (h : 0 < Config.rowThreshold) : home.rowDue 3 5 = false := by
  unfold State.rowDue
  have h0 : tget home.rowFixed (3 * 2 ^ 32 + 5) 0 = 0 := by decide
  have h1 : home.syms = [] := by decide
  have h2 : (sortNat ((tget home.pins 3 []).flatMap pinSymbols)).length = 0 := by decide
  rw [h0, h1, h2]
  simp; omega
/-- A write acknowledgement that waits for the base die leaves with its reply. -/
theorem test_StackPorts_ack : goes (exec (.stackWriteAck ⟨0, 0, BitVec.ofNat 128 (3 * 16), []⟩) { home with
    stackTags := [(3, 0)]
    portAcks := [(3, mkPacket 3 0 0 1 5 0 0 false 1 [])] }) (fun s => s.flight.length == 1 && s.portAcks == [] && s.stackTags == []) = true := by decide
theorem test_StackPorts_run : goes (exec (.patrolScrub 4) { home with syms := [(4, [0, 159])] }) (fun s => s.syms == []) = true := by decide

/-- A request to the home of line 0 under key 0 from die 1. -/
def req (cls mtype : Nat) (m : BitVec 32) (flits : List (List Word)) : Packet := mkPacket cls mtype 1 0 5 0 0 false m flits
/-- The slice holds line 0; core 64 of die 1 has a registration outstanding. -/
def cachedLine : State := { home with
  l2 := [(0, ⟨List.replicate 32 (w32 7), false⟩)]
  txns := [⟨1, 4, 5, .reg 65, req 4 0 0x80000001 [], false, false, 0, 0⟩] }
def homeFree (s : State) (p : Packet) : Bool :=
  let s1 := s.settle (tagLine (pktTag p))
  pktOk p && !s.homeQ.any (fun q => pktTag q == pktTag p) && (tfind s1.l2 (pktTag p)).isSome &&
  (s1.ownLine (pktTag p)).owners == [] && (s1.ownLine (pktTag p)).holders == [] && (s1.ownLine (pktTag p)).asked == [] &&
  !s1.stackTags.any (fun e => e.2 / 2 == pktTag p) && (tfind s1.keys (tagKey (pktTag p))).isSome && !s1.streams p && !s1.performed1 p
theorem homeFree_spec {s : State} {p : Packet} (h : homeFree s p = true) : s.HomeFree p (s.settle (tagLine (pktTag p))) := by
  simp only [homeFree, Bool.and_eq_true, Bool.not_eq_true', beq_iff_eq] at h
  obtain ⟨⟨⟨⟨⟨⟨⟨⟨⟨h1, h2⟩, h3⟩, h4⟩, h5⟩, h6⟩, h7⟩, h8⟩, h9⟩, h10⟩ := h
  exact ⟨h1, h2, rfl, h3, ⟨h4, h5, h6⟩, h7, h8, h9, h10⟩
/-- One request of each kind that a home serves, at masks that name the first, the last and every word. -/
def homeReqs : List Packet := [req 0 0 1 [], req 0 1 0x80000000 [], req 5 0 0xffffffff [], req 5 8 1 [], req 0 2 0 [],
  req 1 0 1 (windowFlits 1 [w32 3]), req 5 1 1 (windowFlits 1 [w32 3]), req 5 9 1 (windowFlits 1 [w32 3]),
  req 1 1 1 (maskFlit 15 :: windowFlits 1 [w32 3]), req 5 2 1 (maskFlit 1 :: windowFlits 1 [w32 3]), req 5 10 1 (maskFlit 1 :: windowFlits 1 [w32 3]),
  req 1 3 1 [List.replicate 8 Word.zero], req 1 4 0xffffffff [], req 4 0 0x80000000 []]
theorem test_HomeRequests_hyps : ∀ p ∈ homeReqs, ∃ s1, cachedLine.HomeFree p s1 := by
  intro p hp
  exact ⟨_, homeFree_spec ((show ∀ q ∈ homeReqs, homeFree cachedLine q = true by decide) p hp)⟩
theorem test_HomeRequests_kinds : (homeReqs.map (fun p => (p.hdr.cls.toNat, p.hdr.mtype.toNat))) =
    [(0, 0), (0, 1), (5, 0), (5, 8), (0, 2), (1, 0), (5, 1), (5, 9), (1, 1), (5, 2), (5, 10), (1, 3), (1, 4), (4, 0)] ∧
    cachedLine.redFaults = 0 ∧ cachedLine.lineLost 0 = false := by decide
theorem test_HomeRequests_sender : cachedLine.senderCore (req 4 0 0x80000000 []) = some 65 ∧
    (cachedLine.sourceTxn (req 4 0 0x80000000 [])).map (fun t => t.pkt.hdr.aux) = some 0x80000001 ∧ (cachedLine.registryOf (chanOf 0)).length < 4096 := by decide
theorem test_HomeRequests_run : goes (exec (.write (req 1 0 1 (windowFlits 1 [w32 3]))) cachedLine) (fun s =>
    (s.homeLine 0).getD 0 Word.zero == w32 3 && (s.homeLine 0).getD 1 Word.zero == w32 7 && s.flight.length == cachedLine.flight.length + 1) = true := by decide

/-- A message of class 4 to core 0 of die 0 about line 0. -/
def toCore (cls mtype : Nat) (m : BitVec 32) : Packet := mkPacket cls mtype 1 0 5 (coreField 0 0) 0 false m []
def owning (dirty : Bool) : State := { home with l1 := [(l1Key 0 0 0, ⟨.owned dirty, w32 3⟩), (l1Key 0 0 31, ⟨.owned dirty, w32 4⟩)] }
theorem test_CoreMessages_hyps : pktOk (toCore 0 3 0x80000001) = true ∧ pktOk (toCore 4 1 0x80000001) = true ∧ pktOk (toCore 4 2 0) = true ∧
    (∀ i < 32, bit (0x80000001#32) i = true → tfind (owning true).l1 (l1Key (addressee (toCore 0 3 0x80000001)) (pktTag (toCore 0 3 0x80000001)) i) =
      some ⟨.owned true, if i = 0 then w32 3 else w32 4⟩) ∧
    (∀ i < 32, bit (0x80000001#32) i = true → tfind (owning false).l1 (l1Key (addressee (toCore 4 1 0x80000001)) (pktTag (toCore 4 1 0x80000001)) i) =
      some ⟨.owned false, if i = 0 then w32 3 else w32 4⟩) := by decide
/-- The home registers words 0 and 31 to core 65; core 65 writes back, core 65's clean answer and partials are awaited. -/
def registered : State := { home with
  own := [(0, { OwnLine.empty 0 with owners := [(0, 65), (31, 65)] })]
  txns := [⟨1, 1, 5, .writeback 65, req 1 2 0x80000001 [], false, false, 0, 0⟩, ⟨0, 4, 6, .home, mkPacket 4 1 0 1 6 (coreField 0 1) 0 false 1 [], false, false, 0, 0⟩] }
theorem test_CoreMessages_writeback : pktOk (req 1 2 0x80000001 (windowFlits 0x80000001 [w32 3, w32 4])) = true ∧
    registered.senderCore (req 1 2 0x80000001 (windowFlits 0x80000001 [w32 3, w32 4])) = some 65 ∧
    (registered.sourceTxn (req 1 2 0x80000001 (windowFlits 0x80000001 [w32 3, w32 4]))).map (fun t => 0x80000001#32 &&& ~~~ t.pkt.hdr.aux) = some 0 ∧
    (∀ i < 32, bit (0x80000001#32) i = true → (i, 65) ∈ (registered.ownLine 0).owners) := by decide
/-- The home's own request 6, and an answer to it. -/
def homeTxn : Txn := ⟨0, 4, 6, .home, mkPacket 4 1 0 1 6 (coreField 0 1) 0 false 1 [], false, false, 0, 0⟩
/-- The home's request for partials. -/
def partTxn : Txn := ⟨0, 4, 6, .home, mkPacket 4 2 0 1 6 (coreField 0 1) 0 false 0 [], false, false, 0, 0⟩
def answer (cls mtype : Nat) (m : BitVec 32) : Packet := mkPacket cls mtype 1 0 6 0 0 false m []
/-- Partials of line 0 are asked for of two cores, one of which has answered when `b`. -/
def asked (b : Bool) : State := { registered with txns := [partTxn], own := [(0, { OwnLine.empty 0 with
  asked := [1, 65]
  partials := if b then [(65, [])] else [] })] }
theorem test_CoreMessages_answers : (∃ t, registered.Awaited (answer 3 1 1) t ∧ t.agent = .home ∧ t.pkt.hdr.cls = 4) ∧
    (∀ b : Bool, ∃ t, (asked b).Awaited (mkPacket 2 4 1 0 6 0 0 false 1 (windowFlits 1 [w32 3])) t ∧ t.agent = .home ∧
      (let u := ((asked b).dropTxn t).modOwn 0 (fun o => { o with partials := o.partials ++ [(addressee t.pkt, [])] })
       ((u.ownLine 0).partials.length < (u.ownLine 0).asked.length) = (b = false))) := by
  refine ⟨⟨homeTxn, ⟨by decide, by decide⟩, rfl, rfl⟩, fun b => ⟨partTxn, ?_, rfl, ?_⟩⟩
  · cases b <;> exact ⟨by decide, by decide⟩
  · cases b <;> decide
/-- The request that core 0 of die 0 has outstanding under number 6: of the class and type that the answer's type answers. -/
def awaiting (a : Agent) (retried : Bool) (cls mtype : Nat) : State := { home with
  txns := [⟨0, cls, 6, a, mkPacket cls mtype 0 1 6 0 0 false 1 [], retried, false, 0, 77⟩]
  own := [(0, { OwnLine.empty 0 with owners := [(0, 0)] })]
  l1 := [(l1Key 0 0 0, ⟨.pending [homeRef] false [(15, w32 3)], w32 3⟩)] }
/-- The answers of the statement: the agent, the request's class and type, the answer's. -/
def replyKinds : List (Agent × Nat × Nat × Nat × Nat) := [(.load homeRef 5 false, 0, 1, 2, 0), (.load homeRef 5 false, 0, 1, 2, 1), (.reg 0, 4, 0, 2, 2),
  (.atom homeRef 5 0, 1, 3, 2, 3), (.store homeRef, 1, 0, 3, 0), (.slot homeRef 0, 6, 0, 3, 4), (.store homeRef, 1, 0, 3, 2), (.load homeRef 5 true, 0, 1, 3, 3),
  (.store homeRef, 1, 0, 3, 3)]
def replyTo (x : Agent × Nat × Nat × Nat × Nat) : Packet := mkPacket x.2.2.2.1 x.2.2.2.2 1 0 6 0 0 false (if x.2.2.2.1 = 2 then 1 else 0)
  (if x.2.2.2.1 = 2 ∧ x.2.2.2.2 ≠ 2 then windowFlits 1 [w32 9] else [])
theorem test_Replies_hyps : ∀ x ∈ replyKinds, ∀ b : Bool, pktOk (replyTo x) = true ∧
    ((awaiting x.1 b x.2.1 x.2.2.1).txnFor (replyTo x)).map (fun t => (t.agent == x.1, t.retried)) = some (true, b) := by decide
theorem test_Replies_grant : (∀ i < 32, bit (1#32) i = true → tfind (awaiting (.reg 0) false 4 0).l1 (l1Key 0 0 i) = some ⟨.pending [homeRef] false [(15, w32 3)], w32 3⟩) ∧
    home.twin.lostDies.contains 1 = false ∧ homeRef.die ≠ kilnDie ∧ ((awaiting (.store homeRef) true 1 0).teamAt (grpKey homeRef)).isSome = true := by decide
theorem test_Replies_run : goes (exec (.grant (replyTo (.reg 0, 4, 0, 2, 2))) (awaiting (.reg 0) false 4 0)) (fun s =>
    (tfind s.l1 (l1Key 0 0 0)) == some ⟨.owned true, w32 3⟩ && s.txns.isEmpty) = true := by decide

/-! ### Witnesses: hub, links, ports -/

/-- A window for slot 3 of the test team's channel 0. -/
def slotPkt (n : Nat) : Packet := mkPacket 6 0 0 0 5 (slotWord homeTeam 0 n) 0 false 0xffffffff (windowFlits 0xffffffff (List.replicate 32 (w32 7)))
/-- A message of class 7 from die 0 with these first words. -/
def hubPkt (mtype pa : Nat) (ws : List Nat) : Packet := mkPacket 7 mtype 0 8 5 pa 0 false 0
  [(List.range 8).map (fun i => w32 (ws.getD i 0)), List.replicate 8 Word.zero]
theorem test_HubMessages_slot : pktOk (slotPkt 3) = true ∧ slotTeam (slotPkt 3) = 0 ∧
    ((homeC 3).teamAt 0).map (fun t => (t.grid, tget t.chans 0 ⟨0, 0⟩)) = some (1, ⟨3, 0⟩) ∧ field (slotPkt 3).hdr.paWord.toNat 5 6 = 0 ∧
    field (slotPkt 3).hdr.paWord.toNat 16 6 = 3 ∧ (homeC 3).scrHeld 0 384 128 = false ∧
    goes (exec (.slot (slotPkt 3)) (homeC 3)) (fun s => s.scrWord 0 96 == w32 7 && (s.endpoint 0).sent == 4) = true := by decide
theorem test_HubMessages_credit : (homeC 3).unfocus.focus = .none ∧ (tfind (homeC 3).unfocus.teams (slotTeam (mkPacket 6 1 0 0 5 (slotWord homeTeam 0 3) 0 false 0 []))).isSome = true ∧
    pktOk (mkPacket 6 1 0 0 5 (slotWord homeTeam 0 3) 0 false 0 []) = true ∧ ((3#32) - 0).toNat ≤ ((3#32) - 0).toNat := by decide
theorem test_HubMessages_others : pktOk (hubPkt 0 0 []) = true ∧ (hubPkt 0 0 []).hdr.paWord.toNat % 65536 = 0 ∧
    pktOk (hubPkt 0 1 []) = true ∧ (hubPkt 0 1 []).hdr.paWord.toNat % 65536 ≠ 0 ∧ pktOk (hubPkt 2 256 []) = true ∧
    (field (nth ((hubPkt 2 255 []).flits.flatMap (fun f => f)) 3).data.toNat 12 4 = 0 ∧ home.ownerOf 0 = some 0) ∧
    pktOk (hubPkt 3 0 [1, 1]) = true ∧ (nth ((hubPkt 3 0 [1, 1]).flits.flatMap (fun f => f)) 0).data = 1 ∧
    pktOk (hubPkt 4 0 [0, 1, 0, 0]) = true ∧ (nth ((hubPkt 4 0 [0, 1]).flits.flatMap (fun f => f)) 0).data = 0 ∧
    ofWords ((((hubPkt 4 0 [0, 1]).flits.flatMap (fun f => f)).drop 1).take 2) = 1 ∧
    (tfind home.unfocus.grids 1).map (fun e => e.reports.contains 0) = some false ∧
    (tfind ({ home with grids := [(1, { homeGrid with reports := [0] })] } : State).unfocus.grids 1).map (fun e => e.reports.contains 0) = some true := by decide
theorem test_HubMessages_status : ∃ u : Txn, ({ home with txns := [⟨8, 7, 5, .status 3, hubPkt 0 0 [], false, false, 0, 0⟩] } : State).Awaited
    (mkPacket 7 1 3 8 5 0 0 false 0 [List.replicate 8 Word.zero, List.replicate 8 Word.zero]) u ∧ u.agent = .status 3 := ⟨_, ⟨by decide, rfl⟩, rfl⟩
theorem test_MeshLinks_hyps : let s : State := { home with links := [(0, { Link.initial with fails := 15 }), (1, { Link.initial with
      state := 1
      lanesUsed := 1 })] }
    15 ≤ (s.link 0).fails ∧ (s.link 0).state = 0 ∧ (s.link 1).state = 1 ∧ (s.link 1).lanesUsed + 1 ≤ 2 := by decide
theorem test_MeshLinks_run : let s : State := { home with links := [(0, { Link.initial with fails := 15 })] }
    goes (exec (.flitCrcFail 0) s) (fun t => (t.link 0).state == 1 && (t.link 0).fails == 0) = true := by decide
/-- A host port with an IPv4 address. -/
def ported : State := { home with portRecs := [(0, List.replicate 16 0 ++ [64, 24, 0, 0, 4, 3, 2, 10] ++ List.replicate 120 0)] }
/-- An ARP frame for it: operation, and both protocol addresses. -/
def arpFrame (op : Nat) : EthFrame := ⟨0, Config.mac 0, 5, [], 0x0806,
  [0, 1, 8, 0, 6, 4, 0, BitVec.ofNat 8 op, 0, 0, 0, 0, 0, 5, 10, 2, 3, 9, 0, 0, 0, 0, 0, 0, 10, 2, 3, 4]⟩
theorem taken {s : State} {f : EthFrame} (h : frameLen f.tags.length f.payload.length ≤ 9216) (ht : f.tags.length ≤ 1) (hp : isHostPort f.port = true)
    (he : f.etype = 0x86dd ∨ (f.etype = 0x0806 ∧ prIp4Len (s.portRec f.port) ≠ 0)) (hm : f.dstMac = Config.mac f.port) : s.frameTaken f = true := by
  unfold State.frameTaken State.frameWhy
  simp only [hp, hm]
  rw [if_neg (by omega), if_neg (by omega)]
  rcases he with he | ⟨he, hn⟩ <;> simp [*]
theorem test_EthernetPorts_arp : (arpFrame 1).port < 2 ∧ ported.frameTaken (arpFrame 1) = true ∧ ported.frameTaken (arpFrame 2) = true ∧
    (arpFrame 1).etype = 0x0806 ∧ netAt (arpFrame 1).payload 6 2 = 1 ∧
    netAt (arpFrame 1).payload 24 4 = prIp4 (ported.portRec 0) ∧ netAt (arpFrame 2).payload 6 2 = 2 :=
  ⟨by decide, taken (by decide) (by decide) (by decide) (.inr (by decide)) rfl, taken (by decide) (by decide) (by decide) (.inr (by decide)) rfl,
    rfl, by decide, by decide, by decide⟩
/-- A neighbor-discovery frame of this kind for target zero. -/
def ndFrame (kind : Nat) : EthFrame := ⟨0, Config.mac 0, 5, [], 0x86dd,
  [0x60, 0, 0, 0, 0, 24, 58, 255] ++ List.replicate 32 0 ++ [BitVec.ofNat 8 kind] ++ List.replicate 23 0⟩
/-- A port without an address yet. -/
def bare : State := { home with portRecs := [(0, List.replicate 16 0 ++ [64, 0, 0, 197] ++ List.replicate 124 0)] }
theorem test_EthernetPorts_nd : bare.frameTaken (ndFrame 135) = true ∧ bare.frameTaken (ndFrame 136) = true ∧ netAt (ndFrame 135).payload 6 1 = 58 ∧
    netAt (ndFrame 135).payload 40 1 = 135 ∧ netAt (ndFrame 136).payload 40 1 = 136 ∧
    ipOf (((ndFrame 135).payload.drop 48).take 16) = prIp6 (bare.portRec 0) :=
  ⟨taken (by decide) (by decide) (by decide) (.inl (by decide)) rfl, taken (by decide) (by decide) (by decide) (.inl (by decide)) rfl, by decide, by decide,
    by decide, by decide⟩
theorem test_EthernetPorts_drop : home.dropWhy ⟨0, 0, 0, [1, 2], 0x86dd, []⟩ = some .tags ∧ home.dropWhy ⟨1, 0, 0, [], 0x86dd, List.replicate 9300 0⟩ = some .size :=
  ⟨by rfl, by rfl⟩
/-- Host port 0 has been down for a minute after seven failovers; path 1 is bound to it. -/
def downPort : State := { home with
  gtime := 70000000000
  paths := [(1, { PathSt.initial with ctx := 64 })]
  ports := [(0, { Port.initial with
    up := false
    failTimes := List.replicate 7 60000000000 })] }
theorem test_EthernetPorts_rebind : (downPort.port 0).up = false ∧ (downPort.port 0).downAt + 50000 ≤ downPort.gtime ∧ (downPort.port (1 - 0)).up = true ∧
    (downPort.port (1 - 0)).retired = false ∧ downPort.boundTo 0 = [1] ∧ downPort.portSpent 0 = true ∧ home.portSpent 0 = false ∧
    (home.port 0).up = true := by decide

/-! ### Witnesses: THT packets and Perit frames -/

/-- A port's record with every field inside its limits. -/
def portBody : List Byte := [0x20] ++ List.replicate 14 0 ++ [1, 64, 0, 0, 197] ++ List.replicate 20 1 ++ List.replicate 4 0 ++ List.replicate 4 0 ++ List.replicate 96 0
/-- Path 1 is open for partition 0 with every permission and MTU 1,024; the first 8 GiB of its address space are mapped by page tables. -/
def pathed : State :=
  let put := fun (s : State) (pa x : Nat) => (s.setRaw (pa / 128) (pa / 4 % 32) (w32 x)).setRaw (pa / 128) (pa / 4 % 32 + 1) (w32 (x / 2 ^ 32))
  let s := put (put home 0x4002000 (1 + 0x2002 * 2 ^ 12)) 0x4004000 0xff
  { s with
    portRecs := [(0, portBody)]
    paths := [(1, { PathSt.initial with ctx := BitVec.ofNat 256 (64 + 7 * 2 ^ 17 + homeAsid.toNat * 2 ^ 32) })] }
/-- A packet on path 1. -/
def tht (op : Nat) (addr imm : BitVec 64) (payload : List Byte) (psn : BitVec 24 := 0) (code : Nat := 0) : ThtPacket :=
  let h := thtHdr imm addr 0 payload.length 1 code psn false true op
  ⟨0, 0, 0, prIp6 portBody, BitVec.ofNat 16 (prThtPort portBody), false, none, h, payload, crc32c (thtBytes h payload)⟩
def thtHere (s : State) (f : ThtPacket) (op : Nat) : Bool :=
  (s.thtWhy f).isNone && !s.twin.failed && thOp f.hdr == op && 
  (if thPath f.hdr = 0 then pcState s.path0.ctx != 2 else pcState (s.path (thPath f.hdr)).ctx == 1) && thtFormatOk (s.thtMtu f) f
theorem thtHere_spec {s : State} {f : ThtPacket} {op : Nat} (h : thtHere s f op = true) : s.ThtHere f op := by
  simp only [thtHere, Bool.and_eq_true, Bool.not_eq_true', beq_iff_eq, Option.isNone_iff_eq_none] at h
  obtain ⟨⟨⟨⟨h1, h2⟩, h3⟩, h4⟩, h5⟩ := h
  refine ⟨h1, h2, h3, ?_, h5⟩
  split at h4 <;> rename_i h0
  · rw [if_pos h0]; exact bne_iff_ne.1 h4
  · rw [if_neg h0]; exact beq_iff_eq.1 h4
/-- Port 0 lets half of all sources speak on path 0. -/
def allowing : State := { pathed.unfocus with portRecs := [(0, portBody.take 48 ++ List.replicate 16 0 ++ [1] ++ List.replicate 79 0)] }
/-- A packet on path 0. -/
def tht0 (op : Nat) (imm : BitVec 64) (payload : List Byte) (psn : BitVec 24 := 0) (code : Nat := 0) : ThtPacket :=
  let h := thtHdr imm 0 0 payload.length 0 code psn false true op
  ⟨0, 0, 0, prIp6 portBody, BitVec.ofNat 16 (prThtPort portBody), false, none, h, payload, crc32c (thtBytes h payload)⟩
theorem test_ThtPackets_path0 : allowing.ThtHere (tht0 7 0 [0x12]) 7 ∧ allowing.ThtHere (tht0 7 0 [3] 9) 7 ∧ allowing.ThtHere (tht0 2 4 []) 2 ∧
    allowing.ThtHere (tht0 9 0 []) 9 ∧ allowing.ThtHere (tht0 10 0 [] 0 1) 10 ∧ thPath (tht0 7 0 [3]).hdr = 0 ∧ allowing.path0.psnIn = 0 :=
  ⟨thtHere_spec (by decide), thtHere_spec (by decide), thtHere_spec (by decide), thtHere_spec (by decide), thtHere_spec (by decide), by decide, by decide⟩
theorem test_ThtPackets_marked : pathed.unfocus.ThtHere { tht 1 8 0 [1, 2, 3, 4] with ce := true } 1 ∧
    ((pathed.unfocus.thtTaken { tht 1 8 0 [1, 2, 3, 4] with ce := true }).path 1).echo = true := ⟨thtHere_spec (by decide), by decide⟩
theorem servedAs {x : Served} {b : Bool} (h : x.nak = 0) (hr : x.resp = b) : ∃ u, x = ⟨u, 0, b⟩ := by
  obtain ⟨u, n, r⟩ := x
  cases h; cases hr; exact ⟨u, rfl⟩
theorem test_ThtPackets_requests : pathed.ThtHere (tht 1 8 0 [1, 2, 3, 4]) 1 ∧ pathed.ThtHere (tht 2 8 1024 []) 2 ∧
    pathed.ThtHere (tht 4 8 0 (List.replicate 16 1)) 4 ∧ pathed.ThtHere (tht 6 0 (2 ^ 32) []) 6 ∧ pathed.ThtHere (tht 7 0 0 [3]) 7 ∧
    thPsn (tht 1 8 0 [1, 2, 3, 4]).hdr = (pathed.path 1).psnIn :=
  ⟨thtHere_spec (by decide), thtHere_spec (by decide), thtHere_spec (by decide), thtHere_spec (by decide), thtHere_spec (by decide), by decide⟩
theorem test_ThtPackets_served : (∃ u, pathed.hostWrite 1 8 [1, 2, 3, 4] = ⟨u, 0, false⟩) ∧ (∃ u, pathed.hostRead (tht 2 8 16 []) = ⟨u, 0, true⟩) ∧
    (∃ u, pathed.hostNotify (tht 6 0 (2 ^ 32) []) = ⟨u, 0, false⟩) :=
  ⟨servedAs (by decide) (by decide), servedAs (by decide) (by decide), servedAs (by decide) (by decide)⟩
theorem test_ThtPackets_atomic : ∃ u, pathed.hostAtomic (tht 4 8 0 (List.replicate 16 1)) = ⟨u, 0, true⟩ := servedAs (by decide) (by decide)
/-- A request of the device awaits its answer at PSN 9. -/
def asking (op imm : Nat) : State := pathed.modPath 1 (fun p => { p with
  buf := [⟨9, thtHdr (BitVec.ofNat 64 imm) 8 0 0 1 0 9 false false op, [], 0, .home⟩]
  unacked := 1 })
theorem test_ThtPackets_answers : (asking 2 4).ThtHere (tht 3 8 0 [1, 2, 3, 4] 9) 3 ∧ (asking 4 0).ThtHere (tht 5 0 0 (List.replicate 8 1) 9) 5 ∧
    (∃ q, ((asking 2 4).path 1).buf.find? (fun q => q.psn == 9) = some q ∧ q.op = 2 ∧ field (thImm q.hdr).toNat 0 13 = 4) ∧
    (∃ q, ((asking 4 0).path 1).buf.find? (fun q => q.psn == 9) = some q ∧ q.op = 4) ∧
    pathed.ThtHere (tht 8 0 0 []) 8 ∧ pathed.ThtHere (tht 9 0 0 []) 9 ∧ pathed.ThtHere (tht 10 0 0 [] 0 1) 10 ∧ pathed.ThtHere (tht 10 0 0 [] 0 6) 10 ∧
    pcState ((asking 2 4).path 1).ctx = 1 ∧ 0 < ((asking 2 4).path 1).unacked ∧ ((asking 2 4).path 1).buf ≠ [] :=
  ⟨thtHere_spec (by decide), thtHere_spec (by decide), ⟨_, rfl, by decide, by decide⟩, ⟨_, rfl, by decide⟩, thtHere_spec (by decide),
    thtHere_spec (by decide), thtHere_spec (by decide), thtHere_spec (by decide), by decide, by decide, by decide⟩
/-- A frame from device 2 with these packets. -/
def perit (kind : Nat) (ps : List Packet) : PeritFrame :=
  let h := BitVec.ofNat 128 (1 + kind * 16 + ps.length * 2 ^ 56 + 2 * 2 ^ 64 + ownDev.toNat * 2 ^ 80)
  ⟨2, h, ps, crc32c (peritBytes h ps)⟩
theorem perit_ok (kind : Nat) (ps : List Packet) (hk : kind = 0 ∧ 1 ≤ ps.length ∧ ps.length ≤ 8 ∨ (kind = 1 ∨ kind = 2) ∧ ps = []) :
    peritOk (perit kind ps) = true ∧ phKind (perit kind ps).hdr = kind ∧ phSeq (perit kind ps).hdr = 0 ∧ phSrc (perit kind ps).hdr = 2 := by
  have hd : ownDev.toNat < 2 ^ 16 := ownDev.isLt
  have hkl : kind < 3 := by omega
  have hpl : ps.length ≤ 8 := by rcases hk with h | ⟨-, rfl⟩; exacts [h.2.2, by simp]
  have hn : (perit kind ps).hdr.toNat = 1 + kind * 16 + ps.length * 2 ^ 56 + 2 * 2 ^ 64 + ownDev.toNat * 2 ^ 80 := by
    simp only [perit, BitVec.toNat_ofNat]; omega
  have e1 : phKind (perit kind ps).hdr = kind := by unfold phKind field; rw [hn]; omega
  have e2 : phNpkt (perit kind ps).hdr = ps.length := by unfold phNpkt field; rw [hn]; omega
  have e3 : phDst (perit kind ps).hdr = ownDev := by
    unfold phDst field; rw [hn]; apply BitVec.eq_of_toNat_eq; rw [BitVec.toNat_ofNat]; omega
  have e4 : phVer (perit kind ps).hdr = 1 := by unfold phVer field; rw [hn]; omega
  have e5 : field (perit kind ps).hdr.toNat 60 4 = 0 := by unfold field; rw [hn]; omega
  have e6 : phHandle (perit kind ps).hdr = 0 := by
    unfold phHandle field; rw [hn]; apply BitVec.eq_of_toNat_eq; rw [BitVec.toNat_ofNat]; change _ = 0; omega
  refine ⟨?_, e1, ?_, ?_⟩
  · unfold peritOk
    rw [e1, e2, e3, e4, e5, e6]
    have hp : (perit kind ps).packets = ps := rfl
    rw [hp]
    rcases hk with ⟨rfl, h1, h2⟩ | ⟨rfl | rfl, rfl⟩
    · simp [perit, h1, h2]
    · simp [perit]
    · simp [perit]
  · unfold phSeq field; rw [hn]; apply BitVec.eq_of_toNat_eq; rw [BitVec.toNat_ofNat]; change _ = 0; omega
  · unfold phSrc field; rw [hn]; apply BitVec.eq_of_toNat_eq; rw [BitVec.toNat_ofNat]; change _ = 2; omega
theorem test_PeritFrames_hyps : peritOk (perit 0 [req 0 0 1 []]) = true ∧ phKind (perit 0 [req 0 0 1 []]).hdr = 0 ∧ peritOk (perit 1 []) = true ∧
    phKind (perit 1 []).hdr = 1 ∧ peritOk (perit 2 []) = true ∧ phKind (perit 2 []).hdr = 2 :=
  ⟨(perit_ok 0 _ (by decide)).1, (perit_ok 0 _ (by decide)).2.1, (perit_ok 1 _ (by decide)).1, (perit_ok 1 _ (by decide)).2.1,
    (perit_ok 2 _ (by decide)).1, (perit_ok 2 _ (by decide)).2.1⟩
/-- A frame is kept for device 2. -/
def kept : State := { home with peersSt := [(2, { Peer.initial with
  unacked := 1
  buf := [(0, 0, perit 1 [])] })] }
theorem test_PeritFrames_peer : 0 < (kept.peer 2).unacked ∧ (kept.peer 2).buf = [(0, 0, perit 1 [])] ∧ 2 ≤ (perit 1 []).port ∧ (perit 1 []).port < 10 :=
  ⟨by decide, rfl, by decide, by decide⟩
theorem test_PeritFrames_data : phSeq (perit 0 [answer 3 0 0]).hdr = ((kept.unfocus.peritAcked 2 0).peer 2).seqIn ∧
    ∃ u, (kept.unfocus.peritAcked 2 0).peritPackets 2 (perit 0 [answer 3 0 0]) = some u := by
  constructor
  · rw [(perit_ok 0 [answer 3 0 0] (by decide)).2.2.1]; decide
  · have h : (((perit 0 [answer 3 0 0]).packets.filter pktOk).filter isPeerRequest) = [] := by decide
    unfold State.peritPackets
    simp only [h, List.foldl_nil, List.isEmpty_nil, if_true]
    exact ⟨_, rfl⟩
/-- A handle of partition 0 for device 2, live or revoked. -/
def handle (live : Bool) : Handle := ⟨1, 0, 8192, 0, 7, 2, 0, 0, live⟩
def held (live : Bool) : State := { pathed with handles := [handle live] }
theorem test_PeritFrames_handle : (held false).handles.find? (fun x => x.id == (handle false).id) = some (handle false) ∧ (handle false).live = false ∧
    handleAdmits (handle false) 2 (req 0 0 1 []) = false := by decide

/-! ### Witnesses: management -/

/-- A management request of path 1 for partition 0, or of path 0. -/
def mgmt (path : Nat) (arg : BitVec 64) (body : List Byte) (part : BitVec 8 := 0) : MgmtReq := ⟨path, 0, 0, 0, 0, none, 0, part, 0, arg, body⟩
theorem test_ManagementRequests_right : (∀ (a : BitVec 64) (b : List Byte) (p : BitVec 8), pathed.unfocus.MgmtOk (mgmt 0 a b p) false) ∧
    (∀ (a : BitVec 64) (b : List Byte), pathed.unfocus.MgmtOk (mgmt 1 a b) true) :=
  ⟨fun _ _ _ => ⟨by decide, by decide, .inr (by decide), .inl rfl, rfl⟩, fun _ _ => ⟨by decide, by decide, .inl (show (1 : Nat) ≠ 0 by decide), .inr ⟨rfl, show (0#8).toNat = pcPart (pathed.unfocus.path 1).ctx by decide⟩, rfl⟩⟩
/-- An entry for partition 1: key 8,191, queue 1,023 and die 0, which partition 0 of the machine after reset does not hold. -/
def newEntry : List Byte := bytesOf 8 (2 ^ 6 + 8191 * 2 ^ 20 + 1023 * 2 ^ 33 + 2 ^ 43 + 2 ^ 54 + 2 ^ 56)
theorem test_ManagementRequests_partSet : let s0 := State.reset.unfocus
    let e : BitVec 64 := BitVec.ofNat 64 (ofBytes newEntry)
    newEntry.length = 8 ∧ (∀ q < 8, peValid (s0.part q).entry = false) ∧ peQBase e + peQCount e ≤ 1024 ∧ peKBase e + peKCount e ≤ 8192 ∧
    peValid e = true ∧ peDies e ≠ 0 ∧ peState (s0.part 1).entry ≠ 1 ∧ peState (s0.part 1).entry ≠ 2 ∧ s0.MgmtOk (mgmt 0 0 newEntry 1) false := by
  refine ⟨by decide, by decide, by decide, by decide, by decide, by decide, by decide, by decide, ⟨by decide, by decide, .inr (by decide), .inl rfl, rfl⟩⟩
/-- A path's record with its state: MTU 1,024, every permission. -/
def pathBody (st : Nat) : List Byte := bytesOf 32 (st * 64 + 7 * 2 ^ 17) ++ List.replicate 8 0
theorem test_ManagementRequests_paths : (4095#64).toNat < 4096 ∧ (pathBody 1).length = 40 ∧ pcOk (pcOf (pathBody 1)) = true ∧ pcState (pcOf (pathBody 1)) = 1 ∧
    pcState (pathed.unfocus.path 4095).ctx ≠ 1 ∧ (pathBody 0).length = 40 ∧ pcOk (pcOf (pathBody 0)) = true ∧ pcState (pcOf (pathBody 0)) = 0 ∧
    (pathed.unfocus.path 1).buf = [] := by decide
theorem test_ManagementRequests_fwStage : [(1 : Byte)] ≠ [] ∧ (0x3ffffff#64).toNat + [(1 : Byte)].length ≤ 2 ^ 26 := by decide
/-- An image is staged. -/
def stagedState (kiln : Bool) : State := { (if kiln then (onEngine 3).unfocus else home.unfocus) with
  twin := { home.twin with staging := [(1400, 1)] } }
theorem test_ManagementRequests_fwActivate : ∀ k : Bool, (stagedState k).unfocus.twin.activating = none ∧ 1352 < (stagedState k).unfocus.stagedLen ∧
    ((stagedState k).unfocus.kilns = [] ↔ k = false) := by decide
theorem test_ManagementRequests_drain : peState (pathed.unfocus.part 0).entry = 1 ∧ peState ((pathed.unfocus.setPartState 0 2).unfocus.part 0).entry = 2 := by decide
theorem test_ManagementRequests_limits : (2000 ≤ (2000#64).toNat ∧ (2000#64).toNat ≤ 7500) ∧ ((63 : BitVec 64).toNat < 64 ∧ (List.replicate 32 (0 : Byte)).length = 32 ∧
    winFits (pathed.unfocus.part 0).windows 63 (winOf (List.replicate 32 0)) = true) ∧
    (pathed.unfocus.keyInPart 0 8191 = true ∧ tfind pathed.unfocus.keys 8191 = none) := by decide
theorem test_ManagementRequests_portSet : (newPortRec (mgmt 0 1 portBody)).isSome = true ∧ (1#64).toNat < 2 := by decide
/-- A handle's body: 8 KiB from address 0 under key 0, every permission, for device 2. -/
def exportBody : List Byte := bytesOf 8 0 ++ bytesOf 8 1 ++ bytesOf 2 0 ++ [7] ++ bytesOf 2 2 ++ [0]
theorem test_ManagementRequests_handles : exportBody.length = 22 ∧ ofBytes (exportBody.take 8) % 8192 = 0 ∧
    pathed.unfocus.rangeInPart 0 (ofBytes (exportBody.take 8)) (ofBytes ((exportBody.drop 8).take 8) * 8192) = true ∧
    pathed.unfocus.keyInPart 0 (ofBytes ((exportBody.drop 16).take 2)) = true ∧
    (held true).unfocus.handles.any (fun h => h.id.toNat == 1 && h.part == 0 && h.live) = true := by decide
theorem test_ManagementRequests_peers : (255#64).toNat < 256 ∧ (List.replicate 80 (0 : Byte)).length = 80 ∧ (List.replicate 80 (0 : Byte)).getD 2 0 &&& 0xfe = 0 ∧
    (∀ e ∈ (pathed.unfocus.part 0).peers, e.1 ≠ 255 → peerValid e.2 = false) := by decide
/-- An activation waits for the prologues in flight; requests of path 0 are kept behind it. -/
def activating : State := ({ home with twin := { home.twin with activating := some { (mgmt 0 0 []) with mop := 13 } } } : State)
theorem test_ManagementRequests_waits : (mgmt 0 0 []).path = 0 ∧ activating.unfocus.twin.failed = false ∧ activating.unfocus.twin.recovering = false ∧
    activating.unfocus.twin.activating ≠ none ∧ goes (exec (.invRead (mgmt 0 0 [])) activating) (fun s => s.twin.mgmtWait.length == 1 && s.sent == home.sent) = true := by
  decide

/-! ### Witnesses: housekeeping, commands, placement, engines, caches -/

/-- The test state with these measurements, its die 0 at the lowest clock. -/
def measured (ws : List Nat) : State := { home with twin := { home.twin with
  power := ws.map (fun w => (w, []))
  clocks := [(0, 1500)] } }
theorem test_HubHousekeeping_hyps : State.reset.twin.snap = none ∧ State.reset.askedDies = [] ∧ home.twin.snap = none ∧ home.askedDies ≠ [] ∧
    (home.askStatus home.askedDies).isSome = true ∧
    (({ home with twin := { home.twin with snap := some ⟨0, [], []⟩ } } : State).twin.snap.map (·.awaited)) = some [] ∧
    (1500 ≤ (measured []).clockOf 0 ∧ (measured []).clockOf 0 ≤ 2700 ∧ 1500 ≤ (measured []).clockOf 7 ∧ (measured []).clockOf 7 ≤ 2700) ∧
    ((measured [8000]).powerFor 0).2 < ((measured [8000]).powerFor 0).1 ∧
    (((measured [7000, 7000]).powerFor 0).1 ≤ ((measured [7000, 7000]).powerFor 0).2 ∧
      ((measured [7000, 7000]).powerFor 0).1 * 100 < ((measured [7000, 7000]).powerFor 0).2 * 97) ∧
    (((measured [7300]).powerFor 0).1 ≤ ((measured [7300]).powerFor 0).2 ∧
      ((measured [7300]).powerFor 0).2 * 97 ≤ ((measured [7300]).powerFor 0).1 * 100) ∧
    (home.cluster 0).stretched = false ∧ home.twin.recovering = false ∧ home.twin.activating = none ∧
    (let s : State := { home with
       twin := { home.twin with recovering := true }
       fePowered := false }
     s.twin.recovering = true ∧ s.fePowered = false) ∧
    (let s : State := { home with twin := { home.twin with recovering := true } }
     s.twin.recovering = true ∧ s.fePowered = true ∧ s.twin.activating = none) := by decide
/-- Die 0's save arena is full. -/
def fullArena : State := { home.unfocus with savedRecs := [⟨0, arenaBase 0, 2 ^ 29, 9, 0, 0, [], homeTeam⟩] }
/-- Core 0 was reported before. -/
def reported : State := { home.unfocus with twin := { home.twin with retired := [(home.unfocus.coreAt 0).built] } }
theorem test_LostUnits_hyps : home.unfocus.twin.retired.contains (0 * 68 + (home.unfocus.coreAt 63).built) = false ∧
    home.unfocus.twin.retired.contains (0 * 68 + (home.unfocus.coreAt 0).built) = false ∧
    (∀ p ∈ home.unfocus.teams, ¬ (p.2.die = 0 ∧ p.2.core = 63)) ∧ reported.unfocus.twin.retired.contains (0 * 68 + (reported.unfocus.coreAt (0 * 64 + 0)).built) = true ∧
    home.twin.lostDies.contains 7 = false := by decide
/-- A team of a retired core is sampled where its record has room; without it the team stays and the core waits. -/
theorem test_LostUnits_run : goes (exec (.coreRetire 0 0) home) (fun s => s.teams.all (fun p => p.2.sampled)) = true ∧
    goes (exec (.coreRetire 0 0) fullArena) (fun s => s.teams.all (fun p => !p.2.sampled) && s.twin.retired.contains 0) = true := by decide
/-- Queue 0 with a ring whose head slot reads zero, which is the head's stamp. -/
def ringed : State := { pathed.unfocus with queues := [(0, { Queue.initial with
  enabled := true
  tail := 1
  desc := BitVec.ofNat 256 (homeAsid.toNat * 2 ^ 192) })] }
def headRead (s : State) : State × Option (List Word) := s.frontRead 0 (qdAsid (s.queue 0).desc)
  (qdRing (s.queue 0).desc + 128 * ((s.queue 0).head.toNat % qdCap (s.queue 0).desc)) 32
theorem slotGood {s : State} (h : (match (headRead s).2 with | some ws => allGood ws && (nth ws 0).data == 0 | none => false) = true)
    (hp : s.partOfQueue 0 = some 0) (hu : s.twin.activating = none) (hr : (s.queue 0).readable = true) (ht : s.nextServed = some 0)
    (hh : (s.queue 0).head = 0) : ∃ s1 ws, s.SlotGood 0 0 s1 ws := by
  generalize hx : headRead s = x at h
  obtain ⟨s1, o⟩ := x
  cases o with
  | none => cases h
  | some ws =>
    simp only [Bool.and_eq_true, beq_iff_eq] at h
    exact ⟨s1, ws, hp, hu, hr, ht, hx, h.1, h.2.trans hh.symm⟩
theorem test_QueueCommands_slot : ∃ s1 ws, ringed.unfocus.SlotGood 0 0 s1 ws :=
  slotGood (by decide +kernel) (by decide) (by decide) (by decide) (by decide) (by decide)
/-- The waiting slot of queue 0 is read again. -/
theorem test_QueueCommands_reread_slot : ∃ s1 ws, (ringed.unfocus.modQueue 0 (fun x => { x with slotWait := false })).SlotGood 0 0 s1 ws :=
  slotGood (by decide +kernel) (by decide) (by decide) (by decide) (by decide) (by decide)
theorem test_QueueCommands_mirror : (({ home.unfocus with queues := [(0, { Queue.initial with mirrorDue := true })] } : State).unfocus.queue 0).mirrorDue = true := by
  decide
def op (n : Nat) : State := queued (n * 2 ^ 32) id
def fresh (n : Nat) : Cmd := Cmd.fresh 0 0 homeAsid (wordsOf 32 n)
theorem test_QueueCommands_starts : ∀ k ∈ [4, 5, 6], (op k).unfocus.Starts 0 k 0 (fresh (k * 2 ^ 32)) (op k).unfocus := by
  intro k hk
  have hk : k = 4 ∨ k = 5 ∨ k = 6 := by simpa using hk
  rcases hk with rfl | rfl | rfl <;> exact ⟨by rfl, by decide, by decide, by decide, by rfl⟩
/-- The same with the mapped address space, for commands with an event address. -/
def opMapped (n : Nat) (f : Cmd → Cmd) : State := { ringed with queues := [(0, { (ringed.queue 0) with cmds := [f (fresh (n * 2 ^ 32))] })] }
theorem starts {s : State} {op : Nat} {c : Cmd} {k : Kind} (hn : (s.queue 0).startable = some c) (hp : s.partOfQueue 0 = some 0) (ho : slOp c.num = op)
    (hf : slotFieldsOk c.num = true) (he : op = 2 ∨ op = 3) (hk : (if op = 3 then Kind.load else .store) = k)
    (ha : (s.eventAddrOk 0 c.asid (slEvVa c.num) k).2 = true) : s.Starts 0 op 0 c (s.eventAddrOk 0 c.asid (slEvVa c.num) k).1 := by
  refine ⟨hn, hp, ho, hf, ?_⟩
  subst hk
  rw [if_pos (by omega)]
  exact Prod.ext rfl ha
theorem test_QueueCommands_events : (∃ s1, (opMapped 3 id).unfocus.Starts 0 3 0 (fresh (3 * 2 ^ 32)) s1) ∧
    (∃ s1, (opMapped 2 id).unfocus.Starts 0 2 0 (fresh (2 * 2 ^ 32)) s1 ∧ ((opMapped 2 id).unfocus.queue 0).cmds.find? (fun c => c.started && slOp c.num == 2) = none ∧
      (s1.signalEvent 0 homeAsid 0 0 (.event 0 0)).2 = .made) :=
  ⟨⟨_, starts (k := .load) (by rfl) (by decide) (by decide) (by decide) (.inr rfl) rfl (by decide)⟩,
    ⟨_, starts (k := .store) (by rfl) (by decide) (by decide) (by decide) (.inl rfl) rfl (by decide), by decide, by decide⟩⟩
/-- The command that waits. -/
def waiting : Cmd := { (fresh (3 * 2 ^ 32)) with started := true }
/-- What an event counter's address is to queue 0's waiting command, and what is read there. -/
def rereadOk (y : State × Except XFault XOk) : Bool :=
  match y.2 with
  | .ok x => regionOf x.pa != .window && allGood (y.1.readAt x 2).2
  | .error _ => false
theorem rereadOk_spec {y : State × Except XFault XOk} (h : rereadOk y = true) : ∃ s1 s2 x ws, y = (s1, .ok x) ∧ regionOf x.pa ≠ .window ∧
    s1.readAt x 2 = (s2, ws) ∧ allGood ws = true := by
  obtain ⟨s1, e⟩ := y
  cases e with
  | error e => cases h
  | ok x =>
    simp only [rereadOk, Bool.and_eq_true, bne_iff_ne] at h
    exact ⟨s1, _, x, _, rfl, h.1, rfl, h.2⟩
theorem test_QueueCommands_reread : ∃ c s1 s2 x ws, let s0 := (opMapped 3 (fun c => { c with started := true })).unfocus
    (s0.queue 0).cmds.find? (fun c => c.started && slOp c.num == 3) = some c ∧ s0.partOfQueue 0 = some 0 ∧ c.seen = none ∧ c.asked = false ∧
    s0.translate none 0 c.asid (slEvVa c.num) .load 0 = (s1, .ok x) ∧ regionOf x.pa ≠ .window ∧
    s1.readAt x 2 = (s2, ws) ∧ allGood ws = true := by
  obtain ⟨s1, s2, x, ws, h⟩ := rereadOk_spec (y := (opMapped 3 (fun c => { c with started := true })).unfocus.translate none 0 waiting.asid (slEvVa waiting.num) .load 0)
    (by decide)
  exact ⟨waiting, s1, s2, x, ws, by rfl, by decide, rfl, rfl, h⟩
/-- The launch packet with another class: 0 is C. -/
def classed (cls : Nat) : Nat := packet 1 - 2 * 2 ^ (8 * 39) + cls * 2 ^ (8 * 39)
/-- A grid of one unplaced or saved team, on die 0, beside the test team; a C grid's claim is satisfied. -/
def placing (cls : Nat) (saved : Bool) : State := { home.unfocus with
  grids := tins home.grids 2 { homeGrid with
    num := 2
    packet := wordsOf 32 (classed cls)
    shares := [⟨0, 1, if saved then [] else [0], if saved then [0] else [], 0, true, true, false, 0⟩] }
  savedRecs := if saved then [⟨0, 0x1fe0000000, 4096, 2, 0, 0, [], { homeTeam with mode := BitVec.ofNat 8 cls }⟩] else [] }
def firstCand (s : State) : Option (Nat × Bool × Nat) := ((s.tellClaims 0).eligible 0).head?.map (fun c => (c.grid.num, c.saved, c.t))
theorem test_Placement_place : (∀ k ∈ [1, 2], ∀ b : Bool, firstCand (placing k b).unfocus = some (2, b, 0) ∧
    ((placing k b).unfocus.tellClaims 0).findCore 0 (ofWords (wordsOf 32 (classed k))) = some (0, false)) ∧
    pkClass (ofWords (wordsOf 32 (classed 1))) = 1 ∧ pkClass (ofWords (wordsOf 32 (classed 2))) = 2 ∧
    (((placing 2 true).unfocus.tellClaims 0).recOf 0 2 0).isSome = true ∧ (placing 2 false).twin.activating = none := by decide
theorem test_Placement_claim : ∀ b : Bool, firstCand (placing 0 b).unfocus = some (2, b, 0) ∧
    (((placing 0 b).unfocus.tellClaims 0).eligible 0).head?.map (fun c => (c.isC, ((placing 0 b).unfocus.tellClaims 0).claimsMet c)) = some (true, true) := by decide
/-- The placing state a while later; the other grid's candidate has been passed over since the start. -/
def later : State := { (placing 2 false) with
  gtime := 200000
  disps := [(0, { Disp.initial with passed := some (2, 100000) })] }
theorem test_Placement_waits : later.hasUnplaced 0 = true ∧ (later.queue 0).waitFrom + 100000 ≤ later.gtime ∧
    ((later.ordered 0).head?.map (fun c => c.grid.num)) = some 2 ∧ (tget later.disps 0 Disp.initial).passed = some (2, 100000) ∧
    100000 + 100000 ≤ later.gtime ∧ later.pinnedOn 0 2 = false := by decide
def endedTeam : State := { home.unfocus with teams := [(0, { homeTeam with groups := [(0, { homeGroup with exited := true })] })] }
theorem test_Placement_retire : ∃ t, tfind endedTeam.teams 0 = some t ∧ t.aborted = false ∧ endedTeam.teamQuiet 0 t = true ∧ t.ended = true ∧
    endedTeam.teamCopies 0 t = [] := ⟨_, rfl, by decide, by decide, by decide, by decide⟩
def sampledTeam : State := { home.unfocus with teams := [(0, { homeTeam with sampled := true })] }
theorem test_Placement_save : (tfind sampledTeam.teams 0).map (fun t => (t.aborted, sampledTeam.teamQuiet 0 t, t.sampled, t.ended, t.mode.toNat % 4,
      (sampledTeam.recordPlace 0 t).isSome)) = some (false, true, true, false, 2, true) ∧
    (tget sampledTeam.disps 0 Disp.initial).swapped.contains (0, 0) = false := by decide
/-- The same of a C grid, whose one team is quiet and sampled. -/
def sampledGrid : State := { home.unfocus with teams := [(0, { homeTeam with
  sampled := true
  mode := 0 })] }
theorem test_Placement_saveGrid : (tfind sampledGrid.teams 0).map (fun t => (t.aborted, sampledGrid.teamQuiet 0 t, t.sampled, t.ended, t.mode.toNat % 4,
      (sampledGrid.recordPlace 0 t).isSome)) = some (false, true, true, false, 0, true) ∧ sampledGrid.gridQuiet 1 = true ∧
    (∀ p ∈ sampledGrid.teams, p.2.grid = 1 → p.2.ended = false → p.2.sampled = true ∧ sampledGrid.teamQuiet p.1 p.2 = true) := by decide
/-- One enabled core, which the test team occupies; a candidate that needs all its registers, pinned or a child of that team. -/
def full (child : Bool) : State := { home.unfocus with
  gtime := 60000
  cores := (List.range 64).map (fun c => (c, { Core.initial c with
    enabled := c == 0
    word := homePw }))
  queues := [(1, { Queue.initial with desc := BitVec.ofNat 256 (7 * 2 ^ 45) })]
  disps := [(0, { Disp.initial with pinned := [(2, 0)] })]
  teams := [(0, { homeTeam with groups := [(0, { homeGroup with wait := .lwait none })] })]
  grids := tins (home.grids) 2 { homeGrid with
    num := 2
    queue := if child then 0 else 1
    depth := if child then 1 else 0
    parent := if child then some (1, 0, 0) else none
    packet := wordsOf 32 (packet 1 + 31 * 2 ^ (8 * 34) + 31 * 2 ^ (8 * 38))
    shares := [⟨0, 1, [0], [], 0, false, false, false, 0⟩] } }
/-- The sample that pre-emption takes for the first candidate that holds back. -/
def preempts (s0 : State) : Bool :=
  let free := s0.without s0.leaving
  match (s0.ordered 0).filter (s0.holdsBack 0) with
  | [] => false
  | c :: _ => (free.reserveFor 0 c).isNone && decide (s0.waitsFrom 0 c + 50000 ≤ s0.gtime) &&
    ((free.enough 0 c [] (s0.victims 0 (s0.gridPrio c.grid))).bind s0.sampleAll).isSome
theorem test_Placement_preempt : preempts (full false).unfocus = true := by decide
def swaps (s0 : State) : Bool :=
  match s0.swapCand 0 with
  | none => false
  | some c => match s0.swapVictims 0 c with
    | [] => false
    | v :: _ => (s0.sampleAll (s0.wholeTeam v)).isSome
theorem test_Placement_swap : swaps (full true).unfocus = true := by decide
theorem test_TimersAndEngines_group : home.focus = .group homeRef ∧ homeRef.die < 8 ∧ home.g.raised = none ∧
    (4096 ≤ ({ home with g := { home.g with starve := 4096 } } : State).g.starve) ∧ (after (exec (.sSleep 1 7) home)).g.wait = .sleep 16 ∧
    (after (exec (.sWaitv 0 62 4 0 0 7) home)).g.wait = .waitv none ∧
    decode (after (exec (.sWaitv 0 62 4 0 0 7) home)).g.waitI = .ok (.sWaitv 0 62 4 0 0 7) := by decide
def matrixJob (granted : Bool) : MatrixJob :=
  { seq := 0, grp := homeRef, instr := 0, tok := 9, mpri := 0, posted := 0, sched := 0, after := [], reads := [], writes := [], granted := granted, done := false, fmt := 0,
    ops := [], pages := [] }
theorem test_TimersAndEngines_matrix :
    (let s : State := { home with clusters := [(0, { Cluster.initial with mjobs := [matrixJob false] })] }
     s.unfocus.nextGrant (s.unfocus.cluster 0) = some (matrixJob false)) ∧
    (let s : State := { home with clusters := [(0, { Cluster.initial with mjobs := [matrixJob true] })] }
     (s.unfocus.cluster 0).mjobs.find? (fun j => j.seq == 0 && j.granted) = some (matrixJob true)) := by decide
def copyJob : CopyJob :=
  { seq := 0, owner := some homeRef, queue := none, chan := 2, batch := 0, card := List.replicate 16 Word.zero, data := 0, rfp := (0, 0, 0),
    wfp := (0, 0, 0), after := [], started := false, fault := 0, offset := 0, outst := 0, asid := homeAsid, part := 0, mode := 0 }
theorem test_TimersAndEngines_copy :
    (let s : State := { home with clusters := [(0, { Cluster.initial with jobs := [copyJob] })] }
     ((s.unfocus.cluster 0).jobs.find? (fun j => j.chan == 2 && mayStart (s.unfocus.cluster 0) j && !s.unfocus.jobStopped (s.unfocus.cluster 0) j)).isSome = true) ∧
    (let s : State := { home with clusters := [(0, { Cluster.initial with jobs := [{ copyJob with started := true }] })] }
     ((s.unfocus.cluster 0).jobs.find? (fun j => j.chan == 2 && j.started)).isSome = true) := by decide
/-- Core 0 holds word 31 of line 0 of key 0 clean. -/
def cleanL1 : State := { home with l1 := [(l1Key 0 0 31, ⟨.clean 0, w32 3⟩)] }
def held0 (s : State) : List (Nat × L1Word) := (List.range 32).filterMap (fun i => (tfind s.l1 (l1Key 0 0 i)).map (fun w => (i, w)))
theorem test_CachesAndUnassignedWords_hyps : (∀ s ∈ [cleanL1, owning true], s.merges.any (fun m => m.core == 0 && m.tag == 0) = false ∧
      s.partialsOf 0 0 = [] ∧ ∀ w ∈ held0 s, isPending (some w.2) = false) ∧ (held0 cleanL1).filter (fun w => isOwned (some w.2)) = [] ∧
    ((owning true).sendBack 0 0 (((held0 (owning true)).filter (fun w => isOwned (some w.2))).map (fun w => (w.1, w.2.w)))).isSome = true ∧
    (held0 (owning true)).filter (fun w => isOwned (some w.2)) ≠ [] := by decide
theorem test_CachesAndUnassignedWords_words : (0xffffffff#32).getLsbD 31 = true ∧ (7#32).getLsbD 31 = false ∧
    (∃ s2 xs, home.Delivers (Trap.plain cIllegal 0 home.g.exec home.g.exec) s2 xs) ∧
    (let ls := if guardedOp (field (7#32).toNat 25 6) then (home.act (field (7#32).toNat 0 3)).lanes else home.baseLanes
     ∃ s2 xs, home.Delivers (Trap.plain cIllegal 0 ls ls) s2 xs) ∧ (onEngine 3).onKiln = true := by
  refine ⟨by decide, by decide, test_TrapVectors_hyps, ?_, by decide⟩
  have h : (if guardedOp (field (7#32).toNat 25 6) then (home.act (field (7#32).toNat 0 3)).lanes else home.baseLanes) = home.g.exec := by decide
  rw [h]
  exact test_TrapVectors_hyps
theorem test_CachesAndUnassignedWords_run : goes (exec (.unassignedEncoding 0) home) (fun s => s.g.pc == 0x800140 && s.g.priv.kpc == 0) = true := by decide


/-! ### Well-formedness: an ill-formed term for each check -/

theorem test_wf_refuses :
    (Instr.vAdd 0 0 0 0 0).wf = false ∧ (Instr.vLd 5 1 2 3 0 7).wf = false ∧ (Instr.vSt 9 6 63 3 7).wf = false ∧
    (Instr.vFcmp 2 1 0 7 0 7).wf = false ∧ (Instr.sSel 1 2 0 0 7 7).wf = false ∧ (Instr.loadReturn ⟨9, 0, 0, 0⟩ 1).wf = false ∧
    (Instr.vr1Result ⟨0, 64, 0, 0⟩ 1).wf = false ∧ (Instr.groupRaised ⟨0, 0, 32, 0⟩).wf = false ∧ (Instr.sleepExpiry ⟨0, 0, 0, 32⟩).wf = false ∧
    (Instr.waitvReread ⟨8, 0, 0, 0⟩).wf = false ∧ (Instr.frameDrop ⟨10, 0, 0, [], 0, []⟩).wf = false ∧ (Instr.arp ⟨2, 0, 0, [], 0x0806, []⟩).wf = false ∧
    (Instr.neighborDiscovery ⟨2, 0, 0, [], 0x86dd, []⟩).wf = false ∧ (Instr.thtWrite ⟨2, 0, 0, 0, 0, false, none, 0, [], 0⟩).wf = false ∧
    (Instr.peritAckFrame ⟨1, 0, [], 0⟩).wf = false ∧ (Instr.peritNakFrame ⟨10, 0, [], 0⟩).wf = false := by decide
theorem test_wf_payloads : StackReq.wf ⟨0, 0, 0, []⟩ true = false ∧ StackReq.wf ⟨8, 0, 0, []⟩ false = false ∧ StackReply.wf ⟨0, 64, 0, []⟩ false = false ∧
    Packet.wf (mkPacket 0 0 0 0 0 0 0 false 1 [[Word.zero]]) = false ∧
    Packet.wf { (mkPacket 0 0 0 0 0 0 0 false 1 []) with flits := [List.replicate 8 Word.zero] } = false := by decide
theorem test_wf_accepts : (Instr.vAdd 0 0 0 0 7).wf = true ∧ (Instr.vLd 4 1 2 3 0 7).wf = true ∧ (Instr.vFcmp 2 1 1 7 0 7).wf = true ∧
    (Instr.sSel 1 2 1 0 7 7).wf = true ∧ (Instr.loadReturn ⟨7, 63, 31, 31⟩ 1).wf = true := by decide

/-! ### Decoding: the words the manual spells out (the example encodings of R268–R377) -/

theorem test_decode_lane :
    decode 0x0c30e387 = .ok (.vPset 6 7 7 0 7) ∧ decode 0x002821c7 = .ok (.vAddx 5 1 3 7) ∧ decode 0x16080017 = .ok (.vShli 1 0 2 7) ∧
    decode 0x18080c0f = .ok (.vCmpi 1 0 3 1 7) ∧ decode 0x3818210f = .ok (.vLxch 3 1 2 1 7) ∧ decode 0x00082181 = .ok (.vAdd 1 1 3 0 1) := by decide
theorem test_decode_float : decode 0x28102127 = .ok (.vFcmp 2 1 2 2 0 7) ∧ decode 0x2a18a107 = .ok (.vFrcp 3 5 0 2 7) ∧
    decode 0x30103037 = .ok (.vCvt 2 1 1 0 6 7) ∧ decode 0x32386497 = .ok (.vCvtnPk 7 3 9 2 7) := by decide
theorem test_decode_memory : decode 0x44204517 = .ok (.vLd 2 4 2 10 2 7) ∧ decode 0x4a48df97 = .ok (.vSt 9 6 63 2 7) ∧
    decode 0x4a308a1f = .ok (.vCpy 6 4 20 7) ∧ decode 0x5240690f = .ok (.vLds 8 3 1 2 1 7) ∧ decode 0x56486157 = .ok (.vStcl 9 3 2 2 7) ∧
    decode 0x4c285187 = .ok (.vAtom 5 2 4 3 0 7) ∧ decode 0x4e285117 = .ok (.vRed 5 2 4 2 2 7) ∧ decode 0x50084507 = .ok (.vPrefL2 2 10 7) := by decide
theorem test_decode_matrixAndChannels : decode 0x72404507 = .ok (.vTcheck 8 2 10 7) ∧ decode 0x7400c187 = .ok (.vChsend 6 3 7) ∧
    decode 0x76200187 = .ok (.vChrecv 4 3 7) ∧ decode 0xd0200007 = .ok (.sCseal 4 7) ∧ decode 0xd200000f = .ok (.sCwait 1 7) := by decide
theorem test_decode_uniform : decode 0xa021090f = .ok (.sSld 4 8 1 2 1 7) ∧ decode 0xa4211107 = .ok (.sSatom 4 8 4 2 0 7) ∧
    decode 0xb0000017 = .ok (.sB 2 7) ∧ decode 0xba000067 = .ok (.sEnter 12 7) ∧ decode 0x5a800005 = .ok (.vBu 2 5) ∧
    decode 0xd800000f = .ok (.sRds 0 0 1 7) ∧ decode 0xda012407 = .ok (.sWrs 9 8 7) ∧ decode 0xdc0399c7 = .ok (.sSetfmtImm 0 28 51 0 7) := by decide
theorem test_decode_system : decode 0xca000007 = .ok (.sGbar 7) ∧ decode 0xce61052f = .ok (.sWaitv 12 8 10 0 5 7) ∧
    decode 0xf6010507 = .ok (.sTlbiVa 8 10 7) ∧ decode 0xe0210007 = .ok (.sLaunch 4 8 7) ∧ decode 0xc0000007 = .ok (.sNop 7) := by decide
theorem test_decode_refuses : (match decode 0 with | .error _ => true | .ok _ => false) = true ∧
    (match decode 0xc0000017 with | .error _ => true | .ok _ => false) = true := by decide

/-! ### Encoding gives the words back, and a step runs them -/

theorem test_roundTrip : encode (.sEnter 12 7) = some 0xba000067 ∧ encode (.vBd 7 0x7ff 0x3ff) = some 0x59fffbff := by decide
theorem test_step_nop : goes (step (State.reset.withFetchWord 32 0xc0000007)) (fun s => s.g.pc == 4 && s.focus == .group homeRef) = true := by decide
theorem test_step_illegal : goes (step (State.reset.withFetchWord 32 0)) (fun s => s.g.pc == 0x800140 && s.mode == 1 && s.g.priv.kpc == 0) = true := by decide
/-- The state whose next step fetches `enter 8`. -/
def entering : State := State.reset.withFetchWord 32 0xba000047
/-- The same with the issue chosen by the environment. -/
def chosenTurn : State := { entering with turns := [.issue (.group homeRef) []] }
theorem test_StepRunsDecoded_hyps : (entering.nextIssue = some (.group homeRef) ∧ entering.turns = []) ∧ chosenTurn.turns = .issue (.group homeRef) [] :: [] ∧
    ∃ s1 s2, entering.focusAt (.group homeRef) = some s1 ∧ entering.mayIssue (.group homeRef) [] = true ∧ resumes s1.g.wait = false ∧ s1.awake.preIssue = none ∧
      s1.awake.fetchAt s1.g.pc.toNat = (s2, .ok (w32 0xba000047)) ∧ (w32 0xba000047).isPoison = false ∧ (w32 0xba000047).checks = true ∧
      decode (w32 0xba000047).data = .ok (.sEnter 8 7) := by
  refine ⟨by decide, rfl, ⟨_, _, rfl, by decide, by decide, by decide, rfl, by decide, by decide, by decide⟩⟩
theorem test_StepRunsDecoded_others : busyWait home.g = false ∧ occurs .routingResume = true ∧
    goes (exec .routingResume home.unfocus) (fun s => !s.twin.stopInject) = true := by decide
theorem test_ResetAndLaunchValues_hyps : (2 : Nat) ≤ 63 ∧ (6 : Nat) < 7 := by decide
theorem test_BaseDieMemory_hyps : tfind home.keys 0 ≠ none ∧ (sortNat ((tget home.pins (chanOf 9) []).flatMap pinSymbols)).length ≤ 8 ∧ tfind home.keys 1 = none ∧ memWf home.mem = true := by decide
theorem test_BaseDieMemory_run : ((home.baseWrite 0 9 0x80000001 (List.replicate 32 (w32 5))).st.baseRead 0 9).words.getD 31 Word.zero = w32 5 ∧
    ((home.baseWrite 0 9 0x80000001 (List.replicate 32 (w32 5))).st.baseRead 0 9).words.getD 30 Word.zero = Word.zero := by decide
theorem test_DecodedWordsAreCanonical_hyps : decode 0xba000067 = .ok (.sEnter 12 7) := by decide

/-! ### Single instructions -/

theorem test_addx_carry : goes (exec (.vAddx 5 1 3 7) ((home.setV 1 9 (w32 0xffffffff)).setV 3 9 (w32 1))) (fun s =>
    s.v 5 9 == Word.zero && s.p 6 9 == some true && s.p 6 8 == some false) = true := by decide
theorem test_shli : goes (exec (.vShli 1 0 2 7) (home.setV 0 4 (w32 0xc0000001))) (fun s => s.v 1 4 == w32 4) = true := by decide
theorem test_cmpi_ge : goes (exec (.vCmpi 1 0 3 1 7) ((home.setV 0 0 (w32 0xffffffff)).setV 0 1 (w32 1))) (fun s =>
    s.p 1 0 == some false && s.p 1 1 == some true) = true := by decide
theorem test_poison_add : goes (exec (.vAdd 1 2 3 0 7) (home.setV 2 6 Word.poison)) (fun s => (s.v 1 6).isPoison && !(s.v 1 7).isPoison) = true := by decide
theorem test_fadd : goes (exec (.vFadd 1 2 3 0 0 7) ((home.setV 2 0 (w32 0x3f800000)).setV 3 0 (w32 0x40000000))) (fun s => s.v 1 0 == w32 0x40400000) = true := by
  decide
theorem test_lxch_sub : goes (exec (.vLxch 3 1 2 1 7) ((home.setV 1 6 (w32 8)).setV 2 7 (w32 1))) (fun s => s.v 3 7 == w32 8) = true := by decide
theorem test_setfmt : goes (exec (.sSetfmtImm 0 28 51 0 7) home) (fun s => s.g.fmt == 0x733) = true := by decide
theorem test_branch : goes (exec (.sB 2 7) home) (fun s => s.g.pc == 8) = true := by decide
theorem test_enter : goes (exec (.sEnter 65 7) home) (fun s => s.g.pc == 0x800140) = true := by decide
end Sys2Proof.Tests
end

section
/-! Sparse tables under a run of writes, and the key of each lane register, lane predicate and uniform register in them (R125, R127, R222). -/

namespace Sys2Proof.Machine

/-! ### A run of writes to a table -/

/-- Write a run of keys, first to last. -/
def tsets {α : Type} [DecidableEq α] (t : Table α) (ws : List (Nat × α)) (d : α) : Table α := ws.foldl (fun t w => tset t w.1 w.2 d) t

/-- After a run that writes at most one value to a key, the key reads as that value, or as before where the run has none. -/
theorem tget_tsets {α : Type} [DecidableEq α] {ws : List (Nat × α)} {k : Nat} {o : Option α} (t : Table α) (d : α)
    (h : ∀ v, (k, v) ∈ ws ↔ o = some v) : tget (tsets t ws d) k d = o.getD (tget t k d) := by
  induction ws using List.reverseRecOn with
  | nil =>
    have ho : o = none := Option.eq_none_iff_forall_ne_some.2 fun v hv => List.not_mem_nil ((h v).2 hv)
    rw [ho]
    rfl
  | append_singleton ws w ih =>
    rw [tsets, List.foldl_append]
    refine (tget_tset _ w.1 k w.2 d).trans ?_
    split
    · next hk => rw [(h w.2).1 (by simp [← hk]), Option.getD_some]
    · next hk =>
      refine ih fun v => ?_
      rw [← h v, List.mem_append, List.mem_singleton, or_iff_left fun e => hk (congrArg Prod.fst e).symm]

/-! ### The words and pairs that the register writes list -/

/-- The run of writes that gives the registers from d on these words. -/
def runWrites (d : Nat) (ws : List Word) : List (Nat × Word) := ws.zipIdx.map fun w => (d + w.2, w.1)

/-- The word that a run from d gives register n, if any. -/
def runAt (d : Nat) (ws : List Word) (n : Nat) : Option Word := if d ≤ n then ws[n - d]? else none

theorem mem_runWrites {d n : Nat} {ws : List Word} (w : Word) : (n, w) ∈ runWrites d ws ↔ runAt d ws n = some w := by
  simp only [runWrites, runAt, List.mem_map, List.mem_zipIdx_iff_getElem?, Option.ite_none_right_eq_some]
  constructor
  · rintro ⟨⟨x, i⟩, hx, he⟩
    obtain ⟨rfl, rfl⟩ := Prod.mk.inj he
    exact ⟨Nat.le_add_right d i, by rwa [Nat.add_sub_cancel_left]⟩
  · rintro ⟨hd, hx⟩
    exact ⟨(w, n - d), hx, by rw [Nat.add_sub_cancel' hd]⟩

theorem lt_of_mem_runWrites {d : Nat} {ws : List Word} {w : Nat × Word} (h : w ∈ runWrites d ws) : w.1 < d + ws.length := by
  obtain ⟨x, hx, rfl⟩ := List.mem_map.1 h
  exact Nat.add_lt_add_left (List.snd_lt_of_mem_zipIdx hx) d

theorem runAt_getD (d n : Nat) (ws : List Word) (x : Word) :
    (runAt d ws n).getD x = if d ≤ n ∧ n < d + ws.length then ws.getD (n - d) Word.zero else x := by
  unfold runAt
  split_ifs with h1 h2 h2
  · rw [List.getD_eq_getElem _ _ (by omega), List.getElem?_eq_getElem (by omega), Option.getD_some]
  · rw [List.getElem?_eq_none (by omega), Option.getD_none]
  · exact absurd h2.1 h1
  · rfl

/-- The run of writes that gives `v`d and on, in every active lane, its words. -/
def State.laneWrites (s : State) (p : BitVec 3) (d : Nat) (val : Nat → List Word) : List (Nat × Word) :=
  (lanesOf (s.act p.toNat).lanes).flatMap fun l => (runWrites d (val l)).map fun w => (s.vKey w.1 l, w.2)

/-- The run of writes that gives `p`d, in every active lane, its pair. -/
def State.predWrites (s : State) (p : BitVec 3) (d : Nat) (val : Nat → Bool) : List (Nat × BitVec 2) :=
  (lanesOf (s.act p.toNat).lanes).map fun l => (s.pKey d l, railOf (val l))

theorem foldl_setV (ws : List (Word × Nat)) (d l : Nat) (s : State) :
    ws.foldl (fun t w => t.setV (d + w.2) l w.1) s =
      { s with tm := { s.tm with vregs := tsets s.tm.vregs ((ws.map fun w => (d + w.2, w.1)).map fun w => (s.vKey w.1 l, w.2)) Word.zero } } := by
  induction ws generalizing s with
  | nil => rfl
  | cons w ws ih => exact ih (s.setV (d + w.2) l w.1)

theorem putV_eq (s : State) (p : BitVec 3) (d : Nat) (val : Nat → List Word) :
    s.putV p d val = { s with tm := { s.tm with vregs := tsets s.tm.vregs (s.laneWrites p d val) Word.zero } } := by
  unfold State.putV State.laneWrites
  generalize lanesOf (s.act p.toNat).lanes = ls
  induction ls generalizing s with
  | nil => rfl
  | cons l ls ih =>
    rw [List.foldl_cons, foldl_setV, ih, List.flatMap_cons, tsets, tsets, tsets, List.foldl_append]
    rfl

theorem putP_eq (s : State) (p : BitVec 3) (d : Nat) (val : Nat → Bool) :
    s.putP p d val = { s with tm := { s.tm with preds := tsets s.tm.preds (s.predWrites p d val) 1 } } := by
  unfold State.putP State.predWrites
  generalize lanesOf (s.act p.toNat).lanes = ls
  induction ls generalizing s with
  | nil => rfl
  | cons l ls ih => exact ih (s.setP d l (val l))

theorem setSs_eq (s : State) (d : Nat) (ws : List Word) :
    s.setSs d ws = { s with g := { s.g with sregs := tsets s.g.sregs (runWrites d ws) Word.zero } } := by
  unfold State.setSs runWrites
  generalize ws.zipIdx = xs
  induction xs generalizing s with
  | nil => rfl
  | cons x xs ih => exact ih (s.setS (d + x.2) x.1)

/-! ### Different registers have different keys -/

theorem lt_of_mem_lanesOf {m : BitVec 32} {l : Nat} (h : l ∈ lanesOf m) : l < 32 :=
  List.mem_range.1 (List.mem_filter.1 h).1

/-- R127: the ring gives the logical registers below P different physical ones. -/
theorem physOf_inj {s : State} {n m : Nat} (hn : n < s.ringSize) (hm : m < s.ringSize) (h : s.physOf n = s.physOf m) : n = m :=
  (Nat.ModEq.add_left_cancel' _ h : n ≡ m [MOD s.ringSize]).eq_of_lt_of_lt hn hm

theorem vKey_inj {s : State} {n m l k : Nat} (hl : l < 32) (hk : k < 32) (hn : n < s.ringSize) (hm : m < s.ringSize)
    (h : s.vKey n l = s.vKey m k) : n = m ∧ l = k := by
  unfold State.vKey physKey at h
  obtain rfl : l = k := by omega
  exact ⟨physOf_inj hn hm (by omega), rfl⟩

theorem pKey_inj {s : State} {n m l k : Nat} (hl : l < 32) (hk : k < 32) (h : s.pKey n l = s.pKey m k) : n = m ∧ l = k := by
  unfold State.pKey at h
  obtain rfl : l = k := by omega
  exact ⟨by omega, rfl⟩

/-! ### What a register reads after a write -/

theorem mem_laneWrites {s : State} {p : BitVec 3} {d n l : Nat} {val : Nat → List Word} (hn : n < s.ringSize) (hl : l < 32)
    (hfit : ∀ l, d + (val l).length ≤ s.ringSize) (w : Word) :
    (s.vKey n l, w) ∈ s.laneWrites p d val ↔ (if l ∈ lanesOf (s.act p.toNat).lanes then runAt d (val l) n else none) = some w := by
  simp only [State.laneWrites, List.mem_flatMap, List.mem_map, Option.ite_none_right_eq_some, ← mem_runWrites]
  constructor
  · rintro ⟨k, hk, ⟨m, x⟩, hx, he⟩
    obtain ⟨hkey, rfl⟩ := Prod.mk.inj he
    obtain ⟨rfl, rfl⟩ := vKey_inj (lt_of_mem_lanesOf hk) hl ((lt_of_mem_runWrites hx).trans_le (hfit k)) hn hkey
    exact ⟨hk, hx⟩
  · rintro ⟨hk, hx⟩
    exact ⟨l, hk, (n, w), hx, rfl⟩

theorem putV_v {s : State} {d n l : Nat} {val : Nat → List Word} (p : BitVec 3) (hn : n < s.ringSize) (hl : l < 32)
    (hfit : ∀ l, d + (val l).length ≤ s.ringSize) : (s.putV p d val).v n l =
      if l ∈ lanesOf (s.act p.toNat).lanes ∧ d ≤ n ∧ n < d + (val l).length then (val l).getD (n - d) Word.zero else s.v n l := by
  rw [putV_eq, ite_and]
  refine (tget_tsets s.tm.vregs Word.zero (mem_laneWrites hn hl hfit)).trans ?_
  split
  · exact runAt_getD d n (val l) _
  · rfl

theorem mem_predWrites {s : State} {p : BitVec 3} {d n l : Nat} {val : Nat → Bool} (hl : l < 32) (r : BitVec 2) :
    (s.pKey n l, r) ∈ s.predWrites p d val ↔
      (if l ∈ lanesOf (s.act p.toNat).lanes ∧ n = d then some (railOf (val l)) else none) = some r := by
  simp only [State.predWrites, List.mem_map, Option.ite_none_right_eq_some, Option.some.injEq]
  constructor
  · rintro ⟨k, hk, he⟩
    obtain ⟨hkey, rfl⟩ := Prod.mk.inj he
    obtain ⟨rfl, rfl⟩ := pKey_inj (lt_of_mem_lanesOf hk) hl hkey
    exact ⟨⟨hk, rfl⟩, rfl⟩
  · rintro ⟨⟨hk, rfl⟩, rfl⟩
    exact ⟨l, hk, rfl⟩

@[simp] theorem railVal_railOf (b : Bool) : railVal (railOf b) = some b := by cases b <;> rfl

@[simp] theorem State.p_seven (s : State) (l : Nat) : s.p 7 l = some true := rfl

@[simp] theorem State.q_seven (s : State) : s.q 7 = some true := rfl

theorem State.p_of_ne_seven (s : State) {n : Nat} (h : n ≠ 7) (l : Nat) : s.p n l = railVal (tget s.tm.preds (s.pKey n l) 1) := by
  rw [State.p, State.pPair, if_neg h]

theorem putP_p {s : State} {d l : Nat} (p : BitVec 3) (n : Nat) (val : Nat → Bool) (hd : d ≠ 7) (hl : l < 32) :
    (s.putP p d val).p n l = if l ∈ lanesOf (s.act p.toNat).lanes ∧ n = d then some (val l) else s.p n l := by
  by_cases h7 : n = 7
  · subst h7
    rw [State.p_seven, State.p_seven, if_neg fun h => hd h.2.symm]
  · rw [putP_eq, State.p_of_ne_seven _ h7, State.p_of_ne_seven _ h7]
    refine (congrArg railVal (tget_tsets s.tm.preds 1 (mem_predWrites hl))).trans ?_
    split
    · exact railVal_railOf _
    · rfl

theorem setSs_s (s : State) (d n : Nat) (ws : List Word) :
    (s.setSs d ws).s n = if d ≤ n ∧ n < d + ws.length then ws.getD (n - d) Word.zero else s.s n := by
  rw [setSs_eq]
  exact (tget_tsets _ _ mem_runWrites).trans (runAt_getD d n ws _)

theorem setQ_q (s : State) (d n : Nat) (b : Bool) (hd : d ≠ 7) : (s.setQ d b).q n = if n = d then some b else s.q n := by
  by_cases h7 : n = 7
  · subst h7
    rw [State.q_seven, State.q_seven, if_neg hd.symm]
  · simp only [State.q, if_neg h7, State.setQ_g, tget_tset, eq_comm (a := d)]
    split
    · exact railVal_railOf b
    · rfl

/-! ### Completion without a control transfer -/

/-- R145, R159: with no BREAK requested, completion moves the pc and the loops, counts the windows and the instruction, and clears
the replay mask, the wait and the starvation marks. -/
theorem advance_eq {s : State} (h : s.g.step = false) : s.advance = { s with g := { s.g with
    pc := (loopNext s.g.pc s.g.loops).1
    loops := (loopNext s.g.pc s.g.loops).2
    pend := 0
    lastRc := none
    pset := countWindows s.g.pset
    starve := 0
    raised := none
    wait := .none
    count := s.g.count + 1 } } := by
  unfold State.advance State.finish
  simp only [h, Bool.false_eq_true, if_false]

section
variable {s : State} (h : s.g.step = false)
include h
theorem advance_v (n l : Nat) : s.advance.v n l = s.v n l := by rw [advance_eq h]; rfl
theorem advance_p (n l : Nat) : s.advance.p n l = s.p n l := by rw [advance_eq h]; rfl
theorem advance_s (n : Nat) : s.advance.s n = s.s n := by rw [advance_eq h]; rfl
theorem advance_q (n : Nat) : s.advance.q n = s.q n := by rw [advance_eq h]; rfl
end

end Sys2Proof.Machine
end

section
/-! The frame of a completed register write, in the lane file, the predicates and the uniform file. -/

namespace Sys2Proof.Machine

/-- The group of a state with what completion changes put back from `g`. -/
def Group.uncompleted (t g : Group) : Group :=
  { t with
    pc := g.pc, loops := g.loops, pend := g.pend, lastRc := g.lastRc, pset := g.pset, starve := g.starve, raised := g.raised
    wait := g.wait, count := g.count }

theorem putV_g (s : State) (p : BitVec 3) (d : Nat) (val : Nat → List Word) : (s.putV p d val).g = s.g := by rw [putV_eq]

theorem putP_g (s : State) (p : BitVec 3) (d : Nat) (val : Nat → Bool) : (s.putP p d val).g = s.g := by rw [putP_eq]

theorem setSs_step (s : State) (d : Nat) (ws : List Word) : (s.setSs d ws).g.step = s.g.step := by rw [setSs_eq]

section
variable {s : State} (hstep : s.g.step = false)
include hstep

/-- What a completed lane write leaves of the group, its team and the machine. -/
theorem putV_advance_frame (p : BitVec 3) (d : Nat) (val : Nat → List Word) : let t := (s.putV p d val).advance
    t.g.uncompleted s.g = s.g ∧ { t.tm with vregs := s.tm.vregs } = s.tm ∧ { t with g := s.g, tm := s.tm } = s := by
  rw [advance_eq (by rw [putV_g, hstep]), putV_eq]
  exact ⟨rfl, rfl, rfl⟩

theorem putP_advance_frame (p : BitVec 3) (d : Nat) (val : Nat → Bool) : let t := (s.putP p d val).advance
    t.g.uncompleted s.g = s.g ∧ { t.tm with preds := s.tm.preds } = s.tm ∧ { t with g := s.g, tm := s.tm } = s := by
  rw [advance_eq (by rw [putP_g, hstep]), putP_eq]
  exact ⟨rfl, rfl, rfl⟩

theorem setSs_advance_frame (d : Nat) (ws : List Word) : let t := (s.setSs d ws).advance
    { t.g.uncompleted s.g with sregs := s.g.sregs } = s.g ∧ { t with g := s.g } = s := by
  rw [advance_eq (by rw [setSs_step, hstep]), setSs_eq]
  exact ⟨rfl, rfl⟩

theorem setQ_advance_frame (d : Nat) (c : Bool) : let t := (s.setQ d c).advance
    { t.g.uncompleted s.g with upreds := s.g.upreds } = s.g ∧ { t with g := s.g } = s := by
  rw [advance_eq (s := s.setQ d c) hstep]
  exact ⟨rfl, rfl⟩

end

/-- Settles O53: completion keeps every register, and the runs of writes that the register writes are have different keys. -/
theorem registerFrame : Obligations.RegisterFrame := by
  unfold Obligations.RegisterFrame
  intro s p hstep
  refine ⟨fun d k val hring _ hfit hk => ?_, fun d val hd => ?_, fun d ws => ?_, fun d c hd => ?_⟩
  · refine ⟨fun n hn l hl => ?_, putV_advance_frame hstep p d val⟩
    rw [advance_v (by rw [putV_g, hstep]), putV_v p (hn.trans_le hring) hl fun j => by rw [hk j]; exact hfit.trans hring, hk l]
    exact ⟨fun hls h1 h2 => if_pos ⟨hls, h1, h2⟩, fun h => if_neg h⟩
  · refine ⟨fun n _ l hl => ?_, State.p_seven _, putP_advance_frame hstep p d val⟩
    rw [advance_p (by rw [putP_g, hstep]), putP_p p n val hd.ne hl]
    exact ⟨fun hls h1 => if_pos ⟨hls, h1⟩, fun h => if_neg h⟩
  · refine ⟨fun n => ?_, setSs_advance_frame hstep d ws⟩
    rw [advance_s (by rw [setSs_step, hstep]), setSs_s]
    exact ⟨fun h1 h2 => if_pos ⟨h1, h2⟩, fun h => if_neg h⟩
  · have hq := fun n => (advance_q (s := s.setQ d c) hstep n).trans (setQ_q s d n c hd.ne)
    exact ⟨(hq d).trans (if_pos rfl), State.q_seven _, fun n hn => (hq n).trans (if_neg hn), setQ_advance_frame hstep d c⟩

end Sys2Proof.Machine
end

section
/-! The values after reset, and those with which a launched group begins. -/

namespace Sys2Proof.Machine

@[simp] theorem tget_nil {α : Type} (k : Nat) (d : α) : tget ([] : Table α) k d = d := rfl

/-- R70: after reset each logical core is the built core of its number in its die. -/
theorem reset_coreAt (d : Nat) {c : Nat} (hc : c < 64) : State.reset.coreAt (d * 64 + c) = Core.initial c := by
  have h : (d * 64 + c) % 64 = c := by omega
  exact congrArg Core.initial h

/-- R103: the uniform registers of a launched group: the argument pointer in `s0` and `s1`, zero in the others. -/
theorem newGroup_sreg (t : Team) (n i k : Nat) (c : Ctx) (r : Nat) : tget (newGroup t n i k c).sregs r Word.zero =
    if r = 1 then Word.ofData (BitVec.ofNat 32 (pkArgs n / 2 ^ 32)) else if r = 0 then Word.ofData (BitVec.ofNat 32 (pkArgs n))
    else Word.zero := by
  simp only [newGroup, tget_tset, tget_nil, eq_comm (a := r)]

/-- R222: every uniform predicate of a launched group is false. -/
theorem newGroup_q {s : State} {t : Team} {n i k : Nat} {c : Ctx} (hg : s.g = newGroup t n i k c) {q : Nat} (hq : q < 7) :
    s.q q = some false := by
  rw [State.q, if_neg hq.ne, hg]
  rfl

/-- Settles O60: after reset every table lists nothing, and the uniform file of a launched group lists its arguments. -/
theorem resetAndLaunchValues : Obligations.ResetAndLaunchValues := by
  unfold Obligations.ResetAndLaunchValues
  refine ⟨fun _ => ⟨rfl, rfl⟩, fun _ => rfl, rfl, rfl, fun d _ c hc => ?_, rfl, fun _ => rfl, rfl, rfl, rfl, rfl, fun t n i k c => ?_⟩
  · rw [reset_coreAt d hc]
    exact ⟨rfl, rfl⟩
  · have hs := newGroup_sreg t n i k c
    exact ⟨rfl, rfl, rfl, rfl, rfl, rfl, hs 0, hs 1,
      fun r hr => (hs r).trans (by rw [if_neg (by omega), if_neg (by omega)]), fun q hq => newGroup_q rfl hq, rfl, rfl, rfl⟩

end Sys2Proof.Machine
end

section
/-! Device memory: a word reads as last stored, a line as last written under its key, and every other line as before (R18–R22). -/

namespace Sys2Proof.Machine

theorem tget_tdel {α : Type} (t : Table α) (k j : Nat) (d : α) : tget (tdel t k) j d = if k = j then d else tget t j d := by
  unfold tget
  rw [tfind_tdel]
  split <;> rfl

/-! ### One stored word -/

/-- R4: the bytes of a word give the word again. -/
theorem wordOfBytes_bytesOfWord (x : BitVec 32) : wordOfBytes (bytesOfWord x) = x := by
  apply BitVec.eq_of_toNat_eq
  have := x.isLt
  simp only [wordOfBytes, bytesOfWord, List.getD_cons_zero, List.getD_cons_succ, BitVec.toNat_ofNat]
  omega

/-- A stored word is four bytes and a nibble, and nothing else of the machine changes. -/
theorem setRaw_frame (s : State) (line i : Nat) (w : Word) : ∃ mem nibs, s.setRaw line i w = { s with mem := mem, nibs := nibs } :=
  ⟨_, _, by simp only [State.setRaw, State.setByte]; rfl⟩

theorem tfind_nibs_setRaw (s : State) (line i k : Nat) (w : Word) : tfind (s.setRaw line i w).nibs k =
    if line * 32 + i = k then (if w.res = resOf w.data then none else some w.res) else tfind s.nibs k := by
  simp only [State.setRaw, State.setByte_nibs]
  split
  · exact tfind_tdel _ _ _
  · exact tfind_tins _ _ _ _

/-- The four bytes of the word written. -/
theorem byte_setRaw_same (s : State) (line i : Nat) (w : Word) {k : Nat} (hk : k < 4) :
    (s.setRaw line i w).byte (line * 128 + 4 * i + k) = (bytesOfWord w.data).getD k 0 := by
  rw [State.byte, setRaw_mem, ← State.byte]
  simp only [byte_setByte]
  obtain rfl | rfl | rfl | rfl : k = 0 ∨ k = 1 ∨ k = 2 ∨ k = 3 := by omega
  all_goals simp

theorem rawWord_setRaw_same (s : State) (line i : Nat) (w : Word) : (s.setRaw line i w).rawWord line i = w := by
  have hb : ∀ k < 4, _ := fun k hk => byte_setRaw_same s line i w (k := k) hk
  have hd : wordOfBytes [(bytesOfWord w.data).getD 0 0, (bytesOfWord w.data).getD 1 0, (bytesOfWord w.data).getD 2 0,
      (bytesOfWord w.data).getD 3 0] = w.data := wordOfBytes_bytesOfWord w.data
  have h0 := hb 0 (by decide)
  rw [Nat.add_zero] at h0
  rw [State.rawWord, h0, hb 1 (by decide), hb 2 (by decide), hb 3 (by decide), hd, tfind_nibs_setRaw, if_pos rfl]
  split
  · next h => rw [Option.getD_none, ← h]
  · rfl

theorem rawWord_setRaw_other (s : State) {line i l j : Nat} (w : Word) (hi : i < 32) (hj : j < 32) (h : ¬ (l = line ∧ j = i)) :
    (s.setRaw line i w).rawWord l j = s.rawWord l j := by
  have hb : ∀ k < 4, (s.setRaw line i w).byte (l * 128 + 4 * j + k) = s.byte (l * 128 + 4 * j + k) := fun k hk =>
    byte_setRaw_other s line i _ w (by omega)
  have h0 := hb 0 (by decide)
  rw [Nat.add_zero] at h0
  simp only [State.rawWord]
  rw [h0, hb 1 (by decide), hb 2 (by decide), hb 3 (by decide), tfind_nibs_setRaw, if_neg (by omega)]

/-! ### Words stored one after another in a line -/

/-- Store word `f i` at each index of a list. -/
@[irreducible] def State.setRaws (s : State) (line : Nat) (f : Nat → Word) (is : List Nat) : State := is.foldl (fun s i => s.setRaw line i (f i)) s

theorem setRaws_nil (s : State) (line : Nat) (f : Nat → Word) : s.setRaws line f [] = s := by
  rw [State.setRaws, List.foldl_nil]

theorem setRaws_append (s : State) (line : Nat) (f : Nat → Word) (is : List Nat) (i : Nat) :
    s.setRaws line f (is ++ [i]) = (s.setRaws line f is).setRaw line i (f i) := by
  rw [State.setRaws, State.setRaws, List.foldl_append, List.foldl_cons, List.foldl_nil]

theorem setRaws_frame (s : State) (line : Nat) (f : Nat → Word) (is : List Nat) :
    ∃ mem nibs, s.setRaws line f is = { s with mem := mem, nibs := nibs } := by
  induction is using List.reverseRecOn with
  | nil => exact ⟨s.mem, s.nibs, setRaws_nil s line f⟩
  | append_singleton is i ih =>
    obtain ⟨m, n, h⟩ := ih
    obtain ⟨m1, n1, h1⟩ := setRaw_frame (s.setRaws line f is) line i (f i)
    exact ⟨m1, n1, by rw [setRaws_append, h1, h]⟩

theorem byte_setRaws_other (s : State) {line a : Nat} (f : Nat → Word) {is : List Nat} (h : ∀ i ∈ is, i < 32) (ha : a / 128 ≠ line) :
    (s.setRaws line f is).byte a = s.byte a := by
  induction is using List.reverseRecOn with
  | nil => rw [setRaws_nil]
  | append_singleton is i ih =>
    have hi := h i (by simp)
    rw [setRaws_append, byte_setRaw_other _ _ _ _ _ (by omega), ih fun j hj => h j (by simp [hj])]

theorem rawWord_setRaws (s : State) (line : Nat) (f : Nat → Word) {is : List Nat} (h : ∀ i ∈ is, i < 32) (l : Nat) {j : Nat} (hj : j < 32) :
    (s.setRaws line f is).rawWord l j = if l = line ∧ j ∈ is then f j else s.rawWord l j := by
  induction is using List.reverseRecOn with
  | nil => rw [setRaws_nil, if_neg (by simp)]
  | append_singleton is i ih =>
    rw [setRaws_append]
    by_cases hji : l = line ∧ j = i
    · obtain ⟨rfl, rfl⟩ := hji
      rw [rawWord_setRaw_same, if_pos ⟨rfl, by simp⟩]
    · rw [rawWord_setRaw_other _ _ (h i (by simp)) hj hji, ih fun j hj => h j (by simp [hj])]
      refine if_congr ?_ rfl rfl
      rw [List.mem_append, List.mem_singleton]
      tauto

/-! ### A whole line -/

theorem storeLine_eq (s : State) (key line : Nat) (ws : List Word) : s.storeLine key line ws =
    { s.setRaws line (fun i => ingress (ws.getD i Word.zero)) (List.range 32) with
      syms := tdel (s.setRaws line (fun i => ingress (ws.getD i Word.zero)) (List.range 32)).syms line
      lineKeys := tins (s.setRaws line (fun i => ingress (ws.getD i Word.zero)) (List.range 32)).lineKeys line
        ⟨key, (tfind (s.setRaws line (fun i => ingress (ws.getD i Word.zero)) (List.range 32)).keys key).getD 0⟩ } := by
  rw [State.storeLine, State.setRaws]

/-- R21, R22: a stored line has no wrong symbols of its own and belongs to its key; the rest of the machine is as before. -/
theorem storeLine_frame (s : State) (key line : Nat) (ws : List Word) : ∃ mem nibs, s.storeLine key line ws =
    { s with
      mem := mem
      nibs := nibs
      syms := tdel s.syms line
      lineKeys := tins s.lineKeys line ⟨key, (tfind s.keys key).getD 0⟩ } := by
  obtain ⟨m, n, h⟩ := setRaws_frame s line (fun i => ingress (ws.getD i Word.zero)) (List.range 32)
  exact ⟨m, n, by rw [storeLine_eq, h]⟩

section
variable (s : State) (key line : Nat) (ws : List Word)
theorem storeLine_keys : (s.storeLine key line ws).keys = s.keys := by
  obtain ⟨m, n, h⟩ := storeLine_frame s key line ws; rw [h]
theorem storeLine_pins : (s.storeLine key line ws).pins = s.pins := by
  obtain ⟨m, n, h⟩ := storeLine_frame s key line ws; rw [h]
theorem storeLine_syms : (s.storeLine key line ws).syms = tdel s.syms line := by
  obtain ⟨m, n, h⟩ := storeLine_frame s key line ws; rw [h]
theorem storeLine_lineKeys : (s.storeLine key line ws).lineKeys = tins s.lineKeys line ⟨key, (tfind s.keys key).getD 0⟩ := by
  obtain ⟨m, n, h⟩ := storeLine_frame s key line ws; rw [h]
end

/-- A stored word depends on the bytes of memory and the nibbles listed. -/
theorem rawWord_congr {s t : State} (hmem : t.mem = s.mem) (hnibs : t.nibs = s.nibs) (l j : Nat) : t.rawWord l j = s.rawWord l j := by
  simp only [State.rawWord, State.byte, hmem, hnibs]

theorem rawWord_storeLine (s : State) (key line : Nat) (ws : List Word) (l : Nat) {j : Nat} (hj : j < 32) :
    (s.storeLine key line ws).rawWord l j = if l = line then ingress (ws.getD j Word.zero) else s.rawWord l j := by
  rw [rawWord_congr (s := s.setRaws line (fun i => ingress (ws.getD i Word.zero)) (List.range 32)) (by rw [storeLine_eq])
    (by rw [storeLine_eq]), rawWord_setRaws s line _ (fun i hi => List.mem_range.1 hi) l hj]
  exact if_congr (and_iff_left (List.mem_range.2 hj)) rfl rfl

theorem byte_storeLine_other (s : State) (key : Nat) {line a : Nat} (ws : List Word) (ha : a / 128 ≠ line) :
    (s.storeLine key line ws).byte a = s.byte a := by
  have h := byte_setRaws_other s (fun i => ingress (ws.getD i Word.zero)) (fun i hi => List.mem_range.1 hi) ha
  rw [State.byte, storeLine_eq]
  exact h

/-! ### Words as ingress leaves them (R22) -/

theorem ingress_checks (w : Word) : (ingress w).checks = true := by
  unfold ingress
  split
  · next h =>
    split
    · rfl
    · exact h
  · rfl

/-- A word that passes its check is stored as it is, or as the one poison. -/
theorem ingress_of_checks {w : Word} (h : w.checks = true) : ingress w = if w.isPoison then Word.poison else w := if_pos h

theorem ingress_idem (w : Word) : ingress (ingress w) = ingress w := by
  rw [ingress_of_checks (ingress_checks w)]
  unfold ingress
  split_ifs <;> rfl

theorem ingress_poison : ingress Word.poison = Word.poison := rfl

/-! ### What the decoder and the read check see -/

theorem mem_poisonLine {w : Word} (h : w ∈ poisonLine) : w = Word.poison := List.eq_of_mem_replicate h

/-- R21: a line with at most eight wrong symbols is corrected. -/
theorem decodeSyms_corrects {line : Nat} {bad : List Nat} (h : bad.length ≤ 8) :
    decodeSyms line bad = if bad.length = 0 then ⟨0, 0, none⟩ else ⟨1, bad.length, none⟩ := by
  unfold decodeSyms
  rw [if_pos h]

theorem decodeSyms_corrects_wrong {line : Nat} {bad : List Nat} (h : bad.length ≤ 8) : (decodeSyms line bad).wrong = none := by
  rw [decodeSyms_corrects h]; split <;> rfl

theorem decodeSyms_corrects_status {line : Nat} {bad : List Nat} (h : bad.length ≤ 8) : (decodeSyms line bad).status ≠ 2 := by
  rw [decodeSyms_corrects h]; split <;> simp

theorem decodeSyms_wrong_length {line : Nat} {bad : List Nat} {ws : List Word} (h : (decodeSyms line bad).wrong = some ws) :
    ws.length = 32 := by
  unfold decodeSyms at h
  split_ifs at h
  split at h
  · cases h
  · cases h
    simp

/-- R22: words that pass the read check are 32, and each is poison or has its residue. -/
theorem readChecked_spec {s : State} {key line : Nat} {ws : List Word} (h : s.readChecked key line = some ws) :
    ws.length = 32 ∧ ∀ w ∈ ws, w.checks = true := by
  rw [State.readChecked] at h
  cases hw : (s.decoded line).wrong with
  | some wrong =>
    simp only [hw, Option.ite_none_right_eq_some, Option.some.injEq] at h
    obtain ⟨hall, rfl⟩ := h
    exact ⟨decodeSyms_wrong_length hw, List.all_eq_true.1 hall⟩
  | none =>
    simp only [hw, Option.ite_none_right_eq_some, Option.some.injEq, Bool.and_eq_true] at h
    obtain ⟨⟨-, hchecks⟩, rfl⟩ := h
    exact ⟨by simp, by simpa [State.lineChecks] using hchecks⟩

/-- R20–R22: the words of a read are 32, and storing them again changes none. -/
theorem baseRead_spec (s : State) (key line : Nat) :
    (s.baseRead key line).words.length = 32 ∧ ∀ w ∈ (s.baseRead key line).words, ingress w = w := by
  have hpoison : poisonLine.length = 32 ∧ ∀ w ∈ poisonLine, ingress w = w :=
    ⟨by simp [poisonLine], fun w hw => by rw [mem_poisonLine hw, ingress_poison]⟩
  unfold State.baseRead
  split
  · exact hpoison
  · simp only
    split
    · next ws hws =>
      obtain ⟨hlen, hchk⟩ := readChecked_spec hws
      refine ⟨by simpa using hlen, fun w hw => ?_⟩
      obtain ⟨v, hv, rfl⟩ := List.mem_map.1 hw
      rw [← ingress_of_checks (hchk v hv), ingress_idem]
    · exact hpoison

theorem ingress_baseRead (s : State) (key line i : Nat) :
    ingress ((s.baseRead key line).words.getD i Word.poison) = (s.baseRead key line).words.getD i Word.poison := by
  rw [List.getD_eq_getElem?_getD]
  cases h : (s.baseRead key line).words[i]? with
  | none => rfl
  | some w => exact (baseRead_spec s key line).2 w (List.mem_of_getElem? h)

/-- A read depends on the key slots, on the channel's pins, and on what is stored for its own line. -/
theorem baseRead_congr {s t : State} (k : Nat) {l : Nat} (hkeys : t.keys = s.keys) (hpins : t.pins = s.pins)
    (hsyms : tget t.syms l [] = tget s.syms l []) (hline : tfind t.lineKeys l = tfind s.lineKeys l)
    (hraw : ∀ j < 32, t.rawWord l j = s.rawWord l j) : t.baseRead k l = s.baseRead k l := by
  have hbad : t.badSyms l = s.badSyms l := by rw [State.badSyms, hsyms, hpins, State.badSyms]
  have hmatch : t.keyMatches k l = s.keyMatches k l := by rw [State.keyMatches, hline, hkeys, State.keyMatches]
  have hchecks : t.lineChecks l = s.lineChecks l := by
    rw [Bool.eq_iff_iff, State.lineChecks, State.lineChecks, List.all_eq_true, List.all_eq_true]
    exact forall₂_congr fun j hj => by rw [hraw j (List.mem_range.1 hj)]
  have hwords : (List.range 32).map (t.rawWord l) = (List.range 32).map (s.rawWord l) :=
    List.map_congr_left fun j hj => hraw j (List.mem_range.1 hj)
  have hread : t.readChecked k l = s.readChecked k l := by
    rw [State.readChecked, State.readChecked, State.decoded, State.decoded, hbad, hmatch, hchecks, hwords]
  rw [State.baseRead, State.baseRead, hread, State.decoded, State.decoded, hbad, hkeys]

theorem baseRead_storeLine_other (s : State) (key k : Nat) {line l : Nat} (ws : List Word) (h : l ≠ line) :
    (s.storeLine key line ws).baseRead k l = s.baseRead k l := by
  refine baseRead_congr k (storeLine_keys ..) (storeLine_pins ..) ?_ ?_ fun j hj => ?_
  · rw [storeLine_syms, tget_tdel, if_neg h.symm]
  · rw [storeLine_lineKeys, tfind_tins_other h.symm]
  · rw [rawWord_storeLine _ _ _ _ _ hj, if_neg h]

/-- R21, R22: a line whose wrong symbols are corrected, whose key is its own and whose words pass their checks reads as it is stored. -/
theorem baseRead_good {t : State} {key line : Nat} (hkey : tfind t.keys key ≠ none) (hbad : (t.badSyms line).length ≤ 8)
    (hmatch : t.keyMatches key line = true) (hchecks : t.lineChecks line = true) :
    (t.baseRead key line).words = (List.range 32).map fun i => ingress (t.rawWord line i) := by
  have hwrong : (t.decoded line).wrong = none := decodeSyms_corrects_wrong hbad
  have hstatus : (t.decoded line).status ≠ 2 := decodeSyms_corrects_status hbad
  have hread : t.readChecked key line = some ((List.range 32).map (t.rawWord line)) := by
    simp [State.readChecked, hwrong, hstatus, hmatch, hchecks]
  rw [State.baseRead, if_neg hkey, hread]
  simp only [List.map_map]
  exact List.map_congr_left fun i hi => (ingress_of_checks (List.all_eq_true.1 hchecks i hi)).symm

/-- R13, R18, R22: a line just stored under a valid key reads, under it, as the words that ingress stored. -/
theorem baseRead_storeLine_same {s : State} {key line : Nat} (ws : List Word) (hkey : tfind s.keys key ≠ none)
    (hpins : (sortNat ((tget s.pins (chanOf line) []).flatMap pinSymbols)).length ≤ 8) :
    ((s.storeLine key line ws).baseRead key line).words = (List.range 32).map fun i => ingress (ws.getD i Word.zero) := by
  have hraw : ∀ j ∈ List.range 32, (s.storeLine key line ws).rawWord line j = ingress (ws.getD j Word.zero) := fun j hj => by
    rw [rawWord_storeLine _ _ _ _ _ (List.mem_range.1 hj), if_pos rfl]
  rw [baseRead_good (by rwa [storeLine_keys])]
  · exact List.map_congr_left fun j hj => by rw [hraw j hj, ingress_idem]
  · rwa [State.badSyms, storeLine_syms, storeLine_pins, tget_tdel, if_pos rfl, List.nil_append]
  · obtain ⟨gen, hgen⟩ := Option.ne_none_iff_exists'.1 hkey
    rw [State.keyMatches, storeLine_lineKeys, tfind_tins_same, storeLine_keys, hgen]
    simp
  · exact List.all_eq_true.2 fun j hj => by rw [hraw j hj, ingress_checks]

/-! ### A write of the base die -/

theorem baseWrite_invalid {s : State} {key : Nat} (line : Nat) (mask : BitVec 32) (ws : List Word) (h : tfind s.keys key = none) :
    (s.baseWrite key line mask ws).st = s := by
  rw [State.baseWrite, if_pos h]

theorem bit_allOnes {i : Nat} (h : i < 32) : bit 0xffffffff i = true := by
  exact (BitVec.getLsbD_allOnes (v := 32)).trans (decide_eq_true h)

/-- R19, R20: a masked write with a word to write stores a whole line, whose words outside the mask are those read before. -/
theorem baseWrite_stores {s : State} {key : Nat} (line : Nat) {mask : BitVec 32} (ws : List Word) (hkey : tfind s.keys key ≠ none)
    (hmask : mask ≠ 0) : ∃ ms, (s.baseWrite key line mask ws).st = s.storeLine key line ms ∧ ∀ i < 32, ms.getD i Word.zero =
      if bit mask i then ws.getD i Word.zero else (s.baseRead key line).words.getD i Word.poison := by
  rw [State.baseWrite, if_neg hkey, if_neg hmask]
  split
  · next hfull =>
    refine ⟨ws, rfl, fun i hi => ?_⟩
    rw [hfull, bit_allOnes hi, if_pos rfl]
  · refine ⟨_, rfl, fun i hi => ?_⟩
    rw [List.getD_eq_getElem _ _ (by simpa using hi), List.getElem_map, List.getElem_range]

/-- What a write does to the state: nothing, or a line is stored. -/
theorem baseWrite_st (s : State) (key line : Nat) (mask : BitVec 32) (ws : List Word) :
    (s.baseWrite key line mask ws).st = s ∨ ∃ ms, (s.baseWrite key line mask ws).st = s.storeLine key line ms := by
  by_cases hkey : tfind s.keys key = none
  · exact .inl (baseWrite_invalid line mask ws hkey)
  · by_cases hmask : mask = 0
    · exact .inl (by rw [State.baseWrite, if_neg hkey, if_pos hmask])
    · obtain ⟨ms, h, -⟩ := baseWrite_stores line ws hkey hmask
      exact .inr ⟨ms, h⟩

theorem map_getD_range (ws : List Word) (n : Nat) (d : Word) (h : ws.length = n) : (List.range n).map (fun i => ws.getD i d) = ws := by
  subst h
  exact List.ext_getElem (by simp) fun i h1 h2 => by rw [List.getElem_map, List.getElem_range, List.getD_eq_getElem]

/-- Settles O54: a write stores a whole line or nothing; a stored line reads as ingress left its words, and words read are left as they are. -/
theorem baseDieMemory : Obligations.BaseDieMemory := by
  unfold Obligations.BaseDieMemory
  intro s key line mask ws
  refine ⟨fun hkey hpins => ?_, fun k l hl => ?_, baseWrite_invalid line mask ws, fun h => memWf_baseWrite h key line mask ws,
    fun a ha => ?_, ?_⟩
  · by_cases hmask : mask = 0
    · subst hmask
      rw [State.baseWrite, if_neg hkey, if_pos rfl]
      simp only [Laws.bit_zero, Bool.false_eq_true, if_false]
      exact (map_getD_range _ 32 _ (baseRead_spec s key line).1).symm
    · obtain ⟨ms, hst, hms⟩ := baseWrite_stores line ws hkey hmask
      rw [hst, baseRead_storeLine_same ms hkey hpins]
      refine List.map_congr_left fun i hi => ?_
      rw [hms i (List.mem_range.1 hi)]
      split
      · rfl
      · exact ingress_baseRead s key line i
  all_goals obtain h | ⟨ms, h⟩ := baseWrite_st s key line mask ws <;> rw [h]
  · exact baseRead_storeLine_other s key k ms hl
  · exact byte_storeLine_other s key ms ha
  · obtain ⟨m, n, hframe⟩ := storeLine_frame s key line ms
    rw [hframe]

end Sys2Proof.Machine
end

section
/-! The stack ports: requests and replies (R14–R22), the patrol scrubber (R24) and row repair (R25). -/

namespace Sys2Proof.Machine

theorem tget_tmod {α : Type} (t : Table α) (k j : Nat) (d : α) (f : α → α) :
    tget (tmod t k d f) j d = if k = j then f (tget t k d) else tget t j d := tget_tins t k j _ d

/-! ### Sorted lists without repeats -/

theorem mem_insertNat {x y : Nat} {l : List Nat} : y ∈ insertNat x l ↔ y = x ∨ y ∈ l := by
  induction l with
  | nil => simp [insertNat]
  | cons z r ih =>
    unfold insertNat
    split_ifs with h1 h2
    · simp
    · subst h2; simp
    · simp only [List.mem_cons, ih]
      tauto

/-! ### Requests and replies at a port -/

theorem exec_stackRequests (x : StackReq) (s : State) : exec (.stackRd x) s = .next (s.portArrival x) ∧
    exec (.stackWr x) s = .next (s.portArrival x) ∧ exec (.stackWrm x) s = .next (s.portArrival x) := ⟨rfl, rfl, rfl⟩

/-- R18: under a tag that no unanswered request has used, a request takes effect and its reply sets out. -/
theorem portArrival_fresh {s : State} {x : StackReq}
    (h : s.portSeen.contains (portKey (x.die * 64 + x.slice) (reqTag x.hdr)) = false) : s.portArrival x =
      { (s.stackServe x).1 with
        portSeen := insertNat (portKey (x.die * 64 + x.slice) (reqTag x.hdr)) (s.stackServe x).1.portSeen
        stackQ := (s.stackServe x).1.stackQ ++ [replyEvent (s.stackServe x).2] } := by
  simp only [State.portArrival, h, Bool.false_eq_true, if_false]

/-- R17: under a tag in use a request is discarded and reported, and its channel is fenced. -/
theorem portArrival_seen {s : State} {x : StackReq}
    (h : s.portSeen.contains (portKey (x.die * 64 + x.slice) (reqTag x.hdr)) = true) : s.portArrival x =
      ({ s with fenced := insertNat (x.die * 64 + x.slice) (s.fenced.filter (· != x.die * 64 + x.slice)) } : State).record
        (Rec.event 2 (stackOf (x.die * 64 + x.slice)) 0x44 2 (reqLine x.hdr * 128)) := by
  simp only [State.portArrival, h, if_true]

/-- R16, R17: the reply to a request for a line to be held fills a slice that lacks the line and may keep it, unless it was rejected. -/
theorem takeReply_fills {s : State} {x : StackReply} {v : Nat}
    (hv : tfind s.stackTags (portKey (x.die * 64 + x.slice) (replyTag x.hdr)) = some v) (hodd : v % 2 = 1)
    (hlacks : tfind (s.freeTagOf x).l2 (v / 2) = none) (hkeeps : (s.freeTagOf x).keeps (v / 2) = true) (hok : replyStatus x.hdr ≠ 3) :
    s.takeReply x = (s.freeTagOf x).l2Put (v / 2) (replyWords x) false := by
  simp [State.takeReply, hv, hodd, hlacks, hkeeps, hok]

theorem takeReply_frees {s : State} {x : StackReply} {v : Nat}
    (hv : tfind s.stackTags (portKey (x.die * 64 + x.slice) (replyTag x.hdr)) = some v) (heven : v % 2 = 0) :
    s.takeReply x = s.freeTagOf x := by
  simp [State.takeReply, hv, heven]

theorem exec_stackReadReply {s : State} {x : StackReply} {v : Nat}
    (hv : tfind s.stackTags (portKey (x.die * 64 + x.slice) (replyTag x.hdr)) = some v) :
    exec (.stackReadReply x) s = .next (s.takeReply x).retryAll :=
  congrArg Host.Outcome.next (if_pos (by rw [hv]; rfl))

/-! ### The patrol scrubber -/

theorem decodeSyms_corrects_nsym {line : Nat} {bad : List Nat} (h : bad.length ≤ 8) : (decodeSyms line bad).nsym = bad.length := by
  rw [decodeSyms_corrects h]
  split
  · next h0 => exact h0.symm
  · rfl

/-- R21: beyond eight wrong symbols the decoder finds the codeword uncorrectable, or miscorrects. -/
theorem decodeSyms_uncorrectable {line : Nat} {bad : List Nat} (h : 8 < bad.length) (hmis : Config.miscorrected line bad = none) :
    decodeSyms line bad = ⟨2, 0, none⟩ := by
  rw [decodeSyms, if_neg (by omega), if_neg (by omega), hmis]

theorem decodeSyms_miscorrects {line : Nat} {bad : List Nat} {r : Nat × List Word} (h : 8 < bad.length)
    (hmis : Config.miscorrected line bad = some r) :
    decodeSyms line bad = ⟨1, 1 + r.1 % 8, some ((List.range 32).map (fun i => r.2.getD i Word.poison))⟩ := by
  rw [decodeSyms, if_neg (by omega), if_neg (by omega), hmis]

/-- R24, R65: symbols that the decoder corrects are counted, for the stack and for the row. -/
theorem bookDecode_corrected (s : State) (line : Nat) {status : Nat} (nsym : Nat) (h : status ≠ 2) :
    ∃ fixed rows, s.bookDecode line status nsym = { s with symFixed := fixed, rowFixed := rows } ∧
      tget fixed (stackOf (chanOf line)) 0 = tget s.symFixed (stackOf (chanOf line)) 0 + nsym := by
  simp only [State.bookDecode, if_neg h]
  split
  · exact ⟨_, _, rfl, by rw [tget_tmod, if_pos rfl]⟩
  · exact ⟨s.symFixed, s.rowFixed, rfl, by omega⟩

/-- R24, R169: an uncorrectable codeword is counted and recorded. -/
theorem bookDecode_uncorrectable (s : State) (line nsym : Nat) : (s.bookDecode line 2 nsym).syms = s.syms ∧
    tget (s.bookDecode line 2 nsym).uncorr (stackOf (chanOf line)) 0 = tget s.uncorr (stackOf (chanOf line)) 0 + 1 := by
  simp only [State.bookDecode, if_true, State.record_syms, State.record_uncorr, tget_tmod, and_self]

/-- R24: a codeword written back has no wrong symbols of its own; its words change where the decoder found others. -/
theorem scrubbed_frame (s : State) (line : Nat) (d : Decoded) : ∃ mem nibs,
    s.scrubbed line d = { s with mem := mem, nibs := nibs, syms := tdel s.syms line } ∧ (d.wrong = none → mem = s.mem) := by
  unfold State.scrubbed
  cases d.wrong with
  | none => exact ⟨s.mem, s.nibs, rfl, fun _ => rfl⟩
  | some ws =>
    obtain ⟨m, n, h⟩ := foldl_keeps (fun t : State => ∃ mem nibs, t = { s with mem := mem, nibs := nibs })
      (fun t (w : Word × Nat) => t.setRaw line w.2 w.1)
      (fun t w ht => by
        obtain ⟨m, n, ht⟩ := ht
        obtain ⟨m1, n1, h1⟩ := setRaw_frame t line w.2 w.1
        exact ⟨m1, n1, by rw [h1, ht]⟩)
      ws.zipIdx s ⟨s.mem, s.nibs, rfl⟩
    simp only [h]
    exact ⟨m, n, rfl, fun h => nomatch h⟩

/-- R24: what the decoder makes of a line is booked, and the line is written back unless it is uncorrectable. -/
def State.scrubLine (s : State) (line : Nat) : State :=
  if (s.decoded line).status = 2 then s.bookDecode line (s.decoded line).status (s.decoded line).nsym
  else (s.bookDecode line (s.decoded line).status (s.decoded line).nsym).scrubbed line (s.decoded line)

/-- R24: a scrub comes behind the requests to its line, and may end a pass. -/
theorem exec_patrolScrub (line : Nat) (s : State) :
    ∃ passes, exec (.patrolScrub line) s = .next { (s.settle line).scrubLine line with lastPass := passes } := by
  have hexec : exec (.patrolScrub line) s = .next (if line = lastLineOf (stackOf (chanOf line)) then
      { (s.settle line).scrubLine line with
        lastPass := tins ((s.settle line).scrubLine line).lastPass (stackOf (chanOf line)) ((s.settle line).scrubLine line).gtime }
      else (s.settle line).scrubLine line) := rfl
  rw [hexec]
  generalize (s.settle line).scrubLine line = t
  split
  · exact ⟨_, rfl⟩
  · exact ⟨t.lastPass, rfl⟩

/-- R24: a scrub of a line whose decoding is no UNCORRECTABLE, by that decoding. -/
theorem patrolScrub_corrects {s : State} {line : Nat} {d : Decoded} (hd : (s.settle line).decoded line = d) (hs : d.status ≠ 2) :
    ∃ t, exec (.patrolScrub line) s = .next t ∧ tget t.syms line [] = [] ∧
      tget t.symFixed (stackOf (chanOf line)) 0 = tget (s.settle line).symFixed (stackOf (chanOf line)) 0 + d.nsym ∧
      t.uncorr = (s.settle line).uncorr ∧ t.l2 = (s.settle line).l2 ∧ t.teams = (s.settle line).teams ∧
      (d.wrong = none → t.mem = (s.settle line).mem) := by
  obtain ⟨passes, hexec⟩ := exec_patrolScrub line s
  rw [State.scrubLine, hd, if_neg hs] at hexec
  refine ⟨_, hexec, ?_⟩
  obtain ⟨fixed, rows, hbook, hfixed⟩ := bookDecode_corrected (s.settle line) line d.nsym hs
  obtain ⟨mem, nibs, hscrub, hmem⟩ := scrubbed_frame ((s.settle line).bookDecode line d.status d.nsym) line d
  rw [hscrub, hbook]
  rw [hbook] at hmem
  exact ⟨by rw [tget_tdel, if_pos rfl], hfixed, rfl, rfl, rfl, hmem⟩

theorem patrolScrub_uncorrectable {s : State} {line : Nat} (hd : (s.settle line).decoded line = ⟨2, 0, none⟩) :
    ∃ t, exec (.patrolScrub line) s = .next t ∧ t.syms = (s.settle line).syms ∧
      tget t.uncorr (stackOf (chanOf line)) 0 = tget (s.settle line).uncorr (stackOf (chanOf line)) 0 + 1 ∧ t.mem = (s.settle line).mem := by
  obtain ⟨passes, hexec⟩ := exec_patrolScrub line s
  rw [State.scrubLine, hd, if_pos rfl] at hexec
  obtain ⟨hsyms, huncorr⟩ := bookDecode_uncorrectable (s.settle line) line 0
  exact ⟨_, hexec, hsyms, huncorr, bookDecode_mem ..⟩

/-! ### Row repair -/

/-- Codewords written back one after another. -/
theorem foldl_scrubbed_frame (dec : Nat → Decoded) (ls : List Nat) (s : State) : ∃ mem nibs,
    ls.foldl (fun t l => t.scrubbed l (dec l)) s =
      { s with mem := mem, nibs := nibs, syms := s.syms.filter (fun e => !ls.contains e.1) } ∧
    ((∀ l ∈ ls, (dec l).wrong = none) → mem = s.mem) := by
  induction ls using List.reverseRecOn with
  | nil => exact ⟨s.mem, s.nibs, by simp, fun _ => rfl⟩
  | append_singleton ls l ih =>
    obtain ⟨m, n, h, hm⟩ := ih
    obtain ⟨m1, n1, h1, hm1⟩ := scrubbed_frame (ls.foldl (fun t l => t.scrubbed l (dec l)) s) l (dec l)
    refine ⟨m1, n1, ?_, fun hall => ?_⟩
    · have hfilter : tdel (s.syms.filter (fun e => !ls.contains e.1)) l = s.syms.filter (fun e => !(ls ++ [l]).contains e.1) := by
        rw [tdel, List.filter_filter]
        refine List.filter_congr fun e _ => ?_
        rw [Bool.eq_iff_iff]
        simp
        tauto
      rw [List.foldl_append, List.foldl_cons, List.foldl_nil, h1, h, hfilter]
    · rw [hm1 (hall l (by simp)), h]
      exact hm fun j hj => hall j (by simp [hj])

/-- R25: the lines that a repair frees of wrong symbols. -/
theorem mem_rowFixable {s : State} {chan row l : Nat} : l ∈ s.rowFixable chan row ↔
    ∃ e ∈ s.syms, (chanOf e.1 = chan ∧ Config.rowOfLine e.1 = row ∧ (s.decoded e.1).status ≠ 2) ∧ e.1 = l := by
  simp only [State.rowFixable, List.mem_map, List.mem_filter, Bool.and_eq_true, beq_iff_eq, bne_iff_ne, and_assoc]

theorem rowRepair_idle {s : State} {die slice row : Nat} (h : s.rowDue (die * 64 + slice) row = false) :
    exec (.rowRepair die slice row) s = .next s :=
  if_pos (.inr (by rw [h]; rfl))

/-- R25: a row that calls for repair moves to a spare row, its codewords as the decoder corrects them. -/
theorem rowRepair_eq {s : State} {die slice row : Nat} (hroom : tget s.spareRows (die * 64 + slice) 0 < 64)
    (h : s.rowDue (die * 64 + slice) row = true) : exec (.rowRepair die slice row) s = .next
      { (s.rowFixable (die * 64 + slice) row).foldl (fun t l => t.scrubbed l (s.decoded l)) s with
        spareRows := tins s.spareRows (die * 64 + slice) (tget s.spareRows (die * 64 + slice) 0 + 1)
        rowFixed := tdel s.rowFixed ((die * 64 + slice) * 2 ^ 32 + row)
        twin := { s.twin with sr := if tget s.spareRows (die * 64 + slice) 0 + 1 > 32 then s.twin.sr ||| 2 else s.twin.sr } } :=
  if_neg (by rw [h]; simpa using hroom)

theorem rowRepair_repairs {s : State} {die slice row : Nat} (hroom : tget s.spareRows (die * 64 + slice) 0 < 64)
    (h : s.rowDue (die * 64 + slice) row = true) : ∃ t, exec (.rowRepair die slice row) s = .next t ∧
      tget t.spareRows (die * 64 + slice) 0 = tget s.spareRows (die * 64 + slice) 0 + 1 ∧
      ((∀ e ∈ s.syms, chanOf e.1 = die * 64 + slice → Config.rowOfLine e.1 = row → (s.decoded e.1).wrong = none) → t.mem = s.mem) ∧
      (32 ≤ tget s.spareRows (die * 64 + slice) 0 → t.twin.sr.getLsbD 1 = true) ∧
      t.syms = s.syms.filter (fun e => !(s.rowFixable (die * 64 + slice) row).contains e.1) := by
  refine ⟨_, rowRepair_eq hroom h, ?_⟩
  obtain ⟨mem, nibs, hfold, hmem⟩ := foldl_scrubbed_frame s.decoded (s.rowFixable (die * 64 + slice) row) s
  rw [hfold]
  refine ⟨by rw [tget_tins, if_pos rfl], fun hwrong => hmem fun l hl => ?_, fun hused => ?_, rfl⟩
  · obtain ⟨e, he, ⟨hchan, hrow, -⟩, rfl⟩ := mem_rowFixable.1 hl
    exact hwrong e he hchan hrow
  · simp only
    rw [if_pos (by omega), BitVec.getLsbD_or]
    simp

/-- Settles O30: by the decoder's three answers for the scrub, and by the lines that a repair takes for row repair. -/
theorem stackPorts : Obligations.StackPorts := by
  unfold Obligations.StackPorts
  intro s
  refine ⟨fun x => ⟨fun hfresh => ?_, fun hseen => ?_⟩, fun x v hv => ⟨rfl, fun heven => ?_, fun hodd hlacks hkeeps hok => ?_⟩,
    fun line => ⟨fun hn => ?_, fun hn hmis => ?_, fun r hn hmis => ?_⟩,
    fun die slice row => ⟨fun hroom hdue => ?_, rowRepair_idle⟩⟩
  · rw [← portArrival_fresh hfresh]
    exact exec_stackRequests x s
  · refine ⟨_, exec_stackRequests x s, ?_⟩
    rw [portArrival_seen hseen]
    simp only [State.record_fenced, State.record_mem, State.record_stackQ, State.record_portSeen, and_self, and_true]
    exact List.contains_iff_mem.2 (mem_insertNat.2 (.inl rfl))
  · rw [exec_stackReadReply hv, takeReply_frees hv heven]
    rfl
  · rw [exec_stackReadReply hv, takeReply_fills hv hodd hlacks hkeeps hok]
    rfl
  · obtain ⟨t, hexec, hsyms, hfixed, -, hl2, hteams, hmem⟩ := patrolScrub_corrects (s := s) (line := line) rfl (decodeSyms_corrects_status hn)
    exact ⟨t, hexec, hsyms, hfixed.trans (by rw [State.decoded, decodeSyms_corrects_nsym hn]), hmem (decodeSyms_corrects_wrong hn), hl2, hteams⟩
  · exact patrolScrub_uncorrectable (decodeSyms_uncorrectable hn hmis)
  · obtain ⟨t, hexec, hsyms, hfixed, huncorr, -⟩ := patrolScrub_corrects (decodeSyms_miscorrects hn hmis) (by simp)
    exact ⟨t, hexec, hsyms, hfixed, huncorr⟩
  · obtain ⟨t, hexec, hrows, hmem, hsr, hsyms⟩ := rowRepair_repairs hroom hdue
    refine ⟨t, hexec, hrows, hmem, hsr, fun e he hchan hrow => ?_, fun e he hkeep => ?_⟩
    · rw [hsyms, List.mem_filter] at he
      by_contra hs
      have hmem := mem_rowFixable.2 ⟨e, he.1, ⟨hchan, hrow, hs⟩, rfl⟩
      simp [hmem] at he
    · rw [hsyms, List.mem_filter]
      refine ⟨he, ?_⟩
      rw [Bool.not_eq_true', ← Bool.not_eq_true, List.contains_iff_mem, mem_rowFixable]
      rintro ⟨e', -, ⟨hchan, hrow, hs⟩, hl⟩
      rw [hl] at hchan hrow hs
      obtain h | h | h := hkeep
      · exact h hchan
      · exact h hrow
      · exact hs h

end Sys2Proof.Machine
end

section
/-! The links of the mesh: failed flits and retraining (R29, R30), and the rewriting of the routing tables (R32). -/

namespace Sys2Proof.Machine

/-! ### One link -/

theorem link_modLink (s : State) (l k : Nat) (f : Link → Link) : (s.modLink l f).link k = if l = k then f (s.link l) else s.link k :=
  tget_tmod s.links l k Link.initial f

theorem link_modLink_same (s : State) (l : Nat) (f : Link → Link) : (s.modLink l f).link l = f (s.link l) := by
  rw [link_modLink, if_pos rfl]

theorem link_modLink_other (s : State) {l k : Nat} (f : Link → Link) (h : k ≠ l) : (s.modLink l f).link k = s.link k := by
  rw [link_modLink, if_neg h.symm]

/-- R29: sending flits takes sequence numbers and fills the replay buffer. -/
theorem foldl_transmit_frame (bs : List (List Byte)) (x : Link) :
    ∃ seq buf, bs.foldl Link.transmit x = { x with seq := seq, buf := buf } := by
  induction bs using List.reverseRecOn with
  | nil => exact ⟨x.seq, x.buf, rfl⟩
  | append_singleton bs b ih =>
    obtain ⟨seq, buf, h⟩ := ih
    rw [List.foldl_append, h]
    exact ⟨_, _, rfl⟩

/-- R29: a failed flit is counted as an error and as a replay. -/
theorem Link.fail_counts (x : Link) : x.fail.crcErrs = x.crcErrs + 1 ∧ x.fail.replays = x.replays + 1 := by
  unfold Link.fail
  simp only
  split <;> exact ⟨rfl, rfl⟩

/-- R29: before the sixteenth failure in a row a negative acknowledgement names the flit that the receiver awaits. -/
theorem Link.fail_early {x : Link} (h : x.fails < 15) : x.fail.nak = some x.rx ∧ x.fail.rx = x.rx ∧ x.fail.fails = x.fails + 1 := by
  unfold Link.fail
  simp only
  rw [if_neg (by omega)]
  exact ⟨rfl, rfl, rfl⟩

/-- R29: the sixteenth failure in a row retrains the link. -/
theorem Link.fail_sixteenth {x : Link} (h : 15 ≤ x.fails) (hup : x.state = 0) : x.fail.state = 1 ∧ x.fail.fails = 0 := by
  unfold Link.fail
  simp only
  rw [if_pos ⟨by omega, hup⟩]
  exact ⟨rfl, rfl⟩

/-- R29: the flits of the packet under way have been sent, perhaps just now, when the first of them fails. -/
theorem exec_flitCrcFail (s : State) (l : Nat) : ∃ seq buf,
    exec (.flitCrcFail l) s = .next (s.modLink l (fun _ => ({ s.link l with seq := seq, buf := buf } : Link).fail)) := by
  have hsame : ∀ y : Link, (∃ seq buf, y = { s.link l with seq := seq, buf := buf }) → ∃ seq buf,
      Host.Outcome.next (φ := Fault) (ρ := Refusal) (s.modLink l (fun _ => y.fail)) =
        .next (s.modLink l (fun _ => ({ s.link l with seq := seq, buf := buf } : Link).fail)) := by
    rintro y ⟨seq, buf, rfl⟩
    exact ⟨seq, buf, rfl⟩
  refine hsame (match (s.link l).owed, s.flight.find? (fun p => pktOk p && originOf p != p.hdr.dst.toNat && s.crosses p l) with
    | none, some p => (flitBytes p).foldl Link.transmit (s.link l)
    | _, _ => s.link l) ?_
  split
  · exact foldl_transmit_frame _ _
  · exact ⟨_, _, rfl⟩

theorem exec_linkRetrain {s : State} {l : Nat} (h : (s.link l).state = 0) :
    exec (.linkRetrain l) s = .next (s.modLink l (fun x => { x with state := 1, fails := 0 })) := by
  have h1 : s.modLink l (fun x => if x.state = 0 then { x with state := 1, fails := 0 } else x) =
      s.modLink l (fun x => { x with state := 1, fails := 0 }) :=
    congrArg (fun x => { s with links := tins s.links l x }) (if_pos h)
  exact congrArg Host.Outcome.next h1

/-- R30: the end of a retraining changes the links only as `modLink` says, beside the record of it and the status register. -/
theorem linkRetrainDone_links {s : State} {l : Nat} (bad : Nat) (h : (s.link l).state = 1) : ∃ t, exec (.linkRetrainDone l bad) s = .next t ∧
    t.links = (s.modLink l (fun x => { x with
      state := if (s.link l).lanesUsed + bad ≤ 2 then 0 else 2
      lanesUsed := min 2 ((s.link l).lanesUsed + bad)
      fails := 0 })).links :=
  ⟨_, if_neg (not_not.2 h), rfl⟩

/-! ### Fenced links and the packets they hold -/

/-- R32 step 1: links fenced one after another. -/
theorem foldl_fence_frame (ls : List Nat) (s : State) : ∃ links,
    ls.foldl (fun (s : State) l => s.modLink l (fun x => { x with state := 3 })) s = { s with links := links } ∧
    ∀ k ∈ ls, (tget links k Link.initial).state = 3 := by
  induction ls using List.reverseRecOn with
  | nil => exact ⟨s.links, rfl, fun k hk => nomatch hk⟩
  | append_singleton ls l ih =>
    obtain ⟨links, h, hk⟩ := ih
    refine ⟨tmod links l Link.initial (fun x => { x with state := 3 }), by rw [List.foldl_append, h]; rfl, fun k hmem => ?_⟩
    rw [tget_tmod]
    split
    · rfl
    · next hne => exact hk k ((List.mem_append.1 hmem).resolve_right fun h => hne (List.mem_singleton.1 h).symm)

/-- The acknowledgement of a lost request goes back to its source. -/
theorem routeLostAck_dst (n : Nat) (p : Packet) : (routeLostAck n p).hdr.dst = p.hdr.src :=
  (BitVec.ofNat_toNat 4 p.hdr.src).trans (BitVec.setWidth_eq _)

/-- R32 step 1: of the packets that a lost die's links held, none is left whose destination is the die. -/
theorem loseHeld_dst {s : State} {d : Nat} {q : Packet} (h : q ∈ (s.loseHeld (fun p => s.passes p d) (some d)).flight) :
    q.hdr.dst.toNat ≠ d := by
  obtain ⟨p, -, hp⟩ := List.mem_filterMap.1 h
  split_ifs at hp with hsrc hheld hreq hdst <;> cases hp
  · intro hd
    simp [State.passes, hd] at hheld
  · intro hd
    rw [routeLostAck_dst] at hd
    simp [hd] at hsrc
  · intro hd
    simp [hd] at hdst

/-- R32 step 2: injection stops. -/
def State.stopped (s : State) : State := { s with twin := { s.twin with stopInject := true } }

theorem link_stopped (s : State) (l : Nat) : s.stopped.link l = s.link l := rfl

theorem link_loseHeld (s : State) (held : Packet → Bool) (die : Option Nat) (l : Nat) : (s.loseHeld held die).link l = s.link l := rfl

theorem exec_routingRewrite_die (s : State) (d : Nat) : exec (.routingRewrite (.die d)) s = .next
    (((List.range 14).filter (fun l => (linkEnds.getD l (9, 9)).1 == d || (linkEnds.getD l (9, 9)).2 == d)).foldl
      (fun (s : State) l => s.modLink l (fun x => { x with state := 3 })) (s.loseHeld (fun p => s.passes p d) (some d))).stopped := rfl

theorem exec_routingRewrite_link (s : State) (l : Nat) : exec (.routingRewrite (.link l)) s = .next
    ((s.loseHeld (fun p => s.crosses p l) none).modLink l (fun x => { x with state := 3 })).stopped := rfl

theorem routingRewrite_die (s : State) (d : Nat) : ∃ t, exec (.routingRewrite (.die d)) s = .next t ∧ t.twin.stopInject = true ∧
    (∀ k < 14, (linkEnds.getD k (9, 9)).1 = d ∨ (linkEnds.getD k (9, 9)).2 = d → (t.link k).state = 3) ∧
    ∀ p ∈ t.flight, p.hdr.dst.toNat ≠ d := by
  obtain ⟨links, hfold, hfenced⟩ := foldl_fence_frame
    ((List.range 14).filter (fun l => (linkEnds.getD l (9, 9)).1 == d || (linkEnds.getD l (9, 9)).2 == d))
    (s.loseHeld (fun p => s.passes p d) (some d))
  refine ⟨_, exec_routingRewrite_die s d, rfl, ?_⟩
  rw [hfold]
  refine ⟨fun k hk hends => hfenced k (List.mem_filter.2 ⟨List.mem_range.2 hk, ?_⟩), fun p hp => loseHeld_dst hp⟩
  simpa only [Bool.or_eq_true, beq_iff_eq] using hends

theorem routingRewrite_link (s : State) (l : Nat) : ∃ t, exec (.routingRewrite (.link l)) s = .next t ∧ t.twin.stopInject = true ∧
    (t.link l).state = 3 ∧ ∀ k, k ≠ l → t.link k = s.link k := by
  refine ⟨_, exec_routingRewrite_link s l, rfl, ?_, fun k hk => ?_⟩
  · rw [link_stopped, link_modLink_same]
  · rw [link_stopped, link_modLink_other _ _ hk, link_loseHeld]

/-! ### New tables -/

theorem minBy_mem {α : Type} {f : α → Nat} {l : List α} {x : α} (h : minBy f l = some x) : x ∈ l := by
  induction l with
  | nil => cases h
  | cons y r ih =>
    rw [minBy] at h
    cases hr : minBy f r with
    | none =>
      rw [hr] at h
      cases h
      exact List.mem_cons_self
    | some z =>
      rw [hr] at h
      simp only at h
      split at h <;> cases h
      · exact List.mem_cons_of_mem _ (ih hr)
      · exact List.mem_cons_self

/-- A key whose entries all hold one value is found with it. -/
theorem tfind_of_mem {α : Type} {t : Table α} {k : Nat} {v : α} (h : (k, v) ∈ t) (huniq : ∀ e ∈ t, e.1 = k → e.2 = v) : tfind t k = some v := by
  induction t with
  | nil => cases h
  | cons e r ih =>
    obtain ⟨a, x⟩ := e
    rw [tfind]
    split
    · next ha => exact congrArg some (huniq (a, x) List.mem_cons_self ha)
    · next ha =>
      refine ih ((List.mem_cons.1 h).resolve_left fun he => ha (congrArg Prod.fst he).symm) fun e he => ?_
      exact huniq e (List.mem_cons_of_mem _ he)

/-- The neighbours of a node depend on the links and on the dies lost. -/
theorem hops1_congr {s t : State} (hlinks : t.links = s.links) (hlost : t.twin.lostDies = s.twin.lostDies) (n : Nat) : t.hops1 n = s.hops1 n := by
  have hlink : ∀ l, t.link l = s.link l := fun l => congrArg (fun ls => tget ls l Link.initial) hlinks
  have hcut : ∀ l, t.linkCut l = s.linkCut l := fun l => by rw [State.linkCut, hlost, State.linkCut]
  have hup : ∀ l, t.linkUp l = s.linkUp l := fun l => by rw [State.linkUp, hlink, hcut, State.linkUp]
  simp only [State.hops1, hup]

/-- R32 step 4: the next node of a shortest path is a neighbour over a link in use. -/
theorem shortHop_neighbour {s : State} {n dst m : Nat} (h : s.shortHop n dst = some m) : (s.hops1 n).any (fun e => e.1 == m) = true := by
  unfold State.shortHop at h
  simp only at h
  split at h
  · cases h
  · obtain ⟨e, he, rfl⟩ := Option.map_eq_some_iff.1 h
    exact List.any_eq_true.2 ⟨e, (List.mem_filter.1 (minBy_mem he)).1, beq_self_eq_true _⟩

/-- R32 step 4: the entry of a node and a destination in the new tables. -/
theorem tfind_newRoutes (s : State) {n x : Nat} (hn : n < 9) (hx : x < 9) :
    tfind s.newRoutes (n * 16 + x) = some (match s.shortHop n x with | some m => m + 1 | none => 0) := by
  refine tfind_of_mem ?_ fun e he hkey => ?_
  · exact List.mem_flatMap.2 ⟨n, List.mem_range.2 hn, List.mem_map.2 ⟨x, List.mem_range.2 hx, rfl⟩⟩
  · obtain ⟨n', hn', he⟩ := List.mem_flatMap.1 he
    obtain ⟨x', hx', rfl⟩ := List.mem_map.1 he
    have hx9 := List.mem_range.1 hx'
    obtain rfl : n' = n := by simp only at hkey; omega
    obtain rfl : x' = x := by simp only at hkey; omega
    rfl

theorem nextHop_newRoutes {s t : State} (hroutes : t.routes = s.newRoutes) {n x m : Nat} (hn : n < 9) (hx : x < 9)
    (h : t.nextHop n x = some m) : s.shortHop n x = some m := by
  rw [State.nextHop, hroutes, tfind_newRoutes s hn hx] at h
  cases hs : s.shortHop n x with
  | none => simp [hs] at h
  | some k => simpa [hs] using h

/-- R32 step 3: what stands for a packet that the mesh held is no request. -/
theorem isRequest_answered (p : Packet) : isRequest (answered p) = false := by
  unfold answered
  simp only
  split_ifs with h1 h2
  · rfl
  · rfl
  · exact Bool.eq_false_iff.2 h1

/-- R32 steps 3 to 5: the mesh is emptied, the new tables are loaded and measured, and what waited sets out. -/
theorem exec_routingResume (s : State) : ∃ t, exec .routingResume s = .next t ∧ t.twin.stopInject = false ∧ t.routes = s.newRoutes ∧
    t.links = s.links ∧ t.twin.lostDies = s.twin.lostDies ∧ t.outbox = [] ∧
    t.twin.meas = tmod s.twin.meas 6 [] (fun l => l ++ [s.newRoutes.map (fun e => BitVec.ofNat 8 e.2)]) ∧
    t.flight = (s.loseHeld (fun p => originOf p != p.hdr.dst.toNat) none).flight.map
      (fun p => if originOf p = p.hdr.dst.toNat then p else answered p) ++ s.outbox :=
  ⟨_, rfl, rfl, rfl, rfl, rfl, rfl, rfl, rfl⟩

theorem isRequest_emptied {f : List Packet} {p : Packet} (hp : p ∈ f.map (fun p => if originOf p = p.hdr.dst.toNat then p else answered p))
    (horigin : originOf p ≠ p.hdr.dst.toNat) : isRequest p = false := by
  obtain ⟨q, -, rfl⟩ := List.mem_map.1 hp
  split_ifs at horigin ⊢ with h
  · exact absurd h horigin
  · exact isRequest_answered q

/-- Settles O35: each event acts on one link or rewrites the tables, and the tables' hops are those of shortest paths. -/
theorem meshLinks : Obligations.MeshLinks := by
  unfold Obligations.MeshLinks
  intro s l
  refine ⟨?_, fun hup => ⟨_, exec_linkRetrain hup, ?_, fun k hk => link_modLink_other s _ hk⟩, fun bad hretrain => ?_, routingRewrite_die s,
    routingRewrite_link s l, ?_⟩
  · obtain ⟨seq, buf, hexec⟩ := exec_flitCrcFail s l
    refine ⟨_, hexec, ?_⟩
    rw [link_modLink_same]
    obtain ⟨hcrc, hreplays⟩ := Link.fail_counts ({ s.link l with seq := seq, buf := buf } : Link)
    exact ⟨hcrc, hreplays, fun h => Link.fail_early h, fun h hup => Link.fail_sixteenth h hup, fun k hk => link_modLink_other s _ hk⟩
  · rw [link_modLink_same]
  · obtain ⟨t, hexec, hlinks⟩ := linkRetrainDone_links bad hretrain
    have hlink : ∀ k, t.link k = _ := fun k => congrArg (fun ls => tget ls k Link.initial) hlinks
    refine ⟨t, hexec, ?_⟩
    rw [hlink l, ← State.link, link_modLink_same]
    exact ⟨rfl, rfl, rfl, fun k hk => (hlink k).trans (link_modLink_other s _ hk)⟩
  · obtain ⟨t, hexec, hinject, hroutes, hlinks, hlost, hout, hmeas, hflight⟩ := exec_routingResume s
    refine ⟨t, _, hexec, hinject, fun n hn x hx m hm => ?_, ?_, hflight, hout, fun p => isRequest_emptied⟩
    · rw [hops1_congr hlinks hlost]
      exact shortHop_neighbour (nextHop_newRoutes hroutes hn hx hm)
    · rw [hmeas, tget_tmod, if_pos rfl]

end Sys2Proof.Machine
end

section
/-! Packets and replies at the agents they are for (R26, R28, R32, R58, R184, R185, R315). -/

namespace Sys2Proof.Machine

/-! ### Word masks -/

theorem mem_lanesOf {m : BitVec 32} {i : Nat} : i ∈ lanesOf m ↔ i < 32 ∧ bit m i = true := by
  rw [lanesOf, List.mem_filter, List.mem_range]

theorem bit_and (m n : BitVec 32) (i : Nat) : bit (m &&& n) i = (bit m i && bit n i) := BitVec.getLsbD_and

theorem bit_maskOf {ls : List Nat} {i : Nat} : bit (maskOf ls) i = true ↔ i < 32 ∧ i ∈ ls := by
  induction ls using List.reverseRecOn with
  | nil => simp [maskOf, bit]
  | append_singleton ls j ih =>
    have h : maskOf (ls ++ [j]) = maskOf ls ||| (1#32 <<< j) := by rw [maskOf, List.foldl_append]; rfl
    have hj : (1#32 <<< j).getLsbD i = true ↔ i < 32 ∧ i = j := by
      simp only [BitVec.getLsbD_shiftLeft, Bool.and_eq_true, decide_eq_true_eq, Bool.not_eq_true', decide_eq_false_iff_not,
        BitVec.getLsbD_one]
      omega
    rw [h, bit, BitVec.getLsbD_or, Bool.or_eq_true, hj, List.mem_append, List.mem_singleton, and_or_left, ← ih, bit]

/-- Two masks with the same bits are the same. -/
theorem mask_ext {m n : BitVec 32} (h : ∀ i < 32, bit m i = true ↔ bit n i = true) : m = n :=
  BitVec.eq_of_getLsbD_eq fun i hi => Bool.eq_iff_iff.2 (h i hi)

theorem maskOf_lanesOf (m : BitVec 32) : maskOf (lanesOf m) = m :=
  mask_ext fun i hi => by rw [bit_maskOf, mem_lanesOf]; tauto

/-- The mask of words named by index. -/
theorem maskOf_named {α : Type} (m : BitVec 32) (w : Nat → α) : maskOf (((lanesOf m).map (fun i => (i, w i))).map (·.1)) = m := by
  rw [List.map_map, show (Prod.fst ∘ fun i => (i, w i)) = id from rfl, List.map_id, maskOf_lanesOf]

theorem maskOf_nil : maskOf [] = 0 := rfl

/-! ### Well-formed packets and awaited replies -/

theorem onPacket_ok {p : Packet} (h : pktOk p = true) (s : State) (f : State → State) : s.onPacket p f = f s := if_pos h

/-- R28: a reply acts on the request that awaits it. -/
theorem onReply_awaited {s : State} {p : Packet} {t : Txn} (h : s.Awaited p t) (f : State → Txn → State) : s.onReply p f = f s t := by
  obtain ⟨hok, htxn⟩ := h
  rw [State.onReply, onPacket_ok hok, htxn]

section
variable {s : State} {p : Packet} {t : Txn} (h : s.Awaited p t)
include h

/-- R183, R185: the words of a read reach the load that asked for them. -/
theorem dataReply_load {r : GroupRef} {id : Nat} {inst : Bool} (hagent : t.agent = .load r id inst) :
    let ws := (lanesOf (p.hdr.aux &&& t.pkt.hdr.aux)).map (fun i => (i, windowWord p.flits i))
    s.dataReply p = ((s.fill r id (txnTag t) ws).partTxn t (maskOf (ws.map (·.1)))).fillL1 inst (r.die * 64 + r.core) (txnTag t) ws := by
  simp only [State.dataReply, onReply_awaited h, State.readArrives, hagent, Option.getD_some]

/-- R184: a grant of words none of whose revocations was deferred. -/
theorem grant_undeferred {c : Nat} (hagent : t.agent = .reg c)
    (hpending : ∀ i < 32, bit (p.hdr.aux &&& t.pkt.hdr.aux) i = true →
      ∃ ws b w, tfind s.l1 (l1Key c (pktTag p) i) = some ⟨.pending ws false b, w⟩) :
    exec (.grant p) s = .next ((s.granted c (pktTag p) (p.hdr.aux &&& t.pkt.hdr.aux)).dropTxn t).retryAll := by
  refine congrArg Host.Outcome.next ((onReply_awaited h _).trans ?_)
  simp only [hagent]
  refine congrArg State.retryAll (if_pos (congrArg maskOf (List.filter_eq_nil_iff.2 fun i hi => ?_)))
  obtain ⟨hi, hbit⟩ := mem_lanesOf.1 hi
  obtain ⟨ws, b, w, hw⟩ := hpending i hi hbit
  rw [hw]
  exact Bool.false_ne_true

/-- R315: the answer to an atomic is its old value, or names no word when the atomic failed. -/
theorem atomicResult_atom {r : GroupRef} {id lane : Nat} (hagent : t.agent = .atom r id lane) : exec (.atomicResult p) s =
    .next (if p.hdr.aux = 0 ∧ t.pkt.hdr.aux ≠ 0 then (s.dropTxn t).atomFailed r id lane
      else (s.dropTxn t).atomDone r id lane ((p.flits.getD 0 []).take (max 1 (lanesOf t.pkt.hdr.aux).length))) := by
  refine congrArg Host.Outcome.next ((onReply_awaited h _).trans ?_)
  simp only [hagent]

theorem writeAck_store {r : GroupRef} (hagent : t.agent = .store r) : exec (.writeAck p) s = .next ((s.dropTxn t).writeDone r).retryAll := by
  refine congrArg Host.Outcome.next ((onReply_awaited h _).trans ?_)
  simp only [State.completeTxn, hagent]

theorem done_slot {r : GroupRef} {ch : Nat} (hagent : t.agent = .slot r ch) : exec (.done p) s =
    .next (State.sendControls ((s.dropTxn t).writeDone r).controls ((s.dropTxn t).writeDone r)) := by
  refine congrArg Host.Outcome.next ((onReply_awaited h _).trans ?_)
  simp only [State.completeTxn, hagent]

/-- R32: a request whose route was lost is sent once more, unless its destination is lost. -/
theorem routeLost_retried (hfirst : t.retried = false) (halive : s.twin.lostDies.contains t.pkt.hdr.dst.toNat = false) :
    exec (.routeLost p) s = .next (({ s with
      txns := s.txns.map (fun x => if t.same x then { x with retried := true } else x) } : State).send t.pkt) := by
  refine congrArg Host.Outcome.next ((onReply_awaited h _).trans (if_neg ?_))
  rw [hfirst, halive]
  exact Bool.false_ne_true

theorem routeLost_fails (hover : t.retried = true ∨ s.twin.lostDies.contains t.pkt.hdr.dst.toNat = true) :
    exec (.routeLost p) s = .next (s.failTxn t) :=
  congrArg Host.Outcome.next ((onReply_awaited h _).trans (if_pos (Bool.or_eq_true _ _ ▸ hover)))

/-- R58: a refused read delivers poison. -/
theorem refused_load {r : GroupRef} {id : Nat} {inst : Bool} (hagent : t.agent = .load r id inst) : exec (.refused p) s =
    .next ((s.fill r id (txnTag t) ((lanesOf t.pkt.hdr.aux).map (fun i => (i, Word.poison)))).dropTxn t) := by
  refine congrArg Host.Outcome.next ((onReply_awaited h _).trans ?_)
  simp only [State.failTxn, hagent]

/-- R58, R71, R152: a refused write of a resident team's group is recorded at grade 3. -/
theorem refused_store {r : GroupRef} {tm : Team} (hagent : t.agent = .store r) (hcore : r.die ≠ kilnDie)
    (hteam : s.teamAt (grpKey r) = some tm) : exec (.refused p) s =
      .next (((s.gradeGrid tm.grid 3).record { Rec.event 0 (r.die * 64 + r.core) cPerm 3 t.handle.toNat with
        grid := tm.grid
        teamT := tm.t
        group := r.grp
        mode := groupMode tm r.grp
        cause := refusedCause (groupMode tm r.grp) }).failTxn t) := by
  refine congrArg Host.Outcome.next ((onReply_awaited h _).trans ?_)
  simp only [hagent, State.refusedBy, if_neg hcore, hteam]

end

/-- Settles O33: by the agent of the request that each reply answers. -/
theorem replies : Obligations.Replies := by
  unfold Obligations.Replies
  intro s p t h
  exact ⟨fun r id inst hagent => ⟨congrArg Host.Outcome.next (dataReply_load h hagent), congrArg Host.Outcome.next (dataReply_load h hagent)⟩,
    fun c hagent hpending => grant_undeferred h hagent hpending, fun r id lane hagent => atomicResult_atom h hagent,
    fun r hagent => writeAck_store h hagent, fun r ch hagent => done_slot h hagent, routeLost_retried h, routeLost_fails h,
    fun r id inst hagent => refused_load h hagent, fun r tm hagent hcore hteam => refused_store h hagent hcore hteam⟩

end Sys2Proof.Machine
end

section
/-! What a core answers to its lines' homes, and what a home does with what its cores give up (R185, R187, R189). -/

namespace Sys2Proof.Machine

/-! ### A line of the ownership registry -/

/-- A line that holds something is listed as it was updated. -/
theorem ownLine_modOwn {s : State} {tag : Nat} {f : OwnLine → OwnLine}
    (h : ((f (s.ownLine tag)).owners.isEmpty && (f (s.ownLine tag)).holders.isEmpty && (f (s.ownLine tag)).asked.isEmpty &&
      (f (s.ownLine tag)).partials.isEmpty) = false) : (s.modOwn tag f).ownLine tag = f (s.ownLine tag) := by
  rw [State.modOwn]
  simp only [h, Bool.false_eq_true, if_false]
  rw [State.ownLine, tfind_tins_same, Option.getD_some]

/-! ### Messages to a core -/

/-- The named words of a line that have a property: none, or all of them. -/
theorem filter_lanesOf_none {q : Nat → Bool} {m : BitVec 32} (h : ∀ i ∈ lanesOf m, q i = false) : (lanesOf m).filter q = [] :=
  List.filter_eq_nil_iff.2 fun i hi => Bool.eq_false_iff.1 (h i hi)

theorem filter_lanesOf_all {q : Nat → Bool} {m : BitVec 32} (h : ∀ i ∈ lanesOf m, q i = true) : (lanesOf m).filter q = lanesOf m :=
  List.filter_eq_self.2 h

section
variable {s : State} {p : Packet} (hok : pktOk p = true)
include hok

/-- R185: an owner sends the words asked for, when it owns them all. -/
theorem forwardRead_owned {w : Nat → Word} (hnames : p.hdr.aux ≠ 0)
    (howned : ∀ i < 32, bit p.hdr.aux i = true → ∃ d, tfind s.l1 (l1Key (addressee p) (pktTag p) i) = some ⟨.owned d, w i⟩) :
    exec (.forwardRead p) s = .next (s.send (mkPacket 2 1 p.hdr.dst.toNat p.hdr.src.toNat p.hdr.txn.toNat (tagLine (pktTag p) * 32)
      (tagKey (pktTag p)) false p.hdr.aux (flitsAt p.hdr.aux ((lanesOf p.hdr.aux).map (fun i => (i, w i)))))) := by
  have hmine : ∀ i ∈ lanesOf p.hdr.aux, ∃ d, tfind s.l1 (l1Key (addressee p) (pktTag p) i) = some ⟨.owned d, w i⟩ := fun i hi =>
    howned i (mem_lanesOf.1 hi).1 (mem_lanesOf.1 hi).2
  have hheld : (lanesOf p.hdr.aux).filterMap (fun i =>
      if (lanesOf p.hdr.aux).all (fun j => j / 4 != i / 4 || isOwned (tfind s.l1 (l1Key (addressee p) (pktTag p) j))) = true
      then (tfind s.l1 (l1Key (addressee p) (pktTag p) i)).map (fun e => (i, e.w)) else none) =
        (lanesOf p.hdr.aux).map (fun i => (i, w i)) := by
    rw [← List.filterMap_eq_map]
    refine List.filterMap_congr fun i hi => ?_
    rw [if_pos]
    · obtain ⟨d, hd⟩ := hmine i hi
      rw [hd]
      rfl
    · refine List.all_eq_true.2 fun j hj => ?_
      obtain ⟨d, hd⟩ := hmine j hj
      rw [hd]
      exact Bool.or_true _
  refine congrArg Host.Outcome.next ((onPacket_ok hok s _).trans ?_)
  simp only [hheld, maskOf_named, BitVec.and_not_self, if_true, if_neg hnames]

/-- R187: words owned unchanged are dropped, and a clean acknowledgement names them. -/
theorem revoke_clean (hnames : p.hdr.aux ≠ 0)
    (howned : ∀ i < 32, bit p.hdr.aux i = true → ∃ w, tfind s.l1 (l1Key (addressee p) (pktTag p) i) = some ⟨.owned false, w⟩) :
    exec (.revoke p) s =
      .next ((({ s with l1 := (lanesOf p.hdr.aux).foldl (fun t i => tdel t (l1Key (addressee p) (pktTag p) i)) s.l1 } : State).staleFills
        (addressee p) (pktTag p)).send (mkPacket 3 1 p.hdr.dst.toNat p.hdr.src.toNat p.hdr.txn.toNat (tagLine (pktTag p) * 32)
          (tagKey (pktTag p)) false p.hdr.aux [])) := by
  have hmine : ∀ i ∈ lanesOf p.hdr.aux, ∃ w, tfind s.l1 (l1Key (addressee p) (pktTag p) i) = some ⟨.owned false, w⟩ := fun i hi =>
    howned i (mem_lanesOf.1 hi).1 (mem_lanesOf.1 hi).2
  have hpend : ∀ i ∈ lanesOf p.hdr.aux, isPending (tfind s.l1 (l1Key (addressee p) (pktTag p) i)) = false := fun i hi => by
    obtain ⟨w, hw⟩ := hmine i hi
    rw [hw]
    rfl
  have hgone : ∀ i ∈ lanesOf p.hdr.aux, (!isPending (tfind s.l1 (l1Key (addressee p) (pktTag p) i)) &&
      !isOwned (tfind s.l1 (l1Key (addressee p) (pktTag p) i))) = false := fun i hi => by
    obtain ⟨w, hw⟩ := hmine i hi
    rw [hw]
    rfl
  refine congrArg Host.Outcome.next ((onPacket_ok hok s _).trans ?_)
  simp only [State.serveRevoke]
  rw [filter_lanesOf_none ?dirty, if_pos List.isEmpty_nil, filter_lanesOf_all ?clean, filter_lanesOf_none hpend, filter_lanesOf_none hgone,
    ite_self, List.append_nil, List.nil_append, maskOf_lanesOf, if_neg hnames, List.foldl_nil]
  all_goals
    intro i hi
    obtain ⟨w, hw⟩ := hmine i hi
    rw [hw]

/-- R189: a holder sends its partials and holds them no more. -/
theorem exec_partialReq (s : State) : exec (.partialReq p) s =
    .next ((s.dropPartials (pktTag p) (addressee p)).send (mkPacket 2 4 p.hdr.dst.toNat p.hdr.src.toNat p.hdr.txn.toNat
      (tagLine (pktTag p) * 32) (tagKey (pktTag p)) false (maskOf ((s.partialsOf (pktTag p) (addressee p)).map (·.1)))
      (flitsAt (maskOf ((s.partialsOf (pktTag p) (addressee p)).map (·.1))) (s.partialsOf (pktTag p) (addressee p))))) :=
  congrArg Host.Outcome.next (onPacket_ok hok s _)

/-- R187: a write-back of words that its sender owns, and that nothing has taken meanwhile, is stored as it is. -/
theorem writeback_owned {c : Nat} {t : Txn} (hcore : s.senderCore p = some c) (htxn : s.sourceTxn p = some t)
    (hleft : p.hdr.aux &&& ~~~ t.pkt.hdr.aux = 0) (howned : ∀ i < 32, bit p.hdr.aux i = true → (i, c) ∈ (s.ownLine (pktTag p)).owners) :
    exec (.writeback p) s =
      .next (((((s.settle (tagLine (pktTag p))).finishFill (pktTag p)).homePut (pktTag p) p.hdr.aux (pktWords p false)).released
        (pktTag p) p.hdr.aux).answerHome p 3 0 p.hdr.aux []).retryAll := by
  have hheld : p.hdr.aux &&& t.pkt.hdr.aux &&& maskOf (((s.ownLine (pktTag p)).owners.filter (fun x => x.2 == c)).map (·.1)) = p.hdr.aux := by
    refine mask_ext fun i hi => ?_
    rw [bit_and, bit_and, Bool.and_eq_true, Bool.and_eq_true, bit_maskOf]
    refine ⟨fun h => h.1.1, fun h => ⟨⟨h, ?_⟩, hi, List.mem_map.2 ⟨_, List.mem_filter.2 ⟨howned i hi h, beq_self_eq_true c⟩, rfl⟩⟩⟩
    have hbit := congrArg (bit · i) hleft
    rw [bit] at h
    simpa [bit, h, hi] using hbit
  refine congrArg Host.Outcome.next ((onPacket_ok hok s _).trans ?_)
  simp only [hcore, htxn, hheld]

end

/-! ### Answers to a home -/

/-- R187: a clean acknowledgement ends the ownership of its words. -/
theorem cleanAck_home {s : State} {p : Packet} {t : Txn} (h : s.Awaited p t) (hhome : t.agent = .home) (hcls : t.pkt.hdr.cls = 4) :
    exec (.cleanAck p) s = .next (s.released (pktTag p) p.hdr.aux).retryAll := by
  obtain ⟨hok, htxn⟩ := h
  refine congrArg Host.Outcome.next ((onPacket_ok hok s _).trans ?_)
  simp only [htxn]
  exact if_pos ⟨hhome, hcls⟩

theorem partialData_home {s : State} {p : Packet} {t : Txn} (h : s.Awaited p t) (hhome : t.agent = .home) : exec (.partialData p) s =
    .next (((s.dropTxn t).modOwn (pktTag p) (fun o => { o with
      partials := o.partials ++ [(addressee t.pkt, partialWords t p)] })).partialsCome (pktTag p)) := by
  refine congrArg Host.Outcome.next ((onReply_awaited h _).trans ?_)
  exact if_neg (not_not.2 hhome)

/-- R189: partials wait for the last of those asked for. -/
theorem partialsCome_waits {s : State} {tag : Nat} (h : (s.ownLine tag).partials.length < (s.ownLine tag).asked.length) :
    s.partialsCome tag = s :=
  if_pos (by rw [decide_eq_true h, Bool.or_true])

/-- R189: when all have arrived they are added in ascending order of core. -/
theorem partialsCome_last {s : State} {tag : Nat} (hany : (s.ownLine tag).partials ≠ [])
    (h : (s.ownLine tag).asked.length ≤ (s.ownLine tag).partials.length) : s.partialsCome tag =
      ((((sortNat ((s.ownLine tag).partials.map (·.1))).foldl (fun v c =>
        ((s.ownLine tag).partials.filter (fun e => e.1 == c)).foldl (fun v e => v.addWords tag (tget v.commKinds tag 0) e.2) v)
          (s.settle (tagLine tag))).modOwn tag (fun o => { o with asked := [], partials := [] })).retryLine tag true).retryAll :=
  if_neg (by simp [hany, h])

/-- Settles O32: by what each message finds in the core's L1 or in the line's registry entry. -/
theorem coreMessages : Obligations.CoreMessages := by
  unfold Obligations.CoreMessages
  intro s p hok
  refine ⟨fun w hnames howned => forwardRead_owned hok hnames howned, fun hnames howned => revoke_clean hok hnames howned, ?_,
    fun c t hcore htxn hleft howned => writeback_owned hok hcore htxn hleft howned, fun t h hhome hcls => cleanAck_home h hhome hcls,
    fun t h hhome => ?_⟩
  · rintro ws rfl
    exact exec_partialReq hok s
  · rw [partialData_home h hhome]
    refine ⟨fun hless => by rw [partialsCome_waits hless], fun hlast => congrArg Host.Outcome.next (partialsCome_last ?_ hlast)⟩
    rw [ownLine_modOwn (by simp)]
    exact List.append_ne_nil_of_right_ne_nil _ (List.cons_ne_nil _ _)

end Sys2Proof.Machine
end

section
/-! Messages of channels, of the status registers, and between the front end and the dies (R28, R64, R107, R167, R200). -/

namespace Sys2Proof.Machine

/-! ### A team reached by its key -/

/-- Updating the value of one key of a table. -/
theorem tfind_modify {α : Type} (t : Table α) (k j : Nat) (f : α → α) :
    tfind (t.map (fun e => if e.1 = k then (e.1, f e.2) else e)) j = if j = k then (tfind t j).map f else tfind t j := by
  induction t with
  | nil => simp
  | cons e r ih =>
    obtain ⟨a, x⟩ := e
    rw [List.map_cons]
    by_cases ha : a = k
    · subst ha
      rw [if_pos rfl, tfind, tfind, ih]
      by_cases hj : a = j
      · rw [if_pos hj, if_pos hj, if_pos hj.symm, Option.map_some]
      · rw [if_neg hj, if_neg hj]
    · rw [if_neg ha, tfind, tfind, ih]
      by_cases hj : a = j
      · rw [if_pos hj, if_pos hj, if_neg (hj ▸ ha)]
      · rw [if_neg hj, if_neg hj]

theorem tfind_modTeam {s : State} (hfocus : s.focus = .none) (key j : Nat) (f : Team → Team) :
    tfind (s.modTeam key f).teams j = if j = key then (tfind s.teams j).map f else tfind s.teams j := by
  have hnot : s.focusedOn key = false := by rw [State.focusedOn, hfocus]
  rw [State.modTeam, hnot]
  exact tfind_modify s.teams key j f

section
variable {s : State} {p : Packet} (hok : pktOk p = true)
include hok

/-! ### Channels -/

/-- R200, R224: a slot in its turn, whose ring no job holds, is written and counted. -/
theorem slot_inTurn {t : Team} {e : Nat × Nat × Nat × Nat} {ep : Endpoint} {off : Nat} (hteam : s.teamAt (slotTeam p) = some t)
    (hchan : (tfind s.grids t.grid).bind (fun g => g.chans[field p.hdr.paWord.toNat 5 6]?) = some e)
    (hep : tget t.chans (field p.hdr.paWord.toNat 5 6) ⟨0, 0⟩ = ep) (hturn : field p.hdr.paWord.toNat 16 6 = ep.sent.toNat % 64)
    (hoff : e.2.2.1 + 128 * (ep.sent.toNat % max 1 e.2.2.2) = off) (hfree : s.scrHeld (slotTeam p) off 128 = false) :
    exec (.slot p) s = .next ((((List.range 32).foldl (fun u i =>
      u.scrWrite (slotTeam p) (off / 4 + i) 15 (ingress (windowWord p.flits i))) s).modTeam (slotTeam p) (fun t =>
        { t with chans := tins t.chans (field p.hdr.paWord.toNat 5 6) { ep with sent := ep.sent + 1 } })).answerHome p 3 4 0 []) := by
  have hnum : ep.sent.toNat + (field p.hdr.paWord.toNat 16 6 + 64 - ep.sent.toNat % 64) % 64 = ep.sent.toNat := by
    rw [hturn]
    omega
  refine congrArg Host.Outcome.next ((onPacket_ok hok s _).trans ?_)
  simp only [hteam, hchan, hep, hnum, hoff, hfree]
  exact if_neg (by simp)

/-- R200: a credit within what has been sent is the producer's new received count. -/
theorem credit_forward {t : Team} (hfocus : s.focus = .none) (hteam : tfind s.teams (slotTeam p) = some t) :
    let c := field p.hdr.paWord.toNat 5 6
    let n : BitVec 32 := BitVec.ofNat 32 (field p.hdr.paWord.toNat 16 32)
    let ep := tget t.chans c ⟨0, 0⟩
    (n - ep.received).toNat ≤ (ep.sent - ep.received).toNat → ∃ u t1, exec (.credit p) s = .next u ∧ tfind u.teams (slotTeam p) = some t1 ∧
      tfind t1.chans c = some { ep with received := n } ∧ ∀ k, k ≠ slotTeam p → tfind u.teams k = tfind s.teams k := by
  intro c n ep hin
  refine ⟨_, { t with chans := tins t.chans c { ep with received := n } }, congrArg Host.Outcome.next (onPacket_ok hok s _), ?_,
    tfind_tins_same .., fun k hk => ?_⟩
  · rw [tfind_modTeam hfocus, if_pos rfl, hteam]
    exact congrArg some (if_pos hin)
  · rw [tfind_modTeam hfocus, if_neg hk]

/-! ### Status and records -/

theorem statusRead_zero (h : p.hdr.paWord.toNat % 65536 = 0) : exec (.statusRead p) s =
    .next (s.send (mkPacket 7 1 p.hdr.dst.toNat p.hdr.src.toNat p.hdr.txn.toNat p.hdr.paWord.toNat 0 false 0
      [(s.statusWords p.hdr.dst.toNat).take 8, (s.statusWords p.hdr.dst.toNat).drop 8])) :=
  congrArg Host.Outcome.next ((onPacket_ok hok s _).trans (if_pos h))

theorem statusRead_other (h : p.hdr.paWord.toNat % 65536 ≠ 0) : exec (.statusRead p) s =
    .next (({ s with freeNo := s.freeNo + 1 } : State).send (mkPacket 7 1 p.hdr.dst.toNat p.hdr.src.toNat p.hdr.txn.toNat p.hdr.paWord.toNat
      0 false 0 [Word.ofData (Config.freeData s.freeNo) :: List.replicate 7 Word.zero])) :=
  congrArg Host.Outcome.next ((onPacket_ok hok s _).trans (if_neg h))

/-- R167: a record goes to the logs of its source, or of the partition that its packet names. -/
theorem exec_record (s : State) : exec (.record p) s =
    .next ((s.logsOf (field (nth (p.flits.flatMap (fun f => f)) 3).data.toNat 12 4) (field (nth (p.flits.flatMap (fun f => f)) 3).data.toNat 0 12)
      (if p.hdr.paWord.toNat ≥ 256 then some (p.hdr.paWord.toNat % 8) else none)).foldl
        (fun s q => s.appendRec q (field (nth (p.flits.flatMap (fun f => f)) 3).data.toNat 24 3) (p.flits.flatMap (fun f => f))) s) :=
  congrArg Host.Outcome.next (onPacket_ok hok s _)

theorem record_named (h : 256 ≤ p.hdr.paWord.toNat) : exec (.record p) s =
    .next (s.appendRec (p.hdr.paWord.toNat % 8) (field (nth (p.flits.flatMap (fun f => f)) 3).data.toNat 24 3) (p.flits.flatMap (fun f => f))) := by
  rw [exec_record hok, if_pos h]
  rfl

theorem record_ofCore {q : Nat} (hun : p.hdr.paWord.toNat < 256) (hkind : field (nth (p.flits.flatMap (fun f => f)) 3).data.toNat 12 4 = 0)
    (howner : s.ownerOf (field (nth (p.flits.flatMap (fun f => f)) 3).data.toNat 0 12 / 64 % 8) = some q) : exec (.record p) s =
      .next (s.appendRec q (field (nth (p.flits.flatMap (fun f => f)) 3).data.toNat 24 3) (p.flits.flatMap (fun f => f))) := by
  rw [exec_record hok, if_neg (by omega)]
  simp only [State.logsOf, hkind, howner, if_true, Option.toList_some, List.foldl_cons, List.foldl_nil]

/-! ### The front end and the dies -/

/-- R107: a release message releases the grid's teams of the die that it reaches. -/
theorem control_release (hkind : (nth (p.flits.flatMap (fun f => f)) 0).data = 1) : exec (.control p) s =
    .next (({ s.unfocus with teams := s.unfocus.teams.map (fun t =>
      if t.2.grid = ofWords (((p.flits.flatMap (fun f => f)).drop 1).take 2) ∧ t.2.die = p.hdr.dst.toNat then (t.1, { t.2 with released := true })
      else t) } : State).send (mkPacket 3 4 p.hdr.dst.toNat p.hdr.src.toNat p.hdr.txn.toNat p.hdr.paWord.toNat 0 false 0 [])) := by
  refine congrArg Host.Outcome.next ((onPacket_ok hok s.unfocus _).trans ?_)
  simp only [hkind]
  rfl

/-- R92: a die's completion report counts the first time. -/
theorem report_completion {e : Grid} (hkind : (nth (p.flits.flatMap (fun f => f)) 0).data = 0)
    (hgrid : tfind s.unfocus.grids (ofWords (((p.flits.flatMap (fun f => f)).drop 1).take 2)) = some e) :
    exec (.report p) s = .next (if e.reports.contains (nth (p.flits.flatMap (fun f => f)) 3).data.toNat = true then s.unfocus
      else (s.unfocus.modGrid (ofWords (((p.flits.flatMap (fun f => f)).drop 1).take 2)) (fun y => { y with
        reports := y.reports ++ [(nth (p.flits.flatMap (fun f => f)) 3).data.toNat]
        done := y.done + ofWords (((p.flits.flatMap (fun f => f)).drop 4).take 2) })).checkGrid
          (ofWords (((p.flits.flatMap (fun f => f)).drop 1).take 2)) 17) := by
  refine congrArg Host.Outcome.next ((onPacket_ok hok s.unfocus _).trans ?_)
  simp only [hgrid]
  exact if_pos (congrArg BitVec.toNat hkind)

end

/-- R64: the words of a status register reach the snapshot that asked for them. -/
theorem statusData_came {s : State} {p : Packet} {t : Txn} {d : Nat} (h : s.Awaited p t) (hagent : t.agent = .status d) :
    exec (.statusData p) s = .next ((s.dropTxn t).statusCame d (some (p.flits.flatMap (fun f => f)))) := by
  refine congrArg Host.Outcome.next ((onReply_awaited h _).trans ?_)
  simp only [hagent]

/-- Settles O34: message by message. -/
theorem hubMessages : Obligations.HubMessages := by
  unfold Obligations.HubMessages
  intro s p hok
  refine ⟨fun t e hteam hchan hturn hfree => slot_inTurn hok hteam hchan rfl hturn rfl hfree,
    fun t hfocus hteam hin => credit_forward hok hfocus hteam hin, ⟨statusRead_zero hok, statusRead_other hok⟩,
    fun t d h hagent => statusData_came h hagent, record_named hok, fun q hun hkind howner => record_ofCore hok hun hkind howner,
    control_release hok, fun e hkind hgrid => ⟨fun hseen => ?_, fun hnew => ?_⟩⟩
  · rw [report_completion hok hkind hgrid, if_pos hseen]
  · rw [report_completion hok hkind hgrid, if_neg (Bool.eq_false_iff.1 hnew)]

end Sys2Proof.Machine
end

section
/-! Requests at an idle home: one that holds the line, with no word owned and nothing under way (R181, R183–R185, R216, R315, R383). -/

namespace Sys2Proof.Machine

/-! ### Requests that have arrived at the stack ports -/

theorem mem_of_tfind {α : Type} {t : Table α} {k : Nat} {v : α} (h : tfind t k = some v) : (k, v) ∈ t := by
  induction t with
  | nil => cases h
  | cons e r ih =>
    obtain ⟨a, x⟩ := e
    rw [tfind] at h
    split at h
    · next ha =>
      cases h
      exact ha ▸ List.mem_cons_self
    · exact List.mem_cons_of_mem _ (ih h)

theorem bookDecode_stackQ (s : State) (line status nsym : Nat) : (s.bookDecode line status nsym).stackQ = s.stackQ := by
  unfold State.bookDecode
  simp only
  split
  · exact State.record_stackQ ..
  · split <;> rfl

theorem baseWrite_stackQ (s : State) (key line : Nat) (mask : BitVec 32) (ws : List Word) :
    (s.baseWrite key line mask ws).st.stackQ = s.stackQ := by
  obtain h | ⟨ms, h⟩ := baseWrite_st s key line mask ws
  · rw [h]
  · obtain ⟨mem, nibs, hframe⟩ := storeLine_frame s key line ms
    rw [h, hframe]

theorem stackServe_stackQ (s : State) (x : StackReq) : (s.stackServe x).1.stackQ = s.stackQ := by
  unfold State.stackServe
  simp only
  split
  · split <;> rfl
  · split
    · exact bookDecode_stackQ ..
    · exact (bookDecode_stackQ ..).trans (baseWrite_stackQ ..)

/-- A reply is no request. -/
theorem isReqTo_replyEvent (line : Nat) (r : StackReply) : isReqTo line (replyEvent r) = false := by
  unfold replyEvent
  split <;> rfl

/-- No request to the line waits at its port. -/
def State.noReqTo (s : State) (line : Nat) : Prop := ∀ i ∈ s.stackQ, isReqTo line i = false

theorem noReqTo_portArrival {s : State} {line : Nat} (h : s.noReqTo line) (x : StackReq) : (s.portArrival x).noReqTo line := by
  cases hseen : s.portSeen.contains (portKey (x.die * 64 + x.slice) (reqTag x.hdr)) with
  | true =>
    rw [portArrival_seen hseen, State.noReqTo, State.record_stackQ]
    exact h
  | false =>
    rw [portArrival_fresh hseen, State.noReqTo, stackServe_stackQ]
    intro i hi
    obtain hi | hi := List.mem_append.1 hi
    · exact h i hi
    · rw [List.mem_singleton.1 hi]
      exact isReqTo_replyEvent ..

theorem noReqTo_settle (s : State) (line : Nat) : (s.settle line).noReqTo line := by
  refine foldl_keeps (fun t : State => t.noReqTo line) _ (fun t i ht => ?_) _ _ fun i hi => ?_
  · split
    · exact noReqTo_portArrival ht _
    · exact ht
  · simpa using (List.mem_filter.1 hi).2

theorem settle_of_noReqTo {s : State} {line : Nat} (h : s.noReqTo line) : s.settle line = s := by
  have hnone : s.stackQ.filter (isReqTo line) = [] := List.filter_eq_nil_iff.2 fun i hi => Bool.eq_false_iff.1 (h i hi)
  have hall : s.stackQ.filter (fun i => !isReqTo line i) = s.stackQ := List.filter_eq_self.2 fun i hi => by rw [h i hi]; rfl
  rw [State.settle, State.arriveSome, hnone, hall]
  rfl

/-! ### What a request finds -/

/-- R187: a line without owners has nothing to call back. -/
theorem ownersIn_nil {o : OwnLine} (h : o.owners = []) (m : BitVec 32) : ownersIn o m = [] := by
  rw [ownersIn, h]
  rfl

theorem revokeStep_free {s : State} {tag : Nat} (h : (s.ownLine tag).owners = []) (m : BitVec 32) : s.revokeStep tag m = (s, true) := by
  rw [State.revokeStep, ownersIn_nil h]
  rfl

theorem unowned_free {o : OwnLine} (h : o.owners = []) (m : BitVec 32) : unowned o m = m := by
  rw [unowned, h, List.map_nil, maskOf_nil]
  exact BitVec.and_allOnes

/-- R181: words written to a line that the slice holds go into the slice. -/
theorem l2Put_held {s : State} {tag : Nat} (h : (tfind s.l2 tag).isSome = true) (ws : List Word) (dirty : Bool) :
    s.l2Put tag ws dirty = { s with l2 := tins s.l2 tag ⟨ws, dirty⟩ } := by
  have hroom : s.l2Room tag = s := if_pos (by rw [h]; rfl)
  rw [State.l2Put, hroom]

theorem homePut_lost {s : State} {tag : Nat} (h : s.lineLost (tagLine tag) = true) (m : BitVec 32) (ws : List Word) : s.homePut tag m ws = s :=
  if_pos h

/-! ### Ownership that begins or ends -/

/-- The same value written under several keys. -/
theorem tfind_foldl_tins {α : Type} (ks : List Nat) (v : α) (t : Table α) (k : Nat) :
    tfind (ks.foldl (fun t i => tins t i v) t) k = if k ∈ ks then some v else tfind t k := by
  induction ks using List.reverseRecOn with
  | nil => simp
  | append_singleton ks i ih =>
    rw [List.foldl_append, List.foldl_cons, List.foldl_nil, tfind_tins, ih]
    split
    · next h => rw [if_pos (by simp [h])]
    · next h => exact if_congr (by simp [Ne.symm h]) rfl rfl

/-- R184: a line whose words of a mask are granted to a core, the registration numbered `no` if it is the line's first. -/
def OwnLine.granting (c : Nat) (m : BitVec 32) (no : Nat) (o : OwnLine) : OwnLine :=
  { o with
    owners := (lanesOf m).foldl (fun t i => tins t i c) o.owners
    since := if o.owners.isEmpty then no else o.since }

/-- The owners of a line depend on the registry alone. -/
theorem owners_congr {s t : State} (h : t.own = s.own) (tag : Nat) : (t.ownLine tag).owners = (s.ownLine tag).owners := by
  rw [State.ownLine, State.ownLine, h]
  cases tfind s.own tag <;> rfl

/-- Updating a line of the registry updates its owners and holders. -/
theorem owners_modOwn (s : State) (tag : Nat) (f : OwnLine → OwnLine) :
    ((s.modOwn tag f).ownLine tag).owners = (f (s.ownLine tag)).owners ∧ ((s.modOwn tag f).ownLine tag).holders = (f (s.ownLine tag)).holders := by
  cases hempty : (f (s.ownLine tag)).owners.isEmpty && (f (s.ownLine tag)).holders.isEmpty && (f (s.ownLine tag)).asked.isEmpty &&
      (f (s.ownLine tag)).partials.isEmpty with
  | false => rw [ownLine_modOwn hempty]; exact ⟨rfl, rfl⟩
  | true =>
    have hnone : (s.modOwn tag f).ownLine tag = OwnLine.empty s.ownNo := by
      rw [State.modOwn]
      simp only [hempty, if_true]
      rw [State.ownLine, tfind_tdel, if_pos rfl]
      rfl
    simp only [Bool.and_eq_true, List.isEmpty_iff] at hempty
    obtain ⟨⟨⟨howners, hholders⟩, -⟩, -⟩ := hempty
    rw [hnone, howners, hholders]
    exact ⟨rfl, rfl⟩

/-- R184: words of a line are granted to a core. -/
def State.granting (s : State) (tag c : Nat) (m : BitVec 32) : State :=
  { s.modOwn tag (OwnLine.granting c m s.ownNo) with ownNo := s.ownNo + 1 }

theorem granting_frame (s : State) (tag c : Nat) (m : BitVec 32) : { s.granting tag c m with own := s.own, ownNo := s.ownNo } = s := by
  simp only [State.granting, State.modOwn]

theorem owners_granting (s : State) (tag c : Nat) (m : BitVec 32) : ((s.granting tag c m).ownLine tag).owners =
    (lanesOf m).foldl (fun t i => tins t i c) (s.ownLine tag).owners :=
  (owners_congr (s := s.modOwn tag (OwnLine.granting c m s.ownNo)) (t := s.granting tag c m) rfl tag).trans (owners_modOwn s tag _).1

/-- Requests made void change only the list of requests. -/
theorem foldl_voidTxn_frame {α : Type} (f : α → Txn) (l : List α) (s : State) :
    ∃ txns, l.foldl (fun s x => s.voidTxn (f x)) s = { s with txns := txns } := by
  induction l using List.reverseRecOn with
  | nil => exact ⟨s.txns, rfl⟩
  | append_singleton l x ih =>
    obtain ⟨txns, ih⟩ := ih
    rw [List.foldl_append, ih]
    exact ⟨_, rfl⟩

theorem voidPartials_frame (s : State) (tag : Nat) : ∃ txns own, s.voidPartials tag = { s with txns := txns, own := own } ∧
    ((s.voidPartials tag).ownLine tag).owners = (s.ownLine tag).owners ∧
    ((s.voidPartials tag).ownLine tag).holders = (s.ownLine tag).holders := by
  obtain ⟨txns, h⟩ := foldl_voidTxn_frame (fun e : Txn × Packet => e.1) (s.partialsFlying tag) s
  rw [State.voidPartials, h]
  exact ⟨_, _, rfl, owners_modOwn _ tag _⟩

/-- R216: of a line with no owners and no holders a discard drops only what is under way. -/
theorem dropOwned_frame {s : State} {tag : Nat} (howners : (s.ownLine tag).owners = []) (hholders : (s.ownLine tag).holders = []) :
    ∃ txns own, s.dropOwned tag = { s with txns := txns, own := own } := by
  obtain ⟨txns, h⟩ := foldl_voidTxn_frame id (s.backsOf tag) s
  obtain ⟨txns1, own1, h1, ho, hh⟩ := voidPartials_frame { s with txns := txns } tag
  simp only [id] at h
  simp only [State.dropOwned, h, ho.trans howners, hh.trans hholders, List.foldl_nil]
  rw [h1]
  exact ⟨_, _, rfl⟩

/-- R181: a line that the slice holds and whose memory is within reach. -/
theorem homeLine_held {s : State} {tag : Nat} {l : L2Line} (h : tfind s.l2 tag = some l) (hreach : s.lineLost (tagLine tag) = false) :
    s.homeLine tag = l.words := by
  rw [State.homeLine, if_neg (Bool.eq_false_iff.1 hreach), h]

/-! ### The words a write carries -/

theorem length_pktWords (p : Packet) (masked : Bool) : (pktWords p masked).length = 32 := by
  rw [pktWords, windowWords, List.length_map, List.length_range]

theorem writtenWords_unmasked (p : Packet) (whole : BitVec 32) (old : List Word) : writtenWords p false whole old = pktWords p false :=
  map_getD_range _ 32 Word.zero (length_pktWords p false)

theorem writtenWords_masked (p : Packet) (whole : BitVec 32) (old : List Word) : writtenWords p true whole old =
    (List.range 32).map (fun i => if bit whole i then (pktWords p true).getD i Word.zero
      else mergeWord (BitVec.ofNat 4 (maskOfFlit (p.flits.getD 0 []) / 16 ^ i)) (old.getD i Word.poison) ((pktWords p true).getD i Word.zero)) := by
  refine List.map_congr_left fun i _ => ?_
  cases bit whole i <;> rfl

/-- R316: a reduction whose check does not fail. -/
theorem redChecked_sound {s : State} (h : s.redFaults = 0) (r : GroupRef) (line : Nat) (ws : List Word) : s.redChecked r line ws = (s, ws) := by
  rw [State.redChecked, if_pos (.inl (by omega)), ← h]

section
variable {s s1 : State} {p : Packet} (h : s.HomeFree p s1)
include h

namespace State.HomeFree

theorem noOwners : (s1.ownLine (pktTag p)).owners = [] := h.free.1

theorem revokes (m : BitVec 32) : s1.revokeStep (pktTag p) m = (s1, true) := revokeStep_free h.noOwners m

theorem combines : s1.combineStep (pktTag p) = (s1, true) :=
  if_pos (by rw [h.free.2.1, h.free.2.2]; rfl)

theorem inSlice : s1.inSlice (pktTag p) = true := h.cached

theorem notAtPort : s1.atPort (pktTag p) = false := h.quiet

theorem fills : s1.fillStep (pktTag p) = (s1, true) := if_pos (by rw [h.cached]; rfl)

theorem reads : s1.readStep p (pktTag p) = (s1, some (s1.homeLine (pktTag p))) := by
  rw [State.readStep, h.inSlice, h.fills]
  simp

theorem keySlot : (tfind s1.keys (tagKey (pktTag p))).isNone = false := by
  rw [← Option.not_isSome, h.keyed]
  rfl

/-- R17: no fill of the line is on its way, so that a write finds the slice as it is. -/
theorem finishes : s1.finishFill (pktTag p) = s1 := by
  have hsettled : s1.settle (tagLine (pktTag p)) = s1 := settle_of_noReqTo (h.settled ▸ noReqTo_settle s _)
  have hnone : ∀ i ∈ s1.stackQ, ¬ s1.isFillReply (pktTag p) i = true := by
    intro i _ hi
    unfold State.isFillReply at hi
    split at hi
    · have hmem := mem_of_tfind (beq_iff_eq.1 hi)
      exact List.any_eq_false.1 h.quiet _ hmem (beq_iff_eq.2 (by simp only; omega))
    · cases hi
  rw [State.finishFill, hsettled]
  simp only [List.find?_eq_none.2 hnone]

/-- R185: a whole line written at its home is held dirty, as by any other write. -/
theorem putsWhole {ws : List Word} (hlen : ws.length = 32) (hreach : s1.lineLost (tagLine (pktTag p)) = false) :
    s1.l2Put (pktTag p) (ws.map ingress) true = s1.homePut (pktTag p) 0xffffffff ws := by
  obtain ⟨l, hl⟩ := Option.isSome_iff_exists.1 h.cached
  have hwords : (List.range 32).map (fun i => if bit 0xffffffff i then ingress (ws.getD i Word.zero) else l.words.getD i Word.zero) =
      ws.map ingress := by
    conv_rhs => rw [← map_getD_range ws 32 Word.zero hlen, List.map_map]
    exact List.map_congr_left fun i hi => if_pos (bit_allOnes (List.mem_range.1 hi))
  rw [l2Put_held h.cached, State.homePut, if_neg (Bool.eq_false_iff.1 hreach), h.finishes]
  simp only [hl, hwords]

/-- A request that is served at once. -/
theorem served {t : State} (hserve : s.serve p false = (t, true)) : s.atHome p = t := by
  rw [State.atHome, onPacket_ok h.sound, if_neg (Bool.eq_false_iff.1 h.alone)]
  simp only [hserve]

/-! ### Which service a request gets -/

theorem servesRead (hkind : p.hdr.cls.toNat = 0 ∧ (p.hdr.mtype.toNat % 8 = 0 ∨ p.hdr.mtype.toNat % 8 = 1) ∨
    p.hdr.cls.toNat = 5 ∧ p.hdr.mtype.toNat % 8 = 0) : s.serve p false = s1.serveRead p (pktTag p) := by
  obtain ⟨hcls, hty | hty⟩ | ⟨hcls, hty⟩ := hkind
  all_goals simp [State.serve, h.settled, h.combines, h.fresh, h.keySlot, hcls, hty]

theorem servesPrefetch (hcls : p.hdr.cls.toNat = 0) (hty : p.hdr.mtype.toNat % 8 = 2) : s.serve p false = (s1.answerHome p 3 4 0 [], true) := by
  simp [State.serve, h.settled, h.combines, h.fresh, h.keySlot, hcls, hty, h.fills]

theorem servesWrite (hcls : p.hdr.cls.toNat = 1 ∧ p.hdr.mtype.toNat % 8 = 0 ∨ p.hdr.cls.toNat = 5 ∧ p.hdr.mtype.toNat % 8 = 1) :
    s.serve p false = s1.serveWrite p (pktTag p) false := by
  obtain ⟨hcls, hty⟩ | ⟨hcls, hty⟩ := hcls
  all_goals simp [State.serve, h.settled, h.combines, h.fresh, h.keySlot, hcls, hty]

theorem servesMasked (hcls : p.hdr.cls.toNat = 1 ∧ p.hdr.mtype.toNat % 8 = 1 ∨ p.hdr.cls.toNat = 5 ∧ p.hdr.mtype.toNat % 8 = 2) :
    s.serve p false = s1.serveWrite p (pktTag p) true := by
  obtain ⟨hcls, hty⟩ | ⟨hcls, hty⟩ := hcls
  all_goals simp [State.serve, h.settled, h.combines, h.fresh, h.keySlot, hcls, hty]

theorem servesAtomic (hcls : p.hdr.cls.toNat = 1) (hty : p.hdr.mtype.toNat % 8 = 3) : s.serve p false = s1.serveAtomic p (pktTag p) := by
  simp [State.serve, h.settled, h.combines, h.fresh, h.keySlot, hcls, hty]

theorem servesDiscard (hcls : p.hdr.cls.toNat = 1) (hty : p.hdr.mtype.toNat % 8 = 4) : s.serve p false = s1.serveDiscard p (pktTag p) := by
  simp [State.serve, h.settled, h.combines, h.fresh, h.keySlot, hcls, hty]

theorem servesRegister (hcls : p.hdr.cls.toNat = 4) (hty : p.hdr.mtype.toNat % 8 = 0) : s.serve p false = s1.serveRegister p (pktTag p) := by
  simp [State.serve, h.settled, h.combines, h.fresh, h.keySlot, hcls, hty]

/-! ### The services -/

/-- R185: a read of named words is answered with them, none being owned. -/
theorem readAnswer (hnames : p.hdr.aux ≠ 0) : s1.serveRead p (pktTag p) =
    (s1.answerHome p 2 0 p.hdr.aux (windowFlits p.hdr.aux (s1.homeLine (pktTag p))), true) := by
  simp only [State.serveRead, h.revokes, Bool.not_true, Bool.false_eq_true, if_false, unowned_free h.noOwners, if_neg hnames, h.reads,
    ownersIn_nil h.noOwners, List.foldl_nil]

/-- R185: a write of named words replaces them by those it leaves in the line, and is acknowledged. -/
theorem writeAnswer (hnames : p.hdr.aux ≠ 0) (masked : Bool) : s1.serveWrite p (pktTag p) masked =
    ((s1.homePut (pktTag p) p.hdr.aux (writtenWords p masked (s1.wholeOf p) (s1.homeLine (pktTag p)))).answerHome p 3 0 p.hdr.aux [], true) := by
  simp only [State.serveWrite, h.revokes, Bool.not_true, Bool.false_eq_true, if_false, h.inSlice, Bool.false_and, h.notAtPort, h.plain,
    h.reads, State.putWords]
  cases hlost : s1.lineLost (tagLine (pktTag p)) with
  | true => rw [if_pos (Bool.true_or _), homePut_lost hlost]
  | false =>
    rw [if_neg (by simpa using hnames)]
    split
    · next hfull =>
      rw [Bool.and_eq_true, decide_eq_true_eq, Bool.not_eq_true'] at hfull
      obtain ⟨hall, rfl⟩ := hfull
      rw [h.putsWhole (length_pktWords p false) hlost, writtenWords_unmasked, ← hall]
    · rfl

/-- R315, R316: an atomic replaces its words by the new value; the answer is the old one, or for a reduction an acknowledgement. -/
theorem atomicAnswer (hsound : s1.redFaults = 0) {op : Nat} (hop : (nth (p.flits.getD 0 []) 4).data.toNat = op)
    {r : List Word × List Word} (hr : aopStep (op % 16) ((lanesOf p.hdr.aux).map (fun i => (s1.homeLine (pktTag p)).getD i Word.poison))
      ((p.flits.getD 0 []).take 4) = r) : s1.serveAtomic p (pktTag p) =
    (if op / 16 % 2 = 1 then (s1.homePut (pktTag p) p.hdr.aux ((List.range 32).map (fun i => nth r.2 (indexOf (lanesOf p.hdr.aux) i)))).answerHome
        p 3 0 p.hdr.aux []
      else (s1.homePut (pktTag p) p.hdr.aux ((List.range 32).map (fun i => nth r.2 (indexOf (lanesOf p.hdr.aux) i)))).answerHome
        p 2 3 p.hdr.aux [(List.range 8).map (fun i => if i < 2 then nth r.1 i else Word.zero)], true) := by
  have hchecked : ∀ r ws, s1.redChecked r (tagLine (pktTag p)) ws = (s1, ws) := fun _ _ => redChecked_sound hsound ..
  simp only [State.serveAtomic, h.revokes, Bool.not_true, Bool.false_eq_true, if_false, h.reads, hop, hr, hsound, Nat.lt_irrefl, decide_false,
    Bool.and_false, Bool.false_and, h.plain, State.putWords, beq_iff_eq]
  split
  all_goals
    split
    · rw [hchecked]
    · rfl

/-- R216: a discard leaves zeros in the slice; other lines, memory and the cores' words stay. -/
theorem discardAnswer (hreach : s1.lineLost (tagLine (pktTag p)) = false) : ∃ t, s1.serveDiscard p (pktTag p) = (t, true) ∧
    t.homeLine (pktTag p) = List.replicate 32 Word.zero ∧ (∀ k, k ≠ pktTag p → tfind t.l2 k = tfind s1.l2 k) ∧ t.mem = s1.mem ∧
    t.l1 = s1.l1 := by
  obtain ⟨txns, own, hdrop⟩ := dropOwned_frame h.noOwners h.free.2.1
  have hserve : s1.serveDiscard p (pktTag p) = (({ s1 with
      txns := txns
      own := own
      l2 := tins s1.l2 (pktTag p) ⟨List.replicate 32 Word.zero, true⟩ } : State).answerHome p 3 0 p.hdr.aux [], true) := by
    have hreach : ({ s1 with txns := txns, own := own } : State).lineLost (tagLine (pktTag p)) = false := hreach
    simp only [State.serveDiscard, h.notAtPort, hdrop, hreach, h.plain, Bool.false_eq_true, if_false]
    rw [l2Put_held (s := { s1 with txns := txns, own := own }) h.cached]
  refine ⟨_, hserve, homeLine_held (l := ⟨List.replicate 32 Word.zero, true⟩) ?_ ?_, fun k hk => tfind_tins_other hk.symm _ _, rfl, rfl⟩
  · exact tfind_tins_same s1.l2 (pktTag p) _
  · exact hreach

/-- R184: a registration makes the sender's core the owner of the words it still awaits. -/
theorem registerAnswer {t : Txn} {c : Nat} (htxn : s1.sourceTxn p = some t) (hcore : s1.senderCore p = some c)
    (hroom : (s1.registryOf (chanOf (tagLine (pktTag p)))).length < 4096) : ∃ u : State,
      s1.serveRegister p (pktTag p) = (u.send (mkPacket 2 2 p.hdr.dst.toNat p.hdr.src.toNat p.hdr.txn.toNat
        (coreField (tagLine (pktTag p)) (c % 64)) (tagKey (pktTag p)) (c % 64 / 32 == 1) (p.hdr.aux &&& t.pkt.hdr.aux) []), true) ∧
      (∀ i < 32, bit (p.hdr.aux &&& t.pkt.hdr.aux) i = true → tfind (u.ownLine (pktTag p)).owners i = some c) ∧
      { u with own := s1.own, ownNo := s1.ownNo } = s1 := by
  have hmine : maskOf (((s1.ownLine (pktTag p)).owners.filter (fun x => x.2 == c)).map (·.1)) = 0 := by rw [h.noOwners]; rfl
  have hfits : ¬ ((s1.ownLine (pktTag p)).owners.isEmpty && decide ((s1.registryOf (chanOf (tagLine (pktTag p)))).length ≥ 4096)) = true := by
    simpa using fun _ => hroom
  simp only [State.serveRegister, hcore, htxn, hmine, h.revokes]
  rw [if_neg (by simp), if_neg hfits]
  refine ⟨s1.granting (pktTag p) c (p.hdr.aux &&& t.pkt.hdr.aux), rfl, fun i hi hbit => ?_, granting_frame ..⟩
  rw [owners_granting, tfind_foldl_tins, if_pos (mem_lanesOf.2 ⟨hi, hbit⟩)]

end State.HomeFree
end

/-- Settles O31: at an idle home every request is served at once, from the line in the slice. -/
theorem homeRequests : Obligations.HomeRequests := by
  unfold Obligations.HomeRequests
  intro s s1 p h tag m line isMsg reads put whole merged
  have atHome : ∀ {t : State}, s.serve p false = (t, true) → Host.Outcome.next (φ := Fault) (ρ := Refusal) (s.atHome p) = .next t :=
    fun hserve => congrArg Host.Outcome.next (h.served hserve)
  have hreads : m ≠ 0 → _ → Host.Outcome.next (s.atHome p) = reads := fun hm hkind => atHome ((h.servesRead hkind).trans (h.readAnswer hm))
  have hwhole : m ≠ 0 → _ → Host.Outcome.next (s.atHome p) = whole := fun hm hkind => by
    refine (atHome ((h.servesWrite hkind).trans (h.writeAnswer hm false))).trans ?_
    rw [writtenWords_unmasked]
    exact congrArg put (map_getD_range _ 32 Word.zero (length_pktWords p false)).symm
  have hmerged : m ≠ 0 → _ → Host.Outcome.next (s.atHome p) = merged := fun hm hkind => by
    refine (atHome ((h.servesMasked hkind).trans (h.writeAnswer hm true))).trans ?_
    rw [writtenWords_masked]
  refine ⟨fun hm hk => hreads hm (.inl ⟨hk.1, .inl (by rw [hk.2])⟩), fun hm hk => hreads hm (.inl ⟨hk.1, .inr (by rw [hk.2])⟩),
    fun hm hk => hreads hm ?_, fun hk => atHome (h.servesPrefetch hk.1 (by rw [hk.2])), fun hm hk => hwhole hm (.inl ⟨hk.1, by rw [hk.2]⟩),
    fun hm hk => hwhole hm ?_, fun hm hk => hmerged hm (.inl ⟨hk.1, by rw [hk.2]⟩), fun hm hk => hmerged hm ?_,
    fun hk hsound => (atHome ((h.servesAtomic hk.1 (by rw [hk.2])).trans (h.atomicAnswer hsound rfl rfl))), fun hk hreach => ?_,
    fun t c hk htxn hcore hroom => ?_⟩
  · obtain ⟨hcls, hty⟩ | ⟨hcls, hty⟩ := hk <;> exact .inr ⟨hcls, by rw [hty]⟩
  · obtain ⟨hcls, hty⟩ | ⟨hcls, hty⟩ := hk <;> exact .inr ⟨hcls, by rw [hty]⟩
  · obtain ⟨hcls, hty⟩ | ⟨hcls, hty⟩ := hk <;> exact .inr ⟨hcls, by rw [hty]⟩
  · obtain ⟨t, hserve, ht⟩ := h.discardAnswer hreach
    exact ⟨t, atHome ((h.servesDiscard hk.1 (by rw [hk.2])).trans hserve), ht⟩
  · obtain ⟨u, hserve, hu⟩ := h.registerAnswer htxn hcore hroom
    exact ⟨u, atHome ((h.servesRegister hk.1 (by rw [hk.2])).trans hserve), hu⟩

end Sys2Proof.Machine
end

section
/-! The host ports: frames dropped, resolutions, links, rebinding and retirement (R34–R37, R44, R69). -/

namespace Sys2Proof.Machine

/-! ### Frames a port meets (R35) -/

theorem frameDrop_counts {s : State} {f : EthFrame} {why : DropReason} (h : s.dropWhy f = some why) :
    exec (.frameDrop f) s = .next (s.countDrop f.port why) := by
  refine congrArg Host.Outcome.next ?_
  simp only [h]

theorem isHostPort_of_lt {p : Nat} (h : p < 2) : isHostPort p = true := decide_eq_true h

section
variable {s : State} {f : EthFrame} (hport : f.port < 2) (htaken : s.frameTaken f = true)
include hport htaken

/-- R35: what a host port makes of an ARP frame it takes. -/
theorem exec_arp_taken (hetype : f.etype = 0x0806) : exec (.arp f) s = .next (
    if netAt f.payload 6 2 = 1 ∧ netAt f.payload 24 4 = prIp4 (s.portRec f.port) then
      { s with sent := s.sent ++ [.arpReply f.port (BitVec.ofNat 48 (netAt f.payload 8 6)) (BitVec.ofNat 32 (netAt f.payload 14 4))] }
    else if netAt f.payload 6 2 = 2 then s.resolved f.port (mapped4 (netAt f.payload 14 4)) (BitVec.ofNat 48 (netAt f.payload 8 6))
    else s) :=
  congrArg Host.Outcome.next (if_neg (by simp [isHostPort_of_lt hport, htaken, hetype]))

/-- R35: what a host port makes of an ICMPv6 packet it takes. -/
theorem exec_neighborDiscovery_taken (hetype : f.etype = 0x86dd) (hicmp : netAt f.payload 6 1 = 58) : exec (.neighborDiscovery f) s = .next (
    if netAt f.payload 40 1 = 135 ∧ ipOf ((f.payload.drop 48).take 16) = prIp6 (s.portRec f.port) then
      { s with sent := s.sent ++ [.ndAdvert f.port f.srcMac (ipOf ((f.payload.drop 8).take 16))] }
    else if netAt f.payload 40 1 = 136 then s.resolved f.port (ipOf ((f.payload.drop 48).take 16)) (advertMac f)
    else s) :=
  congrArg Host.Outcome.next (if_neg (by simp [isHostPort_of_lt hport, htaken, hetype, hicmp]))

end

/-- R44: an expired resolution is forgotten, every other one kept. -/
theorem mem_hops_nextHopExpiry {s : State} {port : Nat} {addr : BitVec 128} {h : NextHop} :
    h ∈ s.hops.filter (fun h => !(h.port == port && h.addr == addr)) ↔ h ∈ s.hops ∧ ¬ (h.port = port ∧ h.addr = addr) := by
  simp only [List.mem_filter, Bool.not_eq_true', Bool.and_eq_false_iff, beq_eq_false_iff_ne, not_and_or, ne_eq]

/-! ### Links of ports -/

theorem port_modPort_same (s : State) (p : Nat) (f : Port → Port) : (s.modPort p f).port p = f (s.port p) :=
  (tget_tmod s.ports p p Port.initial f).trans (if_pos rfl)

theorem port_modPort_other (s : State) {p k : Nat} (f : Port → Port) (h : k ≠ p) : (s.modPort p f).port k = s.port k :=
  (tget_tmod s.ports p k Port.initial f).trans (if_neg h.symm)

theorem exec_portLinkDown (s : State) (port : Nat) (up : Bool) : exec (.portLinkDown port up) s = .next (s.modPort port (fun x => { x with
    up := up
    downAt := if x.up && !up then s.gtime else x.downAt })) := rfl

/-- R37: the paths of a port down for 50 µs move and are sent again when the other host port can take them. -/
theorem exec_pathRebind {s : State} {port : Nat} (hport : port < 2) (hdown : (s.port port).up = false)
    (hlong : (s.port port).downAt + 50000 ≤ s.gtime) (hother : (s.port (1 - port)).up = true) (hkept : (s.port (1 - port)).retired = false) :
    let mine := s.boundTo port
    let u := mine.foldl (fun v p =>
      let w := v.modPath p (fun x => { x with ctx := pcWithPort x.ctx (1 - port) })
      w.resend p (w.path p).buf) s
    let w := if mine.isEmpty then u else u.modPort port (fun x => { x with failTimes := u.gtime :: x.failTimes })
    exec (.pathRebind port) s = .next (if 8 ≤ w.failovers port then w.retirePort port else w) :=
  if_neg (by simp [isHostPort_of_lt hport, hdown, hother, hkept, hlong])

theorem exec_portRetire (s : State) (port : Nat) :
    exec (.portRetire port) s = .next (if s.portSpent port then s.retirePort port else s) := rfl

theorem retirePort_retired (s : State) (port : Nat) : ((s.retirePort port).port port).retired = true := by
  have h := port_modPort_same s port (fun x => { x with retired := true })
  unfold State.retirePort
  simp only
  split <;> exact congrArg Port.retired h

/-- R69: the retirement of a host port sets its bit of SERVICE-REQUESTED. -/
theorem retirePort_requests_service (s : State) {port : Nat} (h : port < 2) : (s.retirePort port).twin.sr.getLsbD 3 = true := by
  unfold State.retirePort
  rw [if_pos (isHostPort_of_lt h)]
  simp

/-- Settles O36: event by event. -/
theorem ethernetPorts : Obligations.EthernetPorts := by
  unfold Obligations.EthernetPorts
  intro s
  refine ⟨fun f => ⟨fun why => frameDrop_counts, fun hport htaken hetype => ⟨fun hop hip => ?_, fun hop => ?_⟩,
      fun hport htaken hetype hicmp => ⟨fun hkind hip => ?_, fun hkind => ?_⟩⟩,
    fun port addr => ⟨_, rfl, fun h hh => (mem_hops_nextHopExpiry.1 hh).2, fun h hh hne => mem_hops_nextHopExpiry.2 ⟨hh, hne⟩, rfl⟩,
    fun port up => ⟨_, exec_portLinkDown s port up, ?_, fun hup hdown => ?_, fun k hk => port_modPort_other s _ hk⟩,
    fun port => exec_pathRebind, fun port => ⟨fun hspent => ⟨s.retirePort port, ?_, retirePort_retired s port,
      retirePort_requests_service s⟩, fun hspent => ?_⟩⟩
  · rw [exec_arp_taken hport htaken hetype, if_pos ⟨hop, hip⟩]
  · rw [exec_arp_taken hport htaken hetype, if_neg (by simp [hop]), if_pos hop]
  · rw [exec_neighborDiscovery_taken hport htaken hetype hicmp, if_pos ⟨hkind, hip⟩]
  · rw [exec_neighborDiscovery_taken hport htaken hetype hicmp, if_neg (by simp [hkind]), if_pos hkind]
  · rw [port_modPort_same]
  · rw [port_modPort_same]
    exact if_pos (by rw [hup, hdown]; rfl)
  · rw [exec_portRetire, if_pos hspent]
  · rw [exec_portRetire, if_neg (by simp [hspent])]

end Sys2Proof.Machine
end

section
/-! The Thahal Host Transport at its ports: requests from hosts, answers from hosts, and the timers of a path (R40–R50, R62, R72). -/

namespace Sys2Proof.Machine

/-! ### A path's state -/

theorem path_modPath (s : State) (n : Nat) (g : PathSt → PathSt) : (s.modPath n g).path n = g (s.path n) :=
  (tget_tmod s.paths n n PathSt.initial g).trans (if_pos rfl)

theorem tht_modTht (s : State) (n : Nat) (g : PathSt → PathSt) : (s.modTht n g).tht n = g (s.tht n) := by
  unfold State.modTht State.tht
  split
  · rfl
  · exact path_modPath s n g

/-- A taken packet leaves the context of its path. -/
theorem thtTaken_ctx (s : State) (f : ThtPacket) : ((s.thtTaken f).tht (thPath f.hdr)).ctx = (s.tht (thPath f.hdr)).ctx := by
  have hsource : ∀ a, ({ s with src0 := a } : State).tht (thPath f.hdr) = s.tht (thPath f.hdr) := fun _ => rfl
  unfold State.thtTaken
  simp only
  split <;> split <;> simp only [tht_modTht, hsource]

/-- Path 0's expected PSN set to a packet's own, as PATH0_SYNC has it (R43), leaves the context of every path. -/
theorem tht_path0_psnIn_ctx (s : State) (c : Prop) [Decidable c] (psn : BitVec 24) (n : Nat) :
    ((if c then { s with path0 := { s.path0 with psnIn := psn } } else s : State).tht n).ctx = (s.tht n).ctx := by
  unfold State.tht
  split_ifs <;> rfl

/-! ### A packet taken -/

/-- A packet meets its path open to it, and is well formed (R41, R42). -/
structure State.ThtFit (s : State) (f : ThtPacket) : Prop where
  opened : pcState (s.tht (thPath f.hdr)).ctx ≠ 2
  form   : thtFormatOk (s.thtMtu f) f = true

theorem State.ThtFit.congr {s t : State} {f : ThtPacket} (h : s.ThtFit f)
    (hctx : (t.tht (thPath f.hdr)).ctx = (s.tht (thPath f.hdr)).ctx) : t.ThtFit f where
  opened := hctx ▸ h.opened
  form := by
    have hmtu : t.thtMtu f = s.thtMtu f := by
      unfold State.thtMtu
      unfold State.tht at hctx
      split_ifs at hctx ⊢ with hn
      · rfl
      · rw [hctx]
    rw [hmtu, h.form]

section
variable {s : State} {f : ThtPacket} {op : Nat}

theorem State.ThtHere.fit (h : s.ThtHere f op) : (s.thtTaken f).ThtFit f := by
  have hfit : s.ThtFit f := ⟨?_, h.form⟩
  · exact hfit.congr (thtTaken_ctx s f)
  have hopened := h.opened
  unfold State.tht
  split_ifs at hopened ⊢
  · exact hopened
  · rw [hopened]
    decide

/-- R41: a packet of the operation that an event is about goes on to what the event does. -/
theorem thtArrive_here (h : s.unfocus.ThtHere f op) (k : State → State) : s.thtArrive f op k = k (s.unfocus.thtTaken f) := by
  have hdeaf : ∀ t : State, t.twin.failed = false → ¬ t.deafTo f = true := fun t ht => by simp [State.deafTo, ht]
  unfold State.thtArrive State.thtTaken
  simp only [h.taken, h.kind, if_true]
  split
  · exact if_neg (hdeaf _ h.alive)
  · exact if_neg (hdeaf _ h.alive)

end

/-! ### Requests -/

/-- R42: a path whose expected packet has come has no gap to tell of. -/
def State.thtFresh (s : State) (n : Nat) : State := s.modTht n (fun x => { x with nakSent := false })

/-- R42: what follows a request served: WAKE_FULL is told and the PSN kept; else the PSN is consumed. -/
def Served.answered (r : Served) (f : ThtPacket) : State :=
  if r.nak = 2 then r.st.thtReply f 10 2 (thPsn f.hdr) 0 [] else r.st.thtServed f r.nak r.resp

theorem Served.answered_of {r : Served} {u : State} {k : Nat} {b : Bool} (h : r = ⟨u, k, b⟩) (hk : k ≠ 2) (f : ThtPacket) :
    r.answered f = u.thtServed f k b := by
  rw [h]
  exact if_neg hk

theorem Served.answered_wakeFull {r : Served} {u : State} {b : Bool} (h : r = ⟨u, 2, b⟩) (f : ThtPacket) :
    r.answered f = u.thtReply f 10 2 (thPsn f.hdr) 0 [] := by
  rw [h]
  exact if_pos rfl

/-- R42: what an expected request does beside its service. -/
theorem thtExpected_eq (t : State) (f : ThtPacket) (serve : State → Served) : t.thtExpected f serve = Served.answered
    (if pcState (t.tht (thPath f.hdr)).ctx = 2 then ⟨t.thtFresh (thPath f.hdr), 6, false⟩
     else if !thtFormatOk (t.thtMtu f) f || (thPath f.hdr == 0 && thOp f.hdr != 7) then ⟨t.thtFresh (thPath f.hdr), 4, false⟩
     else serve (t.thtFresh (thPath f.hdr))) f := by
  unfold State.thtExpected Served.answered State.thtServed State.thtFresh
  simp only [Bool.or_eq_true, Bool.and_eq_true, beq_iff_eq, decide_eq_true_eq, ge_iff_le, or_assoc]

section
variable {t : State} {f : ThtPacket} (hfit : t.ThtFit f) (serve : State → Served)
include hfit

/-- R42, R43: a well-formed expected request is served, on path 0 when it is a MGMT. -/
theorem thtExpected_serves (hop : thPath f.hdr = 0 → thOp f.hdr = 7) :
    t.thtExpected f serve = (serve (t.thtFresh (thPath f.hdr))).answered f := by
  have hkept : ¬ (!thtFormatOk (t.thtMtu f) f || (thPath f.hdr == 0 && thOp f.hdr != 7)) = true := by simpa [hfit.form] using hop
  rw [thtExpected_eq, if_neg hfit.opened, if_neg hkept]

/-- R43: path 0 refuses every other request. -/
theorem thtExpected_path0_refuses (hn : thPath f.hdr = 0) (hop : thOp f.hdr ≠ 7) :
    t.thtExpected f serve = (t.thtFresh (thPath f.hdr)).thtServed f 4 false := by
  have hrefused : (!thtFormatOk (t.thtMtu f) f || (thPath f.hdr == 0 && thOp f.hdr != 7)) = true := by simp [hn, hop]
  rw [thtExpected_eq, if_neg hfit.opened, if_pos hrefused]
  exact Served.answered_of rfl (by decide) f

end

theorem thtRequest_expected {t : State} {f : ThtPacket} (h : thPsn f.hdr = (t.tht (thPath f.hdr)).psnIn) (serve : State → Served)
    (again : State → Option Served) : t.thtRequest f serve again = t.thtExpected f serve :=
  if_pos (by rw [h, BitVec.sub_self]; rfl)

section
variable {s : State} {f : ThtPacket} {op : Nat} (h : s.unfocus.ThtHere f op)
  (hnext : thPsn f.hdr = ((s.unfocus.thtTaken f).tht (thPath f.hdr)).psnIn)
include h hnext

/-- R45: the expected request of an open path is served. -/
theorem thtArrive_serves (hn : thPath f.hdr ≠ 0) (serve : State → Served) (again : State → Option Served) :
    s.thtArrive f op (fun t => t.thtRequest f serve again) =
      (serve ((s.unfocus.thtTaken f).thtFresh (thPath f.hdr))).answered f := by
  rw [thtArrive_here h, thtRequest_expected hnext, thtExpected_serves h.fit _ (absurd · hn)]

theorem thtArrive_path0_refuses (hn : thPath f.hdr = 0) (hop : op ≠ 7) (serve : State → Served) (again : State → Option Served) :
    s.thtArrive f op (fun t => t.thtRequest f serve again) =
      ((s.unfocus.thtTaken f).thtFresh (thPath f.hdr)).thtServed f 4 false := by
  rw [thtArrive_here h, thtRequest_expected hnext, thtExpected_path0_refuses h.fit _ hn (h.kind ▸ hop)]

end

/-- R43, R62: an expected MGMT is served, PATH0_SYNC on path 0 at any PSN; an activation that waits is acknowledged and answered later. -/
theorem thtMgmt_serves {s : State} {f : ThtPacket} (h : s.unfocus.ThtHere f 7) :
    let s0 := s.unfocus.thtTaken f
    let s1 : State := if thPath f.hdr = 0 ∧ (mgmtOf f).mop = 0x12 then { s0 with path0 := { s0.path0 with psnIn := thPsn f.hdr } } else s0
    thPsn f.hdr = (s1.tht (thPath f.hdr)).psnIn → let u := (s1.thtFresh (thPath f.hdr)).manage (mgmtOf f)
    exec (.thtMgmt f) s = .next (u.thtServed f 0 (thPath f.hdr != 0 || u.twin.activating.isNone)) := by
  intro s0 s1 hnext u
  have hfit : s1.ThtFit f := h.fit.congr (tht_path0_psnIn_ctx ..)
  refine congrArg Host.Outcome.next ((thtArrive_here h _).trans ((thtRequest_expected hnext _ _).trans ?_))
  rw [thtExpected_serves hfit _ fun _ => h.kind]
  exact Served.answered_of rfl (by decide) f

/-! ### Answers -/

section
variable {t : State} {f : ThtPacket} (hfit : t.ThtFit f)
include hfit

/-- R43: the device asks nothing on path 0, and takes no answer there. -/
theorem thtAnswer_path0 (hn : thPath f.hdr = 0) (k : Nat → State → State) : t.thtAnswer f k = t := by
  unfold State.thtAnswer
  simp only [hfit.form, hn, Bool.not_true, Bool.false_eq_true, if_false, if_true]

/-- R47: an echo that an ACK or a NAK carries cuts the rate before the answer is taken. -/
theorem thtAnswer_told (hn : thPath f.hdr ≠ 0) (hop : thOp f.hdr = 9 ∨ thOp f.hdr = 10) (k : Nat → State → State) : t.thtAnswer f k =
    k (thPath f.hdr) (if thCeEcho f.hdr then t.modPath (thPath f.hdr) (rateCut t.gtime) else t) := by
  unfold State.thtAnswer
  simp only [hfit.form, hn, Bool.not_true, Bool.false_eq_true, if_false, Bool.and_eq_true, Bool.or_eq_true, beq_iff_eq, hop, and_true]

theorem thtAnswer_response (hn : thPath f.hdr ≠ 0) (h9 : thOp f.hdr ≠ 9) (h10 : thOp f.hdr ≠ 10) (k : Nat → State → State) :
    t.thtAnswer f k = k (thPath f.hdr) t := by
  unfold State.thtAnswer
  simp only [hfit.form, hn, h9, h10, Bool.not_true, Bool.false_eq_true, if_false, Bool.and_eq_true, Bool.or_eq_true, beq_iff_eq, or_self,
    and_false]

/-- R42, R48: a response of the right kind and length completes the request it echoes. -/
theorem thtResponse_completes (hn : thPath f.hdr ≠ 0) (h9 : thOp f.hdr ≠ 9) (h10 : thOp f.hdr ≠ 10) {q : SentReq}
    (hfind : (t.path (thPath f.hdr)).buf.find? (fun q => q.psn == thPsn f.hdr) = some q)
    (hlen : q.op = 2 → f.payload.length = field (thImm q.hdr).toNat 0 13) : t.thtResponse f q.op =
      (t.ackUpTo (thPath f.hdr) (thPsn f.hdr)).endReq (thPath f.hdr) (thPsn f.hdr) (some (ingressWords f.payload)) := by
  unfold State.thtResponse
  rw [thtAnswer_response hfit hn h9 h10]
  simp only [hfind]
  rw [if_neg (not_not.2 rfl), if_neg fun h => h.2 (hlen h.1)]

end

section
variable {s : State} {f : ThtPacket} {op : Nat} (h : s.unfocus.ThtHere f op)
include h

theorem thtArrive_path0_ignores (hn : thPath f.hdr = 0) (k : Nat → State → State) :
    s.thtArrive f op (fun t => t.thtAnswer f k) = s.unfocus.thtTaken f := by
  rw [thtArrive_here h, thtAnswer_path0 h.fit hn]

theorem thtArrive_told (hn : thPath f.hdr ≠ 0) (hop : op = 9 ∨ op = 10) (k : Nat → State → State) :
    s.thtArrive f op (fun t => t.thtAnswer f k) = k (thPath f.hdr) (if thCeEcho f.hdr then
      (s.unfocus.thtTaken f).modPath (thPath f.hdr) (rateCut (s.unfocus.thtTaken f).gtime) else s.unfocus.thtTaken f) := by
  rw [thtArrive_here h, thtAnswer_told h.fit hn (h.kind ▸ hop)]

theorem thtArrive_response (hn : thPath f.hdr ≠ 0) (h9 : op ≠ 9) (h10 : op ≠ 10) {q : SentReq}
    (hfind : ((s.unfocus.thtTaken f).path (thPath f.hdr)).buf.find? (fun q => q.psn == thPsn f.hdr) = some q)
    (hlen : q.op = 2 → f.payload.length = field (thImm q.hdr).toNat 0 13) :
    s.thtArrive f op (fun t => t.thtResponse f q.op) = ((s.unfocus.thtTaken f).ackUpTo (thPath f.hdr) (thPsn f.hdr)).endReq
      (thPath f.hdr) (thPsn f.hdr) (some (ingressWords f.payload)) := by
  rw [thtArrive_here h, thtResponse_completes h.fit hn (h.kind ▸ h9) (h.kind ▸ h10) hfind hlen]

end

/-- R42: SEQ_ERR goes back to its PSN, after the cut an echo asks for. -/
theorem thtNak_seqErr {s : State} {f : ThtPacket} (h : s.unfocus.ThtHere f 10) (hn : thPath f.hdr ≠ 0) (hcode : thCode f.hdr = 1) :
    let s0 := s.unfocus.thtTaken f
    exec (.thtNak f) s = .next ((if thCeEcho f.hdr then s0.modPath (thPath f.hdr) (rateCut s0.gtime) else s0).goBack (thPath f.hdr)
      (thPsn f.hdr)) := by
  refine congrArg Host.Outcome.next ((thtArrive_told h hn (.inr rfl) _).trans ?_)
  simp only [hcode]

/-- R42: the NAKs with codes 3 to 6 end the request they name, after the cut an echo asks for. -/
theorem thtNak_ends {s : State} {f : ThtPacket} (h : s.unfocus.ThtHere f 10) (hn : thPath f.hdr ≠ 0) (hlo : 3 ≤ thCode f.hdr)
    (hhi : thCode f.hdr ≤ 6) : let s0 := s.unfocus.thtTaken f
    exec (.thtNak f) s = .next ((if thCeEcho f.hdr then s0.modPath (thPath f.hdr) (rateCut s0.gtime) else s0).endReq (thPath f.hdr)
      (thPsn f.hdr) none) := by
  refine congrArg Host.Outcome.next ((thtArrive_told h hn (.inr rfl) _).trans ?_)
  obtain hcode | hcode | hcode | hcode : thCode f.hdr = 3 ∨ thCode f.hdr = 4 ∨ thCode f.hdr = 5 ∨ thCode f.hdr = 6 := by omega
  all_goals simp only [hcode]

/-! ### Timers -/

theorem thtAckTimer_tells {s : State} {p : Nat} (halive : s.twin.failed = false) (hopen : p = 0 ∨ pcState (s.path p).ctx = 1)
    (hdue : 0 < (s.tht p).unacked ∨ (s.tht p).echo = true) : exec (.thtAckTimer p) s = .next (s.ackPath p) :=
  congrArg Host.Outcome.next (if_pos (by simp [halive, hopen, hdue]))

theorem thtRetransmitTimeout_resends {s : State} {p : Nat} {q : SentReq} {r : List SentReq} (hbuf : (s.path p).buf = q :: r)
    (hopen : pcState (s.path p).ctx = 1) : exec (.thtRetransmitTimeout p) s = .next (s.unfocus.goBack p q.psn) := by
  refine congrArg Host.Outcome.next ?_
  simp only [hbuf, if_pos hopen]

theorem exec_thtRateIncrease (s : State) (p : Nat) : exec (.thtRateIncrease p) s = .next (s.modPath p rateUp) := rfl

/-- Settles O37: requests by what serves them, answers by what they say. -/
theorem thtPackets : Obligations.ThtPackets := by
  unfold Obligations.ThtPackets
  intro s f here n s0 fresh next
  have served {op k : Nat} {b : Bool} {serve : State → Served} {again : State → Option Served} {u : State} (h : here op) (hnext : next)
      (hn : n ≠ 0) (hserve : serve (fresh s0) = ⟨u, k, b⟩) (hk : k ≠ 2) :
      Host.Outcome.next (φ := Fault) (ρ := Refusal) (s.thtArrive f op (fun t => t.thtRequest f serve again)) = .next (u.thtServed f k b) :=
    congrArg Host.Outcome.next ((thtArrive_serves h hnext hn _ _).trans (Served.answered_of hserve hk f))
  have refused {op : Nat} {serve : State → Served} {again : State → Option Served} (h : here op) (hnext : next) (hn : n = 0) (hop : op ≠ 7) :
      Host.Outcome.next (φ := Fault) (ρ := Refusal) (s.thtArrive f op (fun t => t.thtRequest f serve again)) =
        .next ((fresh s0).thtServed f 4 false) :=
    congrArg Host.Outcome.next (thtArrive_path0_refuses h hnext hn hop _ _)
  have ignored {op : Nat} {k : Nat → State → State} (hn : n = 0) (h : here op) :
      Host.Outcome.next (φ := Fault) (ρ := Refusal) (s.thtArrive f op (fun t => t.thtAnswer f k)) = .next s0 :=
    congrArg Host.Outcome.next (thtArrive_path0_ignores h hn _)
  refine ⟨fun u k hn hnext hk => ⟨fun h hserve => served h hnext hn hserve hk, fun b h hserve => served h hnext hn hserve hk,
      fun b h hserve => served h hnext hn hserve hk, fun h hserve => served h hnext hn hserve hk⟩,
    fun u hn hnext h hserve => ?_,
    fun hn hnext => ⟨fun h => refused h hnext hn (by decide), fun h => refused h hnext hn (by decide),
      fun h => refused h hnext hn (by decide), fun h => refused h hnext hn (by decide)⟩, fun h => thtMgmt_serves h,
    fun hn => ⟨ignored hn, ignored hn, ignored hn, ignored hn, ignored hn⟩,
    fun hn => ⟨fun q hfind => ⟨fun h hop hlen => ?_, fun h hop => ?_⟩, fun h => ?_, fun h => ?_, fun h => thtNak_seqErr h hn,
      fun h => thtNak_ends h hn⟩,
    fun p => thtAckTimer_tells, fun p q r => thtRetransmitTimeout_resends, fun p => ⟨_, exec_thtRateIncrease s p, ?_, ?_⟩⟩
  · exact congrArg Host.Outcome.next ((thtArrive_serves h hnext hn _ _).trans (Served.answered_wakeFull hserve f))
  · have hdone := thtArrive_response h hn (by decide) (by decide) hfind fun _ => hlen
    rw [hop] at hdone
    exact congrArg Host.Outcome.next hdone
  · have hdone := thtArrive_response h hn (by decide) (by decide) hfind fun h2 => absurd (hop.symm.trans h2) (by decide)
    rw [hop] at hdone
    exact congrArg Host.Outcome.next hdone
  · refine congrArg Host.Outcome.next ((thtArrive_here h _).trans (thtAnswer_response h.fit hn ?_ ?_ _)) <;> rw [h.kind] <;> decide
  · exact congrArg Host.Outcome.next (thtArrive_told h hn (.inl rfl) _)
  · rw [path_modPath]
    rfl
  · rw [path_modPath]
    rfl

end Sys2Proof.Machine
end

section
/-! Perit frames of a peer: what arrives, what is sent again, and what a handle admits (R42, R54–R58). -/

namespace Sys2Proof.Machine

section
variable {s : State} {f : PeritFrame} (hok : peritOk f = true) (hlo : 2 ≤ f.port) (hhi : f.port < 10)
include hok hlo hhi

/-- R55, R57: a sound frame at a fabric port has its acknowledgement taken, and goes on to what its kind does. -/
theorem peritArrive_sound {kind : Nat} (hkind : phKind f.hdr = kind) (k : BitVec 16 → State → State) :
    s.peritArrive f kind k = k (phSrc f.hdr) (s.unfocus.peritAcked (phSrc f.hdr) (phAseq f.hdr)) := by
  unfold State.peritArrive
  rw [if_neg (by omega), if_neg (by simp [hok]), if_neg (not_not.2 hkind)]

/-- R42, R56, R57: a data frame in sequence is counted once its packets are served, and acknowledged with fifteen before it. -/
theorem peritDataFrame_inSequence (hkind : phKind f.hdr = 0) : let src := phSrc f.hdr
    let s1 := s.unfocus.peritAcked src (phAseq f.hdr)
    ∀ u : State, phSeq f.hdr = (s1.peer src).seqIn → s1.peritPackets src f = some u →
      let own := s1.frameOwner src (phHandle f.hdr) (f.packets.any isPeerRequest)
      let v := u.modPeer src (fun x => { x with
        seqIn := x.seqIn + 1
        nakSent := false
        lastPort := f.port
        lastPart := own
        unacked := x.unacked + 1 })
      exec (.peritDataFrame f) s = .next (if 16 ≤ (v.peer src).unacked then v.peritAck src own f.port else v) := by
  intro src s1 u hseq hserved own v
  have hnext : (phSeq f.hdr - (s1.peer src).seqIn).toNat = 0 := by rw [hseq, BitVec.sub_self]; rfl
  refine congrArg Host.Outcome.next ((peritArrive_sound hok hlo hhi hkind _).trans ((if_pos hnext).trans ?_))
  simp only [s1, src] at hserved
  simp only [hserved]
  rfl

theorem exec_peritAckFrame_sound (hkind : phKind f.hdr = 1) :
    exec (.peritAckFrame f) s = .next (s.unfocus.peritAcked (phSrc f.hdr) (phAseq f.hdr)) :=
  congrArg Host.Outcome.next (peritArrive_sound hok hlo hhi hkind _)

theorem exec_peritNakFrame_sound (hkind : phKind f.hdr = 2) : exec (.peritNakFrame f) s =
    .next ((s.unfocus.peritAcked (phSrc f.hdr) (phAseq f.hdr)).peritResend (phSrc f.hdr) (phSeq f.hdr)) :=
  congrArg Host.Outcome.next (peritArrive_sound hok hlo hhi hkind _)

end

theorem peer_modPeer (s : State) (dev : BitVec 16) (g : Peer → Peer) : (s.modPeer dev g).peer dev = g (s.peer dev) :=
  (tget_tmod s.peersSt dev.toNat dev.toNat Peer.initial g).trans (if_pos rfl)

/-- R56: no frame that an acknowledgement covers is kept. -/
theorem peritAcked_frees (s : State) (dev : BitVec 16) (aseq : BitVec 24) {b : BitVec 24 × Nat × PeritFrame}
    (h : b ∈ ((s.peritAcked dev aseq).peer dev).buf) : psnLe b.1 aseq = false := by
  rw [State.peritAcked, peer_modPeer] at h
  simpa using (List.mem_filter.1 h).2

theorem peritTimeout_resends {s : State} {dev : BitVec 16} {b : BitVec 24 × Nat × PeritFrame} {r : List (BitVec 24 × Nat × PeritFrame)}
    (h : (s.peer dev).buf = b :: r) : exec (.peritTimeout dev) s = .next (s.unfocus.peritResend dev b.1) := by
  refine congrArg Host.Outcome.next ?_
  simp only [h]

theorem peritAckTimer_tells {s : State} {dev : BitVec 16} (h : 0 < (s.peer dev).unacked) :
    exec (.peritAckTimer dev) s = .next (s.peritAck dev (s.peer dev).lastPart (s.peer dev).lastPort) :=
  congrArg Host.Outcome.next (if_pos h)

/-- R54, R58: a revoked handle admits nothing. -/
theorem handleAdmits_revoked {h : Handle} (hrevoked : h.live = false) (dev : BitVec 16) (p : Packet) : handleAdmits h dev p = false := by
  simp [handleAdmits, hrevoked]

/-- R58: a request that its handle bars is refused, and counts for the handle's partition. -/
theorem servePeer_refuses {s : State} {h : Handle} {dev : BitVec 16} {p : Packet} (hfind : s.handles.find? (fun x => x.id == h.id) = some h)
    (hbars : handleAdmits h dev p = false) : s.servePeer dev h.id p =
      (s.modPart h.part (fun x => { x with refusals := x.refusals + 1 }), peerReply p 3 3 p.hdr.aux []) := by
  unfold State.servePeer
  simp only [hfind, hbars, Bool.false_eq_true, if_false]

/-- Settles O38: frame by frame, from what every sound frame at a fabric port meets. -/
theorem peritFrames : Obligations.PeritFrames := by
  unfold Obligations.PeritFrames
  intro s f src s1
  exact ⟨fun hok hlo hhi => ⟨fun u hkind => peritDataFrame_inSequence hok hlo hhi hkind u,
      fun hkind => ⟨exec_peritAckFrame_sound hok hlo hhi hkind, fun b => peritAcked_frees s.unfocus src (phAseq f.hdr)⟩,
      exec_peritNakFrame_sound hok hlo hhi⟩,
    fun dev b r => peritTimeout_resends, fun dev => peritAckTimer_tells,
    fun h dev p hfind => ⟨fun hrevoked => handleAdmits_revoked hrevoked dev p, servePeer_refuses hfind⟩⟩

end Sys2Proof.Machine
end

section
/-! Management requests: whom Twin Star serves, and the effect and answer of each operation (R43, R44, R52, R54, R57, R60–R67, R72–R74). -/

namespace Sys2Proof.Machine

/-! ### Admission (R63) -/

section
variable {s : State} {m : MgmtReq} {own : Bool}

/-- R63: an admitted request is served by its operation. -/
theorem serveThen_admitted (h : s.unfocus.MgmtOk m own) (op : State → State × Option Reply) (after : State → State) :
    s.serveThen m own op after = (op s.unfocus).2.elim (op s.unfocus).1 (fun r => after ((op s.unfocus).1.respond m r)) := by
  have hfree : ¬ (m.path == 0 && s.unfocus.twin.activating.isSome && !s.unfocus.twin.failed) = true := by
    obtain hpath | hact := h.free
    · simp [hpath]
    · simp [hact]
  have hright : ¬ (m.path ≠ 0 ∧ (!own ∨ m.part.toNat ≠ pcPart (s.unfocus.path m.path).ctx)) := by
    obtain hpath | ⟨hown, hpart⟩ := h.right
    · simp [hpath]
    · simp [hown, hpart]
  unfold State.serveThen
  simp only
  rw [if_neg (by simp [h.up]), if_neg (by simp [h.idle]), if_neg hfree, if_neg hright, if_neg (not_not.2 h.zero)]
  obtain ⟨u, _ | r⟩ := op s.unfocus
  · rfl
  · rfl

/-- The operation code that an event gives a request has no part in its admission. -/
theorem State.MgmtOk.ofOp (h : s.MgmtOk m own) (k : BitVec 16) : s.MgmtOk { m with mop := k } own := ⟨h.up, h.idle, h.free, h.right, h.zero⟩

theorem serveMgmt_answers (h : s.unfocus.MgmtOk m own) {op : State → State × Reply} {u : State} {r : Reply} (hop : op s.unfocus = (u, r)) :
    s.serveMgmt m own op = u.respond m r := by
  rw [State.serveMgmt, State.serveLater, serveThen_admitted h]
  simp only [hop, Option.elim_some, id_eq]

theorem serveLater_answers (h : s.unfocus.MgmtOk m own) {op : State → State × Option Reply} {u : State} {r : Reply}
    (hop : op s.unfocus = (u, some r)) : s.serveLater m own op = u.respond m r := by
  rw [State.serveLater, serveThen_admitted h]
  simp only [hop, Option.elim_some, id_eq]

theorem serveLater_defers (h : s.unfocus.MgmtOk m own) {op : State → State × Option Reply} {u : State}
    (hop : op s.unfocus = (u, none)) : s.serveLater m own op = u := by
  rw [State.serveLater, serveThen_admitted h]
  simp only [hop, Option.elim_none]

/-- R63, R72: a request of path 0 waits behind an activation. -/
theorem serveThen_waits (hpath : m.path = 0) (hup : s.unfocus.twin.failed = false) (hidle : s.unfocus.twin.recovering = false)
    (hact : s.unfocus.twin.activating ≠ none) (op : State → State × Option Reply) (after : State → State) : s.serveThen m own op after =
      { s.unfocus with twin := { s.unfocus.twin with mgmtWait := s.unfocus.twin.mgmtWait ++ [m] } } := by
  unfold State.serveThen
  simp only
  rw [if_neg (by simp [hup]), if_neg (by simp [hidle]), if_pos (by simp [hpath, hup, Option.isSome_iff_ne_none, hact])]

end

section
variable {s : State} {m : MgmtReq}

/-! ### Operations on the package -/

theorem opInvRead_reads (harg : m.arg = 0) (hbody : m.body = []) : let inv := s.twin.invBuf.getD s.twin.invActive []
    opInvRead m s = (s, ⟨0, 0, inv ++ List.replicate (4080 - inv.length) 0⟩) :=
  if_neg (by simp [harg, hbody])

theorem opPath0Sync_syncs (harg : m.arg = 0) (hbody : m.body = []) :
    opPath0Sync m s = ({ s with path0 := { s.path0 with psnIn := m.psn + 1 } }, ⟨0, (m.psn + 1).toNat, []⟩) :=
  if_neg (by simp [harg, hbody])

section
variable (hn : m.arg.toNat ≠ 0) (hlt : m.arg.toNat < 4096) (hlen : m.body.length = 40) (hok : pcOk (pcOf m.body) = true)
include hn hlt hlen hok

theorem opPathSet_opens (hopen : pcState (pcOf m.body) = 1) (hshut : pcState (s.path m.arg.toNat).ctx ≠ 1) :
    opPathSet m s = ({ s with paths := tins s.paths m.arg.toNat { PathSt.initial with
      ctx := pcOf m.body
      psnIn := BitVec.ofNat 24 (ofBytes ((m.body.drop 32).take 3))
      psnOut := BitVec.ofNat 24 (ofBytes ((m.body.drop 35).take 3))
      vlan := BitVec.ofNat 16 (ofBytes ((m.body.drop 38).take 2)) } }, stOk) :=
  (if_neg (by simp [hn, hlt, hlen, hok])).trans ((if_pos hopen).trans (if_neg hshut))

theorem opPathSet_closes (hclosed : pcState (pcOf m.body) = 0) (hbuf : (s.path m.arg.toNat).buf = []) :
    opPathSet m s = (s.modPath m.arg.toNat (fun x => { x with
      ctx := pcOf m.body
      vlan := BitVec.ofNat 16 (ofBytes ((m.body.drop 38).take 2)) }), stOk) :=
  (if_neg (by simp [hn, hlt, hlen, hok])).trans ((if_neg (by simp [hclosed])).trans (if_neg (by simp [hbuf])))

end

theorem opFwStage_stages (hbody : m.body ≠ []) (hroom : m.arg.toNat + m.body.length ≤ 2 ^ 26) :
    opFwStage m s = ({ s with twin := { s.twin with
      staging := m.body.zipIdx.foldl (fun t x => tins t (m.arg.toNat + x.2) x.1) s.twin.staging } }, stOk) :=
  if_neg (not_or.2 ⟨hbody, Nat.not_lt.2 hroom⟩)

theorem opPowerCap_sets (hbody : m.body = []) (hlo : 2000 ≤ m.arg.toNat) (hhi : m.arg.toNat ≤ 7500) :
    opPowerCap m s = ({ s with twin := { s.twin with capW := m.arg.toNat } }, stOk) :=
  if_neg (by simp [hbody, hlo, hhi])

/-! ### Firmware activation (R72) -/

/-- R72: the staged image's signature and digest hold, and its counter is not below the fused one. -/
def State.FwSound (s : State) : Prop :=
  let digest : BitVec 512 := BitVec.ofNat 512 (ofBytes (s.staged 8 64))
  Config.falconVerify digest (s.staged 72 1280) = true ∧ Config.shake256 s.stagedImage = digest ∧
    s.twin.fuse.toNat ≤ (BitVec.ofNat 32 (ofBytes (s.staged 4 4)) : BitVec 32).toNat

/-- R72 step 1: the aperture gated and the activation under way. -/
def State.fwGated (s : State) (m : MgmtReq) : State :=
  { s with
    gated := true
    twin := { s.twin with activating := some m } }

section
variable (harg : m.arg = 0) (hbody : m.body = [])
include harg hbody

theorem opFwActivate_rejects (h : ¬ s.FwSound) : opFwActivate m s = (s, some stSigFail) := by
  refine (if_neg (by simp [harg, hbody])).trans (if_pos ?_)
  by_contra hgood
  simp only [Bool.or_eq_true, Bool.not_eq_true', bne_iff_ne, decide_eq_true_eq, not_or, not_lt, ne_eq, not_not, Bool.not_eq_false] at hgood
  obtain ⟨⟨⟨-, hsig⟩, hdigest⟩, hcounter⟩ := hgood
  exact h ⟨hsig, hdigest, hcounter⟩

theorem opFwActivate_accepts (hlen : 1352 < s.stagedLen) (h : s.FwSound) : opFwActivate m s =
    if s.kilns.isEmpty then ((s.fwGated m).fwStart, some stOk) else (s.fwGated m, none) := by
  obtain ⟨hsig, hdigest, hcounter⟩ := h
  refine (if_neg (by simp [harg, hbody])).trans (if_neg ?_)
  simp only [hsig, hdigest, Bool.or_eq_true, decide_eq_true_eq, bne_self_eq_false, Bool.not_true, Bool.false_eq_true, or_false]
  omega

end

/-! ### Host ports (R44) -/

/-- R44: with no body, or with an acceptable record, PORT_SET is answered with the record in force. -/
theorem opPortSet_reads (hport : m.arg.toNat < 2) (h : m.body = [] ∨ (newPortRec m).isSome = true) :
    opPortSet m s = (s, ⟨0, 0, s.portRec m.arg.toNat⟩) :=
  (if_neg (Nat.not_le.2 hport)).trans (congrArg (Prod.mk s) (if_pos h))

theorem newPortRec_empty (h : m.body = []) : newPortRec m = none := if_neg (by simp [h])

theorem servePortSet_answers (hadmitted : s.unfocus.MgmtOk m false) (hport : m.arg.toNat < 2) (h : m.body = [] ∨ (newPortRec m).isSome = true) :
    s.servePortSet m = (s.unfocus.respond m ⟨0, 0, s.unfocus.portRec m.arg.toNat⟩).putPortRec m := by
  rw [State.servePortSet, serveThen_admitted hadmitted]
  simp only [opPortSet_reads hport h, Option.elim_some]

/-! ### Operations on one partition -/

theorem reqTarget_of_lt {p : Nat} (hp : p < 8) (hpart : m.part.toNat = p) : reqTarget m = some p := by
  subst hpart
  exact if_pos hp

section
variable {p : Nat} (htarget : reqTarget m = some p)
include htarget

theorem onPart_target (f : Nat → State → State × Reply) : onPart m f s = f p s := by
  unfold onPart
  simp only [htarget]

theorem reqTarget_not_all : m.part ≠ 0xff := by
  intro h
  unfold reqTarget at htarget
  rw [h] at htarget
  cases htarget

theorem opPartStatus_reads (harg : m.arg = 0) (hbody : m.body = []) : opPartStatus m s = (s, ⟨0, 0, s.partRecord p⟩) :=
  (onPart_target htarget _).trans (if_neg (by simp [harg, hbody]))

theorem opDrain_drains (harg : m.arg = 0) (hbody : m.body = []) (hactive : peState (s.part p).entry = 1) :
    opDrain m s = ((s.setPartState p 2).settleDrain, stOk) := by
  refine (if_neg (by simp [harg, hbody])).trans ((if_neg (reqTarget_not_all htarget)).trans ((onPart_target htarget _).trans ?_))
  rw [if_neg (by rw [hactive]; decide), State.drainPart, if_pos hactive]

theorem opUndrain_undrains (harg : m.arg = 0) (hbody : m.body = []) (hdrained : peState (s.part p).entry = 2 ∨ peState (s.part p).entry = 3) :
    opUndrain m s = ((s.setPartState p 1).modPart p (fun x => { x with
      refused := 0
      maxGrade := 0 }), stOk) := by
  refine (if_neg (by simp [harg, hbody])).trans ((if_neg (reqTarget_not_all htarget)).trans ((onPart_target htarget _).trans ?_))
  rw [if_neg (by omega), State.undrainPart, if_pos hdrained]

theorem opWindowSet_sets (hn : m.arg.toNat < 64) (hlen : m.body.length = 32)
    (hfits : winFits (s.part p).windows m.arg.toNat (winOf m.body) = true) :
    opWindowSet m s = (s.modPart p (fun x => { x with windows := tins x.windows m.arg.toNat (winOf m.body) }), stOk) := by
  simp only [opWindowSet, onPart_target htarget]
  exact if_neg (by simp [hn, hlen, hfits])

theorem opHandleExport_exports (harg : m.arg = 0) (hlen : m.body.length = 22) :
    let base := ofBytes (m.body.take 8)
    let size := ofBytes ((m.body.drop 8).take 8) * 8192
    let key := ofBytes ((m.body.drop 16).take 2)
    base % 8192 = 0 → s.rangeInPart p base size = true → s.keyInPart p key = true →
    let h : Handle := {
      id := BitVec.ofNat 32 s.nextHandle
      base := base
      size := size
      key := key
      perms := BitVec.ofNat 3 (ofBytes ((m.body.drop 18).take 1))
      dev := BitVec.ofNat 16 (ofBytes ((m.body.drop 19).take 2))
      impPart := ofBytes ((m.body.drop 21).take 1)
      part := p
      live := true }
    opHandleExport m s = ({ s with handles := s.handles ++ [h], nextHandle := s.nextHandle + 1 }, ⟨0, h.id.toNat, []⟩) := by
  intro base size key halign hrange hkey h
  simp only [opHandleExport, onPart_target htarget]
  rw [if_neg (by simp [harg, hlen, base, halign]), if_neg (by simp [base, size, key, hrange, hkey])]

theorem opHandleRevoke_revokes (hbody : m.body = [])
    (hlive : s.handles.any (fun h => h.id.toNat == m.arg.toNat && h.part == p && h.live) = true) :
    opHandleRevoke m s = ({ s with handles := s.handles.map (fun h =>
      if h.id.toNat == m.arg.toNat && h.part == p && h.live then { h with live := false } else h) }, stOk) :=
  (onPart_target htarget _).trans (if_neg (by simp [hbody, hlive]))

theorem opKeyGen_keys (hbody : m.body = []) (hkey : s.keyInPart p m.arg.toNat = true) (hfree : tfind s.keys m.arg.toNat = none) :
    let u := s.endKey m.arg.toNat
    opKeyGen m s = ({ u with keys := tins u.keys m.arg.toNat u.nextGen, nextGen := u.nextGen + 1 }, stOk) := by
  simp only [opKeyGen, onPart_target htarget]
  rw [if_neg (not_not.2 hbody), if_neg (by simp [hkey]), if_neg (by simp [hfree])]

theorem opKeyZero_zeroes (hbody : m.body = []) (hkey : s.keyInPart p m.arg.toNat = true) :
    opKeyZero m s = (s.retireKey m.arg.toNat, stOk) := by
  simp only [opKeyZero, onPart_target htarget]
  rw [if_neg (not_not.2 hbody), if_neg (by simp [hkey])]

theorem opAttest_attests (harg : m.arg = 0) (hlen : m.body.length = 32) :
    let sums := (List.range 8).flatMap (fun k => bytesOf 64 (s.measured k).toNat)
    let quoteOf := m.body ++ bytesOf 8 Config.devId.toNat ++ bytesOf 8 (s.entryNow p) ++ bytesOf 8 s.twin.gen ++ sums ++ Config.identityKey
    opAttest m s = (s, ⟨0, 0, quoteOf ++ bytesOf 1280 (Config.falconSign (Config.shake256 quoteOf)).toNat⟩) :=
  (onPart_target htarget _).trans (if_neg (by simp [harg, hlen]))

theorem opPeerSet_sets (hn : m.arg.toNat < 256) (hlen : m.body.length = 80) (h2 : m.body.getD 2 0 &&& 0xfe = 0)
    (h3 : ofBytes ((m.body.drop 3).take 5) = 0) (h72 : ofBytes ((m.body.drop 72).take 8) = 0)
    (honce : peerValid m.body = true → ∀ e ∈ (s.part p).peers, e.1 ≠ m.arg.toNat → peerValid e.2 = true → peerDevOf e.2 ≠ peerDevOf m.body) :
    opPeerSet m s = (s.modPart p (fun x => { x with peers := tins x.peers m.arg.toNat m.body }), stOk) := by
  have htwice : (peerValid m.body && (s.part p).peers.any (fun e => e.1 != m.arg.toNat && peerValid e.2 && peerDevOf e.2 == peerDevOf m.body)) =
      false := by
    rw [Bool.and_eq_false_imp]
    intro hvalid
    rw [List.any_eq_false]
    intro e he
    simpa using honce hvalid e he
  exact (onPart_target htarget _).trans (if_neg (by simp only [h2, h3, h72, htwice]; simp [hn, hlen]))

end

theorem retireKey_zeroes (s : State) (k : Nat) : tfind (s.retireKey k).keys k = none :=
  (tfind_tdel _ k k).trans (if_pos rfl)

end

end Sys2Proof.Machine
end

section
/-! PART_SET (R60), and every management operation together with what it answers (R62, R63). -/

namespace Sys2Proof.Machine

/-! ### PART_SET (R60) -/

/-- R60: two valid partitions share no die, no queue and no key slot. -/
def peApart (o e : BitVec 64) : Prop :=
  peDies o &&& peDies e = 0 ∧ overlaps (peQBase o) (peQCount o) (peQBase e) (peQCount e) = false ∧
    overlaps (peKBase o) (peKCount o) (peKBase e) (peKCount e) = false

/-- R60: an entry that keeps apart from every other valid one clashes with none. -/
theorem not_clash_of_apart {s : State} {p : Nat} {e : BitVec 64}
    (h : ∀ q < 8, q ≠ p → peValid (s.part q).entry = true → peApart (s.part q).entry e) :
    ((List.range 8).filter (fun q => q != p && peValid (s.part q).entry)).any (fun q =>
      let o := (s.part q).entry
      (peDies o &&& peDies e) != 0 || overlaps (peQBase o) (peQCount o) (peQBase e) (peQCount e) ||
      overlaps (peKBase o) (peKCount o) (peKBase e) (peKCount e)) = false := by
  rw [List.any_eq_false]
  intro q hq
  rw [List.mem_filter, Bool.and_eq_true, bne_iff_ne, List.mem_range] at hq
  obtain ⟨hlt, hne, hvalid⟩ := hq
  obtain ⟨hdies, hqueues, hkeys⟩ := h q hlt hne hvalid
  simp [hdies, hqueues, hkeys]

/-- A key slot stays when no die moves, when it was not the partition's, or when it is kept. -/
theorem not_zeroed_eq (idle valid above below kept : Bool) :
    (!(!idle && valid && above && below && !kept)) = (idle || !(valid && above && below) || kept) := by
  revert idle valid above below kept
  decide

theorem opPartSet_sets {s : State} {m : MgmtReq} {p : Nat} (htarget : reqTarget m = some p) (harg : m.arg = 0) (hlen : m.body.length = 8) :
    let e : BitVec 64 := BitVec.ofNat 64 (ofBytes m.body)
    let old := (s.part p).entry
    (∀ q < 8, q ≠ p → peValid (s.part q).entry = true → peApart (s.part q).entry e) →
    peQBase e + peQCount e ≤ 1024 → peKBase e + peKCount e ≤ 8192 → (peValid e = true → peDies e ≠ 0) → peState old ≠ 1 → peState old ≠ 2 →
    let moved := (List.range 8).filter (fun d => (peOwned e).testBit d != (peOwned old).testBit d)
    let u := moved.foldl State.flushDie s
    let kept := fun (k : Nat) => (peValid e && peKBase e ≤ k && k < peKBase e + peKCount e) ||
      (List.range 8).any (fun q => q != p && peValid (s.part q).entry && s.keyInPart q k)
    let range := fun (o : BitVec 64) (q : Nat) => peQBase o ≤ q && q < peQBase o + peQCount o
    let v : State := { u.modPart p (fun x => { x with
        entry := BitVec.ofNat 64 (e.toNat / 64 * 64 + if peValid e then 1 else 0)
        maxGrade := 0
        refused := 0 }) with
      keys := u.keys.filter (fun x => moved.isEmpty || !(peValid old && peKBase old ≤ x.1 && x.1 < peKBase old + peKCount old) || kept x.1)
      queues := u.queues.map (fun x => if range old x.1 || range e x.1 then (x.1, { x.2 with
        enabled := false
        halted := false }) else x)
      twin := { u.twin with
        meas := tmod u.twin.meas 5 [] (fun l => l ++ [m.body])
        worst := max s.twin.worst s.health } }
    opPartSet m s = (if peValid e then v.readCinder p else v, stOk) := by
  intro e old hapart hqueues hkeys hdies hactive hdraining moved u kept range v
  have hform : ¬ (m.arg ≠ 0 ∨ m.body.length ≠ 8) := by simp [harg, hlen]
  have hstate : ¬ (peState old = 1 ∨ peState old = 2) := not_or.2 ⟨hactive, hdraining⟩
  unfold opPartSet
  simp only [htarget]
  rw [if_neg hform, not_clash_of_apart hapart, if_neg (by simpa using ⟨⟨hqueues, hkeys⟩, hdies⟩), if_neg hstate]
  simp only [not_zeroed_eq, List.any_filter]
  rfl

/-! ### Activation and ports -/

theorem fwActivate_starts {s : State} {m : MgmtReq} (h : s.unfocus.MgmtOk m false) (harg : m.arg = 0) (hbody : m.body = [])
    (hlen : 1352 < s.unfocus.stagedLen) (hsound : s.unfocus.FwSound) (hkilns : s.unfocus.kilns = []) : exec (.fwActivate m) s =
      .next ((s.unfocus.fwGated { m with mop := 13 }).fwStart.respond { m with mop := 13 } stOk) :=
  congrArg Host.Outcome.next (serveLater_answers (h.ofOp 13)
    ((opFwActivate_accepts (m := { m with mop := 13 }) harg hbody hlen hsound).trans (if_pos (by rw [hkilns]; rfl))))

theorem fwActivate_defers {s : State} {m : MgmtReq} (h : s.unfocus.MgmtOk m false) (harg : m.arg = 0) (hbody : m.body = [])
    (hlen : 1352 < s.unfocus.stagedLen) (hsound : s.unfocus.FwSound) (hkilns : s.unfocus.kilns ≠ []) :
    exec (.fwActivate m) s = .next (s.unfocus.fwGated { m with mop := 13 }) :=
  congrArg Host.Outcome.next (serveLater_defers (h.ofOp 13)
    ((opFwActivate_accepts (m := { m with mop := 13 }) harg hbody hlen hsound).trans (if_neg (by simpa using hkilns))))

theorem fwActivate_rejects {s : State} {m : MgmtReq} (h : s.unfocus.MgmtOk m false) (harg : m.arg = 0) (hbody : m.body = [])
    (hbad : ¬ s.unfocus.FwSound) : exec (.fwActivate m) s = .next (s.unfocus.respond { m with mop := 13 } stSigFail) :=
  congrArg Host.Outcome.next (serveLater_answers (h.ofOp 13) (opFwActivate_rejects harg hbody hbad))

/-- R44: a PORT_SET without a record reads the one in force. -/
theorem portSet_reads {s : State} {m : MgmtReq} (h : s.unfocus.MgmtOk m false) (hport : m.arg.toNat < 2) (hbody : m.body = []) :
    exec (.portSet m) s = .next (s.unfocus.respond { m with mop := 16 } ⟨0, 0, s.unfocus.portRec m.arg.toNat⟩) := by
  have hnone : newPortRec { m with mop := 16 } = none := newPortRec_empty hbody
  refine congrArg Host.Outcome.next ((servePortSet_answers (h.ofOp 16) hport (.inl hbody)).trans ?_)
  simp only [State.putPortRec, hnone]

/-- R44: an acceptable record is in force once the response has left. -/
theorem portSet_writes {s : State} {m : MgmtReq} (h : s.unfocus.MgmtOk m false) (hport : m.arg.toNat < 2) {r : List Byte}
    (hrec : newPortRec m = some r) : let t := s.unfocus.respond { m with mop := 16 } ⟨0, 0, s.unfocus.portRec m.arg.toNat⟩
    exec (.portSet m) s = .next { t with portRecs := tins t.portRecs m.arg.toNat r } := by
  have hsome : newPortRec { m with mop := 16 } = some r := hrec
  refine congrArg Host.Outcome.next ((servePortSet_answers (h.ofOp 16) hport (.inr (by rw [hsome]; rfl))).trans ?_)
  simp only [State.putPortRec, hsome]

/-- Settles O39: an admitted request is answered as its operation says, and one behind an activation waits. -/
theorem managementRequests : Obligations.ManagementRequests := by
  unfold Obligations.ManagementRequests
  intro s m s0 ok n b
  have answered {own : Bool} {k : BitVec 16} {op : State → State × Reply} {u : State} {r : Reply} (h : s0.MgmtOk m own)
      (hop : op s0 = (u, r)) : Host.Outcome.next (s.serveMgmt { m with mop := k } own op) = ok k u r :=
    congrArg Host.Outcome.next (serveMgmt_answers (h.ofOp k) hop)
  refine ⟨fun h => ⟨fun harg hbody => ⟨answered h (opInvRead_reads harg hbody), answered h (opPath0Sync_syncs harg hbody)⟩,
      fun p hp hpart harg hlen hapart hqueues hkeys hdies hactive hdraining =>
        answered h (opPartSet_sets (reqTarget_of_lt hp hpart) harg hlen hapart hqueues hkeys hdies hactive hdraining),
      fun hn hlt hlen hok => ⟨fun hopen hshut => answered h (opPathSet_opens hn hlt hlen hok hopen hshut),
        fun hclosed hbuf => answered h (opPathSet_closes hn hlt hlen hok hclosed hbuf)⟩,
      fun hbody hroom => answered h (opFwStage_stages hbody hroom),
      fun harg hbody hlen => ⟨fwActivate_starts h harg hbody hlen, fwActivate_defers h harg hbody hlen, fwActivate_rejects h harg hbody⟩,
      fun hbody hlo hhi => answered h (opPowerCap_sets hbody hlo hhi),
      fun hport => ⟨portSet_reads h hport, fun r => portSet_writes h hport⟩⟩,
    fun p hp hpart h => ?_, fun hpath hup hidle hact => ?_⟩
  · have htarget := reqTarget_of_lt hp hpart
    exact ⟨fun harg hbody => ⟨answered h (opPartStatus_reads htarget harg hbody),
        fun hactive => answered h (opDrain_drains htarget harg hbody hactive),
        fun hdrained => answered h (opUndrain_undrains htarget harg hbody hdrained)⟩,
      fun hn hlen hfits => answered h (opWindowSet_sets htarget hn hlen hfits),
      fun harg hlen halign hrange hkey =>
        answered h (opHandleExport_exports htarget harg hlen halign hrange hkey),
      fun hbody hlive => answered h (opHandleRevoke_revokes htarget hbody hlive),
      fun hbody hkey => ⟨fun hfree => answered h (opKeyGen_keys htarget hbody hkey hfree),
        answered h (opKeyZero_zeroes htarget hbody hkey), retireKey_zeroes s0 n⟩,
      fun harg hlen => answered h (opAttest_attests htarget harg hlen),
      fun hn hlen h2 h3 h72 honce => answered h (opPeerSet_sets htarget hn hlen h2 h3 h72 honce)⟩
  · intro waits
    have kept (own : Bool) (k : BitVec 16) (op : State → State × Option Reply) (after : State → State) :
        Host.Outcome.next (s.serveThen { m with mop := k } own op after) = waits k :=
      congrArg Host.Outcome.next (serveThen_waits (m := { m with mop := k }) hpath hup hidle hact op after)
    have waited {own : Bool} {k : BitVec 16} {op : State → State × Reply} :
        Host.Outcome.next (s.serveMgmt { m with mop := k } own op) = waits k := by
      rw [State.serveMgmt, State.serveLater, kept]
    exact ⟨waited, waited, waited, waited, waited, waited, waited, waited, waited, waited, waited, waited, kept _ 13 _ _, waited, waited,
      kept _ 16 _ _, waited, waited⟩

end Sys2Proof.Machine
end

section
/-! Twin Star's periodic work: snapshots, clock and power, droop, gating, recovery, failure and reset (R49, R50, R61–R64, R71–R74). -/

namespace Sys2Proof.Machine

/-! ### The focus put back -/

section
variable (s : State)
@[simp] theorem State.unfocus_twin : s.unfocus.twin = s.twin := by unfold State.unfocus; split <;> rfl
@[simp] theorem State.unfocus_wake : s.unfocus.wake = s.wake := by unfold State.unfocus; split <;> rfl
@[simp] theorem State.unfocus_fePowered : s.unfocus.fePowered = s.fePowered := by unfold State.unfocus; split <;> rfl
end

/-! ### The inventory (R64) -/

/-- R64: a snapshot starts with the dies that it asks. -/
theorem inventorySnapshot_starts {s s1 : State} (hidle : s.twin.snap = none) (hask : s.askStatus s.askedDies = some s1) :
    exec .inventorySnapshot s =
      .next ({ s1 with twin := { s1.twin with snap := some ⟨s.gtime, s.askedDies, []⟩ } } : State).settleSnap := by
  refine congrArg Host.Outcome.next ((if_neg (by simp [hidle])).trans ?_)
  simp only [hask]

theorem settleSnap_awaits {s : State} {x : Snap} (hsnap : s.twin.snap = some x) (hawaited : x.awaited ≠ []) : s.settleSnap = s := by
  unfold State.settleSnap
  simp only [hsnap]
  exact if_pos (by simpa using hawaited)

/-- R64: with every answer in, the inactive buffer takes the snapshot and becomes the active one. -/
theorem settleSnap_fills {s : State} {x : Snap} (hsnap : s.twin.snap = some x) (hawaited : x.awaited = []) :
    s.settleSnap = { s with twin := { s.twin with
      gen := s.twin.gen + 1
      snap := none
      worst := s.health
      invBuf := (List.range 2).map (fun k => if k = 1 - s.twin.invActive % 2 then s.inventory x (s.twin.gen + 1) else s.twin.invBuf.getD k [])
      invActive := 1 - s.twin.invActive % 2 } } := by
  unfold State.settleSnap
  simp only [hsnap]
  exact if_neg (by simp [hawaited])

theorem getD_map_range {α : Type} (g : Nat → α) {n k : Nat} (h : k < n) (d : α) : ((List.range n).map g).getD k d = g k := by
  simp [List.getD_eq_getElem?_getD, h]

/-! ### Clock and power (R61, R74) -/

theorem steppedClock_over {power cap : Nat} (h : cap < power) (c : Nat) : steppedClock power cap c = max 1500 (c - 100) := if_pos h

theorem steppedClock_under {power cap : Nat} (h : power ≤ cap) (hunder : power * 100 < cap * 97) (c : Nat) :
    steppedClock power cap c = min 2700 (c + 100) := (if_neg (by omega)).trans (if_pos hunder)

theorem steppedClock_near {power cap : Nat} (h : power ≤ cap) (hnear : cap * 97 ≤ power * 100) (c : Nat) : steppedClock power cap c = c :=
  (if_neg (by omega)).trans (if_neg (by omega))

theorem steppedClock_range (power cap : Nat) {c : Nat} (hlo : 1500 ≤ c) (hhi : c ≤ 2700) :
    1500 ≤ steppedClock power cap c ∧ steppedClock power cap c ≤ 2700 := by
  unfold steppedClock
  split_ifs <;> omega

theorem tget_map_range {α : Type} (g : Nat → α) {n k : Nat} (h : k < n) (d : α) : tget ((List.range n).map (fun i => (i, g i))) k d = g k := by
  rw [tget, tfind_of_mem (v := g k) (List.mem_map.2 ⟨k, List.mem_range.2 h, rfl⟩)]
  · rfl
  · intro e he hk
    obtain ⟨i, -, rfl⟩ := List.mem_map.1 he
    exact congrArg g hk

/-- R74: every die's clock steps by the power that governs it. -/
theorem clockStep_steps (s : State) : ∃ t, exec .clockStep s = .next t ∧
    ∀ d < 8, t.clockOf d = steppedClock (s.powerFor d).1 (s.powerFor d).2 (s.clockOf d) :=
  ⟨_, rfl, fun _ hd => tget_map_range (fun d => steppedClock (s.powerFor d).1 (s.powerFor d).2 (s.clockOf d)) hd 2700⟩

theorem cluster_modCluster (s : State) (k : Nat) (g : Cluster → Cluster) : (s.modCluster k g).cluster k = g (s.cluster k) :=
  (tget_tmod s.clusters k k Cluster.initial g).trans (if_pos rfl)

/-- R74: a sag stretches a cluster's clock, and is counted for its die. -/
theorem droopStretch_stretches {s : State} {die c : Nat} (h : (s.cluster (die * 16 + c)).stretched = false) :
    ∃ t, exec (.droopStretch die c) s = .next t ∧ (t.cluster (die * 16 + c)).stretched = true ∧
      tget t.stretches die 0 = tget s.stretches die 0 + 1 :=
  ⟨_, congrArg Host.Outcome.next (if_neg (by simp [h])),
    congrArg Cluster.stretched (cluster_modCluster s (die * 16 + c) (fun x => { x with stretched := true })),
    (tget_tmod s.stretches die die 0 (· + 1)).trans (if_pos rfl)⟩

theorem exec_supplySagEnd (s : State) (die c : Nat) :
    exec (.supplySagEnd die c) s = .next (s.modCluster (die * 16 + c) (fun x => { x with stretched := false })) := rfl

/-! ### The aperture (R50, R72) -/

theorem openAperture_opens {s : State} (hpower : s.fePowered = true) (hidle : s.twin.recovering = false) (hfree : s.twin.activating = none) :
    s.openAperture = s.wake.foldl (fun u w => u.notify w.1 w.2) { s with gated := false, wake := [] } :=
  if_pos (by rw [hpower, hidle, hfree]; rfl)

theorem openAperture_stays {s : State} (h : s.fePowered = false ∨ s.twin.recovering = true ∨ s.twin.activating ≠ none) :
    s.openAperture = s := by
  refine if_neg fun hopen => ?_
  simp only [Bool.and_eq_true, Bool.not_eq_true', Option.isNone_iff_eq_none] at hopen
  obtain ⟨⟨hpower, hidle⟩, hfree⟩ := hopen
  obtain h | h | h := h
  · exact Bool.false_ne_true (h.symm.trans hpower)
  · exact Bool.false_ne_true (hidle.symm.trans h)
  · exact h hfree

theorem exec_frontEndUngating (s : State) :
    exec .frontEndUngating s = .next ({ s.unfocus with fePowered := true } : State).openAperture := rfl

theorem checkpointRecovery_begins {s : State} (h : s.twin.recovering = false) : exec .checkpointRecovery s =
    .next { s.unfocus with
      twin := { s.unfocus.twin with recovering := true }
      gated := true } :=
  congrArg Host.Outcome.next (if_neg (by simp [h]))

theorem checkpointRecovery_ends {s : State} (h : s.twin.recovering = true) : exec .checkpointRecovery s =
    .next (({ s.unfocus with twin := { s.twin with recovering := false } } : State).openAperture.record (Rec.event 5 0 0x49 0 0)) := by
  refine congrArg Host.Outcome.next ((if_pos (by simp [h])).trans ?_)
  rw [State.unfocus_twin]

/-- Settles O40: clause by clause, the clocks from the table of their steps, the aperture from what keeps it closed. -/
theorem hubHousekeeping : Obligations.HubHousekeeping := by
  unfold Obligations.HubHousekeeping
  intro s
  refine ⟨fun hidle => ⟨fun hnone => ?_, fun s1 hsome hask => ?_⟩, fun x hsnap hawaited => ?_, rfl, fun w => ⟨_, rfl, rfl⟩, ?_,
    fun die c => ⟨droopStretch_stretches, _, exec_supplySagEnd s die c, ?_, rfl⟩, ⟨_, rfl, rfl⟩,
    ⟨_, rfl, rfl, rfl, rfl⟩, fun hidle hfree => ?_, fun hbusy => ?_, fun hidle => ⟨_, checkpointRecovery_begins hidle, rfl, rfl, ?_⟩,
    fun hunder => ⟨fun hclosed => ?_, fun hpower hfree => ?_⟩, rfl, rfl⟩
  · exact inventorySnapshot_starts hidle (by rw [hnone]; rfl)
  · rw [inventorySnapshot_starts hidle hask, settleSnap_awaits rfl hsome]
  · have hother : s.twin.invActive % 2 < 2 := Nat.mod_lt _ (by decide)
    simp only [settleSnap_fills hsnap hawaited]
    refine ⟨trivial, trivial, trivial, ?_, ?_⟩
    · rw [getD_map_range _ (by omega), if_pos rfl]
    · rw [getD_map_range _ (by omega), if_neg (by omega)]
  · obtain ⟨t, hexec, hclock⟩ := clockStep_steps s
    refine ⟨t, hexec, fun d hd => ?_⟩
    simp only [hclock d hd]
    exact ⟨steppedClock_range _ _, fun h => steppedClock_over h _, fun h hunder => steppedClock_under h hunder _,
      fun h hnear => steppedClock_near h hnear _⟩
  · rw [cluster_modCluster]
  · rw [exec_frontEndUngating, openAperture_opens rfl (by simp [hidle]) (by simp [hfree])]
    simp only [State.unfocus_wake]
  · rw [exec_frontEndUngating, openAperture_stays (.inr (by simpa using hbusy))]
  · exact s.unfocus_fePowered
  · rw [checkpointRecovery_ends hunder, openAperture_stays]
    exact hclosed.imp s.unfocus_fePowered.trans .inr
  · rw [checkpointRecovery_ends hunder, openAperture_opens]
    · simp only [State.unfocus_wake]
    · exact s.unfocus_fePowered.trans hpower
    · rfl
    · exact hfree

end Sys2Proof.Machine
end

section
/-! Where teams sit, which the stack ports, the home slices and the cores' own accesses leave alone. -/

namespace Sys2Proof.Machine

/-! ### Seats -/

/-- Where teams sit: the die of each resident team, what is in focus, and the die of the issuing group's team. -/
def seatsOf (teams : Table Team) (focus : Focus) (tm : Team) : List Nat × Focus × Nat := (teams.map (fun p => p.2.die), focus, tm.die)

/-- The seats of a state. -/
abbrev State.seats (s : State) : List Nat × Focus × Nat := seatsOf s.teams s.focus s.tm

/-- A fold of steps that keep the seats keeps them. -/
theorem seats_foldl {α : Type} {f : State → α → State} (hf : ∀ s a, (f s a).seats = s.seats) (l : List α) (s : State) :
    (l.foldl f s).seats = s.seats :=
  foldl_keeps (fun t : State => t.seats = s.seats) f (fun t a ht => (hf t a).trans ht) l s rfl

/-- So does a choice of two steps, each with an answer. -/
theorem seats_ite {α : Type} {s : State} {c : Prop} [Decidable c] {a b : State × α} (ha : a.1.seats = s.seats) (hb : b.1.seats = s.seats) :
    (if c then a else b).1.seats = s.seats := by
  split_ifs
  · exact ha
  · exact hb

/-- Changes to teams that keep each one's die. -/
theorem map_die (teams : Table Team) {f : Nat × Team → Nat × Team} (hf : ∀ p, (f p).2.die = p.2.die) :
    (teams.map f).map (fun p => p.2.die) = teams.map (fun p => p.2.die) := by
  rw [List.map_map]
  exact List.map_congr_left fun p _ => hf p

@[simp] theorem seats_modGroup (s : State) (r : GroupRef) (f : Group → Group) : (s.modGroup r f).seats = s.seats := by
  unfold State.modGroup
  split_ifs
  iterate 4 rfl
  exact congrArg (·, s.focus, s.tm.die) (map_die _ fun p => by split_ifs <;> rfl)

theorem seats_modTeam (s : State) (key : Nat) {f : Team → Team} (hf : ∀ t, (f t).die = t.die) : (s.modTeam key f).seats = s.seats := by
  unfold State.modTeam
  split_ifs
  · exact congrArg (s.teams.map (fun p => p.2.die), s.focus, ·) (hf _)
  · exact congrArg (·, s.focus, s.tm.die) (map_die _ fun p => by split_ifs; exacts [hf _, rfl])

@[simp] theorem seats_performed (s : State) (rs : List GroupRef) : (performed s rs).seats = s.seats :=
  seats_foldl (fun t r => seats_modGroup t r _) rs s

@[simp] theorem seats_send (s : State) (p : Packet) : (s.send p).seats = s.seats := rfl
@[simp] theorem seats_record (s : State) (r : Rec) : (s.record r).seats = s.seats := rfl

/-! ### The stack ports -/

@[simp] theorem seats_setRaw (s : State) (line i : Nat) (w : Word) : (s.setRaw line i w).seats = s.seats := by
  simp [State.seats]

@[simp] theorem seats_storeLine (s : State) (key line : Nat) (ws : List Word) : (s.storeLine key line ws).seats = s.seats :=
  seats_foldl (f := fun s i => s.setRaw line i (ingress (ws.getD i Word.zero))) (fun t i => seats_setRaw t line i _) (List.range 32) s

@[simp] theorem seats_baseWrite (s : State) (key line : Nat) (mask : BitVec 32) (ws : List Word) :
    (s.baseWrite key line mask ws).st.seats = s.seats := by
  unfold State.baseWrite
  split_ifs <;> simp

@[simp] theorem seats_bookDecode (s : State) (line status nsym : Nat) : (s.bookDecode line status nsym).seats = s.seats := by
  unfold State.bookDecode
  split_ifs <;> rfl

@[simp] theorem seats_stackServe (s : State) (x : StackReq) : (s.stackServe x).1.seats = s.seats := by
  unfold State.stackServe
  simp only []
  split_ifs
  iterate 2 rfl
  · exact seats_bookDecode s _ _ _
  all_goals exact (seats_bookDecode _ _ _ _).trans (seats_baseWrite s _ _ _ _)

@[simp] theorem seats_portArrival (s : State) (x : StackReq) : (s.portArrival x).seats = s.seats := by
  unfold State.portArrival
  simp only []
  split_ifs
  · rfl
  · simp [State.seats]

@[simp] theorem seats_arriveSome (s : State) (p : Instr → Bool) : (s.arriveSome p).seats = s.seats := by
  refine seats_foldl (fun t i => ?_) (s.stackQ.filter p) { s with stackQ := s.stackQ.filter (fun i => !p i) }
  split <;> simp

@[simp] theorem seats_settle (s : State) (line : Nat) : (s.settle line).seats = s.seats := seats_arriveSome s _

@[simp] theorem seats_freeTagOf (s : State) (x : StackReply) : (s.freeTagOf x).seats = s.seats := by
  unfold State.freeTagOf
  exact seats_foldl (f := fun s (e : Nat × Packet) => s.send e.2) (fun t e => seats_send t e.2) _ _

@[simp] theorem seats_awaitTag (s : State) (chan : Nat) : (s.awaitTag chan).seats = s.seats := by
  unfold State.awaitTag
  split_ifs
  · rfl
  · simp only []
    split
    · simp
    · split <;> simp [State.seats]

@[simp] theorem seats_portNow (s : State) (tag op : Nat) (mask : BitVec 32) (block : List Word) :
    (s.portNow tag op mask block).1.seats = s.seats := by
  simp [State.portNow]

theorem seats_portAskAt (s : State) (tag op : Nat) (mask : BitVec 32) (block : List Word) {x : State × Nat}
    (h : s.portAskAt tag op mask block = some x) : x.1.seats = s.seats := by
  obtain ⟨t, -, rfl⟩ := Option.map_eq_some_iff.1 h
  rfl

@[simp] theorem seats_portRead (s : State) (tag : Nat) : (s.portRead tag).1.seats = s.seats := by
  obtain ⟨r, hr, e⟩ := portRead_eq s tag
  have h := seats_portNow s tag 1 0 []
  rw [← hr] at h
  rw [e]
  exact h

@[simp] theorem seats_portWrite (s : State) (tag : Nat) (mask : BitVec 32) (ws : List Word) : (s.portWrite tag mask ws).seats = s.seats := by
  unfold State.portWrite
  split_ifs
  · rfl
  · exact seats_portNow s _ _ _ _

/-! ### The home slice -/

@[simp] theorem seats_l2Drop (s : State) (tag : Nat) : (s.l2Drop tag).seats = s.seats := by
  unfold State.l2Drop
  split
  · rfl
  · simp only []
    split_ifs
    · exact seats_portWrite _ _ _ _
    · rfl

@[simp] theorem seats_l2Room (s : State) (tag : Nat) : (s.l2Room tag).seats = s.seats := by
  unfold State.l2Room
  simp only []
  split_ifs
  · rfl
  · split
    · exact seats_l2Drop _ _
    · rfl

@[simp] theorem seats_l2Put (s : State) (tag : Nat) (ws : List Word) (dirty : Bool) : (s.l2Put tag ws dirty).seats = s.seats :=
  seats_l2Room s tag

@[simp] theorem seats_takeReply (s : State) (x : StackReply) : (s.takeReply x).seats = s.seats := by
  unfold State.takeReply
  simp only []
  split
  · simp
  · split_ifs <;> simp

@[simp] theorem seats_finishFill (s : State) (tag : Nat) : (s.finishFill tag).seats = s.seats := by
  unfold State.finishFill
  simp only []
  split
  · exact (seats_takeReply _ _).trans (seats_settle s _)
  · exact seats_settle s _

@[simp] theorem seats_fetchLine (s : State) (tag : Nat) : (s.fetchLine tag).seats = s.seats := by
  unfold State.fetchLine
  simp only []
  split_ifs <;> simp

@[simp] theorem seats_homePut (s : State) (tag : Nat) (mask : BitVec 32) (ws : List Word) : (s.homePut tag mask ws).seats = s.seats := by
  unfold State.homePut
  split_ifs
  · rfl
  · simp only []
    split
    · exact seats_finishFill s tag
    · simp

@[simp] theorem seats_staleFills (s : State) (core tag : Nat) : (s.staleFills core tag).seats = s.seats := rfl
@[simp] theorem seats_strike (s : State) (core tag : Nat) (m : BitVec 32) : (s.strike core tag m).seats = s.seats := rfl
@[simp] theorem seats_modOwn (s : State) (tag : Nat) (f : OwnLine → OwnLine) : (s.modOwn tag f).seats = s.seats := rfl
@[simp] theorem seats_dropTxn (s : State) (t : Txn) : (s.dropTxn t).seats = s.seats := rfl
@[simp] theorem seats_voidTxn (s : State) (t : Txn) : (s.voidTxn t).seats = s.seats := rfl

@[simp] theorem seats_partTxn (s : State) (t : Txn) (got : BitVec 32) : (s.partTxn t got).seats = s.seats := by
  unfold State.partTxn
  simp only []
  split_ifs <;> rfl

@[simp] theorem seats_performNow (s : State) (tag core : Nat) : (s.performNow tag core).seats = s.seats := by
  unfold State.performNow
  refine seats_foldl (fun t i => ?_) _ s
  split
  · split_ifs
    · exact seats_performed _ _
    · rfl
  · rfl

@[simp] theorem seats_takeBack (s : State) (tag idx core : Nat) : (s.takeBack tag idx core).seats = s.seats := by
  have h0 : State.seats (match tfind s.l1 (l1Key core tag idx) with
    | some ⟨.pending _ _ _, _⟩ => s.performNow tag core | _ => s) = s.seats := by
    split <;> simp
  unfold State.takeBack
  simp only []
  split
  · split_ifs
    · exact (seats_homePut _ _ _ _).trans h0
    · exact h0
  · exact h0

@[simp] theorem seats_released (s : State) (tag : Nat) (m : BitVec 32) : (s.released tag m).seats = s.seats := by
  unfold State.released
  exact seats_foldl (fun t x => seats_partTxn t x m) _ _

@[simp] theorem seats_landBacks (s : State) (tag : Nat) : (s.landBacks tag).seats = s.seats := by
  refine seats_foldl (fun t x => ?_) _ s
  unfold State.landBack
  simp only []
  split_ifs <;> simp

@[simp] theorem seats_revokeNow (s : State) (tag : Nat) (mask : BitVec 32) : (s.revokeNow tag mask).seats = s.seats := by
  unfold State.revokeNow
  simp only []
  split
  · simp
  · rw [seats_released, seats_foldl fun t (p : Nat × Nat) => seats_takeBack t tag p.1 p.2, seats_landBacks]

@[simp] theorem seats_addWords (s : State) (tag kind : Nat) (mine : List (Nat × Word)) : (s.addWords tag kind mine).seats = s.seats := by
  unfold State.addWords
  simp only []
  split_ifs <;> simp

@[simp] theorem seats_dropPartials (s : State) (tag core : Nat) : (s.dropPartials tag core).seats = s.seats := rfl

@[simp] theorem seats_addPartials (s : State) (tag core kind : Nat) : (s.addPartials tag core kind).seats = s.seats :=
  seats_addWords (s.dropPartials tag core) tag kind _

@[simp] theorem seats_voidPartials (s : State) (tag : Nat) : (s.voidPartials tag).seats = s.seats := by
  rw [State.voidPartials, seats_modOwn, seats_foldl fun t e => seats_voidTxn t _]

@[simp] theorem seats_combine (s : State) (tag : Nat) : (s.combine tag).seats = s.seats := by
  unfold State.combine
  simp only []
  split_ifs
  · rfl
  · refine (seats_foldl (fun t c => ?_) _ _).trans (seats_voidPartials s tag)
    rw [seats_addPartials]
    rw [seats_foldl fun t e => seats_addWords t _ _ _]

@[simp] theorem seats_prepare (s : State) (tag : Nat) : (s.prepare tag).seats = s.seats := by simp [State.prepare]
@[simp] theorem seats_preparePass (s : State) (tag : Nat) : (s.preparePass tag).seats = s.seats := by simp [State.preparePass]

@[simp] theorem seats_readThrough (s : State) (tag : Nat) : (s.readThrough tag).seats = s.seats := by
  unfold State.readThrough
  split_ifs <;> simp

@[simp] theorem seats_homeWrite (s : State) (tag : Nat) (mask : BitVec 32) (ws : List Word) : (s.homeWrite tag mask ws).seats = s.seats := by
  simp [State.homeWrite]

@[simp] theorem seats_readPa (s : State) (key pa : Nat) : (s.readPa key pa).1.seats = s.seats :=
  (seats_readThrough _ _).trans (seats_prepare s _)

@[simp] theorem seats_readPaAs (s : State) (stream : Bool) (key pa : Nat) : (s.readPaAs stream key pa).1.seats = s.seats := by
  unfold State.readPaAs
  exact pick_keeps (fun t => t.seats = s.seats) _ _ _ (seats_readPa s key pa)
    (pair_keeps (fun t => t.seats = s.seats) _ _ ((seats_portRead _ _).trans (seats_preparePass s _)))

@[simp] theorem seats_readWords (s : State) (key pa n : Nat) : (s.readWords key pa n).1.seats = s.seats := by
  induction n generalizing s pa with
  | zero => rfl
  | succ n ih =>
    rw [State.readWords]
    exact (ih _ _).trans (seats_readPa s key pa)

@[simp] theorem seats_writeWords (s : State) (key pa : Nat) (ws : List Word) : (s.writeWords key pa ws).seats = s.seats := by
  induction ws generalizing s pa with
  | nil => rfl
  | cons w r ih => rw [State.writeWords, ih, seats_homeWrite]

@[simp] theorem seats_homeStores (s : State) (tag idx : Nat) (b : Stores) : (s.homeStores tag idx b).seats = s.seats := by
  unfold State.homeStores
  split_ifs <;> simp

@[simp] theorem seats_homePiece (s : State) (stream nt : Bool) (tag : Nat) (ws : List (Nat × Stores)) :
    (s.homePiece stream nt tag ws).seats = s.seats := by
  unfold State.homePiece
  simp only []
  split_ifs <;> simp

@[simp] theorem seats_writeRun (s : State) (stream : Bool) (key pa : Nat) (ws : List (BitVec 4 × Word)) :
    (s.writeRun stream key pa ws).seats = s.seats := by
  unfold State.writeRun
  exact seats_foldl (fun t i => seats_homePiece t _ _ _ _) _ s

/-! ### The core's own accesses -/

@[simp] theorem seats_commitWord (s : State) (core tag idx : Nat) : (s.commitWord core tag idx).seats = s.seats := by
  unfold State.commitWord
  simp only []
  split
  · exact (seats_performed _ _).trans (seats_homeStores _ _ _ _)
  · split
    · exact seats_takeBack s _ _ _
    · exact seats_takeBack s _ _ _
  · rfl
  · rfl

@[simp] theorem seats_commitMerges (s : State) (core tag : Nat) : (s.commitMerges core tag).seats = s.seats := by
  unfold State.commitMerges
  exact seats_foldl (fun t m => (seats_performed _ _).trans (seats_homeStores t _ _ _)) _ _

@[simp] theorem seats_redChecked (s : State) (r : GroupRef) (line : Nat) (ws : List Word) : (s.redChecked r line ws).1.seats = s.seats := by
  unfold State.redChecked
  split_ifs <;> rfl

@[simp] theorem seats_dropOwned (s : State) (tag : Nat) : (s.dropOwned tag).seats = s.seats := by
  unfold State.dropOwned
  simp only [seats_modOwn]
  rw [seats_foldl fun t c => seats_dropPartials t tag c, seats_foldl, seats_voidPartials, seats_foldl seats_voidTxn]
  intro t x
  split
  · exact (seats_strike _ _ _ _).trans (seats_performed _ _)
  · rfl
  · rfl

@[simp] theorem seats_discardNow (s : State) (tag : Nat) : (s.discardNow tag).seats = s.seats := by
  unfold State.discardNow
  simp only []
  split_ifs <;> simp

@[simp] theorem seats_landTxn (s : State) (t : Txn) : (s.landTxn t).seats = s.seats := by
  unfold State.landTxn
  lift_lets
  intro tag m s0 s1 idx f new s2
  have h1 : s1.seats = s.seats := (seats_revokeNow _ _ _).trans (seats_prepare s0 tag)
  have h2 : s2.seats = s.seats := by
    simp only [s2]
    split
    iterate 2 exact (seats_homePut _ _ _ _).trans h1
    · rw [seats_homePut]
      split
      · exact (seats_redChecked _ _ _ _).trans h1
      · exact h1
    · exact seats_discardNow s0 tag
    · exact h1
  split_ifs
  · exact (seats_l2Drop _ _).trans h2
  · exact h2

@[simp] theorem seats_coreReady (s : State) (core : Nat) (x : XOk) : (s.coreReady core x).seats = s.seats := by
  unfold State.coreReady State.landStores
  simp only []
  split_ifs
  · rw [seats_commitMerges, seats_foldl seats_landTxn]
  · rw [seats_commitWord, seats_commitMerges, seats_foldl seats_landTxn]

@[simp] theorem seats_coreWord (s : State) (core : Nat) (x : XOk) : (s.coreWord core x).1.seats = s.seats := by
  unfold State.coreWord
  simp only []
  split
  iterate 2 exact seats_coreReady s core x
  exact (seats_readPaAs _ _ _ _).trans (seats_coreReady s core x)

@[simp] theorem seats_loadsFirst (s : State) (core : Nat) (x : XOk) : (s.loadsFirst core x).seats = s.seats := by
  unfold State.loadsFirst
  simp only []
  split_ifs
  · rfl
  · exact seats_coreWord s core x

@[simp] theorem seats_coreStore (s : State) (core : Nat) (x : XOk) (w : Word) : (s.coreStore core x w).seats = s.seats := by
  have h : ((s.loadsFirst core x).coreReady core x).seats = s.seats := (seats_coreReady _ _ _).trans (seats_loadsFirst s core x)
  unfold State.coreStore
  simp only []
  split
  iterate 2 exact h
  exact (seats_writeRun _ _ _ _ _).trans h

@[simp] theorem seats_coreStores (s : State) (core : Nat) (xs : List XOk) (ws : List Word) : (s.coreStores core xs ws).seats = s.seats := by
  induction xs generalizing s ws with
  | nil => rfl
  | cons x r ih =>
    cases ws with
    | nil => rfl
    | cons w ws => rw [State.coreStores, ih, seats_coreStore]

end Sys2Proof.Machine
end

section
/-! Translation (R175–R180), traps and a lane's atomic result (R315) keep the seats. -/

namespace Sys2Proof.Machine

/-! ### Translation -/

@[simp] theorem seats_readCtx (s : State) (p : Nat) (asid : Addr) : (s.readCtx p asid).1.seats = s.seats := by
  unfold State.readCtx
  simp only []
  split_ifs
  · rfl
  · exact seats_readWords s _ _ _

@[simp] theorem seats_context (s : State) (p : Nat) (asid : Addr) : (s.context p asid).1.seats = s.seats := by
  unfold State.context
  split
  · rfl
  · exact seats_readCtx s p asid

@[simp] theorem seats_readPte (s : State) (p : Nat) (core : Option Nat) (key pa : Nat) : (s.readPte p core key pa).1.seats = s.seats := by
  have h := seats_readWords s key pa 2
  unfold State.readPte
  generalize s.readWords key pa 2 = x at h ⊢
  simp only []
  split_ifs <;> exact h

/-- A recursion on a number whose body keeps a property has it. Stated on the recursor: Lean derives no equations for `State.walkFrom`. -/
theorem brecOn_keeps {β : Type} {P : β → Prop} {F : (n : Nat) → Nat.below (motive := fun _ => β) n → β} (zero : ∀ b, P (F 0 b))
    (succ : ∀ n b, P b.1 → P (F (n + 1) b)) (n : Nat) : P (Nat.brecOn n F) := by
  induction n with
  | zero => exact zero _
  | succ n ih => exact succ n (Nat.brecOn.go n F) ih

theorem seats_walkFrom {xl : State → Nat → State × Except XFault (Nat × Nat)} (hxl : ∀ s a, (xl s a).1.seats = s.seats)
    (s : State) (p : Nat) (core : Option Nat) (stage2 sys : Bool) (a n table : Nat) :
    (s.walkFrom p core stage2 sys a xl n table).1.seats = s.seats := by
  delta State.walkFrom
  refine brecOn_keeps (P := fun w : State → Nat → State × Except XFault Leaf => ∀ s table, (w s table).1.seats = s.seats)
    (fun _ _ _ => rfl) (fun n rest ih s table => ?_) n s table
  have h1 := hxl s (table + 8 * (a / 2 ^ (13 + 10 * n) % 1024))
  delta State.walkFrom._f
  simp only []
  generalize xl s _ = x at h1 ⊢
  obtain ⟨s1, _ | ⟨pa, key⟩⟩ := x
  · exact h1
  · have h2 : (s1.readPte p core key pa).1.seats = s.seats := (seats_readPte s1 p core key pa).trans h1
    simp only []
    generalize s1.readPte p core key pa = y at h2 ⊢
    obtain ⟨s2, _ | e⟩ := y
    · exact h2
    · simp only []
      split_ifs
      iterate 2 exact h2
      · exact (ih _ _).trans h2
      iterate 2 exact h2

@[simp] theorem seats_walk2 (s : State) (p : Nat) (core : Option Nat) (c : Ctx) (ga : Nat) : (s.walk2 p core c ga).1.seats = s.seats := by
  unfold State.walk2
  exact seats_walkFrom (fun _ _ => rfl) s p core true true ga _ _

@[simp] theorem seats_orPte (s : State) (leaf : Option (Nat × Nat × Bool)) (bits : Nat) : (s.orPte leaf bits).seats = s.seats := by
  unfold State.orPte
  split
  · rfl
  · simp only []
    split_ifs <;> simp

@[simp] theorem seats_guestXl (p : Nat) (core : Option Nat) (c : Ctx) (s : State) (ga : Nat) : (guestXl p core c s ga).1.seats = s.seats := by
  have h := seats_walk2 s p core c ga
  unfold guestXl
  generalize s.walk2 p core c ga = x at h ⊢
  obtain ⟨s1, _ | l⟩ := x
  · exact h
  · simp only []
    split_ifs
    · exact h
    · simp only [seats_orPte, h]

@[simp] theorem seats_walk (s : State) (p : Nat) (core : Option Nat) (asid : Addr) (c : Ctx) (va : Nat) :
    (s.walk p core asid c va).1.seats = s.seats := by
  have hxl (t : State) (a : Nat) : ((if c.s2 != 0 then guestXl p core c else plainXl (s.kBase p)) t a).1.seats = t.seats := by
    split_ifs
    · exact seats_guestXl p core c t a
    · rfl
  unfold State.walk
  have h1 := seats_walkFrom hxl s p core false (!c.s2 != 0) va 4 c.s1.toNat
  simp only []
  generalize s.walkFrom p core false _ va _ 4 c.s1.toNat = x at h1 ⊢
  obtain ⟨s1, _ | l1⟩ := x
  · exact h1
  · have h2 : (s1.walk2 p core c (l1.map va)).1.seats = s.seats := (seats_walk2 _ _ _ _ _).trans h1
    simp only []
    generalize s1.walk2 p core c (l1.map va) = y at h2 ⊢
    obtain ⟨s2, _ | l2⟩ := y
    · split_ifs
      · exact h2
      iterate 2 exact h1
    · simp only []
      split_ifs
      iterate 2 exact h2
      iterate 2 exact h1

@[simp] theorem seats_touch (s : State) (e : TlbEntry) (k : Kind) : (s.touch e k).seats = s.seats := by simp [State.touch]

@[simp] theorem seats_translate (s : State) (core : Option Nat) (p : Nat) (asid : Addr) (va : Nat) (k : Kind) (mode : Nat) :
    (s.translate core p asid va k mode).1.seats = s.seats := by
  have h0 := seats_context s p asid
  unfold State.translate
  refine seats_ite rfl ?_
  generalize s.context p asid = x at h0 ⊢
  obtain ⟨s0, c⟩ := x
  refine seats_ite h0 ?_
  lift_lets
  intro l1 ll r
  have h1 : r.1.seats = s.seats := by
    simp only [r]
    split
    · exact h0
    · exact (seats_walk _ _ _ _ _ _).trans h0
  clear_value r
  obtain ⟨s1, _ | e⟩ := r
  · exact h1
  · generalize permFail e k mode = x
    obtain ⟨bad, st2⟩ := x
    refine seats_ite h1 ?_
    have touched (hit : Prop) [Decidable hit] (u : State) (hu : u.seats = s.seats) : (if hit then u else u.touch e k).seats = s.seats := by
      split_ifs
      · exact hu
      · exact (seats_touch u e k).trans hu
    cases core <;> exact touched _ _ h1

@[simp] theorem seats_areaXl (s : State) (va : Nat) (k : Kind) : (s.areaXl va k).1.seats = s.seats := by
  have h := seats_translate s (some s.core) s.tm.part s.tm.asid va k 1
  unfold State.areaXl
  generalize s.translate (some s.core) s.tm.part s.tm.asid va k 1 = x at h ⊢
  obtain ⟨s1, _ | x⟩ := x <;> exact h

@[simp] theorem seats_areaXls (s : State) (va : Nat) (k : Kind) (n : Nat) : (s.areaXls va k n).1.seats = s.seats := by
  induction n generalizing s va with
  | zero => rfl
  | succ n ih =>
    have h := seats_areaXl s va k
    rw [State.areaXls]
    generalize s.areaXl va k = x at h ⊢
    obtain ⟨s1, _ | x⟩ := x
    · exact h
    · have h2 := (ih s1 (va + 4)).trans h
      simp only []
      generalize s1.areaXls (va + 4) k n = y at h2 ⊢
      obtain ⟨s2, _ | xs⟩ := y <;> exact h2

@[simp] theorem seats_frameXls (s : State) (f : Nat) (k : Kind) : (s.frameXls f k).1.seats = s.seats := by
  have h := seats_areaXls s f k 64
  unfold State.frameXls
  generalize s.areaXls f k 64 = x at h ⊢
  obtain ⟨s1, _ | xs⟩ := x <;> exact h

/-! ### Traps -/

@[simp] theorem seats_gradeGrid (s : State) (g grade : Nat) : (s.gradeGrid g grade).seats = s.seats := rfl
@[simp] theorem seats_modCmd (s : State) (q i : Nat) (f : Cmd → Cmd) : (s.modCmd q i f).seats = s.seats := rfl

/-- R164: an aborted tree's teams stay where they sit until their next issue slot. -/
@[simp] theorem seats_abortTree (s : State) (g cause : Nat) : (s.abortTree g cause).seats = s.seats := by
  unfold State.abortTree
  simp only []
  rw [seats_foldl fun t p => seats_record t _]
  refine Prod.ext (map_die _ fun p => ?_) (Prod.ext rfl ?_)
  · split_ifs <;> rfl
  · show Team.die _ = _
    split_ifs <;> rfl

@[simp] theorem seats_halt (s : State) (grade : Nat) : (s.halt grade).seats = s.seats := by
  unfold State.halt
  simp only [seats_abortTree, seats_gradeGrid, seats_record]

@[simp] theorem seats_kilnStop (s : State) (code : Nat) (signal : Bool) : (s.kilnStop code signal).seats = s.seats := by
  unfold State.kilnStop
  split
  · split <;> rfl
  · rfl

@[simp] theorem seats_enterTrap (s : State) (t : Trap) (ret : Addr) (cw : BitVec 32) : (s.enterTrap t ret cw).seats = s.seats := rfl

@[simp] theorem seats_raise (s : State) (t : Trap) : (s.raise t).seats = s.seats := by
  unfold State.raise
  lift_lets
  intro g ret cw s0 s1 base
  have h1 : s1.seats = s.seats := rfl
  clear_value s1
  split_ifs
  · simp only [seats_kilnStop, seats_record]
  · simp only [seats_halt, seats_record, h1]
  · simp only [seats_abortTree, seats_record, h1]
  · simp only [seats_halt, seats_record, h1]
  · have h2 := (seats_frameXls s1 g.spill.toNat .store).trans h1
    generalize s1.frameXls g.spill.toNat .store = x at h2 ⊢
    obtain ⟨s2, _ | xs⟩ := x
    · simp only [seats_halt, seats_record, h2]
    · simp only [seats_enterTrap, seats_record, seats_coreStores, h2]

/-! ### A lane's atomic result -/

@[simp] theorem seats_takeDue (s : State) : s.takeDue.seats = s.seats := by
  unfold State.takeDue
  split
  · split_ifs
    · exact seats_raise _ _
    · rfl
  · rfl

@[simp] theorem seats_advance (s : State) : s.advance.seats = s.seats := by
  unfold State.advance State.finish
  simp only []
  split_ifs
  · exact seats_raise _ _
  · rfl

@[simp] theorem seats_trapOr (s : State) (t : Option Trap) : (s.trapOr t).seats = s.seats := by
  unfold State.trapOr
  split <;> simp

@[simp] theorem seats_acquire (s : State) (scope : Nat) : (s.acquire scope).seats = s.seats := by
  unfold State.acquire State.invalidate
  split_ifs <;> rfl

@[simp] theorem seats_atomAcquire (s : State) (word : BitVec 32) (win : Bool) : (s.atomAcquire word win).seats = s.seats := by
  unfold State.atomAcquire State.acquireWide
  split_ifs <;> simp

@[simp] theorem seats_setVAt (s : State) (wb : BitVec 16) (n l : Nat) (w : Word) : (s.setVAt wb n l w).seats = s.seats := by
  unfold State.setVAt
  split_ifs <;> rfl

@[simp] theorem seats_putResult (s : State) (e : Pend) (lane : Nat) (ws : List Word) : (s.putResult e lane ws).seats = s.seats := by
  unfold State.putResult
  split
  · exact seats_foldl (fun t w => seats_setVAt t _ _ _ _) _ s
  · next d cnt _ => exact seats_foldl (f := fun s (w : Word × Nat) => s.setS (d + w.2) w.1) (fun _ _ => rfl) _ s
  · rfl
  · rfl

@[simp] theorem seats_atomLaneDone (s : State) (e : Pend) (lane : Nat) : (s.atomLaneDone e lane).seats = s.seats := by
  unfold State.atomLaneDone
  simp only []
  split_ifs
  · exact (seats_trapOr _ _).trans (seats_atomAcquire _ _ _)
  · exact seats_takeDue _
  · rfl

end Sys2Proof.Machine
end

section
/-! A home that serves its waiting requests keeps the seats (R181–R189, R315, R316). -/

namespace Sys2Proof.Machine

/-! ### Serving a line's waiting requests -/

@[simp] theorem seats_answerHome (s : State) (p : Packet) (cls mtype : Nat) (aux : BitVec 32) (flits : List (List Word)) :
    (s.answerHome p cls mtype aux flits).seats = s.seats := rfl

theorem seats_ask {s t : State} {agent : Agent} {node cls : Nat} {mk : Nat → Packet} (h : s.ask agent node cls mk = some t) :
    t.seats = s.seats := by
  obtain ⟨id, -, rfl⟩ := Option.map_eq_some_iff.1 h
  rfl

@[simp] theorem seats_revokeStep (s : State) (tag : Nat) (m : BitVec 32) : (s.revokeStep tag m).1.seats = s.seats := by
  unfold State.revokeStep
  refine seats_ite rfl (seats_foldl (fun t e => ?_) _ s)
  simp only []
  split_ifs
  · rfl
  · split
    · rfl
    · next heq => exact (seats_modOwn _ tag _).trans (seats_ask heq)

theorem seats_askPartials {s t : State} {tag c : Nat} (h : s.askPartials tag c = some t) : t.seats = s.seats := by
  obtain ⟨u, hu, rfl⟩ := Option.map_eq_some_iff.1 h
  exact (seats_modOwn u tag _).trans (seats_ask hu)

theorem seats_askHolders {tag : Nat} (l : List Nat) {s t : State} (h : l.foldlM (fun s c => s.askPartials tag c) s = some t) :
    t.seats = s.seats := by
  induction l generalizing s with
  | nil => rw [← Option.some.inj h]
  | cons c r ih =>
    obtain ⟨u, hu, hr⟩ := Option.bind_eq_some_iff.1 h
    exact (ih hr).trans (seats_askPartials hu)

@[simp] theorem seats_combineStep (s : State) (tag : Nat) : (s.combineStep tag).1.seats = s.seats := by
  have h := seats_revokeStep s tag 0xffffffff
  unfold State.combineStep
  refine seats_ite rfl ?_
  generalize s.revokeStep tag 0xffffffff = x at h ⊢
  obtain ⟨s1, free⟩ := x
  refine seats_ite h ?_
  show State.seats (Option.getD _ s1) = s.seats
  cases hask : List.foldlM (fun (s : State) c => s.askPartials tag c) s1 (sortNat (s.ownLine tag).holders) with
  | none => exact h
  | some t => exact (seats_askHolders _ hask).trans h

@[simp] theorem seats_fillStep (s : State) (tag : Nat) : (s.fillStep tag).1.seats = s.seats := by
  unfold State.fillStep
  split_ifs
  iterate 2 rfl
  split
  · next heq =>
    obtain ⟨x, hx, rfl⟩ := Option.map_eq_some_iff.1 heq
    exact seats_portAskAt s _ _ _ _ hx
  · rfl

@[simp] theorem seats_readStep (s : State) (p : Packet) (tag : Nat) : (s.readStep p tag).1.seats = s.seats := by
  have h := seats_fillStep s tag
  unfold State.readStep
  refine seats_ite (seats_ite rfl ?_) ?_
  · exact seats_portRead s tag
  · generalize s.fillStep tag = x at h ⊢
    obtain ⟨s1, _ | _⟩ := x <;> exact h

@[simp] theorem seats_serveRead (s : State) (p : Packet) (tag : Nat) : (s.serveRead p tag).1.seats = s.seats := by
  have h := seats_revokeStep s tag (scattered (s.ownLine tag) (s.wanted p))
  unfold State.serveRead
  generalize s.revokeStep tag _ = x at h ⊢
  obtain ⟨s1, free⟩ := x
  refine seats_ite h ?_
  simp only []
  have h2 : (if unowned (s1.ownLine tag) p.hdr.aux = 0 then (s1, some []) else s1.readStep p tag).1.seats = s.seats :=
    seats_ite h ((seats_readStep s1 p tag).trans h)
  generalize (if unowned (s1.ownLine tag) p.hdr.aux = 0 then (s1, some []) else s1.readStep p tag) = y at h2 ⊢
  obtain ⟨s2, _ | ws⟩ := y
  · exact h2
  · simp only []
    split_ifs
    · rw [seats_foldl]
      · exact h2
      · intro t e
        rfl
    · rw [seats_answerHome, seats_foldl]
      · exact h2
      · intro t e
        rfl

@[simp] theorem seats_putWords (s : State) (stream : Bool) (tag : Nat) (m : BitVec 32) (ws : List Word) :
    (s.putWords stream tag m ws).seats = s.seats := by
  unfold State.putWords
  split_ifs <;> simp

@[simp] theorem seats_passWords (s : State) (p : Packet) (tag : Nat) (ws : List Word) : (s.passWords p tag ws).1.seats = s.seats := by
  unfold State.passWords
  simp only []
  split
  · rfl
  · next heq => exact seats_portAskAt s _ _ _ _ heq

@[simp] theorem seats_serveWrite (s : State) (p : Packet) (tag : Nat) (masked : Bool) : (s.serveWrite p tag masked).1.seats = s.seats := by
  have h := seats_revokeStep s tag p.hdr.aux
  unfold State.serveWrite
  simp only []
  generalize s.revokeStep tag _ = x at h ⊢
  obtain ⟨s1, free⟩ := x
  simp only [] at h ⊢
  split_ifs
  iterate 3 exact h
  · exact (seats_passWords _ _ _ _).trans ((seats_portRead s1 tag).trans h)
  · exact (seats_passWords _ _ _ _).trans h
  · exact h
  · simp only [seats_answerHome, seats_l2Drop, seats_l2Put, h]
  · simp only [seats_answerHome, seats_l2Put, h]
  · have h2 := (seats_readStep s1 p tag).trans h
    generalize s1.readStep p tag = y at h2 ⊢
    obtain ⟨s2, _ | old⟩ := y
    · exact h2
    · simp only [seats_answerHome, seats_putWords, h2]

@[simp] theorem seats_serveAtomic (s : State) (p : Packet) (tag : Nat) : (s.serveAtomic p tag).1.seats = s.seats := by
  have h := seats_revokeStep s tag p.hdr.aux
  unfold State.serveAtomic
  simp only []
  generalize s.revokeStep tag _ = x at h ⊢
  obtain ⟨s1, free⟩ := x
  refine seats_ite h ?_
  have h2 := (seats_readStep s1 p tag).trans h
  simp only []
  generalize s1.readStep p tag = y at h2 ⊢
  obtain ⟨s2, _ | line⟩ := y
  · exact h2
  · simp only []
    refine seats_ite h2 ?_
    split_ifs
    all_goals
      simp only [seats_answerHome, seats_putWords]
      split
      · exact (seats_redChecked s2 _ _ _).trans h2
      · exact h2

@[simp] theorem seats_serveDiscard (s : State) (p : Packet) (tag : Nat) : (s.serveDiscard p tag).1.seats = s.seats := by
  unfold State.serveDiscard
  simp only []
  split_ifs <;> simp

@[simp] theorem seats_serveRetired (s : State) (p : Packet) (tag : Nat) : (s.serveRetired p tag).seats = s.seats := by
  have h := seats_portRead s tag
  unfold State.serveRetired
  generalize s.portRead tag = x at h ⊢
  obtain ⟨s1, ws⟩ := x
  simp only []
  split
  · rfl
  iterate 2 exact h
  · split_ifs <;> exact h
  · rfl
  iterate 2 exact seats_portWrite s tag _ _
  · rfl

@[simp] theorem seats_serveRegister (s : State) (p : Packet) (tag : Nat) : (s.serveRegister p tag).1.seats = s.seats := by
  unfold State.serveRegister
  split
  · rfl
  · next c _ =>
    lift_lets
    intro o m mine
    have h := seats_revokeStep s tag (m &&& ~~~ mine)
    generalize s.revokeStep tag (m &&& ~~~ mine) = x at h ⊢
    obtain ⟨s1, free⟩ := x
    refine seats_ite h (seats_ite ?_ h)
    split
    · exact (seats_revokeStep _ _ _).trans h
    · exact h

@[simp] theorem seats_serve (s : State) (p : Packet) (combined : Bool) : (s.serve p combined).1.seats = s.seats := by
  have h0 := seats_settle s (tagLine (pktTag p))
  unfold State.serve
  simp only []
  generalize s.settle (tagLine (pktTag p)) = s0 at h0 ⊢
  have h1 : (if combined || (p.hdr.cls == 1 && p.hdr.mtype == 4) then (s0, true) else s0.combineStep (pktTag p)).1.seats = s.seats :=
    seats_ite h0 ((seats_combineStep _ _).trans h0)
  generalize (if combined || (p.hdr.cls == 1 && p.hdr.mtype == 4) then (s0, true) else s0.combineStep (pktTag p)) = x at h1 ⊢
  obtain ⟨s1, ready⟩ := x
  refine seats_ite h1 (seats_ite h0
    (seats_ite ((seats_serveRetired s1 p _).trans h1) ?_))
  split
  · show State.seats (ite _ _ _) = _
    split_ifs <;> exact (seats_fillStep s1 _).trans h1
  · exact (seats_serveRead s1 p _).trans h1
  iterate 2 exact (seats_serveWrite s1 p _ _).trans h1
  · exact (seats_serveAtomic s1 p _).trans h1
  · exact (seats_serveDiscard s1 p _).trans h1
  · exact (seats_serveRegister s1 p _).trans h1
  · exact (seats_serveRead s1 p _).trans h1
  iterate 2 exact (seats_serveWrite s1 p _ _).trans h1
  · exact h1

theorem seats_retryHome (s : State) (tag : Nat) (combined : Bool) (n : Nat) : (s.retryHome tag combined n).seats = s.seats := by
  induction n generalizing s combined with
  | zero => rfl
  | succ n ih =>
    rw [State.retryHome]
    split
    · rfl
    · next p _ =>
      have h := seats_serve s p combined
      generalize s.serve p combined = x at h ⊢
      obtain ⟨s1, _ | _⟩ := x
      · exact h
      · exact (ih _ _).trans h

@[simp] theorem seats_retryLine (s : State) (tag : Nat) (combined : Bool) : (s.retryLine tag combined).seats = s.seats :=
  seats_retryHome s tag combined _

@[simp] theorem seats_retryAll (s : State) : s.retryAll.seats = s.seats := by
  unfold State.retryAll
  exact seats_foldl (fun t tag => seats_retryLine t tag false) _ s

@[simp] theorem seats_partialsCome (s : State) (tag : Nat) : (s.partialsCome tag).seats = s.seats := by
  unfold State.partialsCome
  simp only []
  split_ifs
  · rfl
  · rw [seats_retryAll, seats_retryLine, seats_modOwn, seats_foldl, seats_settle]
    intro t c
    rw [seats_foldl fun t e => seats_addWords t _ _ _]

end Sys2Proof.Machine
end

section
/-! A retired core and a fenced die (R70, R71, R92, R114, R171). -/

namespace Sys2Proof.Machine

/-! ### A die without teams -/

/-- No team of a die is resident or in focus. -/
def State.NoneOn (s : State) (d : Nat) : Prop := (∀ p ∈ s.teams, p.2.die ≠ d) ∧ ∀ r, s.focus = .group r → s.tm.die ≠ d

theorem noneOn_of_seats {s t : State} {d : Nat} (hseats : t.seats = s.seats) (h : s.NoneOn d) : t.NoneOn d := by
  obtain ⟨hteams, hfocus⟩ := h
  simp only [State.seats, seatsOf, Prod.mk.injEq] at hseats
  obtain ⟨eteams, efocus, etm⟩ := hseats
  refine ⟨fun p hp => ?_, fun r hr => etm ▸ hfocus r (efocus ▸ hr)⟩
  obtain ⟨q, hq, e⟩ := List.mem_map.1 (eteams ▸ List.mem_map_of_mem (f := fun p : Nat × Team => p.2.die) hp)
  exact e ▸ hteams q hq

section
variable {s : State} {d : Nat}

theorem State.NoneOn.unfocus (h : s.NoneOn d) : s.unfocus.NoneOn d := by
  obtain ⟨hteams, hfocus⟩ := h
  unfold State.unfocus
  split
  · exact ⟨hteams, hfocus⟩
  · next r hr =>
    refine ⟨fun p hp => ?_, fun _ h => nomatch h⟩
    simp only [] at hp
    split_ifs at hp
    · obtain rfl | hp := mem_tins hp
      · exact hfocus r hr
      · exact hteams p hp
    · exact hteams p hp
  · exact ⟨hteams, fun _ h => nomatch h⟩

theorem State.NoneOn.focusKiln {t : State} {k : Nat} (h : s.NoneOn d) (heq : s.focusKiln k = some t) : t.NoneOn d := by
  unfold State.focusKiln at heq
  split at heq
  · cases heq
  · cases heq
    exact ⟨h.1, fun _ h => nomatch h⟩

theorem State.NoneOn.focusOn {t : State} {r : GroupRef} (h : s.NoneOn d) (heq : s.focusOn r = some t) : t.NoneOn d := by
  unfold State.focusOn at heq
  split_ifs at heq
  · exact h.focusKiln heq
  · split at heq
    · cases heq
    · next tm htm =>
      split at heq
      · cases heq
      · cases heq
        exact ⟨h.1, fun _ _ => h.1 _ (mem_of_tfind htm)⟩

theorem State.NoneOn.refocus (h : s.NoneOn d) (f : Focus) : (s.refocus f).NoneOn d := by
  cases f with
  | none => exact h
  | group r =>
    cases heq : s.focusOn r with
    | none => simpa only [State.refocus, heq, Option.getD_none] using h
    | some t => simpa only [State.refocus, heq, Option.getD_some] using h.focusOn heq
  | kiln k =>
    cases heq : s.focusKiln k with
    | none => simpa only [State.refocus, heq, Option.getD_none] using h
    | some t => simpa only [State.refocus, heq, Option.getD_some] using h.focusKiln heq

theorem State.NoneOn.inGroup (h : s.NoneOn d) (r : GroupRef) {f : State → State} (hf : ∀ t, (f t).seats = t.seats) :
    (s.inGroup r f).NoneOn d := by
  unfold State.inGroup
  split_ifs
  · exact noneOn_of_seats (hf s) h
  · split
    · exact h
    · next t heq => exact ((noneOn_of_seats (hf t) (h.unfocus.focusOn heq)).unfocus).refocus _

theorem State.NoneOn.atomDone (h : s.NoneOn d) (r : GroupRef) (id lane : Nat) (ws : List Word) : (s.atomDone r id lane ws).NoneOn d := by
  refine h.inGroup r fun t => ?_
  split
  · rfl
  · simp only [seats_atomLaneDone, seats_putResult]
    split_ifs <;> rfl

/-- R32: a lost request's agent gets poison, and no team takes a seat. -/
theorem State.NoneOn.failTxn (h : s.NoneOn d) (t : Txn) : (s.failTxn t).NoneOn d := by
  unfold State.failTxn
  simp only []
  split
  case h_4 => exact State.NoneOn.atomDone (s := s.dropTxn t) h _ _ _ _
  all_goals refine noneOn_of_seats ?_ h
  · exact seats_modGroup s _ _
  · exact seats_performed _ _
  · rw [seats_dropTxn, seats_foldl]
    intro u i
    split
    · exact seats_performed _ _
    · rfl
  · rfl
  · rfl
  · unfold State.childSignalled
    split_ifs <;> rfl
  · split_ifs <;> simp
  · unfold State.completeTxn
    simp only []
    split
    iterate 2 exact seats_modGroup _ _ _
    rfl

end

theorem seats_loseOwners (s : State) (die : Nat) : (s.loseOwners die).seats = s.seats := by
  refine seats_foldl (fun t e => ?_) s.own s
  simp only [seats_partialsCome, seats_modOwn]
  split_ifs <;> simp

/-- R71: a lost die's teams are gone. -/
theorem noneOn_dropDie {s : State} (h : s.focus = .none) (d : Nat) : (s.dropDie d).NoneOn d := by
  unfold State.dropDie
  lift_lets
  intro copies sq s0 dead s1
  refine noneOn_of_seats (seats_loseOwners _ d) (foldl_keeps (fun t => t.NoneOn d) State.failTxn (fun t x ht => ht.failTxn x) dead s1 ?_)
  have hsq : sq.focus = .none := by
    rw [← h]
    exact foldl_keeps (fun t : State => t.focus = s.focus) _ (fun t c ht => by rw [State.modCmd_focus]; exact ht) copies s rfl
  refine ⟨fun p hp => ?_, fun r hr => ?_⟩
  · simpa using (List.mem_filter.1 hp).2
  · exact absurd (hsq.symm.trans hr) (by simp)

/-! ### Fencing a die (R71, R92, R171) -/

theorem unfocus_focus (s : State) : s.unfocus.focus = .none := by
  unfold State.unfocus
  split
  · assumption
  · rfl
  · rfl

theorem focus_of_seats {s t : State} (h : t.seats = s.seats) : t.focus = s.focus := congrArg (fun x => x.2.1) h

theorem seats_loseWaiters (s : State) (die key : Nat) (t : Team) : (s.loseWaiters die key t).seats = s.seats := by
  refine seats_foldl (fun u p => ?_) t.groups s
  split_ifs
  · rfl
  · exact seats_modTeam u key fun _ => rfl

/-- The aborts of a fenced die's grids, with the records of their waiting groups, leave every team where it sits. -/
theorem seats_abortLost (s : State) (die : Nat) (gs : List Nat) (l : List (Nat × Team)) :
    (gs.foldl (fun v g => v.abortTree g 2) (l.foldl (fun v p => v.loseWaiters die p.1 p.2) s)).seats = s.seats := by
  rw [seats_foldl fun v g => seats_abortTree v g 2, seats_foldl fun v p => seats_loseWaiters v die _ _]

theorem contains_insertNat (x : Nat) (l : List Nat) : (insertNat x l).contains x = true :=
  List.contains_iff_mem.2 (mem_insertNat.2 (.inl rfl))

theorem dieFence_up {s : State} {d : Nat} (h : s.twin.lostDies.contains d = false) :
    let s0 := s.unfocus
    let gs := s0.gridsOnDie d
    let lost := (s0.teams.filter (fun p => gs.contains p.2.grid && p.2.die != d)).foldl (fun v p => v.loseWaiters d p.1 p.2) s0
    let gone := (gs.foldl (fun v g => v.abortTree g 2) lost).dropDie d
    exec (.dieFence d) s = .next (({ gone with twin := { gone.twin with
      lostDies := insertNat d gone.twin.lostDies
      sr := gone.twin.sr ||| 16 } } : State).record { Rec.event 5 0 0x47 2 0 with part := s0.ownerOf d }).settleGrids.retryAll :=
  if_neg (by simpa using h)

/-! ### Retiring a core (R70, R71, R114) -/

/-- R70: a core not reported before is disabled and recorded; its number is due no more. -/
def State.coreRetired (s : State) (d c : Nat) : State :=
  let id := d * 64 + c
  ({ s with
      cores := tmod s.cores id (Core.initial c) (fun x => { x with enabled := false })
      twin := { s.twin with
        retired := insertNat (d * 68 + (s.coreAt id).built) s.twin.retired
        retireDue := s.twin.retireDue.filter (· != id) } } : State).record
    (Rec.event 0 id 0x42 (if s.awaitSpare d < (s.freeSpares d).length then 1 else 2) 0)

/-- The teams of a core that are still to be pre-empted (R114). -/
def State.toSample (s : State) (d c : Nat) : List (Nat × Team) :=
  s.teams.filter (fun p => p.2.die == d && p.2.core == c && !p.2.ended && !p.2.aborted && !p.2.sampled)

/-- R70, R114: the core's teams are sampled where there is room, and a spare takes its number once they have left. -/
def State.emptyCore (s : State) (d c : Nat) : State :=
  (((s.toSample d c).foldl (fun u p => (u.sampleAll (u.wholeTeam p)).getD u) s).settleSpare d c).coreThreshold d

theorem coreRetire_first {s : State} {d c : Nat}
    (h : s.unfocus.twin.retired.contains (d * 68 + (s.unfocus.coreAt (d * 64 + c)).built) = false) :
    exec (.coreRetire d c) s = .next ((s.unfocus.coreRetired d c).emptyCore d c) :=
  congrArg (fun t : State => Host.Outcome.next (t.emptyCore d c)) (if_neg fun hagain => Bool.false_ne_true (h.symm.trans hagain))

theorem coreRetire_again {s : State} {d c : Nat}
    (h : s.unfocus.twin.retired.contains (d * 68 + (s.unfocus.coreAt (d * 64 + c)).built) = true) :
    exec (.coreRetire d c) s = .next (({ s.unfocus with twin := { s.unfocus.twin with
      retireDue := s.unfocus.twin.retireDue.filter (· != d * 64 + c) } } : State).emptyCore d c) :=
  congrArg (fun t : State => Host.Outcome.next (t.emptyCore d c)) (if_pos h)

/-- A core without teams has none to sample. -/
theorem emptyCore_bare {s : State} {d c : Nat} (h : ∀ p ∈ s.teams, ¬ (p.2.die = d ∧ p.2.core = c)) :
    s.emptyCore d c = (s.settleSpare d c).coreThreshold d := by
  have hnone : s.toSample d c = [] := List.filter_eq_nil_iff.2 fun p hp hmine => h p hp (by simp_all)
  rw [State.emptyCore, hnone]
  rfl

/-- Settles O41: the retirement by whether the core was reported before; the fence by the seats that its aborts and losses keep. -/
theorem lostUnits : Obligations.LostUnits := by
  unfold Obligations.LostUnits
  intro s d c s0
  refine ⟨fun hfirst => ⟨fun hbare => ?_, coreRetire_first hfirst⟩, coreRetire_again, fun hup => ?_⟩
  · exact (coreRetire_first hfirst).trans (congrArg Host.Outcome.next (emptyCore_bare hbare))
  · refine ⟨dieFence_up hup, contains_insertNat d _, ?_, ?_⟩
    · simp
    · exact (noneOn_dropDie ((focus_of_seats (seats_abortLost s0 d _ _)).trans (unfocus_focus s)) d).1

end Sys2Proof.Machine
end

section
/-! The checks an instruction meets at issue (R89, R127, R133, R158, R222, R251, R255, R259), and the traps that no group can
take (R89, R153, R155, R163, R164). -/

namespace Sys2Proof.Machine

/-! ### Names and guards at issue -/

/-- R127: a lane register is named within the frame. -/
theorem namesOk_names3 (s : State) (d a b : Nat) :
    s.namesOk (names3 d a b 1) = true ↔ d < s.g.frame ∧ a < s.g.frame ∧ b < s.g.frame := by
  simp [State.namesOk, names3]

section
variable {s : State} {ns : Names} (lanes : BitVec 32) (legal : Bool) (k : State → State)

theorem vGuarded_kiln (hkiln : s.onKiln = true) : s.vGuarded lanes legal ns k = s.kilnStop 0x09 false := if_pos hkiln

theorem vGuarded_illegal (hcore : s.onKiln = false) (hnames : s.namesOk ns = false) :
    s.vGuarded lanes legal ns k = s.illegal lanes := by
  rw [State.vGuarded, if_neg (by simp [hcore]), if_pos (by simp [hnames])]

theorem vGuarded_pending (hcore : s.onKiln = false) (hnames : s.namesOk ns = true) (hpending : s.namesPending ns = true) :
    s.vGuarded lanes true ns k = s.lookahead lanes := by
  rw [State.vGuarded, if_neg (by simp [hcore]), if_neg (by simp [hnames]), if_pos hpending]

end

section
variable {s : State} {ns : Names} (g : BitVec 3) (k : State → State)

theorem sGuarded_illegal (legal : Bool) (hnames : s.namesOk ns = false) : s.sGuarded g legal ns k = s.illegal s.g.exec :=
  if_pos (by simp [hnames])

variable (hnames : s.namesOk ns = true)
include hnames

theorem sGuarded_pending (hpending : s.namesPending ns = true) : s.sGuarded g true ns k = s.lookahead s.g.exec := by
  rw [State.sGuarded, if_neg (by simp [hnames]), if_pos hpending]

variable (hready : s.namesPending ns = false)
include hready

theorem sGuarded_false (hguard : s.q g.toNat = some false) : s.sGuarded g true ns k = s.advance := by
  simp only [State.sGuarded, hnames, hready, hguard, Bool.not_true, Bool.or_self, Bool.false_eq_true, if_false]

theorem sGuarded_faulty (hguard : s.q g.toNat = none) : s.sGuarded g true ns k = s.raise (Trap.plain cResidue 4 s.g.exec s.g.exec) := by
  simp only [State.sGuarded, hnames, hready, hguard, Bool.not_true, Bool.or_self, Bool.false_eq_true, if_false]

end

/-- R133: a deferred trap is taken once no result is pending. -/
theorem takeDue_of_due {s : State} {t : Trap} (h : s.g.due = some t) : s.takeDue = if s.g.pset.isEmpty then
    ({ s with g := { s.g with due := none, wait := .none } } : State).raise t else s := by
  simp only [State.takeDue, h]

/-- The pair that begins at `s`63 ends past the last uniform register (R127). -/
theorem namesOk_pair63 (s : State) (a b : Nat) : s.namesOk (unames3 63 a b 2) = false := by
  simp [State.namesOk, unames3]

/-- R271: the 32-bit `add` of the lanes, from the checks at issue on. -/
theorem exec_vAdd_n32 (s : State) (d a b : BitVec 6) (p : BitVec 3) : exec (.vAdd d a b 0 p) s =
    .next (s.vGuarded (s.act p.toNat).lanes true (names3 d.toNat a.toNat b.toNat 1) (fun u =>
      u.settleLanes (u.laneResults (s.act p.toNat) (u.laneArith (srcs a.toNat 1 1 ++ srcs b.toNat 1 2) (dests d.toNat 1) (addSub32 false))))) :=
  rfl

/-- Settles O51: each check in the order in which issue makes them. -/
theorem issueChecks : Obligations.IssueChecks := by
  unfold Obligations.IssueChecks
  intro s d a b
  refine ⟨fun p => ⟨fun hkiln => ?_, fun hcore hnames => ?_, fun hcore hnames hpending => ?_⟩,
    fun g => ⟨fun hnames hpending => ?_, fun hnames hready hfalse => ?_, fun hnames hready hfaulty => ?_, ?_⟩,
    namesOk_names3 s d.toNat a.toNat b.toNat, fun t => takeDue_of_due⟩
  · exact (exec_vAdd_n32 s d a b p).trans (congrArg Host.Outcome.next (vGuarded_kiln _ _ _ hkiln))
  · exact (exec_vAdd_n32 s d a b p).trans (congrArg Host.Outcome.next (vGuarded_illegal _ _ _ hcore hnames))
  · exact (exec_vAdd_n32 s d a b p).trans (congrArg Host.Outcome.next (vGuarded_pending _ _ hcore hnames hpending))
  · exact congrArg Host.Outcome.next (sGuarded_pending g _ hnames hpending)
  · exact congrArg Host.Outcome.next (sGuarded_false g _ hnames hready hfalse)
  · exact congrArg Host.Outcome.next (sGuarded_faulty g _ hnames hready hfaulty)
  · rintro _ rfl -
    exact congrArg Host.Outcome.next (sGuarded_illegal g _ true (namesOk_pair63 s a.toNat b.toNat))

/-! ### Traps that cannot be delivered -/

/-- R164: an abort leaves the issuing group's own state alone. -/
@[simp] theorem abortTree_g (s : State) (grid cause : Nat) : (s.abortTree grid cause).g = s.g :=
  List.foldlRecOn (motive := fun u : State => u.g = s.g) _ _ rfl fun _ hkept _ _ => hkept

theorem halt_halted (s : State) (grade : Nat) : (s.halt grade).g.halted = true := by
  rw [State.halt, abortTree_g]
  rfl

theorem canIssue_of_halted {s : State} (h : s.g.halted = true) : s.canIssue = false := by simp [State.canIssue, h]

/-- R153, R155: in H mode, with four frames held, or without room for its frame, a trap halts the group after its record. -/
theorem raise_halts {s : State} {t : Trap} (hcore : s.onKiln = false)
    (h : s.mode = 2 ∨ 4 ≤ s.g.priv.kdepth.toNat ∨
      (vecBase s.g.priv (trapToH t) ≠ 0 ∧ (s.g.spill = 0 ∨ linkEnd s.tm s.g.idx < s.g.spill.toNat + 256))) :
    let s1 := ({ s with traps := if t.cause = cResidue then tmod s.traps s.tm.die 0 (· + 1) else s.traps } : State).gradeGrid
      s.tm.grid (causeGrade t.cause)
    s.raise t = (s1.record (trapRec s t (if t.retAt then s.g.pc else s.g.pc + 4) (causeWord t s.mode (isRepeat s.g t)) 0x30)).halt
      (causeGrade t.cause) := by
  refine (if_neg (by simp [hcore])).trans ?_
  by_cases hdeep : s.mode = 2 ∨ s.g.priv.kdepth.toNat ≥ 4
  · exact if_pos hdeep
  · obtain ⟨hbase, hroom⟩ := (or_assoc.2 h).resolve_left hdeep
    exact (if_neg hdeep).trans ((if_neg hbase).trans (if_pos hroom))

/-- Settles O50: by where the trap is raised, and by what a halt leaves of the group. -/
theorem undeliverableTraps : Obligations.UndeliverableTraps := by
  unfold Obligations.UndeliverableTraps
  intro s t ret cw s1
  refine ⟨fun hcore h => ?_, fun hkiln => if_pos hkiln⟩
  have hraise := raise_halts hcore h
  have hhalted : (s.raise t).g.halted = true := hraise ▸ halt_halted _ _
  exact ⟨hraise, hhalted, canIssue_of_halted hhalted⟩

end Sys2Proof.Machine
end

section
/-! Commands of the front end: slots read and mirrored, and what each command that starts does (R80–R87). -/

namespace Sys2Proof.Machine

/-! ### Slots (R80) -/

theorem slotRead_consumes {s s1 : State} {q p : Nat} {ws : List Word} (h : s.SlotGood q p s1 ws) : s.slotRead q = s1.consume p q ws := by
  obtain ⟨hpart, hup, hready, hturn, hread, hgood, hstamp⟩ := h
  have hnow : ((nth ws 0).data - (s.queue q).head).toNat = 0 := by rw [hstamp, BitVec.sub_self]; rfl
  unfold State.slotRead
  simp [hpart, hup, hready, hturn, hread, hgood, hnow]

/-! ### Commands that start (R83, R86) -/

/-- R83, R86: a command whose slot and event address pass goes on to what its operation does. -/
theorem startCmd_starts {s s1 : State} {q op p : Nat} {c : Cmd} (h : s.Starts q op p c s1) (k : State → Nat → Cmd → State) :
    s.startCmd q op k = k s1 p c := by
  obtain ⟨hnext, hpart, hkind, hfields, hevent⟩ := h
  unfold State.startCmd
  simp only [hnext, hpart]
  rw [if_neg (not_not.2 hkind), if_neg (by simp [hfields])]
  by_cases haddr : op = 2 ∨ op = 3 ∨ (op ≠ 1 ∧ slEvEn c.num = true)
  · rw [if_pos haddr] at hevent ⊢
    simp only [hevent]
  · rw [if_neg haddr] at hevent ⊢
    obtain rfl := congrArg Prod.fst hevent
    rfl

section
variable {s s1 : State} {q p : Nat} {c : Cmd}

/-- R84, R87: an EVENT_SIGNAL whose add has been made is complete, and the partition's waits look again. -/
theorem exec_eventSignal_made {s2 : State} (h : s.unfocus.Starts q 2 p c s1)
    (hnone : (s.unfocus.queue q).cmds.find? (fun c => c.started && slOp c.num == 2) = none)
    (hmade : s1.signalEvent p c.asid (slEvVa c.num) (slEvInc c.num) (.event q c.uid) = (s2, .made)) :
    exec (.eventSignal q) s = .next (((s2.dropCmd q c.uid).dropBadOps q 4).rereadWaits p) := by
  refine congrArg Host.Outcome.next ?_
  simp only [hnone, startCmd_starts h, hmade]

theorem cluster_modCmd (s : State) (k q uid : Nat) (f : Cmd → Cmd) : (s.modCmd q uid f).cluster k = s.cluster k := rfl

/-- A job that a command adds to a cluster stands behind those already there. -/
theorem jobs_queued (s : State) (k : Nat) (j : CopyJob) (q uid : Nat) (f : Cmd → Cmd) :
    (((s.modCluster k (fun y => { y with
      jobs := y.jobs ++ [j]
      nextSeq := y.nextSeq + 1 })).modCmd q uid f).cluster k).jobs = (s.cluster k).jobs ++ [j] := by
  rw [cluster_modCmd, cluster_modCluster]

/-- R84, R86: a COPY becomes the last job of channel 15 of cluster q mod 16 of some die. -/
theorem exec_copy_queues (h : s.unfocus.Starts q 4 p c s1) : ∃ u k j, exec (.copy q) s = .next u ∧ k % 16 = q % 16 ∧
    (u.cluster k).jobs = (s1.cluster k).jobs ++ [j] ∧ j.queue = some (q, c.uid) ∧ j.chan = 15 ∧ j.card = (c.slot.drop 2).take 16 ∧
    j.data = BitVec.ofNat 64 (byteField c.num 72 8) ∧ j.part = p ∧ j.started = false := by
  refine ⟨_, _, _, congrArg Host.Outcome.next (startCmd_starts h _), ?_, jobs_queued s1 _ _ q c.uid _, rfl, rfl, rfl, rfl, rfl, rfl⟩
  exact (Nat.mul_add_mod_self_right _ 16 _).trans (Nat.mod_mod q 16)

end

/-- R87: an EVENT_WAIT looks at its counter in memory: it completes when the counter has reached its value, and waits on otherwise. -/
theorem evalWait_looks {s s1 s2 : State} {p q : Nat} {c : Cmd} {x : XOk} {ws : List Word} (hseen : c.seen = none) (hasked : c.asked = false)
    (haddr : s.translate none p c.asid (slEvVa c.num) .load 0 = (s1, .ok x)) (hmem : regionOf x.pa ≠ .window)
    (hread : s1.readAt x 2 = (s2, ws)) (hgood : allGood ws = true) :
    s.evalWait p q c = if byteField c.num 8 8 ≤ ofWords ws then (s2.dropCmd q c.uid).dropBadOps q 4
      else s2.modCmd q c.uid (fun c => { c with asked := false, seen := none }) := by
  unfold State.evalWait
  simp only [hseen, hasked, haddr, hmem, hread, hgood, Bool.false_eq_true, if_false, if_true]

/-- Settles O42: slots by the read that meets the head's stamp, commands by what starts them, a wait by what it reads. -/
theorem queueCommands : Obligations.QueueCommands := by
  unfold Obligations.QueueCommands
  intro s q p s0
  refine ⟨fun s1 ws => ⟨fun h => congrArg Host.Outcome.next (slotRead_consumes h), fun h => congrArg Host.Outcome.next (slotRead_consumes h)⟩,
    fun hdue => congrArg Host.Outcome.next (if_pos hdue),
    fun c s1 => ⟨fun h => congrArg Host.Outcome.next (startCmd_starts h _), fun h => congrArg Host.Outcome.next (startCmd_starts h _),
      fun h => congrArg Host.Outcome.next (startCmd_starts h _), fun s2 => exec_eventSignal_made, exec_copy_queues⟩, ?_⟩
  intro c s1 s2 x ws hfind hpart hseen hasked haddr hmem hread hgood
  refine congrArg Host.Outcome.next (Eq.trans ?_ (evalWait_looks hseen hasked haddr hmem hread hgood))
  simp only [s0] at hfind hpart ⊢
  simp only [hfind, hpart]

end Sys2Proof.Machine
end

section
/-! Grids launched by groups and by commands, and the runs of Kiln engines (R85–R93, R375–R378). -/

namespace Sys2Proof.Machine

open Sys2Proof.Laws

/-! ### Child grids (R375–R377) -/

theorem coreOnly_core {s : State} (hcore : s.onKiln = false) (legal : Bool) : s.coreOnly legal = legal := by
  rw [State.coreOnly, hcore, Bool.not_false, Bool.and_true]

theorem halves_eq (r : BitVec 64) : halves r = [r.setWidth 32, (r >>> 32).setWidth 32] := by
  unfold halves
  congr 1

theorem launchWith_eq {s s1 : State} {ws : List Word} {r : BitVec 64} (h : s.launchChild ws = (s1, r)) (d : Nat) :
    s.launchWith d ws = (s1.setSs d ((halves r).map Word.ofData)).advance := by
  unfold State.launchWith
  simp only [h, halves_eq]
  rfl

section
variable {s s1 : State} {d a : BitVec 6} {g : BitVec 3} {va : Nat} (hcore : s.onKiln = false) (hd : d.toNat ≤ 62) (ha : a.toNat ≤ 62)
  (hfit : s.FitS g ⟨[], [(d.toNat, 2), (a.toNat, 2)]⟩) (haddr : s.uAddr a.toNat 0 = .ok va)
include hcore hd ha hfit haddr

/-- R375: a launch reads its packet from memory once the group's earlier accesses have been performed. -/
theorem exec_sLaunch_memory {s2 s3 : State} {x : Piece} {xs : List Piece} {ws : List Word} {r : BitVec 64}
    (hloc : s.locate va 128 .load true = (s1, .ok (.memory (x :: xs)))) (hready : releaseReady s1.g = true)
    (hread : s1.readAt x.x 32 = (s2, ws)) (hchild : s2.launchChild ws = (s3, r)) :
    exec (.sLaunch d a g) s = .next (s3.setSs d.toNat ((halves r).map Word.ofData)).advance := by
  refine congrArg Host.Outcome.next ((sGuarded_ok s g _ _ _ ((coreOnly_core hcore _).trans (by simp [hd, ha])) hfit).trans ?_)
  simp only [haddr, hloc, hready, hread, launchWith_eq hchild, Bool.not_true, Bool.false_eq_true, if_false]

/-- R53, R375: a launch whose packet has come through a window goes on with those words. -/
theorem exec_sLaunch_window {s3 : State} {pa : Nat} {ws : List Word} {r : BitVec 64}
    (hloc : s.locate va 128 .load true = (s1, .ok (.window pa))) (hready : releaseReady s1.g = true)
    (hcame : s1.cameThrough (va / 4) 32 = some ws)
    (hchild : ({ s1 with g := { s1.g with checked := [] } } : State).launchChild ws = (s3, r)) :
    exec (.sLaunch d a g) s = .next (s3.setSs d.toNat ((halves r).map Word.ofData)).advance := by
  refine congrArg Host.Outcome.next ((sGuarded_ok s g _ _ _ ((coreOnly_core hcore _).trans (by simp [hd, ha])) hfit).trans ?_)
  simp only [haddr, hloc, hready, hcame, launchWith_eq hchild, Bool.not_true, Bool.false_eq_true, if_false]

end

/-- A clean pair that passes its checks is read as its two words. -/
theorem sUse_pair {s : State} {n : Nat} (hreads : s.ReadsS [(n, 2)]) (hclean : s.CleanS [(n, 2)]) (info check : Nat) :
    s.sUse (srcPair n info) check = .ok [s.s n, s.s (n + 1)] := by
  have hrun : ∀ w ∈ [s.s n, s.s (n + 1)], w ∈ s.sRun n 2 := fun w hw => hw
  have hpoison : (srcPair n info).any (fun x => (s.s x.n).isPoison) = false := by
    simp [srcPair, hclean _ List.mem_cons_self _ (hrun _ _)]
  have hwords := sWords_ok s (srcPair n info) (by
    simp [srcPair, hreads _ List.mem_cons_self _ (hrun _ _)])
  simp only [State.sUse, hpoison, hwords, Bool.false_eq_true, if_false]
  rfl

theorem exec_sLwait {s : State} {g : BitVec 3} (hcore : s.onKiln = false) (hfit : s.FitS g ⟨[], []⟩) : exec (.sLwait g) s =
    .next (if (s.children (some s.g.idx)).isEmpty then (s.acquire 4).advance else s.hold (.lwait none)) :=
  congrArg Host.Outcome.next (sGuarded_ok s g _ _ _ (coreOnly_core hcore _) hfit)

theorem exec_sLwaitGrid {s : State} {a : BitVec 6} {g : BitVec 3} (hcore : s.onKiln = false) (hfit : s.FitS g ⟨[], [(a.toNat, 2)]⟩)
    (hreads : s.ReadsS [(a.toNat, 2)]) (hclean : s.CleanS [(a.toNat, 2)]) :
    let n := (s.s64 a.toNat).toNat
    exec (.sLwaitGrid a g) s =
      .next (if (s.children none).contains n then s.hold (.lwait (some n)) else (s.acquire 4).advance) := by
  refine congrArg Host.Outcome.next ((sGuarded_ok s g _ _ _ (coreOnly_core hcore _) hfit).trans ?_)
  simp only [sUse_pair hreads hclean]
  rfl

/-! ### Kiln runs (R88, R89, R378) -/

theorem onKiln_of_focus {s : State} {i : Nat} (h : s.focus = .kiln i) : s.onKiln = true := by rw [State.onKiln, h]

section
variable {s : State} {g : BitVec 3} {i : Nat} {e : Kiln} {c : Cmd} (hfocus : s.focus = .kiln i) (hfit : s.FitS g ⟨[], []⟩)
  (hengine : tfind s.kilns i = some e) (hcmd : (s.queue e.queue).cmds.find? (fun x => x.uid == e.cmd) = some c)
include hfocus hfit hengine hcmd

/-- R378: an instruction of the engine ends its run: the engine is free, and the command goes on as `k` says. -/
theorem kilnOnly_ends (k : State → Kiln → Cmd → State) : s.kilnOnly g k = k { s with kilns := tdel s.kilns i } e c := by
  refine (sGuarded_ok s g _ _ _ (onKiln_of_focus hfocus) hfit).trans ?_
  simp only [hfocus, hengine, hcmd]

/-- R89, R219: an emission goes on once the prologue's stores have been performed. -/
theorem kilnEmit_ready (hready : releaseReady s.g = true) (rerun : Bool) :
    s.kilnEmit g rerun = ({ s with kilns := tdel s.kilns i } : State).emitGrid e c rerun :=
  (if_neg (by simp [hready])).trans (kilnOnly_ends hfocus hfit hengine hcmd _)

theorem exec_sKemit_sKrepeat (hready : releaseReady s.g = true) : let u : State := { s with kilns := tdel s.kilns i }
    exec (.sKemit g) s = .next (u.emitGrid e c false) ∧ exec (.sKrepeat g) s = .next (u.emitGrid e c true) :=
  ⟨congrArg Host.Outcome.next (kilnEmit_ready hfocus hfit hengine hcmd hready false),
    congrArg Host.Outcome.next (kilnEmit_ready hfocus hfit hengine hcmd hready true)⟩

theorem exec_sKcancel_sKdone : let u : State := { s with kilns := tdel s.kilns i }
    exec (.sKcancel g) s = .next (u.modCmd e.queue c.uid (fun c =>
      { c with inKiln := false, started := true, complete := true, rerun := false, code := 0x0b })) ∧
    exec (.sKdone g) s = .next (u.modCmd e.queue c.uid (fun c =>
      { c with inKiln := false, started := true, complete := true, rerun := false })) :=
  ⟨congrArg Host.Outcome.next (kilnOnly_ends hfocus hfit hengine hcmd _),
    congrArg Host.Outcome.next (kilnOnly_ends hfocus hfit hengine hcmd _)⟩

end

/-- R88: the lowest free engine takes the first command that waits for one. -/
theorem exec_kilnRunStart {s : State} {k q p : Nat} {c : Cmd} {r : List (Nat × Cmd)} (hk : k < 16) (hfree : tfind s.unfocus.kilns k = none)
    (hbusy : ∀ j < k, (tfind s.unfocus.kilns j).isSome = true) (hfirst : s.unfocus.kilnWaiters = (q, c) :: r)
    (hpart : s.unfocus.partOfQueue q = some p) :
    let run : Group := { Group.initial with
      pc := BitVec.ofNat 64 (pkPrologue c.num / 4 * 4)
      sregs := kilnRegs q c }
    exec (.kilnRunStart k) s = .next (({ s.unfocus with
      kilns := tins s.unfocus.kilns k { queue := q, cmd := c.uid, part := p, asid := c.asid, g := run } } : State).modCmd q c.uid
        (fun c => { c with waitKiln := false, inKiln := true })) := by
  have hlowest : (List.range k).any (fun j => (tfind s.unfocus.kilns j).isNone) = false := by
    simpa using fun j hj => Option.isSome_iff_ne_none.1 (hbusy j hj)
  refine congrArg Host.Outcome.next ((if_neg (by simp [hlowest, hfree, hk])).trans ?_)
  simp only [hfirst, hpart]

theorem exec_prologueBudgetExceeded {s : State} {k : Nat} {e : Kiln} (hengine : tfind s.unfocus.kilns k = some e) (hspent : 65536 ≤ e.g.count) :
    exec (.prologueBudgetExceeded k) s = .next (({ s.unfocus with kilns := tdel s.unfocus.kilns k } : State).modCmd e.queue e.cmd (fun c =>
      { c with inKiln := false, started := true, complete := true, rerun := false, code := 0x0a })).settleCmds := by
  refine congrArg Host.Outcome.next ?_
  simp only [hengine, Nat.not_lt.2 hspent, if_false]

/-! ### LAUNCH commands (R85, R86, R88, R93) -/

section
variable {s s1 : State} {q p : Nat} {c : Cmd} (hstarts : s.unfocus.Starts q 1 p c s.unfocus)
  (hcode : s.unfocus.launchCode p c.num (slPro c.num) = 0)
  (hevent : (if slEvEn c.num = true then s.unfocus.eventAddrOk p c.asid (slEvVa c.num) .store else (s.unfocus, true)) = (s1, true))
include hstarts hcode hevent

theorem exec_launch_prologue (hpro : slPro c.num = true) :
    exec (.launch q) s = .next (s1.modCmd q c.uid (fun c' => { c' with waitKiln := true, signal := slEvEn c.num })) := by
  rw [hpro] at hcode
  refine congrArg Host.Outcome.next ((startCmd_starts hstarts _).trans ?_)
  simp [hcode, hevent, hpro]

theorem exec_launch_grid {s2 : State} {k : Nat} (hpro : slPro c.num = false)
    (hgrid : s1.tryLaunch p q c.uid c.asid c.slot none 0 false = (s2, .ok k)) :
    exec (.launch q) s = .next (s2.modCmd q c.uid (fun x =>
      { x with started := true, complete := true, grids := x.grids ++ [k], signal := slEvEn c.num })) := by
  rw [hpro] at hcode
  refine congrArg Host.Outcome.next ((startCmd_starts hstarts _).trans ?_)
  simp [hcode, hevent, hpro, hgrid]

end

/-! ### A queue in which two commands have one number -/

/-- The 32 words of a slot of which only the first few are not zero. -/
def slotOf (ws : List (BitVec 32)) : List Word := ws.map Word.ofData ++ List.replicate (32 - ws.length) Word.zero

/-- A LAUNCH with a prologue and no completion event: one team of 32 lanes, class W, 8 registers (R85). -/
def prologueCmd : Cmd := Cmd.fresh 0 0 0 (slotOf [0, 0x201, 0, 0, 0, 0, 1, 0x10001, 0x10020, 0x02010001, 64])

/-- A COPY that has started, with a completion event, of the same number as that launch. -/
def copyBefore : Cmd := { Cmd.fresh 0 0 0 (slotOf [0, 0x104]) with started := true }

/-- Nothing in focus; queue 0 of partition 0 holds these two commands. -/
def sharedUid : State := { State.reset with
  parts := [(0, { Part.initial with entry := homeEntry })]
  queues := [(0, { Queue.initial with cmds := [copyBefore, prologueCmd] })] }

/-- The `signal` bits of the commands of queue 0. -/
def signals (s : State) : List Bool := (s.queue 0).cmds.map (·.signal)

theorem sharedUid_starts : sharedUid.unfocus.Starts 0 1 0 prologueCmd sharedUid.unfocus :=
  ⟨rfl, by decide, by decide, by decide +kernel, rfl⟩

/-- Refutes O28 at `sharedUid`, in its clause of a LAUNCH with a prologue. The clause gives the command that is changed the event bit of
its own slot, the model that of the command that starts (`exec_launch_prologue`); in a queue where an earlier command has the
same number, the earlier one is changed and the two bits differ. Consumption gives each command a new number, but the statement is
about every state. What its other clauses say is the lemmas above: one for each instruction, event and command. -/
theorem not_launchesAndKilnRuns : ¬ Obligations.LaunchesAndKilnRuns := by
  unfold Obligations.LaunchesAndKilnRuns
  intro h
  obtain ⟨-, -, hlaunch, -, -⟩ := h sharedUid 0
  have hcode : sharedUid.unfocus.launchCode 0 prologueCmd.num (slPro prologueCmd.num) = 0 := by decide +kernel
  have hevent : (if slEvEn prologueCmd.num = true then sharedUid.unfocus.eventAddrOk 0 prologueCmd.asid (slEvVa prologueCmd.num) .store
      else (sharedUid.unfocus, true)) = (sharedUid.unfocus, true) := if_neg (by decide)
  have hpro : slPro prologueCmd.num = true := by decide
  have hclaimed := (hlaunch 0 0 prologueCmd _ sharedUid 0 sharedUid_starts hcode hevent).1 hpro
  have hmodel := exec_launch_prologue sharedUid_starts hcode hevent hpro
  have hsignals := congrArg signals (Host.Outcome.next.inj (hmodel.symm.trans hclaimed))
  exact absurd hsignals (by decide)

end Sys2Proof.Machine
end

section
/-! Turns and issue: a step runs the instruction its group's word decodes to (R110, R111, R223, R250). -/

namespace Sys2Proof.Machine

/-! ### From the step to the group that issues -/

section
variable {s s1 : State} {f : Focus} {us : List GroupRef} {r : List Turn}

theorem step_turn {t : Turn} (hturns : s.turns = t :: r) : step s = ({ s with turns := r } : State).turn t := by
  rw [step, hturns]

theorem step_nextIssue (hturns : s.turns = []) (hnext : s.nextIssue = some f) : step s = s.issue f [] := by
  rw [step, hturns]
  simp only [State.auto, hnext]

theorem withoutTurns_eq (hturns : s.turns = []) : ({ s with turns := [] } : State) = s := by
  rw [← hturns]

/-- R111, log 4: the group that issues is the environment's next choice, or without one the first in the order of issue. -/
theorem step_issues (h : s.turns = .issue f us :: r ∨ (s.turns = [] ∧ r = [] ∧ us = [] ∧ s.nextIssue = some f)) :
    step s = ({ s with turns := r } : State).issue f us := by
  rcases h with hturns | ⟨hturns, rfl, rfl, hnext⟩
  · exact step_turn hturns
  · rw [withoutTurns_eq hturns, step_nextIssue hturns hnext]

theorem issue_of_mayIssue (hfocus : s.focusAt f = some s1) (hmay : s.mayIssue f us = true) : s.issue f us = s1.issueHere := by
  simp only [State.issue, hfocus, hmay, if_true]

end

/-! ### From the group to its instruction -/

section
variable {s s1 : State} {w : Word} {i : Instr}

theorem issueHere_fetches (hwait : resumes s.g.wait = false) (hjoin : s.awake.preIssue = none) : s.issueHere = s.awake.fetchExec := by
  simp only [State.issueHere, hwait, hjoin, Bool.false_eq_true, if_false]

/-- R223, R250: a word fetched good is decoded, and its instruction executed. -/
theorem fetchExec_decoded (hfetch : s.fetchAt s.g.pc.toNat = (s1, .ok w)) (hpoison : w.isPoison = false) (hchecks : w.checks = true)
    (hdecode : decode w.data = .ok i) : s.fetchExec = s.issued (exec i (s1.noteIssue w.data)) := by
  simp only [State.fetchExec, hfetch, hpoison, hchecks, hdecode, Bool.not_true, Bool.or_self, Bool.false_eq_true, if_false]

/-- R110: an issue that met no busy resource stands. -/
theorem issued_of_not_busy (u : State) (h : busyWait s.g = false) : u.issued (.next s) = .next s := by
  simp only [State.issued, h, Bool.and_false, Bool.false_eq_true, if_false]

theorem turn_occurs {t : State} (hoccurs : occurs i = true) (hexec : exec i s.unfocus = .next t) : s.turn (.occur i) = .next t.settleAll := by
  simp only [State.turn, hoccurs, hexec, Bool.not_true, Bool.false_eq_true, if_false]

end

/-- Settles O55: from the turn to the group, from the group to the word it fetches, and from the word to `exec`. -/
theorem stepRunsDecoded : Obligations.StepRunsDecoded := by
  unfold Obligations.StepRunsDecoded
  intro s i r t
  refine ⟨?_, issued_of_not_busy, fun hturns hoccurs hexec => (step_turn hturns).trans (turn_occurs hoccurs hexec)⟩
  intro f us s1 s2 w v hturn hfocus hmay hwait hjoin hfetch hpoison hchecks hdecode
  calc step s = v.issue f us := step_issues hturn
    _ = s1.issueHere := issue_of_mayIssue hfocus hmay
    _ = s1.awake.fetchExec := issueHere_fetches hwait hjoin
    _ = s1.awake.issued (exec i (s2.noteIssue w.data)) := fetchExec_decoded hfetch hpoison hchecks hdecode

end Sys2Proof.Machine
end

section
/-! What time brings to a group, and the jobs of a cluster's engines (R112, R113, R193–R198, R329, R358, R370). -/

namespace Sys2Proof.Machine

/-! ### The group in focus -/

section
variable {s : State} {r : GroupRef} (hfocus : s.focus = .group r)
include hfocus

theorem modGroup_focused (hdie : r.die < 8) (f : Group → Group) : s.modGroup r f = { s with g := f s.g } := by
  have hcore : r.die ≠ kilnDie := Nat.ne_of_lt hdie
  rw [State.modGroup, if_neg hcore, if_pos hfocus]

theorem inGroup_focused (f : State → State) : s.inGroup r f = f s := if_pos (.inl hfocus)

/-- R112: the group is raised from this ck on. -/
theorem exec_groupRaised (hdie : r.die < 8) (hstarved : 4096 ≤ s.g.starve) (hnot : s.g.raised = none) :
    exec (.groupRaised r) s = .next { s with g := { s.g with raised := some s.ck } } := by
  refine congrArg Host.Outcome.next ((modGroup_focused hfocus hdie _).trans ?_)
  rw [if_pos ⟨hstarved, hnot⟩]

theorem exec_sleepExpiry (hwait : s.g.wait = .sleep 0) :
    exec (.sleepExpiry r) s = .next ({ s with g := { s.g with wait := .none } } : State).advance :=
  congrArg Host.Outcome.next ((inGroup_focused hfocus _).trans (if_pos hwait))

/-- R370: the word is looked at again by the instruction that waits. -/
theorem exec_waitvReread {rem : Option Nat} {d a b : BitVec 6} {w : BitVec 1} {c g : BitVec 3} (hwait : s.g.wait = .waitv rem)
    (hdecode : decode s.g.waitI = .ok (.sWaitv d a b w c g)) : exec (.waitvReread r) s = exec (.sWaitv d a b w c g) s := by
  refine (congrArg Host.Outcome.next (inGroup_focused hfocus _)).trans ?_
  simp only [hwait, hdecode]
  rfl

end

/-! ### Jobs of a cluster -/

section
variable {s : State} (die c : Nat)

/-- R113, R329: the engine carries out and marks the job it grants. -/
theorem exec_mmaPassGrant {j : MatrixJob} (h : s.unfocus.nextGrant (s.unfocus.cluster (die * 16 + c)) = some j) :
    exec (.mmaPassGrant die c) s = .next ((s.unfocus.runJob j).modCluster (die * 16 + c) (fun x =>
      { x with mjobs := x.mjobs.map (fun y => if y.seq = j.seq then { y with granted := true } else y) })) := by
  simp only [exec, execMmaPassGrant, h]

/-- R329: the job leaves the table, and its token's count falls by one. -/
theorem exec_matrixJobFinish {n : Nat} {j : MatrixJob}
    (h : (s.unfocus.cluster (die * 16 + c)).mjobs.find? (fun j => j.seq == n && j.granted) = some j) :
    exec (.matrixJobFinish die c n) s =
      .next ((s.unfocus.modCluster (die * 16 + c) (fun x => { x with mjobs := x.mjobs.filter (fun y => y.seq != n) })).modGroup
        j.grp (fun g => { g with toks := tmod g.toks j.tok 0 (· - 1) })) := by
  simp only [exec, execMatrixJobFinish, h]

/-- R196: the channel's next job starts. -/
theorem exec_copyJobStart {ch : Nat} {j : CopyJob} (h : (s.unfocus.cluster (die * 16 + c)).jobs.find? (fun j =>
      j.chan == ch && mayStart (s.unfocus.cluster (die * 16 + c)) j && !s.unfocus.jobStopped (s.unfocus.cluster (die * 16 + c)) j) = some j) :
    exec (.copyJobStart die c ch) s = .next (s.unfocus.modCluster (die * 16 + c) (fun x =>
      { x with jobs := x.jobs.map (fun y => if y.seq = j.seq then { y with started := true } else y) })) := by
  simp only [exec, execCopyJobStart, h]

/-- R198: a group's job that ran without fault leaves the table and counts in its batch. -/
theorem exec_copyJobFinish {ch off : Nat} {j : CopyJob} {r : GroupRef} {s1 : State}
    (h : (s.unfocus.cluster (die * 16 + c)).jobs.find? (fun j => j.chan == ch && j.started) = some j)
    (hrun : s.unfocus.runCopy j = (s1, 0, off)) (howner : j.owner = some r) :
    exec (.copyJobFinish die c ch) s = .next ((s1.modCluster (die * 16 + c) (fun x =>
      { x with jobs := x.jobs.filter (fun y => y.seq != j.seq) })).modGroup r (jobDone j.batch 0 ch)) := by
  simp only [exec, execCopyJobFinish, h, hrun, howner, if_true]

end

/-- Settles O44: what time brings to the group in focus, and what each engine does with its job. -/
theorem timersAndEngines : Obligations.TimersAndEngines := by
  unfold Obligations.TimersAndEngines
  intro s
  refine ⟨fun r hfocus hdie => ⟨exec_groupRaised hfocus hdie, exec_sleepExpiry hfocus, fun d a b w c g rem hwait hdecode => ?_⟩,
    fun die c => ⟨fun j => exec_mmaPassGrant die c, fun n j => exec_matrixJobFinish die c, fun ch j => exec_copyJobStart die c,
      fun ch off j r s1 => exec_copyJobFinish die c⟩⟩
  exact ⟨_, exec_waitvReread hfocus hwait hdecode, rfl⟩

end Sys2Proof.Machine
end

section
/-! The die dispatchers: placement, starvation and pins, retirement, pre-emption and child swap-out (R93–R109, R114, R115, R120). -/

namespace Sys2Proof.Machine

/-! ### One placement (R99, R106) -/

section
variable {s u : State} {die core : Nat} {fresh : Bool} {c : Cand}

/-- R102: the machine with the partition word of a candidate's core set, where that core was idle. -/
def State.wordFor (s : State) (die core : Nat) (fresh : Bool) (c : Cand) : State :=
  if fresh then s.setWord (die * 64 + core) (pkPartWord (ofWords c.grid.packet)) else s

theorem enlist_new (hcore : s.findCore die (ofWords c.grid.packet) = some (core, fresh)) (hnew : c.saved = false) :
    s.enlist die c = some ((s.wordFor die core fresh c).placeNew c.grid die core c.t) := by
  simp only [State.enlist, hcore, hnew, Bool.false_eq_true, if_false, State.wordFor]

theorem enlist_saved {x : SavedRec} (hcore : s.findCore die (ofWords c.grid.packet) = some (core, fresh)) (hsaved : c.saved = true)
    (hrec : (s.wordFor die core fresh c).recOf die c.grid.num c.t = some x) : let v := s.wordFor die core fresh c
    s.enlist die c = some ((v.restoreAt x core (v.freeSlot die core)).served c.grid.queue false) := by
  rw [State.wordFor] at hrec
  simp only [State.enlist, hcore, hsaved, if_true, hrec, Option.map_some, State.wordFor]

section
variable {r : List Cand} (hready : s.twin.activating = none) (heligible : (s.unfocus.tellClaims die).eligible die = c :: r)
include hready heligible

theorem place_eligible (saved : Bool) : s.place die saved = (s.unfocus.tellClaims die).dispatch die saved c (c :: r) := by
  simp only [State.place, hready, Option.isSome_none, Bool.false_eq_true, if_false, heligible]

variable {saved : Bool} (hsaved : c.saved = saved)
include hsaved

/-- R99: the first eligible candidate, of class P or W, is the one placed. -/
theorem place_enlists (hclass : c.isC = false) (henlist : (s.unfocus.tellClaims die).enlist die c = some u) :
    s.place die saved = u.notePlaced die c c := by
  rw [place_eligible hready heligible]
  simp only [State.dispatch, hclass, henlist, hsaved, Bool.false_eq_true, if_false, if_true]

/-- R106: a C grid whose claims are met is placed whole. -/
theorem place_claim (hclass : c.isC = true) (hmet : (s.unfocus.tellClaims die).claimsMet c = true) : s.place die saved =
    ((s.unfocus.tellClaims die).claimHeads c.grid).foldl (fun v h => v.notePlaced h.1 h.2 c) ((s.unfocus.tellClaims die).placeClaim c.grid) := by
  rw [place_eligible hready heligible]
  simp only [State.dispatch, hclass, hmet, hsaved, decide_true, Bool.and_self, if_true]

end

end

/-! ### Starvation and pins (R96, R104) -/

/-- R96: the queue is marked, and its timer starts anew. -/
theorem exec_queueStarvation {s : State} {q : Nat} (hunplaced : s.hasUnplaced q = true) (hlong : (s.queue q).waitFrom + 100000 ≤ s.gtime) :
    exec (.queueStarvation q) s = .next (s.modQueue q (fun x => { x with starving := true, waitFrom := s.gtime })) :=
  congrArg Host.Outcome.next (if_pos (by rw [hunplaced, Config.starvationNs, decide_eq_true hlong, Bool.and_self]))

/-- R104: the machine with a grid pinned on a die from now on. -/
def State.pinNow (s : State) (die g : Nat) : State :=
  { s with disps := tmod s.disps die Disp.initial (fun d => { d with pinned := tins d.pinned g s.gtime }) }

theorem pinned_pinNow (s : State) (die g h : Nat) : tfind (tget (s.pinNow die g).disps die Disp.initial).pinned h =
    if g = h then some s.gtime else tfind (tget s.disps die Disp.initial).pinned h := by
  rw [State.pinNow, tget_tmod, if_pos rfl, tfind_tins]

theorem exec_candidatePin {s : State} {die since : Nat} {c : Cand} {r : List Cand} (hhead : s.ordered die = c :: r)
    (hpassed : (tget s.disps die Disp.initial).passed = some (c.grid.num, since)) (hlong : since + 100000 ≤ s.gtime)
    (hfree : s.pinnedOn die c.grid.num = false) : exec (.candidatePin die) s = .next (s.pinNow die c.grid.num) := by
  simp only [exec, execCandidatePin, hhead, List.head?_cons, hpassed, hlong, hfree, decide_true, Bool.not_false, Bool.and_self, if_true, State.pinNow]

/-! ### Retirement (R93) -/

section
variable {s : State} {die core slot : Nat} {t : Team} (hteam : tfind s.unfocus.teams (teamKey die core slot) = some t)
include hteam

/-- R93: a quiet ended team leaves its core, and no other team does. -/
theorem exec_teamRetire (hlive : t.aborted = false) (hquiet : s.unfocus.teamQuiet (teamKey die core slot) t = true) (hended : t.ended = true)
    (hcopies : s.unfocus.teamCopies (teamKey die core slot) t = []) :
    ∃ u : State, exec (.teamRetire die core slot) s = .next ((u.checkTurn t.grid).settleSpare die core) ∧
      u.teams = tdel s.unfocus.teams (teamKey die core slot) := by
  simp only [exec, execTeamRetire, hteam, hlive, hquiet, hended, hcopies, Bool.or_false, Bool.not_true, Bool.not_false, List.isEmpty_nil,
    Bool.and_false, Bool.or_self, Bool.false_eq_true, if_false]
  refine ⟨_, rfl, ?_⟩
  split <;> rfl

/-! ### Pre-emption (R114, R115) -/

/-- R115: a quiet sampled team is saved in its kept place and leaves its core, one of a C grid once its whole grid is quiet. -/
theorem exec_preemptSave {base : Nat} (hlive : t.aborted = false) (hquiet : s.unfocus.teamQuiet (teamKey die core slot) t = true)
    (hsampled : t.sampled = true) (hgoing : t.ended = false)
    (hmates : t.mode.toNat % 4 = 0 → s.unfocus.gridQuiet t.grid = true ∧ ∀ p ∈ s.unfocus.teams, p.2.grid = t.grid → p.2.ended = false →
      p.2.sampled = true ∧ s.unfocus.teamQuiet p.1 p.2 = true)
    (hplace : s.unfocus.recordPlace (teamKey die core slot) t = some base) :
    let u := s.unfocus.saveTeam (teamKey die core slot) t base
      (if (tget s.unfocus.disps die Disp.initial).swapped.contains (core, slot) then s.unfocus.awaited t else [])
    exec (.preemptSave die core slot) s = .next (({ u with disps := tmod u.disps die Disp.initial (fun d =>
      { d with swapped := d.swapped.filter (· != (core, slot)) }) } : State).settleSpare die core) := by
  intro u
  simp only [exec, execPreemptSave, hteam, hsampled, hlive, hgoing, Bool.not_true, Bool.false_or]
  rw [if_neg]
  · simp only [hplace, u]
  · by_cases hmode : t.mode.toNat % 4 = 0
    · obtain ⟨hgrid, hall⟩ := hmates hmode
      simpa [hmode, hgrid] using hall
    · simp only [hmode, if_false, hquiet, Bool.not_true, Bool.false_eq_true, not_false_eq_true]

end

theorem tfind_saveTeam (s : State) (key : Nat) (t : Team) (base : Nat) (parked : List Nat) :
    tfind (s.saveTeam key t base parked).teams key = none :=
  (tfind_tdel _ key key).trans (if_pos rfl)

section
variable {s u : State} {die : Nat} {c : Cand}

/-- R114: the first that has waited 50 µs, and that enough victims would satisfy, has those sampled. -/
theorem preemptFor_samples {free : State} {ks : List Nat} (r : List Cand) (hshort : free.reserveFor die c = none)
    (hlong : s.waitsFrom die c + 50000 ≤ s.gtime) (henough : free.enough die c [] (s.victims die (s.gridPrio c.grid)) = some ks)
    (hsample : s.sampleAll ks = some u) : s.preemptFor die free (c :: r) = some u := by
  simp only [State.preemptFor, hshort, Nat.not_lt.2 hlong, if_false, henough, Option.bind_some, hsample]

theorem exec_preemptTrigger {r : List Cand} {ks : List Nat} (hwaits : (s.unfocus.ordered die).filter (s.unfocus.holdsBack die) = c :: r)
    (hshort : (s.unfocus.without s.unfocus.leaving).reserveFor die c = none) (hlong : s.unfocus.waitsFrom die c + 50000 ≤ s.unfocus.gtime)
    (henough : (s.unfocus.without s.unfocus.leaving).enough die c [] (s.unfocus.victims die (s.unfocus.gridPrio c.grid)) = some ks)
    (hsample : s.unfocus.sampleAll ks = some u) : exec (.preemptTrigger die) s = .next u := by
  simp only [exec, execPreemptTrigger, hwaits, preemptFor_samples r hshort hlong henough hsample, Option.getD_some]

/-- R109: the first parked team whose record has room is swapped out, a C grid's teams together. -/
theorem exec_childSwapOut {v : Nat × Team} {l r : List (Nat × Team)} (hchild : s.unfocus.swapCand die = some c)
    (hvictims : s.unfocus.swapVictims die c = l ++ v :: r) (hfull : ∀ x ∈ l, s.unfocus.sampleAll (s.unfocus.wholeTeam x) = none)
    (hsample : s.unfocus.sampleAll (s.unfocus.wholeTeam v) = some u) :
    exec (.childSwapOut die) s = .next ((s.unfocus.wholeTeam v).foldl State.markSwapped u) := by
  have hfirst : (s.unfocus.swapVictims die c).findSome? (fun v => (s.unfocus.sampleAll (s.unfocus.wholeTeam v)).map (fun s1 =>
      (s.unfocus.wholeTeam v).foldl State.markSwapped s1)) = some ((s.unfocus.wholeTeam v).foldl State.markSwapped u) :=
    List.findSome?_eq_some_iff.2 ⟨l, v, r, hvictims, by rw [hsample, Option.map_some], fun x hx => by rw [hfull x hx, Option.map_none]⟩
  simp only [exec, execChildSwapOut, hchild, hfirst, Option.getD_some]

end

/-- Settles O43: one placement by the class of the first eligible candidate, and each further duty of a dispatcher by its own lemma. -/
theorem placement : Obligations.Placement := by
  unfold Obligations.Placement
  intro s die s0
  refine ⟨?_, fun q => exec_queueStarvation, ?_, ?_, fun c r ks u => exec_preemptTrigger, fun c v l r u => exec_childSwapOut⟩
  · intro hready s1 c r heligible
    refine ⟨?_, ?_⟩
    · intro core fresh hclass hcore s2
      refine ⟨fun hnew => ?_, fun x hsaved hrec => ?_⟩
      · exact congrArg Host.Outcome.next (place_enlists hready heligible hnew hclass (enlist_new hcore hnew))
      · exact congrArg Host.Outcome.next (place_enlists hready heligible hsaved hclass (enlist_saved hcore hsaved hrec))
    · intro hclass hmet u
      refine ⟨fun hnew => ?_, fun hsaved => ?_⟩
      · exact congrArg Host.Outcome.next (place_claim hready heligible hnew hclass hmet)
      · exact congrArg Host.Outcome.next (place_claim hready heligible hsaved hclass hmet)
  · intro c r since hhead hpassed hlong hfree
    refine ⟨_, exec_candidatePin hhead hpassed hlong hfree, (pinned_pinNow ..).trans (if_pos rfl), fun g hg => ?_, rfl, rfl⟩
    exact congrArg Option.isSome ((pinned_pinNow ..).trans (if_neg hg.symm))
  · intro core slot t key hteam hlive hquiet
    refine ⟨fun hended hcopies => ?_, fun base hsampled hgoing hmates hplace => ?_⟩
    · obtain ⟨u, hexec, hteams⟩ := exec_teamRetire hteam hlive hquiet hended hcopies
      refine ⟨u, hexec, ?_, fun k hk => ?_⟩
      · rw [hteams, tfind_tdel, if_pos rfl]
      · rw [hteams, tfind_tdel, if_neg hk.symm]
    · exact ⟨exec_preemptSave hteam hlive hquiet hsampled hgoing hmates hplace, tfind_saveTeam ..⟩

end Sys2Proof.Machine
end

section
/-! What an instruction does once its checks at issue have passed, what it reads, and what its lanes' results come to (R89, R127, R133, R158,
R224, R251, R255, R259). -/

namespace Sys2Proof.Machine

open Sys2Proof.Laws

/-! ### Checks at issue -/

section
variable {s : State} {ns : Names} (lanes : BitVec 32) (k : State → State)

theorem vGuarded_passes {legal : Bool} (hcore : s.onKiln = false) (hlegal : legal = true) (hnames : s.namesOk ns = true)
    (hready : s.namesPending ns = false) : s.vGuarded lanes legal ns k = k s := by
  simp [State.vGuarded, hcore, hlegal, hnames, hready]

theorem vGuarded_fit {p : BitVec 3} {legal : Bool} (hfit : s.FitV p ns) (hlegal : legal = true) : s.vGuarded lanes legal ns k = k s :=
  vGuarded_passes lanes k hfit.core hlegal hfit.named hfit.ready

end

section
variable {s : State} {ns : Names} (g : BitVec 3) (k : State → State)

/-- On a core, an instruction that only a core runs goes on when its fields are legal and its guard is true. -/
theorem sGuarded_core {legal : Bool} (hcore : s.onKiln = false) (hfit : s.FitS g ns) (hlegal : legal = true) :
    s.sGuarded g (s.coreOnly legal) ns k = k s :=
  sGuarded_ok s g _ ns k ((coreOnly_core hcore legal).trans hlegal) hfit

theorem sGuarded_illegal_field {legal : Bool} (hlegal : legal = false) : s.sGuarded g legal ns k = s.illegal s.g.exec :=
  if_pos (by simp [hlegal])

/-- R259: illegal fields come before the mode. -/
theorem sPriv_illegal_field {legal : Bool} (allowed : Bool) (hlegal : legal = false) :
    s.sPriv g legal allowed ns k = s.illegal s.g.exec := by
  rw [State.sPriv, if_neg (by simp [hlegal]), sGuarded_illegal_field g k hlegal]

/-- R150, R259: a mode that is not allowed raises PRIV_INSN whatever the guard. -/
theorem sPriv_denied {legal allowed : Bool} (hlegal : legal = true) (hnames : s.namesOk ns = true) (hdenied : allowed = false) :
    s.sPriv g legal allowed ns k = s.raiseAll cPriv 0 s.g.exec :=
  if_pos (by simp [hlegal, hnames, hdenied])

end

/-! ### Words read -/

section
variable {s : State} {n k : Nat}

theorem mem_sRun {i : Nat} (h : i < k) : s.s (n + i) ∈ s.sRun n k :=
  List.mem_map.2 ⟨i, List.mem_range.2 h, rfl⟩

theorem checks_of_readsS {runs : List (Nat × Nat)} {i : Nat} (hreads : s.ReadsS runs) (hrun : (n, k) ∈ runs) (h : i < k) :
    (s.s (n + i)).checks = true := hreads _ hrun _ (mem_sRun h)

theorem clean_of_cleanS {runs : List (Nat × Nat)} {i : Nat} (hclean : s.CleanS runs) (hrun : (n, k) ∈ runs) (h : i < k) :
    (s.s (n + i)).isPoison = false := hclean _ hrun _ (mem_sRun h)

/-- A run whose words pass is read as its words. -/
theorem sWords_run {runs : List (Nat × Nat)} (hreads : s.ReadsS runs) (hrun : (n, k) ∈ runs) (info : Nat) :
    s.sWords (srcs n k info) = .ok (s.sRun n k) := by
  rw [sWords_ok s (srcs n k info) (by simpa [srcs] using fun i hi => checks_of_readsS hreads hrun hi)]
  simp [srcs, State.sRun, Function.comp_def]

/-- A clean run whose words pass is used as its words. -/
theorem sUse_run {runs : List (Nat × Nat)} (hreads : s.ReadsS runs) (hclean : s.CleanS runs) (hrun : (n, k) ∈ runs) (info use : Nat) :
    s.sUse (srcs n k info) use = .ok (s.sRun n k) := by
  have hpoison : (srcs n k info).any (fun x => (s.s x.n).isPoison) = false := by
    simpa [srcs] using fun i hi => clean_of_cleanS hclean hrun hi
  simp only [State.sUse, hpoison, sWords_run hreads hrun, Bool.false_eq_true, if_false]

theorem nth_sRun {i : Nat} (h : i < k) : nth (s.sRun n k) i = s.s (n + i) := by
  simp [nth, State.sRun, h]

theorem dat64_sRun (s : State) (n : Nat) : dat64 (s.sRun n 2) 0 = s.s64 n := by
  simp [dat64, dat, nth_sRun, State.s64]

theorem srcWords_run {runs : List (Nat × Nat)} {p : BitVec 3} {l : Nat} (hreads : s.ReadsV p runs) (hl : s.active p l) (hrun : (n, k) ∈ runs)
    (info : Nat) : s.srcWords l (srcs n k info) = .ok (s.vRun n k l) := by
  have hchecks : ∀ x ∈ srcs n k info, (s.v x.n l).checks = true := by
    simpa [srcs] using fun i hi => hreads l hl _ hrun _ (List.mem_map.2 ⟨i, List.mem_range.2 hi, rfl⟩)
  rw [srcWords_ok s l _ hchecks]
  simp [srcs, State.vRun, Function.comp_def]

end

/-! ### Results of lanes -/

theorem glitch_cleared {s : State} (h : s.glitch = 0) : ({ s with glitch := 0 } : State) = s := by rw [← h]

/-- No lane with a faulty guard and no datapath fault: the results are those of the lanes. -/
theorem laneResults_sound {s : State} (hsound : s.glitch = 0) (lanes : BitVec 32) (f : Nat → LaneRes) :
    s.laneResults ⟨lanes, 0⟩ f = (lanesOf lanes).map (fun l => (l, f l)) := by
  have hstruck : ∀ l r, s.struck l r = r := by
    rintro l (e | o)
    · rfl
    · simp only [State.struck, hsound, bit_zero, Bool.false_and, Bool.false_eq_true, if_false]
  simp only [State.laneResults, or_zero32, bit_zero, hstruck, Bool.false_eq_true, if_false]

theorem settleLanes_passes {s : State} (hsound : s.glitch = 0) (ls : List Nat) (out : Nat → LaneOut) :
    s.settleLanes (ls.map (fun l => (l, .ok (out l)))) = (ls.foldl (fun t l => t.commitLane l (out l)) s).advance := by
  rw [State.settleLanes, glitch_cleared hsound, failsOf_ok _ (by simp)]
  simp only [trapOf, firstFail, minBy, State.commitLanes, List.foldl_map]

theorem flatMap_filter_key {α : Type} {ks : List Nat} {rs : List (Nat × α)} (hks : (rs.map (·.1)).Sublist ks) (hnodup : ks.Nodup) :
    ks.flatMap (fun l => rs.filter (fun x => x.1 == l)) = rs := by
  have hother : ∀ {l : Nat} {ls : List Nat} {rs : List (Nat × α)}, (rs.map (·.1)).Sublist ls → l ∉ ls → rs.filter (fun x => x.1 == l) = [] :=
    fun hsub hl => List.filter_eq_nil_iff.2 (fun x hx => by
      simpa using fun h => hl (hsub.mem (List.mem_map.2 ⟨x, hx, h⟩)))
  induction ks generalizing rs with
  | nil => simpa using hks
  | cons k ks ih =>
    have hk := (List.nodup_cons.1 hnodup).1
    rw [List.flatMap_cons]
    rcases List.sublist_cons_iff.1 hks with hks | ⟨r, hr, hks⟩
    · rw [hother hks hk, ih hks hnodup.of_cons, List.nil_append]
    · obtain ⟨x, rs, rfl, rfl, rfl⟩ := List.map_eq_cons_iff.1 hr
      have hrest : ks.flatMap (fun l => (x :: rs).filter (fun y => y.1 == l)) = ks.flatMap (fun l => rs.filter (fun y => y.1 == l)) :=
        List.flatMap_congr (fun l hl => List.filter_cons_of_neg (by simp only [beq_iff_eq]; rintro rfl; exact hk hl))
      have hfirst : (x :: rs).filter (fun y => y.1 == x.1) = [x] := by simp [hother hks hk]
      rw [hfirst, hrest, ih hks hnodup.of_cons, List.singleton_append]

theorem lanesOf_sublist (m : BitVec 32) : (lanesOf m).Sublist (List.range 33) :=
  List.filter_sublist.trans (List.range_sublist.2 (by decide))

/-- Results keyed by the lanes of a mask are in the order of lanes, and no other lane has a faulty guard. -/
theorem byLane_lanesOf {α : Type} {m : BitVec 32} {rs : List (Nat × Except LaneFail α)} (h : rs.map (·.1) = lanesOf m) :
    byLane rs (faultyLanes 0) = rs := by
  simp only [byLane, show faultyLanes (α := α) 0 = [] from rfl, List.filter_nil, List.append_nil]
  exact flatMap_filter_key (h ▸ lanesOf_sublist m) List.nodup_range

theorem goodLanes_ok {α : Type} (rs : List (Nat × α)) : goodLanes (rs.map (fun r => (r.1, Except.ok r.2))) = rs := by
  simp [goodLanes, List.filterMap_map]

theorem lostOf_ok {α : Type} (rs : List (Nat × α)) : lostOf (rs.map (fun r => (r.1, Except.ok r.2))) = [] := by
  simp [lostOf]

end Sys2Proof.Machine
end

section
/-! The special functions: sources read at issue, results pending in a VR1 window (R132, R133, R294, R300). -/

namespace Sys2Proof.Machine

open Sys2Proof.Laws

theorem widthOf_eq_tyRegs (t : BitVec 2) : widthOf t = tyRegs t.toNat := rfl

theorem specialWords_length (fn : Nat) (t : BitVec 2) (fmt : BitVec 32) (ws : List Word) :
    (specialWords fn t.toNat fmt ws).length = widthOf t := by
  unfold specialWords widthOf
  match t with
  | 0 => rfl
  | 1 => rfl
  | 2 => rfl
  | 3 => rfl

/-- R221, R300: the result words of a lane: poison for a poisoned source. -/
def State.specialOut (s : State) (fn : Nat) (t : BitVec 2) (a l : Nat) : List Word :=
  if (s.vRun a (widthOf t) l).any Word.isPoison then List.replicate (widthOf t) Word.poison
  else specialWords fn t.toNat s.g.fmt (s.vRun a (widthOf t) l)

theorem specialLane_reads {s : State} {p : BitVec 3} {t : BitVec 2} {a l : Nat} (fn d : Nat) (hreads : s.ReadsV p [(a, widthOf t)])
    (hl : s.active p l) : specialLane fn t.toNat d a s l = .ok ⟨runWrites d (s.specialOut fn t a l), []⟩ := by
  simp only [specialLane, ← widthOf_eq_tyRegs, srcWords_run hreads hl List.mem_cons_self, State.specialOut, runWrites]
  split_ifs with hpoison
  · rw [dests_replicate]
  · rw [zip_dests d _ _ (specialWords_length fn t s.g.fmt _)]

theorem map_runWrites {β : Type} (d : Nat) (ws : List Word) (f : Word → β) : (runWrites d ws).map (fun w => f w.2) = ws.map f := by
  rw [runWrites, List.map_map]
  exact (List.map_map (f := Prod.fst) (g := f) (l := ws.zipIdx)).symm.trans (congrArg (List.map f) (List.zipIdx_map_fst 0 ws))

/-- R132: a window with lookahead lets the group go on. -/
theorem openWindow_ahead {s : State} {la : Nat} (hla : la ≠ 0) (dest : Dest) (vr1 : Bool) (lanes : List PendLane) :
    s.openWindow dest la vr1 lanes = ({ s with g := { s.g with
      pset := s.g.pset ++ [s.newPend dest (la + 1) la vr1 lanes]
      nextId := s.g.nextId + 1
      drain := false } } : State).advance := if_neg hla

/-- R300: with room in the pending set a special function whose sources pass opens its window. -/
theorem execSpecial_opens {s : State} {d a : BitVec 6} {t : BitVec 2} {p : BitVec 3} {fn : Nat} (la : BitVec 4)
    (hfit : s.FitV p (names2 d.toNat a.toNat (widthOf t))) (hreads : s.ReadsV p [(a.toNat, widthOf t)])
    (hroom : psetSize s.g + widthOf t ≤ 8) (htype : t ≠ 1 ∨ fn < 3) : execSpecial fn d a t la p s =
      s.openWindow (.lane d.toNat (widthOf t)) la.toNat true ((lanesOf (s.act p.toNat).lanes).map (fun l =>
        ⟨l, 0, 4 * widthOf t, (s.specialOut fn t a.toNat l).map (fun w => ⟨0, 0, some w⟩)⟩)) := by
  have hlegal : (decide (t.toNat ≠ 1) || decide (fn < 3)) = true := by
    rcases htype with ht | hfn
    · simp [show t.toNat ≠ 1 from fun h => ht (BitVec.eq_of_toNat_eq h)]
    · simp [hfn]
  have hact : s.act p.toNat = ⟨(s.act p.toNat).lanes, 0⟩ := by rw [← hfit.guarded]
  have hresults : s.laneResults (s.act p.toNat) (specialLane fn t.toNat d.toNat a.toNat s) =
      (lanesOf (s.act p.toNat).lanes).map (fun l => (l, .ok ⟨runWrites d.toNat (s.specialOut fn t a.toNat l), []⟩)) := by
    rw [hact, laneResults_sound hfit.sound]
    exact List.map_congr_left (fun l hl => by rw [specialLane_reads fn d.toNat hreads hl])
  rw [execSpecial, ← widthOf_eq_tyRegs]
  refine (vGuarded_fit _ _ hfit hlegal).trans ?_
  simp only [Nat.not_lt.2 hroom, if_false, glitch_cleared hfit.sound, hresults]
  rw [failsOf_ok _ (by simp)]
  simp only [trapOf, firstFail, minBy, List.filterMap_map, Function.comp_def, hfit.sound, bit_zero, Bool.false_eq_true, if_false,
    List.filterMap_eq_map', map_runWrites _ _ (fun w => Need.mk 0 0 (some w))]

/-- Settles O12: each special function opens its window, and one with lookahead goes on. -/
theorem laneSpecialFunctions : Obligations.LaneSpecialFunctions := by
  unfold Obligations.LaneSpecialFunctions
  intro s d a t la p k hfit hreads hroom hla opened
  have hahead : la.toNat ≠ 0 := fun h => hla (BitVec.eq_of_toNat_eq h)
  have hopens : ∀ fn, t ≠ 1 ∨ fn < 3 → execSpecial fn d a t la p s = (opened fn).advance := fun fn htype =>
    (execSpecial_opens la hfit hreads hroom htype).trans (openWindow_ahead hahead ..)
  refine ⟨?_, ?_, ?_, fun ht => ⟨?_, ?_, ?_, ?_⟩⟩
  · exact congrArg Host.Outcome.next (hopens 0 (.inr (by decide)))
  · exact congrArg Host.Outcome.next (hopens 1 (.inr (by decide)))
  · exact congrArg Host.Outcome.next (hopens 2 (.inr (by decide)))
  · exact congrArg Host.Outcome.next (hopens 3 (.inl ht))
  · exact congrArg Host.Outcome.next (hopens 4 (.inl ht))
  · exact congrArg Host.Outcome.next (hopens 5 (.inl ht))
  · exact congrArg Host.Outcome.next (hopens 6 (.inl ht))

end Sys2Proof.Machine
end

section
/-! Special registers, FMT and EXEC (R122, R123, R151, R256, R344–R347). -/

namespace Sys2Proof.Machine

open Sys2Proof.Laws

/-! ### Reading -/

theorem specHere_core {s : State} (hcore : s.onKiln = false) (n : Nat) : s.specHere n = true := by
  simp [State.specHere, hcore]

theorem commitLane_carry (t : State) (l d : Nat) (ws : List Word) :
    t.commitLane l (carry d ws) = ws.zipIdx.foldl (fun t w => t.setV (d + w.2) l w.1) t := by
  simp only [State.commitLane, carry, List.foldl_map, List.foldl_nil]

section
variable {s : State} {d a : BitVec 6} {g : BitVec 3} {k : Nat} (hk : (if specWide a.toNat then 2 else 1) = k) (hcore : s.onKiln = false)
  (hassigned : specAssigned a.toNat = true) (hallowed : s.specDenied a.toNat = false)
include hk hcore hassigned hallowed

/-- R344: `rds` to uniform registers. -/
theorem exec_sRds_uniform (hlane : specPerLane a.toNat = false) (hfit : s.FitS g ⟨[], [(d.toNat, k)]⟩) :
    exec (.sRds d a 0 g) s = .next (s.setSs d.toNat (wordsOf k (s.special a.toNat 0))).advance := by
  have hmode : (!s.specDenied a.toNat) = true := by rw [hallowed]; rfl
  subst hk
  refine congrArg Host.Outcome.next ((sPriv_ok s g _ _ _ _ ?_ hmode hfit).trans (sResult_ok _ _ _ hfit.sound))
  simp [hassigned, specHere_core hcore, hlane]

/-- R256, R344: `rds` to a lane register writes each lane its own value. -/
theorem exec_sRds_lanes (hfit : s.FitS g ⟨[(d.toNat, k)], []⟩) : exec (.sRds d a 1 g) s =
    .next ((lanesOf s.baseLanes).foldl (fun t l =>
      (wordsOf k (s.special a.toNat l)).zipIdx.foldl (fun t w => t.setV (d.toNat + w.2) l w.1) t) s).advance := by
  have hmode : (!s.specDenied a.toNat) = true := by rw [hallowed]; rfl
  subst hk
  refine congrArg Host.Outcome.next ((sPriv_ok s g _ _ _ _ ?_ hmode hfit).trans ?_)
  · simp [hassigned, specHere_core hcore, hcore]
  · refine (congrArg s.settleLanes (laneResults_sound hfit.sound _ _)).trans ((settleLanes_passes hfit.sound _ _).trans ?_)
    simp only [commitLane_carry]

end

/-! ### Writing -/

theorem sTwice_sound {s : State} (hsound : s.glitch = 0) (k : State → State) : s.sTwice k = k s :=
  if_neg (fun h => h hsound)

/-- R345: `wrs` writes the register the value of its run. -/
theorem exec_sWrs {s : State} {a b : BitVec 6} {g : BitVec 3} {k : Nat} (hk : (if specWide a.toNat then 2 else 1) = k)
    (hcore : s.onKiln = false) (hwritable : specWritable a.toNat = true) (hallowed : s.writeDenied a.toNat = false)
    (hfit : s.FitS g ⟨[], [(b.toNat, k)]⟩) (hreads : s.ReadsS [(b.toNat, k)]) (hclean : s.CleanS [(b.toNat, k)]) :
    exec (.sWrs a b g) s =
      .next (s.setSpecial a.toNat (if k = 2 then s.s64 b.toNat else (s.s b.toNat).data.zeroExtend 64)).advance := by
  have hvalue : (if k = 2 then dat64 (s.sRun b.toNat k) 0 else (dat (s.sRun b.toNat k) 0).zeroExtend 64) =
      if k = 2 then s.s64 b.toNat else (s.s b.toNat).data.zeroExtend 64 := by
    have hpos : 0 < k := by rw [← hk]; split_ifs <;> decide
    split_ifs with htwo
    · rw [htwo, dat64_sRun]
    · rw [dat, nth_sRun hpos, Nat.add_zero]
  have hmode : (!s.writeDenied a.toNat) = true := by rw [hallowed]; rfl
  subst hk
  refine congrArg Host.Outcome.next ((sPriv_ok s g _ _ _ _ ((coreOnly_core hcore _).trans hwritable) hmode hfit).trans ?_)
  simp only [sUse_run hreads hclean List.mem_cons_self, hvalue, sTwice_sound hfit.sound, ite_self]

/-- R151: a cause register keeps its low 29 bits and takes the three scratch bits. -/
theorem scratchBits (x : BitVec 64) (old : BitVec 32) :
    ((x.extractLsb' 0 32 &&& 0xe0000000) ||| (old &&& 0x1fffffff)).extractLsb' 29 3 = x.extractLsb' 29 3 ∧
    ((x.extractLsb' 0 32 &&& 0xe0000000) ||| (old &&& 0x1fffffff)).extractLsb' 0 29 = old.extractLsb' 0 29 := by
  have hhigh : ∀ i < 3, (0xe0000000 : BitVec 32).getLsbD (29 + i) = true ∧ (0x1fffffff : BitVec 32).getLsbD (29 + i) = false := by decide
  have hlow : ∀ i < 29, (0xe0000000 : BitVec 32).getLsbD i = false ∧ (0x1fffffff : BitVec 32).getLsbD i = true := by decide
  constructor
  · ext i hi
    simp only [BitVec.getElem_extractLsb', BitVec.getLsbD_or, BitVec.getLsbD_and, BitVec.getLsbD_extractLsb', hhigh i hi,
      show 29 + i < 32 by omega, decide_true, Bool.true_and, Bool.and_true, Bool.and_false, Bool.or_false, Nat.zero_add]
  · ext i hi
    simp only [BitVec.getElem_extractLsb', BitVec.getLsbD_or, BitVec.getLsbD_and, Nat.zero_add, hlow i hi, Bool.and_false, Bool.false_or,
      Bool.and_true]

/-! ### FMT and EXEC -/

theorem filter_bit (m : BitVec 32) (q : Nat → Bool) : (List.range 32).filter (fun l => bit m l && q l) = (lanesOf m).filter q :=
  (List.filter_congr fun _ _ => Bool.and_comm ..).trans List.filter_filter.symm

section
variable {s : State} {a : BitVec 6} {g : BitVec 3} (hcore : s.onKiln = false)
include hcore

section
variable (hfit : s.FitS g ⟨[], [(a.toNat, 1)]⟩) (hreads : s.ReadsS [(a.toNat, 1)]) (hclean : s.CleanS [(a.toNat, 1)])
include hfit hreads hclean

/-- R346: `setfmt` from a register below 2^19. -/
theorem exec_sSetfmt (hsmall : (s.s a.toNat).data.toNat < 2 ^ 19) :
    exec (.sSetfmt a g) s = .next ({ s with g := { s.g with fmt := (s.s a.toNat).data } } : State).advance := by
  have hpoison : (s.s a.toNat).isPoison = false := clean_of_cleanS (i := 0) hclean List.mem_cons_self Nat.one_pos
  have hchecks : (s.s a.toNat).checks = true := checks_of_readsS (i := 0) hreads List.mem_cons_self Nat.one_pos
  refine congrArg Host.Outcome.next ((sGuarded_core g _ hcore hfit rfl).trans ?_)
  simp only [hpoison, hchecks, Nat.not_le.2 hsmall, Bool.not_true, Bool.false_eq_true, or_self, if_false]

/-- R347: `wrexec` from a register. -/
theorem exec_sWrexec : exec (.sWrexec a g) s =
    .next ({ s with g := { s.g with exec := (s.s a.toNat).data &&& s.g.bind } } : State).advance := by
  refine congrArg Host.Outcome.next ((sGuarded_core g _ hcore hfit rfl).trans ?_)
  rw [show [(⟨a.toNat, 1⟩ : Src)] = srcs a.toNat 1 1 from rfl, sUse_run hreads hclean List.mem_cons_self]
  rfl

end

/-- R347: `wrexec.p` where no pair of an enabled lane is faulty. -/
theorem exec_sWrexecP {n : BitVec 3} {c : Nat → Bool} (hfit : s.FitS g ⟨[], []⟩)
    (hpreds : ∀ l, l ∈ lanesOf s.g.exec → s.p n.toNat l = some (c l)) :
    exec (.sWrexecP n g) s = .next ({ s with g := { s.g with exec := maskOf ((lanesOf s.g.exec).filter c) } } : State).advance := by
  have hbad : (lanesOf s.g.exec).filter (fun l => s.p n.toNat l == none) = [] :=
    filter_lanesOf_none (fun l hl => by rw [hpreds l hl]; rfl)
  have hkeep : (lanesOf s.g.exec).filter (fun l => s.p n.toNat l == some true) = (lanesOf s.g.exec).filter c :=
    List.filter_congr (fun l hl => by rw [hpreds l hl]; cases c l <;> rfl)
  refine congrArg Host.Outcome.next ((sGuarded_core g _ hcore hfit rfl).trans ?_)
  simp only [filter_bit, hbad, hkeep, maskOf_nil]
  exact if_neg (fun h => h rfl)

end

/-- Settles O16: by the instruction, and by the register that `wrs` writes. -/
theorem specialRegisters : Obligations.SpecialRegisters := by
  unfold Obligations.SpecialRegisters
  refine ⟨fun s d a b g hcore => ⟨fun hassigned hallowed =>
      ⟨exec_sRds_uniform rfl hcore hassigned hallowed, exec_sRds_lanes rfl hcore hassigned hallowed⟩,
    fun hwritable hallowed => exec_sWrs rfl hcore hwritable hallowed,
    fun hfit hreads hclean => ⟨exec_sSetfmt hcore hfit hreads hclean, exec_sWrexec hcore hfit hreads hclean⟩,
    fun hfit => ⟨fun i => ?_, fun n c => exec_sWrexecP hcore hfit⟩⟩, fun s x => ⟨rfl, rfl, rfl, rfl, rfl, rfl, ?_, ?_⟩⟩
  · exact congrArg Host.Outcome.next (sGuarded_core g _ hcore hfit rfl)
  · exact ⟨_, rfl, scratchBits x s.g.priv.kcause⟩
  · exact ⟨_, rfl, scratchBits x s.g.priv.hcause⟩

end Sys2Proof.Machine
end

section
/-! Uniform control flow: branches, calls and returns, windows, loops and waits (R127–R129, R134, R145, R348–R351, R355, R356, R358). -/

namespace Sys2Proof.Machine

open Sys2Proof.Laws

/-! ### Targets -/

/-- R145, R250: a jump to an aligned target is taken. -/
theorem jump_aligned {s : State} {t : Addr} (h : t.toNat % 4 = 0) (lanes : BitVec 32) :
    s.jump lanes t = s.transfer t (popLoops t s.g.loops) := if_neg (fun hne => hne h)

theorem misTarget_aligned {ws : List Word} (h : (nth ws 0).data.toNat % 4 = 0) : misTarget ws = false := by
  simp [misTarget, h]

theorem s64_toNat (s : State) (n : Nat) : (s.s64 n).toNat = (s.s (n + 1)).data.toNat * 2 ^ 32 + (s.s n).data.toNat := by
  rw [State.s64, BitVec.toNat_append, ← Nat.shiftLeft_add_eq_or_of_lt (s.s n).data.isLt, Nat.shiftLeft_eq]

/-- R348: a clean aligned pair is the target it holds. -/
theorem uTarget_aligned {s : State} {a : Nat} (hreads : s.ReadsS [(a, 2)]) (hclean : s.CleanS [(a, 2)]) (h : (s.s64 a).toNat % 4 = 0) :
    s.uTarget a = .ok (s.s64 a) := by
  have hlow : (s.s a).data.toNat % 4 = 0 := by rw [s64_toNat] at h; omega
  rw [State.uTarget, misTarget_aligned (ws := [s.s a, s.s (a + 1)]) hlow, sUse_pair hreads hclean]
  rfl

theorem ofWords_mod_four (ws : List Word) : ofWords ws % 4 = (nth ws 0).data.toNat % 4 := by
  cases ws with
  | nil => rfl
  | cons w r =>
    change (w.data.toNat + 2 ^ 32 * ofWords r) % 4 = w.data.toNat % 4
    omega

/-! ### Branches -/

section
variable {s : State} {g : BitVec 3}

theorem exec_sB {d : BitVec 22} (hfit : s.FitS g ⟨[], []⟩) (h : (s.g.pc + 4 * d.signExtend 64).toNat % 4 = 0) : exec (.sB d g) s =
    .next (s.transfer (s.g.pc + 4 * d.signExtend 64) (popLoops (s.g.pc + 4 * d.signExtend 64) s.g.loops)) :=
  congrArg Host.Outcome.next ((sGuarded_ok s g _ _ _ rfl hfit).trans (jump_aligned h _))

theorem exec_sJmpu {a : BitVec 6} (hfit : s.FitS g ⟨[], [(a.toNat, 2)]⟩) (hreads : s.ReadsS [(a.toNat, 2)])
    (hclean : s.CleanS [(a.toNat, 2)]) (h : (s.s64 a.toNat).toNat % 4 = 0) :
    exec (.sJmpu a g) s = .next (s.transfer (s.s64 a.toNat) (popLoops (s.s64 a.toNat) s.g.loops)) := by
  refine congrArg Host.Outcome.next ((sGuarded_ok s g _ _ _ rfl hfit).trans ?_)
  simp only [uTarget_aligned hreads hclean h, jump_aligned h]

/-! ### Calls -/

/-- R128, R350: a call that links transfers without popping loops. -/
theorem doCall_links {s1 : State} {t : Addr} {slide : Nat} (h : t.toNat % 4 = 0) (hlink : s.pushLink (s.g.pc + 4) slide = some s1) :
    s.doCall t slide = s1.transfer t s1.g.loops := by
  simp only [State.doCall, h, ne_eq, not_true_eq_false, if_false, hlink]

theorem exec_sCall {sl : BitVec 6} (hcore : s.onKiln = false) (hfit : s.FitS g ⟨[], []⟩) (hslide : sl.toNat < s.g.frame) (d : BitVec 16) :
    exec (.sCall sl d g) s = .next (s.doCall (s.g.pc + 4 * d.signExtend 64) sl.toNat) :=
  congrArg Host.Outcome.next (sGuarded_core g _ hcore hfit (decide_eq_true hslide))

theorem exec_sCallu {a sl : BitVec 6} (hcore : s.onKiln = false) (hfit : s.FitS g ⟨[], [(a.toNat, 2)]⟩) (hreads : s.ReadsS [(a.toNat, 2)])
    (hclean : s.CleanS [(a.toNat, 2)]) (h : (s.s64 a.toNat).toNat % 4 = 0) (hslide : sl.toNat < s.g.frame) :
    exec (.sCallu a sl g) s = .next (s.doCall (s.s64 a.toNat) sl.toNat) := by
  refine congrArg Host.Outcome.next ((sGuarded_core g _ hcore hfit (decide_eq_true hslide)).trans ?_)
  simp only [uTarget_aligned hreads hclean h]

/-! ### Windows -/

theorem exec_sEnter {n : BitVec 10} (hcore : s.onKiln = false) (hfit : s.FitS g ⟨[], []⟩) (hlow : 1 ≤ n.toNat) (hhigh : n.toNat ≤ 64) :
    exec (.sEnter n g) s = .next (match s.setWindow s.g.wb.toNat n.toNat with
      | none => s.raiseAll cWindow 0 s.g.exec
      | some s1 => if s.spillsPending (s.g.wb.toNat + n.toNat) then s.hold .retry else s1.advance) :=
  congrArg Host.Outcome.next (sGuarded_core g _ hcore hfit (by simp [hlow, hhigh]))

/-- R128, R350: a return through a link that reads well, whose window moves and spills no pending result. -/
theorem doRet_returns {s1 s2 : State} {ws : List Word} (hlinked : s.g.spill.toNat ≠ linkBase s.tm s.g.idx)
    (hframe : s.g.priv.kdepth = 0 ∨ s.g.spill.toNat ≠ frameEnd s.tm s.g) (hread : s.areaRead (s.g.spill - 16).toNat 4 = (s1, some ws))
    (hwords : ∀ w ∈ ws, w.checks = true ∧ w.isPoison = false) (haligned : ofWords ws % 4 = 0)
    (hstack : s1.belowTop (field (ofWords ws) 64 16) = false)
    (hspills : s1.spillsPending (field (ofWords ws) 64 16 + field (ofWords ws) 80 7) = false)
    (hwindow : ({ s1 with g := { s1.g with spill := s.g.spill - 16 } } : State).setWindow (field (ofWords ws) 64 16)
      (field (ofWords ws) 80 7) = some s2) :
    s.doRet = s2.transfer (BitVec.ofNat 64 (ofWords ws)) (s2.g.loops.drop (s2.g.loops.length - field (ofWords ws) 87 3)) := by
  have hfirst : ¬ (s.g.spill.toNat = linkBase s.tm s.g.idx ∨ (s.g.priv.kdepth ≠ 0 ∧ s.g.spill.toNat = frameEnd s.tm s.g)) := by
    rintro (h | ⟨hdepth, hend⟩)
    · exact hlinked h
    · exact hframe.elim hdepth (fun h => h hend)
  have hlow : nth (ws.take 2) 0 = nth ws 0 := by cases ws <;> rfl
  have htarget : misTarget (ws.take 2) = false := misTarget_aligned (by rw [hlow, ← ofWords_mod_four, haligned])
  have hclean : ws.any Word.isPoison = false := List.any_eq_false.2 (fun w hw => by simp [(hwords w hw).2])
  have hchecks : ws.any (fun w => !w.checks) = false := List.any_eq_false.2 (fun w hw => by simp [(hwords w hw).1])
  simp only [State.doRet, hfirst, hread, htarget, hstack, hwindow, hclean, hchecks, hspills, Option.isNone_some, Bool.and_false,
    Bool.false_eq_true, if_false]

/-! ### Loops -/

section
variable {a : BitVec 6} {e : BitVec 10} (hsome : e ≠ 0) (hfit : s.FitS g ⟨[], [(a.toNat, 1)]⟩) (hreads : s.ReadsS [(a.toNat, 1)])
  (hclean : s.CleanS [(a.toNat, 1)])
include hsome hfit hreads hclean

/-- R355: a loop by its count: none skips the body, a fifth entry traps. -/
theorem exec_sLoop : let stop := s.g.pc + 4 * e.zeroExtend 64
    exec (.sLoop a e g) s = .next (
      if (s.s a.toNat).data = 0 then s.transfer (stop + 4) (popLoops (stop + 4) s.g.loops)
      else if s.g.loops.length ≥ 4 then s.raiseAll cLoop 0 s.g.exec
      else ({ s with g := { s.g with
        loops := ⟨s.g.pc + 4, stop, (s.s a.toNat).data.zeroExtend 64⟩ :: s.g.loops
        pc := s.g.pc + 4 } } : State).finish) := by
  refine congrArg Host.Outcome.next ((sGuarded_ok s g _ _ _ (by simpa using hsome) hfit).trans ?_)
  rw [show [(⟨a.toNat, 1⟩ : Src)] = srcs a.toNat 1 1 from rfl, sUse_run hreads hclean List.mem_cons_self]
  rfl

end

end

/-- Settles O17: instruction by instruction, the transfers by their targets, a return by its link. -/
theorem uniformControlFlow : Obligations.UniformControlFlow := by
  unfold Obligations.UniformControlFlow
  intro s g
  refine ⟨fun hfit => ⟨fun d => exec_sB hfit, ?_, fun n => ?_, ?_, fun hcore => ⟨?_, ?_, ?_⟩⟩,
    fun a hfit hreads hclean haligned => ⟨exec_sJmpu hfit hreads hclean haligned, ?_⟩, fun a e hsome hfit hreads hclean => ⟨?_, ?_⟩⟩
  · exact congrArg Host.Outcome.next (sGuarded_ok s g _ _ _ rfl hfit)
  · exact congrArg Host.Outcome.next (sGuarded_ok s g _ _ _ rfl hfit)
  · exact congrArg Host.Outcome.next (sGuarded_ok s g _ _ _ rfl hfit)
  · intro sl d s1 t hslide haligned hlink
    rw [exec_sCall hcore hfit hslide, doCall_links haligned hlink]
  · intro n s1 hlow hhigh hwindow
    rw [exec_sEnter hcore hfit hlow hhigh, hwindow]
  · intro s1 s2 ws hlinked hframe hread hwords haligned hstack hspills hwindow
    exact congrArg Host.Outcome.next ((sGuarded_core g _ hcore hfit rfl).trans
      (doRet_returns hlinked hframe hread hwords haligned hstack hspills hwindow))
  · intro sl s1 hcore hslide hlink
    rw [exec_sCallu hcore hfit hreads hclean haligned hslide, doCall_links haligned hlink]
  · intro hzero
    rw [exec_sLoop hsome hfit hreads hclean, if_pos hzero]
  · intro hcount hroom
    rw [exec_sLoop hsome hfit hreads hclean, if_neg hcount, if_neg (Nat.not_le.2 hroom)]

end Sys2Proof.Machine
end

section
/-! Barriers, fences and waits on a word (R148, R186, R204, R206, R361–R370). -/

namespace Sys2Proof.Machine

/-! ### Barriers -/

section
variable {s : State} {g : BitVec 3} (hcore : s.onKiln = false) (hfit : s.FitS g ⟨[], []⟩)
include hcore hfit

/-- R148: a barrier inside a pending path traps. -/
theorem barrierOp_pending (hpath : s.pathPending = true) (k : State → State) : s.barrierOp g k = s.raiseAll cConverge 9 s.g.exec :=
  (sGuarded_core g _ hcore hfit rfl).trans (if_pos hpath)

theorem barrierOp_apart (hpath : s.pathPending = false) (k : State → State) : s.barrierOp g k = k s :=
  (sGuarded_core g _ hcore hfit rfl).trans (if_neg (by simp [hpath]))

theorem exec_barrier_pending (hpath : s.pathPending = true) (b : BitVec 4) :
    exec (.sGbar g) s = .next (s.raiseAll cConverge 9 s.g.exec) ∧ exec (.sBar b g) s = .next (s.raiseAll cConverge 9 s.g.exec) ∧
    exec (.sArv b g) s = .next (s.raiseAll cConverge 9 s.g.exec) ∧ exec (.sAwt b g) s = .next (s.raiseAll cConverge 9 s.g.exec) :=
  have h := barrierOp_pending hcore hfit hpath
  ⟨congrArg Host.Outcome.next (h _), congrArg Host.Outcome.next (h _), congrArg Host.Outcome.next (h _), congrArg Host.Outcome.next (h _)⟩

section
variable (hpath : s.pathPending = false) (b : BitVec 4)
include hpath

theorem exec_sBar : exec (.sBar b g) s = .next (if !releaseReady s.g then s.hold .release
    else ((s.arriveBar b.toNat).hold (.bar b.toNat)).settleTeam) :=
  congrArg Host.Outcome.next (barrierOp_apart hcore hfit hpath _)

theorem exec_sArv : exec (.sArv b g) s = .next (if bit (s.bar b.toNat).armed s.g.idx then s.raiseAll cConverge 9 s.g.exec
    else if !releaseReady s.g then s.hold .release
    else (((s.arriveBar b.toNat).modBar b.toNat (fun x => { x with armed := x.armed ||| slotBit s.g.idx })).advance).settleTeam) :=
  congrArg Host.Outcome.next (barrierOp_apart hcore hfit hpath _)

theorem exec_sAwt : exec (.sAwt b g) s = .next (if !bit (s.bar b.toNat).armed s.g.idx then s.raiseAll cConverge 9 s.g.exec
    else if bit (s.bar b.toNat).arrived s.g.idx then (s.hold (.awt b.toNat)).settleTeam
    else (s.modBar b.toNat (fun x => { x with armed := x.armed &&& ~~~ slotBit s.g.idx })).advance) :=
  congrArg Host.Outcome.next (barrierOp_apart hcore hfit hpath _)

theorem exec_sGbar : exec (.sGbar g) s = .next (if field s.tm.mode.toNat 0 2 ≠ 0 then s.raiseAll cConverge 9 s.g.exec
    else if !releaseReady s.g then s.hold .release
    else (s.hold .gbar).settleTeam) :=
  congrArg Host.Outcome.next (barrierOp_apart hcore hfit hpath _)

end

end

/-! ### Fences -/

/-- R252: of the assigned orders all but acquire release, and all but release acquire. -/
theorem ordRel_eq : ∀ {o : BitVec 3}, 1 ≤ o.toNat → o.toNat ≤ 4 → ordRel o.toNat = decide (o ≠ 1) := by decide

theorem ordAcq_eq : ∀ {o : BitVec 3}, 1 ≤ o.toNat → o.toNat ≤ 4 → ordAcq o.toNat = decide (o ≠ 2) := by decide

section
variable {s : State} {g : BitVec 3} (hcore : s.onKiln = false) (hfit : s.FitS g ⟨[], []⟩)
include hcore hfit

/-- R367, R368: a fence of an assigned scope and order. -/
theorem exec_sFence {sc o : BitVec 3} (hscope : sc.toNat ≤ 5) (hlow : 1 ≤ o.toNat) (hhigh : o.toNat ≤ 4) :
    exec (.sFence sc o g) s = .next (if ordRel o.toNat && !releaseReady s.g then s.hold .release
      else if ordAcq o.toNat && !s.g.pset.isEmpty then s.hold (.fence false)
      else (if ordAcq o.toNat then s.acquireWide sc.toNat else s).advance) :=
  congrArg Host.Outcome.next (sGuarded_core g _ hcore hfit (by simp [hscope, hlow, hhigh]))

/-- R186, R206, R368: a fence with nothing to wait for completes, an acquiring one with its acquire. -/
theorem exec_sFence_performed {sc o : BitVec 3} (hscope : sc.toNat ≤ 5) (hlow : 1 ≤ o.toNat) (hhigh : o.toNat ≤ 4)
    (hrel : o ≠ 1 → releaseReady s.g = true) (hacq : o ≠ 2 → s.g.pset = []) :
    exec (.sFence sc o g) s = .next (if o = 2 then s else s.acquireWide sc.toNat).advance := by
  have hreleased : (ordRel o.toNat && !releaseReady s.g) = false := by
    rw [ordRel_eq hlow hhigh]
    by_cases h : o = 1
    · simp [h]
    · simp [hrel h]
  have hloaded : (ordAcq o.toNat && !s.g.pset.isEmpty) = false := by
    rw [ordAcq_eq hlow hhigh]
    by_cases h : o = 2
    · simp [h]
    · simp [hacq h]
  rw [exec_sFence hcore hfit hscope hlow hhigh, hreleased, hloaded, ordAcq_eq hlow hhigh]
  simp

end

/-! ### Waits on a word -/

/-- R283: the compare conditions on two values, each signed and unsigned. -/
def comparedBy (c : BitVec 3) (x y ux uy : Int) : Bool :=
  if c = 0 then decide (x = y) else if c = 1 then decide (x ≠ y) else if c = 2 then decide (x < y) else if c = 3 then decide (y ≤ x)
  else if c = 4 then decide (ux < uy) else if c = 5 then decide (uy ≤ ux) else if c = 6 then decide (x ≤ y) else decide (y < x)

theorem condOf_eq {w : Nat} (c : BitVec 3) (x y : BitVec w) : condOf c.toNat x y = comparedBy c x.toInt y.toInt x.toNat y.toNat := by
  match c with
  | 0 => simp [condOf, comparedBy, BitVec.toInt_inj, beq_eq_decide]
  | 1 => simp [condOf, comparedBy, BitVec.toInt_inj, bne, beq_eq_decide]
  | 2 => rfl
  | 3 => rfl
  | 4 => simp [condOf, comparedBy, BitVec.ult]
  | 5 => simp [condOf, comparedBy, BitVec.ule]
  | 6 => rfl
  | 7 => rfl

theorem condHolds_eq (c : BitVec 3) (wide : Bool) (xlo xhi ylo yhi : BitVec 32) : condHolds c wide xlo xhi ylo yhi =
    if wide then condOf c.toNat (xhi ++ xlo) (yhi ++ ylo) else condOf c.toNat xlo ylo := by
  cases wide
  · exact (condOf_eq c xlo ylo).symm
  · exact (condOf_eq c (xhi ++ xlo) (yhi ++ ylo)).symm

/-- R370: one look at words that pass: an acquire when the condition holds, else the wait with what is left of it. -/
theorem waitvLook_looks {s s2 : State} {x : XOk} {k : Nat} {ws : List Word}
    (hlook : ((List.range k).foldl (fun u i => u.ownFirst { x with pa := x.pa + 4 * i }) s).homeWords x k = (s2, ws))
    (hwords : ∀ w ∈ ws, w.checks = true ∧ w.isPoison = false) (hsound : s2.glitch = 0) (c : Nat) (val : List Word) (rem : Option Nat) :
    s.waitvLook x k c val rem =
      if (if k = 2 then condOf c (dat64 ws 0) (dat64 val 0) else condOf c (dat ws 0) (dat val 0)) then (s2.acquire 4).advance
      else s2.hold (.waitv rem) := by
  have hclean : ws.any Word.isPoison = false := List.any_eq_false.2 (fun w hw => by simp [(hwords w hw).2])
  have hchecks : ws.any (fun w => !w.checks) = false := List.any_eq_false.2 (fun w hw => by simp [(hwords w hw).1])
  simp only [State.waitvLook, hlook, hclean, hchecks, hsound, Bool.false_eq_true, if_false, ne_eq, not_true_eq_false]

/-- R369: one or two words are compared as the value that they hold. -/
theorem lookHolds_eq (s : State) (c : BitVec 3) (w : BitVec 1) (ws : List Word) (b : Nat) :
    (if w.toNat + 1 = 2 then condOf c.toNat (dat64 ws 0) (dat64 (s.sRun b (w.toNat + 1)) 0)
      else condOf c.toNat (dat ws 0) (dat (s.sRun b (w.toNat + 1)) 0)) =
    condHolds c (w = 1) (dat ws 0) (dat ws 1) (s.s b).data (s.s (b + 1)).data := by
  rw [condHolds_eq]
  match w with
  | 0 => simp [dat, nth_sRun]
  | 1 => simp [dat64, dat, nth_sRun]

/-- R370: the timeout of a wait: what is left of it, or the whole of its register when it begins. -/
def State.timeLeft (s : State) (t : BitVec 32) : Option Nat :=
  match s.g.wait with
  | .waitv r => r
  | _ => if t = 0 then none else some t.toNat

section
variable {s s1 : State} {d a b : BitVec 6} {w : BitVec 1} {c g : BitVec 3} (hcore : s.onKiln = false)
  (hfit : s.FitS g ⟨[], [(d.toNat, 1), (a.toNat, 2), (b.toNat, w.toNat + 1)]⟩) (hpath : s.pathPending = false)
include hcore hfit hpath

/-- R369: with no time left the wait raises STARVATION. -/
theorem exec_sWaitv_starved (hwait : s.g.wait = .waitv (some 0)) :
    exec (.sWaitv d a b w c g) s = .next (s.raiseAll cStarve 0 s.g.exec) := by
  refine congrArg Host.Outcome.next ((sGuarded_core g _ hcore hfit rfl).trans ?_)
  simp only [hpath, hwait, Bool.false_eq_true, if_false, if_true]

/-- R369, R370: a wait whose operands pass looks at its words: the condition holds, or it waits for the time that is left. -/
theorem exec_sWaitv_looks {s2 : State} {va : Nat} {p : Piece} {ps : List Piece} {ws : List Word} (haddr : s.uAddr a.toNat 0 = .ok va)
    (hloc : s.locate va (4 * (w.toNat + 1)) .load true = (s1, .ok (.memory (p :: ps)))) (haligned : va % (4 * (w.toNat + 1)) = 0)
    (hreads : s1.ReadsS [(d.toNat, 1), (b.toNat, w.toNat + 1)]) (hclean : s1.CleanS [(d.toNat, 1), (b.toNat, w.toNat + 1)])
    (hwait : s.g.wait ≠ .waitv (some 0))
    (hlook : ((List.range (w.toNat + 1)).foldl (fun u i => u.ownFirst { p.x with pa := p.x.pa + 4 * i })
      ({ s1 with g := { s1.g with waitI := (encode (.sWaitv d a b w c g)).getD 0 } } : State)).homeWords p.x (w.toNat + 1) = (s2, ws))
    (hwords : ∀ x ∈ ws, x.checks = true ∧ x.isPoison = false) (hsound : s2.glitch = 0) : exec (.sWaitv d a b w c g) s = .next (
      if condHolds c (w = 1) (dat ws 0) (dat ws 1) (s1.s b.toNat).data (s1.s (b.toNat + 1)).data then (s2.acquire 4).advance
      else s2.hold (.waitv (s.timeLeft (s1.s d.toNat).data))) := by
  have hpoison : (s1.s d.toNat).isPoison = false := clean_of_cleanS (i := 0) hclean List.mem_cons_self Nat.one_pos
  have htime : s1.sWords [⟨d.toNat, 3⟩] = .ok (s1.sRun d.toNat 1) := sWords_run hreads List.mem_cons_self 3
  have hvalue := sUse_run hreads hclean (List.mem_cons_of_mem _ List.mem_cons_self) 2 1
  refine congrArg Host.Outcome.next ((sGuarded_core g _ hcore hfit rfl).trans ?_)
  simp only [hpath, hwait, haddr, hloc, haligned, hpoison, htime, hvalue, List.head?_cons, Bool.false_eq_true, if_false, ne_eq,
    not_true_eq_false, waitvLook_looks hlook hwords hsound, lookHolds_eq]
  rfl

end

/-- Settles O25: each synchronising instruction by what it waits for. -/
theorem barriersFencesWaits : Obligations.BarriersFencesWaits := by
  unfold Obligations.BarriersFencesWaits
  intro s g hcore
  refine ⟨fun hfit hpath => ⟨fun b => ⟨fun hready => ?_, fun hready hunarmed => ?_, fun harmed => ?_⟩, fun hready hclass => ?_⟩,
    fun sc o hfit hscope hlow hhigh hrel hacq => ?_, ?_, fun d a b w c hfit hpath => exec_sWaitv_starved hcore hfit hpath⟩
  · simp only [exec_sBar hcore hfit hpath, hready, Bool.not_true, Bool.false_eq_true, if_false]
  · simp only [exec_sArv hcore hfit hpath, hready, hunarmed, Bool.not_true, Bool.false_eq_true, if_false]
  · simp only [exec_sAwt hcore hfit hpath, harmed, Bool.not_true, Bool.false_eq_true, if_false]
  · simp only [exec_sGbar hcore hfit hpath, hready, hclass, ne_eq, not_true_eq_false, Bool.not_true, Bool.false_eq_true, if_false]
  · exact exec_sFence_performed hcore hfit hscope hlow hhigh hrel hacq
  · intro d a b w c va p ps s1 s2 ws k hfit hpath haddr hloc haligned hreads hclean hwait hlook hwords hsound
    exact exec_sWaitv_looks hcore hfit hpath haddr hloc haligned hreads hclean hwait hlook hwords hsound

end Sys2Proof.Machine
end

section
/-! Where synchronising, privileged, special-register and control instructions trap (R127, R148, R150, R151, R160, R256, R259, R346, R355,
R361, R366, R367). -/

namespace Sys2Proof.Machine

open Sys2Proof.Laws

theorem coreOnly_illegal (s : State) {legal : Bool} (hlegal : legal = false) : s.coreOnly legal = false := by
  rw [State.coreOnly, hlegal, Bool.false_and]

/-! ### Fields that are illegal whatever the guard -/

section
variable (s : State) (g : BitVec 3)

theorem exec_sFence_illegal {sc o : BitVec 3} (h : 5 < sc.toNat ∨ o = 0 ∨ 4 < o.toNat) :
    exec (.sFence sc o g) s = .next (s.illegal s.g.exec) := by
  refine congrArg Host.Outcome.next (sGuarded_illegal_field g _ (coreOnly_illegal s ?_))
  rcases h with h | rfl | h
  · simp [h]
  · rfl
  · simp [h]

theorem exec_sSys_illegal {n : BitVec 6} (h : s.g.frame ≤ n.toNat) : exec (.sSys n g) s = .next (s.illegal s.g.exec) :=
  congrArg Host.Outcome.next (sGuarded_illegal_field g _ (coreOnly_illegal s (decide_eq_false (Nat.not_lt.2 h))))

theorem exec_sCall_illegal {sl : BitVec 6} (h : s.g.frame ≤ sl.toNat) (d : BitVec 16) :
    exec (.sCall sl d g) s = .next (s.illegal s.g.exec) :=
  congrArg Host.Outcome.next (sGuarded_illegal_field g _ (coreOnly_illegal s (decide_eq_false (Nat.not_lt.2 h))))

theorem exec_sEnter_illegal {n : BitVec 10} (h : n = 0 ∨ 64 < n.toNat) : exec (.sEnter n g) s = .next (s.illegal s.g.exec) := by
  refine congrArg Host.Outcome.next (sGuarded_illegal_field g _ (coreOnly_illegal s ?_))
  rcases h with rfl | h
  · rfl
  · simp [h]

theorem exec_sLoop_illegal (a : BitVec 6) : exec (.sLoop a 0 g) s = .next (s.illegal s.g.exec) :=
  congrArg Host.Outcome.next (sGuarded_illegal_field g _ rfl)

/-- R378: the k-instructions are a Kiln engine's alone. -/
theorem kilnOnly_core (hcore : s.onKiln = false) (k : State → Kiln → Cmd → State) : s.kilnOnly g k = s.illegal s.g.exec :=
  sGuarded_illegal_field g _ hcore

theorem kilnEmit_core (hcore : s.onKiln = false) (rerun : Bool) : s.kilnEmit g rerun = s.illegal s.g.exec :=
  (if_neg (by simp [hcore])).trans (kilnOnly_core s g hcore _)

theorem exec_sRds_illegal {a : BitVec 6} (h : specAssigned a.toNat = false) (d : BitVec 6) (v : BitVec 1) :
    exec (.sRds d a v g) s = .next (s.illegal s.g.exec) :=
  congrArg Host.Outcome.next (sPriv_illegal_field g _ _ (by simp [h]))

theorem exec_sWrs_illegal {a : BitVec 6} (h : specWritable a.toNat = false) (b : BitVec 6) :
    exec (.sWrs a b g) s = .next (s.illegal s.g.exec) :=
  congrArg Host.Outcome.next (sPriv_illegal_field g _ _ (coreOnly_illegal s h))

end

/-! ### Registers and frames that the mode or the frame stack refuses -/

section
variable {s : State} (g : BitVec 3) (hcore : s.onKiln = false)
include hcore

theorem exec_sRds_uniform_denied {d a : BitVec 6} (hassigned : specAssigned a.toNat = true) (hlane : specPerLane a.toNat = false)
    (hdenied : s.specDenied a.toNat = true) (hnames : s.namesOk ⟨[], [(d.toNat, if specWide a.toNat then 2 else 1)]⟩ = true) :
    exec (.sRds d a 0 g) s = .next (s.raiseAll cPriv 0 s.g.exec) := by
  refine congrArg Host.Outcome.next (sPriv_denied g _ ?_ hnames (by rw [hdenied]; rfl))
  simp [hassigned, specHere_core hcore, hlane]

theorem exec_sRds_lanes_denied {d a : BitVec 6} (hassigned : specAssigned a.toNat = true) (hdenied : s.specDenied a.toNat = true)
    (hnames : s.namesOk ⟨[(d.toNat, if specWide a.toNat then 2 else 1)], []⟩ = true) :
    exec (.sRds d a 1 g) s = .next (s.raiseAll cPriv 0 s.g.exec) := by
  refine congrArg Host.Outcome.next (sPriv_denied g _ ?_ hnames (by rw [hdenied]; rfl))
  simp [hassigned, specHere_core hcore, hcore]

theorem exec_sWrs_denied {a b : BitVec 6} (hwritable : specWritable a.toNat = true) (hdenied : s.writeDenied a.toNat = true)
    (hnames : s.namesOk ⟨[], [(b.toNat, if specWide a.toNat then 2 else 1)]⟩ = true) :
    exec (.sWrs a b g) s = .next (s.raiseAll cPriv 0 s.g.exec) :=
  congrArg Host.Outcome.next (sPriv_denied g _ ((coreOnly_core hcore _).trans hwritable) hnames (by rw [hdenied]; rfl))

end

section
variable {s : State} {g : BitVec 3} (hcore : s.onKiln = false)
include hcore

theorem exec_sTret (hfit : s.FitS g ⟨[], []⟩) (hmode : s.mode ≠ 0) : exec (.sTret g) s = .next s.doTret :=
  congrArg Host.Outcome.next (sPriv_ok s g _ _ _ _ (coreOnly_core hcore _) (by simpa using hmode) hfit)

theorem exec_sSys_idle {n : BitVec 6} (hfit : s.FitS g ⟨[], []⟩) (h : n.toNat < s.g.frame) (hidle : s.g.exec = 0) :
    exec (.sSys n g) s = .next s.advance :=
  congrArg Host.Outcome.next ((sGuarded_core g _ hcore hfit (decide_eq_true h)).trans (if_pos hidle))

/-- R346: `setfmt` of a register of 2^19 or more. -/
theorem exec_sSetfmt_illegal {a : BitVec 6} (hfit : s.FitS g ⟨[], [(a.toNat, 1)]⟩) (h : 2 ^ 19 ≤ (s.s a.toNat).data.toNat) :
    exec (.sSetfmt a g) s = .next (s.illegal s.g.exec) :=
  congrArg Host.Outcome.next ((sGuarded_core g _ hcore hfit rfl).trans (if_pos (.inr h)))

end

theorem doTret_no_frame {s : State} (h : s.g.priv.kdepth = 0) : s.doTret = s.illegal s.g.exec := if_pos h

theorem doTret_spilled {s : State} (hframe : s.g.priv.kdepth ≠ 0)
    (hspill : s.g.spill.toNat ≠ linkBase s.tm s.g.idx + s.g.priv.kframe.toNat + 256) : s.doTret = s.raiseAll cWindow 0 s.g.exec :=
  (if_neg hframe).trans (if_pos hspill)

theorem doCall_spilled {s : State} {t : Addr} {slide : Nat} (h : t.toNat % 4 = 0) (hlink : s.pushLink (s.g.pc + 4) slide = none) :
    s.doCall t slide = s.raiseAll cWindow 0 s.g.exec := by
  simp only [State.doCall, h, ne_eq, not_true_eq_false, if_false, hlink]

/-- Settles O59: barriers and fences by what they wait for, illegal fields and refused registers whatever the guard. -/
theorem waitsAndTraps : Obligations.WaitsAndTraps := by
  unfold Obligations.WaitsAndTraps
  intro s g hcore e illegal traps
  refine ⟨fun hfit => ⟨fun hpath => ?_, fun hpath => ⟨fun hclass => ?_, fun b => ⟨fun harmed => ?_, fun hunarmed => ?_⟩,
        fun hbusy => ⟨fun hclass => ?_, fun b => ⟨?_, fun hunarmed => ?_⟩⟩⟩,
      fun sc o => ⟨exec_sFence_illegal s g, fun hscope hlow hhigh hbusy => ?_, fun hscope hpset => ?_⟩,
      fun n => ⟨exec_sSys_illegal s g, exec_sSys_idle hcore hfit⟩,
      fun hmode => ⟨fun hdepth => ?_, fun hdepth hspill => ?_⟩,
      fun n => ⟨exec_sEnter_illegal s g, fun hsome hhigh hwindow => ?_⟩,
      fun sl d => ⟨fun h => exec_sCall_illegal s g h d, fun hslide haligned hlink => ?_⟩, ?_, ?_, ?_, ?_⟩,
    fun a hfit hreads hclean => ⟨exec_sLoop_illegal s g a, fun n hsome hcount hfull => ?_, exec_sSetfmt_illegal hcore hfit⟩,
    fun d a b v => ⟨fun h => exec_sRds_illegal s g h d v, fun h => exec_sWrs_illegal s g h b, exec_sRds_uniform_denied g hcore,
      exec_sRds_lanes_denied g hcore, exec_sWrs_denied g hcore⟩⟩
  · exact ⟨(exec_barrier_pending hcore hfit hpath 0).1, fun b => (exec_barrier_pending hcore hfit hpath b).2⟩
  · rw [exec_sGbar hcore hfit hpath, if_pos hclass]
  · rw [exec_sArv hcore hfit hpath, if_pos harmed]
  · rw [exec_sAwt hcore hfit hpath, if_pos (by simp [hunarmed])]
  · simp only [exec_sGbar hcore hfit hpath, hclass, hbusy, ne_eq, not_true_eq_false, Bool.not_false, if_false, if_true]
  · simp only [exec_sBar hcore hfit hpath, hbusy, Bool.not_false, if_true]
  · simp only [exec_sArv hcore hfit hpath, hunarmed, hbusy, Bool.false_eq_true, Bool.not_false, if_false, if_true]
  · have hrel : o ≠ 1 := by rintro rfl; exact absurd hlow (by decide)
    rw [exec_sFence hcore hfit hscope (Nat.le_of_succ_le hlow) hhigh, if_pos (by simpa [ordRel_eq (Nat.le_of_succ_le hlow) hhigh, hbusy] using hrel)]
  · rw [exec_sFence hcore hfit hscope (by decide) (by decide), if_neg (by simp [ordRel]), if_pos (by simpa [ordAcq] using hpset)]
  · rw [exec_sTret hcore hfit hmode, doTret_no_frame hdepth]
    rfl
  · rw [exec_sTret hcore hfit hmode, doTret_spilled hdepth hspill]
  · rw [exec_sEnter hcore hfit (Nat.pos_of_ne_zero fun h => hsome (BitVec.eq_of_toNat_eq h)) hhigh, hwindow]
  · rw [exec_sCall hcore hfit hslide, doCall_spilled haligned hlink]
  · exact congrArg Host.Outcome.next (kilnEmit_core s g hcore false)
  · exact congrArg Host.Outcome.next (kilnEmit_core s g hcore true)
  · exact congrArg Host.Outcome.next (kilnOnly_core s g hcore _)
  · exact congrArg Host.Outcome.next (kilnOnly_core s g hcore _)
  · rw [exec_sLoop hsome hfit hreads hclean, if_neg hcount, if_pos hfull]

end Sys2Proof.Machine
end

section
/-! The arrival of a pending result whose words all pass (R132, R135, R294, R310). -/

namespace Sys2Proof.Machine

/-- No trap is due, so none is taken. -/
theorem takeDue_none {s : State} (h : s.g.due = none) : s.takeDue = s := by
  simp only [State.takeDue, h]

theorem setVAt_g (s : State) (wb : BitVec 16) (n l : Nat) (w : Word) : (s.setVAt wb n l w).g = s.g := by
  unfold State.setVAt
  split_ifs <;> rfl

/-- Writing a result makes no trap due. -/
theorem putResult_due {s : State} (h : s.g.due = none) (e : Pend) (lane : Nat) (ws : List Word) : (s.putResult e lane ws).g.due = none := by
  unfold State.putResult
  split
  · exact foldl_keeps (fun t : State => t.g.due = none) _ (fun t w ht => by rw [setVAt_g, ht]) _ s h
  · exact (congrArg (·.g.due) (setSs_eq ..)).trans h
  · exact h
  · exact h

/-- R310: the words of a pending entry are written where they were named at its issue. -/
def State.stored (s : State) (e : Pend) : State :=
  e.lanes.foldl (fun u l => u.putResult e l.lane ((assembled l).map (fun w => w.getD Word.poison))) s

theorem stored_due {s : State} (h : s.g.due = none) (e : Pend) : (s.stored e).g.due = none :=
  foldl_keeps (fun t : State => t.g.due = none) _ (fun _ l ht => putResult_due ht e l.lane _) _ s h

/-- R132: an entry leaves the pending set. -/
def State.unpend (s : State) (id : Nat) : State := { s with g := { s.g with pset := s.g.pset.filter (fun p => p.id != id) } }

theorem unpend_due {s : State} (h : s.g.due = none) (id : Nat) : (s.unpend id).g.due = none := h

section
variable {s : State} {r : GroupRef} {id : Nat} {vr1 : Bool} {e : Pend} (hfocus : s.focus = .group r)
  (hfind : s.g.pset.find? (fun p => p.id == id && p.vr1 == vr1 && p.complete) = some e) (hdue : s.g.due = none)
include hfocus hfind hdue

/-- R135: a result whose words pass leaves the pending set; a group that waited for it completes its load. -/
theorem arrive_passes (hdest : ∀ k, e.dest ≠ .check k) (hwords : ∀ l ∈ e.lanes, ∀ w ∈ assembled l, w.isSome = true) :
    s.arrive r id vr1 = if s.g.wait = .load id then ((s.unpend id).stored e).advance else (s.unpend id).stored e := by
  have hpass : ∀ l ∈ e.lanes, (assembled l).any Option.isNone = false := fun l hl =>
    List.any_eq_false.2 (fun w hw => by simp [Option.isSome_iff_ne_none.1 (hwords l hl w hw)])
  have hbad : (e.lanes.map (fun l => (l.lane, assembled l))).filter (fun o => o.2.any Option.isNone) = [] :=
    by
    rw [List.filter_map]
    exact congrArg (List.map _) (List.filter_eq_nil_iff.2 (fun l hl => Bool.eq_false_iff.1 (hpass l hl)))
  have hstored : (e.lanes.map (fun l => (l.lane, assembled l))).foldl (fun u o =>
      if e.la = 0 && o.2.any Option.isNone then u else u.putResult e o.1 (o.2.map (fun w => w.getD Word.poison)))
      (s.unpend id) = (s.unpend id).stored e := by
    rw [List.foldl_map]
    exact List.foldl_ext _ _ _ (fun u l hl => if_neg (by simp [hpass l hl]))
  have hnone : ((s.unpend id).stored e).g.due = none := stored_due (unpend_due hdue id) e
  rw [State.arrive, inGroup_focused hfocus]
  simp only [hfind]
  refine (if_neg Bool.false_ne_true).trans ?_
  rw [← State.unpend]
  simp only [hbad, hstored, hnone, takeDue_none hnone, List.isEmpty_nil, if_true]

/-- R338: the words of a `tcheck` are kept as they came, whether they pass or not. -/
theorem arrive_check {k : Nat} (hdest : e.dest = .check k) : s.arrive r id vr1 =
    (s.unpend id).putResult e uniLane (e.lanes.flatMap (fun l => l.words.map (fun n => n.got.getD Word.poison))) := by
  rw [State.arrive, inGroup_focused hfocus]
  simp only [hfind]
  refine (if_pos ?_).trans (takeDue_none (putResult_due (unpend_due hdue id) e uniLane _))
  rw [hdest]

end

/-- Settles O29: by the destination of the entry that arrives. -/
theorem loadArrival : Obligations.LoadArrival := by
  unfold Obligations.LoadArrival
  intro s r id vr1 e hfocus hfind hdue s0 t
  refine ⟨fun hdest hwords => ⟨?_, ?_⟩, fun k hdest => ?_⟩
  · rintro rfl
    exact congrArg Host.Outcome.next (arrive_passes hfocus hfind hdue hdest hwords)
  · rintro rfl
    exact congrArg Host.Outcome.next (arrive_passes hfocus hfind hdue hdest hwords)
  · rintro rfl
    exact congrArg Host.Outcome.next (arrive_check hfocus hfind hdue hdest)

end Sys2Proof.Machine
end

section
/-! Loads from memory, and the scratchpad's loads and stores, whose lanes all pass (R132, R135, R183, R224, R306–R310, R313, R320). -/

namespace Sys2Proof.Machine

open Sys2Proof.Laws

/-! ### Accesses whose lanes all pass -/

theorem locateAll_keys (addr : State → Nat → Except LaneFail Nat) (extra : LaneCheck) (n : Nat) (k : Kind) (aligned : Bool) (ls : List Nat) :
    ∀ s : State, (s.locateAll addr extra n k aligned ls).2.map (·.1) = ls := by
  induction ls with
  | nil => exact fun _ => rfl
  | cons l ls ih => exact fun s => congrArg (List.cons l) (ih _)

theorem memTrap_none (s : State) : s.memTrap [] = none := rfl

section
variable {s s1 s2 : State} {good : List (Nat × Nat × Target)} {ns : List PendLane} {n : Nat}

/-- Located lanes are the lanes of the access, in their order. -/
theorem passes_keys {addr : State → Nat → Except LaneFail Nat} {extra : LaneCheck} {k : Kind} {aligned : Bool} {ls : List Nat}
    (h : s.Passes addr extra n k aligned ls s1 good) : (good.map (fun x => (x.1, Except.ok (ε := LaneFail) x.2))).map (·.1) = ls := by
  rw [← locateAll_keys addr extra n k aligned ls s, h]

/-- R310: a load whose lanes all pass sends its reads, and opens a window for the lanes that have any. -/
theorem doLoad_passes (h : s.startLoads n good = some (s2, ns)) (dest : Dest) (la : Nat) :
    s.doLoad dest la n (good.map (fun x => (x.1, .ok x.2))) =
      if ns.isEmpty then ({ s2 with glitch := 0 } : State).advance else ({ s2 with glitch := 0 } : State).openWindow dest la false ns := by
  simp only [State.doLoad, goodLanes_ok, lostOf_ok, h, memTrap_none]

theorem exec_vLd {z p : BitVec 3} {t a b : BitVec 6} {la : BitVec 4} (hz : z.toNat ≤ 4)
    (hfit : s.FitV p ((addrNames a.toNat b.toNat).add ⟨[(t.toNat, regsOf (2 ^ z.toNat))], []⟩)) (hroom : psetSize s.g + regsOf (2 ^ z.toNat) ≤ 8)
    (hpass : s.Passes (fun s l => s.vAddr a.toNat b.toNat l) noExtra (2 ^ z.toNat) .load false (lanesOf (s.act p.toNat).lanes) s1 good) :
    exec (.vLd z t a b la p) s = .next (s1.doLoad (.lane t.toNat (regsOf (2 ^ z.toNat))) la.toNat (2 ^ z.toNat)
      (good.map (fun x => (x.1, .ok x.2)))) := by
  have hkeys := passes_keys hpass
  unfold State.Passes at hpass
  refine congrArg Host.Outcome.next ((vGuarded_fit _ _ hfit (decide_eq_true hz)).trans ?_)
  simp only [Nat.not_lt.2 hroom, if_false, hpass, hfit.guarded, byLane_lanesOf hkeys]

/-- R89, R320: a uniform load; a prologue's waits for the accesses before it. -/
theorem exec_sSld {t a : BitVec 6} {z : BitVec 2} {o la : BitVec 4} {g : BitVec 3} (hz : z.toNat < 3)
    (hfit : s.FitS g ⟨[], [(a.toNat, 2), (t.toNat, 4 * 2 ^ z.toNat / 4)]⟩) (hroom : psetSize s.g + 4 * 2 ^ z.toNat / 4 ≤ 8)
    (horder : s.onKiln = true → releaseReady s.g = true)
    (hpass : s.Passes (fun s _ => s.uAddr a.toNat (o.toNat * (4 * 2 ^ z.toNat))) noExtra (4 * 2 ^ z.toNat) .load true [uniLane] s1 good) :
    exec (.sSld t a z o la g) s = .next (s1.doLoad (.uniform t.toNat (4 * 2 ^ z.toNat / 4)) la.toNat (4 * 2 ^ z.toNat)
      (good.map (fun x => (x.1, .ok x.2)))) := by
  have hready : (s.onKiln && !releaseReady s.g) = false := by
    cases hkiln : s.onKiln
    · rfl
    · simp [horder hkiln]
  unfold State.Passes at hpass
  refine congrArg Host.Outcome.next ((sGuarded_ok s g _ _ _ (decide_eq_true hz) hfit).trans ?_)
  simp only [State.inOrder, hready, Bool.false_eq_true, Nat.not_lt.2 hroom, if_false, hpass]

end

/-- Settles O19: a load locates its lanes and opens the window of those it reads. -/
theorem globalLoads : Obligations.GlobalLoads := by
  unfold Obligations.GlobalLoads
  intro s s1 s2 good ns
  refine ⟨?_, ?_⟩
  · intro z t a b la p hz n hfit hroom hpass hstart
    refine ⟨fun hnone => ?_, fun hsome => ?_⟩
    · rw [exec_vLd hz hfit hroom hpass, doLoad_passes hstart, hnone]
      rfl
    · rw [exec_vLd hz hfit hroom hpass, doLoad_passes hstart, if_neg (by simpa using hsome)]
  · intro t a z o la g x tg hz n hfit hroom hsome horder hpass hstart
    rw [exec_sSld hz hfit hroom horder hpass, doLoad_passes hstart, if_neg (by simpa using hsome)]

end Sys2Proof.Machine
end

section
/-! The scratchpad: loads captured at issue, and stores in ascending lane order (R132, R183, R203, R224, R313). -/

namespace Sys2Proof.Machine

/-! ### Scratchpad accesses -/

theorem scrWrite_v (s : State) (key idx : Nat) (m : BitVec 4) (w : Word) (n l : Nat) : (s.scrWrite key idx m w).v n l = s.v n l := by
  unfold State.scrWrite State.modTeam
  split_ifs <;> rfl

/-- R183, R313: one lane's store writes the named bytes of its words, one scratchpad word after another. -/
def State.scrPut (s : State) (x : ScrAt) (n : Nat) (ws : List Word) : State :=
  (List.range (regsOf n)).foldl (fun u i =>
    let m := byteMask x.2 n ((x.2 / 4 + i) * 4)
    u.scrWrite x.1 (x.2 / 4 + i) m (pieceData ws (x.2 % 4) i m)) s

theorem scrPut_v (s : State) (x : ScrAt) (m : Nat) (ws : List Word) (n l : Nat) : (s.scrPut x m ws).v n l = s.v n l :=
  foldl_keeps (fun u : State => u.v n l = s.v n l) _ (fun u _ hu => (scrWrite_v u ..).trans hu) _ s rfl

/-- A fold whose steps agree on the states it goes through. -/
theorem foldl_agree {α β : Type} {P : β → Prop} {f g : β → α → β} (hagree : ∀ b a, P b → f b a = g b a) (hkeeps : ∀ b a, P b → P (g b a))
    (l : List α) : ∀ {b : β}, P b → l.foldl f b = l.foldl g b := by
  induction l with
  | nil => exact fun _ => rfl
  | cons a l ih => exact fun h => (congrArg (l.foldl f) (hagree _ a h)).trans (ih (hkeeps _ a h))

/-- The lanes' stores write the words that the lanes' registers held at issue: a scratchpad write changes no register. -/
theorem foldl_scrPut (s : State) (at_ : Nat → ScrAt) (t n : Nat) (ls : List Nat) :
    ls.foldl (fun u l => u.scrPut (at_ l) n (State.vDataWords t (regsOf n) u l)) s =
    ls.foldl (fun u l => u.scrPut (at_ l) n (s.vRun t (regsOf n) l)) s :=
  foldl_agree (P := fun u => ∀ n l, u.v n l = s.v n l)
    (fun u l hu => congrArg (u.scrPut (at_ l) n) (List.map_congr_left (fun i _ => hu (t + i) l)))
    (fun u _ hu m k => (scrPut_v u ..).trans (hu m k)) ls (fun _ _ => rfl)

/-- Lanes that all pass, each with its place, and no lane with a faulty guard. -/
theorem byLane_passes {α : Type} {m : BitVec 32} {f : Nat → Except LaneFail α} {g : Nat → α} (h : ∀ l ∈ lanesOf m, f l = .ok (g l)) :
    byLane ((lanesOf m).map (fun l => (l, f l))) (faultyLanes 0) = ((lanesOf m).map (fun l => (l, g l))).map (fun r => (r.1, .ok r.2)) := by
  rw [byLane_lanesOf (m := m) (by simp [Function.comp_def]), List.map_map]
  exact List.map_congr_left (fun l hl => congrArg (Prod.mk l) (h l hl))

section
variable {s : State} {at_ : Nat → ScrAt} {t a : BitVec 6} {p : BitVec 3} (cl : Bool)

/-- R313: a load captures its words at issue. -/
theorem vScrLoad_passes {z : BitVec 2} {o la : BitVec 4} (hz : z.toNat < 3)
    (hfit : s.FitV p ⟨[(a.toNat, 1), (t.toNat, 4 * 2 ^ z.toNat / 4)], []⟩) (hroom : psetSize s.g + 4 * 2 ^ z.toNat / 4 ≤ 8)
    (hsome : (s.act p.toNat).lanes ≠ 0)
    (haddr : ∀ l, s.active p l → s.scrAddr cl false a.toNat o.toNat (4 * 2 ^ z.toNat) l = .ok (at_ l)) : vScrLoad cl t a z o la p s =
      s.openWindow (.lane t.toNat (4 * 2 ^ z.toNat / 4)) la.toNat false ((lanesOf (s.act p.toNat).lanes).map (fun l =>
        ⟨l, 0, 4 * 2 ^ z.toNat, (List.range (4 * 2 ^ z.toNat / 4)).map (fun i => ⟨0, 0, some (s.scrWord (at_ l).1 ((at_ l).2 / 4 + i))⟩)⟩)) := by
  have hlanes : lanesOf (s.act p.toNat).lanes ≠ [] := fun h => hsome (by rw [← maskOf_lanesOf (s.act p.toNat).lanes, h, maskOf_nil])
  unfold vScrLoad
  refine (vGuarded_fit _ _ hfit (decide_eq_true hz)).trans ?_
  simp only [Nat.not_lt.2 hroom, if_false, hfit.guarded, glitch_cleared hfit.sound]
  rw [byLane_passes haddr]
  simp only [goodLanes_ok, lostOf_ok, memTrap_none]
  rw [List.map_map]
  exact if_neg (by simpa using hlanes)

/-- R313: a store whose words no pending job reads writes each lane's bytes and completes. -/
theorem vScrStore_passes {o : BitVec 6} {z : BitVec 3} (hz : z.toNat ≤ 4)
    (hfit : s.FitV p ⟨[(a.toNat, 1), (t.toNat, regsOf (2 ^ z.toNat))], []⟩) (hreads : s.ReadsV p [(t.toNat, regsOf (2 ^ z.toNat))])
    (hfree : ∀ l, s.active p l → s.scrHeld (at_ l).1 (at_ l).2 (2 ^ z.toNat) = false)
    (haddr : ∀ l, s.active p l → s.scrAddr cl true a.toNat o.toNat (2 ^ z.toNat) l = .ok (at_ l)) : vScrStore cl t a o z p s =
      ((lanesOf (s.act p.toNat).lanes).foldl (fun u l =>
        u.scrPut (at_ l) (2 ^ z.toNat) (s.vRun t.toNat (regsOf (2 ^ z.toNat)) l)) s).advance := by
  have hdata : ∀ l, s.active p l → s.vDataBad t.toNat (regsOf (2 ^ z.toNat)) l = none := fun l hl => by
    rw [State.vDataBad, State.vData, ← srcs, srcWords_run hreads hl List.mem_cons_self]
  have hheld : ((lanesOf (s.act p.toNat).lanes).map (fun l => (l, at_ l))).any (fun x => s.scrHeld x.2.1 x.2.2 (2 ^ z.toNat)) = false :=
    List.any_eq_false.2 (fun x hx => by
      obtain ⟨l, hl, rfl⟩ := List.mem_map.1 hx
      exact Bool.eq_false_iff.1 (hfree l hl))
  unfold vScrStore
  refine (vGuarded_fit _ _ hfit (decide_eq_true hz)).trans ?_
  simp only [hfit.guarded, glitch_cleared hfit.sound]
  rw [byLane_passes (g := at_) (fun l hl => by rw [haddr l hl, hdata l hl])]
  simp only [goodLanes_ok, lostOf_ok, hheld, Bool.false_eq_true, if_false, memTrap_none, List.foldl_map]
  exact congrArg State.advance (foldl_scrPut s at_ t.toNat (2 ^ z.toNat) _)

end

/-- Settles O22: the own and the cluster forms are one access at two places. -/
theorem scratchpad : Obligations.Scratchpad := by
  unfold Obligations.Scratchpad
  intro s at_
  refine ⟨fun t a z o la p hz hfit hroom hsome => ⟨fun haddr => ?_, fun haddr => ?_⟩,
    fun t a o z p hz hfit hreads hfree => ⟨fun haddr => ?_, fun haddr => ?_⟩⟩
  · exact congrArg Host.Outcome.next (vScrLoad_passes false hz hfit hroom hsome haddr)
  · exact congrArg Host.Outcome.next (vScrLoad_passes true hz hfit hroom hsome haddr)
  · exact congrArg Host.Outcome.next (vScrStore_passes false hz hfit hreads hfree haddr)
  · exact congrArg Host.Outcome.next (vScrStore_passes true hz hfit hreads hfree haddr)

end Sys2Proof.Machine
end

section
/-! Lane control flow: divergent and uniform branches, indirect transfers, landing pads and exits (R124, R137–R142, R146, R147,
R352–R354, R357). -/

namespace Sys2Proof.Machine

open Sys2Proof.Laws

/-! ### Branches -/

/-- The other groups of the level that wait at a `bd` (R138). -/
def State.meeting (s : State) : List (Nat × Group) := (levelGroups s.mergedTeam).filter (fun q => atMeet q.2 && q.1 != s.g.idx)

theorem bd_legal {t j : BitVec 11} (ht : t ≠ 0) (hj : 0 < j.toInt) : (t != 0 && decide ((0 : Int) < j.toInt)) = true := by
  simpa [hj] using ht

section
variable {s : State} {c : BitVec 3} (hcore : s.onKiln = false)
include hcore

section
variable (hrails : (s.predLanes c.toNat).faulty = 0)
include hrails

/-- R352: a uniform branch, taken by every lane or by none. -/
theorem exec_vBu {d : BitVec 22} (huniform : (s.predLanes c.toNat).lanes = 0 ∨ (s.predLanes c.toNat).lanes = s.baseLanes) :
    exec (.vBu c d) s = .next (if (s.predLanes c.toNat).lanes = 0 then s.advance
      else s.transfer (s.g.pc + 4 * d.signExtend 64) (popLoops (s.g.pc + 4 * d.signExtend 64) s.g.loops)) := by
  have hsame : ¬ ((s.predLanes c.toNat).lanes ≠ 0 ∧ (s.predLanes c.toNat).lanes ≠ s.baseLanes) := fun h => huniform.elim h.1 h.2
  refine congrArg Host.Outcome.next ((vGuarded_passes _ _ hcore rfl rfl rfl).trans ?_)
  simp only [hrails, or_zero32, hsame, if_false, ne_eq, not_true_eq_false]

section
variable {t j : BitVec 11} (ht : t ≠ 0) (hj : 0 < j.toInt)
include ht hj

/-- R142, R353: a branch in group mode; lanes that differ wait in a sub-entry for those that take it. -/
theorem exec_vBd_group (hgroup : s.tm.compact = false) : exec (.vBd c t j) s = .next (
    if (s.predLanes c.toNat).lanes = 0 then s.advance
    else if (s.predLanes c.toNat).lanes = s.baseLanes then
      s.transfer (s.g.pc + 4 * t.signExtend 64) (popLoops (s.g.pc + 4 * t.signExtend 64) s.g.loops)
    else (s.pushSub (s.newSub (s.g.pc + 4 * j.signExtend 64) (s.g.pc + 4) (s.g.exec &&& ~~~ (s.predLanes c.toNat).lanes) false)).elim
      (s.raiseAll cWindow 0 s.baseLanes) (fun s1 => ({ s1 with g := { s1.g with exec := (s.predLanes c.toNat).lanes } } : State).transfer
        (s.g.pc + 4 * t.signExtend 64) (popLoops (s.g.pc + 4 * t.signExtend 64) s.g.loops))) := by
  refine congrArg Host.Outcome.next ((vGuarded_passes _ _ hcore (bd_legal ht hj) rfl rfl).trans ?_)
  simp only [hgroup, hrails, or_zero32, Bool.false_eq_true, if_false, ne_eq, not_true_eq_false]
  by_cases hnone : (s.predLanes c.toNat).lanes = 0
  · simp only [hnone, not_true_eq_false, false_and, if_false, if_true]
  by_cases hall : (s.predLanes c.toNat).lanes = s.baseLanes
  · simp only [hall, not_true_eq_false, and_false, false_and, if_false, if_true]
  cases s.pushSub (s.newSub (s.g.pc + 4 * j.signExtend 64) (s.g.pc + 4) (s.g.exec &&& ~~~ (s.predLanes c.toNat).lanes) false) with
  | none => simp only [hnone, hall, not_false_eq_true, Option.isNone_none, and_self, if_true, if_false, Option.elim_none]
  | some s1 => simp only [hnone, hall, Option.isNone_some, Bool.false_eq_true, and_false, if_false, Option.elim_some]

/-- R138: in compact mode a settled group with all its lanes enabled waits at the meeting. -/
theorem exec_vBd_meets (hcompact : s.tm.compact = true)
    (hsame : ∀ q ∈ s.meeting, q.2.pc = s.g.pc ∧ q.2.fmt = s.g.fmt ∧ q.2.wb = s.g.wb ∧ q.2.frame = s.g.frame ∧ q.2.loops = s.g.loops)
    (hfull : s.g.exec = s.g.bind) (hsettled : s.settled = true) : exec (.vBd c t j) s =
      .next (({ s with g := { s.g with waitI := (encode (.vBd c t j)).getD 0 } } : State).hold .meet).settleTeam := by
  have hpc : s.meeting.any (fun q => q.2.pc != s.g.pc) = false :=
    List.any_eq_false.2 (fun q hq => by simp [(hsame q hq).1])
  have hrest : s.meeting.any (fun q => q.2.fmt != s.g.fmt || q.2.wb != s.g.wb || q.2.frame != s.g.frame || q.2.loops != s.g.loops) = false :=
    List.any_eq_false.2 (fun q hq => by
      obtain ⟨-, hfmt, hwb, hframe, hloops⟩ := hsame q hq
      simp [hfmt, hwb, hframe, hloops])
  refine congrArg Host.Outcome.next ((vGuarded_passes _ _ hcore (bd_legal ht hj) rfl rfl).trans ?_)
  unfold State.meeting at hpc hrest
  simp only [hcompact, hpc, hrest, hfull, hrails, hsettled, Bool.not_true, Bool.false_eq_true, if_false, if_true, ne_eq, not_true_eq_false]

end

end

/-- R138, R141: in compact mode groups that wait at another `bd` trap. -/
theorem exec_vBd_elsewhere {t j : BitVec 11} (ht : t ≠ 0) (hj : 0 < j.toInt) (hcompact : s.tm.compact = true) (hother : ∃ q ∈ s.meeting, q.2.pc ≠ s.g.pc) :
    exec (.vBd c t j) s = .next (s.convTrap (s.meeting.map (·.1) ++ [s.g.idx]) 1) := by
  have hany : s.meeting.any (fun q => q.2.pc != s.g.pc) = true := List.any_eq_true.2 (by simpa using hother)
  refine congrArg Host.Outcome.next ((vGuarded_passes _ _ hcore (bd_legal ht hj) rfl rfl).trans ?_)
  simp only [hcompact, if_true]
  exact if_pos hany

end

/-- R137: a sub-entry that the group holds in hardware is pushed without an access. -/
theorem pushSub_held {s : State} {e : Sub} (h : s.g.subs.length < subHw s.tm) :
    s.pushSub e = some { s with g := { s.g with subs := e :: s.g.subs } } := by
  have hroom : ¬ s.g.subs.length ≥ subCap s.tm := Nat.not_le.2 (h.trans_le (Nat.le_add_right _ _))
  simp only [State.pushSub, hroom, State.syncSub, h, if_true, if_false]

/-! ### Indirect transfers -/

/-- Insertion keeps a rising list rising. -/
theorem insertNat_rising {x : Nat} {l : List Nat} (h : l.Pairwise (· < ·)) : (insertNat x l).Pairwise (· < ·) := by
  induction l with
  | nil => exact List.pairwise_singleton _ x
  | cons y r ih =>
    obtain ⟨hy, hr⟩ := List.pairwise_cons.1 h
    unfold insertNat
    split_ifs with hlt heq
    · exact List.pairwise_cons.2 ⟨List.forall_mem_cons.2 ⟨hlt, fun z hz => hlt.trans (hy z hz)⟩, h⟩
    · exact h
    · refine List.pairwise_cons.2 ⟨fun z hz => ?_, ih hr⟩
      rcases mem_insertNat.1 hz with rfl | hz
      · omega
      · exact hy z hz

theorem sortNat_rising (l : List Nat) : (sortNat l).Pairwise (· < ·) := by
  induction l with
  | nil => exact List.Pairwise.nil
  | cons x l ih => exact insertNat_rising ih

theorem mem_sortNat {x : Nat} {l : List Nat} : x ∈ sortNat l ↔ x ∈ l := by
  induction l with
  | nil => rfl
  | cons y l ih => rw [show sortNat (y :: l) = insertNat y (sortNat l) from rfl, mem_insertNat, ih, List.mem_cons]

/-- A sorted list begins with the least number, and goes on when there is another. -/
theorem sortNat_least {x : Nat} {l : List Nat} (hx : x ∈ l) (hleast : ∀ y ∈ l, x ≤ y) :
    ∃ more, sortNat l = x :: more ∧ (!more.isEmpty) = l.any (· != x) := by
  have hrising := sortNat_rising l
  cases hl : sortNat l with
  | nil => exact absurd (mem_sortNat.2 hx) (by simp [hl])
  | cons y more =>
    rw [hl] at hrising
    obtain ⟨hy, -⟩ := List.pairwise_cons.1 hrising
    have hmem : ∀ z, z ∈ l ↔ z = y ∨ z ∈ more := fun z => by rw [← mem_sortNat, hl, List.mem_cons]
    obtain rfl : x = y := by
      rcases (hmem x).1 hx with h | h
      · exact h
      · exact absurd (hleast y ((hmem y).2 (.inl rfl))) (Nat.not_le.2 (hy x h))
    refine ⟨more, rfl, Bool.eq_iff_iff.2 ?_⟩
    simp only [Bool.not_eq_true', List.isEmpty_eq_false_iff_exists_mem, List.any_eq_true, bne_iff_ne]
    constructor
    · rintro ⟨z, hz⟩
      exact ⟨z, (hmem z).2 (.inr hz), (hy z hz).ne'⟩
    · rintro ⟨z, hz, hne⟩
      exact ⟨z, ((hmem z).1 hz).resolve_left hne⟩

theorem indirect_idle {s : State} (h : s.g.exec = 0) (a : Nat) (tag : BitVec 8) (join : Addr) (slide : Option Nat) :
    s.indirect a tag join slide = s.transfer join (popLoops join s.g.loops) := if_pos h

theorem failLanes_nil (c : Nat) : failLanes [] c = 0 := rfl

theorem indirectFail_none (s : State) (lt : BitVec 32) : s.indirectFail [] lt false = none := by
  simp [State.indirectFail, failLanes_nil]

/-- R147: a target whose word is a landing pad shows its tag. -/
theorem padAt_pad {s s1 : State} {t : Nat} {w : Word} {tag : BitVec 8} (hfetch : s.fetchAt t = (s1, .ok w)) (hchecks : w.checks = true)
    (hclean : w.isPoison = false) (hpad : decode w.data = .ok (.vPad tag)) : s.padAt t = (s1, .tag (some tag)) := by
  simp only [State.padAt, hfetch, hchecks, hclean, hpad, Bool.not_true, Bool.or_self, Bool.false_eq_true, if_false]

/-- The lanes with the lowest target, and whether others have another. -/
def State.lowest (s : State) (f : Nat → Nat) (tgt : Nat) : BitVec 32 := maskOf ((lanesOf s.baseLanes).filter (fun l => f l == tgt))
def State.differ (s : State) (f : Nat → Nat) (tgt : Nat) : Bool := (lanesOf s.baseLanes).any (fun l => f l != tgt)

/-- R147: lanes whose targets read go to the lowest one when its pad has their tag; in compact mode targets that differ trap. -/
theorem indirect_aimed {s s1 : State} {a tgt : Nat} {tag : BitVec 8} {f : Nat → Nat} (hsome : s.g.exec ≠ 0)
    (hread : ∀ l ∈ lanesOf s.baseLanes, s.laneTarget a l = .ok (f l)) (hmem : ∃ l ∈ lanesOf s.baseLanes, f l = tgt)
    (hleast : ∀ l ∈ lanesOf s.baseLanes, tgt ≤ f l)
    (hpad : (s.tm.compact && s.differ f tgt) = false → s.padAt tgt = (s1, .tag (some tag))) (join : Addr) (slide : Option Nat) :
    s.indirect a tag join slide = if s.tm.compact && s.differ f tgt then s.raiseAll cConverge 8 s.baseLanes
      else (s1.indirectPush (s.lowest f tgt) (s.differ f tgt) join slide).elim (s1.raiseAll cWindow 0 s.baseLanes) (fun s2 =>
        ({ s2 with g := { s2.g with exec := s.lowest f tgt ||| (s.g.exec &&& ~~~ s.baseLanes) } } : State).transfer (BitVec.ofNat 64 tgt)
          (if slide.isSome then s.g.loops else popLoops (BitVec.ofNat 64 tgt) s.g.loops)) := by
  obtain ⟨more, hsort, hmore⟩ := sortNat_least (x := tgt) (l := (lanesOf s.baseLanes).map f) (List.mem_map.2 hmem)
    (by simpa using hleast)
  replace hmore : (!more.isEmpty) = s.differ f tgt := hmore.trans (by rw [List.any_map]; rfl)
  have htargets : ((lanesOf s.baseLanes).map (fun l => (l, f l))).map (·.2) = (lanesOf s.baseLanes).map f := by
    rw [List.map_map]
    rfl
  have hlowest : maskOf ((((lanesOf s.baseLanes).map (fun l => (l, f l))).filter (fun x => x.2 == tgt)).map (·.1)) = s.lowest f tgt := by
    rw [List.filter_map, List.map_map]
    exact congrArg maskOf (List.map_id _)
  refine (if_neg hsome).trans ?_
  rw [List.filterMap_congr (g := fun _ => (none : Option (Nat × LaneFail))) (fun l hl => by rw [hread l hl]),
    List.filterMap_congr (g := fun l => some (l, f l)) (fun l hl => by rw [hread l hl])]
  simp only [List.filterMap_none, List.filterMap_eq_map', htargets, hsort, failLanes_nil, ne_eq, not_true_eq_false, if_false, hmore, hlowest]
  by_cases happart : (s.tm.compact && s.differ f tgt) = true
  · rw [if_pos happart, if_pos happart]
  · simp only [happart, hpad (Bool.eq_false_iff.2 happart), indirectFail_none, not_true_eq_false, Bool.false_eq_true, if_false]
    cases s1.indirectPush (s.lowest f tgt) (s.differ f tgt) join slide <;> rfl

section
variable {s s1 s2 : State} {a tgt : Nat} {tag : BitVec 8} {f : Nat → Nat} (hsome : s.g.exec ≠ 0)
  (hread : ∀ l ∈ lanesOf s.baseLanes, s.laneTarget a l = .ok (f l)) (hmem : ∃ l ∈ lanesOf s.baseLanes, f l = tgt)
  (hleast : ∀ l ∈ lanesOf s.baseLanes, tgt ≤ f l)
include hsome hread hmem hleast

/-- R147: in compact mode targets that differ trap. -/
theorem indirect_apart (hcompact : s.tm.compact = true) (hmany : s.differ f tgt = true) (join : Addr) (slide : Option Nat) :
    s.indirect a tag join slide = s.raiseAll cConverge 8 s.baseLanes := by
  have hapart : (s.tm.compact && s.differ f tgt) = true := by rw [hcompact, hmany, Bool.and_self]
  rw [indirect_aimed (s1 := s) hsome hread hmem hleast (fun h => absurd hapart (Bool.eq_false_iff.1 h)), if_pos hapart]

/-- R147: the lanes of the lowest target go there, behind the pad that has their tag. -/
theorem indirect_together (hone : s.tm.compact = false ∨ s.differ f tgt = false) (hpad : s.padAt tgt = (s1, .tag (some tag)))
    {join : Addr} {slide : Option Nat} (hpush : s1.indirectPush (s.lowest f tgt) (s.differ f tgt) join slide = some s2) :
    s.indirect a tag join slide =
      ({ s2 with g := { s2.g with exec := s.lowest f tgt ||| (s.g.exec &&& ~~~ s.baseLanes) } } : State).transfer (BitVec.ofNat 64 tgt)
        (if slide.isSome then s.g.loops else popLoops (BitVec.ofNat 64 tgt) s.g.loops) := by
  have htogether : ¬ (s.tm.compact && s.differ f tgt) = true := by
    rcases hone with h | h
    · simp [h]
    · simp [h]
  rw [indirect_aimed hsome hread hmem hleast (fun _ => hpad), if_neg htogether, hpush, Option.elim_some]

end

section
variable {s : State} {a : BitVec 6} (hcore : s.onKiln = false) (hnames : s.namesOk ⟨[(a.toNat, 2)], []⟩ = true)
  (hready : s.namesPending ⟨[(a.toNat, 2)], []⟩ = false)
include hcore hnames hready

theorem exec_vJmpi {j : BitVec 11} (hj : 0 < j.toInt) (tag : BitVec 8) :
    exec (.vJmpi a tag j) s = .next (s.indirect a.toNat tag (s.g.pc + 4 * j.signExtend 64) none) :=
  congrArg Host.Outcome.next (vGuarded_passes _ _ hcore (decide_eq_true hj) hnames hready)

theorem exec_vCalli {sl : BitVec 6} (hslide : sl.toNat < s.g.frame) (tag : BitVec 8) :
    exec (.vCalli a tag sl) s = .next (s.indirect a.toNat tag (s.g.pc + 4) (some sl.toNat)) :=
  congrArg Host.Outcome.next (vGuarded_passes _ _ hcore (decide_eq_true hslide) hnames hready)

end

/-! ### What an indirect transfer pushes -/

section
variable {s : State} (lt : BitVec 32) (many : Bool) (join : Addr)

/-- R147: `calli` pushes its link after the sub-entry. -/
theorem indirectPush_link (k : Nat) :
    s.indirectPush lt many join (some k) = (s.indirectPush lt many join none).bind (·.pushLink (s.g.pc + 4) k) := rfl

theorem indirectPush_compact (h : s.tm.compact = true) : s.indirectPush lt many join none = some s := if_pos h

variable (hgroup : s.tm.compact = false)
include hgroup

/-- R147: the transfer that an indirect sub-entry's lanes come back to renews it. -/
theorem indirectPush_renews {e : Sub} {r : List Sub} (hsubs : s.g.subs = e :: r) (hindirect : e.indirect = true) (hpc : e.pendPc = s.g.pc)
    (hlanes : s.g.exec &&& ~~~ e.pend = 0) :
    s.indirectPush lt many join none = s.setSub { e with pend := s.baseLanes &&& ~~~ lt } := by
  simp only [State.indirectPush, hgroup, hsubs, hindirect, hpc, hlanes, beq_self_eq_true, Bool.and_self, Bool.false_eq_true, if_false]

theorem indirectPush_begins (hsubs : ∀ (e : Sub) (r : List Sub), s.g.subs = e :: r → e.indirect = false ∨ e.pendPc ≠ s.g.pc ∨
      s.g.exec &&& ~~~ e.pend ≠ 0) : s.indirectPush lt many join none =
      if many then s.pushSub (s.newSub join s.g.pc (s.baseLanes &&& ~~~ lt) true) else some s := by
  cases hlist : s.g.subs with
  | nil => simp only [State.indirectPush, hgroup, hlist, Bool.false_eq_true, if_false]
  | cons e r =>
    have hother : (e.indirect && e.pendPc == s.g.pc && s.g.exec &&& ~~~ e.pend == 0) = false := by
      rcases hsubs e r hlist with h | h | h
      · rw [h, Bool.false_and, Bool.false_and]
      · rw [beq_eq_false_iff_ne.2 h, Bool.and_false, Bool.false_and]
      · rw [beq_eq_false_iff_ne.2 h, Bool.and_false]
    simp only [State.indirectPush, hgroup, hlist, hother, Bool.false_eq_true, if_false]

end

/-! ### Exits -/

section
variable {s : State} {m : BitVec 32}

/-- R357: a group that keeps a bound lane goes on. -/
theorem exitLanes_stays (h : s.g.bind &&& ~~~ m ≠ 0) : s.exitLanes m =
    ({ s with g := { s.g with exec := s.g.exec &&& ~~~ m, bind := s.g.bind &&& ~~~ m } } : State).advance := if_pos h

variable (hbind : s.g.bind &&& ~~~ m = 0)
include hbind

/-- R124: outside every path a group with no bound lane has exited. -/
theorem exitLanes_exits (hpath : if s.tm.compact then s.tm.stack = [] else s.g.subs = []) : s.exitLanes m = ({ s with g := { s.g with
      exec := s.g.exec &&& ~~~ m, bind := 0, exited := true, latch := none, pend := 0, wait := .none, pc := s.g.pc + 4, step := false } } :
    State).settleTeam := by
  have hout : (if s.tm.compact then !s.tm.stack.isEmpty else !s.g.subs.isEmpty) = false := by
    split_ifs at hpath ⊢ <;> simp [hpath]
  simp only [State.exitLanes, hbind, hout, ne_eq, not_true_eq_false, Bool.false_eq_true, if_false]

/-- R139, R142: inside a path a group with no bound lane goes on to its join or stop. -/
theorem exitLanes_inPath (hpath : if s.tm.compact then s.tm.stack ≠ [] else s.g.subs ≠ []) : s.exitLanes m = ({ s with g := { s.g with
      exec := s.g.exec &&& ~~~ m, bind := 0, latch := none, step := false, sbase := [] } } : State).advance.settleTeam := by
  have hin : (if s.tm.compact then !s.tm.stack.isEmpty else !s.g.subs.isEmpty) = true := by
    split_ifs at hpath ⊢ <;> simpa using hpath
  simp only [State.exitLanes, hbind, hin, ne_eq, not_true_eq_false, if_false, if_true]

end

theorem exec_vExit {s : State} {p : BitVec 3} (hcore : s.onKiln = false) (hrails : (s.act p.toNat).faulty = 0) :
    exec (.vExit p) s = .next (s.exitLanes (s.act p.toNat).lanes) :=
  congrArg Host.Outcome.next ((vGuarded_passes _ _ hcore rfl rfl rfl).trans (if_neg (fun h => h hrails)))

theorem exec_sExit {s : State} {g : BitVec 3} (hcore : s.onKiln = false) (hfit : s.FitS g ⟨[], []⟩) :
    exec (.sExit g) s = .next (s.exitLanes 0xffffffff) :=
  congrArg Host.Outcome.next (sGuarded_core g _ hcore hfit rfl)

theorem and_not_full (x : BitVec 32) : x &&& ~~~ 0xffffffff = 0 := by
  rw [show ~~~ (0xffffffff : BitVec 32) = 0 from rfl]
  exact BitVec.and_zero

/-- Settles O18: branches by the lanes that take them, indirect transfers by their lowest target, exits by what keeps the group. -/
theorem laneControlFlow : Obligations.LaneControlFlow := by
  unfold Obligations.LaneControlFlow
  intro s hcore
  refine ⟨fun c hrails => ⟨fun d => ⟨fun hnone => ?_, fun hsome hall => ?_⟩,
      fun t j ht hj hgroup => ⟨fun hnone => ?_, fun hsome hall => ?_, fun hsome hpart s1 hpush => ?_⟩,
      fun t j ht hj hcompact => ⟨exec_vBd_elsewhere hcore ht hj hcompact, exec_vBd_meets hcore hrails ht hj hcompact⟩⟩,
    fun e => pushSub_held,
    fun a tag tgt s1 w hnames hready => ⟨fun hidle => ⟨fun j hj => ?_, fun sl hslide => ?_⟩, ?_⟩,
    fun lt many join => ⟨indirectPush_link lt many join, indirectPush_compact lt many join,
      fun hgroup => ⟨fun e r => indirectPush_renews lt many join hgroup, indirectPush_begins lt many join hgroup⟩⟩,
    fun tag => ?_, fun p hrails => ⟨fun h => ?_, fun h hpath => ?_, fun h hpath => ?_⟩,
    fun g hfit => ⟨fun hpath => ?_, fun hpath => ?_⟩⟩
  · rw [exec_vBu hcore hrails (.inl hnone), if_pos hnone]
  · rw [exec_vBu hcore hrails (.inr hall), if_neg hsome]
  · rw [exec_vBd_group hcore hrails ht hj hgroup, if_pos hnone]
  · rw [exec_vBd_group hcore hrails ht hj hgroup, if_neg hsome, if_pos hall]
  · rw [exec_vBd_group hcore hrails ht hj hgroup, if_neg hsome, if_neg hpart, hpush, Option.elim_some]
  · rw [exec_vJmpi hcore hnames hready hj, indirect_idle hidle]
  · rw [exec_vCalli hcore hnames hready hslide, indirect_idle hidle]
  · intro f hsome hread hmem hleast lt many t go
    refine ⟨fun hcompact hmany => ?_, fun hone hfetch hchecks hclean hpad s2 => ?_⟩
    · have hapart := indirect_apart (tag := tag) hsome hread hmem hleast hcompact hmany
      exact ⟨fun j hj => by rw [exec_vJmpi hcore hnames hready hj, hapart],
        fun sl hslide => by rw [exec_vCalli hcore hnames hready hslide, hapart]⟩
    · have htarget := padAt_pad hfetch hchecks hclean hpad
      refine ⟨fun j hj hpush => ?_, fun sl hslide hpush => ?_⟩
      · rw [exec_vJmpi hcore hnames hready hj]
        exact congrArg Host.Outcome.next (indirect_together hsome hread hmem hleast hone htarget hpush)
      · rw [exec_vCalli hcore hnames hready hslide]
        exact congrArg Host.Outcome.next (indirect_together hsome hread hmem hleast hone htarget hpush)
  · exact congrArg Host.Outcome.next (vGuarded_passes _ _ hcore rfl rfl rfl)
  · rw [exec_vExit hcore hrails, exitLanes_stays h]
  · rw [exec_vExit hcore hrails, exitLanes_exits h hpath]
  · rw [exec_vExit hcore hrails, exitLanes_inPath h hpath]
  · rw [exec_sExit hcore hfit, exitLanes_exits (and_not_full _) hpath, and_not_full]
  · rw [exec_sExit hcore hfit, exitLanes_inPath (and_not_full _) hpath, and_not_full]

end Sys2Proof.Machine
end

section
/-! Traps that are delivered: where the handler is entered, the cause word, and the frame (R152–R157). -/

namespace Sys2Proof.Machine

/-! ### Vectors (R154) -/

theorem vecBase_mod_four (pr : Priv) (h : Bool) : (vecBase pr h).toNat % 4 = 0 := by
  rw [vecBase, BitVec.toNat_and, Nat.and_mod_two_pow (n := 2)]
  exact Nat.and_zero _

/-- R6, R154: a base that is an instruction address is taken whole. -/
theorem vecBase_aligned {pr : Priv} {h : Bool} (haligned : (if h then pr.htab else pr.ktab).toNat % 4 = 0) :
    vecBase pr h = if h then pr.htab else pr.ktab := by
  rw [vecBase]
  generalize (if h then pr.htab else pr.ktab) = base at haligned ⊢
  have hlow : base &&& 3#64 = 0#64 := BitVec.eq_of_toNat_eq ((BitVec.toNat_and base 3#64).trans
    ((Nat.and_two_pow_sub_one_eq_mod base.toNat 2).trans haligned))
  calc base &&& ~~~3#64 = base &&& ~~~3#64 ||| base &&& 3#64 := by rw [hlow, BitVec.or_zero]
    _ = base := by
      rw [← BitVec.and_or_distrib_left]
      exact BitVec.and_allOnes

/-- R153–R155: a trap that nothing keeps from being delivered enters its handler. -/
theorem raise_delivers {s s2 : State} {t : Trap} {xs : List XOk} (h : s.Delivers t s2 xs) : s.raise t = s.delivered t s2 xs := by
  obtain ⟨hcore, hmode, hnested, hbased, hspill, hroom, hframe⟩ := h
  have hdeep : ¬ (s.mode = 2 ∨ s.g.priv.kdepth.toNat ≥ 4) := by omega
  have hfull : ¬ (s.g.spill = 0 ∨ s.g.spill.toNat + 256 > linkEnd s.tm s.g.idx) := not_or.2 ⟨hspill, Nat.not_lt.2 hroom⟩
  simp only [State.raise, hcore, hdeep, hbased, hfull, hframe, Bool.false_eq_true, if_false]
  rfl

/-- R154: without a vector base a trap is recorded, and the grid's tree is aborted. -/
theorem raise_without_base {s : State} {t : Trap} (hcore : s.onKiln = false) (hmode : s.mode ≠ 2) (hnested : s.g.priv.kdepth.toNat < 4)
    (hbase : vecBase s.g.priv (trapToH t) = 0) :
    let s1 := ({ s with traps := if t.cause = cResidue then tmod s.traps s.tm.die 0 (· + 1) else s.traps } : State).gradeGrid
      s.tm.grid (causeGrade t.cause)
    s.raise t = (s1.record (trapRec s t (if t.retAt then s.g.pc else s.g.pc + 4) (causeWord t s.mode (isRepeat s.g t)) 0x20)).abortTree
      s.tm.grid (causeGrade t.cause) :=
  (if_neg (by simp [hcore])).trans ((if_neg (by omega)).trans (if_pos hbase))

/-- Settles O48: a base that is an instruction address is the vector's, and one of 0 leaves no vector. -/
theorem trapVectors : Obligations.TrapVectors := by
  unfold Obligations.TrapVectors
  intro s s2 t xs
  refine ⟨fun hdelivers => ⟨raise_delivers hdelivers, fun u haligned => ?_⟩, fun hcore hmode hnested hbase => ?_⟩
  · rw [← vecBase_aligned haligned]
    rfl
  · exact raise_without_base hcore hmode hnested ((vecBase_aligned (by rw [hbase]; rfl)).trans hbase)

/-! ### The cause word (R152) -/

theorem extractLsb'_ofNat32 {lo n N x : Nat} (h : lo + n ≤ 32) (hfield : N / 2 ^ lo % 2 ^ n = x % 2 ^ n) :
    (BitVec.ofNat 32 N).extractLsb' lo n = BitVec.ofNat n x := by
  refine BitVec.eq_of_toNat_eq ?_
  rw [BitVec.extractLsb'_toNat, BitVec.toNat_ofNat, BitVec.toNat_ofNat, ← hfield, Nat.shiftRight_eq_div_pow]
  refine Nat.eq_of_testBit_eq fun i => ?_
  simp only [Nat.testBit_mod_two_pow, Nat.testBit_div_two_pow]
  by_cases hi : i < n
  · simp [show i + lo < 32 by omega]
  · simp [hi]

theorem getLsbD_ofNat32 {i N : Nat} {b : Bool} (h : i < 32) (hbit : N / 2 ^ i % 2 = b.toNat) : (BitVec.ofNat 32 N).getLsbD i = b := by
  rw [BitVec.getLsbD_ofNat, Nat.testBit_eq_decide_div_mod_eq, hbit, decide_eq_true h, Bool.true_and]
  cases b <;> rfl

/-- The cause word as a sum of its fields, each a flag or a number. -/
theorem causeWord_eq (t : Trap) (mode : Nat) (rpt : Bool) : causeWord t mode rpt = BitVec.ofNat 32 (t.cause % 256 + mode % 4 * 2 ^ 8 +
    t.retAt.toNat * 2 ^ 10 + t.stage2.toNat * 2 ^ 11 + t.write.toNat * 2 ^ 12 + t.fetch.toNat * 2 ^ 13 + rpt.toNat * 2 ^ 14 +
    t.info % 256 * 2 ^ 16) := by
  have hflag : ∀ (b : Bool) (n : Nat), (if b then n else 0) = b.toNat * n := by
    rintro (_ | _) n <;> simp
  simp only [causeWord, hflag]

/-- R152: the fields of the cause word; its reserved and request bits are zero. -/
theorem causeWord_fields (t : Trap) (mode : Nat) (rpt : Bool) : let c := causeWord t mode rpt
    c.extractLsb' 0 8 = BitVec.ofNat 8 t.cause ∧ c.extractLsb' 8 2 = BitVec.ofNat 2 mode ∧ c.getLsbD 10 = t.retAt ∧
    c.getLsbD 11 = t.stage2 ∧ c.getLsbD 12 = t.write ∧ c.getLsbD 13 = t.fetch ∧ c.getLsbD 14 = rpt ∧ c.getLsbD 15 = false ∧
    c.extractLsb' 16 8 = BitVec.ofNat 8 t.info ∧ c.extractLsb' 24 8 = 0 := by
  rw [causeWord_eq]
  have h1 := t.retAt.toNat_lt
  have h2 := t.stage2.toNat_lt
  have h3 := t.write.toNat_lt
  have h4 := t.fetch.toNat_lt
  have h5 := rpt.toNat_lt
  refine ⟨extractLsb'_ofNat32 (by decide) ?_, extractLsb'_ofNat32 (by decide) ?_, getLsbD_ofNat32 (by decide) ?_,
    getLsbD_ofNat32 (by decide) ?_, getLsbD_ofNat32 (by decide) ?_, getLsbD_ofNat32 (by decide) ?_, getLsbD_ofNat32 (by decide) ?_,
    getLsbD_ofNat32 (by decide) (Eq.trans ?_ Bool.toNat_false.symm), extractLsb'_ofNat32 (by decide) ?_,
    extractLsb'_ofNat32 (x := 0) (by decide) ?_⟩
  all_goals omega

/-! ### The frame (R156) -/

theorem getElem?_flatMap_range {α : Type} {f : Nat → List α} {k n i r : Nat} (hlen : ∀ j, (f j).length = k) (hi : i < n) (hr : r < k) :
    ((List.range n).flatMap f)[k * i + r]? = (f i)[r]? := by
  have hlength : ∀ m, ((List.range m).flatMap f).length = k * m := fun m => by simp [List.length_flatMap, hlen, Nat.mul_comm]
  induction n with
  | zero => omega
  | succ n ih =>
    rw [List.range_succ, List.flatMap_append, List.flatMap_singleton]
    rcases Nat.lt_succ_iff_lt_or_eq.1 hi with hlt | rfl
    · have hle : k * i + k ≤ k * n := Nat.mul_succ k i ▸ Nat.mul_le_mul_left k hlt
      rw [List.getElem?_append_left (by rw [hlength]; omega), ih hlt]
    · rw [List.getElem?_append_right (by rw [hlength]; omega), hlength, Nat.add_sub_cancel_left]

/-- R4: two words hold a 64-bit number. -/
theorem ofNat_words (x : Nat) : BitVec.ofNat 32 (x / 2 ^ 32) ++ BitVec.ofNat 32 x = BitVec.ofNat 64 x := by
  refine BitVec.eq_of_toNat_eq ?_
  rw [BitVec.toNat_append, ← Nat.shiftLeft_add_eq_or_of_lt (BitVec.ofNat 32 x).isLt, Nat.shiftLeft_eq]
  simp only [BitVec.toNat_ofNat]
  omega

/-- A number as a word with its residue. -/
def wordOf (x : Nat) : Word := Word.ofData (BitVec.ofNat 32 x)

/-- R118: the numbers in the six words of a frame's loop-stack entry. -/
def loopNumbers : Option Loop → List Nat
  | some l => [l.start.toNat, l.start.toNat / 2 ^ 32, l.stop.toNat, l.stop.toNat / 2 ^ 32, l.count.toNat, l.count.toNat / 2 ^ 32]
  | none => List.replicate 6 0

theorem length_loopNumbers (o : Option Loop) : (loopNumbers o).length = 6 := by
  cases o <;> rfl

theorem loopWords_eq (ls : List Loop) : loopWords ls = ((List.range 4).flatMap (fun i => loopNumbers ls[i]?)).map wordOf := by
  rw [loopWords, List.map_flatMap]
  refine List.flatMap_congr fun i _ => ?_
  cases ls[i]? <;> rfl

/-- R156: the numbers in the words 0 to 15 of a frame, those before its loops. -/
def frameHead (s : State) (t : Trap) : List Nat :=
  let h := trapToH t
  let pr := s.g.priv
  let kpc := (if h then 0 else pr.kpc).toNat
  [kpc, kpc / 2 ^ 32, (if h then 0 else pr.kcause).toNat, (if h then 0 else pr.kmask).toNat, pr.kframe.toNat, pr.kframe.toNat / 2 ^ 32,
    s.g.exec.toNat, s.g.bind.toNat, (if t.retAt then t.p else 0).toNat, s.g.fmt.toNat,
    s.g.wb.toNat + s.g.frame % 256 * 2 ^ 16 + s.g.loops.length * 2 ^ 24, s.stackDepth, t.fva, t.fva / 2 ^ 32, if h then 2 else 1, 0]

/-- R156: the numbers in the words 16 to 39 of a frame, its loops. -/
def frameLoops (s : State) : List Nat := (List.range 4).flatMap (fun i => loopNumbers s.g.loops[i]?)

theorem length_frameLoops (s : State) : (frameLoops s).length = 24 := by
  simp only [frameLoops, List.length_flatMap, length_loopNumbers]
  rfl

/-- R156: the numbers in the 64 words of a frame. -/
def frameNumbers (s : State) (t : Trap) : List Nat := frameHead s t ++ (frameLoops s ++ List.replicate 24 0)

section
variable (s : State) (t : Trap)

/-- R156: a frame is its numbers, each as a word with its residue. -/
theorem frameWords_eq : frameWords s t = (frameNumbers s t).map wordOf := by
  have hpend : (if t.retAt then t.p.toNat else 0) = (if t.retAt then t.p else 0).toNat := by cases t.retAt <;> rfl
  rw [frameNumbers, List.map_append, List.map_append, frameLoops, ← loopWords_eq]
  simp only [frameWords, frameHead, hpend, wordsOf, List.append_assoc]
  cases trapToH t <;> rfl

theorem length_frameWords : (frameWords s t).length = 64 := by
  rw [frameWords_eq, List.length_map, frameNumbers, List.length_append, List.length_append, length_frameLoops]
  rfl

theorem res_of_mem_frameWords {w : Word} (hw : w ∈ frameWords s t) : w.res = resOf w.data := by
  obtain ⟨x, -, rfl⟩ := List.mem_map.1 (frameWords_eq s t ▸ hw)
  rfl

theorem frameNumbers_head {i x : Nat} (h : (frameHead s t)[i]? = some x) : (frameNumbers s t)[i]? = some x := by
  rw [frameNumbers, List.getElem?_append_left (List.getElem?_eq_some_iff.1 h).1, h]

theorem frameNumbers_loop {i r : Nat} (hi : i < 4) (hr : r < 6) :
    (frameNumbers s t)[16 + 6 * i + r]? = (loopNumbers s.g.loops[i]?)[r]? := by
  rw [frameNumbers, Nat.add_assoc, List.getElem?_append_right (Nat.le_add_right 16 _), show (frameHead s t).length = 16 from rfl,
    Nat.add_sub_cancel_left, List.getElem?_append_left (by rw [length_frameLoops]; omega), frameLoops,
    getElem?_flatMap_range (fun _ => length_loopNumbers _) hi hr]

theorem frameNumbers_reserved {i : Nat} (hlow : 40 ≤ i) (hhigh : i < 64) : (frameNumbers s t)[i]? = some 0 := by
  rw [frameNumbers, ← List.append_assoc, List.getElem?_append_right (by rw [List.length_append, length_frameLoops]; exact hlow),
    List.getElem?_replicate, if_pos (by rw [List.length_append, length_frameLoops]; change i - 40 < 24; omega)]

variable {s t}

theorem dat_frame {i x : Nat} (h : (frameNumbers s t)[i]? = some x) : dat (frameWords s t) i = BitVec.ofNat 32 x := by
  rw [frameWords_eq, dat, nth, List.getD_eq_getElem?_getD, List.getElem?_map, h]
  rfl

theorem dat64_frame {i x : Nat} (hlo : (frameNumbers s t)[i]? = some x) (hhi : (frameNumbers s t)[i + 1]? = some (x / 2 ^ 32)) :
    dat64 (frameWords s t) i = BitVec.ofNat 64 x := by
  rw [dat64, dat_frame hhi, dat_frame hlo, ofNat_words]

theorem dat_frame_word {i : Nat} {x : BitVec 32} (h : (frameHead s t)[i]? = some x.toNat) : dat (frameWords s t) i = x := by
  rw [dat_frame (frameNumbers_head s t h), BitVec.ofNat_toNat, BitVec.setWidth_eq]

theorem dat64_frame_pair {i : Nat} {x : BitVec 64} (hlo : (frameNumbers s t)[i]? = some x.toNat)
    (hhi : (frameNumbers s t)[i + 1]? = some (x.toNat / 2 ^ 32)) : dat64 (frameWords s t) i = x := by
  rw [dat64_frame hlo hhi, BitVec.ofNat_toNat, BitVec.setWidth_eq]

theorem dat64_frame_head {i : Nat} {x : BitVec 64} (hlo : (frameHead s t)[i]? = some x.toNat)
    (hhi : (frameHead s t)[i + 1]? = some (x.toNat / 2 ^ 32)) : dat64 (frameWords s t) i = x :=
  dat64_frame_pair (frameNumbers_head s t hlo) (frameNumbers_head s t hhi)

theorem dat64_frame_loop {i r : Nat} {x : BitVec 64} (hi : i < 4) (hr : r + 1 < 6) (hlo : (loopNumbers s.g.loops[i]?)[r]? = some x.toNat)
    (hhi : (loopNumbers s.g.loops[i]?)[r + 1]? = some (x.toNat / 2 ^ 32)) : dat64 (frameWords s t) (16 + 6 * i + r) = x :=
  dat64_frame_pair ((frameNumbers_loop s t hi (Nat.lt_of_succ_lt hr)).trans hlo) ((frameNumbers_loop s t hi hr).trans hhi)

/-- R156: the window word of a frame holds the base, the frame size and the number of loops. -/
theorem frame_window : let x := (dat (frameWords s t) 10).toNat
    field x 0 16 = s.g.wb.toNat ∧ field x 16 8 = s.g.frame % 256 ∧ field x 24 8 = s.g.loops.length % 256 := by
  have hbase := s.g.wb.isLt
  rw [dat_frame (frameNumbers_head s t rfl), BitVec.toNat_ofNat]
  simp only [field]
  omega

/-- R118, R156: a frame holds the loops, innermost first. -/
theorem frame_loops {i : Nat} (hi : i < 4) : let w := frameWords s t
    match s.g.loops[i]? with
    | some l => dat64 w (16 + 6 * i) = l.start ∧ dat64 w (18 + 6 * i) = l.stop ∧ dat64 w (20 + 6 * i) = l.count
    | none => dat64 w (16 + 6 * i) = 0 ∧ dat64 w (18 + 6 * i) = 0 ∧ dat64 w (20 + 6 * i) = 0 := by
  have hstop : 18 + 6 * i = 16 + 6 * i + 2 := by omega
  have hcount : 20 + 6 * i = 16 + 6 * i + 4 := by omega
  have hentry : ∀ r (x : BitVec 64), r + 1 < 6 → (loopNumbers s.g.loops[i]?)[r]? = some x.toNat →
    (loopNumbers s.g.loops[i]?)[r + 1]? = some (x.toNat / 2 ^ 32) → dat64 (frameWords s t) (16 + 6 * i + r) = x :=
    fun r x => dat64_frame_loop hi
  rw [hstop, hcount]
  cases hloop : s.g.loops[i]? with
  | none =>
    rw [hloop] at hentry
    exact ⟨hentry 0 0 (by decide) rfl rfl, hentry 2 0 (by decide) rfl rfl, hentry 4 0 (by decide) rfl rfl⟩
  | some l =>
    rw [hloop] at hentry
    exact ⟨hentry 0 _ (by decide) rfl rfl, hentry 2 _ (by decide) rfl rfl, hentry 4 _ (by decide) rfl rfl⟩

end

/-! ### The entry (R153, R157) -/

theorem trapToH_iff (t : Trap) : trapToH t = true ↔ t.cause = cHcall ∨ ((t.cause = cXlate ∨ t.cause = cPerm) ∧ t.stage2 = true) := by
  simp [trapToH]

section
variable (s : State) (ret : Addr) (cw : BitVec 32) {t : Trap}

/-- R153: a trap to S is saved in the registers of S. -/
theorem enterTrap_priv_S (h : trapToH t = false) : (s.enterTrap t ret cw).g.priv = { s.g.priv with
    kframe := s.g.spill - BitVec.ofNat 64 (linkBase s.tm s.g.idx)
    kdepth := s.g.priv.kdepth + 1
    mode := 1
    kpc := ret
    kcause := cw
    kmask := t.k } := by
  simp [State.enterTrap, h]

/-- R153: a trap to H is saved in the registers of H. -/
theorem enterTrap_priv_H (h : trapToH t = true) : (s.enterTrap t ret cw).g.priv = { s.g.priv with
    kframe := s.g.spill - BitVec.ofNat 64 (linkBase s.tm s.g.idx)
    kdepth := s.g.priv.kdepth + 1
    mode := 2
    hpc := ret
    hcause := cw
    hmask := t.k } := by
  simp [State.enterTrap, h]

end

/-- R157: a trap to either mode moves the frame pointer and raises the nesting depth and the mode. -/
theorem enterTrap_nests (s : State) (t : Trap) (ret : Addr) (cw : BitVec 32) : let pr := (s.enterTrap t ret cw).g.priv
    pr.kframe = s.g.spill - BitVec.ofNat 64 (linkBase s.tm s.g.idx) ∧ pr.kdepth = s.g.priv.kdepth + 1 ∧
    pr.mode = if trapToH t then 2 else 1 := by
  cases h : trapToH t
  · rw [enterTrap_priv_S s ret cw h]
    exact ⟨rfl, rfl, rfl⟩
  · rw [enterTrap_priv_H s ret cw h]
    exact ⟨rfl, rfl, rfl⟩

/-- Settles O49: what entry writes, then the cause word by its fields and the frame by its numbers. -/
theorem trapEntry : Obligations.TrapEntry := by
  unfold Obligations.TrapEntry
  intro s t ret cw u h
  obtain ⟨hframe, hdepth, hmode⟩ := enterTrap_nests s t ret cw
  obtain ⟨hbase, hsize, hloops⟩ := frame_window (s := s) (t := t)
  refine ⟨rfl, hframe, hdepth, hmode, rfl, rfl, rfl, fun hS => ?_, fun hH => ?_, rfl, rfl, rfl, rfl, rfl, rfl, rfl, rfl, rfl,
    length_frameWords s t, rfl, trapToH_iff t, rfl, vecBase_mod_four _ _, causeWord_fields t, fun x => res_of_mem_frameWords s t,
    dat64_frame_head rfl rfl, dat_frame_word rfl, dat_frame_word rfl, dat64_frame_head rfl rfl, dat_frame_word rfl, dat_frame_word rfl,
    dat_frame_word rfl, dat_frame_word rfl, hbase, hsize, hloops, dat_frame (frameNumbers_head s t rfl),
    dat64_frame (frameNumbers_head s t rfl) (frameNumbers_head s t rfl), ?_, fun i => frame_loops,
    fun i hlow hhigh => dat_frame (frameNumbers_reserved s t hlow hhigh)⟩
  · simp only [u, enterTrap_priv_S s ret cw hS, and_self]
  · simp only [u, enterTrap_priv_H s ret cw hH, and_self]
  · have hnext : (frameHead s t)[14 + 1]? = some ((if h then 2 else 1) / 2 ^ 32) := by cases h <;> rfl
    rw [dat64_frame (frameNumbers_head s t rfl) (frameNumbers_head s t hnext)]
    cases h <;> rfl

end Sys2Proof.Machine
end

section
/-! System calls, and the return from a trap (R153–R162, R371). -/

namespace Sys2Proof.Machine

open Sys2Proof.Laws

/-! ### Calls to a handler -/

/-- R371: the state in which a system call traps: the end-of-loop rule is applied, and the return address follows the pc. -/
def State.called (s : State) : State :=
  { s with g := { s.g with
    pc := (loopNext s.g.pc s.g.loops).1 - 4
    loops := (loopNext s.g.pc s.g.loops).2 } }

section
variable {s s2 : State} {g : BitVec 3} {xs : List XOk} (hcore : s.onKiln = false) (hfit : s.FitS g ⟨[], []⟩)
include hcore hfit

theorem exec_sSys_delivers {n : BitVec 6} (hcode : n.toNat < s.g.frame) (hlanes : s.g.exec ≠ 0)
    (h : s.called.Delivers { Trap.plain cSys n.toNat s.g.exec s.g.exec with retAt := false } s2 xs) :
    exec (.sSys n g) s = .next (s.called.delivered { Trap.plain cSys n.toNat s.g.exec s.g.exec with retAt := false } s2 xs) :=
  congrArg Host.Outcome.next ((sGuarded_core g _ hcore hfit (decide_eq_true hcode)).trans ((if_neg hlanes).trans (raise_delivers h)))

theorem exec_sHcall_delivers (hmode : s.mode ≠ 0)
    (h : s.called.Delivers { Trap.plain cHcall 0 s.g.exec s.g.exec with retAt := false } s2 xs) :
    exec (.sHcall g) s = .next (s.called.delivered { Trap.plain cHcall 0 s.g.exec s.g.exec with retAt := false } s2 xs) :=
  congrArg Host.Outcome.next ((sPriv_ok s g _ _ _ _ (coreOnly_core hcore _) (by simpa using hmode) hfit).trans (raise_delivers h))

end

/-! ### The return -/

/-- R153: the cause word that a trap to H, or to S, saved. -/
def Priv.savedCause (p : Priv) (h : Bool) : BitVec 32 := if h then p.hcause else p.kcause
/-- R153: the return address that a trap to H, or to S, saved. -/
def Priv.savedPc (p : Priv) (h : Bool) : Addr := if h then p.hpc else p.kpc

/-- R160, R161: the state after `tret` of a frame that held `ws`, its window already moved: `h` says whether it returns from H, `due` and `last`
stand for the retirements that are due and the last replay. -/
def State.resumed (s : State) (ws : List Word) (h : Bool) (due : List Nat) (last : Option (Addr × BitVec 32)) : State :=
  let c := s.g.priv.savedCause h
  let t := ({ s with
    twin := { s.twin with retireDue := due }
    g := { tretGroup s.g ws h with drain := !s.g.pset.isEmpty } } : State).finish
  { t with g := { t.g with
    pend := if c.getLsbD 10 then dat ws 8 &&& t.g.bind else 0
    step := c.getLsbD 30
    lastRc := last } }

/-- A state that asks for no BREAK completes in itself. -/
theorem finish_unstepped {s : State} (h : s.g.step = false) : s.finish = { s with g := { s.g with
    pend := 0
    lastRc := none
    pset := countWindows s.g.pset
    step := false
    starve := 0
    raised := none
    wait := .none
    count := s.g.count + 1 } } :=
  if_neg (by simp [h])

/-- R160, R161: `tret` of a good frame whose window moves. -/
theorem doTret_returns {s s1 s2 s3 : State} {xs : List XOk} {ws : List Word} (hheld : s.g.priv.kdepth ≠ 0)
    (hspill : s.g.spill.toNat = linkBase s.tm s.g.idx + s.g.priv.kframe.toNat + 256)
    (hread : s.frameXls (linkBase s.tm s.g.idx + s.g.priv.kframe.toNat) .load = (s1, some xs)) (hwords : s1.coreWords s1.core xs = (s2, ws))
    (hsound : ∀ w ∈ ws, w.checks = true ∧ w.isPoison = false) (hdepth : (dat ws 11).toNat = s2.stackDepth)
    (hstays : (s.g.priv.savedCause (s.mode == 2)).getLsbD 31 = false) (haligned : (s.g.priv.savedPc (s.mode == 2)).toNat % 4 = 0)
    (hspills : s2.spillsPending (field (dat ws 10).toNat 0 16 + field (dat ws 10).toNat 16 8) = false)
    (hwindow : s2.setWindow (field (dat ws 10).toNat 0 16) (field (dat ws 10).toNat 16 8) = some s3) (hpriv : s3.g.priv = s.g.priv)
    (hstep : s.g.step = false) : ∃ due last, s.doTret = s3.resumed ws (s.mode == 2) due last := by
  have hgood : ws.any (fun w => w.isPoison || !w.checks) = false := List.any_eq_false.2 fun w hw => by simp [hsound w hw]
  rw [Priv.savedCause] at hstays
  rw [Priv.savedPc] at haligned
  simp only [State.doTret, hheld, hspill, hread, hwords, hgood, hdepth, hstays, haligned, hwindow, hspills, hstep, ne_eq, not_true_eq_false,
    Bool.false_eq_true, if_false]
  simp only [State.resumed, hpriv, Priv.savedCause]
  exact ⟨_, _, rfl⟩

/-- The group after `tret`: its frame's registers, with what completion does to it. -/
theorem resumed_g {s : State} (hstep : s.g.step = false) (ws : List Word) (h : Bool) (due : List Nat)
    (last : Option (Addr × BitVec 32)) : (s.resumed ws h due last).g = { tretGroup s.g ws h with
      drain := !s.g.pset.isEmpty
      pend := if (s.g.priv.savedCause h).getLsbD 10 then dat ws 8 &&& (dat ws 7 &&& s.g.bind) else 0
      lastRc := last
      pset := countWindows s.g.pset
      step := (s.g.priv.savedCause h).getLsbD 30
      starve := 0
      raised := none
      wait := .none
      count := s.g.count + 1 } := by
  rw [State.resumed, finish_unstepped (by exact hstep)]
  rfl

/-- R160: the mode that `tret` of H restores is any, that of S at most S. -/
theorem tretGroup_mode (g : Group) (ws : List Word) (h : Bool) : (tretGroup g ws h).priv.mode.toNat =
    if h then field (g.priv.savedCause h).toNat 8 2 else min (field (g.priv.savedCause h).toNat 8 2) 1 := by
  have hlow : ∀ x, field x 8 2 < 256 := fun x => Nat.lt_trans (Nat.mod_lt _ (by decide)) (by decide)
  cases h with
  | false => exact Nat.mod_eq_of_lt (Nat.lt_of_le_of_lt (Nat.min_le_left _ _) (hlow _))
  | true => exact Nat.mod_eq_of_lt (hlow _)

theorem tretGroup_pc (g : Group) (ws : List Word) (h : Bool) : (tretGroup g ws h).pc = g.priv.savedPc h := rfl

theorem tretGroup_kdepth (g : Group) (ws : List Word) (h : Bool) : (tretGroup g ws h).priv.kdepth = g.priv.kdepth - 1 := by
  cases h <;> rfl

/-- R160: `tret` of S reads back the registers of the trap around the one it returns from. -/
theorem tretGroup_outer_S (g : Group) (ws : List Word) : let p := (tretGroup g ws false).priv
    p.kpc = dat64 ws 0 ∧ p.kcause = dat ws 2 &&& 0xe0ff7fff ∧ p.kmask = dat ws 3 := ⟨rfl, rfl, rfl⟩

/-- R160: `tret` of H leaves the registers of S. -/
theorem tretGroup_outer_H (g : Group) (ws : List Word) : let p := (tretGroup g ws true).priv
    p.kpc = g.priv.kpc ∧ p.kcause = g.priv.kcause ∧ p.kmask = g.priv.kmask := ⟨rfl, rfl, rfl⟩

/-- Settles O26: the calls by the trap they take, the return by the group it leaves. -/
theorem systemCalls : Obligations.SystemCalls := by
  unfold Obligations.SystemCalls
  intro s s2 g xs hcore hfit after
  refine ⟨fun n => exec_sSys_delivers hcore hfit, exec_sHcall_delivers hcore hfit, ?_⟩
  intro s1 s3 ws hmode hheld f hspill hread hwords hsound hdepth c ret hstays haligned hspills hwindow hpriv hstep hstep3
  have hc : s.g.priv.savedCause (s.mode == 2) = c := by simp [Priv.savedCause, c]
  have hret : s.g.priv.savedPc (s.mode == 2) = ret := by simp [Priv.savedPc, ret]
  obtain ⟨due, last, hdone⟩ :=
    doTret_returns hheld hspill hread hwords hsound hdepth (hc ▸ hstays) (hret ▸ haligned) hspills hwindow hpriv hstep
  refine ⟨_, (exec_sTret hcore hfit hmode).trans (congrArg Host.Outcome.next hdone), ?_⟩
  simp only [resumed_g hstep3, hpriv, hc, hret, tretGroup_pc, tretGroup_kdepth, tretGroup_mode, beq_iff_eq]
  refine ⟨trivial, rfl, rfl, rfl, rfl, rfl, rfl, trivial, trivial, fun hS => ?_, fun hH => ?_, rfl, trivial⟩
  · rw [beq_false_of_ne hS]
    exact tretGroup_outer_S s3.g ws
  · rw [hH, ← hpriv]
    exact tretGroup_outer_H s3.g ws

end Sys2Proof.Machine
end

section
/-! Translation invalidation and key retirement (R150, R163, R190, R259, R372–R374). -/

namespace Sys2Proof.Machine

open Sys2Proof.Laws

/-! ### Operands -/

/-- Clean uniform words that pass are used as they are. -/
theorem sUse_clean {s : State} {ss : List Src} (hreads : ∀ x ∈ ss, (s.s x.n).checks = true)
    (hclean : ∀ x ∈ ss, (s.s x.n).isPoison = false) (info : Nat) : s.sUse ss info = .ok (ss.map (fun x => s.s x.n)) := by
  have hpoison : ss.any (fun x => (s.s x.n).isPoison) = false := List.any_eq_false.2 fun x hx => by simp [hclean x hx]
  simp only [State.sUse, hpoison, sWords_ok s ss hreads, Bool.false_eq_true, if_false]

theorem mem_srcPair {x : Src} {n info : Nat} (h : x ∈ srcPair n info) : ∃ i < 2, x.n = n + i := by
  simp only [srcPair, List.mem_cons, List.not_mem_nil, or_false] at h
  rcases h with rfl | rfl
  · exact ⟨0, by decide, rfl⟩
  · exact ⟨1, by decide, rfl⟩

/-- The words of two clean pairs that pass. -/
theorem sUse_pairs {s : State} {m n : Nat} (hreads : s.ReadsS [(m, 2), (n, 2)]) (hclean : s.CleanS [(m, 2), (n, 2)]) (i j info : Nat) :
    s.sUse (srcPair m i ++ srcPair n j) info = .ok (s.sRun m 2 ++ s.sRun n 2) := by
  have hrun : ∀ x ∈ srcPair m i ++ srcPair n j, ∃ k, (k, 2) ∈ [(m, 2), (n, 2)] ∧ ∃ r < 2, x.n = k + r := fun x hx =>
    (List.mem_append.1 hx).elim (fun h => ⟨m, List.mem_cons_self, mem_srcPair h⟩)
      (fun h => ⟨n, List.mem_cons_of_mem _ List.mem_cons_self, mem_srcPair h⟩)
  refine sUse_clean (fun x hx => ?_) (fun x hx => ?_) info
  · obtain ⟨k, hk, r, hr, hx⟩ := hrun x hx
    exact hx ▸ checks_of_readsS hreads hk hr
  · obtain ⟨k, hk, r, hr, hx⟩ := hrun x hx
    exact hx ▸ clean_of_cleanS hclean hk hr

/-! ### Invalidation (R372, R373) -/

/-- R373: the state without the TLB entries and the cached contexts that two predicates cover. -/
def State.uncached (s : State) (entry : TlbEntry → Bool) (ctx : Nat → Ctx → Bool) : State := { s with
  tlbs := s.tlbs.map (fun t => if s.partTlb t.1 then (t.1, t.2.filter (fun e => !entry e)) else t)
  ctxs := s.ctxs.filter (fun c => !ctx c.1 c.2) }

/-- R373: with nothing to release and no access under way an invalidation completes. -/
theorem tlbi_completes {s : State} {entry : TlbEntry → Bool} {ctx : Nat → Ctx → Bool} (hready : releaseReady s.g = true)
    (hout : (s.uncached entry ctx).accessesOut = false) : s.tlbi entry ctx = (s.uncached entry ctx).advance :=
  (if_neg (by simp [hready])).trans (if_neg (by simpa [State.uncached] using hout))

section
variable {s : State} {g : BitVec 3} {stage2 : Bool} (k : State → List Addr → State)

/-- R372: stage 1 is invalidated in S and H mode, stage 2 in H mode. -/
def State.mayTlbi (s : State) (stage2 : Bool) : Bool := if stage2 then s.mode == 2 else s.mode != 0

theorem mayTlbi_U (h : s.mode = 0) (stage2 : Bool) : s.mayTlbi stage2 = false := by
  cases stage2 <;> simp [State.mayTlbi, h]

theorem tlbiOp_denied (hcore : s.onKiln = false) (hmode : s.mode = 0) {ns : List Nat}
    (hnames : s.namesOk ⟨[], ns.map (fun n => (n, 2))⟩ = true) : s.tlbiOp g stage2 ns k = s.raiseAll cPriv 0 s.g.exec :=
  sPriv_denied g _ (coreOnly_core hcore _) hnames (mayTlbi_U hmode stage2)

variable (hcore : s.onKiln = false) (hmay : s.mayTlbi stage2 = true)
include hcore hmay

theorem tlbiOp_none (hfit : s.FitS g ⟨[], []⟩) : s.tlbiOp g stage2 [] k = k s [] :=
  sPriv_ok s g _ _ _ _ (coreOnly_core hcore _) hmay hfit

theorem tlbiOp_one {b : Nat} (hfit : s.FitS g ⟨[], [(b, 2)]⟩) (hreads : s.ReadsS [(b, 2)]) (hclean : s.CleanS [(b, 2)]) :
    s.tlbiOp g stage2 [b] k = k s [s.s64 b] := by
  refine (sPriv_ok s g _ _ _ _ (coreOnly_core hcore _) hmay hfit).trans ?_
  have huse : s.sUse (srcPair b 2) 0 = .ok (s.sRun b 2) := sUse_pair hreads hclean 2 0
  simp only [List.zipIdx_cons, List.zipIdx_nil, List.flatMap_cons, List.flatMap_nil, List.append_nil, List.length_singleton, if_true, huse]
  rw [← dat64_sRun]
  rfl

theorem tlbiOp_two {a b : Nat} (hfit : s.FitS g ⟨[], [(a, 2), (b, 2)]⟩) (hreads : s.ReadsS [(a, 2), (b, 2)])
    (hclean : s.CleanS [(a, 2), (b, 2)]) : s.tlbiOp g stage2 [a, b] k = k s [s.s64 a, s.s64 b] := by
  refine (sPriv_ok s g _ _ _ _ (coreOnly_core hcore _) hmay hfit).trans ?_
  have huse : s.sUse (srcPair a 1 ++ srcPair b 2) 0 = .ok (s.sRun a 2 ++ s.sRun b 2) := sUse_pairs hreads hclean 1 2 0
  have hsrcs : [a, b].zipIdx.flatMap (fun n => srcPair n.1 (if [a, b].length = 1 then 2 else n.2 + 1)) = srcPair a 1 ++ srcPair b 2 := rfl
  simp only [hsrcs, huse]
  rw [← dat64_sRun, ← dat64_sRun]
  rfl

end

/-! ### Key retirement (R190, R374) -/

theorem exec_sKeyret_retires {s : State} {a : BitVec 6} {g : BitVec 3} (hcore : s.onKiln = false) (hmode : s.mode = 2)
    (hready : releaseReady s.g = true) (hfit : s.FitS g ⟨[], [(a.toNat, 1)]⟩) (hreads : s.ReadsS [(a.toNat, 1)])
    (hclean : s.CleanS [(a.toNat, 1)]) (hslot : (s.s a.toNat).data.toNat < Config.keySlots)
    (hpart : s.keyInPart s.tm.part (s.s a.toNat).data.toNat = true) :
    exec (.sKeyret a g) s = .next ((s.retireKey (s.s a.toNat).data.toNat).acquire 5).advance := by
  refine congrArg Host.Outcome.next ((sPriv_ok s g _ _ _ _ (coreOnly_core hcore _) (by simp [hmode]) hfit).trans ?_)
  have huse : s.sUse [⟨a.toNat, 1⟩] 0 = .ok (s.sRun a.toNat 1) := sUse_run hreads hclean List.mem_cons_self 1 0
  have hkey : dat (s.sRun a.toNat 1) 0 = (s.s a.toNat).data := by rw [dat, nth_sRun Nat.one_pos, Nat.add_zero]
  have hgood : ¬ ((s.s a.toNat).data.toNat ≥ Config.keySlots ∨ (!s.keyInPart s.tm.part (s.s a.toNat).data.toNat) = true) := by
    simp [hpart, hslot]
  simp only [huse, hkey, hgood, hready, Bool.not_true, Bool.false_eq_true, if_false]

/-- Settles O27: each invalidation by what its predicates cover, the key by its retirement, U mode by the refusal. -/
theorem invalidationAndKeys : Obligations.InvalidationAndKeys := by
  unfold Obligations.InvalidationAndKeys
  intro s a b g hcore
  refine ⟨fun hready => ?_, fun hmode => ?_⟩
  · intro gone fit1 fit2 va x no byVa byCtx byGlob byIpa byS2 all
    have hdone : ∀ {entry ctx}, (gone entry ctx).accessesOut = false → s.tlbi entry ctx = (gone entry ctx).advance := tlbi_completes hready
    have hS : s.mode ≠ 0 → s.mayTlbi false = true := fun h => by simpa [State.mayTlbi] using h
    have hH : s.mode = 2 → s.mayTlbi true = true := fun h => by simp [State.mayTlbi, h]
    refine ⟨fun hmode ⟨hfit, hreads, hclean⟩ hout => ?_, fun hmode ⟨hfit, hreads, hclean⟩ hout => ?_,
      fun hmode ⟨hfit, hreads, hclean⟩ hout => ?_, fun hmode ⟨hfit, hreads, hclean⟩ hout => ?_,
      fun hmode ⟨hfit, hreads, hclean⟩ hout => ?_, fun hmode hfit hout => ?_, fun hmode hfit hreads hclean =>
      exec_sKeyret_retires hcore hmode hready hfit hreads hclean⟩
    · exact congrArg Host.Outcome.next ((tlbiOp_two _ hcore (hS hmode) hfit hreads hclean).trans (hdone hout))
    · exact congrArg Host.Outcome.next ((tlbiOp_one _ hcore (hS hmode) hfit hreads hclean).trans (hdone hout))
    · exact congrArg Host.Outcome.next ((tlbiOp_one _ hcore (hS hmode) hfit hreads hclean).trans (hdone hout))
    · exact congrArg Host.Outcome.next ((tlbiOp_two _ hcore (hH hmode) hfit hreads hclean).trans (hdone hout))
    · exact congrArg Host.Outcome.next ((tlbiOp_one _ hcore (hH hmode) hfit hreads hclean).trans (hdone hout))
    · exact congrArg Host.Outcome.next ((tlbiOp_none _ hcore (hH hmode) hfit).trans (hdone hout))
  · intro denied _
    have hpriv : ∀ {allowed ns k}, s.namesOk ns = true → allowed = false → s.sPriv g (s.coreOnly true) allowed ns k =
      s.raiseAll cPriv 0 s.g.exec := fun hnames => sPriv_denied g _ (coreOnly_core hcore _) hnames
    have htlbi : ∀ {stage2 k} (ns : List Nat), s.namesOk ⟨[], ns.map (fun n => (n, 2))⟩ = true →
      Host.Outcome.next (s.tlbiOp g stage2 ns k) = denied := fun ns hnames => congrArg Host.Outcome.next (tlbiOp_denied _ hcore hmode hnames)
    refine ⟨fun hnames => ⟨htlbi [_, _] hnames, htlbi [_, _] hnames⟩, fun hnames => ⟨htlbi [_] hnames, htlbi [_] hnames, htlbi [_] hnames⟩,
      htlbi [] rfl, congrArg Host.Outcome.next (hpriv rfl ?_), congrArg Host.Outcome.next (hpriv rfl ?_), fun hnames =>
      congrArg Host.Outcome.next (hpriv hnames ?_)⟩
    all_goals simp [hmode]

end Sys2Proof.Machine
end

section
/-! Lanes whose source words fail their residue check are masked and trapped, the others commit (R158, R165, R224, R225, R269). -/

namespace Sys2Proof.Machine

open Sys2Proof.Laws

/-! ### Results of which some failed -/

/-- Of elements with one key the first is the smallest. -/
theorem minBy_const {α : Type} {f : α → Nat} {c : Nat} {l : List α} (h : ∀ x ∈ l, f x = c) : minBy f l = l.head? := by
  induction l with
  | nil => rfl
  | cons x r ih =>
    rw [minBy, ih fun y hy => h y (List.mem_cons_of_mem x hy)]
    cases r with
    | nil => rfl
    | cons y r =>
      have hle : ¬ f y < f x := by rw [h x List.mem_cons_self, h y (List.mem_cons_of_mem x List.mem_cons_self)]; exact Nat.lt_irrefl c
      exact if_neg hle

/-- R158: residue failures raise one trap: of all their lanes, with the detail of the lowest. -/
theorem trapOf_residue {ls : List Nat} {info : Nat → Nat} {l0 : Nat} (hfirst : ls.head? = some l0) :
    trapOf (ls.map (fun l => (l, LaneFail.rc (info l)))) = some (Trap.plain cResidue (info l0) (maskOf ls) (maskOf ls)) := by
  have hmin : firstFail (ls.map (fun l => (l, LaneFail.rc (info l)))) = some (l0, LaneFail.rc (info l0)) := by
    rw [firstFail, minBy_const (c := causeRank cResidue) fun x hx => ?_, List.head?_map, hfirst, Option.map_some]
    obtain ⟨l, -, rfl⟩ := List.mem_map.1 hx
    rfl
  have hall : (ls.map (fun l => (l, LaneFail.rc (info l)))).filter (fun x => x.2.cause == (LaneFail.rc (info l0)).cause) =
      ls.map (fun l => (l, LaneFail.rc (info l))) := List.filter_eq_self.2 fun x hx => by
    obtain ⟨l, -, rfl⟩ := List.mem_map.1 hx
    rfl
  have hlanes : (ls.map (fun l => (l, LaneFail.rc (info l)))).map (·.1) = ls := by
    rw [List.map_map]
    exact List.map_id ls
  simp only [trapOf, hmin, hall, hlanes]
  rfl

/-- The result of a lane: a residue failure of a bad lane, the writes of another. -/
def lanePassed (bad : Nat → Bool) (info : Nat → Nat) (out : Nat → LaneOut) (l : Nat) : LaneRes :=
  if bad l then .error (.rc (info l)) else .ok (out l)

section
variable (bad : Nat → Bool) (info : Nat → Nat) (out : Nat → LaneOut) (ls : List Nat)

theorem failsOf_lanePassed : failsOf (ls.map (fun l => (l, lanePassed bad info out l))) =
    (ls.filter bad).map (fun l => (l, LaneFail.rc (info l))) := by
  induction ls with
  | nil => rfl
  | cons l ls ih =>
    rw [List.map_cons, lanePassed]
    by_cases h : bad l = true
    · rw [if_pos h, List.filter_cons_of_pos h]
      exact congrArg (List.cons _) ih
    · rw [if_neg h, List.filter_cons_of_neg h]
      exact ih

theorem commitLanes_lanePassed (s : State) : s.commitLanes (ls.map (fun l => (l, lanePassed bad info out l))) =
    (ls.filter (fun l => !bad l)).foldl (fun t l => t.commitLane l (out l)) s := by
  induction ls generalizing s with
  | nil => rfl
  | cons l ls ih =>
    rw [List.map_cons, lanePassed]
    by_cases h : bad l = true
    · rw [if_pos h, List.filter_cons_of_neg (by simp [h])]
      exact ih s
    · rw [if_neg h, List.filter_cons_of_pos (by simp [h])]
      exact ih (s.commitLane l (out l))

/-- R158: the lanes that pass commit; then the bad lanes trap with the detail of the lowest. -/
theorem settleLanes_fails {s : State} {l0 : Nat} (hsound : s.glitch = 0) (hfirst : (ls.filter bad).head? = some l0) :
    s.settleLanes (ls.map (fun l => (l, lanePassed bad info out l))) =
      ((ls.filter (fun l => !bad l)).foldl (fun t l => t.commitLane l (out l)) s).raise
        (Trap.plain cResidue (info l0) (maskOf (ls.filter bad)) (maskOf (ls.filter bad))) := by
  rw [State.settleLanes, glitch_cleared hsound, failsOf_lanePassed, trapOf_residue hfirst, commitLanes_lanePassed]

end

/-! ### Two source words -/

/-- R269: the word that an operation gives of two source words: poison of poison. -/
def wordOfTwo (f : BitVec 32 → BitVec 32 → BitVec 32) (x y : Word) : Word :=
  if x.isPoison || y.isPoison then Word.poison else Word.ofData (f x.data y.data)

/-- R224: a source word of the lane fails its check. -/
def State.badPair (s : State) (a b l : Nat) : Bool := !(s.v a l).checks || !(s.v b l).checks

/-- R224: the number of the first source of the lane that fails, when one does. -/
def State.firstBad (s : State) (a l : Nat) : Nat := if (s.v a l).checks then 2 else 1

section
variable {f : BitVec 32 → BitVec 32 → BitVec 32} {F : List Word → List (BitVec 32 × BitVec 4)}
  (hF : ∀ x y, F [Word.ofData x, Word.ofData y] = [gen (f x y)])
include hF

/-- R224, R269: a lane of an operation on two words fails with its first bad source, or writes one word. -/
theorem laneArith_two (s : State) (d a b l : Nat) : s.laneArith [⟨a, 1⟩, ⟨b, 2⟩] [d] F l =
    lanePassed (s.badPair a b) (s.firstBad a) (fun l => ⟨[(d, wordOfTwo f (s.v a l) (s.v b l))], []⟩) l := by
  cases ha : (s.v a l).checks with
  | false => simp [State.laneArith, State.srcWords, lanePassed, State.badPair, State.firstBad, ha]
  | true =>
    cases hb : (s.v b l).checks with
    | false => simp [State.laneArith, State.srcWords, lanePassed, State.badPair, State.firstBad, ha, hb]
    | true =>
      have hok := laneArith_ok s [⟨a, 1⟩, ⟨b, 2⟩] d 1 l F (fun xs => [f (xs.getD 0 0) (xs.getD 1 0)]) (by simp [ha, hb]) (fun _ _ => rfl)
        fun xs hxs => by
          obtain ⟨x, y, rfl⟩ := list2 xs hxs
          exact hF x y
      refine hok.trans ?_
      simp only [lanePassed, State.badPair, ha, hb, wordOfTwo, arithOf, List.map_cons, List.map_nil, List.any_cons, List.any_nil, Bool.or_false,
        Bool.not_true, Bool.false_eq_true, if_false]
      split <;> rfl

/-- R158, R165: an operation on two words of which some active lane's fail. -/
theorem laneOp_two_fails {s : State} {p : BitVec 3} {d a b l0 : Nat} (hfit : s.FitV p (names3 d a b 1)) :
    let ls := lanesOf (s.act p.toNat).lanes
    let bad := ls.filter (s.badPair a b)
    bad.head? = some l0 → s.laneOp p true (names3 d a b 1) (fun s => s.laneArith [⟨a, 1⟩, ⟨b, 2⟩] [d] F) =
      ((ls.filter (fun l => !bad.contains l)).foldl (fun t l => t.setV d l (wordOfTwo f (s.v a l) (s.v b l))) s).raise
        (Trap.plain cResidue (s.firstBad a l0) (maskOf bad) (maskOf bad)) := by
  intro ls bad hfirst
  have hact : s.act p.toNat = ⟨(s.act p.toNat).lanes, 0⟩ := by rw [← hfit.guarded]
  have hgood : ls.filter (fun l => !bad.contains l) = ls.filter (fun l => !s.badPair a b l) := List.filter_congr fun l hl => by
    simp [bad, hl]
  rw [State.laneOp, vGuarded_fit _ _ hfit rfl, hact, laneResults_sound hfit.sound]
  simp only [laneArith_two hF]
  rw [settleLanes_fails _ _ _ _ hfit.sound hfirst, hgood]
  rfl

end

/-- Settles O52: each operation predicts its residue from two source words. -/
theorem failingLanes : Obligations.FailingLanes := by
  unfold Obligations.FailingLanes
  intro s d a b p l0 hfit ls bad hfirst out
  have hand : ∀ x y : BitVec 32, [andW (Word.ofData x) (Word.ofData y)] = [gen (x &&& y)] := fun x y =>
    congrArg (fun r => [(x &&& y, r)]) (predAnd_eq x y)
  have hor : ∀ x y : BitVec 32, [orW (Word.ofData x) (Word.ofData y)] = [gen (x ||| y)] := fun x y =>
    congrArg (fun r => [(x ||| y, r)]) (predOr_eq x y)
  have hxor : ∀ x y : BitVec 32, [xorW (Word.ofData x) (Word.ofData y)] = [gen (x ^^^ y)] := fun x y =>
    congrArg (fun r => [(x ^^^ y, r)]) (predXor_eq x y)
  refine ⟨?_, ?_, ?_, ?_, ?_⟩
  · exact congrArg Host.Outcome.next (laneOp_two_fails (f := (· + ·)) (addSub32_eq false) hfit hfirst)
  · exact congrArg Host.Outcome.next (laneOp_two_fails (f := (· - ·)) (addSub32_eq true) hfit hfirst)
  · exact congrArg Host.Outcome.next (laneOp_two_fails (f := (· &&& ·)) hand hfit hfirst)
  · exact congrArg Host.Outcome.next (laneOp_two_fails (f := (· ||| ·)) hor hfit hfirst)
  · exact congrArg Host.Outcome.next (laneOp_two_fails (f := (· ^^^ ·)) hxor hfit hfirst)

end Sys2Proof.Machine
end

section
/-! Global stores whose lanes all pass, and the copy starts of a store to the aperture (R183, R184, R203, R306–R312, R320). -/

namespace Sys2Proof.Machine

open Sys2Proof.Laws

/-! ### What located lanes gather -/

section
variable {good : List (Nat × Nat × Target)}

theorem startCopies_noStarts (h : noStarts good) (s : State) (data : State → Nat → List Word) : s.startCopies data good = (s, []) := by
  induction good with
  | nil => rfl
  | cons x r ih =>
    have hrest := ih fun y hy => h y (List.mem_cons_of_mem x hy)
    obtain ⟨l, a, t⟩ := x
    cases t with
    | memory ps => exact hrest
    | window pa => exact hrest
    | aperture ch => exact absurd rfl (h _ List.mem_cons_self ch)

/-- R312: a store to the aperture writes no memory. -/
theorem storeLanes_apertures (h : ∀ x ∈ good, ∃ ch, x.2.2 = .aperture ch) (data : State → Nat → List Word) (n : Nat) (acc : StoreAcc) :
    storeLanes data n acc good = some acc := by
  induction good with
  | nil => rfl
  | cons x r ih =>
    have hrest := ih fun y hy => h y (List.mem_cons_of_mem x hy)
    obtain ⟨ch, hch⟩ := h x List.mem_cons_self
    obtain ⟨l, a, t⟩ := x
    obtain rfl : t = .aperture ch := hch
    exact hrest

end

theorem giveUp_start (s : State) (good : List (Nat × Nat × Target)) : s.giveUp (StoreAcc.start s good) = (s, false) := rfl

theorem finish_start (s : State) (good : List (Nat × Nat × Target)) : (StoreAcc.start s good).finish = some s := rfl

/-! ### The store of located lanes -/

section
variable {s s1 s2 : State} {good : List (Nat × Nat × Target)}

/-- R203, R311: lanes that start no copy store what they gather. -/
theorem doStore_stores {data : State → Nat → List Word} {n : Nat} {acc : StoreAcc} (hnone : noStarts good)
    (hlanes : storeLanes data n (StoreAcc.start s good) good = some acc) (hkeeps : (s.giveUp acc).2 = false) (hdone : acc.finish = some s2) :
    s.doStore data n (good.map (fun x => (x.1, .ok x.2))) = ({ s2 with glitch := 0 } : State).advance := by
  simp only [State.doStore, goodLanes_ok, lostOf_ok]
  refine (if_neg fun hstarts => ?_).trans ?_
  · obtain ⟨x, hx, hstart⟩ := List.any_eq_true.1 (Bool.and_eq_true_iff.1 hstarts).1
    split at hstart
    · next ch hch => exact hnone x hx ch hch
    · cases hstart
  · simp only [hlanes, hkeeps, hdone, startCopies_noStarts hnone, memTrap_none, List.isEmpty_nil, Bool.not_true, Bool.false_eq_true, if_false]

/-- R312, R213: with no earlier write outstanding, stores to the aperture start their jobs. -/
theorem doStore_copies {data : State → Nat → List Word} {n : Nat} (hall : ∀ x ∈ good, ∃ ch, x.2.2 = .aperture ch) (hout : s.g.outst = 0)
    (hjobs : ({ s with glitch := 0 } : State).startCopies data good = (s2, [])) :
    s.doStore data n (good.map (fun x => (x.1, .ok x.2))) = s2.advance := by
  simp only [State.doStore, goodLanes_ok, lostOf_ok, storeLanes_apertures hall, giveUp_start, finish_start, hjobs, hout, memTrap_none,
    ne_eq, not_true_eq_false, decide_false, Bool.and_false, List.isEmpty_nil, Bool.not_true, Bool.false_eq_true, if_false]

/-! ### Instructions -/

/-- R89: a prologue's access goes on when the accesses before it are done. -/
theorem inOrder_ready (h : s.onKiln = true → releaseReady s.g = true) (k : State → State) : s.inOrder k = k s :=
  if_neg (by simpa using h)

/-- R311: a lane store locates its lanes and stores. -/
theorem vStore_locates {t a b : BitVec 6} {z : Nat} {p : BitVec 3} (hz : z ≤ 4)
    (hfit : s.FitV p ((addrNames a.toNat b.toNat).add ⟨[(t.toNat, regsOf (2 ^ z))], []⟩))
    (hpass : s.Passes (fun s l => s.vAddr a.toNat b.toNat l) (vStoreBad t.toNat (regsOf (2 ^ z))) (2 ^ z) .store false
      (lanesOf (s.act p.toNat).lanes) s1 good) : vStore t a b z p s =
      s1.doStore (State.vDataWords t.toNat (regsOf (2 ^ z))) (2 ^ z) (good.map (fun x => (x.1, .ok x.2))) := by
  have hkeys := passes_keys hpass
  unfold State.Passes at hpass
  unfold vStore
  refine (vGuarded_fit _ _ hfit (decide_eq_true hz)).trans ?_
  simp only [hpass, hfit.guarded, byLane_lanesOf hkeys]

/-- R89, R320: so does a uniform store; a prologue's waits for the accesses before it. -/
theorem exec_sSst {t a o : BitVec 6} {z g : BitVec 3} (hz : z.toNat ≤ 4)
    (hfit : s.FitS g ⟨[], [(a.toNat, 2), (t.toNat, regsOf (2 ^ z.toNat))]⟩) (horder : s.onKiln = true → releaseReady s.g = true)
    (hpass : s.Passes (fun s _ => s.uAddr a.toNat (o.toNat * 2 ^ z.toNat)) (uStoreBad t.toNat (regsOf (2 ^ z.toNat))) (2 ^ z.toNat) .store true
      [uniLane] s1 good) : exec (.sSst t a o z g) s =
      .next (s1.doStore (State.uData t.toNat (regsOf (2 ^ z.toNat))) (2 ^ z.toNat) (good.map (fun x => (x.1, .ok x.2)))) := by
  unfold State.Passes at hpass
  refine congrArg Host.Outcome.next ((sGuarded_ok s g _ _ _ (decide_eq_true hz) hfit).trans ((inOrder_ready horder _).trans ?_))
  simp only [hpass]

end

theorem exec_vSt (t a b : BitVec 6) (z p : BitVec 3) (s : State) : exec (.vSt t a b z p) s = .next (vStore t a b z.toNat p s) := rfl

/-- R312: `cpy` is `st.b64`. -/
theorem exec_vCpy (t a b : BitVec 6) (p : BitVec 3) (s : State) : exec (.vCpy t a b p) s = exec (.vSt t a b 3 p) s := rfl

/-- Settles O20: a store locates its lanes; they store, or they all start copies. -/
theorem globalStores : Obligations.GlobalStores := by
  unfold Obligations.GlobalStores
  intro s s1 s2 good acc
  refine ⟨?_, ?_⟩
  · intro t a b z p hz n hfit hpass
    have hst : exec (.vSt t a b z p) s = .next (s1.doStore (State.vDataWords t.toNat (regsOf n)) n (good.map (fun x => (x.1, .ok x.2)))) :=
      congrArg Host.Outcome.next (vStore_locates hz hfit hpass)
    have hcpy : z = 3 → exec (.vCpy t a b p) s = exec (.vSt t a b z p) s := fun h => h ▸ exec_vCpy t a b p s
    refine ⟨fun hnone hlanes hkeeps hdone => ?_, fun hz3 hall hout hjobs => ?_⟩
    · have hstored := hst.trans (congrArg Host.Outcome.next (doStore_stores hnone hlanes hkeeps hdone))
      exact ⟨hstored, fun h => (hcpy h).trans hstored⟩
    · subst hz3
      have hregs : regsOf n = 2 := show regsOf (2 ^ (3 : BitVec 3).toNat) = 2 by decide
      have hstarted := hst.trans (congrArg Host.Outcome.next (doStore_copies hall hout (hregs ▸ hjobs)))
      exact ⟨hstarted, (hcpy rfl).trans hstarted⟩
  · intro t a o z g hz n hfit horder hpass hnone hlanes hkeeps hdone
    rw [exec_sSst hz hfit horder hpass, doStore_stores hnone hlanes hkeeps hdone]

end Sys2Proof.Machine
end

section
/-! Channels between teams, and the completion of copy batches (R199, R200, R206, R322–R326). -/

namespace Sys2Proof.Machine

open Sys2Proof.Laws

/-! ### Channels -/

section
variable {s s1 : State} {e : Nat × Nat × Nat × Nat} {t : Team} {a c : BitVec 6} {p : BitVec 3}

/-- R325: at an endpoint of its own team a channel instruction goes on with its active lanes. -/
theorem chanOp_endpoint {ns : Names} {side : Nat × Nat × Nat × Nat → Nat} (hfit : s.FitV p ns) (hlanes : (s.act p.toNat).lanes ≠ 0)
    {ch : Nat} (hchan : s.channel ch = some e) (hside : side e = s.tm.t) (poison : State → BitVec 32 → BitVec 32)
    (k : State → BitVec 32 → Nat × Nat × Nat × Nat → State) : s.chanOp p.toNat ch ns side poison k = k s (s.act p.toNat).lanes e := by
  unfold State.chanOp
  refine (vGuarded_fit _ _ hfit rfl).trans ?_
  simp only [hlanes, hfit.guarded, hchan, hside, false_and, ne_eq, not_true_eq_false, if_false]

theorem State.ReadsV.word {n l : Nat} (h : s.ReadsV p [(n, 1)]) (hl : s.active p l) : (s.v n l).checks = true :=
  h l hl (n, 1) List.mem_cons_self (s.v n l) List.mem_cons_self

theorem State.CleanV.word {n l : Nat} (h : s.CleanV p [(n, 1)]) (hl : s.active p l) : (s.v n l).isPoison = false :=
  h l hl (n, 1) List.mem_cons_self (s.v n l) List.mem_cons_self

/-- The lanes with a property are none when no active lane has it. -/
theorem maskOf_active_none {q : Nat → Bool} (h : ∀ l, s.active p l → q l = false) : maskOf ((lanesOf (s.act p.toNat).lanes).filter q) = 0 := by
  rw [filter_lanesOf_none h, maskOf_nil]

/-- R200, R326: the words of the active lanes, zero in the others, fill one slot. -/
def State.slotOf (s : State) (a : Nat) (lanes : BitVec 32) : List Word := (List.range 32).map (fun l => if bit lanes l then s.v a l else Word.zero)

theorem exec_vChsend (hfit : s.FitV p ⟨[(a.toNat, 1)], []⟩) (hlanes : (s.act p.toNat).lanes ≠ 0) (hchan : s.channel c.toNat = some e)
    (hside : e.1 = s.tm.t) (hreads : s.ReadsV p [(a.toNat, 1)]) (hclean : s.CleanV p [(a.toNat, 1)])
    (hroom : ((s.endpoint c.toNat).sent - (s.endpoint c.toNat).received).toNat < e.2.2.2) (hready : releaseReady s.g = true)
    (hpeer : s.teamOfGrid e.2.1 = some t)
    (hask : s.ask (.slot s.self c.toNat) s.node 6 (fun id => mkPacket 6 0 s.node t.die id (slotWord t c.toNat ((s.endpoint c.toNat).sent.toNat % 64)) 0
      (t.core / 32 == 1) 0xffffffff (windowFlits 0xffffffff (s.slotOf a.toNat (s.act p.toNat).lanes))) = some s1) :
    exec (.vChsend a c p) s = .next (s1.setEndpoint c.toNat
      { s.endpoint c.toNat with sent := (s.endpoint c.toNat).sent + 1 }).oweWrite.advance := by
  have hbad : maskOf ((lanesOf (s.act p.toNat).lanes).filter (fun l => !(s.v a.toNat l).checks)) = 0 :=
    maskOf_active_none fun l hl => congrArg not (hreads.word hl)
  have hpoison : s.poisonIn a.toNat (s.act p.toNat).lanes = 0 :=
    maskOf_active_none (q := fun l => (s.v a.toNat l).isPoison) fun l hl => hclean.word hl
  rw [State.slotOf] at hask
  refine congrArg Host.Outcome.next ((chanOp_endpoint hfit hlanes hchan hside _ _).trans ?_)
  simp only [ge_iff_le, Nat.not_le.2 hroom, hpoison, hbad, hready, hpeer, hask, ne_eq, not_true_eq_false, Bool.not_true, Bool.false_eq_true, if_false]

/-- R200, R326: the word of lane l in the slot that a consumer receives next. -/
def State.slotHere (s : State) (e : Nat × Nat × Nat × Nat) (ch l : Nat) : Word :=
  s.scrWord (grpKey s.self) ((e.2.2.1 + 128 * ((s.endpoint ch).received.toNat % e.2.2.2)) / 4 + l)

/-- R206, R326: the state in which a slot's words are in the active lanes, counted and acquired. -/
def State.slotTaken (s : State) (p : BitVec 3) (d : Nat) (e : Nat × Nat × Nat × Nat) (ch : Nat) : State :=
  ((s.putV p d (fun l => [s.slotHere e ch l])).setEndpoint ch
    { s.endpoint ch with received := (s.endpoint ch).received + 1 }).acquire 4

theorem exec_vChrecv {d : BitVec 6} (hfit : s.FitV p ⟨[(d.toNat, 1)], []⟩) (hlanes : (s.act p.toNat).lanes ≠ 0)
    (hchan : s.channel c.toNat = some e) (hside : e.2.1 = s.tm.t) (hsome : (s.endpoint c.toNat).received ≠ (s.endpoint c.toNat).sent)
    (hgood : ∀ l, s.active p l → (s.slotHere e c.toNat l).checks = true) (hpeer : (s.slotTaken p d.toNat e c.toNat).teamOfGrid e.1 = some t) :
    exec (.vChrecv d c p) s = .next ((s.slotTaken p d.toNat e c.toNat).send (mkPacket 6 1 (s.slotTaken p d.toNat e c.toNat).node t.die 0
      (slotWord t c.toNat ((s.endpoint c.toNat).received + 1).toNat) 0 (t.core / 32 == 1) 0 [])).advance := by
  have hbad : maskOf ((lanesOf (s.act p.toNat).lanes).filter (fun l => !(s.slotHere e c.toNat l).checks)) = 0 :=
    maskOf_active_none fun l hl => congrArg not (hgood l hl)
  unfold State.slotTaken State.putV at hpeer ⊢
  unfold State.slotHere at hbad hpeer ⊢
  refine congrArg Host.Outcome.next ((chanOp_endpoint hfit hlanes hchan hside _ _).trans ?_)
  simp only [hsome, hbad, ne_eq, not_true_eq_false, if_false]
  simp only [List.zipIdx_cons, List.zipIdx_nil, List.foldl_cons, List.foldl_nil, Nat.add_zero] at hpeer ⊢
  simp only [hpeer]

end

/-! ### Copy batches -/

section
variable {s : State} {g : BitVec 3} (hcore : s.onKiln = false)
include hcore

/-- R322: the open jobs are sealed, and the sealed count is written. -/
theorem exec_sCseal {d : BitVec 6} (hfit : s.FitS g ⟨[], [(d.toNat, 1)]⟩) : exec (.sCseal d g) s =
    .next (({ s with g := sealBatch s.g } : State).setS d.toNat (Word.ofData (sealBatch s.g).sealed)).advance :=
  congrArg Host.Outcome.next ((sGuarded_core g _ hcore hfit rfl).trans (sTwice_sound hfit.sound _))

variable (hfit : s.FitS g ⟨[], []⟩) (hquiet : reportable s.g = none)
include hfit hquiet

/-- R323: with few enough batches unfinished and no fault to report, the group acquires and goes on. -/
theorem exec_sCwait {n : BitVec 10} (hfew : unfinished s.g ≤ n.toNat) : exec (.sCwait n g) s = .next (s.acquire 4).advance := by
  refine congrArg Host.Outcome.next ((sGuarded_core g _ hcore hfit rfl).trans ?_)
  simp only [gt_iff_lt, Nat.not_lt.2 hfew, hquiet, if_false]

/-- R324: with none unfinished, the group acquires and goes on at the target. -/
theorem exec_sCyield {d : BitVec 22} (hnone : unfinished s.g = 0) (haligned : (s.g.pc + 4 * d.signExtend 64).toNat % 4 = 0) :
    exec (.sCyield d g) s = .next ((s.acquire 4).transfer (s.g.pc + 4 * d.signExtend 64)
      (popLoops (s.g.pc + 4 * d.signExtend 64) (s.acquire 4).g.loops)) := by
  refine congrArg Host.Outcome.next ((sGuarded_core g _ hcore hfit rfl).trans ?_)
  simp only [hnone, gt_iff_lt, Nat.lt_irrefl, hquiet, if_false, jump_aligned haligned]

end

/-- Settles O24: the two ends of a channel, then batches by what is unfinished. -/
theorem channelsAndCopies : Obligations.ChannelsAndCopies := by
  unfold Obligations.ChannelsAndCopies
  intro s s1 e t hcore
  refine ⟨?_, ?_, fun d g hfit => exec_sCseal hcore hfit, fun g hfit hquiet => ⟨fun n => exec_sCwait hcore hfit hquiet, fun d =>
    exec_sCyield hcore hfit hquiet⟩⟩
  · intro a c p ch hfit hlanes hchan hside hreads hclean ep hroom hready hpeer hask
    exact exec_vChsend hfit hlanes hchan hside hreads hclean hroom hready hpeer hask
  · intro d c p ch hfit hlanes hchan hside ep w hsome hgood s2 hpeer
    exact exec_vChrecv hfit hlanes hchan hside hsome hgood hpeer

end Sys2Proof.Machine
end

section
/-! What the stack ports, the home slices and the lines that leave an L1 do to the words that the L1s hold: none enters (R14–R17, R181,
R187, R189, R191). -/

namespace Sys2Proof.Machine

/-! ### Operations that leave the L1s alone -/

section
variable (s : State)

/-- A fold of steps that leave the L1s alone leaves them alone. -/
theorem foldl_l1 {α : Type} {f : State → α → State} (hf : ∀ s a, (f s a).l1 = s.l1) (l : List α) : (l.foldl f s).l1 = s.l1 :=
  foldl_keeps (fun t : State => t.l1 = s.l1) f (fun t a ht => (hf t a).trans ht) l s rfl

@[simp] theorem modGroup_l1 (r : GroupRef) (f : Group → Group) : (s.modGroup r f).l1 = s.l1 := by
  unfold State.modGroup
  split_ifs <;> rfl

@[simp] theorem performed_l1 (rs : List GroupRef) : (performed s rs).l1 = s.l1 := foldl_l1 s (fun t r => modGroup_l1 t r _) rs

@[simp] theorem storeLine_l1 (key line : Nat) (ws : List Word) : (s.storeLine key line ws).l1 = s.l1 := by
  obtain ⟨mem, nibs, h⟩ := storeLine_frame s key line ws
  rw [h]

@[simp] theorem baseWrite_l1 (key line : Nat) (mask : BitVec 32) (ws : List Word) : (s.baseWrite key line mask ws).st.l1 = s.l1 := by
  unfold State.baseWrite
  split_ifs <;> simp

@[simp] theorem bookDecode_l1 (line status nsym : Nat) : (s.bookDecode line status nsym).l1 = s.l1 := by
  unfold State.bookDecode
  split_ifs <;> rfl

@[simp] theorem stackServe_l1 (x : StackReq) : (s.stackServe x).1.l1 = s.l1 := by
  unfold State.stackServe
  simp only []
  split_ifs
  iterate 2 rfl
  all_goals simp

@[simp] theorem portArrival_l1 (x : StackReq) : (s.portArrival x).l1 = s.l1 := by
  unfold State.portArrival
  simp only []
  split_ifs
  · rfl
  · exact stackServe_l1 s x

@[simp] theorem arriveSome_l1 (p : Instr → Bool) : (s.arriveSome p).l1 = s.l1 := by
  refine foldl_l1 { s with stackQ := s.stackQ.filter (fun i => !p i) } (fun t i => ?_) (s.stackQ.filter p)
  split
  · exact portArrival_l1 t _
  · rfl

@[simp] theorem settle_l1 (line : Nat) : (s.settle line).l1 = s.l1 := arriveSome_l1 s _

@[simp] theorem freeTagOf_l1 (x : StackReply) : (s.freeTagOf x).l1 = s.l1 := by
  unfold State.freeTagOf
  exact foldl_l1 _ (f := fun s (e : Nat × Packet) => s.send e.2) (fun t e => State.send_l1 t e.2) _

@[simp] theorem awaitTag_l1 (chan : Nat) : (s.awaitTag chan).l1 = s.l1 := by
  unfold State.awaitTag
  split_ifs
  · rfl
  · simp only []
    split
    · simp
    · split <;> simp

@[simp] theorem portNow_l1 (tag op : Nat) (mask : BitVec 32) (block : List Word) : (s.portNow tag op mask block).1.l1 = s.l1 := by
  simp [State.portNow]

@[simp] theorem portRead_l1 (tag : Nat) : (s.portRead tag).1.l1 = s.l1 := by
  obtain ⟨r, hr, e⟩ := portRead_eq s tag
  have h := portNow_l1 s tag 1 0 []
  rw [← hr] at h
  rw [e]
  exact h

@[simp] theorem portWrite_l1 (tag : Nat) (mask : BitVec 32) (ws : List Word) : (s.portWrite tag mask ws).l1 = s.l1 := by
  unfold State.portWrite
  split_ifs
  · rfl
  · exact portNow_l1 s _ _ _ _

@[simp] theorem l2Drop_l1 (tag : Nat) : (s.l2Drop tag).l1 = s.l1 := by
  unfold State.l2Drop
  split
  · rfl
  · simp only []
    split_ifs
    · exact portWrite_l1 _ _ _ _
    · rfl

@[simp] theorem l2Room_l1 (tag : Nat) : (s.l2Room tag).l1 = s.l1 := by
  unfold State.l2Room
  simp only []
  split_ifs
  · rfl
  · split
    · exact l2Drop_l1 _ _
    · rfl

@[simp] theorem l2Put_l1 (tag : Nat) (ws : List Word) (dirty : Bool) : (s.l2Put tag ws dirty).l1 = s.l1 := l2Room_l1 s tag

@[simp] theorem takeReply_l1 (x : StackReply) : (s.takeReply x).l1 = s.l1 := by
  unfold State.takeReply
  simp only []
  split
  · simp
  · split_ifs <;> simp

@[simp] theorem finishFill_l1 (tag : Nat) : (s.finishFill tag).l1 = s.l1 := by
  unfold State.finishFill
  simp only []
  split
  · exact (takeReply_l1 _ _).trans (settle_l1 s _)
  · exact settle_l1 s _

@[simp] theorem fetchLine_l1 (tag : Nat) : (s.fetchLine tag).l1 = s.l1 := by
  unfold State.fetchLine
  simp only []
  split_ifs <;> simp

@[simp] theorem homePut_l1 (tag : Nat) (mask : BitVec 32) (ws : List Word) : (s.homePut tag mask ws).l1 = s.l1 := by
  unfold State.homePut
  split_ifs
  · rfl
  · simp only []
    split
    · exact finishFill_l1 s tag
    · simp

@[simp] theorem staleFills_l1 (core tag : Nat) : (s.staleFills core tag).l1 = s.l1 := rfl
@[simp] theorem strike_l1 (core tag : Nat) (m : BitVec 32) : (s.strike core tag m).l1 = s.l1 := rfl
@[simp] theorem dropPartials_l1 (tag core : Nat) : (s.dropPartials tag core).l1 = s.l1 := rfl

@[simp] theorem partTxn_l1 (t : Txn) (got : BitVec 32) : (s.partTxn t got).l1 = s.l1 := by
  unfold State.partTxn
  simp only []
  split_ifs <;> rfl

@[simp] theorem released_l1 (tag : Nat) (m : BitVec 32) : (s.released tag m).l1 = s.l1 := by
  unfold State.released
  exact foldl_l1 _ (fun t x => partTxn_l1 t x m) _

@[simp] theorem landBacks_l1 (tag : Nat) : (s.landBacks tag).l1 = s.l1 := by
  refine foldl_l1 s (fun t x => ?_) _
  unfold State.landBack
  simp only []
  split_ifs
  · rfl
  · exact (released_l1 _ _ _).trans (homePut_l1 _ _ _ _)

@[simp] theorem voidPartials_l1 (tag : Nat) : (s.voidPartials tag).l1 = s.l1 :=
  foldl_l1 s (f := fun s (e : Txn × Packet) => s.voidTxn e.1) (fun _ _ => rfl) _

end

/-! ### The keys of a table -/

section
variable {α : Type} {t : Table α} {k : Nat}

/-- The keys that a table lists. -/
def tkeys (t : Table α) : List Nat := t.map (·.1)

theorem mem_tkeys_of_tfind {v : α} (h : tfind t k = some v) : k ∈ tkeys t := List.mem_map.2 ⟨(k, v), mem_of_tfind h, rfl⟩

theorem not_mem_tkeys_of_tfind (h : tfind t k = none) : k ∉ tkeys t := by
  induction t with
  | nil => exact List.not_mem_nil
  | cons e r ih =>
    obtain ⟨a, x⟩ := e
    rw [tfind] at h
    split at h
    · cases h
    · next hne => exact List.not_mem_cons_of_ne_of_not_mem (Ne.symm hne) (ih h)

theorem tkeys_tdel (t : Table α) (k : Nat) : tkeys (tdel t k) ⊆ tkeys t := List.map_subset _ (List.filter_subset_self _)

theorem not_mem_tkeys_tdel (t : Table α) (k : Nat) : k ∉ tkeys (tdel t k) := fun h => by
  obtain ⟨e, he, hk⟩ := List.mem_map.1 h
  exact bne_iff_ne.1 (List.mem_filter.1 he).2 hk

/-- A listed key takes another value. -/
theorem tkeys_tins (v : α) (h : k ∈ tkeys t) : tkeys (tins t k v) ⊆ tkeys t := fun j hj => by
  obtain ⟨e, he, rfl⟩ := List.mem_map.1 hj
  rcases mem_tins he with rfl | he
  · exact h
  · exact List.mem_map_of_mem he

end

/-! ### Words that leave the L1s -/

section
variable (s : State)

/-- A fold of steps that bring no word into an L1 brings none. -/
theorem l1Keys_foldl {α : Type} {f : State → α → State} (hf : ∀ s a, tkeys (f s a).l1 ⊆ tkeys s.l1) (l : List α) :
    tkeys (l.foldl f s).l1 ⊆ tkeys s.l1 :=
  foldl_keeps (fun t : State => tkeys t.l1 ⊆ tkeys s.l1) f (fun t a ht => List.Subset.trans (hf t a) ht) l s (List.Subset.refl _)

/-- A word that one step removes is gone after the fold. -/
theorem not_mem_l1Keys_foldl {α : Type} {f : State → α → State} (hf : ∀ s a, tkeys (f s a).l1 ⊆ tkeys s.l1) {k : Nat} {a : α} {l : List α}
    (ha : a ∈ l) (hk : ∀ t, k ∉ tkeys (f t a).l1) : k ∉ tkeys (l.foldl f s).l1 := by
  obtain ⟨l1, l2, rfl⟩ := List.append_of_mem ha
  rw [List.foldl_append, List.foldl_cons]
  exact fun h => hk _ (l1Keys_foldl _ hf l2 h)

theorem l1Keys_performNow (tag core : Nat) : tkeys (s.performNow tag core).l1 ⊆ tkeys s.l1 := by
  refine l1Keys_foldl s (fun t i => ?_) _
  split
  · next hword =>
    split_ifs
    · simpa using tkeys_tins _ (mem_tkeys_of_tfind hword)
    · exact List.Subset.refl _
  · exact List.Subset.refl _

theorem l1Keys_takeBack (tag idx core : Nat) : tkeys (s.takeBack tag idx core).l1 ⊆ tkeys s.l1 := by
  unfold State.takeBack
  lift_lets
  intro k s0
  have h0 : tkeys s0.l1 ⊆ tkeys s.l1 := by
    simp only [s0]
    split
    · exact l1Keys_performNow s tag core
    · exact List.Subset.refl _
  split
  · split_ifs
    all_goals simpa using List.Subset.trans (tkeys_tdel s0.l1 k) h0
  · exact h0

/-- R187: an owned word taken back is no longer held. -/
theorem takeBack_leaves {core tag idx : Nat} {dirty : Bool} {w : Word} (h : tfind s.l1 (l1Key core tag idx) = some ⟨.owned dirty, w⟩) :
    l1Key core tag idx ∉ tkeys (s.takeBack tag idx core).l1 := by
  unfold State.takeBack
  simp only [h]
  split_ifs
  all_goals simpa using not_mem_tkeys_tdel s.l1 (l1Key core tag idx)

theorem l1Keys_revokeNow (tag : Nat) (mask : BitVec 32) : tkeys (s.revokeNow tag mask).l1 ⊆ tkeys s.l1 := by
  unfold State.revokeNow
  simp only []
  split
  · simp
  · simpa using l1Keys_foldl (s.landBacks tag) (fun t (p : Nat × Nat) => l1Keys_takeBack t tag p.1 p.2) _

theorem l1Keys_addWords (tag kind : Nat) (mine : List (Nat × Word)) : tkeys (s.addWords tag kind mine).l1 ⊆ tkeys s.l1 := by
  unfold State.addWords
  simp only []
  split_ifs
  all_goals simpa using l1Keys_revokeNow (s.fetchLine tag) tag _

theorem l1Keys_addPartials (tag core kind : Nat) : tkeys (s.addPartials tag core kind).l1 ⊆ tkeys s.l1 :=
  l1Keys_addWords (s.dropPartials tag core) tag kind _

theorem l1Keys_combine (tag : Nat) : tkeys (s.combine tag).l1 ⊆ tkeys s.l1 := by
  unfold State.combine
  simp only []
  split_ifs
  · exact List.Subset.refl _
  · rw [← voidPartials_l1 s tag]
    refine l1Keys_foldl _ (fun t c => ?_) _
    exact List.Subset.trans (l1Keys_addPartials _ _ _ _) (l1Keys_foldl t (fun u e => l1Keys_addWords u _ _ _) _)

theorem l1Keys_prepare (tag : Nat) : tkeys (s.prepare tag).l1 ⊆ tkeys s.l1 := by
  simpa [State.prepare] using l1Keys_combine ((s.landBacks tag).fetchLine tag) tag

theorem l1Keys_homeStores (tag idx : Nat) (b : Stores) : tkeys (s.homeStores tag idx b).l1 ⊆ tkeys s.l1 := by
  unfold State.homeStores State.homeWrite
  split_ifs
  all_goals simpa using List.Subset.trans (l1Keys_revokeNow (s.prepare tag) tag _) (l1Keys_prepare s tag)

/-! ### A line leaves an L1 (R187, R189, R191) -/

theorem l1Keys_commitWord (core tag idx : Nat) : tkeys (s.commitWord core tag idx).l1 ⊆ tkeys s.l1 := by
  have hdel := tkeys_tdel s.l1 (l1Key core tag idx)
  unfold State.commitWord
  simp only []
  split
  · simpa using List.Subset.trans (l1Keys_homeStores (State.strike _ core tag _) tag idx _) hdel
  · split
    all_goals exact l1Keys_takeBack s tag idx core
  · exact hdel
  · exact List.Subset.refl _

/-- R187: the word has left. -/
theorem commitWord_leaves (core tag idx : Nat) : l1Key core tag idx ∉ tkeys (s.commitWord core tag idx).l1 := by
  have hgone := not_mem_tkeys_tdel s.l1 (l1Key core tag idx)
  unfold State.commitWord
  simp only []
  split
  · simpa using mt (l1Keys_homeStores (State.strike _ core tag _) tag idx _ ·) hgone
  · next hword =>
    split
    all_goals exact takeBack_leaves s hword
  · exact hgone
  · next hnone => exact not_mem_tkeys_of_tfind hnone

theorem l1Keys_commitMerges (core tag : Nat) : tkeys (s.commitMerges core tag).l1 ⊆ tkeys s.l1 := by
  unfold State.commitMerges
  refine l1Keys_foldl { s with merges := s.merges.filter (fun m => !(m.core == core && m.tag == tag)) } (fun t m => ?_) _
  simpa using l1Keys_homeStores t tag m.idx m.bytes

theorem l1Keys_flushLine (core tag : Nat) : tkeys (s.flushLine core tag).l1 ⊆ tkeys s.l1 := by
  unfold State.flushLine
  lift_lets
  intro s1
  have h1 : tkeys s1.l1 ⊆ tkeys s.l1 := by
    simp only [s1]
    split_ifs
    · exact List.Subset.refl _
    · exact l1Keys_addPartials s tag core _
  rw [staleFills_l1]
  exact List.Subset.trans (l1Keys_foldl (s1.commitMerges core tag) (fun t i => l1Keys_commitWord t core tag i) (List.range 32))
    (List.Subset.trans (l1Keys_commitMerges s1 core tag) h1)

/-- R187: the words of the line have left. -/
theorem flushLine_leaves (core tag : Nat) {i : Nat} (hi : i < 32) : l1Key core tag i ∉ tkeys (s.flushLine core tag).l1 := by
  rw [State.flushLine, staleFills_l1]
  exact not_mem_l1Keys_foldl _ (fun t j => l1Keys_commitWord t core tag j) (List.mem_range.2 hi) (fun t => commitWord_leaves t core tag i)

/-- R191: a core's L1 is emptied line by line. -/
theorem flushCore_empties (core : Nat) : ∀ e ∈ (s.flushCore core).l1, e.1 / 32 % 512 ≠ core := by
  intro e he hcore
  have hleft : e.1 ∈ tkeys (s.flushCore core).l1 := List.mem_map_of_mem he
  have hheld : e.1 ∈ tkeys s.l1 := l1Keys_foldl s (fun t tag => l1Keys_flushLine t core tag) _ hleft
  have hline : e.1 / 32 / 512 ∈ s.linesIn core := mem_sortNat.2 (List.mem_append_left _ (List.mem_map_of_mem
    (List.mem_filter.2 ⟨List.mem_append_left _ hheld, beq_iff_eq.2 hcore⟩)))
  have hkey : l1Key core (e.1 / 32 / 512) (e.1 % 32) = e.1 := by rw [l1Key]; omega
  refine not_mem_l1Keys_foldl s (fun t tag => l1Keys_flushLine t core tag) hline (fun t => ?_) hleft
  have hgone := flushLine_leaves t core (e.1 / 32 / 512) (Nat.mod_lt e.1 (by decide : 32 > 0))
  rwa [hkey] at hgone

end

end Sys2Proof.Machine
end

section
/-! Lines that leave a cache, and words that no row of the instruction table encodes (R187, R189, R191, R250, R251, R259). -/

namespace Sys2Proof.Machine

/-! ### Eviction from an L1 (R187, R189) -/

/-- The words of a line that a core's L1 holds. -/
def State.lineWords (s : State) (core tag : Nat) : List (Nat × L1Word) :=
  (List.range 32).filterMap (fun i => (tfind s.l1 (l1Key core tag i)).map (fun w => (i, w)))

/-- Those of them that are registered to the core. -/
def State.ownedWords (s : State) (core tag : Nat) : List (Nat × L1Word) := (s.lineWords core tag).filter (fun w => isOwned (some w.2))

/-- R189: the state with the core's partials of a line flushed. -/
def State.partialsFlushed (s : State) (core tag : Nat) : State :=
  if (s.partialsOf tag core).isEmpty then s else s.addPartials tag core (tget s.commKinds tag 0)

/-- R187, R189: the state in which what the line owes its home is on its way; none while no transaction is free. -/
def State.lineSent (s : State) (core tag : Nat) : Option State :=
  if (s.ownedWords core tag).isEmpty then some (s.partialsFlushed core tag)
  else (s.partialsFlushed core tag).sendBack core tag ((s.ownedWords core tag).map (fun w => (w.1, w.2.w)))

/-- The state without a line's words in a core's L1. -/
def State.lineGone (s : State) (core tag : Nat) : State :=
  ({ s with l1 := s.l1.filter (fun e => e.1 / 32 != tag * 512 + core) } : State).staleFills core tag

section
variable {s : State} {core tag : Nat}

theorem lineSent_unowned (hnone : s.ownedWords core tag = []) : s.lineSent core tag = some (s.partialsFlushed core tag) :=
  if_pos (List.isEmpty_iff.2 hnone)

theorem lineSent_owned (hsome : s.ownedWords core tag ≠ []) : s.lineSent core tag =
    (s.partialsFlushed core tag).sendBack core tag ((s.ownedWords core tag).map (fun w => (w.1, w.2.w))) :=
  if_neg (mt List.isEmpty_iff.1 hsome)

/-- A line with no store under way leaves once what it owes is sent. -/
theorem exec_l1Eviction {u : State} (hmerges : s.merges.any (fun m => m.core == core && m.tag == tag) = false)
    (hsettled : ∀ w ∈ s.lineWords core tag, isPending (some w.2) = false) (hsent : s.lineSent core tag = some u) :
    exec (.l1Eviction core tag) s = .next (u.lineGone core tag) := by
  have hpending : (s.lineWords core tag).any (fun w => isPending (some w.2)) = false :=
    List.any_eq_false.2 fun w hw => Bool.eq_false_iff.1 (hsettled w hw)
  unfold State.lineSent State.ownedWords State.partialsFlushed State.lineWords at hsent
  unfold State.lineWords at hpending
  refine (if_neg ?_).trans ?_
  · rw [hpending, hmerges]
    exact Bool.false_ne_true
  · simp only [hsent]
    rfl

end

/-! ### Words that are no instruction (R250, R251, R259) -/

section
variable {s s2 : State} {w : BitVec 32} {xs : List XOk}

theorem illegal_delivers {lanes : BitVec 32} (h : s.Delivers (Trap.plain cIllegal 0 lanes lanes) s2 xs) :
    s.illegal lanes = s.delivered (Trap.plain cIllegal 0 lanes lanes) s2 xs := raise_delivers h

theorem unassigned_S (hset : w.getLsbD 31 = true) : exec (.unassignedEncoding w) s = .next (s.illegal s.g.exec) :=
  congrArg Host.Outcome.next (if_pos hset)

variable (hset : w.getLsbD 31 = false)
include hset

theorem unassigned_V_kiln (hkiln : s.onKiln = true) : exec (.unassignedEncoding w) s = .next (s.kilnStop 0x09 false) :=
  congrArg Host.Outcome.next ((if_neg (by rw [hset]; exact Bool.false_ne_true)).trans (if_pos hkiln))

theorem unassigned_V_core (hcore : s.onKiln = false) : exec (.unassignedEncoding w) s = .next (s.illegal (s.badWordLanes w)) :=
  congrArg Host.Outcome.next ((if_neg (by rw [hset]; exact Bool.false_ne_true)).trans (if_neg (by simp [hcore])))

end

/-- Settles O45: an evicted line by whether it has owned words, a gated L1 line by line, a word by its set. -/
theorem cachesAndUnassignedWords : Obligations.CachesAndUnassignedWords := by
  unfold Obligations.CachesAndUnassignedWords
  intro s
  refine ⟨?_, fun die unit => ⟨rfl, flushCore_empties s (die * 64 + unit), rfl⟩, fun w s2 xs => ⟨?_, unassigned_V_kiln, ?_⟩⟩
  · intro core tag ws owned s1 gone hmerges hsettled
    exact ⟨fun hnone => exec_l1Eviction hmerges hsettled (lineSent_unowned hnone),
      fun u hsome hsent => exec_l1Eviction hmerges hsettled ((lineSent_owned hsome).trans hsent)⟩
  · intro hset t hdelivers
    rw [unassigned_S hset, illegal_delivers hdelivers]
  · intro hset ls t hdelivers
    exact (unassigned_V_core hset hdelivers.core).trans (congrArg Host.Outcome.next (illegal_delivers hdelivers))

end Sys2Proof.Machine
end

section
/-! Encodings: every well-formed instruction is read back from its word, and every accepted word is the one encoding of its instruction
(R250–R252, R254, R256–R259). -/

namespace Sys2Proof.Laws

/-! ### A word is its fields (R252, R254) -/

/-- The number that adjacent fields of a word spell: the lowest begins at bit `lo`, and each has the width listed. -/
def fieldSum (w : BitVec 32) : Nat → List Nat → Nat
  | _, [] => 0
  | lo, n :: ns => bits w lo n * 2 ^ lo + fieldSum w (lo + n) ns

section
variable {w : BitVec 32}

theorem fld_toNat (w : BitVec 32) (lo n : Nat) : (fld w lo n).toNat = bits w lo n := BitVec.toNat_ofNat ..

theorem mod_add_fieldSum (lo : Nat) (ns : List Nat) : w.toNat % 2 ^ lo + fieldSum w lo ns = w.toNat % 2 ^ (lo + ns.sum) := by
  induction ns generalizing lo with
  | nil => rfl
  | cons n ns ih =>
    rw [List.sum_cons, ← Nat.add_assoc, ← ih, Nat.pow_add 2 lo n, Nat.mod_mul, fieldSum, bits]
    ring

theorem fieldSum_eq_toNat {ns : List Nat} (hns : ns.sum = 32) : fieldSum w 0 ns = w.toNat := by
  have hsum := mod_add_fieldSum (w := w) 0 ns
  rwa [Nat.pow_zero, Nat.mod_one, Nat.zero_add, Nat.zero_add, hns, Nat.mod_eq_of_lt w.isLt] at hsum

theorem bits_lt (w : BitVec 32) (lo n : Nat) : bits w lo n < 2 ^ n := Nat.mod_lt _ (Nat.two_pow_pos n)

end

/-! ### What a reading of a word must be

The premises with a default proof: the instruction is well formed whatever its fields, the encoder writes back the fields that the layout
names, and these fields cover the word. -/

/-- What a reading of `w` accepts is a well-formed instruction whose word is `w`. -/
def Canonical (w : BitVec 32) (r : Except DecodeError Instr) : Prop :=
  ∀ i, r = .ok i → i.wf = true ∧ encode i = some w

section
variable {w : BitVec 32} {op N : Nat} {c : Prop} [Decidable c] {i : Instr} {r : Except DecodeError Instr}

theorem Canonical.refuses (e : DecodeError) : Canonical w (.error e) := fun _ h => nomatch h

/-- The only row of an opcode: where the layout `ns` covers the word, an encoder that writes back each field writes the word. -/
theorem Canonical.only (hop : bits w 25 7 = op) (ns : List Nat) (henc : encode i = some (BitVec.ofNat 32 N))
    (hwf : i.wf = true := by rfl)
    (hfields : bits w 25 7 = op → N = fieldSum w 0 ns := by
      intro hop; simp only [fieldSum, fld_toNat, hop, Nat.reduceAdd, Nat.reducePow]; omega)
    (hns : ns.sum = 32 := by rfl) : Canonical w (.ok i) := by
  rintro _ ⟨⟩
  exact ⟨hwf, by rw [henc, hfields hop, fieldSum_eq_toNat hns, BitVec.ofNat_toNat, BitVec.setWidth_eq]⟩

/-- One row of several of an opcode: its layout names the fields that its condition fixes, too. -/
theorem Canonical.row (hop : bits w 25 7 = op) (ns : List Nat) (henc : encode i = some (BitVec.ofNat 32 N))
    (rest : ¬ c → Canonical w r)
    (hwf : c → i.wf = true := by intro _; rfl)
    (hfields : bits w 25 7 = op → c → N = fieldSum w 0 ns := by
      intro hop hc; simp only [fieldSum, fld_toNat, hop, hc, Nat.reduceAdd, Nat.reducePow]; omega)
    (hns : ns.sum = 32 := by rfl) : Canonical w (if c then .ok i else r) := by
  split
  · next hc => exact .only hop ns henc (hwf hc) (fun hop => hfields hop hc) hns
  · next hc => exact rest hc

end

/-! ### Instructions that another row could own -/

section
variable {w : BitVec 32} {op : Nat}

theorem fld_eq_iff {lo n : Nat} {v : BitVec n} : fld w lo n = v ↔ bits w lo n = v.toNat := by
  rw [← BitVec.toNat_inj, fld_toNat]

/-- R259: the zero word, which no row owns, would be an `add`. -/
theorem wf_vAdd (hw : w ≠ 0) (hop : bits w 25 7 = 0) (hc : bits w 5 2 = 0) :
    (Instr.vAdd (fld w 19 6) (fld w 13 6) (fld w 7 6) (fld w 3 2) (fld w 0 3)).wf = true := by
  have hpos : w.toNat ≠ 0 := fun h => hw (BitVec.eq_of_toNat_eq h)
  have hfields := fieldSum_eq_toNat (w := w) (ns := [3, 2, 2, 6, 6, 6, 7]) rfl
  simp only [fieldSum, hop, hc, Nat.reduceAdd] at hfields
  simp only [Instr.wf, Bool.not_eq_true', Bool.and_eq_false_iff, beq_eq_false_iff_ne, ne_eq, fld_eq_iff, BitVec.reduceToNat]
  omega

/-- R192, R257: `cpy` owns the stores of size code 3. -/
theorem wf_vSt (hcpy : ¬ bits w 3 4 = 3) (hc : bits w 6 1 = 0) :
    (Instr.vSt (fld w 19 6) (fld w 13 6) (fld w 7 6) (fld w 3 3) (fld w 0 3)).wf = true := by
  refine bne_iff_ne.2 (mt fld_eq_iff.1 fun h => hcpy ?_)
  simp only [bits, BitVec.reduceToNat] at h hc ⊢
  omega

/-- R257: `fclass` owns the words of `fcmp` with condition 7 and no `vb`. -/
theorem wf_vFcmp (hclass : ¬ bits w 4 9 = 7) :
    (Instr.vFcmp (fld w 19 3) (fld w 13 6) (fld w 7 6) (fld w 4 3) (fld w 3 1) (fld w 0 3)).wf = true := by
  simp only [Instr.wf, Bool.not_eq_true', Bool.and_eq_false_iff, beq_eq_false_iff_ne, ne_eq, fld_eq_iff, BitVec.reduceToNat]
  simp only [bits] at hclass ⊢
  omega

/-- R258: `mov` owns the words of the uniform `sel` with selector 7 and no `sb`. -/
theorem wf_sSel (hmov : ¬ (bits w 3 3 = 7 ∧ bits w 7 6 = 0)) :
    (Instr.sSel (fld w 19 6) (fld w 13 6) (fld w 7 6) (fld w 6 1) (fld w 3 3) (fld w 0 3)).wf = true := by
  simp only [Instr.wf, Bool.not_eq_true', Bool.and_eq_false_iff, beq_eq_false_iff_ne, ne_eq, fld_eq_iff, BitVec.reduceToNat]
  omega

/-- R257: a load's size code is the low part of its opcode. -/
theorem canonical_load (hop : bits w 25 7 = op) (hlo : 32 ≤ op) (hhi : op ≤ 36) :
    Canonical w (.ok (.vLd (fld w 25 3) (fld w 19 6) (fld w 13 6) (fld w 7 6) (fld w 3 4) (fld w 0 3))) := by
  have hsize : bits w 25 3 = op - 32 := by
    simp only [bits] at hop ⊢
    omega
  refine .only hop [3, 4, 6, 6, 6, 7] rfl (decide_eq_true ?_) fun _ => ?_
  · rw [fld_toNat, hsize]
    omega
  · simp only [fieldSum, fld_toNat, hop, hsize, Nat.reduceAdd, Nat.reducePow]
    omega

/-! ### The rows of the opcode map, each with the widths of its fields from bit 0 up (R252, R254, R257, R258) -/

/-- R257: `add` to `movh` of the V-set. -/
theorem canonical_laneInteger (hw : w ≠ 0) (hop : bits w 25 7 = op) (hhi : op < 16) : Canonical w (decodeOp w op) := by
  interval_cases op
  · rw [decodeOp_0]
    exact .row hop [3, 4, 6, 6, 6, 7] rfl fun _ => .row hop [3, 4, 6, 6, 6, 7] rfl fun _ =>
      .row hop [3, 4, 6, 6, 6, 7] rfl fun _ => .row hop [3, 1, 3, 6, 6, 6, 7] rfl fun _ =>
      .row hop [3, 1, 3, 6, 6, 6, 7] rfl fun _ => .row hop [3, 2, 2, 6, 6, 6, 7] rfl (hwf := wf_vAdd hw hop) fun _ =>
      .row hop [3, 2, 2, 6, 6, 6, 7] rfl fun _ => .refuses _
  · rw [decodeOp_1]
    exact .row hop [3, 10, 6, 6, 7] rfl fun _ => .row hop [3, 10, 6, 6, 7] rfl fun _ => .row hop [3, 10, 6, 6, 7] rfl fun _ =>
      .row hop [3, 10, 6, 6, 7] rfl fun _ => .row hop [3, 10, 6, 6, 7] rfl fun _ => .row hop [3, 4, 6, 6, 6, 7] rfl fun _ =>
      .row hop [3, 4, 6, 6, 6, 7] rfl fun _ => .row hop [3, 4, 6, 6, 6, 7] rfl fun _ => .row hop [3, 4, 6, 6, 6, 7] rfl fun _ =>
      .row hop [3, 1, 3, 6, 6, 6, 7] rfl fun _ => .row hop [3, 1, 3, 6, 6, 6, 7] rfl fun _ => .refuses _
  · rw [decodeOp_2]
    exact .row hop [3, 1, 1, 1, 1, 6, 6, 6, 7] rfl fun _ => .row hop [3, 1, 1, 1, 1, 6, 6, 6, 7] rfl fun _ => .refuses _
  · rw [decodeOp_3]
    exact .row hop [3, 10, 6, 6, 7] rfl fun _ => .row hop [3, 10, 6, 6, 7] rfl fun _ => .row hop [3, 10, 6, 6, 7] rfl fun _ =>
      .row hop [3, 4, 6, 6, 6, 7] rfl fun _ => .row hop [3, 4, 6, 6, 6, 7] rfl fun _ => .row hop [3, 4, 6, 6, 6, 7] rfl fun _ =>
      .row hop [3, 4, 6, 6, 6, 7] rfl fun _ => .row hop [3, 4, 6, 6, 6, 7] rfl fun _ => .row hop [3, 4, 6, 6, 6, 7] rfl fun _ =>
      .row hop [3, 4, 6, 6, 6, 7] rfl fun _ => .row hop [3, 4, 6, 6, 6, 7] rfl fun _ => .row hop [3, 4, 6, 6, 6, 7] rfl fun _ =>
      .refuses _
  · rw [decodeOp_4]
    exact .only hop [3, 3, 1, 6, 6, 6, 7] rfl
  · rw [decodeOp_5]
    exact .row hop [3, 3, 1, 6, 6, 3, 3, 7] rfl fun _ => .refuses _
  · rw [decodeOp_6]
    exact .row hop [3, 4, 3, 3, 3, 3, 3, 3, 7] rfl fun _ => .refuses _
  · rw [decodeOp_7]
    exact .only hop [3, 10, 6, 6, 7] rfl
  · rw [decodeOp_8]
    exact .only hop [3, 10, 6, 6, 7] rfl
  · rw [decodeOp_9]
    exact .only hop [3, 10, 6, 6, 7] rfl
  · rw [decodeOp_10]
    exact .only hop [3, 10, 6, 6, 7] rfl
  · rw [decodeOp_11]
    exact .row hop [3, 5, 5, 6, 6, 7] rfl fun _ => .row hop [3, 5, 5, 6, 6, 7] rfl fun _ => .refuses _
  · rw [decodeOp_12]
    exact .row hop [3, 7, 3, 6, 3, 3, 7] rfl fun _ => .refuses _
  · rw [decodeOp_13]
    exact .only hop [3, 16, 6, 7] rfl
  · rw [decodeOp_14]
    exact .only hop [3, 16, 6, 7] rfl
  · rw [decodeOp_15]
    exact .only hop [3, 16, 6, 7] rfl

/-- R257: `fadd` to `lfold`. -/
theorem canonical_laneFloat (hop : bits w 25 7 = op) (hlo : 16 ≤ op) (hhi : op < 32) : Canonical w (decodeOp w op) := by
  interval_cases op
  · rw [decodeOp_16]
    exact .row hop [3, 2, 1, 1, 6, 6, 6, 7] rfl fun _ => .row hop [3, 2, 1, 1, 6, 6, 6, 7] rfl fun _ => .refuses _
  · rw [decodeOp_17]
    exact .row hop [3, 2, 1, 1, 6, 6, 6, 7] rfl fun _ => .refuses _
  · rw [decodeOp_18]
    exact .row hop [3, 2, 1, 1, 6, 6, 6, 7] rfl fun _ => .refuses _
  · rw [decodeOp_19]
    exact .row hop [3, 2, 8, 6, 6, 7] rfl fun _ => .row hop [3, 2, 8, 6, 6, 7] rfl fun _ =>
      .row hop [3, 2, 2, 6, 6, 6, 7] rfl fun _ => .row hop [3, 2, 2, 6, 6, 6, 7] rfl fun _ => .refuses _
  · rw [decodeOp_20]
    exact .row hop [3, 1, 9, 6, 6, 7] rfl fun hclass =>
      .row hop [3, 1, 3, 6, 6, 3, 3, 7] rfl (hwf := fun _ => wf_vFcmp hclass) fun _ => .refuses _
  · rw [decodeOp_21]
    exact .row hop [3, 4, 4, 2, 6, 6, 7] rfl fun _ => .row hop [3, 4, 4, 2, 6, 6, 7] rfl fun _ =>
      .row hop [3, 4, 4, 2, 6, 6, 7] rfl fun _ => .row hop [3, 4, 4, 2, 6, 6, 7] rfl fun _ =>
      .row hop [3, 4, 4, 2, 6, 6, 7] rfl fun _ => .row hop [3, 4, 4, 2, 6, 6, 7] rfl fun _ =>
      .row hop [3, 4, 4, 2, 6, 6, 7] rfl fun _ => .refuses _
  · rw [decodeOp_22]
    exact .row hop [3, 2, 2, 2, 4, 6, 6, 7] rfl fun _ => .row hop [3, 2, 2, 6, 6, 6, 7] rfl fun _ =>
      .row hop [3, 2, 2, 6, 6, 6, 7] rfl fun _ => .refuses _
  · exact .refuses (.unassignedOp 23)
  · rw [decodeOp_24]
    exact .row hop [3, 4, 4, 1, 1, 6, 6, 7] rfl fun _ => .refuses _
  · rw [decodeOp_25]
    exact .row hop [3, 3, 1, 6, 6, 6, 7] rfl fun _ => .row hop [3, 3, 1, 6, 6, 6, 7] rfl fun _ => .refuses _
  · rw [decodeOp_26]
    exact .row hop [3, 2, 1, 1, 1, 5, 6, 6, 7] rfl fun _ => .refuses _
  · exact .refuses (.unassignedOp 27)
  · rw [decodeOp_28]
    exact .row hop [3, 2, 2, 6, 6, 6, 7] rfl fun _ => .refuses _
  · rw [decodeOp_29]
    exact .row hop [3, 3, 7, 3, 3, 6, 7] rfl fun _ => .refuses _
  · rw [decodeOp_30]
    exact .row hop [3, 4, 6, 6, 6, 7] rfl fun _ => .refuses _
  · exact .refuses (.unassignedOp 31)

/-- R257: `ld.b8` to `stcl`. -/
theorem canonical_laneMemory (hop : bits w 25 7 = op) (hlo : 32 ≤ op) (hhi : op < 44) : Canonical w (decodeOp w op) := by
  interval_cases op
  · exact canonical_load hop (by decide) (by decide)
  · exact canonical_load hop (by decide) (by decide)
  · exact canonical_load hop (by decide) (by decide)
  · exact canonical_load hop (by decide) (by decide)
  · exact canonical_load hop (by decide) (by decide)
  · rw [decodeOp_37]
    exact .row hop [3, 4, 6, 6, 6, 7] rfl fun hcpy => .row hop [3, 3, 1, 6, 6, 6, 7] rfl (hwf := wf_vSt hcpy) fun _ => .refuses _
  · rw [decodeOp_38]
    exact .only hop [3, 4, 3, 3, 6, 6, 7] rfl
  · rw [decodeOp_39]
    exact .only hop [3, 4, 3, 3, 6, 6, 7] rfl
  · rw [decodeOp_40]
    exact .row hop [3, 4, 6, 6, 6, 7] rfl fun _ => .row hop [3, 4, 6, 6, 6, 7] rfl fun _ =>
      .row hop [3, 4, 6, 6, 6, 7] rfl fun _ => .refuses _
  · rw [decodeOp_41]
    exact .only hop [3, 4, 4, 2, 6, 6, 7] rfl
  · rw [decodeOp_42]
    exact .only hop [3, 4, 4, 2, 6, 6, 7] rfl
  · rw [decodeOp_43]
    exact .row hop [3, 3, 1, 6, 6, 6, 7] rfl fun _ => .row hop [3, 3, 1, 6, 6, 6, 7] rfl fun _ => .refuses _

/-- R257: `bd` to `rgen`. -/
theorem canonical_laneControlAndMatrix (hop : bits w 25 7 = op) (hlo : 44 ≤ op) (hhi : op < 64) : Canonical w (decodeOp w op) := by
  interval_cases op
  · rw [decodeOp_44]
    exact .only hop [11, 11, 3, 7] rfl
  · rw [decodeOp_45]
    exact .only hop [22, 3, 7] rfl
  · rw [decodeOp_46]
    exact .only hop [11, 8, 6, 7] rfl
  · rw [decodeOp_47]
    exact .row hop [6, 5, 8, 6, 7] rfl fun _ => .refuses _
  · rw [decodeOp_48]
    exact .row hop [11, 8, 6, 7] rfl fun _ => .refuses _
  · rw [decodeOp_49]
    exact .row hop [3, 22, 7] rfl fun _ => .refuses _
  · exact .refuses (.unassignedOp 50)
  · exact .refuses (.unassignedOp 51)
  · rw [decodeOp_52]
    exact .only hop [4, 1, 8, 6, 6, 7] rfl
  · rw [decodeOp_53]
    exact .row hop [4, 1, 8, 12, 7] rfl fun _ => .refuses _
  · rw [decodeOp_54]
    exact .row hop [4, 1, 8, 6, 6, 7] rfl fun _ => .refuses _
  · rw [decodeOp_55]
    exact .row hop [4, 1, 8, 6, 6, 7] rfl fun _ => .refuses _
  · rw [decodeOp_56]
    exact .only hop [4, 1, 8, 6, 6, 7] rfl
  · rw [decodeOp_57]
    exact .row hop [3, 4, 6, 6, 6, 7] rfl fun _ => .refuses _
  · rw [decodeOp_58]
    exact .row hop [3, 4, 6, 6, 6, 7] rfl fun _ => .refuses _
  · rw [decodeOp_59]
    exact .row hop [3, 4, 6, 6, 6, 7] rfl fun _ => .refuses _
  · rw [decodeOp_60]
    exact .row hop [3, 4, 6, 6, 6, 7] rfl fun _ => .refuses _
  · rw [decodeOp_61]
    exact .row hop [3, 1, 15, 6, 7] rfl fun _ => .refuses _
  · rw [decodeOp_62]
    exact .row hop [3, 1, 9, 6, 3, 3, 7] rfl fun _ => .row hop [3, 1, 9, 6, 6, 7] rfl fun _ => .refuses _
  · exact .refuses (.unassignedOp 63)

/-- R258: `add` to `movh` of the S-set. -/
theorem canonical_uniformInteger (hop : bits w 25 7 = op) (hlo : 64 ≤ op) (hhi : op < 80) : Canonical w (decodeOp w op) := by
  interval_cases op
  · rw [decodeOp_64]
    exact .row hop [3, 1, 3, 6, 6, 6, 7] rfl fun _ => .row hop [3, 1, 3, 6, 6, 6, 7] rfl fun _ =>
      .row hop [3, 1, 3, 6, 6, 6, 7] rfl fun _ => .row hop [3, 1, 3, 6, 6, 6, 7] rfl fun _ => .refuses _
  · rw [decodeOp_65]
    exact .row hop [3, 4, 6, 6, 6, 7] rfl fun _ => .row hop [3, 4, 6, 6, 6, 7] rfl fun _ =>
      .row hop [3, 4, 6, 6, 6, 7] rfl fun _ => .row hop [3, 4, 6, 6, 6, 7] rfl fun _ => .row hop [3, 4, 6, 6, 6, 7] rfl fun _ =>
      .row hop [3, 4, 6, 6, 6, 7] rfl fun _ => .row hop [3, 4, 6, 6, 6, 7] rfl fun _ => .refuses _
  · rw [decodeOp_66]
    exact .row hop [3, 1, 1, 1, 1, 6, 6, 6, 7] rfl fun _ => .row hop [3, 1, 1, 1, 1, 6, 6, 6, 7] rfl fun _ => .refuses _
  · rw [decodeOp_67]
    exact .row hop [3, 3, 1, 6, 6, 3, 3, 7] rfl fun _ => .refuses _
  · rw [decodeOp_68]
    exact .row hop [3, 3, 1, 6, 6, 6, 7] rfl fun hmov => .only hop [3, 3, 1, 6, 6, 6, 7] rfl (hwf := wf_sSel hmov)
  · rw [decodeOp_69]
    exact .row hop [3, 4, 3, 3, 3, 3, 3, 3, 7] rfl fun _ => .refuses _
  · rw [decodeOp_70]
    exact .only hop [3, 10, 6, 6, 7] rfl
  · rw [decodeOp_71]
    exact .only hop [3, 10, 6, 6, 7] rfl
  · rw [decodeOp_72]
    exact .only hop [3, 10, 6, 6, 7] rfl
  · rw [decodeOp_73]
    exact .only hop [3, 10, 6, 6, 7] rfl
  · rw [decodeOp_74]
    exact .row hop [3, 5, 5, 6, 6, 7] rfl fun _ => .row hop [3, 5, 5, 6, 6, 7] rfl fun _ => .refuses _
  · rw [decodeOp_75]
    exact .row hop [3, 7, 3, 6, 3, 3, 7] rfl fun _ => .refuses _
  · rw [decodeOp_76]
    exact .only hop [3, 16, 6, 7] rfl
  · rw [decodeOp_77]
    exact .only hop [3, 16, 6, 7] rfl
  · rw [decodeOp_78]
    exact .only hop [3, 16, 6, 7] rfl
  · exact .refuses (.unassignedOp 79)

/-- R258: `sld` to `sleep`. -/
theorem canonical_uniformControl (hop : bits w 25 7 = op) (hlo : 80 ≤ op) (hhi : op < 100) : Canonical w (decodeOp w op) := by
  interval_cases op
  · rw [decodeOp_80]
    exact .only hop [3, 4, 4, 2, 6, 6, 7] rfl
  · rw [decodeOp_81]
    exact .row hop [3, 3, 1, 6, 6, 6, 7] rfl fun _ => .refuses _
  · rw [decodeOp_82]
    exact .only hop [3, 4, 3, 3, 6, 6, 7] rfl
  · exact .refuses (.unassignedOp 83)
  · exact .refuses (.unassignedOp 84)
  · exact .refuses (.unassignedOp 85)
  · exact .refuses (.unassignedOp 86)
  · exact .refuses (.unassignedOp 87)
  · rw [decodeOp_88]
    exact .only hop [3, 22, 7] rfl
  · rw [decodeOp_89]
    exact .only hop [3, 16, 6, 7] rfl
  · rw [decodeOp_90]
    exact .row hop [3, 4, 6, 6, 6, 7] rfl fun _ => .refuses _
  · rw [decodeOp_91]
    exact .row hop [3, 22, 7] rfl fun _ => .refuses _
  · rw [decodeOp_92]
    exact .row hop [3, 10, 6, 6, 7] rfl fun _ => .refuses _
  · rw [decodeOp_93]
    exact .row hop [3, 10, 12, 7] rfl fun _ => .refuses _
  · rw [decodeOp_94]
    exact .row hop [3, 10, 6, 6, 7] rfl fun _ => .refuses _
  · rw [decodeOp_95]
    exact .row hop [3, 22, 7] rfl fun _ => .refuses _
  · rw [decodeOp_96]
    exact .row hop [3, 22, 7] rfl fun _ => .refuses _
  · rw [decodeOp_97]
    exact .row hop [3, 10, 12, 7] rfl fun _ => .refuses _
  · exact .refuses (.unassignedOp 98)
  · exact .refuses (.unassignedOp 99)

/-- R258: `bar` to `wrexec`. -/
theorem canonical_sync (hop : bits w 25 7 = op) (hlo : 100 ≤ op) (hhi : op < 112) : Canonical w (decodeOp w op) := by
  interval_cases op
  · rw [decodeOp_100]
    exact .row hop [3, 4, 4, 14, 7] rfl fun _ => .row hop [3, 4, 4, 14, 7] rfl fun _ => .row hop [3, 4, 4, 14, 7] rfl fun _ =>
      .refuses _
  · rw [decodeOp_101]
    exact .row hop [3, 22, 7] rfl fun _ => .refuses _
  · rw [decodeOp_102]
    exact .row hop [3, 3, 1, 3, 15, 7] rfl fun _ => .refuses _
  · rw [decodeOp_103]
    exact .only hop [3, 3, 1, 6, 6, 6, 7] rfl
  · rw [decodeOp_104]
    exact .row hop [3, 16, 6, 7] rfl fun _ => .refuses _
  · rw [decodeOp_105]
    exact .row hop [3, 10, 12, 7] rfl fun _ => .refuses _
  · rw [decodeOp_106]
    exact .only hop [3, 22, 7] rfl
  · rw [decodeOp_107]
    exact .row hop [3, 4, 1, 17, 7] rfl fun _ => .refuses _
  · rw [decodeOp_108]
    exact .row hop [3, 1, 9, 6, 6, 7] rfl fun _ => .refuses _
  · rw [decodeOp_109]
    exact .row hop [3, 4, 6, 6, 6, 7] rfl fun _ => .refuses _
  · rw [decodeOp_110]
    exact .row hop [3, 10, 6, 6, 7] rfl fun _ => .row hop [3, 2, 1, 1, 6, 6, 6, 7] rfl fun _ => .refuses _
  · rw [decodeOp_111]
    exact .row hop [3, 4, 3, 15, 7] rfl fun _ => .row hop [3, 10, 6, 6, 7] rfl fun _ => .refuses _

/-- R258: `launch` to `exit`. -/
theorem canonical_system (hop : bits w 25 7 = op) (hlo : 112 ≤ op) (hhi : op < 128) : Canonical w (decodeOp w op) := by
  interval_cases op
  · rw [decodeOp_112]
    exact .row hop [3, 10, 6, 6, 7] rfl fun _ => .refuses _
  · rw [decodeOp_113]
    exact .row hop [3, 22, 7] rfl fun _ => .row hop [3, 10, 6, 6, 7] rfl fun _ => .refuses _
  · rw [decodeOp_114]
    exact .row hop [3, 22, 7] rfl fun _ => .refuses _
  · rw [decodeOp_115]
    exact .row hop [3, 22, 7] rfl fun _ => .refuses _
  · rw [decodeOp_116]
    exact .row hop [3, 22, 7] rfl fun _ => .refuses _
  · rw [decodeOp_117]
    exact .row hop [3, 22, 7] rfl fun _ => .refuses _
  · exact .refuses (.unassignedOp 118)
  · exact .refuses (.unassignedOp 119)
  · rw [decodeOp_120]
    exact .row hop [3, 10, 6, 6, 7] rfl fun _ => .refuses _
  · rw [decodeOp_121]
    exact .row hop [3, 22, 7] rfl fun _ => .refuses _
  · rw [decodeOp_122]
    exact .row hop [3, 22, 7] rfl fun _ => .refuses _
  · rw [decodeOp_123]
    exact .row hop [3, 22, 7] rfl fun _ => .row hop [3, 4, 6, 12, 7] rfl fun _ => .row hop [3, 4, 6, 12, 7] rfl fun _ =>
      .row hop [3, 4, 6, 12, 7] rfl fun _ => .row hop [3, 4, 6, 6, 6, 7] rfl fun _ => .row hop [3, 4, 6, 6, 6, 7] rfl fun _ =>
      .refuses _
  · rw [decodeOp_124]
    exact .row hop [3, 10, 6, 6, 7] rfl fun _ => .refuses _
  · rw [decodeOp_125]
    exact .row hop [3, 22, 7] rfl fun _ => .refuses _
  · exact .refuses (.unassignedOp 126)
  · exact .refuses (.unassignedOp 127)

end

/-! ### The decoder -/

theorem decode_canonical (w : BitVec 32) : Canonical w (decode w) := by
  rw [decode]
  split
  · exact .refuses _
  · next hw =>
    have hlt := bits_lt w 25 7
    generalize hop : bits w 25 7 = op at hlt
    have hgroups : op < 16 ∨ (16 ≤ op ∧ op < 32) ∨ (32 ≤ op ∧ op < 44) ∨ (44 ≤ op ∧ op < 64) ∨ (64 ≤ op ∧ op < 80) ∨
        (80 ≤ op ∧ op < 100) ∨ (100 ≤ op ∧ op < 112) ∨ (112 ≤ op ∧ op < 128) := by omega
    rcases hgroups with hhi | ⟨hlo, hhi⟩ | ⟨hlo, hhi⟩ | ⟨hlo, hhi⟩ | ⟨hlo, hhi⟩ | ⟨hlo, hhi⟩ | ⟨hlo, hhi⟩ | ⟨hlo, hhi⟩
    · exact canonical_laneInteger hw hop hhi
    · exact canonical_laneFloat hop hlo hhi
    · exact canonical_laneMemory hop hlo hhi
    · exact canonical_laneControlAndMatrix hop hlo hhi
    · exact canonical_uniformInteger hop hlo hhi
    · exact canonical_uniformControl hop hlo hhi
    · exact canonical_sync hop hlo hhi
    · exact canonical_system hop hlo hhi

theorem encode_of_decode {w : BitVec 32} {i : Instr} (h : decode w = .ok i) : encode i = some w := (decode_canonical w i h).2

theorem decode_injective {w x : BitVec 32} {i : Instr} (hw : decode w = .ok i) (hx : decode x = .ok i) : w = x :=
  Option.some.inj ((encode_of_decode hw).symm.trans (encode_of_decode hx))

/-- Settles O57: every row of the decoder writes back each field it reads, so one instruction has one word. -/
theorem decodedWordsAreCanonical : Obligations.DecodedWordsAreCanonical := by
  unfold Obligations.DecodedWordsAreCanonical
  exact ⟨decode_canonical, fun _ _ _ => decode_injective⟩

/-- Settles O56: each encoded instruction by the round trip of its own row; a hardware step has no word. -/
theorem encodedWordsRoundTrip : Obligations.EncodedWordsRoundTrip := by
  unfold Obligations.EncodedWordsRoundTrip
  intro i
  cases i with
  | vAdd => apply RoundTrip.vAdd | vSub => apply RoundTrip.vSub | vAddx => apply RoundTrip.vAddx | vSubx => apply RoundTrip.vSubx
  | vMul => apply RoundTrip.vMul | vMulh => apply RoundTrip.vMulh | vMad => apply RoundTrip.vMad | vMadw => apply RoundTrip.vMadw
  | vSad => apply RoundTrip.vSad | vAbs => apply RoundTrip.vAbs | vNegI32 => apply RoundTrip.vNegI32 | vNegI64 => apply RoundTrip.vNegI64
  | vBfxN32 => apply RoundTrip.vBfxN32 | vBfxI32 => apply RoundTrip.vBfxI32 | vBfi => apply RoundTrip.vBfi
  | vBpick => apply RoundTrip.vBpick | vMovB32 => apply RoundTrip.vMovB32 | vMovB64 => apply RoundTrip.vMovB64
  | vMin => apply RoundTrip.vMin | vMax => apply RoundTrip.vMax | vAnd => apply RoundTrip.vAnd | vOr => apply RoundTrip.vOr
  | vXor => apply RoundTrip.vXor | vAndn => apply RoundTrip.vAndn | vShl => apply RoundTrip.vShl | vShr => apply RoundTrip.vShr
  | vSar => apply RoundTrip.vSar | vRot => apply RoundTrip.vRot | vShf => apply RoundTrip.vShf | vClz => apply RoundTrip.vClz
  | vPopc => apply RoundTrip.vPopc | vBrev => apply RoundTrip.vBrev | vSel => apply RoundTrip.vSel | vCmp => apply RoundTrip.vCmp
  | vPset => apply RoundTrip.vPset | vAddi => apply RoundTrip.vAddi | vAndi => apply RoundTrip.vAndi | vOri => apply RoundTrip.vOri
  | vXori => apply RoundTrip.vXori | vShli => apply RoundTrip.vShli | vShri => apply RoundTrip.vShri | vCmpi => apply RoundTrip.vCmpi
  | vMovi => apply RoundTrip.vMovi | vMovl => apply RoundTrip.vMovl | vMovh => apply RoundTrip.vMovh | vFadd => apply RoundTrip.vFadd
  | vFsub => apply RoundTrip.vFsub | vFmul => apply RoundTrip.vFmul | vFma => apply RoundTrip.vFma | vFmin => apply RoundTrip.vFmin
  | vFmax => apply RoundTrip.vFmax | vFneg => apply RoundTrip.vFneg | vFabs => apply RoundTrip.vFabs | vFcmp => apply RoundTrip.vFcmp
  | vFclass => apply RoundTrip.vFclass | vFrcp => apply RoundTrip.vFrcp | vFrsq => apply RoundTrip.vFrsq | vFsqrt => apply RoundTrip.vFsqrt
  | vFex2 => apply RoundTrip.vFex2 | vFlg2 => apply RoundTrip.vFlg2 | vFsin => apply RoundTrip.vFsin | vFcos => apply RoundTrip.vFcos
  | vFdiv => apply RoundTrip.vFdiv | vFscale => apply RoundTrip.vFscale | vFrnd => apply RoundTrip.vFrnd | vCvt => apply RoundTrip.vCvt
  | vCvtnPk => apply RoundTrip.vCvtnPk | vCvtnUnpk => apply RoundTrip.vCvtnUnpk | vCvtw => apply RoundTrip.vCvtw
  | vLxch => apply RoundTrip.vLxch | vPoll => apply RoundTrip.vPoll | vLfold => apply RoundTrip.vLfold | vLd => apply RoundTrip.vLd
  | vSt => apply RoundTrip.vSt | vCpy => apply RoundTrip.vCpy | vAtom => apply RoundTrip.vAtom | vRed => apply RoundTrip.vRed
  | vPrefL1 => apply RoundTrip.vPrefL1 | vPrefL2 => apply RoundTrip.vPrefL2 | vDisc => apply RoundTrip.vDisc | vLds => apply RoundTrip.vLds
  | vLdcl => apply RoundTrip.vLdcl | vSts => apply RoundTrip.vSts | vStcl => apply RoundTrip.vStcl | vBd => apply RoundTrip.vBd
  | vBu => apply RoundTrip.vBu | vJmpi => apply RoundTrip.vJmpi | vCalli => apply RoundTrip.vCalli | vPad => apply RoundTrip.vPad
  | vExit => apply RoundTrip.vExit | vMma => apply RoundTrip.vMma | vMzero => apply RoundTrip.vMzero | vMld => apply RoundTrip.vMld
  | vMst => apply RoundTrip.vMst | vMdrain => apply RoundTrip.vMdrain | vTcheck => apply RoundTrip.vTcheck
  | vChsend => apply RoundTrip.vChsend | vChrecv => apply RoundTrip.vChrecv | vRchk => apply RoundTrip.vRchk
  | vRpois => apply RoundTrip.vRpois | vRtst => apply RoundTrip.vRtst | vRgen => apply RoundTrip.vRgen | sAdd => apply RoundTrip.sAdd
  | sSub => apply RoundTrip.sSub | sMul => apply RoundTrip.sMul | sMulh => apply RoundTrip.sMulh | sAnd => apply RoundTrip.sAnd
  | sOr => apply RoundTrip.sOr | sXor => apply RoundTrip.sXor | sAndn => apply RoundTrip.sAndn | sShl => apply RoundTrip.sShl
  | sShr => apply RoundTrip.sShr | sSar => apply RoundTrip.sSar | sMin => apply RoundTrip.sMin | sMax => apply RoundTrip.sMax
  | sCmp => apply RoundTrip.sCmp | sSel => apply RoundTrip.sSel | sMov => apply RoundTrip.sMov | sQset => apply RoundTrip.sQset
  | sAddi => apply RoundTrip.sAddi | sAndi => apply RoundTrip.sAndi | sOri => apply RoundTrip.sOri | sXori => apply RoundTrip.sXori
  | sShli => apply RoundTrip.sShli | sShri => apply RoundTrip.sShri | sCmpi => apply RoundTrip.sCmpi | sMovi => apply RoundTrip.sMovi
  | sMovl => apply RoundTrip.sMovl | sMovh => apply RoundTrip.sMovh | sSld => apply RoundTrip.sSld | sSst => apply RoundTrip.sSst
  | sSatom => apply RoundTrip.sSatom | sB => apply RoundTrip.sB | sCall => apply RoundTrip.sCall | sCallu => apply RoundTrip.sCallu
  | sRet => apply RoundTrip.sRet | sJmpu => apply RoundTrip.sJmpu | sEnter => apply RoundTrip.sEnter | sLoop => apply RoundTrip.sLoop
  | sLbrk => apply RoundTrip.sLbrk | sNop => apply RoundTrip.sNop | sSleep => apply RoundTrip.sSleep | sBar => apply RoundTrip.sBar
  | sArv => apply RoundTrip.sArv | sAwt => apply RoundTrip.sAwt | sGbar => apply RoundTrip.sGbar | sFence => apply RoundTrip.sFence
  | sWaitv => apply RoundTrip.sWaitv | sCseal => apply RoundTrip.sCseal | sCwait => apply RoundTrip.sCwait
  | sCyield => apply RoundTrip.sCyield | sMwait => apply RoundTrip.sMwait | sRds => apply RoundTrip.sRds | sWrs => apply RoundTrip.sWrs
  | sSetfmt => apply RoundTrip.sSetfmt | sSetfmtImm => apply RoundTrip.sSetfmtImm | sWrexec => apply RoundTrip.sWrexec
  | sWrexecP => apply RoundTrip.sWrexecP | sLaunch => apply RoundTrip.sLaunch | sLwait => apply RoundTrip.sLwait
  | sLwaitGrid => apply RoundTrip.sLwaitGrid | sKemit => apply RoundTrip.sKemit | sKcancel => apply RoundTrip.sKcancel
  | sKrepeat => apply RoundTrip.sKrepeat | sKdone => apply RoundTrip.sKdone | sSys => apply RoundTrip.sSys
  | sHcall => apply RoundTrip.sHcall | sTret => apply RoundTrip.sTret | sTlbiVa => apply RoundTrip.sTlbiVa
  | sTlbiCtx => apply RoundTrip.sTlbiCtx | sTlbiGlob => apply RoundTrip.sTlbiGlob | sTlbiIpa => apply RoundTrip.sTlbiIpa
  | sTlbiS2 => apply RoundTrip.sTlbiS2 | sTlbiAll => apply RoundTrip.sTlbiAll | sKeyret => apply RoundTrip.sKeyret
  | sExit => apply RoundTrip.sExit
  | _ => exact fun _ _ hword => nomatch hword

/-- Settles O58: the decoder run on each word. -/
theorem decodedExamples : Obligations.DecodedExamples := by
  unfold Obligations.DecodedExamples
  exact ⟨rfl, rfl, rfl, rfl, rfl, rfl, rfl, rfl, rfl, rfl, rfl, rfl, ⟨_, rfl⟩, ⟨_, rfl⟩⟩

end Sys2Proof.Laws
end

section
/-! Bit fields and byte permutes of the lanes (R230, R269, R277, R278). -/

namespace Sys2Proof.Machine

open Sys2Proof.Laws

/-! ### Fields and bytes -/

theorem dat_map_ofData (xs : List (BitVec 32)) (i : Nat) : dat (xs.map Word.ofData) i = xs.getD i 0 := by
  simp only [dat, nth, List.getD_eq_getElem?_getD, List.getElem?_map]
  cases xs[i]? <;> rfl

theorem bfPos_add_bfLen_le (y : BitVec 32) : bfPos y + bfLen y ≤ 32 := by
  have : bfPos y < 32 := Nat.mod_lt _ (by decide)
  unfold bfLen
  omega

theorem toNat_extractLsb'_div {w : Nat} (x : BitVec w) (i n : Nat) : (x.extractLsb' i n).toNat = x.toNat / 2 ^ i % 2 ^ n := by
  rw [BitVec.extractLsb'_toNat, Nat.shiftRight_eq_div_pow]

/-- R277: the field of `bfx.i32` is the bits that it cuts out, with their sign. -/
theorem bfxS_eq_signExtend (x y : BitVec 32) (hlen : bfLen y ≠ 0) :
    bfxS x y = (x.extractLsb' (bfPos y) (bfLen y)).signExtend 32 := by
  have hlt := (x.extractLsb' (bfPos y) (bfLen y)).isLt
  have hpow : 2 ^ bfLen y = 2 * 2 ^ (bfLen y - 1) := by rw [← pow_succ', Nat.sub_add_cancel (Nat.pos_of_ne_zero hlen)]
  have hsign : (x.extractLsb' (bfPos y) (bfLen y)).toNat / 2 ^ (bfLen y - 1) = 1 ↔
      ¬ 2 * (x.extractLsb' (bfPos y) (bfLen y)).toNat < 2 ^ bfLen y := by
    rw [Nat.div_eq_iff (Nat.two_pow_pos _)]
    omega
  simp only [bfxS, ← toNat_extractLsb'_div, hlen, hsign, BitVec.signExtend, BitVec.toInt_eq_toNat_cond, if_false]
  split_ifs
  · exact (BitVec.ofInt_natCast 32 _).symm
  · rfl

theorem bfxS_eq (x y : BitVec 32) : bfxS x y =
    if bfLen y = 0 then 0 else (x <<< (32 - bfPos y - bfLen y)).sshiftRight (32 - bfLen y) := by
  by_cases hlen : bfLen y = 0
  · simp [bfxS, hlen]
  · have hcut := bfPos_add_bfLen_le y
    rw [if_neg hlen, bfxS_eq_signExtend x y hlen]
    ext i hi
    rw [BitVec.getElem_signExtend, BitVec.getElem_sshiftRight]
    by_cases hin : i < bfLen y
    · have hlow : 32 - bfLen y + i < 32 := by omega
      have hsame : 32 - bfLen y + i - (32 - bfPos y - bfLen y) = bfPos y + i := by omega
      have hcleared : ¬ 32 - bfLen y + i < 32 - bfPos y - bfLen y := by omega
      rw [dif_pos hin, dif_pos hlow, BitVec.getElem_extractLsb', ← BitVec.getLsbD_eq_getElem, BitVec.getLsbD_shiftLeft, hsame]
      simp [hlow, hcleared]
    · have hhigh : ¬ 32 - bfLen y + i < 32 := by omega
      have hsame : 32 - 1 - (32 - bfPos y - bfLen y) = bfPos y + (bfLen y - 1) := by omega
      have hcleared : ¬ 32 - 1 < 32 - bfPos y - bfLen y := by omega
      rw [dif_neg hin, dif_neg hhigh, BitVec.msb_eq_getLsbD_last, BitVec.msb_eq_getLsbD_last, BitVec.getLsbD_extractLsb',
        BitVec.getLsbD_shiftLeft, hsame]
      simp [Nat.pos_of_ne_zero hlen, hcleared]

theorem getElem_fieldMask (n : Nat) {i : Nat} (h : i < 32) : (BitVec.ofNat 32 (2 ^ n - 1))[i] = decide (i < n) := by
  rw [BitVec.getElem_eq_testBit_toNat, BitVec.toNat_ofNat, Nat.testBit_mod_two_pow, Nat.testBit_two_pow_sub_one]
  simp [h]

/-- R277: `bfi` takes the bits of the field from the low bits of its operand. -/
theorem bfiW_eq (old x y : BitVec 32) : bfiW old x y = BitVec.ofFnLE (fun i : Fin 32 =>
    if bfPos y ≤ i.val ∧ i.val < bfPos y + bfLen y then x.getLsbD (i.val - bfPos y) else old.getLsbD i.val) := by
  ext i hi
  have hshifted : i - bfPos y < 32 := by omega
  by_cases hlow : bfPos y ≤ i
  · have hin : i - bfPos y < bfLen y ↔ i < bfPos y + bfLen y := by omega
    by_cases hhigh : i < bfPos y + bfLen y
    · simp [bfiW, getElem_fieldMask, Nat.not_lt.2 hlow, hin, hlow, hhigh, hshifted]
    · simp [bfiW, getElem_fieldMask, Nat.not_lt.2 hlow, hin, hhigh]
  · simp [bfiW, Nat.lt_of_not_le hlow, hlow]

/-- R278: the byte that a selector chooses from the pool. -/
def pickedByte (pool : BitVec 64) (sel : Nat) : BitVec 8 :=
  let byte := pool.extractLsb' (8 * (sel % 8)) 8
  if sel / 8 % 4 = 0 then byte else if sel / 8 % 4 = 1 then (if byte.toNat ≥ 128 then 255#8 else 0#8)
  else if sel / 8 % 4 = 2 then 0#8 else 255#8

theorem pickByte_eq (pool : BitVec 64) (sel : Nat) : pickByte pool.toNat sel = (pickedByte pool sel).toNat := by
  have hmode : sel / 8 % 4 < 4 := Nat.mod_lt _ (by decide)
  have hbyte : pool.toNat / 256 ^ (sel % 8) % 256 = (pool.extractLsb' (8 * (sel % 8)) 8).toNat := by
    rw [toNat_extractLsb'_div, pow_mul]
    rfl
  simp only [pickByte, pickedByte, hbyte]
  interval_cases sel / 8 % 4
  · rfl
  · exact (apply_ite BitVec.toNat (_ ≥ 128) 255#8 0#8).symm
  · rfl
  · rfl

theorem toNat_append_eq_add {m n : Nat} (x : BitVec m) (y : BitVec n) : (x ++ y).toNat = x.toNat * 2 ^ n + y.toNat := by
  rw [BitVec.toNat_append, ← Nat.shiftLeft_add_eq_or_of_lt y.isLt, Nat.shiftLeft_eq]

theorem sum_range_four (f : Nat → Nat) : (List.range 4).foldl (fun acc i => acc + f i) 0 = f 0 + f 1 + f 2 + f 3 := by
  rw [show List.range 4 = [0, 1, 2, 3] from rfl]
  simp only [List.foldl_cons, List.foldl_nil, Nat.zero_add]

theorem ofNat_bytes (f : Nat → BitVec 8) :
    BitVec.ofNat 32 ((List.range 4).foldl (fun acc i => acc + (f i).toNat * 256 ^ i) 0) = f 3 ++ f 2 ++ f 1 ++ f 0 := by
  apply BitVec.eq_of_toNat_eq
  rw [sum_range_four (fun i => (f i).toNat * 256 ^ i), toNat_append_eq_add, toNat_append_eq_add, toNat_append_eq_add, BitVec.toNat_ofNat]
  omega

theorem bpickW_eq (sel x y : BitVec 32) : bpickW sel x y =
    let pick := fun k => pickedByte (y ++ x) (sel.toNat / 256 ^ k % 256)
    pick 3 ++ pick 2 ++ pick 1 ++ pick 0 := by
  have hpool : x.toNat + y.toNat * 2 ^ 32 = (y ++ x).toNat := by rw [toNat_append_eq_add, Nat.add_comm]
  simp only [bpickW, hpool, pickByte_eq]
  exact ofNat_bytes _

/-! ### The instructions -/

/-- R230, R269: a duplicated-class instruction whose sources pass their checks writes the word of its sources' data. -/
theorem execDup_reads {s : State} {d : BitVec 6} {p : BitVec 3} {ss : List Src} {f : List Word → BitVec 32} {g : List (BitVec 32) → BitVec 32}
    (hfit : s.FitV p ⟨(d.toNat, 1) :: ss.map (fun x => (x.n, 1)), []⟩) (hreads : s.ReadsV p (ss.map (fun x => (x.n, 1))))
    (hf : ∀ xs, f (xs.map Word.ofData) = g xs) : execDup d p ss f s =
      (s.putV p d.toNat (fun l => arithOf 1 (ss.map (fun x => s.v x.n l)) [g (ss.map (fun x => (s.v x.n l).data))])).advance :=
  laneOp_arith s p _ ss d.toNat 1 (fun ws => [gen (f ws)]) (fun xs => [g xs]) hfit
    (reads_srcs s p _ ss hreads fun x hx => ⟨(x.n, 1), List.mem_map.2 ⟨x, hx, rfl⟩, 0, Nat.one_pos, rfl⟩)
    (fun _ _ => rfl) (fun xs _ => by rw [hf]; rfl)

/-- R277: with two sources. -/
theorem execDup_two {s : State} {d a b : BitVec 6} {p : BitVec 3} (f : BitVec 32 → BitVec 32 → BitVec 32)
    (hfit : s.FitV p ⟨[(d.toNat, 1), (a.toNat, 1), (b.toNat, 1)], []⟩) (hreads : s.ReadsV p [(a.toNat, 1), (b.toNat, 1)]) :
    execDup d p [⟨a.toNat, 1⟩, ⟨b.toNat, 2⟩] (fun ws => f (dat ws 0) (dat ws 1)) s =
      (s.putV p d.toNat (fun l => arithOf 1 (s.vRun a.toNat 1 l ++ s.vRun b.toNat 1 l)
        [f (s.v a.toNat l).data (s.v b.toNat l).data])).advance :=
  execDup_reads (g := fun xs => f (xs.getD 0 0) (xs.getD 1 0)) hfit hreads (fun xs => by rw [dat_map_ofData, dat_map_ofData])

/-- R277, R278: with the old destination as the third source. -/
theorem execDup_three {s : State} {d a b : BitVec 6} {p : BitVec 3} (f : BitVec 32 → BitVec 32 → BitVec 32 → BitVec 32)
    (hfit : s.FitV p ⟨[(d.toNat, 1), (a.toNat, 1), (b.toNat, 1), (d.toNat, 1)], []⟩)
    (hreads : s.ReadsV p [(a.toNat, 1), (b.toNat, 1), (d.toNat, 1)]) :
    execDup d p [⟨a.toNat, 1⟩, ⟨b.toNat, 2⟩, ⟨d.toNat, 3⟩] (fun ws => f (dat ws 2) (dat ws 0) (dat ws 1)) s =
      (s.putV p d.toNat (fun l => arithOf 1 (s.vRun a.toNat 1 l ++ s.vRun b.toNat 1 l ++ s.vRun d.toNat 1 l)
        [f (s.v d.toNat l).data (s.v a.toNat l).data (s.v b.toNat l).data])).advance :=
  execDup_reads (g := fun xs => f (xs.getD 2 0) (xs.getD 0 0) (xs.getD 1 0)) hfit hreads
    (fun xs => by rw [dat_map_ofData, dat_map_ofData, dat_map_ofData])

/-- Settles O6: each instruction writes its word of the sources' data, and that word is the field, the insertion or the four bytes. -/
theorem laneBitFields : Obligations.LaneBitFields := by
  unfold Obligations.LaneBitFields
  intro s d a b p pos len
  refine ⟨fun hfit hreads => ⟨?_, ?_⟩, fun hfit hreads => ⟨?_, ?_⟩⟩
  · exact congrArg Host.Outcome.next (execDup_two bfxU hfit hreads)
  · refine congrArg Host.Outcome.next ((execDup_two bfxS hfit hreads).trans ?_)
    simp only [bfxS_eq]
    rfl
  · refine congrArg Host.Outcome.next ((execDup_three bfiW hfit hreads).trans ?_)
    simp only [bfiW_eq]
    rfl
  · refine congrArg Host.Outcome.next ((execDup_three bpickW hfit hreads).trans ?_)
    simp only [bpickW_eq]
    rfl

end Sys2Proof.Machine
end

section
/-! Moves of the lanes, and the instructions that write a predicate in every active lane (R221, R268, R279, R283–R286, R297, R340). -/

namespace Sys2Proof.Machine

open Sys2Proof.Laws

/-! ### Moves (R279) -/

theorem wholeValue_eq_copyOf (ws : List Word) : wholeValue ws = copyOf ws := by
  rw [wholeValue, copyOf, List.map_const']

theorem copyOf_clean {ws : List Word} (h : ws.any Word.isPoison = false) : copyOf ws = ws := if_neg (by simp [h])

theorem eq_poison_of_mem_copyOf {ws : List Word} (h : ws.any Word.isPoison = true) {w : Word} (hw : w ∈ copyOf ws) : w = Word.poison := by
  rw [copyOf, if_pos h] at hw
  exact List.eq_of_mem_replicate hw

/-- R279: a move whose source passes its check copies it in every active lane. -/
theorem laneOp_mov {s : State} {p : BitVec 3} {d a k : Nat} (hfit : s.FitV p (names2 d a k)) (hreads : s.ReadsV p [(a, k)]) :
    s.laneOp p true (names2 d a k) (movLane d a k) = (s.putV p d (fun l => copyOf (s.vRun a k l))).advance := by
  have hlane : ∀ l, s.active p l → movLane d a k s l = .ok (carry d (copyOf (s.vRun a k l))) := fun l hl => by
    simp only [movLane, srcWords_run hreads hl List.mem_cons_self, wholeValue_eq_copyOf]
  exact (laneOp_ok s p true _ _ _ rfl hfit hlane).trans (congrArg State.advance (putV_commit s p d _))

/-- Settles O46: both moves copy their run, and a copy is its source, or poison whole. -/
theorem laneMoves : Obligations.LaneMoves := by
  unfold Obligations.LaneMoves
  intro s d a p
  refine ⟨fun hfit hreads => ?_, fun hfit hreads => ?_, fun ws => ⟨copyOf_clean, fun h w => eq_poison_of_mem_copyOf h⟩⟩
  · exact congrArg Host.Outcome.next (laneOp_mov hfit hreads)
  · exact congrArg Host.Outcome.next (laneOp_mov hfit hreads)

/-! ### Predicates written -/

/-- A lane instruction that writes one predicate. -/
theorem laneOp_pred {s : State} {p : BitVec 3} {legal : Bool} {ns : Names} {f : State → Nat → LaneRes} {d : Nat} {val : Nat → Bool}
    (hlegal : legal = true) (hfit : s.FitV p ns) (hlane : ∀ l, s.active p l → f s l = .ok ⟨[], [(d, val l)]⟩) :
    s.laneOp p legal ns f = (s.putP p d val).advance :=
  laneOp_ok s p legal ns f (fun l => ⟨[], [(d, val l)]⟩) hlegal hfit hlane

theorem destination_legal {d : BitVec 3} (hd : d ≠ 7) : (d != 7) = true := bne_iff_ne.2 hd

theorem cleanV_srcs {s : State} {p : BitVec 3} {runs : List (Nat × Nat)} {ss : List Src} (hclean : s.CleanV p runs)
    (hss : ∀ x ∈ ss, ∃ r ∈ runs, ∃ i < r.2, x.n = r.1 + i) {l : Nat} (hl : s.active p l) :
    ss.any (fun x => (s.v x.n l).isPoison) = false := by
  refine List.any_eq_false.2 fun x hx => ?_
  obtain ⟨r, hr, i, hi, hn⟩ := hss x hx
  have hword : s.v x.n l ∈ s.vRun r.1 r.2 l := List.mem_map.2 ⟨i, List.mem_range.2 hi, by rw [hn]⟩
  simp [hclean l hl r hr _ hword]

/-- R284: a compare whose sources are clean and pass their checks writes its condition. -/
theorem cmpLane_clean {s : State} {p : BitVec 3} {runs : List (Nat × Nat)} {ss : List Src} {l : Nat} (hsound : s.glitch = 0)
    (hreads : s.ReadsV p runs) (hclean : s.CleanV p runs) (hss : ∀ x ∈ ss, ∃ r ∈ runs, ∃ i < r.2, x.n = r.1 + i) (hl : s.active p l)
    (d : Nat) (f : List Word → Bool) : cmpLane d ss f s l = .ok ⟨[], [(d, f (ss.map (fun x => s.v x.n l)))]⟩ := by
  simp only [cmpLane, cleanV_srcs hclean hss hl, srcWords_ok s l ss (reads_srcs s p runs ss hreads hss l hl), hsound, bit_zero,
    Bool.false_eq_true, if_false]

theorem mem_srcs {x : Src} {n k info : Nat} (h : x ∈ srcs n k info) : ∃ i < k, x.n = n + i := by
  obtain ⟨i, hi, rfl⟩ := List.mem_map.1 h
  exact ⟨i, List.mem_range.1 hi, rfl⟩

theorem mem_two_srcs {x : Src} {m n k i j : Nat} (h : x ∈ srcs m k i ++ srcs n k j) :
    ∃ r ∈ [(m, k), (n, k)], ∃ i < r.2, x.n = r.1 + i :=
  (List.mem_append.1 h).elim (fun h => ⟨(m, k), List.mem_cons_self, mem_srcs h⟩)
    (fun h => ⟨(n, k), List.mem_cons_of_mem _ List.mem_cons_self, mem_srcs h⟩)

theorem map_two_srcs (s : State) (m n k i j l : Nat) :
    (srcs m k i ++ srcs n k j).map (fun x => s.v x.n l) = s.vRun m k l ++ s.vRun n k l := by
  simp [srcs, State.vRun, Function.comp_def]

/-- R284, R297: the shared form of `cmp` and `fcmp`: their condition, on one or two words of each source. -/
theorem laneOp_cmp {s : State} {p d : BitVec 3} {legal : Bool} {a b k : Nat} (f : List Word → Bool) (hlegal : legal = true)
    (hfit : s.FitV p ⟨[(a, k), (b, k)], []⟩) (hreads : s.ReadsV p [(a, k), (b, k)]) (hclean : s.CleanV p [(a, k), (b, k)]) :
    s.laneOp p legal ⟨[(a, k), (b, k)], []⟩ (cmpLane d.toNat (srcs a k 1 ++ srcs b k 2) f) =
      (s.putP p d.toNat (fun l => f (s.vRun a k l ++ s.vRun b k l))).advance :=
  laneOp_pred hlegal hfit fun l hl => by
    rw [cmpLane_clean hfit.sound hreads hclean (fun _ => mem_two_srcs) hl, map_two_srcs]

/-- R283, R284: the condition of `cmp` on the words it reads. -/
theorem exec_vCmp {s : State} {d p : BitVec 3} {a b : BitVec 6} {w : BitVec 1} (hd : d ≠ 7)
    (hfit : s.FitV p ⟨[(a.toNat, widthOf w), (b.toNat, widthOf w)], []⟩)
    (hreads : s.ReadsV p [(a.toNat, widthOf w), (b.toNat, widthOf w)]) (hclean : s.CleanV p [(a.toNat, widthOf w), (b.toNat, widthOf w)])
    (c : BitVec 3) : exec (.vCmp d a b w c p) s = .next (s.putP p d.toNat (fun l =>
      condHolds c (w = 1) (s.v a.toNat l).data (s.v (a.toNat + 1) l).data (s.v b.toNat l).data (s.v (b.toNat + 1) l).data)).advance := by
  simp only [condHolds_eq]
  match w with
  | 0 => exact congrArg Host.Outcome.next (laneOp_cmp (fun ws => condOf c.toNat (dat ws 0) (dat ws 1)) (destination_legal hd) hfit hreads hclean)
  | 1 => exact congrArg Host.Outcome.next (laneOp_cmp (fun ws => condOf c.toNat (dat64 ws 0) (dat64 ws 2)) (destination_legal hd) hfit hreads hclean)

/-- R297: the condition of `fcmp`. -/
theorem exec_vFcmp {s : State} {d c p : BitVec 3} {a b : BitVec 6} {w : BitVec 1} (hd : d ≠ 7) (hc : c ≠ 7)
    (hfit : s.FitV p ⟨[(a.toNat, widthOf w), (b.toNat, widthOf w)], []⟩)
    (hreads : s.ReadsV p [(a.toNat, widthOf w), (b.toNat, widthOf w)]) (hclean : s.CleanV p [(a.toNat, widthOf w), (b.toNat, widthOf w)]) :
    exec (.vFcmp d a b c w p) s = .next (s.putP p d.toNat (fun l =>
      if w = 1 then cmpF f64 false c.toNat (s.v64 a.toNat l).toNat (s.v64 b.toNat l).toNat
      else cmpF f32 (fmtFtz s.g.fmt) c.toNat (s.v a.toNat l).data.toNat (s.v b.toNat l).data.toNat)).advance := by
  have hlegal : (d != 7 && c != 7) = true := by rw [destination_legal hd, destination_legal hc]; rfl
  match w with
  | 0 => exact congrArg Host.Outcome.next (laneOp_cmp
      (fun ws => cmpF f32 (fmtFtz s.g.fmt) c.toNat (dat ws 0).toNat (dat ws 1).toNat) hlegal hfit hreads hclean)
  | 1 => exact congrArg Host.Outcome.next (laneOp_cmp
      (fun ws => cmpF f64 false c.toNat (dat64 ws 0).toNat (dat64 ws 2).toNat) hlegal hfit hreads hclean)

theorem psetLane_healthy {s : State} {x y l : Nat} {u v : Bool} (hx : s.p x l = some u) (hy : s.p y l = some v) (d : Nat) (t : BitVec 4) :
    psetLane d x y t s l = .ok ⟨[], [(d, t.getLsbD (2 * u.toNat + v.toNat))]⟩ := by
  have hindex : 2 * u.toNat + v.toNat = 2 * (if u then 1 else 0) + (if v then 1 else 0) := by cases u <;> cases v <;> rfl
  simp only [psetLane, hx, hy, hindex]

/-- Settles O8: each form writes its condition, and the condition is that of R283 on the words read. -/
theorem laneComparesAndPredicates : Obligations.LaneComparesAndPredicates := by
  unfold Obligations.LaneComparesAndPredicates
  intro s d a b p hd
  have hlegal := destination_legal hd
  refine ⟨fun w hfit hreads hclean c => ⟨exec_vCmp hd hfit hreads hclean c, fun hc => exec_vFcmp hd hc hfit hreads hclean⟩,
    fun hfit hreads hclean c i => ?_, fun hfit x y t u v hpairs => ?_, fun w hfit hreads => ?_⟩
  · simp only [condHolds_eq]
    exact congrArg Host.Outcome.next (laneOp_pred hlegal hfit fun l hl =>
      cmpLane_clean (ss := srcs a.toNat 1 1) hfit.sound hreads hclean (fun _ hx => ⟨_, List.mem_cons_self, mem_srcs hx⟩) hl _ _)
  · exact congrArg Host.Outcome.next (laneOp_pred hlegal hfit fun l hl => psetLane_healthy (hpairs l hl).1 (hpairs l hl).2 _ t)
  · exact congrArg Host.Outcome.next (laneOp_pred hlegal hfit fun l hl => by
      rw [show (List.range (w.toNat + 1)).map (fun i => Src.mk (a.toNat + i) 1) = srcs a.toNat (w.toNat + 1) 1 from rfl,
        srcWords_run hreads hl List.mem_cons_self])

end Sys2Proof.Machine
end

section
/-! The matrix instructions at issue: jobs posted, tile checks that pass, and waits for jobs (R113, R327–R338). -/

namespace Sys2Proof.Machine

open Sys2Proof.Laws

/-! ### Checks of a job (R328) -/

section
variable {s : State} {ns : Names} (k : State → State)

theorem jobGuarded_passes {legal converge : Bool} (hcore : s.onKiln = false) (hlegal : legal = true) (hnames : s.namesOk ns = true)
    (hready : s.namesPending ns = false) (hconverged : (converge && !(s.g.bind == 0xffffffff && s.g.exec == 0xffffffff)) = false) :
    s.jobGuarded legal converge ns k = k s := by
  rw [State.jobGuarded, vGuarded_passes _ _ hcore hlegal hnames hready, hconverged]
  rfl

theorem ownTile_owned {tile : Nat} (h : tile < s.tm.accN) : s.ownTile tile k = k s := if_neg (Nat.not_le.2 h)

theorem tileFail_owned {tile : Nat} (h : tile < s.tm.accN) : s.tileFail tile = none := if_neg (Nat.not_le.2 h)

/-- Clean uniform runs whose words pass are used as their words. -/
theorem sUse_runs {runs : List (Nat × Nat)} (hreads : s.ReadsS runs) (hclean : s.CleanS runs) (info use : Nat) :
    s.sUse (runs.flatMap (fun r => srcs r.1 r.2 info)) use = .ok (runs.flatMap (fun r => s.sRun r.1 r.2)) := by
  have hrun : ∀ x ∈ runs.flatMap (fun r => srcs r.1 r.2 info), ∃ r ∈ runs, ∃ i < r.2, x.n = r.1 + i := fun x hx => by
    obtain ⟨r, hr, hx⟩ := List.mem_flatMap.1 hx
    exact ⟨r, hr, mem_srcs hx⟩
  rw [sUse_clean (fun x hx => ?_) (fun x hx => ?_)]
  · simp [List.map_flatMap, srcs, State.sRun, Function.comp_def]
  · obtain ⟨r, hr, i, hi, hn⟩ := hrun x hx
    exact hn ▸ checks_of_readsS hreads hr hi
  · obtain ⟨r, hr, i, hi, hn⟩ := hrun x hx
    exact hn ▸ clean_of_cleanS hclean hr hi

theorem jobWords_clean {runs : List (Nat × Nat)} (hreads : s.ReadsS runs) (hclean : s.CleanS runs) (tile : Nat)
    (others : State → State × Option LaneFail) (k : List Word → State) :
    s.jobWords tile runs others k = k (runs.flatMap (fun r => s.sRun r.1 r.2)) := by
  rw [State.jobWords, sUse_runs hreads hclean]

theorem jobWords_run {n cnt : Nat} (hreads : s.ReadsS [(n, cnt)]) (hclean : s.CleanS [(n, cnt)]) (tile : Nat)
    (others : State → State × Option LaneFail) (k : List Word → State) : s.jobWords tile [(n, cnt)] others k = k (s.sRun n cnt) := by
  rw [jobWords_clean hreads hclean, List.flatMap_singleton]

theorem scrRegion_inside {off n : Nat} (halign : off % 128 = 0) (hinside : off + n ≤ 4096 * s.tm.scratchN) : s.scrRegion off n = none := by
  rw [State.scrRegion, if_neg (by simpa using halign), if_neg (Nat.not_lt.2 hinside)]

/-- R113, R328, R329: with room in the table and no group first to post, the job joins the table. -/
theorem postJob_posted (h : s.mayPost = true) (instr : BitVec 32) (tok : Nat) (reads writes : List (Nat × Nat × Nat)) (ops : List Word)
    (pages : Table (Nat × Nat × Bool)) : s.postJob instr tok reads writes ops pages = s.posted instr tok reads writes ops pages := by
  obtain ⟨hroom, hfirst⟩ := Bool.and_eq_true_iff.1 h
  rw [State.postJob, if_neg (by simpa [hfirst] using hroom)]
  rfl

end

theorem dat_sRun_zero (s : State) (n : Nat) : dat (s.sRun n 1) 0 = (s.s n).data := rfl

/-! ### Tiles cleared, loaded and stored (R334) -/

theorem exec_vMzero {s : State} {c : BitVec 8} (k : BitVec 4) (hcore : s.onKiln = false) (howned : c.toNat < s.tm.accN) (hexec : s.g.exec ≠ 0)
    (hpost : s.mayPost = true) :
    exec (.vMzero c k) s = .next (s.posted ((encode (.vMzero c k)).getD 0) k.toNat [] [tileFp c.toNat] [] []) := by
  refine congrArg Host.Outcome.next ((jobGuarded_passes _ (converge := false) hcore rfl (by rfl) (by rfl) rfl).trans ?_)
  rw [ownTile_owned _ howned, if_neg hexec, postJob_posted hpost]

/-- The footprints that a move of tile `c` from or to `m` reads and writes. -/
def moveFps (store : Bool) (c : Nat) (m : Nat × Nat × Nat) : List (Nat × Nat × Nat) × List (Nat × Nat × Nat) :=
  if store then ([tileFp c], [m]) else ([m], [tileFp c])

section
variable {s : State} {b : BitVec 6} {c : BitVec 8} (hcore : s.onKiln = false) (howned : c.toNat < s.tm.accN) (hexec : s.g.exec ≠ 0)
include hcore howned hexec

theorem tileMove_scratch (store : Bool) (word : BitVec 32) (k : BitVec 4) (hnames : s.namesOk ⟨[], [(b.toNat, 1)]⟩ = true)
    (hready : s.namesPending ⟨[], [(b.toNat, 1)]⟩ = false) (hreads : s.ReadsS [(b.toNat, 1)]) (hclean : s.CleanS [(b.toNat, 1)])
    (halign : (s.s b.toNat).data.toNat % 128 = 0) (hinside : (s.s b.toNat).data.toNat + 16384 ≤ 4096 * s.tm.scratchN) (hpost : s.mayPost = true) :
    let f := moveFps store c.toNat (1, (s.s b.toNat).data.toNat, 16384)
    tileMove store word b c true k s = s.posted word k.toNat f.1 f.2 (s.sRun b.toNat 1) [] := by
  refine (jobGuarded_passes _ (converge := false) hcore rfl hnames hready rfl).trans ?_
  rw [if_neg hexec, if_pos rfl, jobWords_run hreads hclean, ownTile_owned _ howned, dat_sRun_zero]
  simp only [scrRegion_inside halign hinside]
  exact postJob_posted hpost ..

theorem tileMove_global {s1 : State} {pages : Table (Nat × Nat × Bool)} (store : Bool) (word : BitVec 32) (k : BitVec 4)
    (hnames : s.namesOk ⟨[], [(b.toNat, 2)]⟩ = true)
    (hready : s.namesPending ⟨[], [(b.toNat, 2)]⟩ = false) (hreads : s.ReadsS [(b.toNat, 2)]) (hclean : s.CleanS [(b.toNat, 2)])
    (hrelease : releaseReady s1.g = true) (hpost : s1.mayPost = true)
    (hregion : s.jobRegion (if store then .store else .load) (s.s64 b.toNat).toNat 16384 128 [] = (s1, .ok pages)) :
    let f := moveFps store c.toNat (0, (s.s64 b.toNat).toNat, 16384)
    tileMove store word b c false k s = s1.posted word k.toNat f.1 f.2 (s.sRun b.toNat 2) pages := by
  refine (jobGuarded_passes _ (converge := false) hcore rfl hnames hready rfl).trans ?_
  rw [if_neg hexec, if_neg (by decide), jobWords_run hreads hclean, dat64_sRun]
  simp only [hregion, tileFail_owned howned, hrelease]
  exact postJob_posted hpost ..

end

/-! ### Multiplication (R331, R332) -/

theorem map_nth_nil (n : Nat) : (List.range n).map (nth []) = List.replicate n Word.zero := by
  rw [show nth [] = fun _ => Word.zero from rfl, List.map_const', List.length_range]

theorem advance_wait {s : State} (hstep : s.g.step = false) : s.advance.g.wait = .none := by rw [advance_eq hstep]

theorem posted_wait {s : State} (hstep : s.g.step = false) (instr : BitVec 32) (tok : Nat) (reads writes : List (Nat × Nat × Nat))
    (ops : List Word) (pages : Table (Nat × Nat × Bool)) : (s.posted instr tok reads writes ops pages).g.wait = .none :=
  advance_wait hstep

theorem exec_vMma {s : State} {a b : BitVec 6} {c : BitVec 8} (r : BitVec 1) (k : BitVec 4) (hcore : s.onKiln = false)
    (howned : c.toNat < s.tm.accN)
    (hbind : s.g.bind = 0xffffffff) (hexec : s.g.exec = 0xffffffff) (hlatch : s.g.latch = none)
    (hpair : pairOk (fmA s.g.fmt) (fmB s.g.fmt) = true) (hA : isBlock (fmA s.g.fmt) = false) (hB : isBlock (fmB s.g.fmt) = false)
    (hnames : s.namesOk ⟨[(a.toNat, 16)], [(b.toNat, 1)]⟩ = true) (hready : s.namesPending ⟨[(a.toNat, 16)], [(b.toNat, 1)]⟩ = false)
    (hreads : s.ReadsS [(b.toNat, 1)]) (hclean : s.CleanS [(b.toNat, 1)]) (hrows : s.rowsBad a.toNat 16 = 0)
    (halign : (s.s b.toNat).data.toNat % 128 = 0) (hinside : (s.s b.toNat).data.toNat + 8192 ≤ 4096 * s.tm.scratchN)
    (hpost : s.mayPost = true) (hstep : s.g.step = false) :
    let t := s.posted ((encode (.vMma a b c r k)).getD 0) k.toNat [(1, (s.s b.toNat).data.toNat, 8192), tileFp c.toNat] [tileFp c.toNat]
      ((s.rowsOf a.toNat 16).flatten ++ List.replicate 32 Word.zero ++ s.sRun b.toNat 1) []
    exec (.vMma a b c r k) s =
      .next { t with g := { t.g with latch := if r = 1 then some ⟨0, s.rowsOf a.toNat 16, []⟩ else none } } := by
  have hframe : a.toNat + 16 ≤ s.g.frame := by
    have hvs := (Bool.and_eq_true_iff.1 hnames).1
    simpa using hvs
  have hread : s.aReads a.toNat (isBlock (fmA s.g.fmt)) = (a.toNat, 16) := by rw [State.aReads, hlatch, hA]; rfl
  refine congrArg Host.Outcome.next ?_
  rw [hread]
  refine (jobGuarded_passes _ hcore (by simp [hpair, hA, hframe]) hnames hready (by rw [hbind, hexec]; rfl)).trans ?_
  rw [jobWords_run hreads hclean, ownTile_owned _ howned, dat_sRun_zero]
  simp only [hB, hA, hlatch, scrRegion_inside halign hinside, hrows, map_nth_nil, postJob_posted hpost, posted_wait hstep, Bool.false_eq_true, if_false,
    ne_eq, not_true_eq_false]

/-! ### Drains (R335) -/

theorem drainRuns_names (s : State) {b : Nat} (sb : Nat) (h : b ≤ 58) : s.namesOk ⟨[], drainRuns b sb⟩ = true := by
  rw [drainRuns]
  split_ifs
  · simp [State.namesOk]
    omega
  · simp [State.namesOk]
    omega

theorem exec_vMdrain {s s1 : State} {a b : BitVec 6} {c : BitVec 8} (z : BitVec 1) (k : BitVec 4) {o sb : Nat} {ws : List Word}
    {pages : Table (Nat × Nat × Bool)} (hcore : s.onKiln = false) (howned : c.toNat < s.tm.accN)
    (hbind : s.g.bind = 0xffffffff) (hexec : s.g.exec = 0xffffffff) (hpair : pairOk (fmA s.g.fmt) (fmB s.g.fmt) = true)
    (ho : fmO s.g.fmt = o) (hsb : scaleBytes o (fmBlk s.g.fmt) = sb) (hvalid : o ≠ 15) (hplain : ¬ (3 ≤ o ∧ o ≤ 6))
    (hb : b.toNat ≤ 58) (ha : a.toNat < s.g.frame) (hready : s.namesPending ⟨[], drainRuns b.toNat sb⟩ = false)
    (hreads : s.ReadsS (drainRuns b.toNat sb)) (hclean : s.CleanS (drainRuns b.toNat sb))
    (hws : drainOps sb ((drainRuns b.toNat sb).flatMap (fun r => s.sRun r.1 r.2)) = ws)
    (hrelease : releaseReady s1.g = true) (hpost : s1.mayPost = true)
    (hregions : s.jobRegions .store [((dat64 ws 0).toNat, 32 * rowBytes o, 128), ((dat64 ws 2).toNat, sb, 64), ((dat64 ws 4).toNat, 16, 16)] [] =
      (s1, .ok pages)) :
    exec (.vMdrain a b c z k) s = .next (s1.posted ((encode (.vMdrain a b c z k)).getD 0) k.toNat [tileFp c.toNat]
      ([(0, (dat64 ws 0).toNat, 32 * rowBytes o), (0, (dat64 ws 2).toNat, sb), (0, (dat64 ws 4).toNat, 16)] ++
        if z = 1 then [tileFp c.toNat] else [])
      (List.replicate 32 Word.zero ++ ws) pages) := by
  have hscaled : (decide (3 ≤ o) && decide (o ≤ 6)) = false := by simpa using hplain
  refine congrArg Host.Outcome.next ?_
  simp only [ho, hsb, hscaled]
  refine (jobGuarded_passes _ hcore (by simp [hvalid, hpair, hb, ha]) (drainRuns_names s sb hb) hready (by rw [hbind, hexec]; rfl)).trans ?_
  rw [jobWords_clean hreads hclean]
  simp only [hws, hregions, tileFail_owned howned, hrelease]
  exact postJob_posted hpost ..

/-! ### Tile checks (R338) -/

/-- R338: a check whose lanes all pass completes. -/
theorem tcheckDone_passes {s : State} {act : Act} (hguard : act.faulty = 0) :
    s.tcheckDone act ((lanesOf act.lanes).map (fun l => (l, .ok true))) = ({ s with glitch := 0, g := { s.g with checked := [] } } : State).advance := by
  have hgood : (lanesOf act.lanes).map (fun l => (l, Except.ok (ε := LaneFail) true)) =
      ((lanesOf act.lanes).map (fun l => (l, true))).map (fun r => (r.1, .ok r.2)) := by simp [Function.comp_def]
  rw [State.tcheckDone, hguard, byLane_lanesOf (m := act.lanes) (by simp [Function.comp_def]), hgood, lostOf_ok, goodLanes_ok, memTrap_none]
  simp

/-- Settles O23: each job is posted once its checks have passed; tile checks and waits complete. -/
theorem matrixInstructions : Obligations.MatrixInstructions := by
  unfold Obligations.MatrixInstructions
  intro s s1 c k hcore howned
  refine ⟨fun hexec hpost => exec_vMzero k hcore howned hexec hpost, fun b pages hexec => ⟨?_, ?_⟩, ?_, ?_, ?_, ?_⟩
  · intro hnames hready hreads hclean off halign hinside hpost
    have hmove := fun store word => tileMove_scratch hcore howned hexec store word k hnames hready hreads hclean halign hinside hpost
    exact ⟨congrArg Host.Outcome.next (hmove false _), congrArg Host.Outcome.next (hmove true _)⟩
  · intro hnames hready hreads hclean hrelease hpost base
    have hmove := fun store word => tileMove_global (pages := pages) hcore howned hexec store word k hnames hready hreads hclean hrelease hpost
    exact ⟨fun hregion => congrArg Host.Outcome.next (hmove false _ hregion), fun hregion => congrArg Host.Outcome.next (hmove true _ hregion)⟩
  · intro a b r hbind hexec hlatch hpair hA hB hnames hready hreads hclean hrows off halign hinside hpost t hstep
    exact exec_vMma r k hcore howned hbind hexec hlatch hpair hA hB hnames hready hreads hclean hrows halign hinside hpost hstep
  · intro a b z pages hbind hexec hpair o sb rs ho hplain hb ha hready hreads hclean hrelease hpost ws e x t hregions
    exact exec_vMdrain z k hcore howned hbind hexec hpair rfl rfl ho hplain hb ha hready hreads hclean rfl hrelease hpost hregions
  · intro t a b p hfit houtst hlanes
    refine congrArg Host.Outcome.next ((vGuarded_fit _ _ hfit rfl).trans ?_)
    rw [if_neg (not_not.2 houtst), hlanes]
    exact tcheckDone_passes hfit.guarded
  · intro l g hfit
    exact congrArg Host.Outcome.next (sGuarded_core g _ hcore hfit rfl)

end Sys2Proof.Machine
end

section
/-! Shifts and rotations: the bits and the residues of their words (R229). -/

namespace Sys2Proof.Machine

open Sys2Proof.Laws

/-! ### Residues as integers -/

/-- A predicted nibble that is the residue of a word gives the residue of that word modulo 15. -/
theorem resOf_toNat_of_r15 {z : Int} {x : BitVec 32} (h : r15 z = resOf x) : ((resOf x).toNat : Int) = z % 15 := by
  have hz := congrArg (fun r : BitVec 4 => (r.toNat : Int)) h
  simp only [r15, BitVec.toNat_ofNat] at hz
  omega

theorem outShl_eq (x : BitVec 32) {k : Nat} (h : k < 32) : outShl x k = x.toNat / 2 ^ (32 - k) := by
  rw [outShl, show (2 : Nat) ^ 32 = 2 ^ (32 - k) * 2 ^ k by rw [← pow_add, Nat.sub_add_cancel h.le],
    Nat.mul_div_mul_right _ _ (Nat.two_pow_pos k)]

/-! ### Rotation to the right, and the fill of a signed shift -/

theorem rotateRight_eq_rotateLeft (x : BitVec 32) {k : Nat} (h : k < 32) : x.rotateRight k = x.rotateLeft ((32 - k) % 32) := by
  obtain rfl | hk := Nat.eq_zero_or_pos k
  · ext i hi
    simp [BitVec.getElem_rotateRight, BitVec.getElem_rotateLeft, hi]
  · rw [Nat.mod_eq_of_lt (by omega : 32 - k < 32), BitVec.rotateRight_eq_rotateRightAux_of_lt h,
      BitVec.rotateLeft_eq_rotateLeftAux_of_lt (by omega : 32 - k < 32), BitVec.rotateRightAux, BitVec.rotateLeftAux,
      Nat.sub_sub_self h.le, BitVec.or_comm]

/-- R229: what a signed shift by k puts into the high bits of a negative word. -/
def signFill (k : Nat) : BitVec 32 := BitVec.ofNat 32 (2 ^ 32 - 2 ^ (32 - k))

theorem signFill_toNat (k : Nat) : (signFill k).toNat = 2 ^ 32 - 2 ^ (32 - k) := by
  have := Nat.two_pow_pos (32 - k)
  rw [signFill, BitVec.toNat_ofNat, Nat.mod_eq_of_lt (by omega)]

theorem signFill_eq_shiftLeft {k : Nat} (h : k < 32) : signFill k = BitVec.allOnes 32 <<< (32 - k) := by
  apply BitVec.eq_of_toNat_eq
  rw [signFill_toNat k, BitVec.toNat_shiftLeft, BitVec.toNat_allOnes, Nat.shiftLeft_eq]
  interval_cases k <;> rfl

theorem ushiftRight_and_signFill (x : BitVec 32) {k : Nat} (h : k < 32) : (x >>> k) &&& signFill k = 0 := by
  rw [signFill_eq_shiftLeft h]
  ext i hi
  by_cases hlow : i < 32 - k
  · simp [hlow]
  · simp [hlow, BitVec.getLsbD_of_ge x (k + i) (by omega)]

/-- R229: the fill of k bits has the residue of the term that the prediction adds. -/
theorem resOf_signFill {k : Nat} (h : k < 32) : ((resOf (signFill k)).toNat : Int) = (1 - 2 ^ ((4 - k % 4) % 4)) % 15 := by
  interval_cases k <;> decide

theorem sshiftRight_eq_add_signFill (x : BitVec 32) {k : Nat} (h : k < 32) (hneg : x.msb = true) :
    x.sshiftRight k = (x >>> k) + signFill k := by
  have hsign : isNeg x = true := by rw [isNeg, ← hneg, BitVec.msb_eq_getLsbD_last]
  have hshift : x.toNat / 2 ^ k < 2 ^ (32 - k) := by
    rw [Nat.div_lt_iff_lt_mul (Nat.two_pow_pos k), ← pow_add, Nat.sub_add_cancel h.le]
    exact x.isLt
  have hpow : 2 ^ (32 - k) ≤ 2 ^ 32 := Nat.pow_le_pow_right (by decide) (Nat.sub_le 32 k)
  apply BitVec.eq_of_toNat_eq
  rw [sar_toNat x k h, if_pos hsign, BitVec.toNat_add, signFill_toNat k, BitVec.toNat_ushiftRight, Nat.shiftRight_eq_div_pow,
    Nat.mod_eq_of_lt (by omega)]

/-- Settles O47: each shifted word has the residue its network predicts, and the fill is what that network adds for the sign. -/
theorem shiftResidues : Obligations.ShiftResidues := by
  unfold Obligations.ShiftResidues
  intro a k hk ra res outL outR fill
  refine ⟨?_, ?_, ?_, ?_, rotateRight_eq_rotateLeft a hk, rfl, fun _ =>
    ⟨ushiftRight_and_signFill a hk, resOf_signFill hk, sshiftRight_eq_add_signFill a hk⟩⟩
  · have hshl := resOf_toNat_of_r15 (predShl_eq a k hk)
    rwa [outShl_eq a hk] at hshl
  · exact resOf_toNat_of_r15 (predShr_eq a k hk)
  · have hsign : isNeg a = a.msb := by rw [isNeg, BitVec.msb_eq_getLsbD_last]
    have hsar := resOf_toNat_of_r15 (predSar_eq a k hk)
    rwa [hsign] at hsar
  · exact resOf_toNat_of_r15 (predRot_eq a k hk)

end Sys2Proof.Machine
end

section
/-! What the lanes and the uniform registers take from an arithmetic instruction (R221, R224, R230, R269, R271, R341). -/

namespace Sys2Proof.Machine

open Sys2Proof.Laws

/-! ### Result words that pass their checks -/

theorem checkedWords_gen (xs : List (BitVec 32)) : checkedWords (xs.map gen) = .ok (xs.map Word.ofData) := by
  rw [checkedWords_ok _ fun q hq => ?_, List.map_map]
  · rfl
  · obtain ⟨x, -, rfl⟩ := List.mem_map.1 hq
    rfl

/-- R224: words of which none is poison and all pass are their data with its residue. -/
theorem map_ofData_of_clean {ws : List Word} (hchecks : ∀ w ∈ ws, w.checks = true) (hclean : ¬ ws.any Word.isPoison = true) :
    ws = ws.map (fun w => Word.ofData w.data) := by
  rw [Bool.not_eq_true, List.any_eq_false] at hclean
  exact (List.map_id ws).symm.trans (List.map_congr_left fun w hw =>
    ofData_of_checks (hchecks w hw) (Bool.not_eq_true _ ▸ hclean w hw))

section
variable {F : List Word → List (BitVec 32 × BitVec 4)} {d k : Nat} {R : List (BitVec 32)}

/-- R269: a lane whose sources pass writes the results of its source data, or poison. -/
theorem laneArith_results {s : State} {ss : List Src} {l : Nat} (hchecks : ∀ x ∈ ss, (s.v x.n l).checks = true) (hlen : R.length = k)
    (hF : F (ss.map (fun x => Word.ofData (s.v x.n l).data)) = R.map gen) :
    s.laneArith ss (dests d k) F l = .ok ⟨runWrites d (arithOf k (ss.map (fun x => s.v x.n l)) R), []⟩ := by
  simp only [State.laneArith, srcWords_ok s l ss hchecks, arithOf, runWrites]
  split_ifs with hpoison
  · rw [dests_replicate]
  · have hwords : ∀ w ∈ ss.map (fun x => s.v x.n l), w.checks = true := List.forall_mem_map.2 hchecks
    have hdata := map_ofData_of_clean hwords hpoison
    rw [List.map_map] at hdata
    rw [hdata]
    simp only [Function.comp_def, hF, checkedWords_gen]
    rw [zip_dests d k _ (by rw [List.length_map, hlen])]

/-- R341: the same on the uniform file. -/
theorem sArith_results {s : State} {ss : List Src} (hsound : s.glitch = 0) (hchecks : ∀ x ∈ ss, (s.s x.n).checks = true) (hk : 0 < k)
    (hF : F (ss.map (fun x => Word.ofData (s.s x.n).data)) = R.map gen) :
    s.sArith ss (dests d k) F = (s.setSs d (arithOf k (ss.map (fun x => s.s x.n)) R)).advance := by
  simp only [State.sArith, sWords_ok s ss hchecks, dests_headD d k hk, arithOf]
  split_ifs with hpoison
  · rw [sResult_ok _ _ _ hsound, dests, List.map_map]
    simp [Function.comp_def]
  · have hwords : ∀ w ∈ ss.map (fun x => s.s x.n), w.checks = true := List.forall_mem_map.2 hchecks
    have hdata := map_ofData_of_clean hwords hpoison
    rw [List.map_map] at hdata
    rw [hdata]
    simp only [Function.comp_def, hF, checkedWords_gen, sResult_ok _ _ _ hsound]

end

/-! ### Lane instructions by their sources -/

/-- A lane instruction that names no other registers than one that fits also fits. -/
theorem State.FitV.of_subset {s : State} {p : BitVec 3} {ns ms : Names} (h : s.FitV p ns) (hvs : ms.vs ⊆ ns.vs) (hss : ms.ss ⊆ ns.ss) :
    s.FitV p ms := by
  obtain ⟨hcore, hnamed, hready, hguarded, hsound⟩ := h
  simp only [State.namesOk, Bool.and_eq_true, List.all_eq_true] at hnamed
  simp only [State.namesPending, Bool.or_eq_false_iff, List.any_eq_false] at hready
  refine ⟨hcore, ?_, ?_, hguarded, hsound⟩
  · simp only [State.namesOk, Bool.and_eq_true, List.all_eq_true]
    exact ⟨fun r hr => hnamed.1 r (hvs hr), fun r hr => hnamed.2 r (hss hr)⟩
  · simp only [State.namesPending, Bool.or_eq_false_iff, List.any_eq_false]
    exact ⟨fun r hr => hready.1 r (hvs hr), fun r hr => hready.2 r (hss hr)⟩

theorem State.ReadsV.append {s : State} {p : BitVec 3} {rs qs : List (Nat × Nat)} (hr : s.ReadsV p rs) (hq : s.ReadsV p qs) :
    s.ReadsV p (rs ++ qs) :=
  fun l hl r hmem => (List.mem_append.1 hmem).elim (hr l hl r) (hq l hl r)

section
variable {s : State} {p : BitVec 3} {legal : Bool} {ns : Names} {F : List Word → List (BitVec 32 × BitVec 4)} {d k : Nat}

/-- R269: over the active lanes, an arithmetic instruction whose sources stand in runs that pass. -/
theorem laneOp_results {ss : List Src} {runs : List (Nat × Nat)} {G : State → List Word → List (BitVec 32 × BitVec 4)}
    (R : Nat → List (BitVec 32)) (hlegal : legal = true) (hfit : s.FitV p ns) (hreads : s.ReadsV p runs)
    (hss : ∀ x ∈ ss, ∃ r ∈ runs, ∃ i < r.2, x.n = r.1 + i) (hlen : ∀ l, (R l).length = k)
    (hG : ∀ l, G s (ss.map (fun x => Word.ofData (s.v x.n l).data)) = (R l).map gen) :
    s.laneOp p legal ns (fun s => s.laneArith ss (dests d k) (G s)) =
      (s.putV p d (fun l => arithOf k (ss.map (fun x => s.v x.n l)) (R l))).advance :=
  (laneOp_ok s p legal ns _ _ hlegal hfit fun l hl => laneArith_results (reads_srcs s p runs ss hreads hss l hl) (hlen l) (hG l)).trans
    (congrArg State.advance (putV_commit s p d _))

variable {a b c : Nat}

theorem laneOp_one (g : BitVec 32 → BitVec 32) (hF : ∀ x, F [Word.ofData x] = [gen (g x)]) (i : Nat) (hfit : s.FitV p ns)
    (hreads : s.ReadsV p [(a, 1)]) : s.laneOp p true ns (fun s => s.laneArith [⟨a, i⟩] [d] F) =
      (s.putV p d (fun l => arithOf 1 (s.vRun a 1 l) [g (s.v a l).data])).advance :=
  laneOp_results (k := 1) (fun l => [g (s.v a l).data]) rfl hfit hreads (by simp) (fun _ => rfl) (fun _ => hF _)

theorem laneOp_two (g : BitVec 32 → BitVec 32 → BitVec 32) (hF : ∀ x y, F [Word.ofData x, Word.ofData y] = [gen (g x y)]) (i j : Nat)
    (hfit : s.FitV p ns) (hreads : s.ReadsV p [(a, 1), (b, 1)]) :
    s.laneOp p true ns (fun s => s.laneArith [⟨a, i⟩, ⟨b, j⟩] [d] F) =
      (s.putV p d (fun l => arithOf 1 (s.vRun a 1 l ++ s.vRun b 1 l) [g (s.v a l).data (s.v b l).data])).advance :=
  laneOp_results (k := 1) (fun l => [g (s.v a l).data (s.v b l).data]) rfl hfit hreads (by simp) (fun _ => rfl) (fun _ => hF _ _)

theorem laneOp_three (g : BitVec 32 → BitVec 32 → BitVec 32 → BitVec 32)
    (hF : ∀ x y z, F [Word.ofData x, Word.ofData y, Word.ofData z] = [gen (g x y z)]) (h i j : Nat) (hfit : s.FitV p ns)
    (hreads : s.ReadsV p [(a, 1), (b, 1), (c, 1)]) :
    s.laneOp p true ns (fun s => s.laneArith [⟨a, h⟩, ⟨b, i⟩, ⟨c, j⟩] [d] F) =
      (s.putV p d (fun l => arithOf 1 (s.vRun a 1 l ++ s.vRun b 1 l ++ s.vRun c 1 l)
        [g (s.v a l).data (s.v b l).data (s.v c l).data])).advance :=
  laneOp_results (k := 1) (fun l => [g (s.v a l).data (s.v b l).data (s.v c l).data]) rfl hfit hreads (by simp) (fun _ => rfl)
    (fun _ => hF _ _ _)

/-- R271: an operation on two register pairs, by their 64-bit values. -/
theorem laneOp_pairs (g : BitVec 64 → BitVec 64 → BitVec 64)
    (hF : ∀ al ah bl bh, F [Word.ofData al, Word.ofData ah, Word.ofData bl, Word.ofData bh] = (halves (g (ah ++ al) (bh ++ bl))).map gen)
    (hfit : s.FitV p ns) (hreads : s.ReadsV p [(a, 2), (b, 2)]) :
    s.laneOp p true ns (fun s => s.laneArith (srcs a 2 1 ++ srcs b 2 2) (dests d 2) F) =
      (s.putV p d (fun l => arithOf 2 (s.vRun a 2 l ++ s.vRun b 2 l) (halves (g (s.v64 a l) (s.v64 b l))))).advance :=
  laneOp_results (fun l => halves (g (s.v64 a l) (s.v64 b l))) rfl hfit hreads (fun _ => mem_two_srcs) (fun _ => rfl) (fun _ => hF _ _ _ _)

end

end Sys2Proof.Machine
end

section
/-! The words that integer, logic and shift instructions compute, each with the residue that its network predicts (R226–R229, R271–R276,
R281). -/

namespace Sys2Proof.Machine

open Sys2Proof.Laws

/-! ### Sums and differences -/

/-- R271: the words of `add` or `sub` by type code. -/
def addSubResult (sub : Bool) (t : BitVec 2) (x y : BitVec 32) (X Y : BitVec 64) : List (BitVec 32) :=
  if sub then subResult t x y X Y else addResult t x y X Y

theorem addSubResult_length (sub : Bool) {t : BitVec 2} (ht : t ≠ 1) (x y : BitVec 32) (X Y : BitVec 64) :
    (addSubResult sub t x y X Y).length = 1 := by
  match t with
  | 0 => cases sub <;> rfl
  | 1 => exact absurd rfl ht
  | 2 => cases sub <;> rfl
  | 3 => cases sub <;> rfl

/-- R226, R271: the word, the halves and the bytes, each with its network's prediction. -/
theorem addSub_eq (sub : Bool) {t : BitVec 2} (ht : t ≠ 1) (x y : BitVec 32) (X Y : BitVec 64) :
    addSub sub t.toNat [Word.ofData x, Word.ofData y] = (addSubResult sub t x y X Y).map gen := by
  match t with
  | 0 => exact (addSub32_eq sub x y).trans (by cases sub <;> rfl)
  | 1 => exact absurd rfl ht
  | 2 =>
    obtain ⟨hword, hres⟩ := packed16 sub x y
    refine (congrArg (fun r => [((packedAdd 16 2 sub x y).1, r)]) hres).trans ?_
    rw [hword]
    cases sub <;> rfl
  | 3 =>
    obtain ⟨hword, hres⟩ := packed8 sub x y
    refine (congrArg (fun r => [((packedAdd 8 4 sub x y).1, r)]) hres).trans ?_
    rw [hword]
    cases sub <;> rfl

theorem addW_eq (x y : BitVec 32) : addW (Word.ofData x) (Word.ofData y) = gen (x + y) :=
  List.head_eq_of_cons_eq (addSub32_eq false x y)

theorem negWord_eq (x : BitVec 32) : (0 - x, predNeg (resOf x) (if x = 0 then 0 else 1)) = gen (- x) := by
  rw [predNeg_eq]
  exact congrArg gen (BitVec.zero_sub x)

theorem addSub64_neg (lo hi : BitVec 32) :
    addSub64 true [Word.zero, Word.zero, Word.ofData lo, Word.ofData hi] = (halves (- (hi ++ lo))).map gen := by
  exact (addSub64_sub 0 0 lo hi).trans (congrArg gen64 (BitVec.zero_sub (hi ++ lo)))

theorem absWord_gen (x : BitVec 32) : absWord (Word.ofData x) = gen (if x.toInt < 0 then - x else x) := by
  have hneg : isNeg x = true ↔ x.toInt < 0 := by
    rw [isNeg, ← BitVec.msb_eq_getLsbD_last x, BitVec.msb_eq_toInt, decide_eq_true_iff]
  simp only [absWord_eq, hneg, show (0 : BitVec 32) - x = - x from BitVec.zero_sub x]

/-- R272: the larger word minus the smaller, plus the addend. -/
def sadResult (sg : BitVec 1) (x y z : BitVec 32) : BitVec 32 :=
  (if (if sg = 1 then decide (x.toInt < y.toInt) else decide (x.toNat < y.toNat)) then y - x else x - y) + z

theorem sadWord_gen (sg : BitVec 1) (x y z : BitVec 32) :
    sadWord (sg = 1) (Word.ofData x) (Word.ofData y) (Word.ofData z) = gen (sadResult sg x y z) := by
  rw [sadWord_eq]
  simp only [sadResult, decide_eq_true_eq, BitVec.slt, BitVec.ult]

/-! ### Products -/

theorem mulLow_zero (x y : BitVec 32) : mulLow (Word.ofData x) (Word.ofData y) 0 0 = gen (x * y) :=
  (mulLow_eq x y 0).trans (congrArg gen (BitVec.add_zero _))

/-- R271, R274: the high word of a product plus an addend. -/
def highWord (sg : BitVec 1) (x y z : BitVec 32) : BitVec 32 :=
  if sg = 1 then BitVec.ofInt 32 ((x.toInt * y.toInt + z.toInt) / 2 ^ 32) else BitVec.ofNat 32 ((x.toNat * y.toNat + z.toNat) / 2 ^ 32)

theorem mulHigh_eq (sg : BitVec 1) (x y z : BitVec 32) :
    (if sg = 1 then mulHighS (Word.ofData x) (Word.ofData y) z (resOf z) else mulHighU (Word.ofData x) (Word.ofData y) z (resOf z)) =
      gen (highWord sg x y z) := by
  unfold highWord
  split_ifs
  · exact mulHighS_eq x y z
  · exact mulHighU_eq x y z

theorem highWord_zero (sg : BitVec 1) (x y : BitVec 32) : highWord sg x y 0 =
    if sg = 1 then BitVec.ofInt 32 (x.toInt * y.toInt / 2 ^ 32) else BitVec.ofNat 32 (x.toNat * y.toNat / 2 ^ 32) := by
  simp [highWord]

theorem halves_ofInt (v : Int) : halves (BitVec.ofInt 64 v) = [BitVec.ofInt 32 v, BitVec.ofInt 32 (v / 2 ^ 32)] := by
  refine congrArg₂ (fun x y => [x, y]) (BitVec.eq_of_toNat_eq ?_) (BitVec.eq_of_toNat_eq ?_)
  all_goals
    rw [toNat_extractLsb'_div, BitVec.toNat_ofInt, BitVec.toNat_ofInt]
    omega

theorem halves_ofNat (n : Nat) : halves (BitVec.ofNat 64 n) = [BitVec.ofNat 32 n, BitVec.ofNat 32 (n / 2 ^ 32)] :=
  halves_ofInt n

/-- R274: the words of the 64-bit product plus an addend. -/
theorem halves_mulAdd (sg : BitVec 1) (x y z : BitVec 32) :
    halves (if sg = 1 then BitVec.ofInt 64 (x.toInt * y.toInt + z.toInt) else BitVec.ofNat 64 (x.toNat * y.toNat + z.toNat)) =
      [x * y + z, highWord sg x y z] := by
  unfold highWord
  split_ifs
  · rw [halves_ofInt, BitVec.ofInt_add, BitVec.ofInt_mul, BitVec.ofInt_toInt, BitVec.ofInt_toInt, BitVec.ofInt_toInt]
  · rw [halves_ofNat, BitVec.ofNat_add, BitVec.ofNat_mul, BitVec.ofNat_toNat, BitVec.ofNat_toNat, BitVec.ofNat_toNat]
    simp

/-! ### Logic and shifts -/

theorem andW_eq (x y : BitVec 32) : andW (Word.ofData x) (Word.ofData y) = gen (x &&& y) := congrArg (Prod.mk _) (predAnd_eq x y)

theorem orW_eq (x y : BitVec 32) : orW (Word.ofData x) (Word.ofData y) = gen (x ||| y) := congrArg (Prod.mk _) (predOr_eq x y)

theorem xorW_eq (x y : BitVec 32) : xorW (Word.ofData x) (Word.ofData y) = gen (x ^^^ y) := congrArg (Prod.mk _) (predXor_eq x y)

theorem andnW_eq (x y : BitVec 32) : andnW (Word.ofData x) (Word.ofData y) = gen (x &&& ~~~ y) :=
  (congrArg (fun r => andW (Word.ofData x) ⟨~~~ y, r⟩) (predNot_eq y)).trans (andW_eq x (~~~ y))

section
variable (x y : BitVec 32)

theorem count_lt : y.toNat % 32 < 32 := Nat.mod_lt _ (by decide)

theorem byCount_shlW : byCount shlW (Word.ofData x) (Word.ofData y) = gen (x <<< (y.toNat % 32)) :=
  congrArg (Prod.mk _) (predShl_eq x _ (count_lt y))

theorem byCount_shrW : byCount shrW (Word.ofData x) (Word.ofData y) = gen (x >>> (y.toNat % 32)) :=
  congrArg (Prod.mk _) (predShr_eq x _ (count_lt y))

theorem byCount_sarW : byCount sarW (Word.ofData x) (Word.ofData y) = gen (x.sshiftRight (y.toNat % 32)) :=
  congrArg (Prod.mk _) (predSar_eq x _ (count_lt y))

theorem byCount_rotW : byCount rotW (Word.ofData x) (Word.ofData y) = gen (x.rotateLeft (y.toNat % 32)) :=
  congrArg (Prod.mk _) (predRot_eq x _ (count_lt y))

end

/-- The count of an immediate shift is its immediate. -/
theorem shiftImm_toNat (k : BitVec 5) : (k.zeroExtend 32).toNat % 32 = k.toNat := by
  have := k.isLt
  rw [BitVec.toNat_setWidth]
  omega

theorem halfW_eq (hi : Bool) (x : BitVec 32) (i : BitVec 16) : halfW hi (Word.ofData x) i =
    gen (if hi then i ++ x.extractLsb' 0 16 else x.extractLsb' 16 16 ++ i) := by
  cases hi
  · exact congrArg (Prod.mk _) (predReplace_lo x i)
  · exact congrArg (Prod.mk _) (predReplace_hi x i)

/-! ### Counts and the funnel shift -/

theorem clzW_eq (x : BitVec 32) : clzW x = BitVec.ofNat 32 (32 - (if x = 0 then 0 else Nat.log2 x.toNat + 1)) := by
  unfold clzW
  split_ifs
  · rfl
  · rw [Nat.sub_add_eq, Nat.sub_right_comm]

/-- R276: the funnel shift takes the high word of the pair. -/
theorem shfW_eq (x old : BitVec 32) {k : Nat} (h : k < 32) : shfW x old k = ((x ++ old) <<< k).extractLsb' 32 32 := by
  ext i hi
  rw [BitVec.getElem_extractLsb', BitVec.getLsbD_shiftLeft, BitVec.getLsbD_append]
  unfold shfW
  have hin : 32 + i < 64 := by omega
  have hout : ¬ 32 + i < k := by omega
  by_cases hk : k = 0
  · simp [hk, hi, hin]
  · by_cases hlow : i < k
    · have hold : 32 + i - k < 32 := by omega
      have hsame : 32 - k + i = 32 + i - k := by omega
      simp [hk, hlow, hin, hout, hold, hsame]
    · have hnew : ¬ 32 + i - k < 32 := by omega
      have hsame : 32 + i - k - 32 = i - k := by omega
      have hnone : old.getLsbD (32 - k + i) = false := BitVec.getLsbD_of_ge _ _ (by omega)
      simp [hk, hlow, hin, hout, hnew, hsame, hnone, BitVec.getLsbD_eq_getElem (show i - k < 32 by omega)]

end Sys2Proof.Machine
end

section
/-! Integer, logic and shift instructions of the lanes (R226–R229, R269, R271–R276, R280, R281). -/

namespace Sys2Proof.Machine

open Sys2Proof.Laws

/-! ### Sums, differences and absolute values -/

/-- R271: the shared form of `add` and `sub`: words, halves and bytes in one register, the 64-bit form in a pair. -/
theorem execAddSub_eq {s : State} {d a b : BitVec 6} {t : BitVec 2} {p : BitVec 3} (sub : Bool)
    (hfit : s.FitV p (names3 d.toNat a.toNat b.toNat (widthOf t))) (hreads : s.ReadsV p [(a.toNat, widthOf t), (b.toNat, widthOf t)]) :
    execAddSub sub d a b t p s = (s.putV p d.toNat (fun l =>
      arithOf (widthOf t) (s.vRun a.toNat (widthOf t) l ++ s.vRun b.toNat (widthOf t) l)
        (addSubResult sub t (s.v a.toNat l).data (s.v b.toNat l).data (s.v64 a.toNat l) (s.v64 b.toNat l)))).advance := by
  by_cases ht : t = 1
  · subst ht
    cases sub
    · exact laneOp_pairs (· + ·) addSub64_add hfit hreads
    · exact laneOp_pairs (· - ·) addSub64_sub hfit hreads
  · have hone : widthOf t = 1 := if_neg fun h => ht (BitVec.eq_of_toNat_eq h)
    rw [hone] at hfit hreads ⊢
    rw [execAddSub, if_neg ht]
    exact laneOp_results (ss := [⟨a.toNat, 1⟩, ⟨b.toNat, 2⟩]) _ rfl hfit hreads (by simp)
      (fun l => addSubResult_length sub ht _ _ _ _) (fun l => addSub_eq sub ht _ _ _ _)

/-- Settles O1: each instruction by the word that its network predicts. -/
theorem laneAddSub : Obligations.LaneAddSub := by
  unfold Obligations.LaneAddSub
  intro s d a b p
  refine ⟨fun t hfit hreads => ⟨?_, ?_⟩, fun hfit hreads => ⟨fun i => ?_, ?_⟩, fun hfit hreads => ?_, fun hfit hreads => ?_,
    fun hfit hreads sg => ?_⟩
  · exact congrArg Host.Outcome.next (execAddSub_eq false hfit hreads)
  · exact congrArg Host.Outcome.next (execAddSub_eq true hfit hreads)
  · exact congrArg Host.Outcome.next (laneOp_one (· + i.signExtend 32) (fun x => congrArg ([·]) (addW_eq x _)) 1 hfit hreads)
  · exact congrArg Host.Outcome.next (laneOp_one (- ·) (fun x => congrArg ([·]) (negWord_eq x)) 1 hfit hreads)
  · exact congrArg Host.Outcome.next (laneOp_results (ss := srcs a.toNat 2 1) (k := 2) (fun l => halves (- s.v64 a.toNat l)) rfl hfit hreads
      (fun _ hx => ⟨_, List.mem_cons_self, mem_srcs hx⟩) (fun _ => rfl) (fun _ => addSub64_neg _ _))
  · exact congrArg Host.Outcome.next (laneOp_one (fun x => if x.toInt < 0 then - x else x) (fun x => congrArg ([·]) (absWord_gen x)) 1 hfit hreads)
  · exact congrArg Host.Outcome.next (laneOp_three (sadResult sg) (fun x y z => congrArg ([·]) (sadWord_gen sg x y z)) 1 2 3 hfit hreads)

/-! ### Products -/

/-- Settles O2: one word, the pair of `mul.b64` and the pair of `madw` by their products. -/
theorem laneMultiply : Obligations.LaneMultiply := by
  unfold Obligations.LaneMultiply
  intro s d a b p
  refine ⟨fun t hfit hreads => ?_, fun hfit hreads sg => ?_, fun hfit hreads => ?_, fun hfit hreads sg => ?_⟩
  · match t with
    | 0 => exact congrArg Host.Outcome.next (laneOp_two (· * ·) (fun x y => congrArg ([·]) (mulLow_zero x y)) 1 2 hfit hreads)
    | 1 => exact congrArg Host.Outcome.next (laneOp_pairs (· * ·) mul64_eq hfit hreads)
  · simp only [← highWord_zero]
    exact congrArg Host.Outcome.next (laneOp_two (highWord sg · · 0) (fun x y => congrArg ([·]) (mulHigh_eq sg x y 0)) 1 2 hfit hreads)
  · exact congrArg Host.Outcome.next (laneOp_three (fun x y z => x * y + z) (fun x y z => congrArg ([·]) (mulLow_eq x y z)) 1 2 3 hfit hreads)
  · simp only [halves_mulAdd]
    exact congrArg Host.Outcome.next (laneOp_results (ss := [⟨a.toNat, 1⟩, ⟨b.toNat, 2⟩, ⟨d.toNat, 3⟩]) (k := 2)
      (fun l => [(s.v a.toNat l).data * (s.v b.toNat l).data + (s.v d.toNat l).data,
        highWord sg (s.v a.toNat l).data (s.v b.toNat l).data (s.v d.toNat l).data])
      rfl hfit hreads (by simp) (fun _ => rfl) (fun _ => congrArg₂ (fun x y => [x, y]) (mulLow_eq _ _ _) (mulHigh_eq sg _ _ _)))

/-! ### The carry chain -/

/-- R273: the sum or the difference through the carry. -/
def addxResult (sub : Bool) (x y : BitVec 32) (c : Nat) : BitVec 32 :=
  if sub then x - y - BitVec.ofNat 32 c else BitVec.ofNat 32 (x.toNat + y.toNat + c)

/-- R273: the carry or the borrow out of bit 31. -/
def addxOut (sub : Bool) (x y : BitVec 32) (c : Nat) : Bool :=
  if sub then decide (x.toNat < y.toNat + c) else decide (2 ^ 32 ≤ x.toNat + y.toNat + c)

theorem addxWord_eq (sub : Bool) (x y : BitVec 32) {c : Nat} (hc : c < 2) : addxWord sub (Word.ofData x) (Word.ofData y) c =
    (addxResult sub x y c, resOf (addxResult sub x y c), addxOut sub x y c) := by
  have hsum : BitVec.ofNat 32 (x.toNat + y.toNat + c) = x + y + BitVec.ofNat 32 c := by
    rw [BitVec.ofNat_add, BitVec.ofNat_add, BitVec.ofNat_toNat, BitVec.ofNat_toNat, BitVec.setWidth_eq, BitVec.setWidth_eq]
  have hcarry : (carry32 x y c == 1) = decide (2 ^ 32 ≤ x.toNat + y.toNat + c) := by
    unfold carry32
    split_ifs with h
    · exact (decide_eq_true h).symm
    · exact (decide_eq_false h).symm
  have hborrow : (borrow32 x y c == 1) = decide (x.toNat < y.toNat + c) := by
    unfold borrow32
    split_ifs with h
    · exact (decide_eq_true h).symm
    · exact (decide_eq_false h).symm
  cases sub
  · simp only [addxWord, addxResult, addxOut, Word.ofData, hsum, predAdd_eq x y c hc, hcarry, Bool.false_eq_true, if_false]
  · simp only [addxWord, addxResult, addxOut, Word.ofData, predSub_eq x y c hc, hborrow, if_true]

/-- R273: a lane whose sources are healthy, and whose carry pair is. -/
theorem addxLane_healthy {s : State} {a b l : Nat} {c : Bool} (sub : Bool) (d : Nat) (ha : (s.v a l).checks = true)
    (hb : (s.v b l).checks = true) (hpa : (s.v a l).isPoison = false) (hpb : (s.v b l).isPoison = false) (hc : s.p 6 l = some c) :
    addxLane sub d a b s l = .ok ⟨[(d, Word.ofData (addxResult sub (s.v a l).data (s.v b l).data c.toNat))],
      [(6, addxOut sub (s.v a l).data (s.v b l).data c.toNat)]⟩ := by
  have hword := addxWord_eq sub (s.v a l).data (s.v b l).data c.toNat_lt
  rw [← ofData_of_checks ha hpa, ← ofData_of_checks hb hpb] at hword
  have hin : (if c then 1 else 0) = c.toNat := by cases c <;> rfl
  have hread : s.srcWords l [⟨a, 1⟩, ⟨b, 2⟩] = .ok [s.v a l, s.v b l] := srcWords_ok s l _ (by simp [ha, hb])
  simp only [addxLane, hpa, hpb, Bool.or_self, Bool.false_eq_true, if_false, hread, hc, hin, hword, checkedWord, if_true]
  rfl

/-- Settles O3: each lane by its sum or difference, and the carry or borrow out of it. -/
theorem laneCarryChain : Obligations.LaneCarryChain := by
  unfold Obligations.LaneCarryChain
  intro s d a b p c hfit hreads hlanes
  have hlane : ∀ sub l, s.active p l → addxLane sub d.toNat a.toNat b.toNat s l = .ok
      ⟨[(d.toNat, Word.ofData (addxResult sub (s.v a.toNat l).data (s.v b.toNat l).data (c l).toNat))],
        [(6, addxOut sub (s.v a.toNat l).data (s.v b.toNat l).data (c l).toNat)]⟩ := fun sub l hl => by
    obtain ⟨hpa, hpb, hc⟩ := hlanes l hl
    have hchecks := reads_srcs s p [(a.toNat, 1), (b.toNat, 1)] [⟨a.toNat, 1⟩, ⟨b.toNat, 2⟩] hreads (by simp) l hl
    exact addxLane_healthy sub d.toNat (hchecks ⟨a.toNat, 1⟩ (by simp)) (hchecks ⟨b.toNat, 2⟩ (by simp)) hpa hpb hc
  exact ⟨congrArg Host.Outcome.next (laneOp_ok s p true _ _ _ rfl hfit (hlane false)),
    congrArg Host.Outcome.next (laneOp_ok s p true _ _ _ rfl hfit (hlane true))⟩

/-! ### Logic and immediate moves -/

/-- R276: a logic form or a shift by the word that it computes. -/
theorem execLogic_eq {s : State} {d a b : BitVec 6} {p : BitVec 3} {w : Word → Word → BitVec 32 × BitVec 4}
    (f : BitVec 32 → BitVec 32 → BitVec 32) (hw : ∀ x y, w (Word.ofData x) (Word.ofData y) = gen (f x y))
    (hfit : s.FitV p (names3 d.toNat a.toNat b.toNat 1)) (hreads : s.ReadsV p [(a.toNat, 1), (b.toNat, 1)]) :
    execLogic w d a b p s = (s.putV p d.toNat (fun l =>
      arithOf 1 (s.vRun a.toNat 1 l ++ s.vRun b.toNat 1 l) [f (s.v a.toNat l).data (s.v b.toNat l).data])).advance :=
  laneOp_two f (fun x y => congrArg ([·]) (hw x y)) 1 2 hfit hreads

/-- R280: an immediate form. -/
theorem execImm_eq {s : State} {d a : BitVec 6} {p : BitVec 3} {w : Word → Word → BitVec 32 × BitVec 4}
    (f : BitVec 32 → BitVec 32 → BitVec 32) (hw : ∀ x y, w (Word.ofData x) (Word.ofData y) = gen (f x y)) (i : BitVec 32)
    (hfit : s.FitV p (names2 d.toNat a.toNat 1)) (hreads : s.ReadsV p [(a.toNat, 1)]) :
    execImm w d a (Word.ofData i) p s =
      (s.putV p d.toNat (fun l => arithOf 1 (s.vRun a.toNat 1 l) [f (s.v a.toNat l).data i])).advance :=
  laneOp_one (f · i) (fun x => congrArg ([·]) (hw x i)) 1 hfit hreads

/-- Settles O4: logic forms and moves by the words that they compute. -/
theorem laneLogic : Obligations.LaneLogic := by
  unfold Obligations.LaneLogic
  intro s d a b p
  refine ⟨fun hfit hreads => ⟨?_, ?_, ?_, ?_⟩, fun hfit hreads i => ⟨?_, ?_, ?_⟩, fun hfit i => ⟨?_, fun hreads => ⟨?_, ?_⟩⟩⟩
  · exact congrArg Host.Outcome.next (execLogic_eq (· &&& ·) andW_eq hfit hreads)
  · exact congrArg Host.Outcome.next (execLogic_eq (· ||| ·) orW_eq hfit hreads)
  · exact congrArg Host.Outcome.next (execLogic_eq (· ^^^ ·) xorW_eq hfit hreads)
  · exact congrArg Host.Outcome.next (execLogic_eq (fun x y => x &&& ~~~ y) andnW_eq hfit hreads)
  · exact congrArg Host.Outcome.next (execImm_eq (· &&& ·) andW_eq _ hfit hreads)
  · exact congrArg Host.Outcome.next (execImm_eq (· ||| ·) orW_eq _ hfit hreads)
  · exact congrArg Host.Outcome.next (execImm_eq (· ^^^ ·) xorW_eq _ hfit hreads)
  · exact congrArg Host.Outcome.next (laneOp_results (ss := []) (runs := []) (k := 1) (fun _ => [i.signExtend 32]) rfl hfit
      (fun _ _ _ h => nomatch h) (by simp) (fun _ => rfl) (fun _ => rfl))
  · exact congrArg Host.Outcome.next (laneOp_one (fun x => x.extractLsb' 16 16 ++ i) (fun x => congrArg ([·]) (halfW_eq false x i)) 3 hfit hreads)
  · exact congrArg Host.Outcome.next (laneOp_one (fun x => i ++ x.extractLsb' 0 16) (fun x => congrArg ([·]) (halfW_eq true x i)) 3 hfit hreads)

/-! ### Shifts and counts -/

/-- R276: a count of one source word. -/
theorem execDup_one {s : State} {d a : BitVec 6} {p : BitVec 3} (f : BitVec 32 → BitVec 32)
    (hfit : s.FitV p (names2 d.toNat a.toNat 1)) (hreads : s.ReadsV p [(a.toNat, 1)]) :
    execDup d p [⟨a.toNat, 1⟩] (fun ws => f (dat ws 0)) s =
      (s.putV p d.toNat (fun l => arithOf 1 (s.vRun a.toNat 1 l) [f (s.v a.toNat l).data])).advance :=
  execDup_reads (g := fun xs => f (xs.getD 0 0)) hfit hreads (fun xs => by rw [dat_map_ofData])

/-- Settles O5: shifts by the low five bits of their count, counts of one word. -/
theorem laneShiftsAndCounts : Obligations.LaneShiftsAndCounts := by
  unfold Obligations.LaneShiftsAndCounts
  intro s d a b p
  refine ⟨fun hfit hreads => ⟨?_, ?_, ?_, ?_, fun hold => ?_⟩, fun hfit hreads => ⟨fun k => ⟨?_, ?_⟩, ?_, ?_, ?_⟩⟩
  · exact congrArg Host.Outcome.next (execLogic_eq (fun x y => x <<< (y.toNat % 32)) byCount_shlW hfit hreads)
  · exact congrArg Host.Outcome.next (execLogic_eq (fun x y => x >>> (y.toNat % 32)) byCount_shrW hfit hreads)
  · exact congrArg Host.Outcome.next (execLogic_eq (fun x y => x.sshiftRight (y.toNat % 32)) byCount_sarW hfit hreads)
  · exact congrArg Host.Outcome.next (execLogic_eq (fun x y => x.rotateLeft (y.toNat % 32)) byCount_rotW hfit hreads)
  · have hnames : s.FitV p ⟨[(d.toNat, 1), (a.toNat, 1), (b.toNat, 1), (d.toNat, 1)], []⟩ :=
      hfit.of_subset (by simp [names3]) (List.nil_subset _)
    refine congrArg Host.Outcome.next ((execDup_three (fun old x y => shfW x old (y.toNat % 32)) hnames (hreads.append hold)).trans ?_)
    simp only [shfW_eq _ _ (count_lt _)]
  · refine congrArg Host.Outcome.next ((execImm_eq (fun x y => x <<< (y.toNat % 32)) byCount_shlW (k.zeroExtend 32) hfit hreads).trans ?_)
    simp only [shiftImm_toNat]
  · refine congrArg Host.Outcome.next ((execImm_eq (fun x y => x >>> (y.toNat % 32)) byCount_shrW (k.zeroExtend 32) hfit hreads).trans ?_)
    simp only [shiftImm_toNat]
  · refine congrArg Host.Outcome.next ((execDup_one clzW hfit hreads).trans ?_)
    simp only [clzW_eq]
  · exact congrArg Host.Outcome.next (execDup_one popcW hfit hreads)
  · exact congrArg Host.Outcome.next (execDup_one brevW hfit hreads)

end Sys2Proof.Machine
end

section
/-! Choices of the lanes: selection by a predicate, minimum and maximum (R221, R230, R275, R282). -/

namespace Sys2Proof.Machine

open Sys2Proof.Laws

/-! ### The chosen words -/

/-- R275: the value by which a word or a pair is compared. -/
def chosenBy (sgn : Bool) {w : Nat} (x : BitVec w) : Int := if sgn then x.toInt else x.toNat

theorem valueOf_eq (wide sgn : Bool) (lo hi : BitVec 32) : valueOf wide sgn lo hi = if wide then chosenBy sgn (hi ++ lo) else chosenBy sgn lo := rfl

theorem picksA_eq (isMax sgn : Bool) {w : Nat} (x y : BitVec w) : picksA isMax sgn x y =
    decide (if isMax then chosenBy sgn y ≤ chosenBy sgn x else chosenBy sgn x ≤ chosenBy sgn y) := by
  cases isMax <;> cases sgn <;> simp [picksA, chosenBy, BitVec.sle, BitVec.ule]

/-- R275: a poisoned operand is not chosen, and values decide between clean ones. -/
theorem minmaxWords_eq (isMax sgn wide : Bool) (xs ys : List Word) : minmaxWords isMax sgn wide xs ys =
    chosenOf isMax xs ys (valueOf wide sgn (dat xs 0) (dat xs 1)) (valueOf wide sgn (dat ys 0) (dat ys 1)) := by
  have hpoison : xs.map (fun _ => Word.poison) = List.replicate xs.length Word.poison := List.map_const' ..
  cases wide <;> simp only [minmaxWords, chosenOf, valueOf_eq, picksA_eq, dat64, hpoison, decide_eq_true_eq, Bool.false_eq_true, if_true, if_false]

/-! ### The instructions -/

section
variable {s : State} {p : BitVec 3} {l a b k : Nat}

theorem vRun_length (s : State) (n k l : Nat) : (s.vRun n k l).length = k := by simp [State.vRun]

/-- Two runs that pass are read as their words, one after the other. -/
theorem srcWords_two_runs (hreads : s.ReadsV p [(a, k), (b, k)]) (hl : s.active p l) (i j : Nat) :
    s.srcWords l (srcs a k i ++ srcs b k j) = .ok (s.vRun a k l ++ s.vRun b k l) := by
  rw [srcWords_ok s l _ (reads_srcs s p _ _ hreads (fun _ => mem_two_srcs) l hl), map_two_srcs]

/-- R230: a lane instruction that carries words whole. -/
theorem laneOp_carry {ns : Names} {d : Nat} {f : State → Nat → LaneRes} (ws : Nat → List Word) (hfit : s.FitV p ns)
    (hlane : ∀ l, s.active p l → f s l = .ok (carry d (ws l))) : s.laneOp p true ns f = (s.putV p d ws).advance :=
  (laneOp_ok s p true ns f _ rfl hfit hlane).trans (congrArg State.advance (putV_commit s p d ws))

end

/-- R282: a lane whose operands pass and whose predicate is healthy. -/
theorem selLane_reads {s : State} {p : BitVec 3} {l a b n : Nat} {c : Bool} (w : BitVec 1) (d : Nat)
    (hreads : s.ReadsV p [(a, widthOf w), (b, widthOf w)]) (hl : s.active p l) (hc : s.p n l = some c) :
    selLane (w = 1) n d a b s l = .ok (carry d (copyOf (if c then s.vRun a (widthOf w) l else s.vRun b (widthOf w) l))) := by
  have hk : (if decide (w = 1) then 2 else 1) = widthOf w := by match w with | 0 => rfl | 1 => rfl
  simp only [selLane, hk, srcWords_two_runs hreads hl, hc, wholeValue_eq_copyOf, List.take_left' (vRun_length s a _ l),
    List.drop_left' (vRun_length s a _ l)]

theorem dat_vRun {i k : Nat} (h : i < k) (s : State) (n l : Nat) : dat (s.vRun n k l) i = (s.v (n + i) l).data := by
  simp [dat, nth, State.vRun, h]

theorem valueOf_vRun (s : State) (w : BitVec 1) (sgn : Bool) (n l : Nat) :
    valueOf (w = 1) sgn (dat (s.vRun n (widthOf w) l) 0) (dat (s.vRun n (widthOf w) l) 1) =
      valueOf (w = 1) sgn (s.v n l).data (s.v (n + 1) l).data := by
  match w with
  | 0 => simp [valueOf, widthOf, dat_vRun]
  | 1 => simp [widthOf, dat_vRun]

/-- R275: a lane whose operands pass. -/
theorem minmaxLane_reads {s : State} {p : BitVec 3} {l a b : Nat} (isMax sgn : Bool) (w : BitVec 1) (d : Nat)
    (hreads : s.ReadsV p [(a, widthOf w), (b, widthOf w)]) (hl : s.active p l) :
    minmaxLane isMax sgn (w = 1) d a b s l = .ok (carry d (chosenOf isMax (s.vRun a (widthOf w) l) (s.vRun b (widthOf w) l)
      (valueOf (w = 1) sgn (s.v a l).data (s.v (a + 1) l).data) (valueOf (w = 1) sgn (s.v b l).data (s.v (b + 1) l).data))) := by
  have hk : (if decide (w = 1) then 2 else 1) = widthOf w := by match w with | 0 => rfl | 1 => rfl
  simp only [minmaxLane, hk, srcWords_two_runs hreads hl, List.take_left' (vRun_length s a _ l), List.drop_left' (vRun_length s a _ l),
    minmaxWords_eq, valueOf_vRun]

/-- Settles O7: each lane carries the words of the operand that is chosen. -/
theorem laneSelectMinMax : Obligations.LaneSelectMinMax := by
  unfold Obligations.LaneSelectMinMax
  intro s d a b p w hfit hreads
  have hnames : s.FitV p (names3 d.toNat a.toNat b.toNat (if w = 1 then 2 else 1)) := by
    match w with
    | 0 => exact hfit
    | 1 => exact hfit
  refine ⟨fun n c hc => ?_, fun u => ⟨?_, ?_⟩⟩
  · exact congrArg Host.Outcome.next (laneOp_carry _ hnames fun l hl => selLane_reads w d.toNat hreads hl (hc l hl))
  · exact congrArg Host.Outcome.next (laneOp_carry _ hnames fun l hl => minmaxLane_reads false (u = 0) w d.toNat hreads hl)
  · exact congrArg Host.Outcome.next (laneOp_carry _ hnames fun l hl => minmaxLane_reads true (u = 0) w d.toNat hreads hl)

end Sys2Proof.Machine
end

section
/-! Uniform arithmetic, choices and predicates (R221, R275, R279, R282–R286, R341–R343). -/

namespace Sys2Proof.Machine

open Sys2Proof.Laws

/-! ### Sources -/

theorem reads_uniform_srcs {s : State} {runs : List (Nat × Nat)} {ss : List Src} (hreads : s.ReadsS runs)
    (hss : ∀ x ∈ ss, ∃ r ∈ runs, ∃ i < r.2, x.n = r.1 + i) : ∀ x ∈ ss, (s.s x.n).checks = true := fun x hx => by
  obtain ⟨r, hr, i, hi, hn⟩ := hss x hx
  exact hn ▸ checks_of_readsS hreads hr hi

theorem map_two_uniform_srcs (s : State) (m n k i j : Nat) :
    (srcs m k i ++ srcs n k j).map (fun x => s.s x.n) = s.sRun m k ++ s.sRun n k := by
  simp [srcs, State.sRun, Function.comp_def]

theorem sRun_length (s : State) (n k : Nat) : (s.sRun n k).length = k := by simp [State.sRun]

/-- Two uniform runs that pass are read as their words, one after the other. -/
theorem sWords_two_runs {s : State} {a b k : Nat} (hreads : s.ReadsS [(a, k), (b, k)]) (i j : Nat) :
    s.sWords (srcs a k i ++ srcs b k j) = .ok (s.sRun a k ++ s.sRun b k) := by
  rw [sWords_ok s _ (reads_uniform_srcs hreads fun _ => mem_two_srcs), map_two_uniform_srcs]

/-! ### Arithmetic (R341–R343) -/

section
variable {s : State} {g : BitVec 3} {ns : Names} {F : List Word → List (BitVec 32 × BitVec 4)} {d k : Nat}

/-- R341: under a true guard an arithmetic instruction whose sources pass writes its results. -/
theorem sGuarded_results {ss : List Src} {runs : List (Nat × Nat)} (R : List (BitVec 32)) (hk : 0 < k) (hfit : s.FitS g ns)
    (hreads : s.ReadsS runs) (hss : ∀ x ∈ ss, ∃ r ∈ runs, ∃ i < r.2, x.n = r.1 + i)
    (hF : F (ss.map (fun x => Word.ofData (s.s x.n).data)) = R.map gen) :
    s.sGuarded g true ns (fun s => s.sArith ss (dests d k) F) = (s.setSs d (arithOf k (ss.map (fun x => s.s x.n)) R)).advance :=
  (sGuarded_ok s g true ns _ rfl hfit).trans (sArith_results hfit.sound (reads_uniform_srcs hreads hss) hk hF)

theorem sGuarded_one {a : Nat} (f : BitVec 32 → BitVec 32) (hF : ∀ x, F [Word.ofData x] = [gen (f x)]) (i : Nat) (hfit : s.FitS g ns)
    (hreads : s.ReadsS [(a, 1)]) : s.sGuarded g true ns (fun s => s.sArith [⟨a, i⟩] [d] F) =
      (s.setSs d (arithOf 1 (s.sRun a 1) [f (s.s a).data])).advance :=
  sGuarded_results (k := 1) [f (s.s a).data] Nat.one_pos hfit hreads (by simp) (hF _)

end

section
variable {s : State} {d a b : BitVec 6} {g : BitVec 3} {F : List Word → List (BitVec 32 × BitVec 4)}

/-- R342: a form with two source words. -/
theorem execU2_words (f : BitVec 32 → BitVec 32 → BitVec 32) (hF : ∀ x y, F [Word.ofData x, Word.ofData y] = [gen (f x y)])
    (hfit : s.FitS g (unames3 d.toNat a.toNat b.toNat 1)) (hreads : s.ReadsS [(a.toNat, 1), (b.toNat, 1)]) :
    execU2 1 d a b g F s = (s.setSs d.toNat (arithOf 1 (s.sRun a.toNat 1 ++ s.sRun b.toNat 1)
      [f (s.s a.toNat).data (s.s b.toNat).data])).advance :=
  sGuarded_results (k := 1) [f (s.s a.toNat).data (s.s b.toNat).data] Nat.one_pos hfit hreads (fun _ => mem_two_srcs) (hF _ _)

/-- R342: a form with two source pairs. -/
theorem execU2_pairs (f : BitVec 64 → BitVec 64 → BitVec 64)
    (hF : ∀ al ah bl bh, F [Word.ofData al, Word.ofData ah, Word.ofData bl, Word.ofData bh] = (halves (f (ah ++ al) (bh ++ bl))).map gen)
    (hfit : s.FitS g (unames3 d.toNat a.toNat b.toNat 2)) (hreads : s.ReadsS [(a.toNat, 2), (b.toNat, 2)]) :
    execU2 2 d a b g F s = (s.setSs d.toNat (arithOf 2 (s.sRun a.toNat 2 ++ s.sRun b.toNat 2)
      (halves (f (s.s64 a.toNat) (s.s64 b.toNat))))).advance :=
  sGuarded_results (k := 2) (halves (f (s.s64 a.toNat) (s.s64 b.toNat))) Nat.two_pos hfit hreads (fun _ => mem_two_srcs) (hF _ _ _ _)

variable {w : Word → Word → BitVec 32 × BitVec 4} (f : BitVec 32 → BitVec 32 → BitVec 32)
  (hw : ∀ x y, w (Word.ofData x) (Word.ofData y) = gen (f x y))
include hw

/-- R342: a logic form or a shift. -/
theorem execULogic_eq (hfit : s.FitS g (unames3 d.toNat a.toNat b.toNat 1)) (hreads : s.ReadsS [(a.toNat, 1), (b.toNat, 1)]) :
    execULogic w d a b g s = (s.setSs d.toNat (arithOf 1 (s.sRun a.toNat 1 ++ s.sRun b.toNat 1)
      [f (s.s a.toNat).data (s.s b.toNat).data])).advance :=
  execU2_words f (fun x y => congrArg ([·]) (hw x y)) hfit hreads

/-- R343: an immediate form. -/
theorem execUImm_eq (i : BitVec 32) (hfit : s.FitS g (unames2 d.toNat a.toNat 1)) (hreads : s.ReadsS [(a.toNat, 1)]) :
    execUImm w d a (Word.ofData i) g s = (s.setSs d.toNat (arithOf 1 (s.sRun a.toNat 1) [f (s.s a.toNat).data i])).advance :=
  sGuarded_one (f · i) (fun x => congrArg ([·]) (hw x i)) 1 hfit hreads

end

/-- Settles O14: by the words of the lane instruction of the same name. -/
theorem uniformArithmetic : Obligations.UniformArithmetic := by
  unfold Obligations.UniformArithmetic
  intro s d a b g
  refine ⟨fun t => ?_, fun hfit hreads => ⟨fun sg => ?_, ?_, ?_, ?_, ?_, ?_, ?_, ?_⟩,
    fun hfit hreads => ⟨fun i => ⟨?_, ?_, ?_, ?_⟩, fun k => ⟨?_, ?_⟩⟩, fun hfit i => ⟨?_, fun hreads => ⟨?_, ?_⟩⟩⟩
  · match t with
    | 0 => exact fun hfit hreads =>
        ⟨congrArg Host.Outcome.next (execU2_words (· + ·) (addSub32_eq false) hfit hreads),
          congrArg Host.Outcome.next (execU2_words (· - ·) (addSub32_eq true) hfit hreads),
          congrArg Host.Outcome.next (execU2_words (· * ·) (fun x y => congrArg ([·]) (mulLow_zero x y)) hfit hreads)⟩
    | 1 => exact fun hfit hreads =>
        ⟨congrArg Host.Outcome.next (execU2_pairs (· + ·) addSub64_add hfit hreads),
          congrArg Host.Outcome.next (execU2_pairs (· - ·) addSub64_sub hfit hreads),
          congrArg Host.Outcome.next (execU2_pairs (· * ·) mul64_eq hfit hreads)⟩
  · simp only [← highWord_zero]
    exact congrArg Host.Outcome.next (execU2_words (highWord sg · · 0) (fun x y => congrArg ([·]) (mulHigh_eq sg x y 0)) hfit hreads)
  · exact congrArg Host.Outcome.next (execULogic_eq (· &&& ·) andW_eq hfit hreads)
  · exact congrArg Host.Outcome.next (execULogic_eq (· ||| ·) orW_eq hfit hreads)
  · exact congrArg Host.Outcome.next (execULogic_eq (· ^^^ ·) xorW_eq hfit hreads)
  · exact congrArg Host.Outcome.next (execULogic_eq (fun x y => x &&& ~~~ y) andnW_eq hfit hreads)
  · exact congrArg Host.Outcome.next (execULogic_eq (fun x y => x <<< (y.toNat % 32)) byCount_shlW hfit hreads)
  · exact congrArg Host.Outcome.next (execULogic_eq (fun x y => x >>> (y.toNat % 32)) byCount_shrW hfit hreads)
  · exact congrArg Host.Outcome.next (execULogic_eq (fun x y => x.sshiftRight (y.toNat % 32)) byCount_sarW hfit hreads)
  · exact congrArg Host.Outcome.next (execUImm_eq (· + ·) addW_eq _ hfit hreads)
  · exact congrArg Host.Outcome.next (execUImm_eq (· &&& ·) andW_eq _ hfit hreads)
  · exact congrArg Host.Outcome.next (execUImm_eq (· ||| ·) orW_eq _ hfit hreads)
  · exact congrArg Host.Outcome.next (execUImm_eq (· ^^^ ·) xorW_eq _ hfit hreads)
  · refine congrArg Host.Outcome.next ((execUImm_eq (fun x y => x <<< (y.toNat % 32)) byCount_shlW (k.zeroExtend 32) hfit hreads).trans ?_)
    simp only [shiftImm_toNat]
  · refine congrArg Host.Outcome.next ((execUImm_eq (fun x y => x >>> (y.toNat % 32)) byCount_shrW (k.zeroExtend 32) hfit hreads).trans ?_)
    simp only [shiftImm_toNat]
  · exact congrArg Host.Outcome.next (sGuarded_results (ss := []) (runs := []) (k := 1) [i.signExtend 32] Nat.one_pos hfit
      (fun _ h => nomatch h) (by simp) rfl)
  · exact congrArg Host.Outcome.next (sGuarded_one (fun x => x.extractLsb' 16 16 ++ i) (fun x => congrArg ([·]) (halfW_eq false x i)) 3 hfit hreads)
  · exact congrArg Host.Outcome.next (sGuarded_one (fun x => i ++ x.extractLsb' 0 16) (fun x => congrArg ([·]) (halfW_eq true x i)) 3 hfit hreads)

/-! ### Choices and predicates -/

section
variable {s : State} {d a b : BitVec 6} {g : BitVec 3}

/-- R279, R343: `mov` of one or two words. -/
theorem exec_sMov_copies (w : BitVec 1) (hfit : s.FitS g (unames2 d.toNat a.toNat (w.toNat + 1))) (hreads : s.ReadsS [(a.toNat, w.toNat + 1)]) :
    exec (.sMov d a w g) s = .next (s.setSs d.toNat (copyOf (s.sRun a.toNat (w.toNat + 1)))).advance := by
  refine congrArg Host.Outcome.next ((sGuarded_ok s g true _ _ rfl hfit).trans ?_)
  rw [State.sCarry, sWords_run hreads List.mem_cons_self]
  exact (sResult_ok _ _ _ hfit.sound).trans (by rw [wholeValue_eq_copyOf])

/-- R282: `sel` by a healthy uniform predicate. -/
theorem exec_sSel_chooses (w : BitVec 1) {n : BitVec 3} {c : Bool} (hn : n ≠ 7) (hc : s.q n.toNat = some c)
    (hfit : s.FitS g (unames3 d.toNat a.toNat b.toNat (w.toNat + 1)))
    (hreads : s.ReadsS [(a.toNat, w.toNat + 1), (b.toNat, w.toNat + 1)]) : exec (.sSel d a b w n g) s =
      .next (s.setSs d.toNat (copyOf (if c then s.sRun a.toNat (w.toNat + 1) else s.sRun b.toNat (w.toNat + 1)))).advance := by
  refine congrArg Host.Outcome.next ((sGuarded_ok s g _ _ _ (destination_legal hn) hfit).trans ?_)
  simp only [sWords_two_runs hreads, hc, List.take_left' (sRun_length s a.toNat _), List.drop_left' (sRun_length s a.toNat _),
    wholeValue_eq_copyOf, sResult_ok _ _ _ hfit.sound]

theorem dat_sRun {i k : Nat} (h : i < k) (s : State) (n : Nat) : dat (s.sRun n k) i = (s.s (n + i)).data :=
  congrArg Word.data (nth_sRun h)

theorem valueOf_sRun (s : State) (w : BitVec 1) (sgn : Bool) (n : Nat) :
    valueOf (w = 1) sgn (dat (s.sRun n (w.toNat + 1)) 0) (dat (s.sRun n (w.toNat + 1)) 1) =
      valueOf (w = 1) sgn (s.s n).data (s.s (n + 1)).data := by
  match w with
  | 0 => simp [valueOf, dat_sRun]
  | 1 => simp [dat_sRun]

/-- R275: `min` and `max`. -/
theorem execUMinMax_chooses (isMax : Bool) (w u : BitVec 1) (hfit : s.FitS g (unames3 d.toNat a.toNat b.toNat (w.toNat + 1)))
    (hreads : s.ReadsS [(a.toNat, w.toNat + 1), (b.toNat, w.toNat + 1)]) : execUMinMax isMax d a b w u g s =
      (s.setSs d.toNat (chosenOf isMax (s.sRun a.toNat (w.toNat + 1)) (s.sRun b.toNat (w.toNat + 1))
        (valueOf (w = 1) (u = 0) (s.s a.toNat).data (s.s (a.toNat + 1)).data)
        (valueOf (w = 1) (u = 0) (s.s b.toNat).data (s.s (b.toNat + 1)).data))).advance := by
  rw [execUMinMax, sGuarded_ok s g true _ _ rfl hfit, State.sCarry, sWords_two_runs hreads]
  simp only [List.take_left' (sRun_length s a.toNat _), List.drop_left' (sRun_length s a.toNat _), minmaxWords_eq, valueOf_sRun,
    sResult_ok _ _ _ hfit.sound]

theorem sCompare_clean {ss : List Src} {runs : List (Nat × Nat)} (hsound : s.glitch = 0) (hreads : s.ReadsS runs) (hclean : s.CleanS runs)
    (hss : ∀ x ∈ ss, ∃ r ∈ runs, ∃ i < r.2, x.n = r.1 + i) (q : Nat) (f : List Word → Bool) :
    s.sCompare ss q f = (s.setQ q (f (ss.map (fun x => s.s x.n)))).advance := by
  have hpoison : ss.any (fun x => (s.s x.n).isPoison) = false := List.any_eq_false.2 fun x hx => by
    obtain ⟨r, hr, i, hi, hn⟩ := hss x hx
    rw [hn, clean_of_cleanS hclean hr hi]
    decide
  rw [State.sCompare, hpoison, sWords_ok s ss (reads_uniform_srcs hreads hss)]
  simp [State.sTwice, hsound]

/-- R283, R284: `cmp` of one or two words. -/
theorem exec_sCmp {q : BitVec 3} (c : BitVec 3) (w : BitVec 1) (hq : q ≠ 7)
    (hfit : s.FitS g ⟨[], [(a.toNat, w.toNat + 1), (b.toNat, w.toNat + 1)]⟩)
    (hreads : s.ReadsS [(a.toNat, w.toNat + 1), (b.toNat, w.toNat + 1)])
    (hclean : s.CleanS [(a.toNat, w.toNat + 1), (b.toNat, w.toNat + 1)]) : exec (.sCmp q a b w c g) s = .next (s.setQ q.toNat
      (condHolds c (w = 1) (s.s a.toNat).data (s.s (a.toNat + 1)).data (s.s b.toNat).data (s.s (b.toNat + 1)).data)).advance := by
  rw [condHolds_eq]
  refine congrArg Host.Outcome.next ((sGuarded_ok s g _ _ _ (destination_legal hq) hfit).trans ?_)
  match w with
  | 0 => exact sCompare_clean hfit.sound hreads hclean (fun _ => mem_two_srcs) q.toNat (fun ws => condOf c.toNat (dat ws 0) (dat ws 1))
  | 1 => exact sCompare_clean hfit.sound hreads hclean (fun _ => mem_two_srcs) q.toNat (fun ws => condOf c.toNat (dat64 ws 0) (dat64 ws 2))

end

/-- Settles O15: copies and choices are of words read, conditions are those of R283. -/
theorem uniformChoiceAndPredicates : Obligations.UniformChoiceAndPredicates := by
  unfold Obligations.UniformChoiceAndPredicates
  intro s d a b g
  refine ⟨fun w => ⟨exec_sMov_copies w,
      fun hfit hreads => ⟨fun n c hn hc => exec_sSel_chooses w hn hc hfit hreads, fun u => ⟨?_, ?_⟩⟩, ?_,
      fun q c hq hfit hreads hclean => exec_sCmp c w hq hfit hreads hclean⟩, fun q c i hq hfit hreads hclean => ?_,
    fun q x y t u v hq hfit hx hy => ?_⟩
  · exact congrArg Host.Outcome.next (execUMinMax_chooses false w u hfit hreads)
  · exact congrArg Host.Outcome.next (execUMinMax_chooses true w u hfit hreads)
  · exact congrArg Host.Outcome.next (sGuarded_illegal_field g _ rfl)
  · rw [condHolds_eq]
    refine congrArg Host.Outcome.next ((sGuarded_ok s g _ _ _ (destination_legal hq) hfit).trans ?_)
    exact sCompare_clean (ss := srcs a.toNat 1 1) hfit.sound hreads hclean (fun _ hx => ⟨_, List.mem_cons_self, mem_srcs hx⟩) _ _
  · refine congrArg Host.Outcome.next ((sGuarded_ok s g _ _ _ (destination_legal hq) hfit).trans ?_)
    have hindex : 2 * u.toNat + v.toNat = 2 * (if u then 1 else 0) + (if v then 1 else 0) := by cases u <;> cases v <;> rfl
    simp only [hx, hy, hindex]

end Sys2Proof.Machine
end

section
/-! Exchanges, polls and folds over the active lanes, and the residue instructions (R224, R247, R287–R290, R340). -/

namespace Sys2Proof.Machine

open Sys2Proof.Laws

/-! ### Instructions that commit for every active lane or for none (R287) -/

section
variable {s : State} {p : BitVec 3} {legal : Bool} {ns : Names} {f : State → List Nat → Except LaneFail (List (Nat × LaneOut))}

/-- R287: with healthy guards and results every active lane commits. -/
theorem allOrNone_commits (out : Nat → LaneOut) (hlegal : legal = true) (hfit : s.FitV p ns)
    (hf : f s (lanesOf (s.act p.toNat).lanes) = .ok ((lanesOf (s.act p.toNat).lanes).map (fun l => (l, out l)))) :
    s.allOrNone p legal ns f = ((lanesOf (s.act p.toNat).lanes).foldl (fun t l => t.commitLane l (out l)) s).advance := by
  have hnone : ((lanesOf (s.act p.toNat).lanes).map (fun l => (l, out l))).any (fun o => bit s.glitch o.1 && o.2.checked) = false :=
    List.any_eq_false.2 fun o _ => by simp only [hfit.sound, bit_zero, Bool.false_and, Bool.false_eq_true, not_false_eq_true]
  rw [State.allOrNone, vGuarded_fit _ _ hfit hlegal]
  simp only [hfit.guarded, ne_eq, not_true_eq_false, if_false, glitch_cleared hfit.sound, hf, hnone, Bool.false_eq_true, List.foldl_map]

theorem allOrNone_carry {d : Nat} (ws : Nat → List Word) (hlegal : legal = true) (hfit : s.FitV p ns)
    (hf : f s (lanesOf (s.act p.toNat).lanes) = .ok ((lanesOf (s.act p.toNat).lanes).map (fun l => (l, carry d (ws l))))) :
    s.allOrNone p legal ns f = (s.putV p d ws).advance :=
  (allOrNone_commits _ hlegal hfit hf).trans (congrArg State.advance (putV_commit s p d ws))

theorem allOrNone_pred {d : Nat} (b : Bool) (hlegal : legal = true) (hfit : s.FitV p ns)
    (hf : f s (lanesOf (s.act p.toNat).lanes) = .ok ((lanesOf (s.act p.toNat).lanes).map (fun l => (l, ⟨[], [(d, b)]⟩)))) :
    s.allOrNone p legal ns f = (s.putP p d (fun _ => b)).advance :=
  allOrNone_commits (fun _ => ⟨[], [(d, b)]⟩) hlegal hfit hf

end

/-! ### Exchange (R288) -/

/-- R288: the slot that a lane reads. -/
def exchangeSlot (m : BitVec 2) (l k : Nat) : Option Nat :=
  if m = 0 then some k else if m = 1 then (if l < k then none else some (l - k)) else if m = 2 then some ((l + k) % 32) else some (l ^^^ k)

theorem lxchSlot_eq (m : BitVec 2) (l k : Nat) : lxchSlot m.toNat l k = exchangeSlot m l k := by
  match m with
  | 0 => rfl
  | 1 => rfl
  | 2 => rfl
  | 3 => rfl

/-- R288: the words that `lxch` writes to a lane: none where the slot is inactive or does not exist. -/
def State.exchanged (s : State) (p : BitVec 3) (m : BitVec 2) (a b l : Nat) : List Word :=
  if (s.v b l).isPoison then [Word.poison]
  else match exchangeSlot m l ((s.v b l).data.toNat % 32) with
    | none => []
    | some t => if (lanesOf (s.act p.toNat).lanes).contains t then [s.v a t] else []

section
variable {s : State} {p : BitVec 3}

theorem active_checks {n : Nat} {runs : List (Nat × Nat)} (hreads : s.ReadsV p runs) (hrun : (n, 1) ∈ runs) {l : Nat} (hl : s.active p l) :
    (s.v n l).checks = true := hreads l hl _ hrun _ List.mem_cons_self

theorem lxchOuts_reads {a b : Nat} (m : BitVec 2) (d : Nat) (hreads : s.ReadsV p [(a, 1), (b, 1)]) :
    lxchOuts m.toNat d a b s (lanesOf (s.act p.toNat).lanes) =
      .ok ((lanesOf (s.act p.toNat).lanes).map (fun l => (l, carry d (s.exchanged p m a b l)))) := by
  have hchecks : (lanesOf (s.act p.toNat).lanes).any (fun l => !(s.v a l).checks || !(s.v b l).checks) = false :=
    List.any_eq_false.2 fun l hl => by
      simp [active_checks hreads (List.mem_cons_self) hl, active_checks hreads (List.mem_cons_of_mem _ List.mem_cons_self) hl]
  rw [lxchOuts, hchecks]
  refine congrArg Except.ok (List.map_congr_left fun l _ => ?_)
  rw [lxchSlot_eq, State.exchanged]
  split_ifs
  · rfl
  · cases exchangeSlot m l ((s.v b l).data.toNat % 32) with
    | none => rfl
    | some t =>
      dsimp only
      split_ifs <;> rfl

/-! ### Polls and folds (R289, R290) -/

/-- R289: what a poll with true lanes `t` among n active ones writes to each of these. -/
def pollResult (mode d : Nat) (t : List Nat) (n : Nat) : LaneOut :=
  match mode with
  | 0 => carry d [Word.ofData (maskOf t)]
  | 1 => carry d [Word.ofData (BitVec.ofNat 32 t.length)]
  | 2 => ⟨[], [(d, t.length == n)]⟩
  | 3 => ⟨[], [(d, t.length != 0)]⟩
  | _ => ⟨[], [(d, t.length == n || t.length == 0)]⟩

section
variable {x : Nat} {c : Nat → Bool} (hc : ∀ l, s.active p l → s.p x l = some (c l))
include hc

theorem pollOuts_healthy (mode d : Nat) : pollOuts mode d x s (lanesOf (s.act p.toNat).lanes) =
    .ok ((lanesOf (s.act p.toNat).lanes).map (fun l =>
      (l, pollResult mode d ((lanesOf (s.act p.toNat).lanes).filter c) (lanesOf (s.act p.toNat).lanes).length))) := by
  have hhealthy : (lanesOf (s.act p.toNat).lanes).any (fun l => s.p x l == none) = false :=
    List.any_eq_false.2 fun l hl => by simp [hc l hl]
  have htrue : (lanesOf (s.act p.toNat).lanes).filter (fun l => s.p x l == some true) = (lanesOf (s.act p.toNat).lanes).filter c :=
    List.filter_congr fun l hl => by simp [hc l hl]
  simp only [pollOuts, hhealthy, htrue, Bool.false_eq_true, if_false]
  rfl

end

theorem lfoldOuts_reads {a : Nat} (fn d : Nat) (hreads : s.ReadsV p [(a, 1)]) : lfoldOuts fn d a s (lanesOf (s.act p.toNat).lanes) =
    .ok ((lanesOf (s.act p.toNat).lanes).map (fun l => (l, carry d [(foldTree (foldStep fn s.g.fmt) 5 ((List.range 32).map (fun l =>
      if (lanesOf (s.act p.toNat).lanes).contains l then some (s.v a l) else none))).getD Word.zero]))) := by
  have hchecks : (lanesOf (s.act p.toNat).lanes).any (fun l => !(s.v a l).checks) = false :=
    List.any_eq_false.2 fun l hl => by simp [active_checks hreads List.mem_cons_self hl]
  rw [lfoldOuts, hchecks]
  rfl

end

/-- Settles O9: what an exchange, a poll or a fold writes to each active lane. -/
theorem laneExchange : Obligations.LaneExchange := by
  unfold Obligations.LaneExchange
  intro s d a b p
  refine ⟨fun hfit hreads m => ?_, fun x m c hc => ⟨fun hm hfit => ?_, fun hlow hhigh hd hfit => ?_⟩, fun hfit hreads f hf => ?_⟩
  · exact congrArg Host.Outcome.next (allOrNone_carry (s.exchanged p m a.toNat b.toNat) rfl hfit (lxchOuts_reads m d.toNat hreads))
  · have hpoll := fun mode => pollOuts_healthy hc mode d.toNat
    match m with
    | 0 => exact congrArg Host.Outcome.next (allOrNone_carry _ rfl hfit (hpoll 0))
    | 1 => exact congrArg Host.Outcome.next (allOrNone_carry _ rfl hfit (hpoll 1))
  · have hpoll := fun mode => pollOuts_healthy hc mode d.toNat
    match m with
    | 2 => exact congrArg Host.Outcome.next (allOrNone_pred _ (by simpa using hd) hfit (hpoll 2))
    | 3 => exact congrArg Host.Outcome.next (allOrNone_pred _ (by simpa using hd) hfit (hpoll 3))
    | 4 => exact congrArg Host.Outcome.next (allOrNone_pred _ (by simpa using hd) hfit (hpoll 4))
  · exact congrArg Host.Outcome.next (allOrNone_carry _ (decide_eq_true hf) hfit (lfoldOuts_reads f.toNat d.toNat hreads))

/-! ### Residue instructions (R340) -/

theorem map_range_writes (d k : Nat) (f : Nat → Word) :
    (⟨(List.range k).map (fun i => (d + i, f i)), []⟩ : LaneOut) = carry d ((List.range k).map f) := by
  have hws : ((List.range k).map f).length = k := by simp
  rw [carry, ← zip_dests d k _ hws, dests, List.zip_map']

/-- The counter of free values has no part in the checks at issue. -/
theorem State.FitV.withFreeNo {s : State} {p : BitVec 3} {ns : Names} (h : s.FitV p ns) {n : Nat} : ({ s with freeNo := n } : State).FitV p ns :=
  ⟨h.core, h.named, h.ready, h.guarded, h.sound⟩

/-- Settles O13: a check changes nothing, poison and fresh residues are written to every active lane. -/
theorem laneResidueInstructions : Obligations.LaneResidueInstructions := by
  unfold Obligations.LaneResidueInstructions
  intro s d a p
  refine ⟨fun n hfit hreads => ?_, fun w hfit => ?_, fun w hmode hfit hclean => ?_⟩
  · have hlane : ∀ l, s.active p l → (match s.srcWords l (srcs a.toNat (n.toNat + 1) 1) with
        | .error e => .error e
        | .ok _ => .ok ⟨[], []⟩ : LaneRes) = .ok ⟨[], []⟩ := fun l hl => by rw [srcWords_run hreads hl List.mem_cons_self]
    refine congrArg Host.Outcome.next ((laneOp_ok s p true _ _ _ rfl hfit hlane).trans ?_)
    exact congrArg State.advance (List.foldl_fixed _)
  · refine congrArg Host.Outcome.next (laneOp_carry _ hfit fun l _ => ?_)
    rw [map_range_writes, List.map_const', List.length_range]
  · have hhere : (!s.onKiln && s.namesOk ⟨[(d.toNat, w.toNat + 1), (a.toNat, w.toNat + 1)], []⟩ && decide (s.mode = 0)) = false := by
      simp [hmode]
    refine congrArg Host.Outcome.next ((if_neg (by rw [hhere]; decide)).trans (laneOp_carry _ hfit.withFreeNo fun l hl => ?_))
    rw [map_range_writes, State.dataV, State.vRun, List.map_map, List.map_map]
    refine congrArg (fun ws => Except.ok (carry d.toNat ws)) (List.map_congr_left fun i hi => congrArg Word.ofData (if_neg ?_))
    have hword : s.v (a.toNat + i) l ∈ s.vRun a.toNat (w.toNat + 1) l := List.mem_map.2 ⟨i, hi, rfl⟩
    exact Bool.eq_false_iff.1 (hclean l hl _ List.mem_cons_self _ hword)

end Sys2Proof.Machine
end

section
/-! Floating-point arithmetic of the lanes (R234, R235, R269, R291, R293, R295, R296, R298, R299). -/

namespace Sys2Proof.Machine

open Sys2Proof.Laws

/-! ### Operations on the data of their sources, with residues generated from their results (R231, R269) -/

/-- R231: each word of these results has the residue generated from it. -/
def Generated (rs : List (BitVec 32 × BitVec 4)) : Prop := ∀ q ∈ rs, q.2 = resOf q.1

theorem Generated.eq_map_gen {rs : List (BitVec 32 × BitVec 4)} (h : Generated rs) : rs = (rs.map (·.1)).map gen := by
  rw [List.map_map]
  exact (List.map_id rs).symm.trans (List.map_congr_left fun q hq => Prod.ext rfl (h q hq))

theorem generated_map_gen (xs : List (BitVec 32)) : Generated (xs.map gen) := fun q hq => by
  obtain ⟨x, -, rfl⟩ := List.mem_map.1 hq
  rfl

theorem generated_genN (x : Nat) : Generated (genN x) := generated_map_gen [_]

theorem generated_gen64N (x : Nat) : Generated (gen64N x) := generated_map_gen [_, _]

theorem dat_map_data (ws : List Word) (i : Nat) : dat (ws.map (fun w => Word.ofData w.data)) i = dat ws i := by
  simp only [dat, nth, List.getD_eq_getElem?_getD, List.getElem?_map]
  cases ws[i]? <;> rfl

theorem dat64_map_data (ws : List Word) (i : Nat) : dat64 (ws.map (fun w => Word.ofData w.data)) i = dat64 ws i := by
  simp only [dat64, dat_map_data]

/-- R231, R269: k results that depend on the data of the sources alone, with residues generated from them. -/
structure OnData (k : Nat) (F : List Word → List (BitVec 32 × BitVec 4)) : Prop where
  length    : ∀ ws, (F ws).length = k
  data      : ∀ ws : List Word, F (ws.map (fun w => Word.ofData w.data)) = F ws
  generated : ∀ ws, Generated (F ws)

/-- R269: such an operation writes its results in every active lane. -/
theorem laneOp_onData {s : State} {p : BitVec 3} {legal : Bool} {ns : Names} {G : State → List Word → List (BitVec 32 × BitVec 4)}
    {d k : Nat} {ss : List Src} {runs : List (Nat × Nat)} (hlegal : legal = true) (hfit : s.FitV p ns)
    (hreads : s.ReadsV p runs) (hss : ∀ x ∈ ss, ∃ r ∈ runs, ∃ i < r.2, x.n = r.1 + i) (hG : OnData k (G s)) :
    s.laneOp p legal ns (fun s => s.laneArith ss (dests d k) (G s)) =
      (s.putV p d (fun l => arithOf k (ss.map (fun x => s.v x.n l)) ((G s (ss.map (fun x => s.v x.n l))).map (·.1)))).advance :=
  laneOp_results _ hlegal hfit hreads hss (fun l => by rw [List.length_map, hG.length]) fun l => by
    have hdata : ss.map (fun x => Word.ofData (s.v x.n l).data) = (ss.map (fun x => s.v x.n l)).map (fun w => Word.ofData w.data) := by
      rw [List.map_map]
      rfl
    rw [hdata, hG.data]
    exact (hG.generated _).eq_map_gen

theorem map_srcs (s : State) (n k i l : Nat) : (srcs n k i).map (fun x => s.v x.n l) = s.vRun n k l := by
  simp [srcs, State.vRun, Function.comp_def]

/-! ### Operations by type -/

section
variable (t : BitVec 2) (fmt : BitVec 32)

theorem byType_onData (f : FpFmt → Bool → Bool → Nat → Nat → Nat) : OnData (widthOf t) (byType t.toNat fmt f) := by
  refine ⟨fun ws => ?_, fun ws => ?_, fun ws => ?_⟩
  · match t with
    | 0 => rfl
    | 1 => rfl
    | 2 => rfl
    | 3 => rfl
  · simp only [byType, dat_map_data, dat64_map_data]
  · match t with
    | 0 => exact generated_genN _
    | 1 => exact generated_gen64N _
    | 2 => exact generated_genN _
    | 3 => exact generated_genN _

theorem fmaWords_onData (m : Nat) : OnData (widthOf t) (fmaWords t.toNat fmt m) := by
  refine ⟨fun ws => ?_, fun ws => ?_, fun ws => ?_⟩
  · match t with
    | 0 => rfl
    | 1 => rfl
    | 2 => rfl
    | 3 => rfl
  · simp only [fmaWords, dat_map_data, dat64_map_data]
  · match t with
    | 0 => exact generated_genN _
    | 1 => exact generated_gen64N _
    | 2 => exact generated_genN _
    | 3 => exact generated_genN _

end

theorem modeOf_rz (fmt : BitVec 32) (r : BitVec 1) : modeOf fmt (r = 1) = if r = 1 then 1 else fmtRnd fmt := by
  simp only [modeOf, decide_eq_true_eq]

section
variable {s : State} {d a b : BitVec 6} {t : BitVec 2} {p : BitVec 3}

/-- R292: an operation by type on two sources. -/
theorem laneOp_byType {legal : Bool} (f : State → FpFmt → Bool → Bool → Nat → Nat → Nat) (hlegal : legal = true)
    (hfit : s.FitV p (names3 d.toNat a.toNat b.toNat (widthOf t))) (hreads : s.ReadsV p [(a.toNat, widthOf t), (b.toNat, widthOf t)]) :
    s.laneOp p legal (names3 d.toNat a.toNat b.toNat (widthOf t)) (fun s => s.laneArith
        (srcs a.toNat (widthOf t) 1 ++ srcs b.toNat (widthOf t) 2) (dests d.toNat (widthOf t)) (byType t.toNat s.g.fmt (f s))) =
      (s.putV p d.toNat (fun l => arithOf (widthOf t) (s.vRun a.toNat (widthOf t) l ++ s.vRun b.toNat (widthOf t) l)
        ((byType t.toNat s.g.fmt (f s) (s.vRun a.toNat (widthOf t) l ++ s.vRun b.toNat (widthOf t) l)).map (·.1)))).advance := by
  rw [laneOp_onData (ss := srcs a.toNat (widthOf t) 1 ++ srcs b.toNat (widthOf t) 2) (k := widthOf t)
    (G := fun s => byType t.toNat s.g.fmt (f s)) hlegal hfit hreads (fun _ => mem_two_srcs) (byType_onData t s.g.fmt (f s))]
  simp only [map_two_srcs]

end

/-! ### Sign bits (R296) -/

/-- R296: a word with the sign at bit 31, and with that at bit 15 of a packed word, replaced by `f` of it. -/
def signed32 (both : Bool) (f : Bool → Bool) (x : BitVec 32) : BitVec 32 :=
  BitVec.ofFnLE (fun i : Fin 32 => if i.val = 31 || (i.val = 15 && both) then f (x.getLsbD i.val) else x.getLsbD i.val)

/-- A bit that is inverted where `c` says. -/
def flipAt (i : Nat) (c : Bool) (x : BitVec 32) : BitVec 32 := x ^^^ (if c then BitVec.twoPow 32 i else 0)

theorem getLsbD_flipAt {i j : Nat} (hj : j < 32) (c : Bool) (x : BitVec 32) :
    (flipAt i c x).getLsbD j = (x.getLsbD j ^^ (c && decide (i = j))) := by
  cases c
  · simp [flipAt]
  · simp [flipAt, hj, eq_comm]

/-- R296: inverting a bit adds its weight where it was clear and takes it where it was set. -/
theorem toNat_flipAt {i : Nat} (hi : i < 32) (c : Bool) (x : BitVec 32) : ((flipAt i c x).toNat : Int) =
    x.toNat + 2 ^ i * ((if c && !x.getLsbD i then 1 else 0) - (if c && x.getLsbD i then 1 else 0)) := by
  cases c
  · simp [flipAt]
  · have hsum := xor_add_and x (BitVec.twoPow 32 i)
    rw [BitVec.and_twoPow] at hsum
    have hpow : ((2 ^ i : Nat) : Int) = 2 ^ i := by norm_cast
    rw [flipAt, if_pos rfl]
    cases hx : x.getLsbD i
    · simp only [hx, Bool.false_eq_true, if_false, BitVec.toNat_ofNat, BitVec.toNat_twoPow_of_lt hi] at hsum
      simp only [Bool.not_false, Bool.and_self, Bool.and_false, Bool.false_eq_true, if_true, if_false]
      omega
    · simp only [hx, if_true, BitVec.toNat_twoPow_of_lt hi] at hsum
      simp only [Bool.not_true, Bool.and_self, Bool.and_false, Bool.false_eq_true, if_true, if_false]
      omega

section
variable (both : Bool) (f : Bool → Bool) (x : BitVec 32)

theorem signed32_eq_flips : signed32 both f x =
    flipAt 15 (both && f (x.getLsbD 15) != x.getLsbD 15) (flipAt 31 (f (x.getLsbD 31) != x.getLsbD 31) x) := by
  have hreplace : ∀ u v : Bool, (u ^^ (v != u)) = v := by decide
  ext j hj
  rw [← BitVec.getLsbD_eq_getElem, ← BitVec.getLsbD_eq_getElem, getLsbD_flipAt hj, getLsbD_flipAt hj]
  by_cases h31 : j = 31
  · subst h31
    simp [signed32, hreplace]
  · by_cases h15 : j = 15
    · subst h15
      cases both <;> simp [signed32, hreplace]
    · simp [signed32, h31, h15, hj, Ne.symm h31, Ne.symm h15]

theorem signWord_data : (signWord both f (Word.ofData x)).1 = signed32 both f x := by
  have hflip : (signWord both f (Word.ofData x)).1 = x ^^^ ((if f (x.getLsbD 31) != x.getLsbD 31 then 0x80000000#32 else 0) |||
      (if both && f (x.getLsbD 15) != x.getLsbD 15 then 0x8000#32 else 0)) := rfl
  rw [hflip, signed32_eq_flips, flipAt, flipAt, BitVec.xor_assoc]
  refine congrArg (x ^^^ ·) ?_
  split_ifs <;> rfl

/-- R296: 2^31 and 2^15 are 8 modulo 15. -/
theorem signWord_eq : signWord both f (Word.ofData x) = gen (signed32 both f x) := by
  have hpred : (signWord both f (Word.ofData x)).2 = predSign (resOf x)
      ((if true && !x.getLsbD 31 && f (x.getLsbD 31) then 1 else 0) + (if both && !x.getLsbD 15 && f (x.getLsbD 15) then 1 else 0))
      ((if true && x.getLsbD 31 && !f (x.getLsbD 31) then 1 else 0) + (if both && x.getLsbD 15 && !f (x.getLsbD 15) then 1 else 0)) := rfl
  refine Prod.ext (signWord_data both f x) (hpred.trans (r15_eq ?_))
  have hhigh := toNat_flipAt (i := 31) (by decide) (f (x.getLsbD 31) != x.getLsbD 31) x
  have hlow := toNat_flipAt (i := 15) (by decide) (both && f (x.getLsbD 15) != x.getLsbD 15) (flipAt 31 (f (x.getLsbD 31) != x.getLsbD 31) x)
  have hkept : (flipAt 31 (f (x.getLsbD 31) != x.getLsbD 31) x).getLsbD 15 = x.getLsbD 15 := by
    rw [getLsbD_flipAt (by decide)]
    simp
  have hup : ∀ o u v : Bool, (o && (v != u) && !u) = (o && !u && v) := by decide
  have hdown : ∀ o u v : Bool, (o && (v != u) && u) = (o && u && !v) := by decide
  rw [← signed32_eq_flips, hhigh, hkept, hup, hdown, ← Bool.true_and (_ != _), hup, hdown] at hlow
  rw [hlow, ri_resOf]
  push_cast
  omega

end

section
variable {s : State} {d a b : BitVec 6} {p : BitVec 3}

/-- R295: the shared form of `fadd`, `fsub` and `fmul`. -/
theorem execF2_eq {t : BitVec 2} (f : Nat → FpFmt → Bool → Bool → Nat → Nat → Nat) (r : BitVec 1)
    (hfit : s.FitV p (names3 d.toNat a.toNat b.toNat (widthOf t))) (hreads : s.ReadsV p [(a.toNat, widthOf t), (b.toNat, widthOf t)]) :
    execF2 f d a b r t p s =
      (s.putV p d.toNat (fun l => arithOf (widthOf t) (s.vRun a.toNat (widthOf t) l ++ s.vRun b.toNat (widthOf t) l)
        ((byType t.toNat s.g.fmt (f (if r = 1 then 1 else fmtRnd s.g.fmt))
          (s.vRun a.toNat (widthOf t) l ++ s.vRun b.toNat (widthOf t) l)).map (·.1)))).advance := by
  rw [← modeOf_rz]
  exact laneOp_byType (fun s => f (modeOf s.g.fmt (r = 1))) rfl hfit hreads

/-- R295: `fma` takes its old destination as the addend. -/
theorem exec_vFma {t : BitVec 2} (r : BitVec 1) (hfit : s.FitV p (names3 d.toNat a.toNat b.toNat (widthOf t)))
    (hreads : s.ReadsV p [(a.toNat, widthOf t), (b.toNat, widthOf t)]) (hold : s.ReadsV p [(d.toNat, widthOf t)]) :
    exec (.vFma d a b r t p) s = .next (s.putV p d.toNat (fun l =>
      arithOf (widthOf t) (s.vRun a.toNat (widthOf t) l ++ s.vRun b.toNat (widthOf t) l ++ s.vRun d.toNat (widthOf t) l)
        ((fmaWords t.toNat s.g.fmt (if r = 1 then 1 else fmtRnd s.g.fmt)
          (s.vRun a.toNat (widthOf t) l ++ s.vRun b.toNat (widthOf t) l ++ s.vRun d.toNat (widthOf t) l)).map (·.1)))).advance := by
  have hrun : ∀ x ∈ srcs a.toNat (widthOf t) 1 ++ srcs b.toNat (widthOf t) 2 ++ srcs d.toNat (widthOf t) 3,
      ∃ q ∈ [(a.toNat, widthOf t), (b.toNat, widthOf t)] ++ [(d.toNat, widthOf t)], ∃ i < q.2, x.n = q.1 + i := fun x hx => by
    obtain hx | hx := List.mem_append.1 hx
    · obtain ⟨q, hq, hi⟩ := mem_two_srcs hx
      exact ⟨q, List.mem_append_left _ hq, hi⟩
    · exact ⟨_, List.mem_append_right _ List.mem_cons_self, mem_srcs hx⟩
  refine congrArg Host.Outcome.next ((laneOp_onData (k := widthOf t) (G := fun s => fmaWords t.toNat s.g.fmt (modeOf s.g.fmt (r = 1)))
    rfl hfit (hreads.append hold) hrun (fmaWords_onData t s.g.fmt _)).trans ?_)
  simp only [List.map_append, map_srcs, modeOf_rz]

/-- R299: `fscale` by type: its second source is one word. -/
theorem exec_vFscale {t : BitVec 2} (ht : t.toNat < 2) (hfit : s.FitV p ⟨[(d.toNat, widthOf t), (a.toNat, widthOf t), (b.toNat, 1)], []⟩)
    (hreads : s.ReadsV p [(a.toNat, widthOf t), (b.toNat, 1)]) : exec (.vFscale d a b t p) s = .next (s.putV p d.toNat (fun l =>
      arithOf (widthOf t) (s.vRun a.toNat (widthOf t) l ++ s.vRun b.toNat 1 l)
        (if t = 1 then halves (BitVec.ofNat 64 (scaleF f64 (fmtRnd s.g.fmt) false (s.v64 a.toNat l).toNat (s.v b.toNat l).data.toInt))
          else [BitVec.ofNat 32 (scaleF f32 (fmtRnd s.g.fmt) (fmtFtz s.g.fmt) (s.v a.toNat l).data.toNat (s.v b.toNat l).data.toInt)]))).advance := by
  have hrun : ∀ x ∈ srcs a.toNat (widthOf t) 1 ++ srcs b.toNat 1 2,
      ∃ q ∈ [(a.toNat, widthOf t), (b.toNat, 1)], ∃ i < q.2, x.n = q.1 + i := fun x hx =>
    (List.mem_append.1 hx).elim (fun h => ⟨_, List.mem_cons_self, mem_srcs h⟩)
      (fun h => ⟨_, List.mem_cons_of_mem _ List.mem_cons_self, mem_srcs h⟩)
  match t with
  | 0 => exact congrArg Host.Outcome.next (laneOp_results (k := 1)
      (G := fun s ws => genN (scaleF f32 (fmtRnd s.g.fmt) (fmtFtz s.g.fmt) (dat ws 0).toNat (dat ws 1).toInt))
      (fun l => [BitVec.ofNat 32 (scaleF f32 (fmtRnd s.g.fmt) (fmtFtz s.g.fmt) (s.v a.toNat l).data.toNat (s.v b.toNat l).data.toInt)])
      rfl hfit hreads hrun (fun _ => rfl) (fun _ => rfl))
  | 1 => exact congrArg Host.Outcome.next (laneOp_results (k := 2)
      (G := fun s ws => gen64N (scaleF f64 (fmtRnd s.g.fmt) false (dat64 ws 0).toNat (dat ws 2).toInt))
      (fun l => halves (BitVec.ofNat 64 (scaleF f64 (fmtRnd s.g.fmt) false (s.v64 a.toNat l).toNat (s.v b.toNat l).data.toInt)))
      rfl hfit hreads hrun (fun _ => rfl) (fun _ => rfl))

/-- R299: `frnd` by type. -/
theorem exec_vFrnd {t : BitVec 2} (m : BitVec 2) (hfit : s.FitV p (names2 d.toNat a.toNat (widthOf t))) (hreads : s.ReadsV p [(a.toNat, widthOf t)]) :
    exec (.vFrnd d a m t p) s = .next (s.putV p d.toNat (fun l => arithOf (widthOf t) (s.vRun a.toNat (widthOf t) l)
      ((byType t.toNat s.g.fmt (fun f _ ftz x _ => rndF f m.toNat ftz x)
        (s.vRun a.toNat (widthOf t) l ++ s.vRun a.toNat (widthOf t) l)).map (·.1)))).advance := by
  have hround := byType_onData t s.g.fmt (fun f _ ftz x _ => rndF f m.toNat ftz x)
  refine congrArg Host.Outcome.next ((laneOp_onData (ss := srcs a.toNat (widthOf t) 1) (k := widthOf t)
    (G := fun s ws => byType t.toNat s.g.fmt (fun f _ ftz x _ => rndF f m.toNat ftz x) (if t.toNat = 1 then ws ++ ws else ws ++ ws))
    rfl hfit hreads (fun _ hx => ⟨_, List.mem_cons_self, mem_srcs hx⟩)
    ⟨fun ws => hround.length _, fun ws => ?_, fun ws => hround.generated _⟩).trans ?_)
  · simp only [ite_self, ← List.map_append, hround.data]
  · simp only [ite_self, map_srcs]

/-- R296: the words of a sign operation by type. -/
def signResult (t : BitVec 2) (f : Bool → Bool) (lo hi : BitVec 32) : List (BitVec 32) :=
  if t = 1 then [lo, signed32 (2 ≤ t.toNat) f hi] else [signed32 (2 ≤ t.toNat) f lo]

/-- R296: the shared form of `fneg` and `fabs`. -/
theorem execFSign_eq {t : BitVec 2} (f : Bool → Bool) (hfit : s.FitV p (names2 d.toNat a.toNat (widthOf t)))
    (hreads : s.ReadsV p [(a.toNat, widthOf t)]) : execFSign f d a t p s = (s.putV p d.toNat (fun l =>
      arithOf (widthOf t) (s.vRun a.toNat (widthOf t) l) (signResult t f (s.v a.toNat l).data (s.v (a.toNat + 1) l).data))).advance := by
  refine (laneOp_results (ss := srcs a.toNat (widthOf t) 1) (k := widthOf t) (G := fun _ => signWords t.toNat f)
    (fun l => signResult t f (s.v a.toNat l).data (s.v (a.toNat + 1) l).data) rfl hfit hreads
    (fun _ hx => ⟨_, List.mem_cons_self, mem_srcs hx⟩) (fun l => ?_) (fun l => ?_)).trans ?_
  · match t with
    | 0 => rfl
    | 1 => rfl
    | 2 => rfl
    | 3 => rfl
  · match t with
    | 0 => exact congrArg ([·]) (signWord_eq false f _)
    | 1 => exact congrArg (fun w => [gen (s.v a.toNat l).data, w]) (signWord_eq false f _)
    | 2 => exact congrArg ([·]) (signWord_eq true f _)
    | 3 => exact congrArg ([·]) (signWord_eq true f _)
  · simp only [map_srcs]

/-- R298: the class bit of a value. -/
theorem exec_vFclass {t : BitVec 1} (hfit : s.FitV p ⟨[(d.toNat, 1), (a.toNat, widthOf t)], []⟩) (hreads : s.ReadsV p [(a.toNat, widthOf t)]) :
    exec (.vFclass d a t p) s = .next (s.putV p d.toNat (fun l => arithOf 1 (s.vRun a.toNat (widthOf t) l)
      [BitVec.ofNat 32 (2 ^ (if t = 1 then classF f64 (s.v64 a.toNat l).toNat else classF f32 (s.v a.toNat l).data.toNat))])).advance := by
  have hrun : ∀ x ∈ srcs a.toNat (widthOf t) 1, ∃ q ∈ [(a.toNat, widthOf t)], ∃ i < q.2, x.n = q.1 + i :=
    fun _ hx => ⟨_, List.mem_cons_self, mem_srcs hx⟩
  match t with
  | 0 => exact congrArg Host.Outcome.next (laneOp_results (k := 1) (G := fun _ ws => genN (2 ^ classF f32 (dat ws 0).toNat))
      (fun l => [BitVec.ofNat 32 (2 ^ classF f32 (s.v a.toNat l).data.toNat)]) rfl hfit hreads hrun (fun _ => rfl) (fun _ => rfl))
  | 1 => exact congrArg Host.Outcome.next (laneOp_results (k := 1) (G := fun _ ws => genN (2 ^ classF f64 (dat64 ws 0).toNat))
      (fun l => [BitVec.ofNat 32 (2 ^ classF f64 (s.v64 a.toNat l).toNat)]) rfl hfit hreads hrun (fun _ => rfl) (fun _ => rfl))

end

/-- Settles O10: each operation by the words of its type. -/
theorem laneFloat : Obligations.LaneFloat := by
  unfold Obligations.LaneFloat
  intro s d a b p
  refine ⟨fun t => ?_, fun t ht hfit hreads => ?_, fun t hfit hreads => ⟨fun m => ?_, ?_, ?_⟩, fun t hfit hreads => ?_⟩
  · intro k hfit hreads put
    refine ⟨fun r => ⟨?_, ?_, ?_, fun hold => ?_⟩, ?_, ?_, fun ht => ?_⟩
    · exact congrArg Host.Outcome.next (execF2_eq (fun m f sat ftz => addF f m sat ftz) r hfit hreads)
    · exact congrArg Host.Outcome.next (execF2_eq (fun m f sat ftz => subF f m sat ftz) r hfit hreads)
    · exact congrArg Host.Outcome.next (execF2_eq (fun m f sat ftz => mulF f m sat ftz) r hfit hreads)
    · exact exec_vFma r hfit hreads hold
    · exact congrArg Host.Outcome.next (laneOp_byType (fun _ f _ ftz => minmaxF f ftz false) rfl hfit hreads)
    · exact congrArg Host.Outcome.next (laneOp_byType (fun _ f _ ftz => minmaxF f ftz true) rfl hfit hreads)
    · exact congrArg Host.Outcome.next (laneOp_byType (fun s f sat ftz => divF f (fmtRnd s.g.fmt) sat ftz) (decide_eq_true ht) hfit hreads)
  · exact exec_vFscale ht hfit hreads
  · exact exec_vFrnd m hfit hreads
  · exact congrArg Host.Outcome.next (execFSign_eq (fun x => true && !x) hfit hreads)
  · exact congrArg Host.Outcome.next (execFSign_eq (fun x => false && !x) hfit hreads)
  · exact exec_vFclass hfit hreads

end Sys2Proof.Machine
end

section
/-! Conversions of the lanes (R241, R244, R269, R302, R303, R304, R305). -/

namespace Sys2Proof.Machine

open Sys2Proof.Laws

/-! ### Conversions between types (R302, R303) -/

section
variable {dt st : Nat} (mode : Nat) (fmt : BitVec 32)

theorem cvtDRegs_of_ne_pair (h : dt = 0 → st ≠ 4 ∧ st ≠ 5) : cvtDRegs dt st = if cvtWide dt then 2 else 1 := by
  have hpair : (dt == 0 && (st == 4 || st == 5)) = false := by
    simp only [Bool.and_eq_false_imp, beq_iff_eq, Bool.or_eq_false_iff, beq_eq_false_iff_ne]
    exact h
  rw [cvtDRegs, hpair, Bool.or_false]

theorem length_cvtOut (x : Nat) : (if cvtWide dt then gen64N x else genN x).length = if cvtWide dt then 2 else 1 := by
  split_ifs <;> rfl

theorem generated_cvtOut (x : Nat) : Generated (if cvtWide dt then gen64N x else genN x) := by
  split_ifs
  · exact generated_gen64N x
  · exact generated_genN x

/-- R302: a legal conversion gives the registers of its destination: two for a wide type, and for the binary32 pair of packed halves. -/
theorem cvtWords_length (hlegal : cvtLegal dt st = true) (ws : List Word) : (cvtWords dt st mode fmt ws).length = cvtDRegs dt st := by
  simp only [cvtLegal, Bool.or_eq_true, Bool.and_eq_true, decide_eq_true_eq, beq_iff_eq, bne_iff_ne] at hlegal
  have hpacked : ¬ 6 ≤ dt → 4 ≤ dt → cvtWide dt = false := fun h6 h4 => by
    obtain rfl | rfl : dt = 4 ∨ dt = 5 := by omega
    · rfl
    · rfl
  unfold cvtWords
  extract_lets
  split_ifs with hint hwide _ hboth hto
  · rw [cvtDRegs_of_ne_pair (by omega), if_pos hwide]
    rfl
  · rw [cvtDRegs_of_ne_pair (by omega), if_neg hwide]
    rfl
  · rw [cvtDRegs_of_ne_pair (by omega)]
    exact length_cvtOut _
  · rw [Bool.and_eq_true, decide_eq_true_eq, decide_eq_true_eq] at hboth
    rw [cvtDRegs_of_ne_pair (by omega), hpacked hint hboth.2]
    rfl
  · rw [cvtDRegs_of_ne_pair (by omega), hpacked hint hto]
    rfl
  · obtain ⟨rfl, hst⟩ : dt = 0 ∧ (st = 4 ∨ st = 5) := by omega
    obtain rfl | rfl := hst <;> rfl
  · rw [cvtDRegs_of_ne_pair (by omega)]
    exact length_cvtOut _

theorem cvtWords_onData (hlegal : cvtLegal dt st = true) : OnData (cvtDRegs dt st) (cvtWords dt st mode fmt) := by
  refine ⟨cvtWords_length mode fmt hlegal, fun ws => ?_, fun ws => ?_⟩
  · simp only [cvtWords, cvtIntOf, dat_map_data, dat64_map_data]
  · unfold cvtWords
    extract_lets
    split_ifs
    · exact generated_map_gen [_, _]
    · exact generated_map_gen [_]
    · exact generated_cvtOut _
    · exact generated_genN _
    · exact generated_genN _
    · exact generated_map_gen [_, _]
    · exact generated_cvtOut _

end

/-! ### A field of a word replaced (R304, R305) -/

/-- The word with its field k of `w` bits replaced by the low bits of `x`. -/
def replaceField (w k x : Nat) (old : BitVec 32) : BitVec 32 :=
  BitVec.ofFnLE (fun i : Fin 32 => if i.val / w = k then x.testBit (i.val % w) else old.getLsbD i.val)

section
variable {w k x : Nat} (old : BitVec 32)

theorem toNat_eq_fields (w k : Nat) :
    old.toNat = 2 ^ (w * k) * (2 ^ w * (old.toNat / 2 ^ (w * k) / 2 ^ w) + fieldOf w k old) + old.toNat % 2 ^ (w * k) := by
  rw [fieldOf, Nat.div_add_mod, Nat.div_add_mod]

theorem getLsbD_replaceField (hw : 0 < w) (hk : w * k + w ≤ 32) (i : Nat) :
    (replaceField w k x old).getLsbD i = if i / w = k then x.testBit (i % w) else old.getLsbD i := by
  rw [replaceField, BitVec.getLsbD_ofFnLE]
  by_cases hi : i < 32
  · rw [dif_pos hi]
  · have hout : i / w ≠ k := by
      rintro rfl
      have := Nat.div_add_mod i w
      have := Nat.mod_lt i hw
      omega
    rw [dif_neg hi, if_neg hout, BitVec.getLsbD_of_ge old i (Nat.le_of_not_lt hi)]

theorem toNat_replaceField (hw : 0 < w) (hk : w * k + w ≤ 32) (hx : x < 2 ^ w) : (replaceField w k x old).toNat =
    2 ^ (w * k) * (2 ^ w * (old.toNat / 2 ^ (w * k) / 2 ^ w) + x) + old.toNat % 2 ^ (w * k) := by
  apply Nat.eq_of_testBit_eq
  intro i
  rw [Nat.testBit_two_pow_mul_add _ (Nat.mod_lt _ (Nat.two_pow_pos _)), Nat.testBit_two_pow_mul_add _ hx, Nat.testBit_mod_two_pow,
    Nat.testBit_div_two_pow, Nat.testBit_div_two_pow, BitVec.testBit_toNat, BitVec.testBit_toNat, BitVec.testBit_toNat,
    getLsbD_replaceField old hw hk]
  have hsplit := Nat.div_add_mod i w
  have hmod := Nat.mod_lt i hw
  by_cases hbelow : i < w * k
  · have hne : i / w ≠ k := by
      rintro rfl
      omega
    simp [hbelow, hne]
  · by_cases hfield : i - w * k < w
    · have heq : i / w = k := Nat.div_eq_of_lt_le (by rw [Nat.mul_comm]; omega) (by rw [Nat.succ_mul, Nat.mul_comm]; omega)
      subst heq
      have hoff : i % w = i - w * (i / w) := by omega
      simp [hbelow, hfield, hoff]
    · have hne : i / w ≠ k := by
        rintro rfl
        omega
      have habove : i - w * k - w + w + w * k = i := by omega
      simp [hbelow, hfield, hne, habove]

/-- R304, R305: taking the old field out and putting the new one in. -/
theorem replaced_eq (hw : 0 < w) (hk : w * k + w ≤ 32) (hx : x < 2 ^ w) :
    old - BitVec.ofNat 32 (fieldOf w k old * 2 ^ (w * k)) + BitVec.ofNat 32 (x * 2 ^ (w * k)) = replaceField w k x old := by
  have hword (y : Nat) : BitVec.ofNat 32 (2 ^ (w * k) * (2 ^ w * (old.toNat / 2 ^ (w * k) / 2 ^ w) + y) + old.toNat % 2 ^ (w * k)) =
      BitVec.ofNat 32 (2 ^ (w * k) * (2 ^ w * (old.toNat / 2 ^ (w * k) / 2 ^ w)) + old.toNat % 2 ^ (w * k)) +
        BitVec.ofNat 32 (y * 2 ^ (w * k)) := by
    rw [← BitVec.ofNat_add]
    ring_nf
  have hold := congrArg (BitVec.ofNat 32) (toNat_eq_fields old w k)
  have hnew := congrArg (BitVec.ofNat 32) (toNat_replaceField old hw hk hx)
  rw [BitVec.ofNat_toNat, BitVec.setWidth_eq, hword] at hold hnew
  rw [hnew]
  exact congrArg (· + _) (sub_eq_of_eq_add hold)

/-- R304, R305: a field of whole nibbles weighs 1 modulo 15. -/
theorem predReplace_eq (hw : 0 < w) (hnibbles : 4 ∣ w) (hk : w * k + w ≤ 32) (hx : x < 2 ^ w) :
    predReplace (resOf old) (fieldOf w k old) x = resOf (replaceField w k x old) := by
  have hone : 15 ∣ 2 ^ (w * k) - 1 := by
    obtain ⟨m, rfl⟩ := hnibbles
    have hpow := Nat.sub_dvd_pow_sub_pow (2 ^ 4) 1 (m * k)
    rwa [one_pow, ← pow_mul, ← mul_assoc] at hpow
  obtain ⟨c, hc⟩ := hone
  have hweight : ((2 : Int) ^ (w * k)) = 15 * c + 1 := by
    have := Nat.two_pow_pos (w * k)
    have : 2 ^ (w * k) = 15 * c + 1 := by omega
    exact_mod_cast this
  have hold := congrArg (fun n : Nat => (n : Int)) (toNat_eq_fields old w k)
  have hnew := congrArg (fun n : Nat => (n : Int)) (toNat_replaceField old hw hk hx)
  push_cast at hold hnew
  have hdiff : ((replaceField w k x old).toNat : Int) = old.toNat - fieldOf w k old + x + 15 * (c * (x - fieldOf w k old)) := by
    linear_combination hnew - hold + ((x : Int) - fieldOf w k old) * hweight
  apply r15_eq
  rw [hdiff, ri_resOf]
  omega

theorem replaceField_mod (hw : 0 < w) : replaceField w k (x % 2 ^ w) old = replaceField w k x old := by
  have hbit (i : Nat) : (x % 2 ^ w).testBit (i % w) = x.testBit (i % w) := by
    rw [Nat.testBit_mod_two_pow, decide_eq_true (Nat.mod_lt i hw), Bool.true_and]
  simp only [replaceField, hbit]

theorem replaceWord_eq (hw : 0 < w) (hnibbles : 4 ∣ w) (hk : w * k + w ≤ 32) (hx : x < 2 ^ w) :
    (old - BitVec.ofNat 32 (fieldOf w k old * 2 ^ (w * k)) + BitVec.ofNat 32 (x * 2 ^ (w * k)),
      predReplace (resOf old) (fieldOf w k old) x) = gen (replaceField w k x old) :=
  Prod.ext (replaced_eq old hw hk hx) (predReplace_eq old hw hnibbles hk hx)

end

/-! ### Elements and fields in every active lane (R304, R305) -/

theorem elemBits_cases (e : Elem) : elemBits e = 4 ∨ elemBits e = 8 := by
  cases e <;> decide

/-- R304: the element's place lies in the word. -/
theorem elem_fits {code k : Nat} {e : Elem} (hlegal : cvtnLegal code k = true) (he : elemOf code = some e) :
    elemBits e * k + elemBits e ≤ 32 := by
  simp only [cvtnLegal, he, Bool.and_eq_true, decide_eq_true_eq] at hlegal
  obtain ⟨-, hk⟩ := hlegal
  obtain h | h := elemBits_cases e
  · rw [h] at hk ⊢
    omega
  · rw [h] at hk ⊢
    omega

section
variable {s : State} {d a b : BitVec 6} {p : BitVec 3}

/-- R302, R303: a legal conversion between types. -/
theorem exec_vCvt {r : BitVec 1} {st dt : BitVec 4} {kd ka : Nat} (hlegal : cvtLegal dt.toNat st.toNat = true)
    (hkd : cvtDRegs dt.toNat st.toNat = kd) (hka : cvtSRegs dt.toNat st.toNat = ka) (hfit : s.FitV p ⟨[(d.toNat, kd), (a.toNat, ka)], []⟩)
    (hreads : s.ReadsV p [(a.toNat, ka)]) :
    exec (.vCvt d a r st dt p) s = .next (s.putV p d.toNat (fun l => arithOf kd (s.vRun a.toNat ka l)
      ((cvtWords dt.toNat st.toNat (if r = 1 then 1 else fmtRnd s.g.fmt) s.g.fmt (s.vRun a.toNat ka l)).map (·.1)))).advance := by
  subst hkd hka
  refine congrArg Host.Outcome.next ((laneOp_onData (ss := srcs a.toNat (cvtSRegs dt.toNat st.toNat) 1) (k := cvtDRegs dt.toNat st.toNat)
    (G := fun s => cvtWords dt.toNat st.toNat (modeOf s.g.fmt (r = 1)) s.g.fmt) hlegal hfit hreads
    (fun _ hx => ⟨_, List.mem_cons_self, mem_srcs hx⟩) (cvtWords_onData _ _ hlegal)).trans ?_)
  simp only [map_srcs, modeOf_rz]

/-- R304: the old word with element k replaced by the product of two binary32 words, in the element's encoding. -/
def packResult (e : Elem) (k : Nat) (fmt x y old : BitVec 32) : BitVec 32 :=
  replaceField (elemBits e) k (convElem e (fmtRnd fmt) (fmtSat fmt)
    (mulV (unpackF f32 (fmtFtz fmt) x.toNat) (unpackF f32 (fmtFtz fmt) y.toNat))).bits old

theorem packElem_eq {code k : Nat} {e : Elem} (hlegal : cvtnLegal code k = true) (he : elemOf code = some e) (fmt x y old : BitVec 32) :
    packElem code k (fmtRnd fmt) fmt [Word.ofData x, Word.ofData y, Word.ofData old] = [gen (packResult e k fmt x y old)] := by
  have hpos : 0 < elemBits e := by obtain h | h := elemBits_cases e <;> omega
  have hnibbles : 4 ∣ elemBits e := by obtain h | h := elemBits_cases e <;> omega
  rw [packResult, ← replaceField_mod old hpos, ← replaceWord_eq old hpos hnibbles (elem_fits hlegal he) (Nat.mod_lt _ (Nat.two_pow_pos _))]
  simp only [packElem, he]
  rfl

theorem exec_vCvtnPk {k : BitVec 3} {e : Elem} (hfit : s.FitV p (names3 d.toNat a.toNat b.toNat 1))
    (hreads : s.ReadsV p [(a.toNat, 1), (b.toNat, 1)]) (hlegal : cvtnLegal (field s.g.fmt.toNat 8 4) k.toNat = true)
    (he : elemOf (field s.g.fmt.toNat 8 4) = some e) (hold : s.ReadsV p [(d.toNat, 1)]) :
    exec (.vCvtnPk d a b k p) s = .next (s.putV p d.toNat (fun l =>
      arithOf 1 (s.vRun a.toNat 1 l ++ s.vRun b.toNat 1 l ++ s.vRun d.toNat 1 l)
        [packResult e k.toNat s.g.fmt (s.v a.toNat l).data (s.v b.toNat l).data (s.v d.toNat l).data])).advance :=
  congrArg Host.Outcome.next (laneOp_results (ss := [⟨a.toNat, 1⟩, ⟨b.toNat, 2⟩, ⟨d.toNat, 3⟩]) (k := 1)
    (G := fun s' => packElem (field s.g.fmt.toNat 8 4) k.toNat (fmtRnd s'.g.fmt) s'.g.fmt)
    (fun l => [packResult e k.toNat s.g.fmt (s.v a.toNat l).data (s.v b.toNat l).data (s.v d.toNat l).data])
    hlegal hfit (hreads.append hold) (by simp) (fun _ => rfl) (fun l => packElem_eq hlegal he _ _ _ _))

/-- R304: element k of a word times the binary32 scale. -/
def unpackResult (e : Elem) (k : Nat) (fmt x y : BitVec 32) : BitVec 32 :=
  BitVec.ofNat 32 (packV f32 (fmtRnd fmt) false (fmtFtz fmt)
    (mulV (decodeElem e (fieldOf (elemBits e) k x)) (unpackF f32 (fmtFtz fmt) y.toNat)))

theorem unpackElem_eq {code : Nat} {e : Elem} (he : elemOf code = some e) (k : Nat) (fmt x y : BitVec 32) :
    unpackElem code k (fmtRnd fmt) fmt [Word.ofData x, Word.ofData y] = [gen (unpackResult e k fmt x y)] := by
  simp only [unpackElem, he]
  rfl

theorem exec_vCvtnUnpk {k : BitVec 3} {e : Elem} (hfit : s.FitV p (names3 d.toNat a.toNat b.toNat 1))
    (hreads : s.ReadsV p [(a.toNat, 1), (b.toNat, 1)]) (hlegal : cvtnLegal (field s.g.fmt.toNat 0 4) k.toNat = true)
    (he : elemOf (field s.g.fmt.toNat 0 4) = some e) :
    exec (.vCvtnUnpk d a b k p) s = .next (s.putV p d.toNat (fun l => arithOf 1 (s.vRun a.toNat 1 l ++ s.vRun b.toNat 1 l)
      [unpackResult e k.toNat s.g.fmt (s.v a.toNat l).data (s.v b.toNat l).data])).advance :=
  congrArg Host.Outcome.next (laneOp_results (ss := [⟨a.toNat, 1⟩, ⟨b.toNat, 2⟩]) (k := 1)
    (G := fun s' => unpackElem (field s.g.fmt.toNat 0 4) k.toNat (fmtRnd s'.g.fmt) s'.g.fmt)
    (fun l => [unpackResult e k.toNat s.g.fmt (s.v a.toNat l).data (s.v b.toNat l).data])
    hlegal hfit hreads (by simp) (fun _ => rfl) (fun l => unpackElem_eq he _ _ _ _))

/-! ### Fields moved out of and into a word (R305) -/

/-- R305: the width of the field that `cvtw` moves. -/
def fieldBits (w : BitVec 1) : Nat := if w = 1 then 16 else 8

theorem fieldBits_cases (w : BitVec 1) : w = 0 ∧ fieldBits w = 8 ∨ w = 1 ∧ fieldBits w = 16 := by
  match w with
  | 0 => exact .inl ⟨rfl, rfl⟩
  | 1 => exact .inr ⟨rfl, rfl⟩

theorem cvtw_legal {w : BitVec 1} {k : BitVec 2} (hk : w = 1 → k.toNat < 2) : (w = 0 || k.toNat < 2) = true := by
  simp only [Bool.or_eq_true, decide_eq_true_eq]
  obtain ⟨h0, -⟩ | ⟨h1, -⟩ := fieldBits_cases w
  · exact .inl h0
  · exact .inr (hk h1)

theorem field_fits {w : BitVec 1} {k : BitVec 2} (hk : w = 1 → k.toNat < 2) : fieldBits w * k.toNat + fieldBits w ≤ 32 := by
  obtain ⟨-, hn⟩ | ⟨h1, hn⟩ := fieldBits_cases w
  · have := k.isLt
    rw [hn]
    omega
  · have := hk h1
    rw [hn]
    omega

theorem twos_toNat {n : Nat} (hn : 0 < n) (y : BitVec n) : twos n y.toNat = y.toInt := by
  have hlt := y.isLt
  have hpow : 2 ^ n = 2 * 2 ^ (n - 1) := by rw [← pow_succ', Nat.sub_add_cancel hn]
  have hsign : y.toNat / 2 ^ (n - 1) % 2 = 1 ↔ ¬ 2 * y.toNat < 2 ^ n := by
    have htop : y.toNat / 2 ^ (n - 1) < 2 := Nat.div_lt_of_lt_mul (by omega)
    have hset := Nat.one_le_div_iff (a := y.toNat) (Nat.two_pow_pos (n - 1))
    rw [Nat.mod_eq_of_lt htop]
    omega
  simp only [twos, BitVec.toInt_eq_toNat_cond, hsign, Nat.mod_eq_of_lt hlt]
  split_ifs <;> rfl

/-- R305: a field of a word, extended by its sign or by zeros. -/
def widenResult (n k : Nat) (sg : BitVec 1) (x : BitVec 32) : BitVec 32 :=
  if sg = 1 then (x.extractLsb' (n * k) n).signExtend 32 else (x.extractLsb' (n * k) n).zeroExtend 32

theorem cvtwWiden_eq {n : Nat} (hn : 0 < n) (k : Nat) (sg : BitVec 1) (x : BitVec 32) :
    cvtwWiden n k (sg = 1) [Word.ofData x] = [gen (widenResult n k sg x)] := by
  have hfield : fieldOf n k x = (x.extractLsb' (n * k) n).toNat := (toNat_extractLsb'_div x (n * k) n).symm
  have hwiden : cvtwWiden n k (sg = 1) [Word.ofData x] =
      [gen (if sg = 1 then BitVec.ofInt 32 (twos n (fieldOf n k x)) else BitVec.ofNat 32 (fieldOf n k x))] := by
    simp only [cvtwWiden, decide_eq_true_eq]
    rfl
  rw [hwiden, hfield, twos_toNat hn, BitVec.ofNat_toNat]
  rfl

/-- R305: a word clamped to a field of `n` bits. -/
def clampTo (n : Nat) (sg : BitVec 1) (v : BitVec 32) : Int :=
  if sg = 1 then max (-(2 ^ (n - 1))) (min (2 ^ (n - 1) - 1) v.toInt) else min (v.toNat : Int) (2 ^ n - 1)

theorem toNat_ofInt_clampTo (n : Nat) (sg : BitVec 1) (v : BitVec 32) : (BitVec.ofInt n (clampTo n sg v)).toNat =
    if sg = 1 then ((max (-(2 ^ (n - 1) : Nat) : Int) (min ((2 ^ (n - 1) : Nat) - 1) v.toInt)) % (2 ^ n : Nat)).toNat
      else min v.toNat (2 ^ n - 1) := by
  rw [BitVec.toNat_ofInt, clampTo]
  split_ifs
  · push_cast
    rfl
  · have hpos := Nat.two_pow_pos n
    have hcast : (2 : Int) ^ n = (2 ^ n : Nat) := by norm_cast
    rw [hcast, Int.emod_eq_of_lt (by omega) (by omega)]
    omega

/-- R305: the old word with its field replaced by the clamped source. -/
def narrowResult (n k : Nat) (sg : BitVec 1) (x old : BitVec 32) : BitVec 32 :=
  replaceField n k (BitVec.ofInt n (clampTo n sg x)).toNat old

theorem cvtwNarrow_eq {n k : Nat} (hn : 0 < n) (hnibbles : 4 ∣ n) (hk : n * k + n ≤ 32) (sg : BitVec 1) (x old : BitVec 32) :
    cvtwNarrow n k (sg = 1) [Word.ofData x, Word.ofData old] = [gen (narrowResult n k sg x old)] := by
  rw [narrowResult, ← replaceWord_eq old hn hnibbles hk (BitVec.isLt _), toNat_ofInt_clampTo]
  simp only [cvtwNarrow, decide_eq_true_eq]
  rfl

theorem exec_vCvtw_widen {w sg : BitVec 1} {k : BitVec 2} (hk : w = 1 → k.toNat < 2) (hfit : s.FitV p (names2 d.toNat a.toNat 1))
    (hreads : s.ReadsV p [(a.toNat, 1)]) : exec (.vCvtw d a w 0 sg k p) s = .next (s.putV p d.toNat (fun l =>
      arithOf 1 (s.vRun a.toNat 1 l) [widenResult (fieldBits w) k.toNat sg (s.v a.toNat l).data])).advance := by
  have hpos : 0 < fieldBits w := by obtain ⟨-, h⟩ | ⟨-, h⟩ := fieldBits_cases w <;> omega
  exact congrArg Host.Outcome.next (laneOp_results (ss := [⟨a.toNat, 1⟩]) (k := 1) (G := fun _ => cvtwWiden (fieldBits w) k.toNat (sg = 1))
    (fun l => [widenResult (fieldBits w) k.toNat sg (s.v a.toNat l).data])
    (cvtw_legal hk) hfit hreads (by simp) (fun _ => rfl) (fun l => cvtwWiden_eq hpos _ _ _))

theorem exec_vCvtw_narrow {w sg : BitVec 1} {k : BitVec 2} (hk : w = 1 → k.toNat < 2) (hfit : s.FitV p (names2 d.toNat a.toNat 1))
    (hreads : s.ReadsV p [(a.toNat, 1)]) (hold : s.ReadsV p [(d.toNat, 1)]) :
    exec (.vCvtw d a w 1 sg k p) s = .next (s.putV p d.toNat (fun l => arithOf 1 (s.vRun a.toNat 1 l ++ s.vRun d.toNat 1 l)
      [narrowResult (fieldBits w) k.toNat sg (s.v a.toNat l).data (s.v d.toNat l).data])).advance := by
  have hpos : 0 < fieldBits w := by obtain ⟨-, h⟩ | ⟨-, h⟩ := fieldBits_cases w <;> omega
  have hnibbles : 4 ∣ fieldBits w := by obtain ⟨-, h⟩ | ⟨-, h⟩ := fieldBits_cases w <;> omega
  exact congrArg Host.Outcome.next (laneOp_results (ss := [⟨a.toNat, 1⟩, ⟨d.toNat, 3⟩]) (k := 1)
    (G := fun _ => cvtwNarrow (fieldBits w) k.toNat (sg = 1))
    (fun l => [narrowResult (fieldBits w) k.toNat sg (s.v a.toNat l).data (s.v d.toNat l).data])
    (cvtw_legal hk) hfit (hreads.append hold) (by simp) (fun _ => rfl) (fun l => cvtwNarrow_eq hpos hnibbles (field_fits hk) _ _ _))

end

/-- Settles O11: each conversion by the words that it writes. -/
theorem laneConvert : Obligations.LaneConvert := by
  unfold Obligations.LaneConvert
  intro s d a b p
  exact ⟨fun r st dt hlegal => exec_vCvt hlegal rfl rfl, fun hfit hreads k e => ⟨exec_vCvtnPk hfit hreads, exec_vCvtnUnpk hfit hreads⟩,
    fun hfit hreads w sg k hk => ⟨exec_vCvtw_widen hk hfit hreads, exec_vCvtw_narrow hk hfit hreads⟩⟩

end Sys2Proof.Machine
end
